-- ==== Sys2Proof/Word.lean ====
section
/-!
DEFINITION. The word types of the JX-9600: what the manual treats as bits is a bit vector (00 R5, 02 R21, 05 R74).
Addresses while they name a byte of memory, counts and cycles are natural numbers.
-/

namespace Sys2Proof

/-- One byte of memory. -/
abbrev Byte := BitVec 8

/-- One 32-bit word: an instruction word, a control register (02 R21, 04 R62). -/
abbrev Word := BitVec 32

/-- The 64 bits an integer instruction works on (05 R90). -/
abbrev DWord := BitVec 64

/-- The 128 bits of a register (05 R74). -/
abbrev QWord := BitVec 128

/-- A virtual address or program counter (02 R31: modulo 2^57). -/
abbrev VAddr := BitVec 57

/-- A register number G0..G31 (02 R26). -/
abbrev Reg := Fin 32

/-- A mask-register number M0..M7 (02 R26, 08 R165). -/
abbrev MReg := Fin 8

end Sys2Proof
end

