-- ==== Sys2Proof/Syntax.lean ====
section
/-!
DEFINITION. The syntax of the JX-9600: one constructor of Instr for every row of spec/opcode_table.json, 186 bundle
instructions (02 R27-R29) and 101 events (95_what_each_step_holds.md). A single or first word does not carry its L
field; a bundle says how many words there are.
-/

namespace Sys2Proof

/-- The format codes of 07 R120; code 7 names no format. -/
inductive Fmt where
  | f32 | b16 | f16 | e4m3 | e5m2 | e2m1 | s8
  | i8 | i16 | i32 | i64 | n8 | n16 | n32 | n64
  deriving DecidableEq, Repr

/-- The rounding field RM (02 R26). -/
inductive Rm where
  | rne | rz | rd | ru | dyn
  deriving DecidableEq, Repr

/-- The comparisons of 02 R30 that both branches take. -/
inductive Cmp where
  | eq | ne | lt | ge | ltn | gen
  deriving DecidableEq, Repr

/-- The conditions of B.cc (02 R30). -/
inductive BCond where
  | cmp (c : Cmp) | smore | sdone
  deriving DecidableEq, Repr

/-- The access sizes of MEM (02 R23). -/
inductive Sz where
  | b | h | w | d | q
  deriving DecidableEq, Repr

/-- The fields of a MEM word beyond D and A (02 R23). -/
structure MemOp where
  inc : Bool
  off : BitVec 8
  rx : Bool
  am : Bool
  sz : Sz
  deriving DecidableEq, Repr

/-- The fields of a FEW word beyond D and A (02 R23). -/
structure FewOp where
  inc : Bool
  off : BitVec 8
  am : Bool
  deriving DecidableEq, Repr

/-- The operations of ATM (06 R111). -/
inductive AtmOp where
  | add | and | or | xor | min | max | minn | maxn | swap
  deriving DecidableEq, Repr

/-- The operations of ATMF (06 R113). -/
inductive AtmfOp where
  | fadd | fmin | fmax
  deriving DecidableEq, Repr

/-- The flags of an atomic: W (64-bit), AM and RX (02 R28). -/
structure AtmFlags where
  w : Bool
  am : Bool
  rx : Bool
  deriving DecidableEq, Repr

/-- X1 of CPY (06 R116). -/
structure CpyX where
  dam : Bool
  sam : Bool
  bv : Bool
  bar : Fin 512
  deriving DecidableEq, Repr

/-- X1 and X2 of CPYS (06 R118). -/
structure CpysX where
  fmt : Fmt
  sam : Bool
  bv : Bool
  bar : Fin 512
  count : Word
  deriving DecidableEq, Repr

/-- The predicates of FCMP (07 R136). -/
inductive FPred where
  | eq | lt | le | un | ne
  deriving DecidableEq, Repr

/-- The field selector of CGET (05 R97). -/
inductive CapField where
  | base | len | cur | perm | step
  deriving DecidableEq, Repr

/-- The fields of a vector word with three operands (02 R24). -/
structure VWord where
  fmt : Fmt
  msk : MReg
  vb : Reg
  va : Reg
  vd : Reg
  deriving DecidableEq, Repr

/-- The fields of a vector word whose VB selects the operation or is zero (02 R29, 08 R152). -/
structure VUnary where
  fmt : Fmt
  msk : MReg
  va : Reg
  vd : Reg
  deriving DecidableEq, Repr

/-- The predicates of VCMP (02 R29). -/
inductive VPred where
  | eq | lt | le | ne
  deriving DecidableEq, Repr

/-- The modes of GVOTE (09 R172). -/
inductive VoteMode where
  | any | all | ballot
  deriving DecidableEq, Repr

/-- The operations of GRED (09 R173). -/
inductive RedOp where
  | iadd | fadd | min | max | minn | maxn | fmin | fmax | and | or | xor
  deriving DecidableEq, Repr

/-- The operations of CRED (10 R199). -/
inductive CredOp where
  | sumI32 | sumI64 | sumF32 | min | max | maxi
  deriving DecidableEq, Repr

/-- The scopes of a fence (11 R217). -/
inductive Scope where
  | core | cluster | die | module | system
  deriving DecidableEq, Repr

/-- The PATHS field of FENCEX (11 R217). -/
structure PathSet where
  thread : Bool
  copy : Bool
  matrix : Bool
  hawk : Bool
  lineage : Bool
  combine : Bool
  deriving DecidableEq, Repr

/-- BLOAD beyond its source register: format, panel, k, n, AM, pitch (13 R233). -/
structure BloadX where
  fmt : Fmt
  p : BitVec 8
  k : BitVec 9
  n : BitVec 9
  am : Bool
  pitch : BitVec 20
  deriving DecidableEq, Repr

/-- X1 of MINIT (13 R233). -/
structure MinitX where
  tiles : BitVec 4
  row0 : BitVec 9
  rows : BitVec 9
  deriving DecidableEq, Repr

/-- X1 of MPLOAD (13 R233). -/
structure MploadX where
  t : Fin 4
  row0 : BitVec 9
  rows : BitVec 9
  am : Bool
  deriving DecidableEq, Repr

/-- The fields of MMA and MMAD beyond their registers (13 R234). -/
structure MmaX where
  fa : Fmt
  fb : Fmt
  m : BitVec 9
  row0 : BitVec 9
  p0 : BitVec 8
  t : Fin 4
  pitch : BitVec 18
  am : Bool
  k : BitVec 13
  deriving DecidableEq, Repr

/-- X1 of both drains: tile, first row, rows, columns (13 R237). -/
structure DrainX where
  t : Fin 4
  row0 : BitVec 9
  rows : BitVec 9
  ncols : BitVec 9
  deriving DecidableEq, Repr

/-- The fields of MDRAIN beyond D and X1 (13 R237). -/
structure MdrainX where
  fmt : Fmt
  mask : Bool
  clr : Bool
  rel : Bool
  am : Bool
  pitch : BitVec 20
  deriving DecidableEq, Repr

/-- The fields of MDRAINA beyond A and the drain (13 R237). -/
structure MdrainaX where
  clr : Bool
  rel : Bool
  u : Fin 4
  prow0 : BitVec 9
  pcol0 : BitVec 9
  deriving DecidableEq, Repr

/-- TLD and TST access sizes (15 R262). -/
inductive TSz where
  | b | h | w | d
  deriving DecidableEq, Repr

/-- HSEL and HSELW beyond A, B and D (18 R289); asc belongs to HSEL, wn and p to HSELW. -/
structure HselX where
  kf : Fmt
  am : Bool
  hold : Bool
  nanin : Bool
  mr : Reg
  mv : Bool
  n : BitVec 17
  deriving DecidableEq, Repr

/-- The operations of GATE (20 R304). -/
inductive GateOp where
  | read | set | add
  deriving DecidableEq, Repr

/-- The operations of QPOST (20 R304). -/
inductive PostOp where
  | add | set
  deriving DecidableEq, Repr


/-- What an uncorrectable error or a register parity error hits (21 R325). -/
inductive SoftTarget where
  | thread (tid : Nat)
  | word (key : Nat)
  /-- The buffer of a cluster's Hawkmoth engine: the command's part of it, or the held result. -/
  | hawk (cl : Nat) (held : Bool)
  deriving DecidableEq, Repr

/-- A firmware image as it is offered (23 R353): its bytes, the header of 256 first. -/
structure FwImage where
  bytes : List Byte
  deriving DecidableEq, Repr

/-- A request of the host for a firmware activation (21 R333): the image, and the host memory that takes the reply (23 R352). -/
structure FwRequest where
  img : FwImage
  reply : Nat
  deriving DecidableEq, Repr

/-- A request of the host for an attestation (23 R354): the nonce, and the host memory that takes the reply (23 R352). -/
structure AttRequest where
  nonce : List Byte
  reply : Nat
  deriving DecidableEq, Repr

/-- An access of the host to the function (23 R342, R343): a write or a read of n bytes, or a 64-bit AtomicOp. -/
inductive HostAccess where
  | write (bytes : List Byte)
  | read (n : Nat)
  | fetchAdd (v : Nat)
  | cas (expect new : Nat)
  deriving DecidableEq, Repr

/-- What a flit carries (23 R350, R351). -/
inductive FlitBody where
  /-- A message for a Gondola core. -/
  | message (k : Nat) (bytes : List Byte)
  /-- A remote copy's write of bytes at a physical address, for a context; the answer names the writer's packet. -/
  | write (ctx addr pkt : Nat) (bytes : List Byte)
  /-- Time synchronisation (01 R18): the domain's time. -/
  | time (ns : Nat)
  /-- A remote copy's answer: n bytes of a packet's transfer are written. -/
  | ack (pkt n : Nat)
  /-- The peer's links core does not admit a packet's transfer. -/
  | refuse (pkt : Nat)
  /-- A request to read n bytes at a physical address for a context; the answer names the asker's packet. -/
  | read (ctx addr n pkt : Nat)
  /-- Bytes a remote copy has read for this module's packet, from an offset on. -/
  | data (pkt off : Nat) (bytes : List Byte)
  deriving DecidableEq, Repr

/-- A received flit (23 R350): its number on the port, whether its CRC holds, what it acknowledges, its body. -/
structure Flit where
  /-- Sender's domain number, from the header. -/
  src : Nat
  seq : Nat
  crcOk : Bool
  /-- The peer has accepted every flit of the port below this number. -/
  ack : Nat
  body : FlitBody
  deriving DecidableEq, Repr

/-- What the host requests for a context (13 R227, 15 R255, 20 R317, 21 R323, R329, R334). -/
structure CtxParams where
  /-- Physical address of the level-4 table. -/
  root : Nat
  /-- Physical address from which the memory core takes further tables. -/
  tables : Nat
  f4Base : Nat
  f4Count : Nat
  b16Base : Nat
  b16Count : Nat
  /-- Sectors granted to the pool and held in reserve. -/
  grant : Nat
  reserve : Nat
  logCap : Nat
  statusCap : Nat
  /-- Save records the reserve can hold. -/
  saves : Nat
  /-- Ranges of physical addresses exported to peers: base and length (23 R351). -/
  exported : List (Nat × Nat)
  /-- Pages the memory core can give on demand: virtual address, leaf entry, level (21 R321). -/
  backing : List (VAddr × Nat × Nat)
  deriving DecidableEq, Repr

/-- A field of a loaded image that a relocation patches (03 R50, R51): the address and the bytes of the word it stands in, its lowest bit
there, its width, and whether it is signed. -/
structure FieldUse where
  addr : Nat
  size : Nat
  lo : Nat
  width : Nat
  signed : Bool
  deriving DecidableEq, Repr

/-- A .tensor of an image (03 R50): rows, columns, format code, pitch in lines, depth bound, content row by row at the pitch, scale
address, and the fields that take its TID. -/
structure TensorInit where
  rows : Nat
  cols : Nat
  fmt : Nat
  pitch : Nat
  maxd : Nat
  data : List Byte
  scale : Nat
  uses : List FieldUse
  deriving DecidableEq, Repr

/-- An image for the loader (03 R49-R51): bytes at virtual addresses, relocations with the values they resolve to, task-type entries
and tensors, and where in host memory a failure is reported (23 R352). -/
structure Image where
  bytes : List (Nat × Byte)
  relocs : List (FieldUse × Int)
  types : List (Nat × Nat)
  tensors : List TensorInit
  reply : Nat
  deriving DecidableEq, Repr

/-- A change of a translation (21 R338): the new entry, and where in host memory its completion is reported (23 R352). -/
structure EntryChange where
  leaf : Nat
  reply : Nat
  deriving DecidableEq, Repr

/-- The parameters of Bridle for one pool (20 R314). -/
structure BridleParams where
  low : Nat
  high : Nat
  minc : Nat
  maxc : Nat
  step : Nat
  settle : Nat
  deriving DecidableEq, Repr

/-- One constructor for every row of the opcode table. Events that nothing in the model schedules stand last. -/
inductive Instr where
  /-- B.cc (04 R63) -/
  | bCc (cc : BCond) (a b : Reg) (off : BitVec 9)
  /-- B.cc extended (04 R63) -/
  | bCcX (cc : BCond) (a b : Reg) (off : Word)
  /-- BI.cc (04 R63) -/
  | biCc (cc : Cmp) (a : Reg) (imm : BitVec 5) (off : BitVec 9)
  /-- BI.cc extended (04 R63) -/
  | biCcX (cc : Cmp) (a : Reg) (imm : Word) (off : Word)
  /-- J, JAL (04 R64) -/
  | j (off : BitVec 24)
  | jal (d : Reg) (off : BitVec 19)
  /-- Slot control (04 R65-R71) -/
  | jalr (d a : Reg)
  | spawn (d a b : Reg)
  | waitt (a : Reg)
  | sleep (a : Reg)
  | ppt (mask : Word)
  /-- Control registers (04 R72) -/
  | crr (crn : BitVec 9) (d : Reg)
  | crw (crn : BitVec 9) (a : Reg)
  /-- TRAP (04 R73) -/
  | trap (code : BitVec 9)
  /-- Integer ALU (05 R91) -/
  | add (d a b : Reg)
  | sub (d a b : Reg)
  | and (d a b : Reg)
  | or (d a b : Reg)
  | xor (d a b : Reg)
  | andn (d a b : Reg)
  | shl (d a b : Reg)
  | shr (d a b : Reg)
  | sra (d a b : Reg)
  | rol (d a b : Reg)
  | min (d a b : Reg)
  | max (d a b : Reg)
  | minn (d a b : Reg)
  | maxn (d a b : Reg)
  | slt (d a b : Reg)
  | sltn (d a b : Reg)
  /-- Multiply and divide (05 R92) -/
  | mul (d a b : Reg)
  | mulh (d a b : Reg)
  | mulhn (d a b : Reg)
  | div (d a b : Reg)
  | divn (d a b : Reg)
  | rem (d a b : Reg)
  | remn (d a b : Reg)
  | clz (d a : Reg)
  | ctz (d a : Reg)
  | popc (d a : Reg)
  /-- SEL (05 R93) -/
  | sel (d a b c : Reg)
  /-- Immediates (05 R94) -/
  | addi (d a : Reg) (imm : BitVec 14)
  | andi (d a : Reg) (imm : BitVec 14)
  | ori (d a : Reg) (imm : BitVec 14)
  | xori (d a : Reg) (imm : BitVec 14)
  | slti (d a : Reg) (imm : BitVec 14)
  | shli (d a : Reg) (sh : BitVec 6)
  | shri (d a : Reg) (sh : BitVec 6)
  | srai (d a : Reg) (sh : BitVec 6)
  /-- LI (05 R95) -/
  | li (d : Reg) (imm : BitVec 19)
  | liX (d : Reg) (imm : DWord)
  /-- Kinds and capabilities (05 R96-R98) -/
  | mov (d a : Reg)
  | move (d a : Reg)
  | kind (d a : Reg)
  | cget (f : CapField) (d a : Reg)
  | csetb (d a b : Reg)
  | csetp (d a b : Reg)
  | csetc (d a b : Reg)
  | cinc (d a b : Reg)
  /-- Loads and stores (06 R105) -/
  | ld (op : MemOp) (d a : Reg)
  | st (op : MemOp) (d a : Reg)
  /-- Full/empty (06 R109) -/
  | lds (op : FewOp) (d a : Reg)
  | sts (op : FewOp) (d a : Reg)
  | fest (op : FewOp) (d a : Reg)
  | feget (op : FewOp) (d a : Reg)
  /-- Atomics (06 R111-R113) -/
  | atm (op : AtmOp) (f : AtmFlags) (d a b : Reg)
  | atmCas (f : AtmFlags) (d a b c : Reg)
  | atmf (op : AtmfOp) (am rx : Bool) (d a b : Reg)
  /-- Copies (06 R116, R118) -/
  | cpy (x : CpyX) (d a b : Reg)
  | cpyAt (x : CpyX) (d a b : Reg) (time : DWord)
  | cpys (x : CpysX) (d a b : Reg)
  | cpysAt (x : CpysX) (d a b : Reg) (time : DWord)
  /-- Scalar float (07 R132, R133) -/
  | fadd (rm : Rm) (d a b : Reg)
  | fsub (rm : Rm) (d a b : Reg)
  | fmul (rm : Rm) (d a b : Reg)
  | fdiv (rm : Rm) (d a b : Reg)
  | fsqrt (rm : Rm) (d a : Reg)
  | fmin (d a b : Reg)
  | fmax (d a b : Reg)
  | fcmp (p : FPred) (d a b : Reg)
  | fclass (d a : Reg)
  | ffma (rm : Rm) (d a b c : Reg)
  /-- Conversion and image (07 R138) -/
  | cvt (rm : Rm) (src dst : Fmt) (d a : Reg)
  | img (fmt : Fmt) (d a : Reg)
  | imgi (fmt : Fmt) (d a : Reg)
  /-- Streams (08 R144, R145) -/
  | sbind (write : Bool) (fmt : Fmt) (d a b : Reg)
  | scnt (d a : Reg)
  /-- Vector words (08 R152) -/
  | vadd (v : VWord)
  | vsub (v : VWord)
  | vmul (v : VWord)
  | vfma (v : VWord)
  | vmin (v : VWord)
  | vmax (v : VWord)
  | vsel (v : VWord)
  | vcx (v : VWord)
  | vcmp (p : VPred) (v : VWord)
  | vand (v : VWord)
  | vor (v : VWord)
  | vxor (v : VWord)
  | vshl (v : VWord)
  | vshr (v : VWord)
  | viadd (v : VWord)
  | visub (v : VWord)
  | vimul (v : VWord)
  | vred (v : VUnary)
  | vscan (v : VWord)
  | vabs (v : VUnary)
  | vneg (v : VUnary)
  | vexp2 (v : VUnary)
  | vlog2 (v : VUnary)
  | vrcp (v : VUnary)
  | vrsq (v : VUnary)
  | vtanh (v : VUnary)
  | vmov (v : VUnary)
  | vsplat (v : VUnary)
  | vcvt (v : VUnary)
  | vgath (v : VWord)
  | vscat (v : VWord)
  /-- Mask registers (08 R166) -/
  | movmMg (d : Reg) (a : MReg)
  | movmGm (d : MReg) (a : Reg)
  | mand (d a b : MReg)
  | mor (d a b : MReg)
  | mxor (d a b : MReg)
  | mnot (d a : MReg)
  | mpop (d : Reg) (a : MReg)
  | mff (d : Reg) (a : MReg)
  /-- Groups (09 R168-R174) -/
  | gjoin (g : Fin 16)
  | gleave (g : Fin 16)
  | gshfl (g : Fin 16) (d a b : Reg)
  | gvote (g : Fin 16) (m : VoteMode) (d a : Reg)
  | gmatch (g : Fin 16) (d a : Reg)
  | gred (g : Fin 16) (op : RedOp) (d a : Reg)
  | gxld (g : Fin 16) (wide am : Bool) (d a : Reg)
  /-- Barriers (09 R178-R185) -/
  | binit (n : Fin 512) (a : Reg)
  | barr (n : Fin 512)
  | bwait (n : Fin 512) (d : Reg)
  | bsync (n : Fin 512) (d : Reg)
  | bexp (n : Fin 512) (a : Reg)
  | cstat (n : Fin 512) (a : Reg)
  /-- Messages and ports (10 R191-R198) -/
  | send (tag : BitVec 8) (a b : Reg)
  | sendh (tag : BitVec 8) (a b : Reg)
  | pbind (d : Reg)
  | btag (a b : Reg)
  | peek (d a : Reg)
  | loopb (d a b : Reg)
  /-- CRED (10 R199) -/
  | cred (op : CredOp) (d a b : Reg)
  /-- Fences (11 R217) -/
  | fence (s : Scope)
  | fencex (s : Scope) (p : PathSet)
  /-- Matrix set-up, products and drains (13 R233-R239) -/
  | bload (x : BloadX) (a : Reg)
  | minit (x : MinitX) (a : Reg)
  | mpload (x : MploadX) (a : Reg)
  | mstat (t : Fin 4) (d : Reg)
  | mma (x : MmaX) (a : Reg)
  | mmad (x : MmaX) (d a : Reg)
  | mdrain (x : DrainX) (y : MdrainX) (d : Reg)
  | mdrainAt (x : DrainX) (y : MdrainX) (d : Reg) (time : DWord)
  | mdraina (x : DrainX) (y : MdrainaX) (a : Reg)
  | mdrainaAt (x : DrainX) (y : MdrainaX) (a : Reg) (time : DWord)
  /-- Lineage (15 R256); t is .T, nf is .NF, s the status register -/
  | tnew (rows cols : BitVec 24) (fmt : Fmt) (maxd : BitVec 4) (d a b : Reg)
  | topen (colb coln : BitVec 24) (keep : BitVec 4) (d a b : Reg)
  | fork (t nf : Bool) (d a s : Reg)
  | rebase (t : Bool) (a b s : Reg)
  | flat (t : Bool) (a s : Reg)
  | tfree (t : Bool) (a s : Reg)
  | tinfo (q : Fin 4) (d a : Reg)
  | trd (d a : Reg)
  | twr (t : Bool) (a b s : Reg)
  | tld (sz : TSz) (d a i : Reg) (off : Word)
  | tst (t : Bool) (sz : TSz) (d a i s : Reg) (off : Word)
  /-- Cocoon (17 R274-R279) -/
  | calloc (d a : Reg)
  | csplit (col : Bool) (d a b : Reg)
  | cjoin (d a b : Reg)
  | cfree (a : Reg)
  | cshape (d a : Reg)
  /-- Hawkmoth (18 R289-R293) -/
  | hsel (asc : Bool) (x : HselX) (d a b : Reg)
  | hselw (wn : Bool) (x : HselX) (p : Word) (d a b : Reg)
  | hmask (d a : Reg)
  | hstat (d : Reg)
  /-- Tasks (20 R304-R309) -/
  | tsub (a b : Reg)
  | tsubAt (a b : Reg) (time : DWord)
  | gate (op : GateOp) (d a b : Reg)
  | trec (q : Fin 3) (d : Reg)
  | qpost (op : PostOp) (a b : Reg)
  /-- RELAXED_LOAD_REPLY (R88) -/
  | relaxedLoadReply (r : Nat)
  /-- RELAXED_ACCESS_COMPLETE (R106) -/
  | relaxedAccessComplete (r : Nat)
  /-- FAR_ACCESS_REPLY (R104) -/
  | farAccessReply (r : Nat)
  /-- ACCESS_PERFORMED (R209) -/
  | accessPerformed (r : Nat)
  /-- FE_FIRST_TEST (R110) -/
  | feFirstTest (r : Nat)
  /-- FE_RETRY_TICK (R110) -/
  | feRetryTick (r : Nat)
  /-- STREAM_READAHEAD_ARRIVAL (R148) -/
  | streamReadaheadArrival (r : Nat)
  /-- STREAM_WRITE_ACK (R148) -/
  | streamWriteAck (r : Nat)
  /-- ENGINE_ACCEPT (R15) -/
  | engineAccept (r : Nat)
  /-- ENGINE_AT_START (R119) -/
  | engineAtStart (r : Nat)
  /-- COPY_WRITE (R180) -/
  | copyWrite (r : Nat)
  /-- CPYS_RING_WRITE (R118) -/
  | cpysRingWrite (r : Nat)
  /-- COPY_COMPLETE (R115) -/
  | copyComplete (r : Nat)
  /-- PAGE_WALK_START (R337) -/
  | pageWalkStart (cl : Nat)
  /-- WALK_COMPLETE (R337) -/
  | walkComplete (r : Nat)
  /-- FAULT_DECISION (R322) -/
  | faultDecision (r : Nat)
  /-- XLATE_RESOLVE (R321) -/
  | xlateResolve (r : Nat)
  /-- POOL_RESOLVE (R321) -/
  | poolResolve (r : Nat)
  /-- BARRIER_FORWARD (R177) -/
  | barrierForward (r : Nat)
  /-- BARRIER_COMPLETION_NOTICE (R181) -/
  | barrierCompletionNotice (r : Nat)
  /-- BAR_TIMEOUT (R183) -/
  | barTimeout (core bar phase : Nat)
  /-- CSTAT_RECORD_WRITE (R185) -/
  | cstatRecordWrite (r : Nat)
  /-- GXLD_ROWS_ARRIVE (R174) -/
  | gxldRowsArrive (core g : Nat)
  /-- MESSAGE_ARRIVAL (R188) -/
  | messageArrival (r : Nat)
  /-- MESSAGE_REOFFER (R188) -/
  | messageReoffer (core slot : Nat)
  /-- SENDH_ANSWER (R191) -/
  | sendhAnswer (r : Nat)
  /-- COMBINE_PACKET (R200) -/
  | combinePacket (r : Nat)
  /-- CRED_ROOT_DELIVERY (R202) -/
  | credRootDelivery (r : Nat)
  /-- MINIT_CLAIM_GRANT (R233) -/
  | minitClaimGrant (cl : Nat)
  /-- MATRIX_COMPLETE (R232) -/
  | matrixComplete (r : Nat)
  /-- MDRAINA_CONFIRM (R239) -/
  | mdrainaConfirm (r : Nat)
  /-- MDRAINA_PEER_ADD (R239) -/
  | mdrainaPeerAdd (r : Nat)
  /-- HAWK_COMPLETE (R291) -/
  | hawkComplete (r : Nat)
  /-- HELD_RESULT_RESTORE (R284) -/
  | heldResultRestore (owner : Nat)
  /-- LINEAGE_OPERATION (R214) -/
  | lineageOperation (r : Nat)
  /-- LINEAGE_REPLY (R256) -/
  | lineageReply (r : Nat)
  /-- PIN_DROP (R251) -/
  | pinDrop (ctx node : Nat)
  /-- COCOON_TABLE_SERVE (R280) -/
  | cocoonTableServe (cl : Nat)
  /-- GRANULE_SCRUB_DONE (R267) -/
  | granuleScrubDone (cl r : Nat)
  /-- UNIT_SCRUB_DONE (R100) -/
  | unitScrubDone (core r : Nat)
  /-- THREAD_READY (R59) -/
  | threadReady (r : Nat)
  /-- DISPATCH_DECISION (R310) -/
  | dispatchDecision (die pool : Nat)
  /-- THREAD_SAVE (R326) -/
  | threadSave (tid : Nat)
  /-- FORCED_SAVE (R327) -/
  | forcedSave (owner : Nat)
  /-- TASK_SAVE (R328) -/
  | taskSave (owner : Nat)
  /-- TASK_SAVE_COMPLETE (R328) -/
  | taskSaveComplete (owner : Nat)
  /-- TASK_END (R61) -/
  | taskEnd (owner core : Nat)
  /-- POPULATION_DEFERRED_PLACE (R316) -/
  | populationDeferredPlace (owner core : Nat)
  /-- LAUNCH_AT_RELEASE (R315) -/
  | launchAtRelease (owner core : Nat)
  /-- GATE_APPLY (R304) -/
  | gateApply (r : Nat)
  /-- GATE_REPLY (R304) -/
  | gateReply (r : Nat)
  /-- TSUB_AT_INSERT (R305) -/
  | tsubAtInsert (r : Nat)
  /-- SIGNAL_UPDATE (R347) -/
  | signalUpdate (r : Nat)
  /-- SETTLE_EXPIRE (R314) -/
  | settleExpire (pool : Nat)
  /-- PACKET_BEGIN (R315) -/
  | packetBegin (r : Nat)
  /-- PACKET_COMPLETE (R315) -/
  | packetComplete (r : Nat)
  /-- ARRIVAL_COUNTED (R222) -/
  | arrivalCounted (tid : Nat)
  /-- WAITT_WAKE (R70) -/
  | waittWake (tid : Nat)
  /-- SLEEP_WAKE (R70) -/
  | sleepWake (tid : Nat)
  /-- QPOST_ACKNOWLEDGEMENT (R309) -/
  | qpostAcknowledgement (r : Nat)
  /-- WINDOW_WRITE (R89) -/
  | windowWrite (r : Nat)
  /-- MAILBOX_MESSAGE (R352) -/
  | mailboxMessage (k : Nat) (bytes : List Byte)
  /-- COPY_ERROR (R117) -/
  | copyError (r : Nat)
  /-- MATRIX_VIOLATION (R231) -/
  | matrixViolation (r : Nat)
  /-- SIGNAL_ENTRY_WRITE (R349) -/
  | signalEntryWrite (ctx idx : Nat) (entry : BitVec 256)
  /-- WPTR (R344) -/
  | wptr (ctx q : Nat) (value : Word)
  /-- RESET (R344) -/
  | reset (ctx q : Nat)
  /-- LAUNCH_PACKET (R316) -/
  | launchPacket (r : Nat)
  /-- TASKS_PACKET (R315) -/
  | tasksPacket (r : Nat)
  /-- SIGNAL_PACKET (R315) -/
  | signalPacket (r : Nat)
  /-- WAIT_PACKET (R315) -/
  | waitPacket (r : Nat)
  /-- TIMER_PACKET (R315) -/
  | timerPacket (r : Nat)
  /-- COPY_PACKET (R315) -/
  | copyPacket (r : Nat)
  /-- FENCE_PACKET (R315) -/
  | fencePacket (r : Nat)
  /-- STATUS_ENTRY_WRITE (R317) -/
  | statusEntryWrite (ctx : Nat)
  /-- ECC_CORRECTED (R20) -/
  | eccCorrected (at_ : Nat)
  /-- SOFT_ERR (R325) -/
  | softErr (t : SoftTarget)
  /-- TRANSLATION_CHANGE (R338) -/
  | translationChange (ctx : Nat) (va : VAddr) (entry : EntryChange) (level : Nat)
  /-- HOST_MAILBOX_WRITE (R352) -/
  | hostMailboxWrite (bytes : List Byte)
  /-- BAR_WRITE (R343): at an offset of a BAR, or with none at the physical address of a counter (R342) -/
  | barWrite (bar : Option Nat) (addr : Nat) (a : HostAccess)
  /-- FIRMWARE_ACTIVATION (R333) -/
  | firmwareActivation (r : FwRequest)
  /-- ATTESTATION_REQUEST (R354) -/
  | attestationRequest (r : AttRequest)
  /-- MEASUREMENT_EXTEND (R354) -/
  | measurementExtend (k : Nat) (digest : Nat)
  /-- DOMAIN_JOIN (R18) -/
  | domainJoin (domain time : Nat)
  /-- FLIT_RECEIVE (R350) -/
  | flitReceive (port : Nat) (flit : Flit)
  /-- PORT_RETRAIN (R350) -/
  | portRetrain (port : Nat)
  /-- CONTEXT_CREATE (R227) -/
  | contextCreate (ctx : Nat) (p : CtxParams)
  /-- ROOT_REGISTER (R81) -/
  | rootRegister (ctx k : Nat) (cap : QWord)
  /-- IMAGE_LOAD (R51) -/
  | imageLoad (ctx : Nat) (img : Image)
  /-- HOST_TENSOR_FREE (R251) -/
  | hostTensorFree (ctx node : Nat)
  /-- COCOON_REGION_SET (R267) -/
  | cocoonRegionSet (c : Nat)
  /-- POOL_ASSIGN (R299) -/
  | poolAssign (pools : List Nat)
  /-- BRIDLE_SET (R314) -/
  | bridleSet (pool : Nat) (p : BridleParams)
  /-- FETCH_FAULT (R37) -/
  | fetchFault (perm : Bool) (addr : Nat)
  /-- QUEUE_CREATE (R344) -/
  | queueCreate (ctx q base k : Nat)
  | exit
  /-- NOP (04 R66) -/
  | nop
  | tdone
  /-- BRIDLE_EVALUATE (R314) -/
  | bridleEvaluate
  /-- PACKET_FETCH (R315) -/
  | packetFetch
  /-- FORCED_ACTIVATION (R333) -/
  | forcedActivation
  /-- SVN_RAISE (R353) -/
  | svnRaise
  /-- COLD_RESET (R355) -/
  | coldReset
  /-- ILLEGAL_ENCODING (R36) -/
  | illegalEncoding
  deriving DecidableEq, Repr

/-- A bundle (02 R21): a single, extended or literal instruction, or a pair of a first word and a vector word. -/
structure Bundle where
  first : Instr
  vec : Option Instr
  deriving DecidableEq, Repr

end Sys2Proof
end

