-- ==== Sys2Proof/WellFormed.lean ====
section
/-!
DEFINITION. Which instructions and bundles are encodings of the hardware: the checks of 02 R26, R28, R32, R33, R36 that
the words and the thread's register count decide. A bundle that fails one is ILLEGAL.
-/

namespace Sys2Proof

/-- Float16+ of 08 R152. -/
def Fmt.isFloat16 : Fmt → Bool
  | .f32 | .b16 | .f16 => true
  | _ => false

/-- Int of 08 R152. -/
def Fmt.isVecInt : Fmt → Bool
  | .i8 | .i16 | .i32 | .n8 | .n16 | .n32 => true
  | _ => false

/-- The formats with a stream form (08 R143). -/
def Fmt.hasStream : Fmt → Bool
  | .i64 | .n64 => false
  | _ => true

/-- The formats of a matrix operand (13 R225, R226). -/
def Fmt.isMatrix : Fmt → Bool
  | .e2m1 | .b16 | .f16 | .e4m3 | .e5m2 => true
  | _ => false

/-- The products 13 R226 allows; the cluster's class is checked at issue. -/
def Fmt.productOk : Fmt → Fmt → Bool
  | .e2m1, .e2m1 | .b16, .b16 | .f16, .f16 => true
  | .e4m3, .e4m3 | .e4m3, .e5m2 | .e5m2, .e4m3 | .e5m2, .e5m2 => true
  | _, _ => false

/-- The destination formats of a drain (13 R226). -/
def Fmt.isDrain : Fmt → Bool
  | .f32 | .b16 | .f16 | .e4m3 | .e5m2 => true
  | _ => false

/-- The key formats of a selection (18 R290). -/
def Fmt.isKey : Fmt → Bool
  | .e2m1 | .s8 => false
  | _ => true

/-- The control-register numbers 04 R62 assigns. -/
def crnAssigned (c : Nat) : Bool :=
  c ≤ 0x007 || (0x010 ≤ c && c ≤ 0x012) || (0x018 ≤ c && c ≤ 0x01A) || (0x020 ≤ c && c ≤ 0x027)

/-- Every register an instruction names (02 R26). -/
def Instr.regs : Instr → List Reg
  | .bCc _ a b _ => [a, b]
  | .bCcX _ a b _ => [a, b]
  | .biCc _ a _ _ => [a]
  | .biCcX _ a _ _ => [a]
  | .j _ => []
  | .jal d _ => [d]
  | .jalr d a => [d, a]
  | .spawn d a b => [d, a, b]
  | .exit => []
  | .waitt a => [a]
  | .sleep a => [a]
  | .ppt _ => []
  | .crr _ d => [d]
  | .crw _ a => [a]
  | .trap _ => []
  | .nop => []
  | .add d a b => [d, a, b]
  | .sub d a b => [d, a, b]
  | .and d a b => [d, a, b]
  | .or d a b => [d, a, b]
  | .xor d a b => [d, a, b]
  | .andn d a b => [d, a, b]
  | .shl d a b => [d, a, b]
  | .shr d a b => [d, a, b]
  | .sra d a b => [d, a, b]
  | .rol d a b => [d, a, b]
  | .min d a b => [d, a, b]
  | .max d a b => [d, a, b]
  | .minn d a b => [d, a, b]
  | .maxn d a b => [d, a, b]
  | .slt d a b => [d, a, b]
  | .sltn d a b => [d, a, b]
  | .mul d a b => [d, a, b]
  | .mulh d a b => [d, a, b]
  | .mulhn d a b => [d, a, b]
  | .div d a b => [d, a, b]
  | .divn d a b => [d, a, b]
  | .rem d a b => [d, a, b]
  | .remn d a b => [d, a, b]
  | .clz d a => [d, a]
  | .ctz d a => [d, a]
  | .popc d a => [d, a]
  | .sel d a b c => [d, a, b, c]
  | .addi d a _ => [d, a]
  | .andi d a _ => [d, a]
  | .ori d a _ => [d, a]
  | .xori d a _ => [d, a]
  | .slti d a _ => [d, a]
  | .shli d a _ => [d, a]
  | .shri d a _ => [d, a]
  | .srai d a _ => [d, a]
  | .li d _ => [d]
  | .liX d _ => [d]
  | .mov d a => [d, a]
  | .move d a => [d, a]
  | .kind d a => [d, a]
  | .cget _ d a => [d, a]
  | .csetb d a b => [d, a, b]
  | .csetp d a b => [d, a, b]
  | .csetc d a b => [d, a, b]
  | .cinc d a b => [d, a, b]
  | .ld _ d a => [d, a]
  | .st _ d a => [d, a]
  | .lds _ d a => [d, a]
  | .sts _ d a => [d, a]
  | .fest _ d a => [d, a]
  | .feget _ d a => [d, a]
  | .atm _ _ d a b => [d, a, b]
  | .atmCas _ d a b c => [d, a, b, c]
  | .atmf _ _ _ d a b => [d, a, b]
  | .cpy _ d a b => [d, a, b]
  | .cpyAt _ d a b _ => [d, a, b]
  | .cpys _ d a b => [d, a, b]
  | .cpysAt _ d a b _ => [d, a, b]
  | .fadd _ d a b => [d, a, b]
  | .fsub _ d a b => [d, a, b]
  | .fmul _ d a b => [d, a, b]
  | .fdiv _ d a b => [d, a, b]
  | .fsqrt _ d a => [d, a]
  | .fmin d a b => [d, a, b]
  | .fmax d a b => [d, a, b]
  | .fcmp _ d a b => [d, a, b]
  | .fclass d a => [d, a]
  | .ffma _ d a b c => [d, a, b, c]
  | .cvt _ _ _ d a => [d, a]
  | .img _ d a => [d, a]
  | .imgi _ d a => [d, a]
  | .sbind _ _ d a b => [d, a, b]
  | .scnt d a => [d, a]
  | .vadd v => [v.va, v.vd, v.vb]
  | .vsub v => [v.va, v.vd, v.vb]
  | .vmul v => [v.va, v.vd, v.vb]
  | .vfma v => [v.va, v.vd, v.vb]
  | .vmin v => [v.va, v.vd, v.vb]
  | .vmax v => [v.va, v.vd, v.vb]
  | .vsel v => [v.va, v.vd, v.vb]
  | .vcx v => [v.va, v.vd, v.vb]
  | .vcmp _ v => [v.va, v.vd, v.vb]
  | .vand v => [v.va, v.vd, v.vb]
  | .vor v => [v.va, v.vd, v.vb]
  | .vxor v => [v.va, v.vd, v.vb]
  | .vshl v => [v.va, v.vd, v.vb]
  | .vshr v => [v.va, v.vd, v.vb]
  | .viadd v => [v.va, v.vd, v.vb]
  | .visub v => [v.va, v.vd, v.vb]
  | .vimul v => [v.va, v.vd, v.vb]
  | .vred v => [v.va, v.vd]
  | .vscan v => [v.va, v.vd, v.vb]
  | .vabs v => [v.va, v.vd]
  | .vneg v => [v.va, v.vd]
  | .vexp2 v => [v.va, v.vd]
  | .vlog2 v => [v.va, v.vd]
  | .vrcp v => [v.va, v.vd]
  | .vrsq v => [v.va, v.vd]
  | .vtanh v => [v.va, v.vd]
  | .vmov v => [v.va, v.vd]
  | .vsplat v => [v.va, v.vd]
  | .vcvt v => [v.va, v.vd]
  | .vgath v => [v.va, v.vd, v.vb]
  | .vscat v => [v.va, v.vd, v.vb]
  | .movmMg d _ => [d]
  | .movmGm _ a => [a]
  | .mand _ _ _ => []
  | .mor _ _ _ => []
  | .mxor _ _ _ => []
  | .mnot _ _ => []
  | .mpop d _ => [d]
  | .mff d _ => [d]
  | .gjoin _ => []
  | .gleave _ => []
  | .gshfl _ d a b => [d, a, b]
  | .gvote _ _ d a => [d, a]
  | .gmatch _ d a => [d, a]
  | .gred _ _ d a => [d, a]
  | .gxld _ _ _ d a => [d, a]
  | .binit _ a => [a]
  | .barr _ => []
  | .bwait _ d => [d]
  | .bsync _ d => [d]
  | .bexp _ a => [a]
  | .cstat _ a => [a]
  | .send _ a b => [a, b]
  | .sendh _ a b => [a, b]
  | .pbind d => [d]
  | .btag a b => [a, b]
  | .peek d a => [d, a]
  | .loopb d a b => [d, a, b]
  | .cred _ d a b => [d, a, b]
  | .fence _ => []
  | .fencex _ _ => []
  | .bload _ a => [a]
  | .minit _ a => [a]
  | .mpload _ a => [a]
  | .mstat _ d => [d]
  | .mma _ a => [a]
  | .mmad _ d a => [d, a]
  | .mdrain _ _ d => [d]
  | .mdrainAt _ _ d _ => [d]
  | .mdraina _ _ a => [a]
  | .mdrainaAt _ _ a _ => [a]
  | .tnew _ _ _ _ d a b => [d, a, b]
  | .topen _ _ _ d a b => [d, a, b]
  | .fork _ _ d a s => [d, a, s]
  | .rebase _ a b s => [a, b, s]
  | .flat _ a s => [a, s]
  | .tfree _ a s => [a, s]
  | .tinfo _ d a => [d, a]
  | .trd d a => [d, a]
  | .twr _ a b s => [a, b, s]
  | .tld _ d a i _ => [d, a, i]
  | .tst _ _ d a i s _ => [d, a, i, s]
  | .calloc d a => [d, a]
  | .csplit _ d a b => [d, a, b]
  | .cjoin d a b => [d, a, b]
  | .cfree a => [a]
  | .cshape d a => [d, a]
  | .hsel _ x d a b => [x.mr, d, a, b]
  | .hselw _ x _ d a b => [x.mr, d, a, b]
  | .hmask d a => [d, a]
  | .hstat d => [d]
  | .tsub a b => [a, b]
  | .tsubAt a b _ => [a, b]
  | .tdone => []
  | .gate _ d a b => [d, a, b]
  | .trec _ d => [d]
  | .qpost _ a b => [a, b]
  | .relaxedLoadReply _ => []
  | .relaxedAccessComplete _ => []
  | .farAccessReply _ => []
  | .accessPerformed _ => []
  | .windowWrite _ => []
  | .feFirstTest _ => []
  | .feRetryTick _ => []
  | .streamReadaheadArrival _ => []
  | .streamWriteAck _ => []
  | .engineAccept _ => []
  | .engineAtStart _ => []
  | .copyWrite _ => []
  | .cpysRingWrite _ => []
  | .copyComplete _ => []
  | .copyError _ => []
  | .pageWalkStart _ => []
  | .walkComplete _ => []
  | .faultDecision _ => []
  | .xlateResolve _ => []
  | .poolResolve _ => []
  | .arrivalCounted _ => []
  | .barrierForward _ => []
  | .barrierCompletionNotice _ => []
  | .barTimeout _ _ _ => []
  | .cstatRecordWrite _ => []
  | .gxldRowsArrive _ _ => []
  | .messageArrival _ => []
  | .messageReoffer _ _ => []
  | .sendhAnswer _ => []
  | .combinePacket _ => []
  | .credRootDelivery _ => []
  | .minitClaimGrant _ => []
  | .matrixComplete _ => []
  | .matrixViolation _ => []
  | .mdrainaConfirm _ => []
  | .mdrainaPeerAdd _ => []
  | .hawkComplete _ => []
  | .heldResultRestore _ => []
  | .lineageOperation _ => []
  | .lineageReply _ => []
  | .pinDrop _ _ => []
  | .cocoonTableServe _ => []
  | .granuleScrubDone _ _ => []
  | .unitScrubDone _ _ => []
  | .threadReady _ => []
  | .dispatchDecision _ _ => []
  | .threadSave _ => []
  | .forcedSave _ => []
  | .taskSave _ => []
  | .taskSaveComplete _ => []
  | .taskEnd _ _ => []
  | .populationDeferredPlace _ _ => []
  | .launchAtRelease _ _ => []
  | .gateApply _ => []
  | .gateReply _ => []
  | .tsubAtInsert _ => []
  | .signalUpdate _ => []
  | .signalEntryWrite _ _ _ => []
  | .bridleEvaluate => []
  | .settleExpire _ => []
  | .wptr _ _ _ => []
  | .reset _ _ => []
  | .packetFetch => []
  | .packetBegin _ => []
  | .launchPacket _ => []
  | .tasksPacket _ => []
  | .signalPacket _ => []
  | .waitPacket _ => []
  | .timerPacket _ => []
  | .copyPacket _ => []
  | .fencePacket _ => []
  | .packetComplete _ => []
  | .statusEntryWrite _ => []
  | .eccCorrected _ => []
  | .softErr _ => []
  | .translationChange _ _ _ _ => []
  | .hostMailboxWrite _ => []
  | .mailboxMessage _ _ => []
  | .barWrite _ _ _ => []
  | .firmwareActivation _ => []
  | .forcedActivation => []
  | .attestationRequest _ => []
  | .measurementExtend _ _ => []
  | .svnRaise => []
  | .coldReset => []
  | .domainJoin _ _ => []
  | .flitReceive _ _ => []
  | .portRetrain _ => []
  | .contextCreate _ _ => []
  | .rootRegister _ _ _ => []
  | .imageLoad _ _ => []
  | .hostTensorFree _ _ => []
  | .cocoonRegionSet _ => []
  | .poolAssign _ => []
  | .bridleSet _ _ => []
  | .waittWake _ => []
  | .sleepWake _ => []
  | .illegalEncoding => []
  | .fetchFault _ _ => []
  | .queueCreate _ _ _ _ => []
  | .qpostAcknowledgement _ => []

/-- The formats each vector word accepts (08 R152). -/
def Instr.vecFmtOk : Instr → Bool
  | .vadd v | .vsub v | .vmul v | .vfma v => v.fmt.isFloat16
  | .vmin v | .vmax v | .vcmp _ v => v.fmt.isFloat16 || v.fmt.isVecInt
  | .vsel v | .vcx v | .vgath v | .vscat v => v.fmt.hasStream && v.fmt != .e2m1
  | .vand v | .vor v | .vxor v | .vshl v | .vshr v | .viadd v | .visub v | .vimul v => v.fmt.isVecInt
  | .vred v => v.fmt.isFloat16 || v.fmt.isVecInt
  | .vscan v => v.fmt == .f32 || v.fmt == .i32 || v.fmt == .n32
  | .vabs v | .vneg v => v.fmt.isFloat16 || v.fmt == .i8 || v.fmt == .i16 || v.fmt == .i32
  | .vexp2 v | .vlog2 v | .vrcp v | .vrsq v | .vtanh v => v.fmt == .f32
  | .vmov v | .vsplat v | .vcvt v => v.fmt.hasStream
  | _ => true

/-- The checks on a single instruction's own fields (02 R28, R30; the chapter of each instruction), with n the register
count. A CPYS count of 0 is ILLEGAL (DEDUCED, log entry 52). -/
def Instr.fieldsOk (n : Nat) : Instr → Bool
  | .bCc .smore _ b _ | .bCc .sdone _ b _ | .bCcX .smore _ b _ | .bCcX .sdone _ b _ => b == 0
  | .ppt mask => mask.toNat / 2 ^ n == 0
  | .crr c _ | .crw c _ => crnAssigned c.toNat
  | .ld op d a => !(op.inc && d == a)
  | .lds op d a | .feget op d a => !(op.inc && d == a)
  | .cpy x _ _ _ | .cpyAt x _ _ _ _ => x.bv || x.bar == 0
  | .cpys x _ _ _ | .cpysAt x _ _ _ _ => x.fmt.hasStream && (x.bv || x.bar == 0) && x.count != 0
  | .sbind _ f _ _ _ => f.hasStream
  | .fencex _ p => p.thread || p.copy || p.matrix || p.hawk || p.lineage || p.combine
  | .bload x _ => x.fmt.isMatrix
  | .mma x _ => Fmt.productOk x.fa x.fb
  | .mmad x _ _ => Fmt.productOk x.fa x.fb && x.pitch == 0
  | .mdrain _ y _ | .mdrainAt _ y _ _ => y.fmt.isDrain
  | .fork t nf _ _ s => t || nf || s == 0
  | .rebase t _ _ s | .twr t _ _ s => t || s == 0
  | .flat t _ s | .tfree t _ s => t || s == 0
  | .tst t _ _ _ _ s _ => t || s == 0
  | .csplit _ d _ _ => d != 0 && d.val + 1 < n
  | .hsel _ x d _ _ => x.kf.isKey && d != 0 && d.val + 1 < n && (x.mv || x.mr == 0)
  | .hselw _ x _ d _ _ => x.kf.isKey && d != 0 && d.val + 1 < n && (x.mv || x.mr == 0)
  | i => i.vecFmtOk

/-- A well-formed instruction for a thread of n registers. -/
def Instr.wf (n : Nat) (i : Instr) : Bool :=
  i.regs.all (fun r => r.val < n) && i.fieldsOk n

/-- The vector words, which stand only second in a pair (02 R29). -/
def Instr.isVector : Instr → Bool
  | .vadd _ | .vsub _ | .vmul _ | .vfma _ | .vmin _ | .vmax _ | .vsel _ | .vcx _ | .vcmp _ _ => true
  | .vand _ | .vor _ | .vxor _ | .vshl _ | .vshr _ | .viadd _ | .visub _ | .vimul _ | .vred _ | .vscan _ => true
  | .vabs _ | .vneg _ | .vexp2 _ | .vlog2 _ | .vrcp _ | .vrsq _ | .vtanh _ | .vmov _ | .vsplat _ | .vcvt _ => true
  | .vgath _ | .vscat _ => true
  | _ => false

/-- The instructions that may stand first in a pair (02 R32). -/
def Instr.pairFirst : Instr → Bool
  | .bCc _ _ _ _ | .biCc _ _ _ _ | .j _ | .jal _ _ | .nop | .crr _ _ => true
  | .add _ _ _ | .sub _ _ _ | .and _ _ _ | .or _ _ _ | .xor _ _ _ | .andn _ _ _ | .shl _ _ _ | .shr _ _ _ => true
  | .sra _ _ _ | .rol _ _ _ | .min _ _ _ | .max _ _ _ | .minn _ _ _ | .maxn _ _ _ | .slt _ _ _ | .sltn _ _ _ => true
  | .mul _ _ _ | .mulh _ _ _ | .mulhn _ _ _ | .div _ _ _ | .divn _ _ _ | .rem _ _ _ | .remn _ _ _ => true
  | .clz _ _ | .ctz _ _ | .popc _ _ | .sel _ _ _ _ => true
  | .addi _ _ _ | .andi _ _ _ | .ori _ _ _ | .xori _ _ _ | .slti _ _ _ | .shli _ _ _ | .shri _ _ _ | .srai _ _ _ => true
  | .li _ _ | .mov _ _ | .move _ _ | .kind _ _ | .cget _ _ _ | .csetb _ _ _ | .csetp _ _ _ | .csetc _ _ _ => true
  | .cinc _ _ _ | .ld _ _ _ | .st _ _ _ => true
  | .fadd _ _ _ _ | .fsub _ _ _ _ | .fmul _ _ _ _ | .fdiv _ _ _ _ | .fsqrt _ _ _ | .fmin _ _ _ | .fmax _ _ _ => true
  | .fcmp _ _ _ _ | .fclass _ _ | .ffma _ _ _ _ _ | .cvt _ _ _ _ _ | .img _ _ _ | .imgi _ _ _ => true
  | .sbind _ _ _ _ _ | .scnt _ _ => true
  | .movmMg _ _ | .movmGm _ _ | .mand _ _ _ | .mor _ _ _ | .mxor _ _ _ | .mnot _ _ | .mpop _ _ | .mff _ _ => true
  | _ => false

/-- The G registers a first half writes (02 R33): its destination, a consumed move source and an INC register. -/
def Instr.firstWrites : Instr → List Reg
  | .jal d _ | .crr _ d | .li d _ => [d]
  | .add d _ _ | .sub d _ _ | .and d _ _ | .or d _ _ | .xor d _ _ | .andn d _ _ | .shl d _ _ | .shr d _ _ => [d]
  | .sra d _ _ | .rol d _ _ | .min d _ _ | .max d _ _ | .minn d _ _ | .maxn d _ _ | .slt d _ _ | .sltn d _ _ => [d]
  | .mul d _ _ | .mulh d _ _ | .mulhn d _ _ | .div d _ _ | .divn d _ _ | .rem d _ _ | .remn d _ _ => [d]
  | .clz d _ | .ctz d _ | .popc d _ | .sel d _ _ _ => [d]
  | .addi d _ _ | .andi d _ _ | .ori d _ _ | .xori d _ _ | .slti d _ _ | .shli d _ _ | .shri d _ _ | .srai d _ _ => [d]
  | .mov d _ | .kind d _ | .cget _ d _ | .csetb d _ _ | .csetp d _ _ | .csetc d _ _ | .cinc d _ _ => [d]
  | .move d a => [d, a]
  | .ld op d a => if op.inc then [d, a] else [d]
  | .st op _ a => if op.inc then [a] else []
  | .fadd _ d _ _ | .fsub _ d _ _ | .fmul _ d _ _ | .fdiv _ d _ _ | .fsqrt _ d _ | .fmin d _ _ | .fmax d _ _ => [d]
  | .fcmp _ d _ _ | .fclass d _ | .ffma _ d _ _ _ | .cvt _ _ _ d _ | .img _ d _ | .imgi _ d _ => [d]
  | .sbind _ _ d _ _ | .scnt d _ => [d]
  | .movmMg d _ | .mpop d _ | .mff d _ => [d]
  | _ => []

/-- The G registers a vector half writes (02 R33): its streams, and the DATA destinations of VRED and VSCAN. -/
def Instr.vecWrites : Instr → List Reg
  | .vadd v | .vsub v | .vmul v | .vfma v | .vmin v | .vmax v | .vsel v | .vcmp _ v => [v.vd, v.va, v.vb]
  | .vand v | .vor v | .vxor v | .vshl v | .vshr v | .viadd v | .visub v | .vimul v | .vscan v => [v.vd, v.va, v.vb]
  | .vcx v | .vgath v => [v.vd, v.va]
  | .vscat v => [v.va, v.vb]
  | .vred v | .vabs v | .vneg v | .vexp2 v | .vlog2 v | .vrcp v | .vrsq v | .vtanh v | .vmov v | .vcvt v => [v.vd, v.va]
  | .vsplat v => [v.vd]
  | _ => []

/-- The write sets share no register but G0 (02 R33). -/
def writesDisjoint (xs ys : List Reg) : Bool :=
  xs.all (fun x => x == 0 || !(ys.contains x))

/-- A well-formed bundle for a thread of n registers (02 R32, R33, R36). -/
def Bundle.wf (n : Nat) (b : Bundle) : Bool :=
  match b.vec with
  | none => b.first.wf n && !b.first.isVector
  | some v =>
    b.first.wf n && v.wf n && b.first.pairFirst && v.isVector && writesDisjoint b.first.firstWrites v.vecWrites

end Sys2Proof
end

