-- ==== Sys2Proof/Decode.lean ====
section
/-!
DEFINITION. Decoding and encoding of bundles (02 R21-R29 and the encoding table of each chapter). Words are natural
numbers below 2^32. Decoding is total: a word that no table names decodes to none. The checks that depend on the
register count and on accepted formats stand in WellFormed; a bundle that fails them is ILLEGAL as well.
-/

namespace Sys2Proof

/-! ## Fields -/

/-- k bits of w from bit lo. -/
def fld (w lo k : Nat) : Nat := w / 2 ^ lo % 2 ^ k

/-- The five-bit register field at lo. -/
def rfld (w lo : Nat) : Reg := ⟨w / 2 ^ lo % 32, Nat.mod_lt _ (by decide)⟩

/-- Bit k of w. -/
def bfld (w k : Nat) : Bool := w / 2 ^ k % 2 == 1

/-- The k-bit field at lo as bits. -/
def vfld (k w lo : Nat) : BitVec k := BitVec.ofNat k (w / 2 ^ lo)

/-- The field at lo as an index below n. -/
def ifld (n : Nat) (h : 0 < n) (w lo : Nat) : Fin n := ⟨w / 2 ^ lo % n, Nat.mod_lt _ h⟩

/-- x when the condition holds. -/
def onlyIf (c : Bool) (x : Option Instr) : Option Instr := if c then x else none

/-- A mask-register field: bits [4:3] of the register field must be zero (02 R26). -/
def mfldOk (w lo : Nat) : Bool := w / 2 ^ (lo + 3) % 4 == 0

/-- A mask-register field (02 R26). -/
def mfld (w lo : Nat) : MReg := ⟨w / 2 ^ lo % 8, Nat.mod_lt _ (by decide)⟩

/-! ## Codes -/

/-- The format of a code (07 R120); 7 is ILLEGAL. -/
def Fmt.ofCode : Nat → Option Fmt
  | 0 => some .f32 | 1 => some .b16 | 2 => some .f16 | 3 => some .e4m3 | 4 => some .e5m2 | 5 => some .e2m1 | 6 => some .s8
  | 8 => some .i8 | 9 => some .i16 | 10 => some .i32 | 11 => some .i64
  | 12 => some .n8 | 13 => some .n16 | 14 => some .n32 | 15 => some .n64
  | _ => none

/-- The code of a format (07 R120). -/
def Fmt.code : Fmt → Nat
  | .f32 => 0 | .b16 => 1 | .f16 => 2 | .e4m3 => 3 | .e5m2 => 4 | .e2m1 => 5 | .s8 => 6
  | .i8 => 8 | .i16 => 9 | .i32 => 10 | .i64 => 11 | .n8 => 12 | .n16 => 13 | .n32 => 14 | .n64 => 15

/-- The rounding field (02 R26). -/
def Rm.ofCode : Nat → Option Rm
  | 0 => some .rne
  | 1 => some .rz
  | 2 => some .rd
  | 3 => some .ru
  | 4 => some .dyn
  | _ => none

/-- The code of a value of the field. -/
def Rm.code : Rm → Nat
  | .rne => 0
  | .rz => 1
  | .rd => 2
  | .ru => 3
  | .dyn => 4

/-- The comparisons of 02 R30. -/
def Cmp.ofCode : Nat → Option Cmp
  | 0 => some .eq
  | 1 => some .ne
  | 2 => some .lt
  | 3 => some .ge
  | 4 => some .ltn
  | 5 => some .gen
  | _ => none

/-- The code of a value of the field. -/
def Cmp.code : Cmp → Nat
  | .eq => 0
  | .ne => 1
  | .lt => 2
  | .ge => 3
  | .ltn => 4
  | .gen => 5

/-- The conditions of B.cc (02 R30). -/
def BCond.ofCode (c : Nat) : Option BCond :=
  match Cmp.ofCode c with
  | some x => some (.cmp x)
  | none => if c = 6 then some .smore else if c = 7 then some .sdone else none

/-- The code of a condition. -/
def BCond.code : BCond → Nat
  | .cmp c => c.code
  | .smore => 6
  | .sdone => 7

/-- The size field of MEM (02 R23). -/
def Sz.ofCode : Nat → Option Sz
  | 0 => some .b
  | 1 => some .h
  | 2 => some .w
  | 3 => some .d
  | 4 => some .q
  | _ => none

/-- The code of a value of the field. -/
def Sz.code : Sz → Nat
  | .b => 0
  | .h => 1
  | .w => 2
  | .d => 3
  | .q => 4

/-- The size field of TLD and TST (15 R262). -/
def TSz.ofCode : Nat → Option TSz
  | 0 => some .b
  | 1 => some .h
  | 2 => some .w
  | 3 => some .d
  | _ => none

/-- The code of a value of the field. -/
def TSz.code : TSz → Nat
  | .b => 0
  | .h => 1
  | .w => 2
  | .d => 3

/-- The operation of ATM (06 R111). -/
def AtmOp.ofCode : Nat → Option AtmOp
  | 0 => some .add
  | 1 => some .and
  | 2 => some .or
  | 3 => some .xor
  | 4 => some .min
  | 5 => some .max
  | 6 => some .minn
  | 7 => some .maxn
  | 8 => some .swap
  | _ => none

/-- The code of a value of the field. -/
def AtmOp.code : AtmOp → Nat
  | .add => 0
  | .and => 1
  | .or => 2
  | .xor => 3
  | .min => 4
  | .max => 5
  | .minn => 6
  | .maxn => 7
  | .swap => 8

/-- The operation of ATMF (06 R113). -/
def AtmfOp.ofCode : Nat → Option AtmfOp
  | 0 => some .fadd
  | 1 => some .fmin
  | 2 => some .fmax
  | _ => none

/-- The code of a value of the field. -/
def AtmfOp.code : AtmfOp → Nat
  | .fadd => 0
  | .fmin => 1
  | .fmax => 2

/-- The predicate of FCMP (02 R28). -/
def FPred.ofCode : Nat → Option FPred
  | 0 => some .eq
  | 1 => some .lt
  | 2 => some .le
  | 3 => some .un
  | 4 => some .ne
  | _ => none

/-- The code of a value of the field. -/
def FPred.code : FPred → Nat
  | .eq => 0
  | .lt => 1
  | .le => 2
  | .un => 3
  | .ne => 4

/-- The predicate of VCMP (02 R29). -/
def VPred.ofCode : Nat → Option VPred
  | 0 => some .eq
  | 1 => some .lt
  | 2 => some .le
  | 3 => some .ne
  | _ => none

/-- The code of a value of the field. -/
def VPred.code : VPred → Nat
  | .eq => 0
  | .lt => 1
  | .le => 2
  | .ne => 3

/-- The field selector of CGET (05 R97). -/
def CapField.ofCode : Nat → Option CapField
  | 0 => some .base
  | 1 => some .len
  | 2 => some .cur
  | 3 => some .perm
  | 4 => some .step
  | _ => none

/-- The code of a value of the field. -/
def CapField.code : CapField → Nat
  | .base => 0
  | .len => 1
  | .cur => 2
  | .perm => 3
  | .step => 4

/-- The mode of GVOTE (02 R28). -/
def VoteMode.ofCode : Nat → Option VoteMode
  | 0 => some .any
  | 1 => some .all
  | 2 => some .ballot
  | _ => none

/-- The code of a value of the field. -/
def VoteMode.code : VoteMode → Nat
  | .any => 0
  | .all => 1
  | .ballot => 2

/-- The operation of GRED (02 R28). -/
def RedOp.ofCode : Nat → Option RedOp
  | 0 => some .iadd
  | 1 => some .fadd
  | 2 => some .min
  | 3 => some .max
  | 4 => some .minn
  | 5 => some .maxn
  | 6 => some .fmin
  | 7 => some .fmax
  | 8 => some .and
  | 9 => some .or
  | 10 => some .xor
  | _ => none

/-- The code of a value of the field. -/
def RedOp.code : RedOp → Nat
  | .iadd => 0
  | .fadd => 1
  | .min => 2
  | .max => 3
  | .minn => 4
  | .maxn => 5
  | .fmin => 6
  | .fmax => 7
  | .and => 8
  | .or => 9
  | .xor => 10

/-- The operation of CRED (02 R28). -/
def CredOp.ofCode : Nat → Option CredOp
  | 0 => some .sumI32
  | 1 => some .sumI64
  | 2 => some .sumF32
  | 3 => some .min
  | 4 => some .max
  | 5 => some .maxi
  | _ => none

/-- The code of a value of the field. -/
def CredOp.code : CredOp → Nat
  | .sumI32 => 0
  | .sumI64 => 1
  | .sumF32 => 2
  | .min => 3
  | .max => 4
  | .maxi => 5

/-- The scope of a fence (02 R28). -/
def Scope.ofCode : Nat → Option Scope
  | 0 => some .core
  | 1 => some .cluster
  | 2 => some .die
  | 3 => some .module
  | 4 => some .system
  | _ => none

/-- The code of a value of the field. -/
def Scope.code : Scope → Nat
  | .core => 0
  | .cluster => 1
  | .die => 2
  | .module => 3
  | .system => 4

/-- The operation of GATE (20 R304). -/
def GateOp.ofCode : Nat → Option GateOp
  | 0 => some .read
  | 1 => some .set
  | 2 => some .add
  | _ => none

/-- The code of a value of the field. -/
def GateOp.code : GateOp → Nat
  | .read => 0
  | .set => 1
  | .add => 2

/-- The operation of QPOST (20 R304). -/
def PostOp.ofCode : Nat → Option PostOp
  | 0 => some .add
  | 1 => some .set
  | _ => none

/-- The code of a value of the field. -/
def PostOp.code : PostOp → Nat
  | .add => 0
  | .set => 1

/-! ## Decoding -/

/-- Major 0x01 (05 R91). -/
def decodeAlu (fn : Nat) (d a b : Reg) : Option Instr :=
  match fn with
  | 0 => some (.add d a b)
  | 1 => some (.sub d a b)
  | 2 => some (.and d a b)
  | 3 => some (.or d a b)
  | 4 => some (.xor d a b)
  | 5 => some (.andn d a b)
  | 6 => some (.shl d a b)
  | 7 => some (.shr d a b)
  | 8 => some (.sra d a b)
  | 9 => some (.rol d a b)
  | 10 => some (.min d a b)
  | 11 => some (.max d a b)
  | 12 => some (.minn d a b)
  | 13 => some (.maxn d a b)
  | 14 => some (.slt d a b)
  | 15 => some (.sltn d a b)
  | _ => none

/-- Major 0x02 (05 R92). -/
def decodeMul (fn : Nat) (d a b : Reg) : Option Instr :=
  match fn with
  | 0 => some (.mul d a b)
  | 1 => some (.mulh d a b)
  | 2 => some (.mulhn d a b)
  | 3 => some (.div d a b)
  | 4 => some (.divn d a b)
  | 5 => some (.rem d a b)
  | 6 => some (.remn d a b)
  | 8 => onlyIf (b == 0) (some (.clz d a))
  | 9 => onlyIf (b == 0) (some (.ctz d a))
  | 10 => onlyIf (b == 0) (some (.popc d a))
  | _ => none

/-- Major 0x0F, short forms (04 R65). -/
def decodeSlot (fn : Nat) (d a b : Reg) : Option Instr :=
  match fn with
  | 0 => onlyIf (d == 0 && a == 0 && b == 0) (some .nop)
  | 1 => onlyIf (b == 0) (some (.jalr d a))
  | 2 => some (.spawn d a b)
  | 3 => onlyIf (d == 0 && a == 0 && b == 0) (some .exit)
  | 4 => onlyIf (d == 0 && b == 0) (some (.waitt a))
  | 5 => onlyIf (d == 0 && b == 0) (some (.sleep a))
  | _ => none

/-- Majors 0x10 and 0x11 (06 R105). -/
def decodeMem (w : Nat) : Option MemOp :=
  match Sz.ofCode (fld w 18 3) with
  | some sz => some (.mk (bfld w 31) (vfld 8 w 23) (bfld w 22) (bfld w 21) sz)
  | none => none

/-- Major 0x12 (06 R109). -/
def decodeFew (w : Nat) (d a : Reg) : Option Instr :=
  let op : FewOp := .mk (bfld w 31) (vfld 8 w 23) (bfld w 21)
  onlyIf (!bfld w 22)
    (match fld w 18 3 with
     | 0 => some (.lds op d a)
     | 1 => some (.sts op d a)
     | 2 => some (.fest op d a)
     | 3 => some (.feget op d a)
     | _ => none)

/-- Major 0x18 (05 R96). -/
def decodeKinds (md fn : Nat) (d a b : Reg) : Option Instr :=
  match fn with
  | 0 => onlyIf (md == 0 && b == 0) (some (.mov d a))
  | 1 => onlyIf (md == 0 && b == 0) (some (.move d a))
  | 2 => onlyIf (md == 0 && b == 0) (some (.kind d a))
  | 3 => onlyIf (b == 0) ((CapField.ofCode md).map (fun f => .cget f d a))
  | 4 => onlyIf (md == 0) (some (.csetb d a b))
  | 5 => onlyIf (md == 0) (some (.csetp d a b))
  | 6 => onlyIf (md == 0) (some (.csetc d a b))
  | 7 => onlyIf (md == 0) (some (.cinc d a b))
  | _ => none

/-- Major 0x1A (07 R132): rm is MOD [29:27]. -/
def decodeFloat (rm fn : Nat) (d a b : Reg) : Option Instr :=
  match fn with
  | 0 => (Rm.ofCode rm).map (fun r => .fadd r d a b)
  | 1 => (Rm.ofCode rm).map (fun r => .fsub r d a b)
  | 2 => (Rm.ofCode rm).map (fun r => .fmul r d a b)
  | 3 => (Rm.ofCode rm).map (fun r => .fdiv r d a b)
  | 4 => onlyIf (b == 0) ((Rm.ofCode rm).map (fun r => .fsqrt r d a))
  | 5 => onlyIf (rm == 0) (some (.fmin d a b))
  | 6 => onlyIf (rm == 0) (some (.fmax d a b))
  | 7 => (FPred.ofCode rm).map (fun p => .fcmp p d a b)
  | 8 => onlyIf (rm == 0 && b == 0) (some (.fclass d a))
  | _ => none

/-- Major 0x1C (07 R138). -/
def decodeCvt (w : Nat) (d a : Reg) : Option Instr :=
  match Fmt.ofCode (fld w 23 4) with
  | none => none
  | some f =>
    match fld w 30 2 with
    | 0 =>
      match Fmt.ofCode (fld w 18 4), Rm.ofCode (fld w 27 3) with
      | some t, some r => onlyIf (!bfld w 22) (some (.cvt r f t d a))
      | _, _ => none
    | 1 => onlyIf (fld w 27 3 == 0 && fld w 18 5 == 0) (some (.img f d a))
    | 2 => onlyIf (fld w 27 3 == 0 && fld w 18 5 == 0) (some (.imgi f d a))
    | _ => none

/-- Major 0x1E (08 R166). -/
def decodeMask (w : Nat) (md fn : Nat) (d a b : Reg) : Option Instr :=
  match fn with
  | 0 =>
    match md with
    | 0 => onlyIf (mfldOk w 13 && b == 0) (some (.movmMg d (mfld w 13)))
    | 1 => onlyIf (mfldOk w 8 && b == 0) (some (.movmGm (mfld w 8) a))
    | _ => none
  | 1 => onlyIf (md == 0 && mfldOk w 8 && mfldOk w 13 && mfldOk w 18) (some (.mand (mfld w 8) (mfld w 13) (mfld w 18)))
  | 2 => onlyIf (md == 0 && mfldOk w 8 && mfldOk w 13 && mfldOk w 18) (some (.mor (mfld w 8) (mfld w 13) (mfld w 18)))
  | 3 => onlyIf (md == 0 && mfldOk w 8 && mfldOk w 13 && mfldOk w 18) (some (.mxor (mfld w 8) (mfld w 13) (mfld w 18)))
  | 4 => onlyIf (md == 0 && mfldOk w 8 && mfldOk w 13 && b == 0) (some (.mnot (mfld w 8) (mfld w 13)))
  | 5 => onlyIf (md == 0 && mfldOk w 13 && b == 0) (some (.mpop d (mfld w 13)))
  | 6 => onlyIf (md == 0 && mfldOk w 13 && b == 0) (some (.mff d (mfld w 13)))
  | _ => none

/-- Majors 0x28 to 0x2A (09 R168-R174). -/
def decodeGroup (maj : Nat) (w : Nat) (fn : Nat) (d a b : Reg) : Option Instr :=
  let g : Fin 16 := ifld 16 (by decide) w 27
  onlyIf (!bfld w 31)
    (match maj with
     | 0x28 =>
       match fn with
       | 0 => onlyIf (d == 0 && a == 0 && b == 0) (some (.gjoin g))
       | 1 => onlyIf (d == 0 && a == 0 && b == 0) (some (.gleave g))
       | 2 => some (.gshfl g d a b)
       | 3 => (VoteMode.ofCode b.val).map (fun m => .gvote g m d a)
       | 4 => onlyIf (b == 0) (some (.gmatch g d a))
       | _ => none
     | 0x29 => onlyIf (b == 0) ((RedOp.ofCode fn).map (fun op => .gred g op d a))
     | _ =>
       match fn with
       | 0 => onlyIf (fld w 19 4 == 0) (some (.gxld g false (bfld w 18) d a))
       | 1 => onlyIf (fld w 19 4 == 0) (some (.gxld g true (bfld w 18) d a))
       | _ => none)

/-- Major 0x2B (09 R178-R185). -/
def decodeBar (w : Nat) (d a : Reg) : Option Instr :=
  let n : Fin 512 := ifld 512 (by decide) w 23
  match fld w 18 5 with
  | 0 => onlyIf (d == 0) (some (.binit n a))
  | 1 => onlyIf (d == 0 && a == 0) (some (.barr n))
  | 2 => onlyIf (a == 0) (some (.bwait n d))
  | 3 => onlyIf (a == 0) (some (.bsync n d))
  | 4 => onlyIf (d == 0) (some (.bexp n a))
  | 5 => onlyIf (d == 0) (some (.cstat n a))
  | _ => none

/-- Major 0x2E (10 R194-R198). -/
def decodePort (fn : Nat) (d a b : Reg) : Option Instr :=
  match fn with
  | 0 => onlyIf (a == 0 && b == 0) (some (.pbind d))
  | 1 => onlyIf (d == 0) (some (.btag a b))
  | 2 => onlyIf (b == 0) (some (.peek d a))
  | 3 => some (.loopb d a b)
  | _ => none

/-- Major 0x17 (11 R217); the rule that FENCEX names a path stands in WellFormed. -/
def decodeFence (w : Nat) (d a b : Reg) : Option Instr :=
  match Scope.ofCode (fld w 29 3) with
  | none => none
  | some s =>
    match d.val with
    | 0 => onlyIf (a == 0 && b == 0 && fld w 23 6 == 0) (some (.fence s))
    | 1 => onlyIf (a == 0 && b == 0)
             (some (.fencex s (.mk (bfld w 23) (bfld w 24) (bfld w 25) (bfld w 26) (bfld w 27) (bfld w 28))))
    | _ => none

/-- Major 0x36 (17 R274). -/
def decodeCocoon (md fn : Nat) (d a b : Reg) : Option Instr :=
  match fn with
  | 0 => onlyIf (md == 0 && b == 0) (some (.calloc d a))
  | 1 => match md with
    | 0 => some (.csplit false d a b)
    | 1 => some (.csplit true d a b)
    | _ => none
  | 2 => onlyIf (md == 0) (some (.cjoin d a b))
  | 3 => onlyIf (md == 0 && d == 0 && b == 0) (some (.cfree a))
  | 4 => onlyIf (md == 0 && b == 0) (some (.cshape d a))
  | _ => none

/-- Major 0x38, short forms (20 R304). -/
def decodeTask (md fn : Nat) (d a b : Reg) : Option Instr :=
  match fn with
  | 0 => onlyIf (md == 0 && d == 0) (some (.tsub a b))
  | 1 => onlyIf (md == 0 && d == 0 && a == 0 && b == 0) (some .tdone)
  | 2 => (GateOp.ofCode md).map (fun op => .gate op d a b)
  | 3 => match md with
    | 0 => onlyIf (a == 0 && b == 0) (some (.trec 0 d))
    | 1 => onlyIf (a == 0 && b == 0) (some (.trec 1 d))
    | 2 => onlyIf (a == 0 && b == 0) (some (.trec 2 d))
    | _ => none
  | 4 => onlyIf (d == 0) ((PostOp.ofCode md).map (fun op => .qpost op a b))
  | _ => none

/-- A first word with L = 00 or 01 (02 R27). -/
def decodeShort (w : Nat) : Option Instr :=
  let d := rfld w 8
  let a := rfld w 13
  let b := rfld w 18
  let fn := fld w 23 4
  let md := fld w 27 5
  match fld w 2 6 with
  | 0x01 => onlyIf (md == 0) (decodeAlu fn d a b)
  | 0x02 => onlyIf (md == 0) (decodeMul fn d a b)
  | 0x03 => onlyIf (fld w 28 4 == 0) (some (.sel d a b (rfld w 23)))
  | 0x04 => some (.addi d a (vfld 14 w 18))
  | 0x05 => some (.andi d a (vfld 14 w 18))
  | 0x06 => some (.ori d a (vfld 14 w 18))
  | 0x07 => some (.xori d a (vfld 14 w 18))
  | 0x08 => onlyIf (fld w 26 6 == 0)
      (match fld w 24 2 with
       | 0 => some (.shli d a (vfld 6 w 18))
       | 1 => some (.shri d a (vfld 6 w 18))
       | 2 => some (.srai d a (vfld 6 w 18))
       | _ => none)
  | 0x09 => some (.slti d a (vfld 14 w 18))
  | 0x0A => some (.li d (vfld 19 w 13))
  | 0x0B => (BCond.ofCode d.val).map (fun cc => .bCc cc a b (vfld 9 w 23))
  | 0x0C => (Cmp.ofCode d.val).map (fun cc => .biCc cc a (vfld 5 w 18) (vfld 9 w 23))
  | 0x0D => some (.j (vfld 24 w 8))
  | 0x0E => some (.jal d (vfld 19 w 13))
  | 0x0F => onlyIf (md == 0) (decodeSlot fn d a b)
  | 0x10 => (decodeMem w).map (fun op => .ld op d a)
  | 0x11 => (decodeMem w).map (fun op => .st op d a)
  | 0x12 => decodeFew w d a
  | 0x13 => onlyIf (fld w 30 2 == 0)
      ((AtmOp.ofCode fn).map (fun op => .atm op (.mk (bfld w 27) (bfld w 28) (bfld w 29)) d a b))
  | 0x14 => onlyIf (!bfld w 31) (some (.atmCas (.mk (bfld w 28) (bfld w 29) (bfld w 30)) d a b (rfld w 23)))
  | 0x15 => onlyIf (fld w 30 2 == 0 && !bfld w 27)
      ((AtmfOp.ofCode fn).map (fun op => .atmf op (bfld w 28) (bfld w 29) d a b))
  | 0x17 => decodeFence w d a b
  | 0x18 => decodeKinds md fn d a b
  | 0x19 =>
      match fn with
      | 0 => (Fmt.ofCode (fld w 27 4)).map (fun f => .sbind (bfld w 31) f d a b)
      | 1 => onlyIf (md == 0 && b == 0) (some (.scnt d a))
      | _ => none
  | 0x1A => onlyIf (fld w 30 2 == 0) (decodeFloat (fld w 27 3) fn d a b)
  | 0x1B => onlyIf (!bfld w 31) ((Rm.ofCode (fld w 28 3)).map (fun r => .ffma r d a b (rfld w 23)))
  | 0x1C => decodeCvt w d a
  | 0x1E => decodeMask w md fn d a b
  | 0x1F => onlyIf (fld w 19 4 == 0)
      (if bfld w 18 then onlyIf (d == 0) (some (.crw (vfld 9 w 23) a))
       else onlyIf (a == 0) (some (.crr (vfld 9 w 23) d)))
  | 0x28 => decodeGroup 0x28 w fn d a b
  | 0x29 => decodeGroup 0x29 w fn d a b
  | 0x2A => decodeGroup 0x2A w fn d a b
  | 0x2B => decodeBar w d a
  | 0x2C => onlyIf (!bfld w 31 && d == 0) (some (.send (vfld 8 w 23) a b))
  | 0x2D => onlyIf (!bfld w 31 && d == 0) (some (.sendh (vfld 8 w 23) a b))
  | 0x2E => onlyIf (md == 0) (decodePort fn d a b)
  | 0x2F => onlyIf (md == 0) ((CredOp.ofCode fn).map (fun op => .cred op d a b))
  | 0x36 => decodeCocoon md fn d a b
  | 0x37 => onlyIf (md == 0)
      (match fn with
       | 2 => onlyIf (b == 0) (some (.hmask d a))
       | 3 => onlyIf (a == 0 && b == 0) (some (.hstat d))
       | _ => none)
  | 0x38 => decodeTask md fn d a b
  | 0x39 => onlyIf (d == 0 && a == 0 && b == 0) (some (.trap (vfld 9 w 23)))
  | _ => none

/-- X1 of CPY (06 R116). -/
def decodeCpyX (x1 : Nat) : CpyX := .mk (bfld x1 11) (bfld x1 10) (bfld x1 9) (ifld 512 (by decide) x1 0)

/-- X1 and X2 of CPYS (06 R118). -/
def decodeCpysX (x1 x2 : Nat) : Option CpysX :=
  if fld x1 16 16 = 0 ∧ bfld x1 11 = false then
    (Fmt.ofCode (fld x1 12 4)).map
      (fun f => .mk f (bfld x1 10) (bfld x1 9) (ifld 512 (by decide) x1 0) (vfld 32 x2 0))
  else none

/-- X1 of a drain (13 R237). -/
def decodeDrainX (x1 : Nat) : DrainX := .mk (ifld 4 (by decide) x1 0) (vfld 9 x1 2) (vfld 9 x1 11) (vfld 9 x1 20)

/-- MDRAIN's other fields (13 R237). -/
def decodeMdrain (w x1 x2 : Nat) : Option MdrainX :=
  if bfld w 31 = false ∧ bfld w 22 = false ∧ fld w 13 5 = 0 ∧ fld x1 29 3 = 0 ∧ fld x2 20 12 = 0 then
    (Fmt.ofCode (fld w 27 4)).map (fun f => .mk f (bfld w 18) (bfld w 19) (bfld w 20) (bfld w 21) (vfld 20 x2 0))
  else none

/-- MDRAINA's other fields (13 R237). -/
def decodeMdraina (w x1 x2 : Nat) : Option MdrainaX :=
  if fld w 27 5 = 0 ∧ bfld w 18 = false ∧ fld w 21 2 = 0 ∧ fld w 8 5 = 0 ∧ bfld x1 31 = false ∧ fld x2 18 14 = 0 then
    some (.mk (bfld w 19) (bfld w 20) (ifld 4 (by decide) x1 29) (vfld 9 x2 0) (vfld 9 x2 9))
  else none

/-- Major 0x30 (13 R233). -/
def decodeSetup (w x1 x2 : Nat) (d a b : Reg) : Option Instr :=
  match fld w 23 4 with
  | 0 =>
    onlyIf (!bfld w 31 && d == 0 && b == 0 && fld x1 27 5 == 0 && fld x2 20 12 == 0)
      ((Fmt.ofCode (fld w 27 4)).map
        (fun f => .bload (.mk f (vfld 8 x1 0) (vfld 9 x1 8) (vfld 9 x1 17) (bfld x1 26) (vfld 20 x2 0)) a))
  | 1 =>
    onlyIf (fld w 27 5 == 0 && d == 0 && b == 0 && fld x1 22 10 == 0 && x2 == 0)
      (some (.minit (.mk (vfld 4 x1 0) (vfld 9 x1 4) (vfld 9 x1 13)) a))
  | 2 =>
    onlyIf (fld w 27 5 == 0 && d == 0 && b == 0 && fld x1 21 11 == 0 && x2 == 0)
      (some (.mpload (.mk (ifld 4 (by decide) x1 0) (vfld 9 x1 2) (vfld 9 x1 11) (bfld x1 20)) a))
  | 3 =>
    onlyIf (fld w 27 5 == 0 && a == 0 && b == 0 && fld x1 2 30 == 0 && x2 == 0)
      (some (.mstat (ifld 4 (by decide) x1 0) d))
  | _ => none

/-- Major 0x31 (13 R234). -/
def decodeProduct (w x1 x2 : Nat) (d a : Reg) : Option Instr :=
  match Fmt.ofCode (fld w 27 4), Fmt.ofCode (fld w 18 4) with
  | some fa, some fb =>
    let x : MmaX := .mk fa fb (vfld 9 x1 19) (vfld 9 x1 10) (vfld 8 x1 2) (ifld 4 (by decide) x1 0)
      (vfld 18 x2 14) (bfld x2 13) (vfld 13 x2 0)
    onlyIf (!bfld w 31 && !bfld w 22 && fld x1 28 4 == 0)
      (match fld w 23 4 with
       | 0 => onlyIf (d == 0) (some (.mma x a))
       | 1 => some (.mmad x d a)
       | _ => none)
  | _, _ => none

/-- Major 0x34 (15 R256). -/
def decodeLineage (w x1 x2 : Nat) (d a b : Reg) : Option Instr :=
  let t := bfld w 27
  let nf := bfld w 28
  let s := rfld x2 27
  onlyIf (fld w 29 3 == 0)
    (match fld w 23 4 with
     | 0 =>
       onlyIf (!t && !nf && fld x2 24 8 == 0)
         ((Fmt.ofCode (fld x1 24 4)).map (fun f => .tnew (vfld 24 x1 0) (vfld 24 x2 0) f (vfld 4 x1 28) d a b))
     | 1 =>
       onlyIf (!t && !nf && fld x1 24 8 == 0 && fld x2 28 4 == 0)
         (some (.topen (vfld 24 x1 0) (vfld 24 x2 0) (vfld 4 x2 24) d a b))
     | 2 => onlyIf (b == 0 && x1 == 0 && fld x2 0 27 == 0) (some (.fork t nf d a s))
     | 3 => onlyIf (!nf && d == 0 && x1 == 0 && fld x2 0 27 == 0) (some (.rebase t a b s))
     | 4 => onlyIf (!nf && d == 0 && b == 0 && x1 == 0 && fld x2 0 27 == 0) (some (.flat t a s))
     | 5 => onlyIf (!nf && d == 0 && b == 0 && x1 == 0 && fld x2 0 27 == 0) (some (.tfree t a s))
     | 6 =>
       onlyIf (!t && !nf && b == 0 && fld x1 2 30 == 0 && x2 == 0)
         (some (.tinfo (ifld 4 (by decide) x1 0) d a))
     | _ => none)

/-- Major 0x35 (15 R256). -/
def decodeTensor (w x1 x2 : Nat) (d a b : Reg) : Option Instr :=
  let t := bfld w 27
  let s := rfld x2 27
  onlyIf (fld w 28 4 == 0)
    (match fld w 23 4 with
     | 0 => onlyIf (!t && b == 0 && x1 == 0 && x2 == 0) (some (.trd d a))
     | 1 => onlyIf (d == 0 && x1 == 0 && fld x2 0 27 == 0) (some (.twr t a b s))
     | 2 => onlyIf (!t && fld x2 3 29 == 0) ((TSz.ofCode (fld x2 0 3)).map (fun z => .tld z d a b (vfld 32 x1 0)))
     | 3 => onlyIf (fld x2 3 24 == 0) ((TSz.ofCode (fld x2 0 3)).map (fun z => .tst t z d a b s (vfld 32 x1 0)))
     | _ => none)

/-- HSEL and HSELW (18 R289). -/
def decodeHawk (w x1 x2 : Nat) (d a b : Reg) : Option Instr :=
  match Fmt.ofCode (fld w 28 4) with
  | none => none
  | some kf =>
    let x : HselX := .mk kf (bfld x1 26) (bfld x1 25) (bfld x1 24) (rfld x1 19) (bfld x1 18) (vfld 17 x1 0)
    onlyIf (fld x1 27 5 == 0)
      (match fld w 23 4 with
       | 0 => onlyIf (!bfld x1 17 && x2 == 0) (some (.hsel (bfld w 27) x d a b))
       | 1 => onlyIf (!bfld w 27) (some (.hselw (bfld x1 17) x (vfld 32 x2 0) d a b))
       | _ => none)

/-- A first word with L = 10 and its X1 and X2 (02 R25, R27). -/
def decodeLong (w x1 x2 : Nat) : Option Instr :=
  let d := rfld w 8
  let a := rfld w 13
  let b := rfld w 18
  match fld w 2 6 with
  | 0x0A => onlyIf (fld w 13 19 == 0) (some (.liX d (BitVec.ofNat 64 (x2 * 2 ^ 32 + x1))))
  | 0x0B => onlyIf (fld w 23 9 == 0 && x2 == 0) ((BCond.ofCode d.val).map (fun cc => .bCcX cc a b (vfld 32 x1 0)))
  | 0x0C => onlyIf (fld w 18 14 == 0) ((Cmp.ofCode d.val).map (fun cc => .biCcX cc a (vfld 32 x1 0) (vfld 32 x2 0)))
  | 0x0F => onlyIf (fld w 23 9 == 6 && d == 0 && a == 0 && b == 0 && x2 == 0) (some (.ppt (vfld 32 x1 0)))
  | 0x16 =>
    match fld w 23 9 with
    | 0 => onlyIf (fld x1 12 20 == 0 && x2 == 0) (some (.cpy (decodeCpyX x1) d a b))
    | 1 => (decodeCpysX x1 x2).map (fun x => .cpys x d a b)
    | _ => none
  | 0x30 => decodeSetup w x1 x2 d a b
  | 0x31 => decodeProduct w x1 x2 d a
  | 0x32 =>
    match fld w 23 4 with
    | 0 => (decodeMdrain w x1 x2).map (fun y => .mdrain (decodeDrainX x1) y d)
    | 1 => (decodeMdraina w x1 x2).map (fun y => .mdraina (decodeDrainX x1) y a)
    | _ => none
  | 0x34 => decodeLineage w x1 x2 d a b
  | 0x35 => decodeTensor w x1 x2 d a b
  | 0x37 => decodeHawk w x1 x2 d a b
  | _ => none

/-- A first word with L = 11, its X1 and X2 and its literal (02 R25, R27): the .AT forms. -/
def decodeLit (w x1 x2 lit : Nat) : Option Instr :=
  let d := rfld w 8
  let a := rfld w 13
  let b := rfld w 18
  let time : DWord := BitVec.ofNat 64 lit
  match fld w 2 6 with
  | 0x16 =>
    match fld w 23 9 with
    | 0 => onlyIf (fld x1 12 20 == 0 && x2 == 0) (some (.cpyAt (decodeCpyX x1) d a b time))
    | 1 => (decodeCpysX x1 x2).map (fun x => .cpysAt x d a b time)
    | _ => none
  | 0x32 =>
    match fld w 23 4 with
    | 0 => (decodeMdrain w x1 x2).map (fun y => .mdrainAt (decodeDrainX x1) y d time)
    | 1 => (decodeMdraina w x1 x2).map (fun y => .mdrainaAt (decodeDrainX x1) y a time)
    | _ => none
  | 0x38 => onlyIf (fld w 23 9 == 0 && d == 0 && x1 == 0 && x2 == 0) (some (.tsubAt a b time))
  | _ => none

/-- A vector word (02 R24, R29). -/
def decodeVec (w : Nat) : Option Instr :=
  match Fmt.ofCode (fld w 26 4) with
  | none => none
  | some f =>
    let v : VWord := .mk f (mfld w 23) (rfld w 18) (rfld w 13) (rfld w 8)
    let u : VUnary := .mk f (mfld w 23) (rfld w 13) (rfld w 8)
    onlyIf (fld w 0 2 == 0)
      (match fld w 2 6 with
       | 0x20 =>
         match fld w 30 2 with
         | 0 => some (.vadd v)
         | 1 => some (.vsub v)
         | 2 => some (.vmul v)
         | _ => some (.vfma v)
       | 0x21 =>
         match fld w 30 2 with
         | 0 => some (.vmin v)
         | 1 => some (.vmax v)
         | 2 => some (.vsel v)
         | _ => some (.vcx v)
       | 0x22 => (VPred.ofCode (fld w 30 2)).map (fun p => .vcmp p v)
       | 0x23 =>
         match fld w 30 2 with
         | 0 => some (.vand v)
         | 1 => some (.vor v)
         | 2 => some (.vxor v)
         | _ => none
       | 0x24 =>
         match fld w 30 2 with
         | 0 => some (.vshl v)
         | 1 => some (.vshr v)
         | 2 => some (.viadd v)
         | 3 => some (.visub v)
         | _ => none
       | 0x25 =>
         match fld w 30 2 with
         | 0 => some (.vimul v)
         | 1 => onlyIf (fld w 18 5 == 0) (some (.vred u))
         | 2 => some (.vscan v)
         | _ => none
       | 0x27 =>
         match fld w 30 2 with
         | 0 => some (.vgath v)
         | 1 => some (.vscat v)
         | _ => none
       | 0x26 =>
         onlyIf (fld w 30 2 == 0)
           (match fld w 18 5 with
            | 0 => some (.vabs u)
            | 1 => some (.vneg u)
            | 2 => some (.vexp2 u)
            | 3 => some (.vlog2 u)
            | 4 => some (.vrcp u)
            | 5 => some (.vrsq u)
            | 6 => some (.vtanh u)
            | 7 => some (.vmov u)
            | 8 => some (.vsplat u)
            | 9 => some (.vcvt u)
            | _ => none)
       | _ => none)

/-- How many words a bundle has, from the L field of its first word (02 R21). -/
def bundleWords (w : Nat) : Nat :=
  match fld w 0 2 with
  | 0 => 1
  | 1 => 2
  | 2 => 3
  | _ => 5

/-- The bundle that a list of words begins with; none when its words are no bundle's encoding. -/
def decodeBundle (ws : List Nat) : Option Bundle :=
  match ws with
  | [w] => if fld w 0 2 = 0 then (decodeShort w).map (fun i => .mk i none) else none
  | [w, v] =>
    if fld w 0 2 = 1 then
      match decodeShort w, decodeVec v with
      | some i, some j => some (.mk i (some j))
      | _, _ => none
    else none
  | [w, x1, x2] => if fld w 0 2 = 2 then (decodeLong w x1 x2).map (fun i => .mk i none) else none
  | [w, x1, x2, l0, l1] =>
    if fld w 0 2 = 3 then (decodeLit w x1 x2 (l1 * 2 ^ 32 + l0)).map (fun i => .mk i none) else none
  | _ => none

/-! ## Encoding -/

/-- A Boolean as a bit. -/
def bitOf (b : Bool) : Nat := if b then 1 else 0

/-- A first word from its five fields; L is added by the form (02 R22). -/
def packF (f b a d maj : Nat) : Nat := f * 2 ^ 23 + b * 2 ^ 18 + a * 2 ^ 13 + d * 2 ^ 8 + maj * 4

/-- A REG word (02 R23). -/
def packReg (md fn b a d maj : Nat) : Nat := packF (md * 16 + fn) b a d maj

/-- A vector word (02 R24). -/
def packVec (var vmaj : Nat) (f : Fmt) (k : MReg) (b a d : Nat) : Nat :=
  var * 2 ^ 30 + f.code * 2 ^ 26 + k.val * 2 ^ 23 + b * 2 ^ 18 + a * 2 ^ 13 + d * 2 ^ 8 + vmaj * 4

/-- A MEM word (02 R23). -/
def packMem (op : MemOp) (d a : Reg) (maj : Nat) : Nat :=
  bitOf op.inc * 2 ^ 31 + op.off.toNat * 2 ^ 23 + bitOf op.rx * 2 ^ 22 + bitOf op.am * 2 ^ 21 + op.sz.code * 2 ^ 18
    + a.val * 2 ^ 13 + d.val * 2 ^ 8 + maj * 4

/-- A FEW word (02 R23). -/
def packFew (fn : Nat) (op : FewOp) (d a : Reg) : Nat :=
  bitOf op.inc * 2 ^ 31 + op.off.toNat * 2 ^ 23 + bitOf op.am * 2 ^ 21 + fn * 2 ^ 18
    + a.val * 2 ^ 13 + d.val * 2 ^ 8 + 0x12 * 4

/-- The words of a form: short (also the first of a pair), extended, extended with a literal, or a vector word. -/
inductive Enc where
  | short (w : Nat)
  | long (w x1 x2 : Nat)
  | lit (w x1 x2 t : Nat)
  | vec (w : Nat)
  | none
  deriving DecidableEq, Repr

/-- X1 of CPY (06 R116). -/
def packCpyX (x : CpyX) : Nat := bitOf x.dam * 2 ^ 11 + bitOf x.sam * 2 ^ 10 + bitOf x.bv * 2 ^ 9 + x.bar.val

/-- X1 of CPYS (06 R118). -/
def packCpysX (x : CpysX) : Nat := x.fmt.code * 2 ^ 12 + bitOf x.sam * 2 ^ 10 + bitOf x.bv * 2 ^ 9 + x.bar.val

/-- X1 of a drain (13 R237). -/
def packDrainX (x : DrainX) : Nat := x.ncols.toNat * 2 ^ 20 + x.rows.toNat * 2 ^ 11 + x.row0.toNat * 4 + x.t.val

/-- Word 0 of MDRAIN. -/
def packMdrain (y : MdrainX) (d : Reg) : Nat :=
  packReg y.fmt.code 0 (bitOf y.mask + bitOf y.clr * 2 + bitOf y.rel * 4 + bitOf y.am * 8) 0 d.val 0x32

/-- Word 0 of MDRAINA. -/
def packMdraina (y : MdrainaX) (a : Reg) : Nat :=
  packReg 0 1 (bitOf y.clr * 2 + bitOf y.rel * 4) a.val 0 0x32

/-- X1 of HSEL and HSELW beyond WN (18 R289). -/
def packHselX (x : HselX) : Nat :=
  bitOf x.am * 2 ^ 26 + bitOf x.hold * 2 ^ 25 + bitOf x.nanin * 2 ^ 24 + x.mr.val * 2 ^ 19 + bitOf x.mv * 2 ^ 18 + x.n.toNat

/-- X1 of MMA and MMAD (13 R234). -/
def packMmaX1 (x : MmaX) : Nat := x.m.toNat * 2 ^ 19 + x.row0.toNat * 2 ^ 10 + x.p0.toNat * 4 + x.t.val

/-- X2 of MMA and MMAD (13 R234). -/
def packMmaX2 (x : MmaX) : Nat := x.pitch.toNat * 2 ^ 14 + bitOf x.am * 2 ^ 13 + x.k.toNat

/-- The words of every bundle instruction, without L; an event has none. -/
def Instr.enc : Instr → Enc
  | .bCc cc a b off => .short (packF off.toNat b.val a.val cc.code 0x0B)
  | .bCcX cc a b off => .long (packF 0 b.val a.val cc.code 0x0B) off.toNat 0
  | .biCc cc a imm off => .short (packF off.toNat imm.toNat a.val cc.code 0x0C)
  | .biCcX cc a imm off => .long (packF 0 0 a.val cc.code 0x0C) imm.toNat off.toNat
  | .j off => .short (off.toNat * 2 ^ 8 + 0x0D * 4)
  | .jal d off => .short (off.toNat * 2 ^ 13 + d.val * 2 ^ 8 + 0x0E * 4)
  | .jalr d a => .short (packReg 0 1 0 a.val d.val 0x0F)
  | .spawn d a b => .short (packReg 0 2 b.val a.val d.val 0x0F)
  | .exit => .short (packReg 0 3 0 0 0 0x0F)
  | .waitt a => .short (packReg 0 4 0 a.val 0 0x0F)
  | .sleep a => .short (packReg 0 5 0 a.val 0 0x0F)
  | .ppt mask => .long (packReg 0 6 0 0 0 0x0F) mask.toNat 0
  | .crr c d => .short (packF c.toNat 0 0 d.val 0x1F)
  | .crw c a => .short (packF c.toNat 1 a.val 0 0x1F)
  | .trap c => .short (packF c.toNat 0 0 0 0x39)
  | .nop => .short (packReg 0 0 0 0 0 0x0F)
  | .add d a b => .short (packReg 0 0 b.val a.val d.val 0x01)
  | .sub d a b => .short (packReg 0 1 b.val a.val d.val 0x01)
  | .and d a b => .short (packReg 0 2 b.val a.val d.val 0x01)
  | .or d a b => .short (packReg 0 3 b.val a.val d.val 0x01)
  | .xor d a b => .short (packReg 0 4 b.val a.val d.val 0x01)
  | .andn d a b => .short (packReg 0 5 b.val a.val d.val 0x01)
  | .shl d a b => .short (packReg 0 6 b.val a.val d.val 0x01)
  | .shr d a b => .short (packReg 0 7 b.val a.val d.val 0x01)
  | .sra d a b => .short (packReg 0 8 b.val a.val d.val 0x01)
  | .rol d a b => .short (packReg 0 9 b.val a.val d.val 0x01)
  | .min d a b => .short (packReg 0 10 b.val a.val d.val 0x01)
  | .max d a b => .short (packReg 0 11 b.val a.val d.val 0x01)
  | .minn d a b => .short (packReg 0 12 b.val a.val d.val 0x01)
  | .maxn d a b => .short (packReg 0 13 b.val a.val d.val 0x01)
  | .slt d a b => .short (packReg 0 14 b.val a.val d.val 0x01)
  | .sltn d a b => .short (packReg 0 15 b.val a.val d.val 0x01)
  | .mul d a b => .short (packReg 0 0 b.val a.val d.val 0x02)
  | .mulh d a b => .short (packReg 0 1 b.val a.val d.val 0x02)
  | .mulhn d a b => .short (packReg 0 2 b.val a.val d.val 0x02)
  | .div d a b => .short (packReg 0 3 b.val a.val d.val 0x02)
  | .divn d a b => .short (packReg 0 4 b.val a.val d.val 0x02)
  | .rem d a b => .short (packReg 0 5 b.val a.val d.val 0x02)
  | .remn d a b => .short (packReg 0 6 b.val a.val d.val 0x02)
  | .clz d a => .short (packReg 0 8 0 a.val d.val 0x02)
  | .ctz d a => .short (packReg 0 9 0 a.val d.val 0x02)
  | .popc d a => .short (packReg 0 10 0 a.val d.val 0x02)
  | .sel d a b c => .short (packF c.val b.val a.val d.val 0x03)
  | .addi d a imm => .short (imm.toNat * 2 ^ 18 + a.val * 2 ^ 13 + d.val * 2 ^ 8 + 4 * 4)
  | .andi d a imm => .short (imm.toNat * 2 ^ 18 + a.val * 2 ^ 13 + d.val * 2 ^ 8 + 5 * 4)
  | .ori d a imm => .short (imm.toNat * 2 ^ 18 + a.val * 2 ^ 13 + d.val * 2 ^ 8 + 6 * 4)
  | .xori d a imm => .short (imm.toNat * 2 ^ 18 + a.val * 2 ^ 13 + d.val * 2 ^ 8 + 7 * 4)
  | .slti d a imm => .short (imm.toNat * 2 ^ 18 + a.val * 2 ^ 13 + d.val * 2 ^ 8 + 9 * 4)
  | .shli d a sh => .short (0 * 2 ^ 24 + sh.toNat * 2 ^ 18 + a.val * 2 ^ 13 + d.val * 2 ^ 8 + 0x08 * 4)
  | .shri d a sh => .short (1 * 2 ^ 24 + sh.toNat * 2 ^ 18 + a.val * 2 ^ 13 + d.val * 2 ^ 8 + 0x08 * 4)
  | .srai d a sh => .short (2 * 2 ^ 24 + sh.toNat * 2 ^ 18 + a.val * 2 ^ 13 + d.val * 2 ^ 8 + 0x08 * 4)
  | .li d imm => .short (imm.toNat * 2 ^ 13 + d.val * 2 ^ 8 + 0x0A * 4)
  | .liX d imm => .long (d.val * 2 ^ 8 + 0x0A * 4) (imm.toNat % 2 ^ 32) (imm.toNat / 2 ^ 32)
  | .mov d a => .short (packReg 0 0 0 a.val d.val 0x18)
  | .move d a => .short (packReg 0 1 0 a.val d.val 0x18)
  | .kind d a => .short (packReg 0 2 0 a.val d.val 0x18)
  | .cget f d a => .short (packReg f.code 3 0 a.val d.val 0x18)
  | .csetb d a b => .short (packReg 0 4 b.val a.val d.val 0x18)
  | .csetp d a b => .short (packReg 0 5 b.val a.val d.val 0x18)
  | .csetc d a b => .short (packReg 0 6 b.val a.val d.val 0x18)
  | .cinc d a b => .short (packReg 0 7 b.val a.val d.val 0x18)
  | .ld op d a => .short (packMem op d a 0x10)
  | .st op d a => .short (packMem op d a 0x11)
  | .lds op d a => .short (packFew 0 op d a)
  | .sts op d a => .short (packFew 1 op d a)
  | .fest op d a => .short (packFew 2 op d a)
  | .feget op d a => .short (packFew 3 op d a)
  | .atm op f d a b => .short (packReg (bitOf f.w + bitOf f.am * 2 + bitOf f.rx * 4) op.code b.val a.val d.val 0x13)
  | .atmCas f d a b c => .short (packF ((bitOf f.w + bitOf f.am * 2 + bitOf f.rx * 4) * 32 + c.val) b.val a.val d.val 0x14)
  | .atmf op am rx d a b => .short (packReg (bitOf am * 2 + bitOf rx * 4) op.code b.val a.val d.val 0x15)
  | .cpy x d a b => .long (packReg 0 0 b.val a.val d.val 0x16) (packCpyX x) 0
  | .cpyAt x d a b t => .lit (packReg 0 0 b.val a.val d.val 0x16) (packCpyX x) 0 t.toNat
  | .cpys x d a b => .long (packReg 0 1 b.val a.val d.val 0x16) (packCpysX x) x.count.toNat
  | .cpysAt x d a b t => .lit (packReg 0 1 b.val a.val d.val 0x16) (packCpysX x) x.count.toNat t.toNat
  | .fadd rm d a b => .short (packReg rm.code 0 b.val a.val d.val 0x1A)
  | .fsub rm d a b => .short (packReg rm.code 1 b.val a.val d.val 0x1A)
  | .fmul rm d a b => .short (packReg rm.code 2 b.val a.val d.val 0x1A)
  | .fdiv rm d a b => .short (packReg rm.code 3 b.val a.val d.val 0x1A)
  | .fsqrt rm d a => .short (packReg rm.code 4 0 a.val d.val 0x1A)
  | .fmin d a b => .short (packReg 0 5 b.val a.val d.val 0x1A)
  | .fmax d a b => .short (packReg 0 6 b.val a.val d.val 0x1A)
  | .fcmp p d a b => .short (packReg p.code 7 b.val a.val d.val 0x1A)
  | .fclass d a => .short (packReg 0 8 0 a.val d.val 0x1A)
  | .ffma rm d a b c => .short (packF (rm.code * 32 + c.val) b.val a.val d.val 0x1B)
  | .cvt rm f t d a => .short (packReg rm.code f.code t.code a.val d.val 0x1C)
  | .img f d a => .short (packReg 8 f.code 0 a.val d.val 0x1C)
  | .imgi f d a => .short (packReg 16 f.code 0 a.val d.val 0x1C)
  | .sbind wr f d a b => .short (packReg (bitOf wr * 16 + f.code) 0 b.val a.val d.val 0x19)
  | .scnt d a => .short (packReg 0 1 0 a.val d.val 0x19)
  | .vadd v => .vec (packVec 0 0x20 v.fmt v.msk v.vb.val v.va.val v.vd.val)
  | .vsub v => .vec (packVec 1 0x20 v.fmt v.msk v.vb.val v.va.val v.vd.val)
  | .vmul v => .vec (packVec 2 0x20 v.fmt v.msk v.vb.val v.va.val v.vd.val)
  | .vfma v => .vec (packVec 3 0x20 v.fmt v.msk v.vb.val v.va.val v.vd.val)
  | .vmin v => .vec (packVec 0 0x21 v.fmt v.msk v.vb.val v.va.val v.vd.val)
  | .vmax v => .vec (packVec 1 0x21 v.fmt v.msk v.vb.val v.va.val v.vd.val)
  | .vsel v => .vec (packVec 2 0x21 v.fmt v.msk v.vb.val v.va.val v.vd.val)
  | .vcx v => .vec (packVec 3 0x21 v.fmt v.msk v.vb.val v.va.val v.vd.val)
  | .vcmp p v => .vec (packVec p.code 0x22 v.fmt v.msk v.vb.val v.va.val v.vd.val)
  | .vand v => .vec (packVec 0 0x23 v.fmt v.msk v.vb.val v.va.val v.vd.val)
  | .vor v => .vec (packVec 1 0x23 v.fmt v.msk v.vb.val v.va.val v.vd.val)
  | .vxor v => .vec (packVec 2 0x23 v.fmt v.msk v.vb.val v.va.val v.vd.val)
  | .vshl v => .vec (packVec 0 0x24 v.fmt v.msk v.vb.val v.va.val v.vd.val)
  | .vshr v => .vec (packVec 1 0x24 v.fmt v.msk v.vb.val v.va.val v.vd.val)
  | .viadd v => .vec (packVec 2 0x24 v.fmt v.msk v.vb.val v.va.val v.vd.val)
  | .visub v => .vec (packVec 3 0x24 v.fmt v.msk v.vb.val v.va.val v.vd.val)
  | .vimul v => .vec (packVec 0 0x25 v.fmt v.msk v.vb.val v.va.val v.vd.val)
  | .vred v => .vec (packVec 1 0x25 v.fmt v.msk 0 v.va.val v.vd.val)
  | .vscan v => .vec (packVec 2 0x25 v.fmt v.msk v.vb.val v.va.val v.vd.val)
  | .vabs v => .vec (packVec 0 0x26 v.fmt v.msk 0 v.va.val v.vd.val)
  | .vneg v => .vec (packVec 0 0x26 v.fmt v.msk 1 v.va.val v.vd.val)
  | .vexp2 v => .vec (packVec 0 0x26 v.fmt v.msk 2 v.va.val v.vd.val)
  | .vlog2 v => .vec (packVec 0 0x26 v.fmt v.msk 3 v.va.val v.vd.val)
  | .vrcp v => .vec (packVec 0 0x26 v.fmt v.msk 4 v.va.val v.vd.val)
  | .vrsq v => .vec (packVec 0 0x26 v.fmt v.msk 5 v.va.val v.vd.val)
  | .vtanh v => .vec (packVec 0 0x26 v.fmt v.msk 6 v.va.val v.vd.val)
  | .vmov v => .vec (packVec 0 0x26 v.fmt v.msk 7 v.va.val v.vd.val)
  | .vsplat v => .vec (packVec 0 0x26 v.fmt v.msk 8 v.va.val v.vd.val)
  | .vcvt v => .vec (packVec 0 0x26 v.fmt v.msk 9 v.va.val v.vd.val)
  | .vgath v => .vec (packVec 0 0x27 v.fmt v.msk v.vb.val v.va.val v.vd.val)
  | .vscat v => .vec (packVec 1 0x27 v.fmt v.msk v.vb.val v.va.val v.vd.val)
  | .movmMg d a => .short (packReg 0 0 0 a.val d.val 0x1E)
  | .movmGm d a => .short (packReg 1 0 0 a.val d.val 0x1E)
  | .mand d a b => .short (packReg 0 1 b.val a.val d.val 0x1E)
  | .mor d a b => .short (packReg 0 2 b.val a.val d.val 0x1E)
  | .mxor d a b => .short (packReg 0 3 b.val a.val d.val 0x1E)
  | .mnot d a => .short (packReg 0 4 0 a.val d.val 0x1E)
  | .mpop d a => .short (packReg 0 5 0 a.val d.val 0x1E)
  | .mff d a => .short (packReg 0 6 0 a.val d.val 0x1E)
  | .gjoin g => .short (packReg g.val 0 0 0 0 0x28)
  | .gleave g => .short (packReg g.val 1 0 0 0 0x28)
  | .gshfl g d a b => .short (packReg g.val 2 b.val a.val d.val 0x28)
  | .gvote g m d a => .short (packReg g.val 3 m.code a.val d.val 0x28)
  | .gmatch g d a => .short (packReg g.val 4 0 a.val d.val 0x28)
  | .gred g op d a => .short (packReg g.val op.code 0 a.val d.val 0x29)
  | .gxld g wide am d a => .short (packReg g.val (bitOf wide) (bitOf am) a.val d.val 0x2A)
  | .binit n a => .short (packF n.val 0 a.val 0 0x2B)
  | .barr n => .short (packF n.val 1 0 0 0x2B)
  | .bwait n d => .short (packF n.val 2 0 d.val 0x2B)
  | .bsync n d => .short (packF n.val 3 0 d.val 0x2B)
  | .bexp n a => .short (packF n.val 4 a.val 0 0x2B)
  | .cstat n a => .short (packF n.val 5 a.val 0 0x2B)
  | .send t a b => .short (packF t.toNat b.val a.val 0 0x2C)
  | .sendh t a b => .short (packF t.toNat b.val a.val 0 0x2D)
  | .pbind d => .short (packReg 0 0 0 0 d.val 0x2E)
  | .btag a b => .short (packReg 0 1 b.val a.val 0 0x2E)
  | .peek d a => .short (packReg 0 2 0 a.val d.val 0x2E)
  | .loopb d a b => .short (packReg 0 3 b.val a.val d.val 0x2E)
  | .cred op d a b => .short (packReg 0 op.code b.val a.val d.val 0x2F)
  | .fence s => .short (packF (s.code * 64) 0 0 0 0x17)
  | .fencex s p => .short (packF (s.code * 64 + bitOf p.thread + bitOf p.copy * 2 + bitOf p.matrix * 4 + bitOf p.hawk * 8 + bitOf p.lineage * 16
      + bitOf p.combine * 32) 0 0 1 0x17)
  | .bload x a => .long (packReg x.fmt.code 0 0 a.val 0 0x30)
      (x.p.toNat + x.k.toNat * 2 ^ 8 + x.n.toNat * 2 ^ 17 + bitOf x.am * 2 ^ 26) x.pitch.toNat
  | .minit x a => .long (packReg 0 1 0 a.val 0 0x30) (x.tiles.toNat + x.row0.toNat * 2 ^ 4 + x.rows.toNat * 2 ^ 13) 0
  | .mpload x a => .long (packReg 0 2 0 a.val 0 0x30) (x.t.val + x.row0.toNat * 4 + x.rows.toNat * 2 ^ 11 + bitOf x.am * 2 ^ 20) 0
  | .mstat t d => .long (packReg 0 3 0 0 d.val 0x30) t.val 0
  | .mma x a => .long (packReg x.fa.code 0 x.fb.code a.val 0 0x31) (packMmaX1 x) (packMmaX2 x)
  | .mmad x d a => .long (packReg x.fa.code 1 x.fb.code a.val d.val 0x31) (packMmaX1 x) (packMmaX2 x)
  | .mdrain x y d => .long (packMdrain y d) (packDrainX x) y.pitch.toNat
  | .mdrainAt x y d t => .lit (packMdrain y d) (packDrainX x) y.pitch.toNat t.toNat
  | .mdraina x y a => .long (packMdraina y a) (packDrainX x + y.u.val * 2 ^ 29) (y.prow0.toNat + y.pcol0.toNat * 2 ^ 9)
  | .mdrainaAt x y a t => .lit (packMdraina y a) (packDrainX x + y.u.val * 2 ^ 29) (y.prow0.toNat + y.pcol0.toNat * 2 ^ 9) t.toNat
  | .tnew rows cols f maxd d a b => .long (packReg 0 0 b.val a.val d.val 0x34) (rows.toNat + f.code * 2 ^ 24 + maxd.toNat * 2 ^ 28) cols.toNat
  | .topen colb coln keep d a b => .long (packReg 0 1 b.val a.val d.val 0x34) colb.toNat (coln.toNat + keep.toNat * 2 ^ 24)
  | .fork t nf d a s => .long (packReg (bitOf t + bitOf nf * 2) 2 0 a.val d.val 0x34) 0 (s.val * 2 ^ 27)
  | .rebase t a b s => .long (packReg (bitOf t) 3 b.val a.val 0 0x34) 0 (s.val * 2 ^ 27)
  | .flat t a s => .long (packReg (bitOf t) 4 0 a.val 0 0x34) 0 (s.val * 2 ^ 27)
  | .tfree t a s => .long (packReg (bitOf t) 5 0 a.val 0 0x34) 0 (s.val * 2 ^ 27)
  | .tinfo q d a => .long (packReg 0 6 0 a.val d.val 0x34) q.val 0
  | .trd d a => .long (packReg 0 0 0 a.val d.val 0x35) 0 0
  | .twr t a b s => .long (packReg (bitOf t) 1 b.val a.val 0 0x35) 0 (s.val * 2 ^ 27)
  | .tld z d a i off => .long (packReg 0 2 i.val a.val d.val 0x35) off.toNat z.code
  | .tst t z d a i s off => .long (packReg (bitOf t) 3 i.val a.val d.val 0x35) off.toNat (z.code + s.val * 2 ^ 27)
  | .calloc d a => .short (packReg 0 0 0 a.val d.val 0x36)
  | .csplit col d a b => .short (packReg (bitOf col) 1 b.val a.val d.val 0x36)
  | .cjoin d a b => .short (packReg 0 2 b.val a.val d.val 0x36)
  | .cfree a => .short (packReg 0 3 0 a.val 0 0x36)
  | .cshape d a => .short (packReg 0 4 0 a.val d.val 0x36)
  | .hsel asc x d a b => .long (packReg (x.kf.code * 2 + bitOf asc) 0 b.val a.val d.val 0x37) (packHselX x) 0
  | .hselw wn x p d a b => .long (packReg (x.kf.code * 2) 1 b.val a.val d.val 0x37) (packHselX x + bitOf wn * 2 ^ 17) p.toNat
  | .hmask d a => .short (packReg 0 2 0 a.val d.val 0x37)
  | .hstat d => .short (packReg 0 3 0 0 d.val 0x37)
  | .tsub a b => .short (packReg 0 0 b.val a.val 0 0x38)
  | .tsubAt a b t => .lit (packReg 0 0 b.val a.val 0 0x38) 0 0 t.toNat
  | .tdone => .short (packReg 0 1 0 0 0 0x38)
  | .gate op d a b => .short (packReg op.code 2 b.val a.val d.val 0x38)
  | .trec q d => .short (packReg q.val 3 0 0 d.val 0x38)
  | .qpost op a b => .short (packReg op.code 4 b.val a.val 0 0x38)
  | .relaxedLoadReply _ => .none
  | .relaxedAccessComplete _ => .none
  | .farAccessReply _ => .none
  | .accessPerformed _ => .none
  | .windowWrite _ => .none
  | .feFirstTest _ => .none
  | .feRetryTick _ => .none
  | .streamReadaheadArrival _ => .none
  | .streamWriteAck _ => .none
  | .engineAccept _ => .none
  | .engineAtStart _ => .none
  | .copyWrite _ => .none
  | .cpysRingWrite _ => .none
  | .copyComplete _ => .none
  | .copyError _ => .none
  | .pageWalkStart _ => .none
  | .walkComplete _ => .none
  | .faultDecision _ => .none
  | .xlateResolve _ => .none
  | .poolResolve _ => .none
  | .arrivalCounted _ => .none
  | .barrierForward _ => .none
  | .barrierCompletionNotice _ => .none
  | .barTimeout _ _ _ => .none
  | .cstatRecordWrite _ => .none
  | .gxldRowsArrive _ _ => .none
  | .messageArrival _ => .none
  | .messageReoffer _ _ => .none
  | .sendhAnswer _ => .none
  | .combinePacket _ => .none
  | .credRootDelivery _ => .none
  | .minitClaimGrant _ => .none
  | .matrixComplete _ => .none
  | .matrixViolation _ => .none
  | .mdrainaConfirm _ => .none
  | .mdrainaPeerAdd _ => .none
  | .hawkComplete _ => .none
  | .heldResultRestore _ => .none
  | .lineageOperation _ => .none
  | .lineageReply _ => .none
  | .pinDrop _ _ => .none
  | .cocoonTableServe _ => .none
  | .granuleScrubDone _ _ => .none
  | .unitScrubDone _ _ => .none
  | .threadReady _ => .none
  | .dispatchDecision _ _ => .none
  | .threadSave _ => .none
  | .forcedSave _ => .none
  | .taskSave _ => .none
  | .taskSaveComplete _ => .none
  | .taskEnd _ _ => .none
  | .populationDeferredPlace _ _ => .none
  | .launchAtRelease _ _ => .none
  | .gateApply _ => .none
  | .gateReply _ => .none
  | .tsubAtInsert _ => .none
  | .signalUpdate _ => .none
  | .signalEntryWrite _ _ _ => .none
  | .bridleEvaluate => .none
  | .settleExpire _ => .none
  | .wptr _ _ _ => .none
  | .reset _ _ => .none
  | .packetFetch => .none
  | .packetBegin _ => .none
  | .launchPacket _ => .none
  | .tasksPacket _ => .none
  | .signalPacket _ => .none
  | .waitPacket _ => .none
  | .timerPacket _ => .none
  | .copyPacket _ => .none
  | .fencePacket _ => .none
  | .packetComplete _ => .none
  | .statusEntryWrite _ => .none
  | .eccCorrected _ => .none
  | .softErr _ => .none
  | .translationChange _ _ _ _ => .none
  | .hostMailboxWrite _ => .none
  | .mailboxMessage _ _ => .none
  | .barWrite _ _ _ => .none
  | .firmwareActivation _ => .none
  | .forcedActivation => .none
  | .attestationRequest _ => .none
  | .measurementExtend _ _ => .none
  | .svnRaise => .none
  | .coldReset => .none
  | .domainJoin _ _ => .none
  | .flitReceive _ _ => .none
  | .portRetrain _ => .none
  | .contextCreate _ _ => .none
  | .rootRegister _ _ _ => .none
  | .imageLoad _ _ => .none
  | .hostTensorFree _ _ => .none
  | .cocoonRegionSet _ => .none
  | .poolAssign _ => .none
  | .bridleSet _ _ => .none
  | .waittWake _ => .none
  | .sleepWake _ => .none
  | .illegalEncoding => .none
  | .fetchFault _ _ => .none
  | .queueCreate _ _ _ _ => .none
  | .qpostAcknowledgement _ => .none

/-- The words of a bundle (02 R21). -/
def Bundle.encode (b : Bundle) : List Nat :=
  match b.first.enc, b.vec with
  | .short w, none => [w]
  | .long w x1 x2, none => [w + 2, x1, x2]
  | .lit w x1 x2 t, none => [w + 3, x1, x2, t % 2 ^ 32, t / 2 ^ 32]
  | .short w, some j =>
    match j.enc with
    | .vec v => [w + 1, v]
    | _ => []
  | _, _ => []

/-! ## The words of the opcode table -/

/-- The words an opcode-table row's bits stand for: a vector word is laid as the second word of a pair with NOP, the only
place it can stand (02 R32); any other first word is followed by the zero words its L field asks for. -/
def tableWords (w : Nat) : List Nat :=
  let w0 := w % 2 ^ 32
  if 0x20 ≤ fld w0 2 6 ∧ fld w0 2 6 ≤ 0x27 then [0x3D, w0]
  else
    match bundleWords w0 with
    | 1 => [w0]
    | 2 => [w0, w / 2 ^ 32 % 2 ^ 32]
    | 3 => [w0, w / 2 ^ 32 % 2 ^ 32, w / 2 ^ 64 % 2 ^ 32]
    | _ => [w0, w / 2 ^ 32 % 2 ^ 32, w / 2 ^ 64 % 2 ^ 32, w / 2 ^ 96 % 2 ^ 32, w / 2 ^ 128 % 2 ^ 32]

/-- The instruction the decoder reads from an opcode-table row's bits. -/
def decodeTableWord (nbits w : Nat) : Option Instr :=
  match decodeBundle (tableWords (w % 2 ^ nbits)) with
  | some b => some (b.vec.getD b.first)
  | none => none

end Sys2Proof
end

