-- ==== Sys2Proof/Config.lean ====
section
/-!
DEFINITION. The free values: what the spec leaves open and the machine nevertheless goes on with. Each is an opaque
constant with no body, so nothing in Lean can evaluate it and a statement about it holds for every value. The counter
State.free is advanced each time one is drawn. Log entries 2, 3, 13, 14 and 15 say which is used where.
-/

namespace Sys2Proof.Config

/-- A fresh natural number of no stated value: an order, a cycle inside a stated window, a delay the spec does not bound
(01 R18, 11 R209, 06 R115, 21 R321). Drawn by State.free. -/
opaque freeNat : Nat → Nat

/-- A fresh byte of no stated value (11 R216: the outcome of a race; 06 R116: overlapping copies). -/
opaque freeByte : Nat → Byte

/-- The latency of the host memory beyond the formula of 06 R104 (its H), in cycles. -/
opaque hostLatency : Nat

/-- Where Gondola keeps a context's save records in stacked DRAM, counted in 2 MiB: 21 R329 does not give the place (log entry 59). -/
opaque saveArea : Nat → Nat

/-- SHA-384 (23 R353, R354 name the standard function and do not give it): 384 bits as a number. -/
opaque sha384 : List Byte → Nat

/-- Whether an ECDSA P-384 signature over a digest verifies under a key (23 R353 names the standard function). -/
opaque ecdsaVerify : Nat → Nat → List Byte → Bool

/-- The signature the security core answers with (23 R354): key, digest. -/
opaque ecdsaSign : Nat → Nat → List Byte


end Sys2Proof.Config
end

