-- ==== Sys2Proof/Machine/State.lean ====
section
/-!
DEFINITION. The state of the JX-9600 as the spec gives it, and its value at module cold reset. INVENTORY.md lists every
field with the rule that names it and its reset value.
-/

namespace Sys2Proof.Machine

/-! ## Registers and threads -/

/-- The register kinds (05 R74); codes 0 to 5 and 14. -/
inductive Kind where
  | data | cap | strm | tens | coc | port | moved
  deriving DecidableEq, Repr

/-- A register: its kind and its 128 bits (05 R74). -/
structure GReg where
  kind : Kind
  bits : QWord
  deriving DecidableEq, Repr

/-- DATA zero: what clearing leaves (04 R59) and what G0 reads as (05 R75). -/
def GReg.zero : GReg := ⟨.data, 0⟩

/-- The fault causes of 21 R318. -/
inductive Cause where
  | illegal | kind | bounds | perm | align | moved | xlate | frozen | dead | pool | hltMismatch | hltFull | hltStale
  | feRetry | barOverrun | barTimeout | msgDest | priv | softErr
  deriving DecidableEq, Repr

/-- Counts of the six numeric events (07 R140). -/
structure Counts where
  nan : Nat
  inf : Nat
  sat : Nat
  ftz : Nat
  div0 : Nat
  inv : Nat
  deriving DecidableEq, Repr

/-- Where one byte lives (06 R101, 11 R203). -/
inductive Place where
  /-- A byte of a core's local store. -/
  | ls (core off : Nat)
  /-- A byte of the register window of a thread name (core * 16 + slot), offset 0 to 511 (05 R89). -/
  | reg (tid off : Nat)
  /-- A byte of the record copy of a thread name, offset 0 to 31. -/
  | recCopy (tid off : Nat)
  /-- A byte of a cluster's accumulator window. -/
  | acc (cl off : Nat)
  /-- A byte of a cluster's B-store. -/
  | bstore (cl off : Nat)
  /-- A byte of stacked DRAM, LPDDR or host memory. -/
  | phys (pa : Nat)
  deriving DecidableEq, Repr

/-- What a parked thread waits for (04 R54). -/
inductive Wait where
  /-- A register awaiting a relaxed load (05 R88). -/
  | pending (reg : Nat)
  /-- Fewer than eight relaxed accesses outstanding (06 R106). -/
  | relaxedRoom
  /-- Every relaxed access and posted stream write complete at a scope (11 R207, R210). -/
  | relaxedDone (scope : Nat)
  /-- The same at a scope, in an instruction whose park is a save point: a fence, TSUB, TDONE, QPOST, BSYNC, CSTAT (21 R326,
  20 R304). -/
  | relaxedPoint (scope : Nat)
  /-- The reply of an access in flight (06 R104). -/
  | reply (req : Nat)
  /-- A full/empty access parked at its word or under way to it (06 R110). -/
  | fullEmpty (req : Nat)
  /-- Acceptance of a copy command (06 R115). -/
  | accept (cmd : Nat)
  /-- Completion of an engine command (13 R231, 18 R291). -/
  | command (cmd : Nat)
  /-- The reply of Chrysalis (15 R256). -/
  | lineage (op : Nat)
  /-- The reply of the handle-lineage table (17 R280). -/
  | cocoon (op : Nat)
  /-- Elements of a stream of the vector half (08 R148, R150). -/
  | stream
  /-- Room for posted stream writes (08 R148). -/
  | postRoom
  /-- A message for the thread's port (10 R189). -/
  | port
  /-- More than 64 entries in the inbox: the overflow port (10 R197). -/
  | overflowPort
  /-- A free normal inbox entry: LOOPB (10 R198). -/
  | inboxRoom
  /-- Room in the core's outbound buffer (10 R191). -/
  | outbound
  /-- The answer of a SENDH (10 R191). -/
  | sendh (msg : Nat)
  /-- The phase a barrier is in, before arriving again (09 R181). -/
  | phaseFirst (bar phase : Nat)
  /-- Completion of a phase after arriving or in BWAIT (09 R181). -/
  | phase (bar phase : Nat)
  /-- The answer of the home core of a barrier (09 R177). -/
  | home (bar : Nat)
  /-- The record of a CSTAT (09 R185). -/
  | cstat (bar phase : Nat)
  /-- A collective of a group (09 R169). -/
  | collective (g : Nat)
  /-- GJOIN behind a pending collective (09 R168). -/
  | joining (g : Nat)
  /-- Room for a fifth gathering (10 R201). -/
  | gatherRoom
  /-- The core's fold of a reduction has not been sent (10 R201). -/
  | fold (red : Nat)
  /-- The root of a reduction (10 R202). -/
  | root (red : Nat)
  /-- Commands of the thread on the paths of a FENCEX (11 R219). -/
  | fenceCmds
  /-- A page walk for a data access of the bundle (21 R337). -/
  | walk (va : Nat)
  /-- A page walk for the fetch of the bundle (21 R337, 02 R37). -/
  | fetchWalk (va : Nat)
  /-- A fault record at the error core (21 R319). -/
  | faultRec (rec : Nat)
  /-- WAITT, until the counter reaches a time (04 R70). -/
  | until_ (time : Nat)
  /-- SLEEP, until a cycle (04 R70). -/
  | asleep (cycle : Nat)
  /-- The answer of a gate operation (20 R304). -/
  | gate (op : Nat)
  /-- Room among the context's pending records (20 R305). -/
  | recordRoom
  /-- The acknowledgement of a QPOST (20 R309). -/
  | qpost (op : Nat)
  /-- Room in the status queue (04 R73, 20 R317). -/
  | statusRoom
  /-- A waiting tile claim (13 R233). -/
  | claim (cmd : Nat)
  /-- A confirmation from a peer array (13 R239). -/
  | confirm (cmd : Nat)
  /-- Its own save at a PPT, with the live registers (04 R71, 21 R326). -/
  | saving (live : Nat)
  deriving DecidableEq, Repr

/-- Where a thread stands between its turns (04 R53, R54, R59). -/
inductive Status where
  /-- Cleared and seeded no earlier than THREAD_READY (04 R59). -/
  | launching
  /-- Held for the release time of a LAUNCH (20 R315). -/
  | heldLaunch
  /-- Issues at its next turn. -/
  | ready
  /-- Its bundle is executing in this step. -/
  | issuing
  /-- Woken in this cycle: its bundle goes on now. -/
  | wake
  /-- A save stops its vector half: the elements it has processed are committed now (08 R151). -/
  | stopVector
  /-- Its bundle has met bank collisions and retires in the last of the turns it loses (05 R88, 06 R103). -/
  | collided
  /-- Parked. -/
  | parked (w : Wait)
  deriving DecidableEq, Repr

/-- A read-ahead of one stream register: indices and elements, as read at their homes (08 R148). -/
structure ReadAhead where
  reg : Nat
  vals : List (Nat × Nat)
  deriving DecidableEq, Repr

/-- An inbox entry (10 R187). -/
structure InboxEntry where
  ctx : Nat
  seq : Nat
  sslot : Nat
  score : Nat
  dslot : Nat
  tag : BitVec 8
  payload : GReg
  deriving DecidableEq, Repr

/-- What a pair has read in its turn, while it is parked (02 R33, R35): the registers, masks, RMODE, AMAX and PREEMPT as they stood, which
of the registers awaited a relaxed load, the time counter and the core's event counters, and, of an LD or ST whose checks are complete, where
its access goes and what the LD has loaded. -/
structure Latch where
  g : List GReg
  m : List (BitVec 16)
  rmode : BitVec 2
  pend : List (Nat × Nat)
  amax : Word
  preempt : Bool
  time : Nat
  evc : List Word
  held : Option (Place × GReg)
  deriving DecidableEq, Repr

/-- What a bundle with bank collisions has still to write when it retires (05 R88): registers, stream cursors, masks, AMAX, the program
counter, the event counters' increments, and how far the readers of its copy-fed streams have passed. -/
structure Late where
  regs : List (Nat × GReg)
  curs : List (Nat × GReg)
  m : List (BitVec 16)
  amax : Word
  pc : VAddr
  incs : List Nat
  passed : List (Nat × Nat)
  deriving DecidableEq, Repr

/-- A thread (04 R60, R62). -/
structure Thread where
  ctx : Nat
  owner : Nat
  nregs : Nat
  g : List GReg
  m : List (BitVec 16)
  pc : VAddr
  groups : BitVec 16
  rmode : BitVec 2
  amax : Word
  feLimit : Word
  fltCause : BitVec 8
  fltAddr : DWord
  fltPc : VAddr
  preempt : Bool
  /-- Arrival records: barrier number and phase (09 R176). -/
  arrivals : List (Nat × Nat)
  /-- Registers awaiting a relaxed load, and its access (05 R88). -/
  pend : List (Nat × Nat)
  /-- Registers that free the ring of a CPYS, and its command (06 R118). -/
  rings : List (Nat × Nat)
  /-- Elements read ahead and not yet consumed (08 R148). -/
  ahead : List ReadAhead
  status : Status
  /-- First cycle at which the thread may issue. -/
  nextIssue : Nat
  /-- Cycle in which the current bundle issued. -/
  issueAt : Nat
  /-- Bytes of the current bundle (02 R21). -/
  size : Nat
  /-- The bundle as it issued, for its continuation after a park (02 R35, 04 R54). -/
  bundle : Option Bundle
  /-- Turns held for EVC_PARK by resolved faults (04 R56). -/
  held : Nat
  /-- The parked bundle's arrival at its barrier is already counted (09 R184). -/
  arrived : Bool
  /-- The message the parked bundle has read from its port: the pop commits at retirement (10 R194). -/
  popDue : Option InboxEntry
  /-- What the parked pair read in its turn (02 R33). -/
  latch : Option Latch
  /-- What the bundle writes when the turns it loses are over (05 R88). -/
  late : Option Late
  /-- Destination register of the BWAIT or BSYNC it is parked in. -/
  barD : Nat
  /-- A fault resolved for the next issue: cause, address, bundle (21 R320). -/
  replay : Option (Cause × DWord × VAddr)
  /-- Population order on the core (20 R316). -/
  ordinal : Nat
  seed1 : GReg
  seed3 : GReg
  seed4 : GReg
  deriving DecidableEq, Repr

/-- Who writes, for a logged violation (21 R323). -/
structure Writer where
  ctx : Nat
  taskid : DWord
  agent : Nat
  core : Nat
  unit : Nat
  info : DWord
  deriving DecidableEq, Repr

/-- The operation of an access in flight. -/
inductive AccOp where
  | load (sz : Nat)
  | store (sz : Nat) (v : GReg)
  | atm (op : AtmOp) (sz : Nat) (v : Nat)
  | cas (sz : Nat) (expect new : Nat)
  | atmf (op : AtmfOp) (v : Nat)
  | lds
  | sts (v : Word)
  | fest (full : Bool)
  | feget
  /-- Elements of a fetched write stream, one posted write (08 R148). -/
  | post (bytes : List (Place × Byte))
  /-- Elements read ahead for a stream register: index, first byte and bit within it, w bits each (08 R148). -/
  | ahead (reg : Nat) (strm : QWord) (w : Nat) (elems : List (Nat × Place × Nat))
  /-- An engine's write through a register window (05 R89): bytes within the register, the command, and the place of the first byte in
  its destination. -/
  | window (bytes : List (Nat × Byte)) (w : Writer) (cmd o : Nat)
  deriving DecidableEq, Repr

/-- An access in flight on the THREAD path, or a window write (06 R104, R106, R110; 11 R209). -/
structure Req where
  tid : Nat
  op : AccOp
  /-- Homes of the bytes, in address order. -/
  at_ : List Place
  /-- The checked address, for a logged fault. -/
  addr : Nat
  relaxed : Bool
  issued : Nat
  lat : Nat
  dest : Nat
  /-- Register whose cursor .INC advances at retirement. -/
  inc : Option Nat
  performed : Bool
  result : GReg
  counts : Counts
  /-- Failed tests so far (06 R110). -/
  retries : Nat
  /-- Cycle of the first test (06 R110). -/
  firstTest : Nat
  /-- Parked at its word after a failed first test (06 R110). -/
  atWord : Bool
  /-- Handle counted in ACTIVE: cluster and index (17 R272). -/
  handle : Option (Nat × Nat)
  /-- The thread's saves and ends have abandoned it. -/
  dropped : Bool
  /-- Elements a read-ahead has read. -/
  vals : List (Nat × Nat)
  /-- The task or population of its thread, whose end waits for its stores (20 R303). -/
  owner : Nat
  deriving DecidableEq, Repr

/-- What the issuing bundle carries (02 R33, R35). -/
structure Issue where
  tid : Nat
  /-- The bundle is a pair. -/
  paired : Bool
  /-- A save stops the vector half: what it has processed is committed (08 R151). -/
  commit : Bool
  /-- What the pair read in its turn. -/
  latch : Option Latch
  /-- Internal accesses of the bundle in each bank (06 R103). -/
  banks : List Nat
  deriving DecidableEq, Repr

/-! ## Groups, barriers, messages (09, 10) -/

/-- One member's part of a pending collective (09 R169). -/
structure CollEntry where
  slot : Nat
  d : Nat
  a : QWord
  b : QWord
  /-- GXLD: the resolved rows. -/
  rows : List (List Place)
  deriving DecidableEq, Repr

/-- A pending collective: its selecting fields and the members that have issued (09 R169). -/
structure Coll where
  g : Nat
  sel : Instr
  entries : List CollEntry
  /-- The rows of a completed GXLD are on their way (09 R174). -/
  rowsComing : Bool
  deriving DecidableEq, Repr

/-- A barrier (09 R176). -/
structure Barrier where
  /-- ERROR and what set it, with the logged address (09 R180, R183). -/
  err : Option (Cause × Nat)
  scope : Nat
  count : Nat
  timeout : Nat
  phase : Nat
  arrived : Nat
  expect : Nat
  delivered : Nat
  /-- Cycle in which the phase's clock started (09 R183). -/
  clock : Option Nat
  /-- CSTAT arrivers of the phase: thread and record capability (09 R185). -/
  cstat : List (Nat × List Place)
  deriving DecidableEq, Repr

/-- The reset values of 09 R176. -/
def Barrier.reset : Barrier := ⟨none, 0, 1, 0, 0, 0, 0, 0, none, []⟩

/-- What is forwarded to a barrier's home, or back (09 R177, R181). -/
inductive FwdOp where
  | arrive (tid : Nat)
  | arriveWait (tid : Nat) (cstat : Option (List Place))
  | wait (tid : Nat) (w : Option Nat) (cstat : Option (List Place))
  | bexp (n : Nat)
  | credit (bytes : Nat) (addr : Nat)
  | notice (phase : Nat)
  | answerFault (tid : Nat) (c : Cause) (addr : Nat)
  | answerPhase (tid : Nat) (phase : Nat)
  | answerArrived (tid : Nat) (phase : Nat)
  deriving DecidableEq, Repr

/-- A barrier operation in flight between a forwarding core and the home (09 R177). -/
structure Fwd where
  owner : Nat
  bar : Nat
  from_ : Nat
  home : Nat
  op : FwdOp
  /-- Cycles in which it was sent and in which it arrives. -/
  sent : Nat
  due : Nat
  /-- An operation held at the home until the phase completes, or until the owner has taken the home core. -/
  held : Bool
  deriving DecidableEq, Repr

/-- The record a CSTAT phase writes, on its way to one arriver (09 R185). -/
structure CstatRec where
  owner : Nat
  tid : Nat
  bar : Nat
  /-- Where the record goes: nowhere for G0. -/
  at_ : List Place
  phase : Nat
  sums : List Nat
  cores : Nat
  amax : Word
  deriving DecidableEq, Repr

/-- A message between its sender and its inbox (10 R191). -/
structure Msg where
  src : Nat
  ctx : Nat
  owner : Nat
  /-- Destination thread name (10 R186). -/
  dst : Nat
  tag : BitVec 8
  payload : GReg
  handle : Bool
  /-- Sender's payload register (10 R191). -/
  reg : Nat
  sent : Nat
  /-- Held back in the fabric (10 R188). -/
  heldBack : Bool
  /-- SENDH: answered, and whether it was accepted. -/
  answer : Option Bool
  deriving DecidableEq, Repr

/-- A reduction: what its cores have gathered and sent (10 R199-R202). -/
structure Red where
  ctx : Nat
  owner : Nat
  op : CredOp
  desc : DWord
  /-- Values gathered and not sent: core, slot, value. -/
  gathered : List (Nat × Nat × DWord)
  /-- Folds sent: core, value, cycle. -/
  folds : List (Nat × DWord × Nat)
  /-- Cores whose fold the routers on its way have taken. -/
  arrived : List Nat
  counts : Counts
  /-- Owner's destination register, once its CRED has issued. -/
  dest : Nat
  deriving DecidableEq, Repr

/-- A core: what it holds beyond its threads (01 R14). -/
structure CoreSt where
  /-- EVC_NAN, INF, SAT, FTZ, DIV0, INV, BANK, PARK (07 R140). -/
  evc : List Word
  /-- Increments taken in cycle evcAt, for a CRW of that cycle (07 R141). -/
  evcAdded : List Nat
  evcAt : Nat
  colls : List Coll
  inbox : List InboxEntry
  nextIn : List (BitVec 16)
  nextOut : List (BitVec 16)
  /-- Cycle in which the clear engine has done the work it has accepted (04 R59). -/
  clearBusy : Nat
  /-- Cycle in which the scrubber has done the work it has accepted (06 R100). -/
  scrubBusy : Nat
  /-- Units being scrubbed: first unit and count (06 R100). -/
  scrubbing : List (Nat × Nat)
  deriving DecidableEq, Repr

/-- A core at reset (07 R140, 09 R167, 10 R187). -/
def CoreSt.reset : CoreSt :=
  ⟨List.replicate 8 0, List.replicate 8 0, 0, [], [], List.replicate 16 0, List.replicate 16 0, 0, 0, []⟩

/-! ## Clusters: translation (21) -/

/-- A translation held by a cluster (21 R337): context, first virtual address, page size in bits, the leaf entry. -/
structure TlbEntry where
  ctx : Nat
  va : Nat
  pbits : Nat
  leaf : Nat
  deriving DecidableEq, Repr

/-- A missing page and its walk (21 R337): when it was taken, by which core, and whether its walk runs. -/
structure Miss where
  ctx : Nat
  va : Nat
  since : Nat
  core : Nat
  walking : Bool
  deriving DecidableEq, Repr

/-- A fault record at Gondola's error core, awaiting its decision (21 R319). -/
structure FaultRec where
  tid : Nat
  ctx : Nat
  owner : Nat
  cause : Cause
  addr : DWord
  pc : VAddr
  taskid : DWord
  deriving DecidableEq, Repr

/-! ## Clusters: the handle-lineage table (17 R270) -/

inductive HltState where
  | free | resv | leaf | split
  deriving DecidableEq, Repr

/-- An entry of the handle-lineage table (17 R270). -/
structure HltEntry where
  state : HltState
  root : Bool
  gen : BitVec 16
  parent : Nat
  child0 : Nat
  child1 : Nat
  axis : Bool
  at_ : Nat
  rstart : Nat
  rcount : Nat
  cstart : Nat
  ccount : Nat
  tbase : Nat
  pitch : Nat
  fmt : Nat
  /-- The owner (task or population) whose tile it is. -/
  owner : Option Nat
  /-- The thread name that holds the handle. -/
  holder : Option Nat
  active : Nat
  deriving DecidableEq, Repr

/-- An entry at module reset (17 R270). -/
def HltEntry.reset : HltEntry :=
  ⟨.free, false, 0, 0, 0, 0, false, 0, 0, 0, 0, 0, 0, 0, 0, none, none, 0⟩

/-- An entry of a context's error log (21 R323). -/
structure LogEntry where
  addr : DWord
  taskid : DWord
  info : DWord
  unit : Nat
  core : Nat
  agent : Nat
  cause : Nat
  kind : Nat
  deriving DecidableEq, Repr

/-- An entry as the log's ring holds it, 32 bytes (21 R323). -/
def logWord (e : LogEntry) : BitVec 256 :=
  BitVec.ofNat 256 (e.kind % 2 ^ 8 + e.cause % 2 ^ 8 * 2 ^ 8 + e.agent % 2 ^ 8 * 2 ^ 24 + e.core % 2 ^ 12 * 2 ^ 32 + e.unit % 2 ^ 4 * 2 ^ 44
    + e.info.toNat * 2 ^ 64 + e.taskid.toNat * 2 ^ 128 + e.addr.toNat * 2 ^ 192)

/-! ## Contexts: tensors (15 R244-R248) -/

inductive NodeState where
  | live | frozen | dead | retired
  deriving DecidableEq, Repr

/-- A line a node stores: not INHERIT, its tag and the bytes of its sectors (15 R247). -/
structure Line where
  idx : Nat
  tag : Nat
  bytes : List Byte
  deriving DecidableEq, Repr

/-- A tensor descriptor and its lines (15 R245). -/
structure Node where
  serial : Nat
  sectors : Nat
  scale : Nat
  pitch : Nat
  cols : Nat
  rows : Nat
  pins : Nat
  children : Nat
  detached : Bool
  fmt : Nat
  state : NodeState
  maxd : Nat
  depth : Nat
  parent : Nat
  die : Nat
  lines : List Line
  deriving DecidableEq, Repr

/-! ## Engines (01 R15, 11 R205) -/

/-- Where an engine command stands. -/
inductive CmdPhase where
  /-- A MINIT whose claim waits (13 R233). -/
  | claiming
  /-- In its engine's queue. -/
  | queued
  /-- Accepted; begins when its not-before time and its translations allow. -/
  | starting
  | running
  /-- Held by a page fault or a sector shortage (06 R117, 13 R231). -/
  | faulted
  /-- An MDRAINA awaiting its peer's confirmation, then its peer's additions (13 R239). -/
  | confirming
  | adding
  /-- A selection stopped by a save at the end of a pass (18 R295). -/
  | stopped
  /-- Ended; nothing more happens. -/
  | finished
  deriving DecidableEq, Repr

/-- A selection between its load and its last plane (18 R287); masks are numbers whose bit i stands for element i. -/
structure HawkRun where
  imgs : List Nat
  wts : List Nat
  cand : Nat
  surv : Nat
  aboveN : Nat
  aboveW : Nat
  /-- Planes still to pass. -/
  planes : Nat
  /-- No value can be selected. -/
  none_ : Bool
  total : Nat
  /-- A word of the buffer that it holds has an uncorrectable error (01 R20). -/
  poisoned : Bool
  deriving DecidableEq, Repr

/-- An engine command (06 R115-R119, 13 R231, 18 R290), from issue until it is complete. -/
structure Cmd where
  op : Instr
  tid : Nat
  ctx : Nat
  owner : Nat
  /-- cluster * 8 + engine: 0 to 3 copy, 4 matrix, 5 Hawkmoth; 8192 and above an IO1 engine. -/
  eng : Nat
  /-- The operands as read at issue. -/
  a : GReg
  b : GReg
  d : GReg
  m : GReg
  /-- The barrier credited, of the issuing owner (06 R116). -/
  bar : Option Nat
  notBefore : Nat
  issued : Nat
  accepted : Nat
  phase : CmdPhase
  pins : List Nat
  handles : List Nat
  /-- Bytes, or ring elements, dealt with. -/
  next : Nat
  total : Nat
  /-- Lines of a tensor view as the command has resolved them, each whole at one point of Chrysalis order (11 R214). -/
  view : List (Nat × List Nat)
  /-- Bytes read and not yet written, with their destination offset. -/
  data : List Byte
  dataAt : Nat
  /-- Elements of a CPYS the stream's reader has passed (06 R118). -/
  passed : Nat
  counts : Counts
  amax : Word
  result : GReg
  result2 : GReg
  run : Option HawkRun
  /-- The fault that holds or ended it. -/
  err : Option (Cause × Nat)
  /-- Its issuing thread is still the one in that slot. -/
  live : Bool
  /-- Ring number of a CPYS (05 R77, 06 R118). -/
  ring : Nat
  /-- Source and destination overlap: what the destination holds is undefined (06 R116). -/
  mixed : Bool
  /-- Cycle of its last byte, or of its completion. -/
  due : Nat
  /-- The MDRAINA whose additions at its peer this command is (13 R239). -/
  adds : Option Nat
  deriving DecidableEq, Repr

/-- An engine: the command it executes, its queue, its operand window and the context it last served (11 R205). -/
structure Engine where
  exec : Option Nat
  queue : List Nat
  window : List (Nat × List Byte)
  lastCtx : Nat
  deriving DecidableEq, Repr

def Engine.reset : Engine := ⟨none, [], [], 0⟩

/-- An accumulator tile's state beside its elements (13 R229, R230); mask parameters not listed are the reset entry. -/
structure Tile where
  owner : Option Nat
  init : Word
  maskp : List (Nat × Nat)
  drows : Nat
  /-- Confirmed MDRAINA additions still to be performed (13 R239). -/
  confirmed : Nat
  deriving DecidableEq, Repr

def Tile.reset : Tile := ⟨none, 0, [], 0, 0⟩

/-- The held result of a Hawkmoth engine (18 R284). -/
structure Held where
  tid : Nat
  owner : Nat
  n : Nat
  mask : Nat
  /-- A word of it has an uncorrectable error (01 R20). -/
  poisoned : Bool
  deriving DecidableEq, Repr

/-- A cluster: translation unit, handle-lineage table, cocoon granules in use or being scrubbed, engines, tiles. -/
structure ClusterSt where
  tlb : List TlbEntry
  misses : List Miss
  hlt : List (Nat × HltEntry)
  /-- Granule runs taken: first granule and count (17 R267). -/
  granules : List (Nat × Nat)
  /-- Granule runs being scrubbed. -/
  scrubbing : List (Nat × Nat)
  engines : List Engine
  tiles : List Tile
  /-- MINIT commands whose claim waits, in order of issue (13 R233). -/
  claims : List Nat
  held : Option Held
  /-- Held results of resumed threads that wait for the engine (18 R284). -/
  restoring : List Held
  deriving DecidableEq, Repr

def ClusterSt.reset : ClusterSt :=
  ⟨[], [], [], [], [], List.replicate 6 Engine.reset, List.replicate 4 Tile.reset, [], none, []⟩

/-- An operation at the handle-lineage table (17 R275-R280). -/
structure CocOp where
  tid : Nat
  op : Instr
  a : GReg
  b : GReg
  /-- Entries reserved by a CSPLIT. -/
  x : Nat
  y : Nat
  /-- Cycle in which it reaches the table, once its entries' ACTIVE are zero. -/
  due : Option Nat
  deriving DecidableEq, Repr

/-- A lineage operation on its way to Chrysalis or back (15 R256). -/
structure LinOp where
  tid : Nat
  ctx : Nat
  op : Instr
  a : GReg
  b : GReg
  d : GReg
  issued : Nat
  done : Bool
  /-- Nodes it pins while in flight (15 R251). -/
  pins : List Nat
  /-- Where TRD writes and TWR reads. -/
  at_ : List Place
  /-- Destination registers and values, written at the reply. -/
  out : List (Nat × GReg)
  fault : Option (Cause × Nat)
  deriving DecidableEq, Repr

/-! ## Tasks and populations (20) -/

/-- Where a task or population stands. -/
inductive OwnerPhase where
  | running
  /-- A pre-emption is pending or its shared state is being saved (21 R326-R328). -/
  | saving
  | saved
  /-- Ended; engine commands may still run (04 R61, 21 R322). -/
  | ending
  deriving DecidableEq, Repr

/-- A saved thread: slot at the save, live registers, state (21 R330). -/
structure SavedThread where
  slot : Nat
  live : Nat
  t : Thread
  /-- Inbox entries for its slot, in SEQ order (10 R190). -/
  inbox : List InboxEntry
  deriving DecidableEq, Repr

/-- A saved tile: number, state, elements as (offset in the tile, byte) (21 R356). -/
structure SavedTile where
  tile : Nat
  st : Tile
  cells : List (Nat × Byte)
  deriving DecidableEq, Repr

/-- A save record (21 R329-R331, R356). -/
structure SaveRec where
  forced : Bool
  toCluster : Bool
  toCore : Bool
  home : Nat
  alloc : Nat
  units : Nat
  threads : List SavedThread
  bars : List Barrier
  tiles : List SavedTile
  hawk : Option Cmd
  held : Option Held
  /-- The local-store image as (offset, byte), and offsets of EMPTY words and tagged granules. -/
  image : List (Nat × Byte)
  empties : List Nat
  tags : List Nat
  /-- Where its bytes stand in stacked DRAM. -/
  base : Nat
  version : Nat
  /-- Cycles in which the tile and the Hawkmoth sections have been written. -/
  tilesAt : Nat
  hawkAt : Nat
  deriving DecidableEq, Repr

/-- A task or population (20 R300, R301, R316). -/
structure Owner where
  ctx : Nat
  isPop : Bool
  ovf : Bool
  serial : Nat
  typ : Nat
  /-- Task record, or parameter block (32 bytes). -/
  record : BitVec 256
  arg : DWord
  pool : Nat
  cls : Nat
  /-- Threads of a placement on a core, and registers of each. -/
  threads : Nat
  nregs : Nat
  units : Nat
  nbars : Nat
  entry : VAddr
  image : VAddr
  imageLen : Nat
  pdist : Nat
  prio : Nat
  order : Nat
  placed : Nat
  late : Bool
  resumed : Bool
  donegDone : Bool
  phase : OwnerPhase
  /-- A pre-emption's request cycle. -/
  requested : Option Nat
  /-- Its PDIST has passed: unsaved threads are saved by force (21 R327). -/
  forced : Bool
  forcedPc : Option (VAddr × Nat)
  saved : List SavedThread
  record_ : Option SaveRec
  /-- Cores a population has still to take (20 R316). -/
  waiting : List Nat
  notBefore : Nat
  pkt : Nat
  /-- Each thread's population order so far. -/
  launched : Nat
  deriving DecidableEq, Repr

/-- What an owner holds on a core (04 R58, 06 R100, 09 R175). -/
structure Placement where
  owner : Nat
  core : Nat
  unit0 : Nat
  units : Nat
  bars : List Barrier
  quota : Nat
  /-- Cycle in which its threads become ready. -/
  ready : Nat
  /-- Module time at which the core took it (20 R308). -/
  placed : Nat
  deriving DecidableEq, Repr

/-- A ready task: order of readiness, context, record; or the resume of a saved one (20 R310, 21 R331). -/
structure Ready where
  order : Nat
  /-- Cycle in which it became ready. -/
  since : Nat
  ctx : Nat
  record : BitVec 256
  resume : Option Nat
  deriving DecidableEq, Repr

/-- A reservation on a core for a ready task, and the victim it waits for (20 R312). -/
structure Reservation where
  core : Nat
  order : Nat
  victim : Nat
  /-- What the victim holds on the core: slots, registers each, first unit and units, barriers. -/
  slots : Nat
  nregs : Nat
  unit0 : Nat
  units : Nat
  bars : Nat
  deriving DecidableEq, Repr

/-- An operation on its way to the scheduler or a signal's home (20 R304, R309). -/
structure GateOp where
  tid : Nat
  ctx : Nat
  owner : Nat
  op : Instr
  g : Nat
  v : Nat
  records : List (BitVec 256)
  applied : Bool
  result : Nat
  /-- The packet whose completion or effect it is. -/
  pkt : Option Nat
  /-- It has left for the scheduler; a TSUB that waits for room keeps the records it has read (20 R305). -/
  sent : Bool
  deriving DecidableEq, Repr

/-- A host queue (20 R315, 23 R344). -/
structure Queue where
  state : Nat
  rptr : Word
  wptr : Word
  base : Nat
  k : Nat
  /-- Packets fetched and not complete, in order. -/
  open_ : List Nat
  deriving DecidableEq, Repr

inductive PktPhase where
  /-- Its fetch has met a page fault, which stalls its queue. -/
  | stalled
  | fetching | fetched | begun
  deriving DecidableEq, Repr

/-- A packet (20 R315). -/
structure Pkt where
  ctx : Nat
  q : Nat
  idx : Nat
  bits : BitVec 512
  phase : PktPhase
  va : Nat
  /-- Bytes of a transfer over Otain still to be answered (23 R351). -/
  left : Nat
  /-- The records a TASKS packet has read, while it waits for room (20 R305, R315). -/
  records : Option (List (BitVec 256))
  deriving DecidableEq, Repr

/-- A context (13 R227, 15 R244, R255, 20 R300-R317, 21 R323, R334, 23 R347). -/
structure Ctx where
  root : Nat
  tables : Nat
  backing : List (VAddr × Nat × Nat)
  /-- The error log's ring, the oldest entry first (21 R323). -/
  log : List (BitVec 256)
  logCap : Nat
  logLost : Nat
  nodes : List (Nat × Node)
  nextTid : Nat
  freed : List Nat
  serials : Nat
  pool : Nat
  reserve : Nat
  f4Base : Nat
  f4Count : Nat
  b16Base : Nat
  b16Count : Nat
  roots : List (Nat × QWord)
  types : List (Nat × BitVec 512)
  gates : List (Nat × Nat)
  /-- Records waiting on gates, in submission order. -/
  waiting : List (Nat × BitVec 256)
  /-- Records accepted and not before a time yet (20 R305). -/
  later : Nat
  signals : List (Nat × BitVec 256)
  status : List (BitVec 256)
  statusCap : Nat
  statusLost : Nat
  /-- Entries the error core holds for room, with the thread that waits (20 R317, 04 R73). -/
  statusWait : List (BitVec 256 × Option Nat)
  queues : List (Nat × Queue)
  saves : Nat
  nextSerial : Nat
  exported : List (Nat × Nat)
  deriving DecidableEq, Repr

/-! ## The module (20 R314; 23) -/

/-- Bridle's view of a pool (20 R314). -/
structure PoolSt where
  par : BridleParams
  settling : Bool
  deriving DecidableEq, Repr

/-- A firmware activation (21 R333). -/
structure Activation where
  img : FwImage
  forced : Bool
  /-- Host memory that the request names for its reply (23 R352). -/
  reply : Nat
  deriving DecidableEq, Repr

/-- A change of a translation that is not reported done yet (21 R338): context, address, accesses through the old entry. -/
structure XlateChange where
  ctx : Nat
  va : VAddr
  /-- Where the report goes in host memory. -/
  reply : Nat
  /-- The leaves it took away: physical address and bytes. -/
  leaves : List (Nat × Nat)
  /-- Accesses in flight translated through them. -/
  reqs : List Nat
  /-- TRD and TWR under way. -/
  lins : List Nat
  /-- Threads that hold a place translated through them. -/
  tids : List Nat
  deriving DecidableEq, Repr

/-- What the module sends to a peer (23 R351): domain number and body. -/
structure Outbound where
  domain : Nat
  body : FlitBody
  deriving DecidableEq, Repr

/-- An Otain port (23 R350): the number of the next flit to accept, which is also what it has acknowledged; failures in a row; the number
of the next flit to send; the flits sent and not acknowledged. -/
structure Port where
  up : Bool
  next : Nat
  replays : Nat
  seq : Nat
  retry : List (Nat × Outbound)
  deriving DecidableEq, Repr

def Port.reset : Port := ⟨false, 0, 0, 0, []⟩

/-- The device beside its cores: DEVSTATUS, mailboxes, MSI-X, security core, ports. -/
structure Device where
  ready : Bool
  activating : Bool
  fwver : Word
  mblost : BitVec 16
  mailboxes : List (List (List Byte))
  /-- Messages whose sender waits for room in a mailbox. -/
  mailWait : List (Nat × List Byte)
  msix : List (Nat × Byte)
  pba : List Nat
  /-- Interrupts and user-level interrupts sent: vector, or address and value. -/
  sent : List (Nat × Nat)
  meas : List (BitVec 384)
  stored : FwImage
  running : Option FwImage
  svnMin : Nat
  serialNo : Nat
  /-- Replies to the host, each written where its request names (23 R352). -/
  replies : List (List Byte)
  /-- What the function has completed reads and AtomicOps of the host with (23 R342, R343). -/
  completions : List (List Byte)
  activation : Option Activation
  ports : List Port
  domain : Option Nat
  /-- Messages and transfers handed to the Otain ports, in order. -/
  outbound : List Outbound
  /-- Those that wait for a port to be up. -/
  unsent : List Outbound
  corrected : List Nat
  /-- Changes of translations in progress, and those reported done: context and address (21 R338). -/
  changes : List XlateChange
  changed : List (Nat × VAddr)
  /-- Loads that failed: context and, where a field is at fault, its address (03 R51). -/
  loadErrors : List (Nat × Option Nat)
  /-- Boot ROM contents measured, the release key and the identity key (23 R353, R354). -/
  rom : List Byte
  releaseKey : Nat
  deviceKey : Nat
  /-- The X.509 chain that certifies the identity key (23 R354). -/
  chain : List Byte
  deriving DecidableEq, Repr

/-- What a run stops on. -/
inductive Fault where
  /-- Raised by the meaning of a bundle instruction when no thread is issuing: State.cur is none or names no thread. The
  step never calls a meaning so; safe. -/
  | noIssuer
  deriving DecidableEq, Repr

/-- What the model refuses. -/
inductive Refusal where
  /-- An arm of exec that has no meaning yet: none once the model is complete; safe. -/
  | notModelled (mnemonic : String)
  deriving DecidableEq, Repr

/-- The machine. -/
structure State where
  cycle : Nat
  /-- The module time counter, and its fraction in units of 1/18000000 ns (01 R18). -/
  time : Nat
  timeFrac : Nat
  /-- The model's own: free values drawn so far. -/
  free : Nat
  mem : List Host.Cell
  empties : List Nat
  tags : List Nat
  poison : List Nat
  agenda : List (Nat × Instr)
  timed : List (Nat × Instr)
  /-- The model's own: names for operations in flight. -/
  nextId : Nat
  cur : Option Issue
  threads : List (Nat × Thread)
  cores : List (Nat × CoreSt)
  clusters : List (Nat × ClusterSt)
  owners : List (Nat × Owner)
  places : List (Nat × Placement)
  ctxs : List (Nat × Ctx)
  reqs : List (Nat × Req)
  cmds : List (Nat × Cmd)
  cocs : List (Nat × CocOp)
  lins : List (Nat × LinOp)
  gates : List (Nat × GateOp)
  fwds : List (Nat × Fwd)
  cstats : List (Nat × CstatRec)
  msgs : List (Nat × Msg)
  reds : List (Nat × Red)
  faults : List (Nat × FaultRec)
  pkts : List (Nat × Pkt)
  ready : List Ready
  reserved : List Reservation
  nextOrder : Nat
  /-- Pool of each core whose pool is not 0 (20 R299). -/
  pools : List (Nat × Nat)
  /-- The host has made its initial assignment (20 R299). -/
  assigned : Bool
  bridle : List (Nat × PoolSt)
  /-- The queue the fetcher last served (20 R315). -/
  lastQueue : Nat
  /-- C of 17 R267. -/
  cocoonUnits : Nat
  dev : Device
  deriving DecidableEq, Repr

/-- The device at cold reset (23 R346, R354, R355; log entries 8, 9, 10). -/
def Device.reset : Device :=
  { ready := false, activating := false, fwver := 0, mblost := 0, mailboxes := List.replicate 8 [], mailWait := [],
    msix := [], pba := [], sent := [], meas := List.replicate 8 0,
    stored := ⟨[0x00, 0x96, 0x58, 0x4A, 1, 0, 0, 0, 1, 0, 0, 0, 3, 0, 2, 0] ++ List.replicate 240 0⟩, running := none, svnMin := 1,
    serialNo := 0, replies := [], completions := [], activation := none, ports := List.replicate 18 Port.reset, domain := none
    outbound := [], unsent := [], corrected := [], changes := [], changed := [], loadErrors := [], rom := [], releaseKey := 0
    deviceKey := 0, chain := [] }

/-- The module right after cold reset (23 R355): nothing runs, memory lists nothing, and bring-up is pending (log entry 5). -/
def State.reset : State :=
  { cycle := 0, time := 0, timeFrac := 0, free := 0, mem := [], empties := [], tags := [], poison := [],
    agenda := [(0, .coldReset)], timed := [], nextId := 0, cur := none, threads := [], cores := [], clusters := [],
    owners := [], places := [], ctxs := [], reqs := [], cmds := [], cocs := [], lins := [], gates := [], fwds := [],
    cstats := [], msgs := [], reds := [], faults := [], pkts := [], ready := [], reserved := [], nextOrder := 0, pools := [], assigned := false,
    bridle := [], lastQueue := 0, cocoonUnits := 8, dev := Device.reset }

end Sys2Proof.Machine
end

