-- ==== Sys2Proof/Machine/Ops.lean ====
section
/-!
DEFINITION. The operations every meaning is written over: keyed tables, memory, places and distances, registers, the
schedule of pending events, parking, waking and retiring, taking a fault and replaying after its resolution.
-/

namespace Sys2Proof.Machine

/-! ## Keyed tables -/

/-- The entry of a key. -/
def tget {α : Type} (k : Nat) : List (Nat × α) → Option α
  | [] => none
  | (j, v) :: rest => if j = k then some v else tget k rest

/-- Sets the entry of a key, keeping keys in rising order. -/
def tset {α : Type} (k : Nat) (v : α) : List (Nat × α) → List (Nat × α)
  | [] => [(k, v)]
  | (j, u) :: rest => if k < j then (k, v) :: (j, u) :: rest else if j = k then (k, v) :: rest else (j, u) :: tset k v rest

/-- Removes every entry of a key. -/
def tdel {α : Type} (k : Nat) : List (Nat × α) → List (Nat × α)
  | [] => []
  | (j, u) :: rest => if j = k then tdel k rest else (j, u) :: tdel k rest

/-- The element at an index, or a default. -/
def nth {α : Type} (d : α) : Nat → List α → α
  | _, [] => d
  | 0, x :: _ => x
  | n + 1, _ :: xs => nth d n xs

/-- Replaces the element at an index; an index beyond the list changes nothing. -/
def setNth {α : Type} (v : α) : Nat → List α → List α
  | _, [] => []
  | 0, _ :: xs => v :: xs
  | n + 1, x :: xs => x :: setNth v n xs

/-- Inserts an element before the first that it precedes. -/
def insertBy {α : Type} (le : α → α → Bool) (x : α) : List α → List α
  | [] => [x]
  | y :: rest => if le x y then x :: y :: rest else y :: insertBy le x rest

/-- A list in order; elements that precede each other keep their places. -/
def sortBy {α : Type} (le : α → α → Bool) : List α → List α
  | [] => []
  | x :: rest => insertBy le x (sortBy le rest)

/-! ## Memory (canonical form) -/

/-- What an address lists as when nothing has written it: zero (06 R100, 23 R355; log entry 4). -/
def memDefault : Byte := 0

/-- The byte at a key of memory. -/
def memGet (a : Nat) : List Host.Cell → Byte
  | [] => memDefault
  | (b, v) :: rest => if b = a then v else if a < b then memDefault else memGet a rest

/-- Writes a byte; writing the default removes the entry. -/
def memPut (a : Nat) (v : Byte) : List Host.Cell → List Host.Cell
  | [] => if v = memDefault then [] else [(a, v)]
  | (b, u) :: rest =>
    if a < b then (if v = memDefault then (b, u) :: rest else (a, v) :: (b, u) :: rest)
    else if b = a then (if v = memDefault then rest else (a, v) :: rest)
    else (b, u) :: memPut a v rest

/-- The cells of a run of bytes from an address on. -/
def memRun : Nat → List Byte → List Host.Cell
  | _, [] => []
  | a, v :: vs => if v = memDefault then memRun (a + 1) vs else (a, v) :: memRun (a + 1) vs

/-- Writes a run of bytes at once. -/
def memSplice (a : Nat) (bs : List Byte) (m : List Host.Cell) : List Host.Cell :=
  m.filter (fun c => decide (c.1 < a)) ++ memRun a bs ++ m.filter (fun c => decide (a + bs.length ≤ c.1))

/-- Addresses strictly rising from lo, and no entry equal to the default. -/
def memWfFrom : Nat → List Host.Cell → Bool
  | _, [] => true
  | lo, (b, v) :: rest => decide (lo ≤ b) && (v != memDefault) && memWfFrom (b + 1) rest

/-- The canonical form of a memory. -/
def Memory.wf (m : List Host.Cell) : Bool := memWfFrom 0 m

/-- Adds a number to a rising list. -/
def sadd (k : Nat) : List Nat → List Nat
  | [] => [k]
  | j :: rest => if k < j then k :: j :: rest else if j = k then j :: rest else j :: sadd k rest

/-- Removes a number from a list. -/
def sdel (k : Nat) : List Nat → List Nat
  | [] => []
  | j :: rest => if j = k then sdel k rest else j :: sdel k rest

/-- A rising list holds a number. -/
def smem (k : Nat) : List Nat → Bool
  | [] => false
  | j :: rest => if j = k then true else smem k rest

/-! ## Bits -/

/-- k bits of a number from bit lo. -/
def bits (w lo k : Nat) : Nat := w / 2 ^ lo % 2 ^ k

/-- The value of a two's-complement field of k bits. -/
def sextZ (k w : Nat) : Int := if w % 2 ^ k < 2 ^ (k - 1) then (w % 2 ^ k : Nat) else (w % 2 ^ k : Nat) - (2 ^ k : Nat)

/-- ceil(a / b). -/
def ceilDiv (a b : Nat) : Nat := (a + b - 1) / b

/-- The number a list of bytes holds, little-endian (00 R5). -/
def leNat : List Byte → Nat
  | [] => 0
  | b :: rest => b.toNat + 256 * leNat rest

/-- n bytes of a number, little-endian (00 R5). -/
def toBytes : Nat → Nat → List Byte
  | 0, _ => []
  | n + 1, v => BitVec.ofNat 8 v :: toBytes n (v / 256)

/-- The low 64 bits of a register. -/
def lo64 (g : GReg) : Nat := g.bits.toNat % 2 ^ 64

/-- DATA holding a number below 2^128. -/
def dataOf (n : Nat) : GReg := ⟨.data, BitVec.ofNat 128 n⟩

/-- DATA holding a 64-bit result with bits [127:64] zero (05 R90). -/
def data64 (n : Nat) : GReg := ⟨.data, BitVec.ofNat 128 (n % 2 ^ 64)⟩

/-- The kind codes (05 R74). -/
def Kind.code : Kind → Nat
  | .data => 0 | .cap => 1 | .strm => 2 | .tens => 3 | .coc => 4 | .port => 5 | .moved => 14

/-- The kind a stored code names (05 R84). -/
def kindOfCode : Nat → Kind
  | 1 => .cap | 2 => .strm | 3 => .tens | _ => .data

/-- The cause codes (21 R318). -/
def Cause.code : Cause → Nat
  | .illegal => 0x01 | .kind => 0x02 | .bounds => 0x03 | .perm => 0x04 | .align => 0x05 | .moved => 0x06 | .xlate => 0x07
  | .frozen => 0x08 | .dead => 0x09 | .pool => 0x0A | .hltMismatch => 0x0B | .hltFull => 0x0C | .hltStale => 0x0D
  | .feRetry => 0x0E | .barOverrun => 0x0F | .barTimeout => 0x10 | .msgDest => 0x11 | .priv => 0x12 | .softErr => 0x13

/-! ## Places and distances (01 R8-R12, 06 R101-R104) -/

/-- Memory keys at and above this are on-chip addresses; below it, physical addresses. -/
def onchipBase : Nat := 2 ^ 60

/-- The .L address of a core's local-store offset (06 R101, R102). -/
def lsAddr (core off : Nat) : Nat := core / 16 * 0x800000 + core % 16 * 0x60000 + off

/-- The memory key of a byte; a register window has none of its own. -/
def placeKey : Place → Nat
  | .ls core off => onchipBase + lsAddr core off
  | .reg tid off => onchipBase + 0x100000000 + tid / 16 * 0x2000 + tid % 16 * 512 + off
  | .recCopy tid off => onchipBase + 0x180000000 + tid / 16 * 0x200 + tid % 16 * 32 + off
  | .acc cl off => onchipBase + 0x200000000 + cl * 0x100000 + off
  | .bstore cl off => onchipBase + 0x300000000 + cl * 0x800000 + off
  | .phys pa => pa

/-- A cluster is F4-class (01 R14). -/
def isF4 (cl : Nat) : Bool := cl % 24 < 16

/-- Resolves an on-chip address in an address mode; none is assigned to nothing (06 R101, R102). -/
def onchip (a : Nat) (am : Bool) : Option Place :=
  if a < 0x60000000 then
    let cl := a / 0x800000
    let o := a % 0x800000
    if o < 0x600000 then
      if am then some (.ls (cl * 16 + o / 128 % 16) (o / 2048 * 128 + o % 128))
      else some (.ls (cl * 16 + o / 0x60000) (o % 0x60000))
    else none
  else if 0x100000000 ≤ a ∧ a < 0x100000000 + 3072 * 0x2000 then
    let r := a - 0x100000000
    some (.reg (r / 0x2000 * 16 + r % 0x2000 / 512) (r % 512))
  else if 0x180000000 ≤ a ∧ a < 0x180000000 + 3072 * 0x200 then
    let r := a - 0x180000000
    some (.recCopy (r / 0x200 * 16 + r % 0x200 / 32) (r % 32))
  else if 0x200000000 ≤ a ∧ a < 0x200000000 + 192 * 0x100000 then
    let r := a - 0x200000000
    let cl := r / 0x100000
    if isF4 cl ∨ r % 0x40000 < 0x10000 then some (.acc cl (r % 0x100000)) else none
  else if 0x300000000 ≤ a ∧ a < 0x300000000 + 192 * 0x800000 then
    let r := a - 0x300000000
    some (.bstore (r / 0x800000) (r % 0x800000))
  else none

/-- A physical address lies in a range of 01 R9. -/
def physExists (pa : Nat) : Bool :=
  decide (pa < 0x6000000000) || (decide (0x10000000000 ≤ pa) && decide (pa < 0x28000000000)) || decide (0x400000000000 ≤ pa)

/-- Host memory (01 R9). -/
def isHost (pa : Nat) : Bool := decide (0x400000000000 ≤ pa)

def meshCol (cl : Nat) : Nat := cl % 24 % 6
def meshRow (cl : Nat) : Nat := cl % 24 / 6
def dieCol (cl : Nat) : Nat := cl / 24 % 4
def dieRow (cl : Nat) : Nat := cl / 24 / 4

/-- |a - b|. -/
def dist (a b : Nat) : Nat := (a - b) + (b - a)

/-- h of 01 R12 between two clusters. -/
def hops (c d : Nat) : Nat := dist (meshCol c) (meshCol d) + dist (meshRow c) (meshRow d)

/-- x of 01 R12 between two clusters. -/
def crossings (c d : Nat) : Nat := dist (dieCol c) (dieCol d) + dist (dieRow c) (dieRow d)

/-- 4h + 70x to IO0 as 01 R12 counts LPDDR. -/
def toIo0 (cl : Nat) : Nat := 4 * meshCol cl + 70 * dieCol cl

/-- 4h + 70x to IO1 as 01 R12 counts LPDDR. -/
def toIo1 (cl : Nat) : Nat := 4 * (5 - meshCol cl) + 70 * (3 - dieCol cl)

/-- 12 + 4h + 70x between two clusters (09 R177, 10 R193). -/
def fabricTime (c d : Nat) : Nat := 12 + 4 * hops c d + 70 * crossings c d

/-- The cluster above whose channel a stacked-DRAM address lies (01 R10). -/
def channelCluster (pa : Nat) : Nat := pa / 0xC00000000 * 24 + pa / 4096 % 24

/-- A resource of a cluster as seen from another (06 R104). -/
def onchipTime (from_ cl : Nat) : Nat :=
  if from_ = cl then 40 else 48 + 4 * hops from_ cl + 70 * crossings from_ cl

/-- The unloaded park time of 06 R104 from a cluster to a place, the issuing core's own resources aside. -/
def placeTime (from_ : Nat) : Place → Nat
  | .ls core _ => onchipTime from_ (core / 16)
  | .reg tid _ => onchipTime from_ (tid / 256)
  | .recCopy tid _ => onchipTime from_ (tid / 256)
  | .acc cl _ => onchipTime from_ cl
  | .bstore cl _ => onchipTime from_ cl
  | .phys pa =>
    if pa < 0x6000000000 then
      180 + 4 * hops from_ (channelCluster pa) + 70 * crossings from_ (channelCluster pa)
    else if pa < 0x1C000000000 then 400 + toIo0 from_
    else if pa < 0x28000000000 then 400 + toIo1 from_
    else 240 + toIo1 from_ + Config.hostLatency

/-- The park time of 06 R104 for a thread of a core: none for its own local store and record copies. -/
def parkTime (core : Nat) (p : Place) : Nat :=
  match p with
  | .ls c _ => if c = core then 0 else placeTime (core / 16) p
  | .recCopy tid _ => if tid / 16 = core then 0 else placeTime (core / 16) p
  | _ => placeTime (core / 16) p

/-! ## The parts of the state -/

/-- A core's state; one never touched is as at reset. -/
def coreSt (s : State) (c : Nat) : CoreSt := (tget c s.cores).getD CoreSt.reset

def setCore (s : State) (c : Nat) (v : CoreSt) : State := { s with cores := tset c v s.cores }

/-- A cluster's state; one never touched is as at reset. -/
def clusterSt (s : State) (c : Nat) : ClusterSt := (tget c s.clusters).getD ClusterSt.reset

def setCluster (s : State) (c : Nat) (v : ClusterSt) : State := { s with clusters := tset c v s.clusters }

def getT (s : State) (tid : Nat) : Option Thread := tget tid s.threads

def setT (s : State) (tid : Nat) (t : Thread) : State := { s with threads := tset tid t s.threads }

/-- The first turn of a slot in a cycle after c (04 R53, R55). -/
def turnAfter (c slot : Nat) : Nat := c + 1 + (slot + 16 - (c + 1) % 16) % 16

/-- The first turn of a slot in a cycle at or after c (04 R70). -/
def turnFrom (c slot : Nat) : Nat := c + (slot + 16 - c % 16) % 16

/-! ## Free values -/

/-- A value of no stated size below n + 1, drawn from the free values. -/
def drawUpTo (s : State) (n : Nat) : Nat := Config.freeNat s.free % (n + 1)

/-- The next free value will be another one. -/
def bump (s : State) : State := { s with free := s.free + 1 }

/-! ## Pending events -/

/-- The place of an event among those of its cycle: asynchronous register writes come after the writes of the thread's own bundle
(05 R88), an atomic's completion behind them, and the end of an engine's command after its last write (11 R213). What is forwarded to a
barrier's home comes after what the home core does in that cycle, an arrival counted by the end of its relaxed accesses included (09 R177,
11 R222). Placements come after every bundle of the cycle, SPAWN before them (04 R68), and a station decides by what all that has left free;
a unit whose scrub ends in the cycle is free after it (06 R100, 22 R340). -/
def eventRank : Instr → Nat
  | .relaxedLoadReply _ => 1
  | .relaxedAccessComplete _ => 1
  | .windowWrite _ => 2
  | .copyComplete _ => 3
  | .matrixComplete _ => 3
  | .barrierForward _ => 4
  | .packetBegin _ => 5
  | .populationDeferredPlace _ _ => 5
  | .dispatchDecision _ _ => 6
  | .unitScrubDone _ _ => 7
  | _ => 0

/-- Inserts an event behind those due no later. -/
def agendaAdd (c : Nat) (i : Instr) : List (Nat × Instr) → List (Nat × Instr)
  | [] => [(c, i)]
  | (d, j) :: rest =>
    if c < d ∨ (c = d ∧ eventRank i < eventRank j) then (c, i) :: (d, j) :: rest else (d, j) :: agendaAdd c i rest

/-- Inserts an event behind those due no later, but before the first of its cycle and rank that must come behind it. -/
def agendaPut (behind : Instr → Bool) (c : Nat) (i : Instr) : List (Nat × Instr) → List (Nat × Instr)
  | [] => [(c, i)]
  | (d, j) :: rest =>
    if c < d ∨ (c = d ∧ (eventRank i < eventRank j ∨ (eventRank i = eventRank j ∧ behind j))) then (c, i) :: (d, j) :: rest
    else (d, j) :: agendaPut behind c i rest

/-- An event due in a cycle. -/
def sched (s : State) (c : Nat) (i : Instr) : State := { s with agenda := agendaAdd c i s.agenda }

/-- The arrival of an access that a higher core has issued in this cycle: of equal age, it comes behind a lower core's (01 R13). -/
def younger (s : State) (core : Nat) (i : Instr) : Bool :=
  let later := fun (id : Nat) => (tget id s.reqs).any (fun r => r.issued == s.cycle && decide (core < r.tid / 16))
  match i with
  | .accessPerformed id => later id
  | .windowWrite id => later id
  | .feFirstTest id => later id
  | _ => false

/-- The arrival of an access at its home, in the order of age and then of the issuing cores (01 R13). -/
def schedArrival (s : State) (core c : Nat) (i : Instr) : State := { s with agenda := agendaPut (younger s core) c i s.agenda }

/-- An event due when the module time counter reaches ns (01 R18). -/
def schedAt (s : State) (ns : Nat) (i : Instr) : State := { s with timed := agendaAdd ns i s.timed }

/-- A new identifier for an operation in flight. -/
def fresh (s : State) : State := { s with nextId := s.nextId + 1 }

/-! ## Counters (07 R140, R141; 04 R56) -/

/-- Saturation at 0xFFFF_FFFF (07 R141). -/
def satWord (n : Nat) : Word := if n < 2 ^ 32 then BitVec.ofNat 32 n else BitVec.ofNat 32 (2 ^ 32 - 1)

/-- Adds increments to a core's counters, remembering those of this cycle. -/
def addEvc (s : State) (core : Nat) (incs : List Nat) : State :=
  let c := coreSt s core
  let prior := if c.evcAt = s.cycle then c.evcAdded else List.replicate 8 0
  setCore s core { c with
    evc := List.zipWith (fun w n => satWord (w.toNat + n)) c.evc incs
    evcAdded := List.zipWith (fun a b => a + b) prior incs
    evcAt := s.cycle }

/-- A CRW to counter k in this cycle: the value is written first, then every increment of the cycle is added (07 R141). -/
def writeEvc (s : State) (core k : Nat) (v : Word) : State :=
  let c := coreSt s core
  let added := if c.evcAt = s.cycle then nth 0 k c.evcAdded else 0
  setCore s core { c with evc := setNth (satWord (v.toNat + added)) k c.evc }

def Counts.zero : Counts := ⟨0, 0, 0, 0, 0, 0⟩

def Counts.add (a b : Counts) : Counts :=
  ⟨a.nan + b.nan, a.inf + b.inf, a.sat + b.sat, a.ftz + b.ftz, a.div0 + b.div0, a.inv + b.inv⟩

/-- The increments of the eight counters from numeric counts. -/
def Counts.incs (c : Counts) : List Nat := [c.nan, c.inf, c.sat, c.ftz, c.div0, c.inv, 0, 0]

/-- Adds numeric counts to a core's counters; none changes nothing. -/
def count (s : State) (core : Nat) (c : Counts) : State :=
  if c = Counts.zero then s else addEvc s core c.incs

/-! ## Registers (05) -/

/-- Reads a register; G0 is DATA zero (05 R75). -/
def Thread.rd (t : Thread) (r : Reg) : GReg := if r = 0 then GReg.zero else nth GReg.zero r.val t.g

/-- Writes a register; a write to G0 is discarded (05 R75). -/
def Thread.wr (t : Thread) (r : Reg) (v : GReg) : Thread :=
  if r = 0 then t else { t with g := setNth v r.val t.g }

/-- Writes a register of a thread. The old value's TENS pin is dropped (05 R87), the register stops being a CPYS ring's
(06 R118) and its read-ahead is gone (08 R148). -/
def setReg (s : State) (tid : Nat) (r : Reg) (v : GReg) : State :=
  match getT s tid with
  | none => s
  | some t =>
    if r = 0 then s
    else
      let old := t.rd r
      let t1 := t.wr r v
      let t2 := { t1 with
        rings := t1.rings.filter (fun p => p.1 != r.val)
        ahead := t1.ahead.filter (fun a => a.reg != r.val) }
      let s1 := setT s tid t2
      if old.kind = .tens then sched s1 s.cycle (.pinDrop t.ctx (old.bits.toNat % 2 ^ 20)) else s1

/-- What a move leaves in its source: kind MOVED, and bits the spec leaves undefined (05 R74; log entry 36). -/
def movedReg (s : State) : GReg := ⟨.moved, BitVec.ofNat 128 (Config.freeNat s.free)⟩

/-- The source of a move becomes MOVED (05 R85). -/
def setMoved (s : State) (tid : Nat) (r : Reg) : State := bump (setReg s tid r (movedReg s))

/-- Changes the register's bits in place: a stream cursor or a capability cursor moves, and nothing else. -/
def setBits (s : State) (tid : Nat) (r : Reg) (b : QWord) : State :=
  match getT s tid with
  | none => s
  | some t => setT s tid (t.wr r ⟨(t.rd r).kind, b⟩)

/-- Adds a pin on a node of a context (05 R87, 15 R251). -/
def addPin (s : State) (ctx node : Nat) : State :=
  match tget ctx s.ctxs with
  | none => s
  | some c =>
    match tget node c.nodes with
    | none => s
    | some n => { s with ctxs := tset ctx { c with nodes := tset node { n with pins := n.pins + 1 } c.nodes } s.ctxs }

/-- Advances the program counter past the bundle. -/
def Thread.next (t : Thread) : Thread := { t with pc := t.pc + BitVec.ofNat 57 t.size }

/-- The bundle's next-bundle address (02 R21). -/
def Thread.nextPc (t : Thread) : VAddr := t.pc + BitVec.ofNat 57 t.size

def advance (s : State) (tid : Nat) : State :=
  match getT s tid with
  | none => s
  | some t => setT s tid t.next

def setPc (s : State) (tid : Nat) (pc : VAddr) : State :=
  match getT s tid with
  | none => s
  | some t => setT s tid { t with pc := pc }

/-! ## Relaxed accesses and posted writes (06 R106, 08 R148) -/

/-- The .RX accesses of a thread in flight (06 R106). -/
def relaxedCount (s : State) (tid : Nat) : Nat :=
  (s.reqs.filter (fun p => p.2.tid == tid && p.2.relaxed && !p.2.dropped &&
    (match p.2.op with | .post _ => false | .ahead _ _ _ _ => false | .window _ _ _ _ => false | _ => true))).length

/-- The posted stream writes of a thread in flight (08 R148). -/
def postedCount (s : State) (tid : Nat) : Nat :=
  (s.reqs.filter (fun p => p.2.tid == tid && !p.2.dropped && (match p.2.op with | .post _ => true | _ => false))).length

/-- The access writes memory and has no result for a register. -/
def storesOnly : AccOp → Bool
  | .store _ _ => true
  | .post _ => true
  | _ => false

/-- The access is complete at a scope (11 R210): below system, a write to host memory is complete once IO1, its home, has accepted
it. -/
def completeAt (scope : Nat) (r : Req) : Bool :=
  decide (scope < 4) && r.performed && storesOnly r.op && r.at_.all (fun p => match p with
    | .phys pa => isHost pa
    | _ => false)

/-- The access is relaxed, an element of a fetched stream or a posted stream write: an ordering point waits for it (11 R207). -/
def awaited (tid : Nat) (r : Req) : Bool :=
  r.tid == tid && r.relaxed && !r.dropped && (match r.op with
    | .window _ _ _ _ => false
    | _ => true)

/-- Every relaxed access, read-ahead and posted stream write of a thread is complete at a scope (11 R207, R210, R218). -/
def quietAt (scope : Nat) (s : State) (tid : Nat) : Bool :=
  s.reqs.all (fun p => !awaited tid p.2 || completeAt scope p.2)

/-- The same for an ordering point that names no scope: every access has completed (11 R207). -/
def quiet (s : State) (tid : Nat) : Bool := quietAt 4 s tid

/-- An ordering point that is an acquire discards the read-ahead beyond the cursor (11 R207, 08 R148). -/
def dropAhead (s : State) (tid : Nat) : State :=
  match getT s tid with
  | none => s
  | some t =>
    { setT s tid { t with ahead := [] } with
      reqs := s.reqs.map (fun p =>
        if p.2.tid = tid then
          match p.2.op with
          | .ahead _ _ _ _ => (p.1, { p.2 with dropped := true })
          | _ => p
        else p) }

/-! ## Fields of a COC, and table entries (05 R79, 17 R270) -/

def cocHlt (b : QWord) : Nat := bits b.toNat 0 10
def cocGen (b : QWord) : Nat := bits b.toNat 10 16
def cocRstart (b : QWord) : Nat := bits b.toNat 26 16
def cocRcount (b : QWord) : Nat := bits b.toNat 42 16
def cocCstart (b : QWord) : Nat := bits b.toNat 58 16
def cocCcount (b : QWord) : Nat := bits b.toNat 74 16
def cocFmt (b : QWord) : Nat := bits b.toNat 90 4
def cocR (b : QWord) : Bool := bits b.toNat 94 1 == 1
def cocW (b : QWord) : Bool := bits b.toNat 95 1 == 1
def cocTbase (b : QWord) : Nat := bits b.toNat 96 23
def cocPitch (b : QWord) : Nat := bits b.toNat 119 9

def hltEntry (s : State) (cl k : Nat) : HltEntry := (tget k (clusterSt s cl).hlt).getD HltEntry.reset

def setHlt (s : State) (cl k : Nat) (e : HltEntry) : State :=
  let c := clusterSt s cl
  setCluster s cl { c with hlt := tset k e c.hlt }

/-! ## Messages for a port (10 R189, R197) -/

/-- The overflow thread of a core (10 R197): the thread in slot 15 while its owner asked for overflow handling. -/
def isOverflow (s : State) (tid : Nat) : Bool :=
  tid % 16 == 15 &&
    (match getT s tid with
     | none => false
     | some t => match tget t.owner s.owners with
       | some o => o.isPop && o.ovf
       | none => false)

/-- Overflow handling is enabled on a core (10 R197). -/
def overflowOn (s : State) (core : Nat) : Bool := isOverflow s (core * 16 + 15)

/-- The most recently accepted entry whose payload is not COC (10 R197). -/
def lastNonCoc : List InboxEntry → Option InboxEntry
  | [] => none
  | e :: rest =>
    match lastNonCoc rest with
    | some f => some f
    | none => if e.payload.kind = .coc then none else some e

/-- The message a port of the thread would pop next (10 R189, R195, R197). -/
def portHead (s : State) (tid : Nat) : Option InboxEntry :=
  let c := coreSt s (tid / 16)
  if isOverflow s tid then (if c.inbox.length > 64 then lastNonCoc c.inbox else none)
  else c.inbox.find? (fun e => e.dslot == tid % 16 && e.seq == (nth 0 (tid % 16) c.nextOut).toNat)

/-- PEEK on the overflow port shows the entry the next read would pop, whatever the count (10 R195, R197). -/
def peekHead (s : State) (tid : Nat) : Option InboxEntry :=
  if isOverflow s tid then lastNonCoc (coreSt s (tid / 16)).inbox else portHead s tid

/-- The handle a popped or resumed COC payload names gets a new holder (17 R271). -/
def setHolder (s : State) (tid : Nat) (b : QWord) : State :=
  let e := hltEntry s (tid / 256) (cocHlt b)
  if e.state = .leaf ∧ e.gen.toNat = cocGen b then setHlt s (tid / 256) (cocHlt b) { e with holder := some tid } else s

/-- A port read commits (10 R189, R192, R197): the entry it read leaves the inbox, NEXT_OUT moves on unless the port is the
overflow port, a TENS payload's message pin is dropped, a COC payload's holder is the popping thread, read-ahead is discarded,
and messages held back for the core are offered again. -/
def popPort (s : State) (tid : Nat) (e : InboxEntry) : State :=
  let core := tid / 16
  let c := coreSt s core
  let out := if isOverflow s tid then c.nextOut else setNth (nth 0 (tid % 16) c.nextOut + 1) (tid % 16) c.nextOut
  let s1 := setCore s core { c with inbox := c.inbox.erase e, nextOut := out }
  let s2 := if e.payload.kind = .coc then setHolder s1 tid e.payload.bits else s1
  let s3 := if e.payload.kind = .tens then sched s2 s.cycle (.pinDrop e.ctx (e.payload.bits.toNat % 2 ^ 20)) else s2
  sched (dropAhead s3 tid) s.cycle (.messageReoffer core (tid % 16))

/-- The pop of a bundle that has parked commits when it retires (05 R83, 10 R194); one that retires in its turn pops now. -/
def popWhenDone (s : State) (tid : Nat) (e : InboxEntry) : State :=
  match getT s tid with
  | none => s
  | some t =>
    match t.status with
    | .parked _ => setT s tid { t with popDue := some e }
    | _ => popPort s tid e

/-- Commits the pop of a retiring bundle. -/
def popRetiring (s : State) (tid : Nat) : State :=
  match getT s tid with
  | none => s
  | some t =>
    match t.popDue with
    | some e => popPort (setT s tid { t with popDue := none }) tid e
    | none => s

/-! ## Faults, parks and retirement (04 R54-R56, 21 R319, R320) -/

/-- Why a bundle does not retire in its turn: a fault, a park that continues by the same bundle or by an event, or a miss in
the translation unit. -/
inductive Stop where
  | fault (c : Cause) (addr : Nat)
  | wait (w : Wait)
  | miss (va : Nat)
  deriving DecidableEq, Repr

/-- TASKID of an owner (04 R62): a task's type and serial, or a population's serial. -/
def taskidOf (s : State) (owner : Nat) : DWord :=
  match tget owner s.owners with
  | none => 0
  | some o => BitVec.ofNat 64 (o.serial % 2 ^ 32 * 2 ^ 32 + (if o.isPop then 2 ^ 31 else o.typ % 2 ^ 12))

/-- The task or population of a thread. -/
def ownerOf (s : State) (tid : Nat) : Nat :=
  match getT s tid with
  | some t => t.owner
  | none => 0

def parkAs (s : State) (tid : Nat) (w : Wait) : State :=
  match getT s tid with
  | none => s
  | some t => setT s tid { t with status := .parked w }

/-- Withdraws a thread's operations at its cluster's table; a CSPLIT frees the entries it reserved (17 R276). -/
def unreserve (s : State) (tid : Nat) : State :=
  let cl := tid / 256
  let s1 := (s.cocs.filter (fun p => p.2.tid == tid)).foldl (fun u p =>
    match p.2.op with
    | .csplit _ _ _ _ =>
      let u1 := setHlt u cl p.2.x { hltEntry u cl p.2.x with state := .free }
      setHlt u1 cl p.2.y { hltEntry u1 cl p.2.y with state := .free }
    | _ => u) s
  { s1 with cocs := s1.cocs.filter (fun p => p.2.tid != tid) }

/-- A thread's collided bundle is given up: the pins of what it would have written are dropped. -/
def dropLate (s : State) (tid : Nat) : State :=
  match getT s tid with
  | none => s
  | some t =>
    match t.late with
    | none => s
    | some l => l.regs.foldl (fun u p =>
        if p.2.kind = .tens then sched u s.cycle (.pinDrop t.ctx (p.2.bits.toNat % 2 ^ 20)) else u) (setT s tid { t with late := none })

/-- TAKING A FAULT (21 R319): the bundle has no effect, the PC stays on it, the thread parks and a fault record goes to
Gondola's error core, which decides it later (FAULT_DECISION); the delay is not stated and so is free. -/
def takeFault (s : State) (tid : Nat) (c : Cause) (addr : Nat) : State :=
  match getT s tid with
  | none => s
  | some t =>
    let id := s.nextId
    let rec_ : FaultRec := ⟨tid, t.ctx, t.owner, c, BitVec.ofNat 64 addr, t.pc, taskidOf s t.owner⟩
    let s1 := setT (unreserve (dropLate s tid) tid) tid { t with status := .parked (.faultRec id), popDue := none, latch := none, late := none }
    bump (sched (fresh { s1 with faults := tset id rec_ s.faults }) (s.cycle + 1 + Config.freeNat s.free) (.faultDecision id))

/-- FLT_CAUSE, FLT_ADDR and FLT_PC as a fault leaves them (21 R320). -/
def Thread.flt (t : Thread) (c : Cause) (addr : DWord) (pc : VAddr) : Thread :=
  { t with fltCause := BitVec.ofNat 8 c.code, fltAddr := addr, fltPc := pc }

/-- REPLAY (21 R320, R321): a thread whose fault is resolved issues the bundle again from its first word at the first turn
after the wake; the turns it was parked are held for EVC_PARK (04 R56). FLT_CAUSE, FLT_ADDR and FLT_PC are written in the
cycle of that issue. -/
def replayThread (s : State) (tid : Nat) (f : FaultRec) : State :=
  match getT s tid with
  | none => s
  | some t =>
    let n := turnAfter s.cycle (tid % 16)
    setT s tid { t with
      status := .ready
      nextIssue := n
      held := t.held + ((n - t.issueAt) / 16 - 1)
      replay := some (f.cause, f.addr, f.pc) }

/-- A distinct page that misses, taken as 4 KiB of virtual addresses (21 R337, log entry 16). -/
def pageOf (va : Nat) : Nat := va / 4096 * 4096

/-- Takes a miss entry for a page of a context unless one is pending; a walker starts as soon as one is free (21 R337). -/
def addMiss (s : State) (cl ctx va core : Nat) : State :=
  let c := clusterSt s cl
  if c.misses.any (fun m => m.ctx == ctx && m.va == pageOf va) then s
  else
    sched (setCluster s cl { c with misses := c.misses ++ [⟨ctx, pageOf va, s.cycle, core, false⟩] }) s.cycle (.pageWalkStart cl)

/-- What a stop does to the thread. -/
def stopAt (s : State) (tid : Nat) (st : Stop) : State :=
  match st with
  | .fault c a => takeFault s tid c a
  | .wait w => parkAs s tid w
  | .miss va =>
    match getT s tid with
    | none => s
    | some t => parkAs (addMiss s (tid / 256) t.ctx va (tid / 16)) tid (.walk va)

/-- Turns that have passed with the thread parked in its bundle, when the bundle retires in a cycle (04 R56). -/
def parkedTurns (cycle tid : Nat) (t : Thread) : Nat := t.held + ((turnAfter cycle (tid % 16) - t.issueAt) / 16 - 1)

/-- EVC_PARK rises by the turns a retiring bundle was parked (04 R56). -/
def countParked (s : State) (tid : Nat) (t : Thread) : State :=
  if parkedTurns s.cycle tid t = 0 then s else addEvc s (tid / 16) [0, 0, 0, 0, 0, 0, 0, parkedTurns s.cycle tid t]

/-- Retires a thread's bundle in this cycle: the next issue is the slot's first turn after it, and EVC_PARK rises (04 R55, R56). -/
def retire (s0 : State) (tid : Nat) : State :=
  let s := popRetiring s0 tid
  match getT s tid with
  | none => s
  | some t =>
    let s1 := setT s tid { t with status := .ready, nextIssue := turnAfter s.cycle (tid % 16), held := 0, arrived := false, latch := none }
    countParked s1 tid t

/-- Retires a parked thread's bundle: its PC moves past the bundle. -/
def retirePast (s : State) (tid : Nat) : State := retire (advance s tid) tid

/-- A woken thread's bundle goes on in this cycle. -/
def wake (s : State) (tid : Nat) : State :=
  match getT s tid with
  | none => s
  | some t => setT s tid { t with status := .wake }

/-- The bundle arrives at a barrier: BARR, BSYNC or CSTAT. -/
def arrives : Instr → Bool
  | .barr _ => true
  | .bsync _ _ => true
  | .cstat _ _ => true
  | _ => false

/-- Wakes a thread whose bundle must run again. An arriver's is run in its slot's next turn, in which its arrival is then counted
(11 R222). -/
def wakeArriver (s : State) (tid : Nat) : State :=
  match getT s tid with
  | none => s
  | some t => if t.bundle.any (fun b => arrives b.first) then sched s (turnAfter s.cycle (tid % 16)) (.arrivalCounted tid) else wake s tid

/-- The wait of a parked thread. -/
def waitOf (s : State) (tid : Nat) : Option Wait :=
  match getT s tid with
  | none => none
  | some t => match t.status with
    | .parked w => some w
    | _ => none

/-- Wakes every thread whose wait meets a condition. -/
def wakeAll (p : Nat → Thread → Wait → Bool) (s : State) : State :=
  { s with threads := s.threads.map (fun e =>
      match e.2.status with
      | .parked w => if p e.1 e.2 w then (e.1, { e.2 with status := .wake }) else e
      | _ => e) }

/-- The internal accesses of the bundle: one more in a bank (06 R103). -/
def bankHit (s : State) (core : Nat) (off : Nat) : State :=
  match s.cur with
  | none => s
  | some i =>
    if i.tid / 16 = core then
      { s with cur := some { i with banks := setNth (nth 0 (off / 0x20000) i.banks + 1) (off / 0x20000) i.banks } }
    else s

/-- Turns lost to bank collisions: the largest count less one (06 R103). -/
def lostTurns (i : Issue) : Nat := (i.banks.foldl Nat.max 0) - 1

end Sys2Proof.Machine
end

