-- ==== Sys2Proof/Machine/Num.lean ====
section
/-!
DEFINITION. Number formats, rounding, conversion, the monotone integer image and F32 arithmetic (07), and the functions of
08 R159. Every value is computed exactly as a dyadic number, or to far more bits than its format holds with a sticky bit,
and rounded once.
-/

namespace Sys2Proof.Machine

/-- A value: NaN, an infinity, or (-1)^neg * m * 2^e. -/
inductive FVal where
  | nan
  | inf (neg : Bool)
  | fin (neg : Bool) (m : Nat) (e : Int)
  deriving DecidableEq, Repr

/-- The layout of a signed float format (07 R120). -/
structure FLayout where
  width : Nat
  mbits : Nat
  bias : Nat
  /-- Bits below the sign of the largest finite value. -/
  maxMag : Nat
  hasInf : Bool
  canon : Nat
  deriving DecidableEq, Repr

/-- The signed float formats (07 R120). -/
def layoutOf : Fmt → Option FLayout
  | .f32 => some ⟨32, 23, 127, 0x7F7FFFFF, true, 0x7FC00000⟩
  | .b16 => some ⟨16, 7, 127, 0x7F7F, true, 0x7FC0⟩
  | .f16 => some ⟨16, 10, 15, 0x7BFF, true, 0x7E00⟩
  | .e4m3 => some ⟨8, 3, 7, 0x7E, false, 0x7F⟩
  | .e5m2 => some ⟨8, 2, 15, 0x7B, true, 0x7E⟩
  | .e2m1 => some ⟨4, 1, 1, 0x7, false, 0⟩
  | _ => none

/-- The layout of F32. -/
def f32L : FLayout := ⟨32, 23, 127, 0x7F7FFFFF, true, 0x7FC00000⟩

/-- An I format (07 R120). -/
def isI : Fmt → Bool
  | .i8 | .i16 | .i32 | .i64 => true
  | _ => false

/-- An N format (07 R120). -/
def isN : Fmt → Bool
  | .n8 | .n16 | .n32 | .n64 => true
  | _ => false

/-- The width in bits of a format (07 R120). -/
def widthOf : Fmt → Nat
  | .f32 | .i32 | .n32 => 32
  | .b16 | .f16 | .i16 | .n16 => 16
  | .e4m3 | .e5m2 | .s8 | .i8 | .n8 => 8
  | .e2m1 => 4
  | .i64 | .n64 => 64

/-- The value of a float pattern (07 R120). -/
def decodeF (l : FLayout) (w : Nat) : FVal :=
  let neg := w / 2 ^ (l.width - 1) % 2 == 1
  let mag := w % 2 ^ (l.width - 1)
  let e := mag / 2 ^ l.mbits
  let f := mag % 2 ^ l.mbits
  if mag > l.maxMag then (if l.hasInf ∧ mag = l.maxMag + 1 then .inf neg else .nan)
  else if e = 0 then .fin neg f (1 - (l.bias : Int) - l.mbits)
  else .fin neg (2 ^ l.mbits + f) ((e : Int) - l.bias - l.mbits)

/-- The value of a pattern of any format, read at its width. -/
def valueOf (f : Fmt) (w : Nat) : FVal :=
  let u := w % 2 ^ widthOf f
  match layoutOf f with
  | some l => decodeF l u
  | none =>
    if f = .s8 then (if u = 0xFF then .nan else .fin false 1 ((u : Int) - 127))
    else if isI f then
      (if u < 2 ^ (widthOf f - 1) then .fin false u 0 else .fin true (2 ^ widthOf f - u) 0)
    else .fin false u 0

def Counts.one : Nat → Counts
  | 0 => ⟨1, 0, 0, 0, 0, 0⟩
  | 1 => ⟨0, 1, 0, 0, 0, 0⟩
  | 2 => ⟨0, 0, 1, 0, 0, 0⟩
  | 3 => ⟨0, 0, 0, 1, 0, 0⟩
  | 4 => ⟨0, 0, 0, 0, 1, 0⟩
  | _ => ⟨0, 0, 0, 0, 0, 1⟩

def cNan : Counts := Counts.one 0
def cInf : Counts := Counts.one 1
def cSat : Counts := Counts.one 2
def cFtz : Counts := Counts.one 3
def cDiv0 : Counts := Counts.one 4
def cInv : Counts := Counts.one 5

/-- The rounding modes of 07 R123. -/
inductive RMode where
  | rne | rz | rd | ru
  deriving DecidableEq, Repr

/-- The mode a two-bit RMODE holds (07 R123). -/
def modeOf (b : BitVec 2) : RMode :=
  match b.toNat with
  | 0 => .rne
  | 1 => .rz
  | 2 => .rd
  | _ => .ru

/-- The mode of an instruction's RM field; DYN is the thread's RMODE (07 R123). -/
def rmMode (r : Rm) (b : BitVec 2) : RMode :=
  match r with
  | .rne => .rne | .rz => .rz | .rd => .rd | .ru => .ru | .dyn => modeOf b

/-- m / 2^sh rounded to an integer for a value of the given sign (07 R123). -/
def roundShift (md : RMode) (neg : Bool) (m sh : Nat) : Nat :=
  let q := m / 2 ^ sh
  let r := m % 2 ^ sh
  if r = 0 then q
  else
    match md with
    | .rne => if 2 * r > 2 ^ sh then q + 1 else if 2 * r = 2 ^ sh then q + q % 2 else q
    | .rz => q
    | .rd => if neg then q + 1 else q
    | .ru => if neg then q else q + 1

/-- The sign bit of a layout. -/
def signBit (l : FLayout) (neg : Bool) : Nat := if neg then 2 ^ (l.width - 1) else 0

/-- What an overflow gives (07 R126). -/
def overflowF (l : FLayout) (md : RMode) (neg : Bool) : Nat × Counts :=
  let toInf := l.hasInf && (match md with
    | .rne => true
    | .rz => false
    | .rd => neg
    | .ru => !neg)
  if toInf then (signBit l neg + l.maxMag + 1, cInf) else (signBit l neg + l.maxMag, cSat)

/-- Rounds a non-zero m * 2^e once into a float format (07 R124-R126). -/
def roundF (l : FLayout) (md : RMode) (neg : Bool) (m : Nat) (e : Int) : Nat × Counts :=
  let top : Int := (Nat.log2 m : Int) + e
  let emin : Int := 1 - (l.bias : Int)
  let ulp : Int := max top emin - l.mbits
  let r := if ulp ≤ e then m * 2 ^ (e - ulp).toNat else roundShift md neg m (ulp - e).toNat
  if r = 0 then (signBit l neg, cFtz)
  else
    let mag :=
      if r < 2 ^ l.mbits then r
      else
        let k := Nat.log2 r
        let biased := ((k : Int) + ulp + l.bias).toNat
        biased * 2 ^ l.mbits + (r / 2 ^ (k - l.mbits) - 2 ^ l.mbits)
    if mag > l.maxMag then overflowF l md neg else (signBit l neg + mag, Counts.zero)

/-- The bits of a value whose zero keeps its sign. -/
def encodeF (l : FLayout) (md : RMode) : FVal → Nat × Counts
  | .nan => (l.canon, cNan)
  | .inf neg => if l.hasInf then (signBit l neg + l.maxMag + 1, Counts.zero) else (signBit l neg + l.maxMag, cSat)
  | .fin neg m e => if m = 0 then (signBit l neg, Counts.zero) else roundF l md neg m e

/-- A conversion into S8 (07 R128). -/
def toS8 (md : RMode) : FVal → Nat × Counts
  | .nan => (0xFF, cNan)
  | .inf neg => if neg then (0xFF, cInv) else (0xFE, cSat)
  | .fin neg m e =>
    if m = 0 then (0x00, cSat)
    else if neg then (0xFF, cInv)
    else
      let k : Int := (Nat.log2 m : Int) + e
      if k < -127 then (0x00, cSat)
      else if k > 127 ∨ (k = 127 ∧ m ≠ 2 ^ Nat.log2 m) then (0xFE, cSat)
      else
        let exact := m == 2 ^ Nat.log2 m
        let twice := 2 * m
        let mid := 3 * 2 ^ Nat.log2 m
        let up := match md with
          | .rd => false
          | .rz => false
          | .ru => !exact
          | .rne => decide (twice > mid) || (decide (twice = mid) && ((k + 127) % 2 == 1))
        let c := k + 127 + (if up then 1 else 0)
        if c > 0xFE then (0xFE, cSat) else (c.toNat, Counts.zero)

/-- A conversion into an integer format (07 R129), as a pattern of its width. -/
def toInt (f : Fmt) (md : RMode) : FVal → Nat × Counts
  | .nan => (0, cNan)
  | .inf neg =>
    let w := widthOf f
    if isI f then (if neg then 2 ^ (w - 1) else 2 ^ (w - 1) - 1, cSat) else (if neg then 0 else 2 ^ w - 1, cSat)
  | .fin neg m e =>
    let w := widthOf f
    let r := if 0 ≤ e then m * 2 ^ e.toNat else roundShift md neg m (-e).toNat
    if isI f then
      (if neg then (if r > 2 ^ (w - 1) then (2 ^ (w - 1), cSat) else ((2 ^ w - r) % 2 ^ w, Counts.zero))
       else (if r > 2 ^ (w - 1) - 1 then (2 ^ (w - 1) - 1, cSat) else (r, Counts.zero)))
    else
      (if neg then (if r > 0 then (0, cSat) else (0, Counts.zero))
       else (if r > 2 ^ w - 1 then (2 ^ w - 1, cSat) else (r, Counts.zero)))

/-- A conversion into any format (07 R125-R129). -/
def convert (dst : Fmt) (md : RMode) (v : FVal) : Nat × Counts :=
  match layoutOf dst with
  | some l => encodeF l md v
  | none => if dst = .s8 then toS8 md v else toInt dst md v

/-- The pattern of a result as a register's DATA: zero-extended, or sign-extended into [63:0] for I formats (07 R131). -/
def resultData (f : Fmt) (w : Nat) : GReg :=
  if isI f then data64 ((sextZ (widthOf f) w) % 2 ^ 64).toNat else dataOf w

/-! ## AMAX (07 R139) -/

/-- The magnitude of a source value as F32 rounded up; none for a NaN. -/
def magF32 : FVal → Option Nat
  | .nan => none
  | .inf _ => some 0x7F800000
  | .fin _ m e => if m = 0 then some 0 else some ((roundF f32L .ru false m e).1)

/-- AMAX after one converted source value (07 R139). -/
def amaxStep (a : Word) (v : FVal) : Word :=
  match magF32 v with
  | none => a
  | some m => if m % 2 ^ 31 > a.toNat % 2 ^ 31 then BitVec.ofNat 32 (m % 2 ^ 31) else a

/-! ## The monotone integer image (07 R130) -/

/-- IMG of the low w bits. -/
def image (f : Fmt) (x : Nat) : Nat :=
  let w := widthOf f
  let u := x % 2 ^ w
  let top := 2 ^ (w - 1)
  match layoutOf f with
  | some _ =>
    let v := if u = top then 0 else u
    if v < top then v + top else 2 ^ w - 1 - v
  | none => if isI f then (if u < top then u + top else u - top) else u

/-- The inverse of IMG. -/
def imageInv (f : Fmt) (x : Nat) : Nat :=
  let w := widthOf f
  let u := x % 2 ^ w
  let top := 2 ^ (w - 1)
  match layoutOf f with
  | some _ => if u < top then 2 ^ w - 1 - u else u - top
  | none => if isI f then (if u < top then u + top else u - top) else u

/-! ## Arithmetic, rounded once into a layout (07 R124, R134) -/

/-- The exact sum of two finite values with the sign of a zero sum (07 R124). -/
def addExact (md : RMode) (n1 : Bool) (m1 : Nat) (e1 : Int) (n2 : Bool) (m2 : Nat) (e2 : Int) : FVal :=
  let e := min e1 e2
  let a : Int := (if n1 then -1 else 1) * ((m1 * 2 ^ (e1 - e).toNat : Nat) : Int)
  let b : Int := (if n2 then -1 else 1) * ((m2 * 2 ^ (e2 - e).toNat : Nat) : Int)
  let t := a + b
  if t = 0 then .fin (if m1 = 0 ∧ m2 = 0 ∧ n1 = n2 then n1 else decide (md = .rd)) 0 0
  else .fin (decide (t < 0)) t.natAbs e

/-- a + b (07 R134). -/
def addF (l : FLayout) (md : RMode) (a b : FVal) : Nat × Counts :=
  match a, b with
  | .nan, _ => (l.canon, cNan)
  | _, .nan => (l.canon, cNan)
  | .inf x, .inf y => if x = y then encodeF l md (.inf x) else (l.canon, cInv)
  | .inf x, _ => encodeF l md (.inf x)
  | _, .inf y => encodeF l md (.inf y)
  | .fin n1 m1 e1, .fin n2 m2 e2 => encodeF l md (addExact md n1 m1 e1 n2 m2 e2)

/-- The opposite of a value. -/
def FVal.neg : FVal → FVal
  | .nan => .nan
  | .inf n => .inf (!n)
  | .fin n m e => .fin (!n) m e

/-- The exact product; none where it is 0 * infinity. -/
def mulExact (a b : FVal) : Option FVal :=
  match a, b with
  | .nan, _ => some .nan
  | _, .nan => some .nan
  | .inf x, .inf y => some (.inf (x != y))
  | .inf x, .fin y m _ => if m = 0 then none else some (.inf (x != y))
  | .fin x m _, .inf y => if m = 0 then none else some (.inf (x != y))
  | .fin n1 m1 e1, .fin n2 m2 e2 => some (.fin (n1 != n2) (m1 * m2) (e1 + e2))

/-- a * b (07 R134). -/
def mulF (l : FLayout) (md : RMode) (a b : FVal) : Nat × Counts :=
  match mulExact a b with
  | none => (l.canon, cInv)
  | some v => encodeF l md v

def FVal.isNan : FVal → Bool
  | .nan => true
  | _ => false

/-- a * b + c, rounded once (07 R134): a NaN in any input counts EVC_NAN, before 0 * infinity. -/
def fmaF (l : FLayout) (md : RMode) (a b c : FVal) : Nat × Counts :=
  if a.isNan ∨ b.isNan ∨ c.isNan then (l.canon, cNan)
  else
    match mulExact a b with
    | none => (l.canon, cInv)
    | some p => addF l md p c

/-- a / b (07 R134): the quotient to at least 40 bits beyond the mantissa with a sticky bit. -/
def divF (l : FLayout) (md : RMode) (a b : FVal) : Nat × Counts :=
  match a, b with
  | .nan, _ => (l.canon, cNan)
  | _, .nan => (l.canon, cNan)
  | .inf _, .inf _ => (l.canon, cInv)
  | .inf x, .fin y _ _ => encodeF l md (.inf (x != y))
  | .fin x _ _, .inf y => encodeF l md (.fin (x != y) 0 0)
  | .fin n1 m1 e1, .fin n2 m2 e2 =>
    if m2 = 0 then (if m1 = 0 then (l.canon, cInv) else (signBit l (n1 != n2) + l.maxMag + 1, cDiv0))
    else if m1 = 0 then encodeF l md (.fin (n1 != n2) 0 0)
    else
      let n := m1 * 2 ^ 80
      let q := n / m2
      encodeF l md (.fin (n1 != n2) (2 * q + (if n % m2 = 0 then 0 else 1)) (e1 - e2 - 81))

/-- Integer square root, one bit at a time from bit k. -/
def isqrtFrom (n : Nat) : Nat → Nat → Nat
  | 0, r => r
  | k + 1, r => isqrtFrom n k (if (r + 2 ^ k) * (r + 2 ^ k) ≤ n then r + 2 ^ k else r)

def isqrt (n : Nat) : Nat := isqrtFrom n (Nat.log2 n / 2 + 1) 0

/-- sqrt(a) (07 R134). -/
def sqrtF (l : FLayout) (md : RMode) (a : FVal) : Nat × Counts :=
  match a with
  | .nan => (l.canon, cNan)
  | .inf neg => if neg then (l.canon, cInv) else encodeF l md (.inf false)
  | .fin neg m e =>
    if m = 0 then encodeF l md (.fin neg 0 0)
    else if neg then (l.canon, cInv)
    else
      let odd := e % 2 = 1
      let m2 := (if odd then 2 * m else m) * 2 ^ 100
      let e2 : Int := (if odd then e - 1 else e) - 100
      let r := isqrt m2
      encodeF l md (.fin false (2 * r + (if r * r = m2 then 0 else 1)) (e2 / 2 - 1))

/-- A pattern's place in numeric order with -0 below +0 (07 R135). -/
def orderKey (l : FLayout) (w : Nat) : Int :=
  let mag := w % 2 ^ (l.width - 1)
  if w / 2 ^ (l.width - 1) % 2 = 1 then -(mag : Int) - 1 else mag

/-- The smaller or larger pattern (07 R135). -/
def minMaxF (l : FLayout) (larger : Bool) (a b : Nat) : Nat × Counts :=
  match (decodeF l a).isNan, (decodeF l b).isNan with
  | true, true => (l.canon, cNan)
  | true, false => (b, cNan)
  | false, true => (a, cNan)
  | false, false =>
    if larger then (if orderKey l b > orderKey l a then b else a, Counts.zero)
    else (if orderKey l b < orderKey l a then b else a, Counts.zero)

/-- The comparison of two values neither of which is NaN, with +0 equal to -0 (07 R136). -/
def cmpKey (l : FLayout) (w : Nat) : Int :=
  let mag := w % 2 ^ (l.width - 1)
  if w / 2 ^ (l.width - 1) % 2 = 1 then -(mag : Int) else mag

/-- A predicate of FCMP and VCMP on two patterns (07 R136). -/
def predF (l : FLayout) (p : FPred) (a b : Nat) : Bool × Counts :=
  let un := (decodeF l a).isNan || (decodeF l b).isNan
  let c := if un then cNan else Counts.zero
  match p with
  | .eq => (!un && cmpKey l a == cmpKey l b, c)
  | .lt => (!un && decide (cmpKey l a < cmpKey l b), c)
  | .le => (!un && decide (cmpKey l a ≤ cmpKey l b), c)
  | .un => (un, c)
  | .ne => (un || cmpKey l a != cmpKey l b, c)

/-- The class bit of an F32 pattern (07 R137). -/
def classBit (w : Nat) : Nat :=
  let neg := w / 2 ^ 31 % 2 == 1
  let mag := w % 2 ^ 31
  if mag > 0x7F800000 then (if neg then 9 else 8)
  else if mag = 0x7F800000 then (if neg then 0 else 7)
  else if mag = 0 then (if neg then 3 else 4)
  else if mag < 0x800000 then (if neg then 2 else 5)
  else (if neg then 1 else 6)

/-! ## The functions of 08 R159, to 320 fraction bits with a sticky bit -/

def fracBits : Nat := 320

/-- The sum of z^(2k+1)/(2k+1) over k, in fixed point: atanh z for z = zf / 2^320. -/
def atanhSum (z2 : Nat) : Nat → Nat → Nat → Nat → Nat
  | 0, _, _, acc => acc
  | n + 1, k, p, acc => atanhSum z2 n (k + 2) (p * z2 / 2 ^ fracBits) (acc + p / k)

/-- atanh of a fixed-point z of at most 1/3. -/
def atanhFix (z : Nat) : Nat := atanhSum (z * z / 2 ^ fracBits) 110 1 z 0

/-- ln 2 in fixed point: 2 atanh(1/3). -/
def ln2Fix : Nat := 2 * atanhFix (2 ^ fracBits / 3)

/-- The sum of y^k/k! in fixed point. -/
def expSum (y : Nat) : Nat → Nat → Nat → Nat → Nat
  | 0, _, _, acc => acc
  | n + 1, k, p, acc => expSum y n (k + 1) (p * y / 2 ^ fracBits / k) (acc + p)

/-- exp of a fixed-point y below 1. -/
def expFix (y : Nat) : Nat := expSum y 90 1 (2 ^ fracBits) 0

/-- A finite magnitude as fixed point; low bits beyond the fraction are dropped. -/
def toFix (m : Nat) (e : Int) : Nat := if 0 ≤ e + fracBits then m * 2 ^ (e + fracBits).toNat else m / 2 ^ (-(e + fracBits)).toNat

/-- Rounds a fixed-point approximation that is not exact: a sticky bit stands below it. -/
def roundFix (neg : Bool) (v : Nat) (scale : Int) : Nat × Counts :=
  encodeF f32L .rne (.fin neg (2 * v + 1) (scale - fracBits - 1))

/-- 2^a (08 R159). -/
def exp2F (a : FVal) : Nat × Counts :=
  match a with
  | .nan => (f32L.canon, cNan)
  | .inf neg => if neg then (0, Counts.zero) else (0x7F800000, Counts.zero)
  | .fin neg m e =>
    if m = 0 then (0x3F800000, Counts.zero)
    else if (Nat.log2 m : Int) + e ≥ 9 then (if neg then (0, cFtz) else (0x7F800000, cInf))
    else
      let x := toFix m e
      let whole := x / 2 ^ fracBits
      let f := x % 2 ^ fracBits
      let exact := f = 0 ∧ toFix m e * 1 = x ∧ (0 ≤ e ∨ m % 2 ^ (-e).toNat = 0)
      if exact then encodeF f32L .rne (.fin false 1 (if neg then -(whole : Int) else whole))
      else if neg then
        roundFix false (expFix ((2 ^ fracBits - f) % 2 ^ fracBits * ln2Fix / 2 ^ fracBits)) (if f = 0 then -(whole : Int) else -(whole : Int) - 1)
      else roundFix false (expFix (f * ln2Fix / 2 ^ fracBits)) whole

/-- log2(a) (08 R159). -/
def log2F (a : FVal) : Nat × Counts :=
  match a with
  | .nan => (f32L.canon, cNan)
  | .inf neg => if neg then (f32L.canon, cInv) else (0x7F800000, Counts.zero)
  | .fin neg m e =>
    if m = 0 then (0xFF800000, cDiv0)
    else if neg then (f32L.canon, cInv)
    else
      let k : Int := (Nat.log2 m : Int) + e
      let p := 2 ^ Nat.log2 m
      if m = p then encodeF f32L .rne (.fin (decide (k < 0)) k.natAbs 0)
      else
        let z := (m - p) * 2 ^ fracBits / (m + p)
        let frac := 2 * atanhFix z * 2 ^ fracBits / ln2Fix
        let t : Int := k * (2 ^ fracBits : Nat) + frac
        roundFix (decide (t < 0)) t.natAbs 0

/-- 1 / a (08 R159): correctly rounded in RNE, overflow to an infinity. -/
def rcpF (a : FVal) : Nat × Counts :=
  match a with
  | .nan => (f32L.canon, cNan)
  | .inf neg => (signBit f32L neg, Counts.zero)
  | .fin neg m _ =>
    if m = 0 then (signBit f32L neg + 0x7F800000, cDiv0) else divF f32L .rne (.fin false 1 0) a

/-- 1 / sqrt(a) (08 R159). -/
def rsqF (a : FVal) : Nat × Counts :=
  match a with
  | .nan => (f32L.canon, cNan)
  | .inf neg => if neg then (f32L.canon, cInv) else (0, Counts.zero)
  | .fin neg m e =>
    if m = 0 then (signBit f32L neg + 0x7F800000, cDiv0)
    else if neg then (f32L.canon, cInv)
    else
      let odd := e % 2 = 1
      let m2 := if odd then 2 * m else m
      let e2 : Int := if odd then e - 1 else e
      let q := isqrt (2 ^ 240 / m2)
      encodeF f32L .rne (.fin false (2 * q + (if q * q * m2 = 2 ^ 240 then 0 else 1)) (-(e2 / 2) - 121))

/-- exp of a fixed-point number of any size, as a fixed-point value and a power of two. -/
def expBig (y : Nat) : Nat × Nat := (expFix (y % ln2Fix), y / ln2Fix)

/-- tanh(a) (08 R159): below 2^-12 it rounds to a itself, from 16 on to 1. -/
def tanhF (a : FVal) : Nat × Counts :=
  match a with
  | .nan => (f32L.canon, cNan)
  | .inf neg => (signBit f32L neg + 0x3F800000, Counts.zero)
  | .fin neg m e =>
    if m = 0 then (signBit f32L neg, Counts.zero)
    else
      let k : Int := (Nat.log2 m : Int) + e
      if k < -12 then encodeF f32L .rne (.fin neg m e)
      else if k ≥ 4 then (signBit f32L neg + 0x3F800000, Counts.zero)
      else
        let ex := expBig (2 * toFix m e)
        let t := ex.1 * 2 ^ ex.2
        roundFix neg ((t - 2 ^ fracBits) * 2 ^ fracBits / (t + 2 ^ fracBits)) 0

end Sys2Proof.Machine
end

