-- ==== Sys2Proof/Machine/Operands.lean ====
section
/-!
DEFINITION. Operand forms: reading operands of a bundle (pending registers, ports, kinds), the destination rule, capability,
handle and address checks, translation look-up, and reading and writing bytes at their homes with tags and full/empty bits.
-/

namespace Sys2Proof.Machine

/-! ## Bytes at their homes (05 R84, R89; 06 R101, R107, R108) -/

/-- The place k bytes further on in the same resource. -/
def placeAdd (p : Place) (k : Nat) : Place :=
  match p with
  | .ls core off => .ls core (off + k)
  | .reg tid off => .reg tid (off + k)
  | .recCopy tid off => .recCopy tid (off + k)
  | .acc cl off => .acc cl (off + k)
  | .bstore cl off => .bstore cl (off + k)
  | .phys pa => .phys (pa + k)

/-- n consecutive places. -/
def placeRun (p : Place) : Nat → List Place
  | 0 => []
  | n + 1 => p :: placeRun (placeAdd p 1) n

/-- A window of a register that a thread has (05 R89); G0 is a register of its own name only. -/
def windowReg (s : State) (tid off : Nat) : Option GReg :=
  match getT s tid with
  | none => none
  | some t => if off / 16 < t.nregs then some (nth GReg.zero (off / 16) t.g) else none

/-- The byte at a place. A window with no register behind it has no stated content: a free value (log entry 3). -/
def getByte (s : State) (p : Place) : Byte :=
  match p with
  | .reg tid off =>
    match windowReg s tid off with
    | some g => BitVec.ofNat 8 (g.bits.toNat / 256 ^ (off % 16))
    | none => Config.freeByte (s.free + off)
  | _ => memGet (placeKey p) s.mem

/-- The bytes at places, as a number, little-endian. -/
def getNat (s : State) (ps : List Place) : Nat := leNat (ps.map (getByte s))

/-- The key of the granule of a local-store byte. -/
def granuleOf (p : Place) : Nat := placeKey p / 16 * 16

/-- The granule of a place carries a capability tag; only local store has tags (06 R99). -/
def tagged (s : State) (p : Place) : Bool :=
  match p with
  | .ls _ _ => smem (granuleOf p) s.tags
  | _ => false

/-- The word of a place is FULL; only local store has states (06 R108). -/
def isFull (s : State) (p : Place) : Bool := !smem (placeKey p / 4 * 4) s.empties

/-- The kind code a tagged granule keeps in its four full/empty bits (05 R84). -/
def storedCode (s : State) (g : Nat) : Nat :=
  (if smem g s.empties then 0 else 1) + (if smem (g + 4) s.empties then 0 else 2)
    + (if smem (g + 8) s.empties then 0 else 4) + (if smem (g + 12) s.empties then 0 else 8)

/-- Sets a word's state. -/
def setFull (s : State) (key : Nat) (full : Bool) : State :=
  { s with empties := if full then sdel (key / 4 * 4) s.empties else sadd (key / 4 * 4) s.empties }

/-- Writes one byte of memory: in local store its granule loses its tag and its word becomes FULL (05 R84). -/
def putByte (s : State) (p : Place) (b : Byte) : State :=
  match p with
  | .ls _ _ =>
    { s with
      mem := memPut (placeKey p) b s.mem
      tags := sdel (granuleOf p) s.tags
      empties := sdel (placeKey p / 4 * 4) s.empties }
  | .reg _ _ => s
  | .recCopy _ _ => s
  | _ => { s with mem := memPut (placeKey p) b s.mem }

/-- Writes one entry of a context's error log, or counts it LOST when the log is full (21 R323). -/
def logError (s : State) (ctx : Nat) (e : LogEntry) : State :=
  match tget ctx s.ctxs with
  | none => s
  | some c =>
    if c.log.length < c.logCap then { s with ctxs := tset ctx { c with log := c.log ++ [logWord e] } s.ctxs }
    else { s with ctxs := tset ctx { c with logLost := c.logLost + 1 } s.ctxs }

/-- The bytes of a register with some replaced: offset within the register and byte. -/
def patchBits (b : QWord) : List (Nat × Byte) → QWord
  | [] => b
  | (o, v) :: rest =>
    patchBits (BitVec.ofNat 128 (b.toNat - bits b.toNat (8 * o) 8 * 256 ^ o + v.toNat * 256 ^ o)) rest

/-- The on-chip address of a byte of a register window (06 R101). -/
def windowAddr (tid off : Nat) : Nat := 0x100000000 + tid / 16 * 0x2000 + tid % 16 * 512 + off

/-- The register a context's window write would replace (05 R86, R89): none for G0, a register the thread has not, a slot with no thread or
another context's (06 R101) and a register that holds COC. -/
def windowTarget (s : State) (ctx tid off : Nat) : Option (Reg × GReg) :=
  match getT s tid with
  | none => none
  | some t =>
    if h : off / 16 < 32 then
      let r : Reg := ⟨off / 16, h⟩
      if t.ctx ≠ ctx ∨ r = 0 ∨ t.nregs ≤ r.val ∨ (t.rd r).kind = .coc then none else some (r, t.rd r)
    else none

/-- A write through a register window arrives (05 R86, R88, R89): it replaces the bytes it covers and makes the register
DATA, or is discarded with PERM and a logged address. The entry is of KIND 1 for a thread's store, of KIND 2 for an engine's write
(21 R323). -/
def windowWrite (s : State) (tid off : Nat) (bs : List (Nat × Byte)) (w : Writer) : State :=
  match windowTarget s w.ctx tid off with
  | some (r, g) => setReg s tid r ⟨.data, patchBits g.bits bs⟩
  | none => logError s w.ctx ⟨BitVec.ofNat 64 (windowAddr tid off), w.taskid, w.info, w.unit, w.core, w.agent, Cause.perm.code,
      if w.agent = 0 then 1 else 2⟩

/-- A word that has an uncorrectable error and is read (21 R325). -/
def poisoned (s : State) (ps : List Place) : Option Nat :=
  match s.poison with
  | [] => none
  | _ => ((ps.map placeKey).find? (fun k => smem (k / 4 * 4) s.poison))

/-- A word written whole loses its poison (21 R325). -/
def clearPoison (s : State) (ps : List Place) : State :=
  match s.poison with
  | [] => s
  | _ =>
    let ks := ps.map placeKey
    { s with poison := s.poison.filter (fun w => !(ks.contains w && ks.contains (w + 1) && ks.contains (w + 2) && ks.contains (w + 3))) }

/-- Writes bytes at their homes in order, register windows aside. -/
def putBytes (s : State) : List (Place × Byte) → State
  | [] => s
  | (p, b) :: rest => putBytes (putByte s p b) rest

/-- Writes bytes at consecutive places from one access: a register window takes them together. -/
def storeBytes (s : State) (w : Writer) (ps : List Place) (bs : List Byte) : State :=
  match ps with
  | .reg tid off :: _ => windowWrite s tid off ((List.range bs.length).map (fun i => ((off + i) % 16, nth 0 i bs))) w
  | _ => clearPoison (putBytes s (ps.zip bs)) ps

/-- ST.Q of a tagged value: the bits, the tag and the kind code in the granule's full/empty bits (05 R84). -/
def storeTagged (s : State) (ps : List Place) (g : GReg) : State :=
  let s1 := clearPoison (putBytes s (ps.zip (toBytes 16 g.bits.toNat))) ps
  match ps with
  | [] => s
  | p :: _ =>
    let k := granuleOf p
    let c := g.kind.code
    let s2 := { s1 with tags := sadd k s1.tags }
    setFull (setFull (setFull (setFull s2 k (c % 2 == 1)) (k + 4) (c / 2 % 2 == 1)) (k + 8) (c / 4 % 2 == 1)) (k + 12)
      (c / 8 % 2 == 1)

/-- The value a load of a whole access returns (05 R84, 06 R105). -/
def loadValue (s : State) (ps : List Place) : GReg :=
  match ps with
  | [] => GReg.zero
  | p :: _ =>
    if ps.length = 16 ∧ tagged s p then ⟨kindOfCode (storedCode s (granuleOf p)), BitVec.ofNat 128 (getNat s ps)⟩
    else dataOf (getNat s ps)

/-! ## Capabilities (05 R76, R80) -/

def capBase (b : QWord) : Nat := bits b.toNat 0 48
def capLen (b : QWord) : Nat := bits b.toNat 48 32
def capCur (b : QWord) : Nat := bits b.toNat 80 32
def capStep (b : QWord) : Nat := bits b.toNat 120 8
def capPerm (b : QWord) (k : Nat) : Bool := bits b.toNat (112 + k) 1 == 1
def capRead (b : QWord) : Bool := capPerm b 0
def capWrite (b : QWord) : Bool := capPerm b 1
def capExec (b : QWord) : Bool := capPerm b 2
def capSync (b : QWord) : Bool := capPerm b 3
def capMatrix (b : QWord) : Bool := capPerm b 4
def capSend (b : QWord) : Bool := capPerm b 5
def capOnchip (b : QWord) : Bool := capPerm b 6
def capDerive (b : QWord) : Bool := capPerm b 7

/-- A CAP register's bits from its fields (05 R76). -/
def mkCap (base len cur perm step : Nat) : QWord :=
  BitVec.ofNat 128 (base % 2 ^ 48 + len % 2 ^ 32 * 2 ^ 48 + cur % 2 ^ 32 * 2 ^ 80 + perm % 2 ^ 8 * 2 ^ 112 + step % 2 ^ 8 * 2 ^ 120)

/-- The cursor moved by STEP (05 R80). -/
def capStepped (b : QWord) : QWord :=
  mkCap (capBase b) (capLen b) (((capCur b : Int) + sextZ 8 (capStep b)) % 2 ^ 32).toNat (bits b.toNat 112 8) (capStep b)

/-- What an access needs of its capability beyond its kind. -/
structure Need where
  load : Bool
  read : Bool
  write : Bool
  sync : Bool
  matrix : Bool
  deriving DecidableEq, Repr

def Need.ld : Need := ⟨true, false, false, false, false⟩
def Need.st : Need := ⟨false, false, true, false, false⟩
def Need.rw : Need := ⟨false, true, true, false, false⟩
def Need.rd : Need := ⟨false, true, false, false, false⟩

/-- The address a capability's offset names, as 64 bits, for a logged fault. -/
def capAddr (b : QWord) (off : Int) : Nat := (((capBase b : Int) + capCur b + off) % 2 ^ 64).toNat

/-- Steps 2 and 3 of 05 R80 on a CAP's bits: permissions, then bounds of s bytes at a signed offset from the cursor. -/
def capCheck (b : QWord) (n : Need) (off : Int) (s : Nat) : Except Stop Nat :=
  let a := capAddr b off
  if (n.load && !(capRead b || capExec b)) || (n.read && !capRead b) || (n.write && !capWrite b)
      || (n.sync && !capSync b) || (n.matrix && !capMatrix b) then .error (.fault .perm a)
  else
    let o := (capCur b : Int) + off
    if 0 ≤ o ∧ o + s ≤ capLen b then .ok a else .error (.fault .bounds a)

/-- A register that must be of one kind: MOVED faults MOVED, any other kind KIND, with the field's register number
(05 R80, 21 R318). -/
def needKind (k : Kind) (r : Reg) (g : GReg) : Except Stop Unit :=
  if g.kind = k then .ok ()
  else if g.kind = .moved then .error (.fault .moved r.val)
  else .error (.fault .kind r.val)

/-- A register that must be of one of several kinds. -/
def needKinds (ks : List Kind) (r : Reg) (g : GReg) : Except Stop Unit :=
  if ks.contains g.kind then .ok ()
  else if g.kind = .moved then .error (.fault .moved r.val)
  else .error (.fault .kind r.val)

/-- The destination rule (05 R86): no instruction overwrites a COC register but as one of the sources it consumes. -/
def destOk (t : Thread) (d : Reg) (consumed : List Reg) : Except Stop Unit :=
  if (t.rd d).kind = .coc ∧ !consumed.contains d then .error (.fault .kind d.val) else .ok ()

/-! ## Translation (21 R334-R337) -/

/-- A translation the cluster holds for an address of a context. -/
def tlbFind (s : State) (cl ctx va : Nat) : Option TlbEntry :=
  (clusterSt s cl).tlb.find? (fun e => e.ctx == ctx && va / 2 ^ e.pbits == e.va / 2 ^ e.pbits)

/-- The physical address of a virtual one under a translation. -/
def TlbEntry.phys (e : TlbEntry) (va : Nat) : Nat := bits e.leaf 12 44 * 4096 / 2 ^ e.pbits * 2 ^ e.pbits + va % 2 ^ e.pbits

def leafRead (l : Nat) : Bool := bits l 1 1 == 1
def leafWrite (l : Nat) : Bool := bits l 2 1 == 1
def leafExec (l : Nat) : Bool := bits l 3 1 == 1

/-- Translates an access (21 R336): a missing page parks it, a missing bit faults PERM. -/
def translate (s : State) (cl ctx va : Nat) (n : Need) (capR capX : Bool) : Except Stop Nat :=
  match tlbFind s cl ctx va with
  | none => .error (.miss va)
  | some e =>
    let rd := if leafRead e.leaf then capR else if leafExec e.leaf then capX else false
    if ((n.load || n.read) && !rd) || (n.write && !leafWrite e.leaf) then .error (.fault .perm va)
    else .ok (e.phys va)

/-- No other context has a thread in a slot. -/
def slotFree (s : State) (ctx tid : Nat) : Bool :=
  match getT s tid with
  | some t => t.ctx == ctx
  | none => true

/-- A slot has a thread of a context. -/
def slotOwn (s : State) (ctx tid : Nat) : Bool := (getT s tid).any (fun t => t.ctx == ctx)

/-- A unit of local store is being scrubbed (06 R100). -/
def scrubs (s : State) (core u : Nat) : Bool := (coreSt s core).scrubbing.any (fun p => decide (p.1 ≤ u) && decide (u < p.1 + p.2))

/-- No other context has a unit of local store. -/
def unitOwn (s : State) (ctx core unit_ : Nat) : Bool :=
  !s.places.any (fun p => p.2.core == core && decide (p.2.unit0 ≤ unit_) && decide (unit_ < p.2.unit0 + p.2.units) &&
    (match tget p.2.owner s.owners with
     | some o => o.ctx != ctx
     | none => false))

/-- A context may reach an on-chip place, never another's state (06 R101): local store below the cocoon region (17 R267) that no other
context has and no scrubber is clearing (06 R100), a register window no other context has, a record copy of a thread of its own (DESIGN
CHOICE, log entry 57), a byte of a tile only while a task of the context owns the tile (13 R229), a byte of B-store only in its own slices and
their scale blocks (13 R227). -/
def reaches (s : State) (ctx : Nat) (p : Place) : Bool :=
  match p with
  | .ls core off => decide (off / 4096 < 96 - s.cocoonUnits) && unitOwn s ctx core (off / 4096) && !scrubs s core (off / 4096)
  | .reg tid _ => slotFree s ctx tid
  | .recCopy tid _ => slotOwn s ctx tid
  | .acc cl off =>
    (match (nth Tile.reset (off / 0x40000) (clusterSt s cl).tiles).owner with
     | some o => (match tget o s.owners with
       | some v => v.ctx == ctx
       | none => false)
     | none => false)
  | .bstore cl off =>
    (match tget ctx s.ctxs with
     | none => false
     | some c =>
       let slice := off / 0x8000
       if !isF4 cl then decide (c.b16Base ≤ slice) && decide (slice < c.b16Base + c.b16Count)
       else
         let k := if 240 ≤ slice then (slice - 240) * 16 + off % 0x8000 / 0x800 else slice
         decide (c.f4Base ≤ k) && decide (k < c.f4Base + c.f4Count))
  | .phys _ => true

/-- The on-chip place an address names for a context, where the context may reach it. -/
def reach (s : State) (ctx a : Nat) (am : Bool) : Option Place := (onchip a am).filter (reaches s ctx)

/-- The context of an owner may still reach some on-chip places: what is in flight is tested again as it is performed (06 R101, log entry 57). -/
def ownerReaches (s : State) (owner : Nat) (ps : List Place) : Bool :=
  match tget owner s.owners with
  | some o => ps.all (reaches s o.ctx)
  | none => true

/-- An access in flight may still reach its places: one through a handle may while it is under way (17 R272), another where its owner's context
does. -/
def reqReaches (s : State) (r : Req) : Bool := r.handle.isSome || ownerReaches s r.owner r.at_

/-- The context of a slot's thread. -/
def ctxOf (s : State) (tid : Nat) : Nat :=
  match getT s tid with
  | some t => t.ctx
  | none => 0

/-- The place of a checked capability address (06 R105): PERM or XLATE of the resolved address. -/
def capPlace (s : State) (core ctx : Nat) (b : QWord) (a : Nat) (am : Bool) (n : Need) : Except Stop Place :=
  if capOnchip b then
    match reach s ctx a am with
    | none => .error (.fault .perm a)
    | some p =>
      if (n.load && !capRead b) || (n.write && (match p with | .recCopy _ _ => true | _ => false)) then
        .error (.fault .perm a)
      else .ok p
  else (translate s (core / 16) ctx a n (capRead b) (capExec b)).map Place.phys

/-- Alignment (06 R105). -/
def needAlign (a n : Nat) : Except Stop Unit := if a % n = 0 then .ok () else .error (.fault .align a)

/-! ## Cocoon handles in the address role (17 R271, R272) -/

/-- The width in bits of a format code (07 R120). -/
def codeWidth : Nat → Nat
  | 0 | 10 | 14 => 32
  | 1 | 2 | 9 | 13 => 16
  | 3 | 4 | 6 | 8 | 12 => 8
  | 5 => 4
  | 11 | 15 => 64
  | _ => 0

/-- The width in bits of a format (07 R120). -/
def fmtWidth : Fmt → Nat
  | .f32 | .i32 | .n32 => 32
  | .b16 | .f16 | .i16 | .n16 => 16
  | .e4m3 | .e5m2 | .s8 | .i8 | .n8 => 8
  | .e2m1 => 4
  | .i64 | .n64 => 64

/-- A handle is live: its entry is LEAF and of its generation (17 R271). -/
def cocLive (s : State) (cl : Nat) (b : QWord) : Bool :=
  let e := hltEntry s cl (cocHlt b)
  e.state == .leaf && e.gen.toNat == cocGen b

/-- Bytes of one covered row. -/
def cocRowBytes (b : QWord) : Nat := cocCcount b * codeWidth (cocFmt b) / 8

/-- The on-chip address of byte o of a handle's packed row-major array (17 R272). -/
def cocByteAddr (cl : Nat) (b : QWord) (o : Nat) : Nat :=
  let rb := cocRowBytes b
  cl * 0x800000 + cocTbase b + (cocRstart b + o / rb) * cocPitch b * 128 + cocCstart b * codeWidth (cocFmt b) / 8 + o % rb

/-- The checks of 17 R272 for s bytes at a signed offset; the place and the checked address. -/
def cocPlace (s : State) (cl : Nat) (b : QWord) (write : Bool) (off : Int) (n : Nat) : Except Stop (Place × Nat) :=
  if !cocLive s cl b then .error (.fault .hltStale (cocHlt b))
  else if (write && !cocW b) || (!write && !cocR b) then .error (.fault .perm (cl * 0x800000 + cocTbase b))
  else
    let rb := cocRowBytes b
    if off < 0 ∨ off + n > cocRcount b * rb then .error (.fault .bounds (off % 2 ^ 64).toNat)
    else
      let o := off.toNat
      if o / rb ≠ (o + n - 1) / rb then .error (.fault .bounds o)
      else
        let a := cocByteAddr cl b o
        if a % n ≠ 0 then .error (.fault .align a)
        else
          match onchip a true with
          | some p => .ok (p, a)
          | none => .error (.fault .perm a)

/-- Counts an access or command in an entry's ACTIVE (17 R272). -/
def hltActive (s : State) (cl k : Nat) (up : Bool) : State :=
  let e := hltEntry s cl k
  setHlt s cl k { e with active := if up then e.active + 1 else e.active - 1 }

/-- A thread as a latch has it. -/
def Latch.onto (l : Latch) (t : Thread) : Thread := { t with g := l.g, m := l.m, rmode := l.rmode, pend := l.pend, amax := l.amax, preempt := l.preempt }

/-- What a pair reads in its turn (02 R33). -/
def Latch.take (s : State) (tid : Nat) (t : Thread) : Latch :=
  ⟨t.g, t.m, t.rmode, t.pend, t.amax, t.preempt, s.time, (coreSt s (tid / 16)).evc, none⟩

/-- A register that awaited a relaxed load is read once the reply has been written (05 R88). -/
def Latch.refresh (l : Latch) (t : Thread) : Latch :=
  let still := fun (p : Nat × Nat) => t.pend.any (fun q => q.2 == p.2)
  { l with
    g := (l.pend.filter (fun p => !still p)).foldl (fun g p => setNth (nth GReg.zero p.1 t.g) p.1 g) l.g
    pend := l.pend.filter still }

/-- The issuing bundle and its thread, with a pair's operands as read in the bundle's turn (02 R33). -/
def issuer (s : State) : Option (Issue × Thread) :=
  match s.cur with
  | none => none
  | some i => (getT s i.tid).map (fun t => (i, match i.latch with
    | some l => l.onto t
    | none => t))

/-- The register itself, not what it stands for, holds a PORT. -/
def portAt (s : State) (tid : Nat) (r : Reg) : Bool :=
  match issuer s with
  | some (i, t) => i.tid == tid && (t.rd r).kind == .port
  | none => false

/-- A register in a use that sees the PORT itself and pops nothing (05 R83). -/
def unpopped (s : State) (tid : Nat) (t : Thread) (r : Reg) : GReg := if portAt s tid r then ⟨.port, 0⟩ else t.rd r

/-! ## Issuing an instruction -/

/-- The first of some registers that awaits a relaxed load (05 R88). -/
def firstPending (t : Thread) (rs : List Reg) : Option Reg :=
  rs.find? (fun r => r != 0 && t.pend.any (fun p => p.1 == r.val))

/-- The first of some registers that holds a PORT. -/
def firstPort (t : Thread) (rs : List Reg) : Option Reg := rs.find? (fun r => (t.rd r).kind == .port)

/-- Every PORT among some registers replaced by the popped payload (10 R194). -/
def substPort (t : Thread) (rs : List Reg) (v : GReg) : Thread :=
  rs.foldl (fun u r => if (t.rd r).kind = .port then u.wr r v else u) t

/-- A fault that comes before the checks of the PORT operands: the operands are checked in the order the instruction gives, and
the check of a PORT as the register it is would fault KIND with its number. -/
def faultBefore (t : Thread) (reads : List Reg) : Except Stop State → Option Stop
  | .error (.fault c a) =>
    if c = .kind ∧ reads.any (fun r => r.val == a && (t.rd r).kind == .port) then none else some (.fault c a)
  | _ => none

/-- THE SHAPE OF A MEANING. regs are all registers the instruction reads or writes: one awaiting a relaxed load parks the
bundle first (05 R88). reads are the operands a PORT register stands for by its next message (05 R83, 10 R194): a
fault of an operand before it comes first; in a pair a PORT faults KIND; alone, the read waits for the thread's outstanding
accesses and for a message, and the pop commits when the instruction retires. The body then answers the state after the
instruction, or why it stops. -/
def issueWith (s : State) (regs reads : List Reg)
    (body : Issue → Thread → Except Stop State) : Host.Outcome State Fault Refusal :=
  match issuer s with
  | none => .fault .noIssuer
  | some (i, t) =>
    match firstPending t regs with
    | some r => .next (stopAt s i.tid (.wait (.pending r.val)))
    | none =>
      match firstPort t reads with
      | none =>
        match body i t with
        | .ok s' => .next s'
        | .error st => .next (stopAt s i.tid st)
      | some r =>
        match faultBefore t reads (body i t) with
        | some st => .next (stopAt s i.tid st)
        | none =>
          if i.paired then .next (stopAt s i.tid (.fault .kind r.val))
          else if !quiet s i.tid then .next (stopAt s i.tid (.wait (.relaxedDone 4)))
          else
            match portHead s i.tid with
            | none => .next (stopAt s i.tid (.wait (if isOverflow s i.tid then .overflowPort else .port)))
            | some e =>
              match body i (substPort t reads e.payload) with
              | .ok s' => .next (popWhenDone s' i.tid e)
              | .error st => .next (stopAt s i.tid st)

end Sys2Proof.Machine
end

