-- ==== Sys2Proof/Machine/Flags.lean ====
section
/-!
DEFINITION. The conditions of branches (02 R30), integer arithmetic (05 R91, R92) and the event counters and AMAX as an
instruction updates them at retirement (07 R139-R141).
-/

namespace Sys2Proof.Machine

/-- A 64-bit number as signed. -/
def s64 (n : Nat) : Int := sextZ 64 n

/-- A comparison of 02 R30 on bits [63:0]. -/
def cmpHolds (c : Cmp) (a b : Nat) : Bool :=
  match c with
  | .eq => a == b
  | .ne => a != b
  | .lt => decide (s64 a < s64 b)
  | .ge => decide (s64 b ≤ s64 a)
  | .ltn => decide (a < b)
  | .gen => decide (b ≤ a)

/-- The target of a branch: the bundle's address and a signed word offset, modulo 2^57 (02 R31). -/
def branchTarget (pc : VAddr) (off : Int) : VAddr := BitVec.ofInt 57 ((pc.toNat : Int) + 4 * off)

/-- A signed number as 64 bits. -/
def toU64 (i : Int) : Nat := (i % 2 ^ 64).toNat

/-- Shift right with copies of bit 63 (05 R91). -/
def sra64 (a sh : Nat) : Nat := toU64 (s64 a / 2 ^ sh)

/-- Rotate left (05 R91). -/
def rol64 (a sh : Nat) : Nat := (a * 2 ^ sh % 2 ^ 64) + a / 2 ^ (64 - sh)

/-- AND NOT of 64-bit numbers (05 R91). -/
def andn64 (a b : Nat) : Nat := Nat.land a (2 ^ 64 - 1 - b)

/-- Division truncated toward zero; by zero all ones (05 R92). -/
def div64 (a b : Nat) : Nat := if b = 0 then 2 ^ 64 - 1 else toU64 (Int.tdiv (s64 a) (s64 b))

def divn64 (a b : Nat) : Nat := if b = 0 then 2 ^ 64 - 1 else a / b

/-- a - b * DIV(a, b); by zero a (05 R92). -/
def rem64 (a b : Nat) : Nat := if b = 0 then a else toU64 (Int.tmod (s64 a) (s64 b))

def remn64 (a b : Nat) : Nat := if b = 0 then a else a % b

/-- The number of set bits below bit n. -/
def popCount : Nat → Nat → Nat
  | 0, _ => 0
  | n + 1, a => a % 2 + popCount n (a / 2)

/-- Trailing zero bits below bit n. -/
def ctzFrom : Nat → Nat → Nat
  | 0, _ => 0
  | n + 1, a => if a % 2 = 1 then 0 else 1 + ctzFrom n (a / 2)

/-- Leading zero bits of 64 (05 R92). -/
def clz64 (a : Nat) : Nat := if a = 0 then 64 else 63 - Nat.log2 a

/-- The counters rise at retirement (07 R141). -/
def countAt (s : State) (tid : Nat) (c : Counts) : State := count s (tid / 16) c

/-- Division by zero counts EVC_DIV0 (05 R92). -/
def divCount (s : State) (tid b : Nat) : State := if b = 0 then countAt s tid cDiv0 else s

end Sys2Proof.Machine
end

