-- ==== Sys2Proof/Machine/Alu.lean ====
section
/-!
DEFINITION. Integer and immediate instructions (05 R90-R95): bits [63:0] of DATA operands, a DATA result with bits [127:64] zero.
-/

namespace Sys2Proof.Machine

/-- The shape of a two-operand integer instruction (05 R90). -/
def intBinary (f : Nat → Nat → Nat) (d a b : Reg) (s : State) : Host.Outcome State Fault Refusal :=
  issueWith s [d, a, b] [a, b] (fun i t => do
    needKind .data a (t.rd a)
    needKind .data b (t.rd b)
    destOk t d []
    .ok (advance (setReg s i.tid d (data64 (f (lo64 (t.rd a)) (lo64 (t.rd b))))) i.tid))

/-- The shape of a one-operand integer instruction (05 R90). -/
def intUnary (f : Nat → Nat) (d a : Reg) (s : State) : Host.Outcome State Fault Refusal :=
  issueWith s [d, a] [a] (fun i t => do
    needKind .data a (t.rd a)
    destOk t d []
    .ok (advance (setReg s i.tid d (data64 (f (lo64 (t.rd a))))) i.tid))

/-- The shape of a division (05 R92): a zero divisor counts EVC_DIV0 and never faults. -/
def intDivide (f : Nat → Nat → Nat) (d a b : Reg) (s : State) : Host.Outcome State Fault Refusal :=
  issueWith s [d, a, b] [a, b] (fun i t => do
    needKind .data a (t.rd a)
    needKind .data b (t.rd b)
    destOk t d []
    .ok (divCount (advance (setReg s i.tid d (data64 (f (lo64 (t.rd a)) (lo64 (t.rd b))))) i.tid) i.tid (lo64 (t.rd b))))

/-- ADD (05 R91). -/
def execAdd (d a b : Reg) (s : State) : Host.Outcome State Fault Refusal :=
  intBinary (fun x y => x + y) d a b s

/-- SUB (05 R91). -/
def execSub (d a b : Reg) (s : State) : Host.Outcome State Fault Refusal :=
  intBinary (fun x y => x + (2 ^ 64 - y)) d a b s

/-- AND (05 R91). -/
def execAnd (d a b : Reg) (s : State) : Host.Outcome State Fault Refusal :=
  intBinary (Nat.land) d a b s

/-- OR (05 R91). -/
def execOr (d a b : Reg) (s : State) : Host.Outcome State Fault Refusal :=
  intBinary (Nat.lor) d a b s

/-- XOR (05 R91). -/
def execXor (d a b : Reg) (s : State) : Host.Outcome State Fault Refusal :=
  intBinary (Nat.xor) d a b s

/-- ANDN (05 R91). -/
def execAndn (d a b : Reg) (s : State) : Host.Outcome State Fault Refusal :=
  intBinary (andn64) d a b s

/-- SHL (05 R91). -/
def execShl (d a b : Reg) (s : State) : Host.Outcome State Fault Refusal :=
  intBinary (fun x y => x * 2 ^ (y % 64)) d a b s

/-- SHR (05 R91). -/
def execShr (d a b : Reg) (s : State) : Host.Outcome State Fault Refusal :=
  intBinary (fun x y => x / 2 ^ (y % 64)) d a b s

/-- SRA (05 R91). -/
def execSra (d a b : Reg) (s : State) : Host.Outcome State Fault Refusal :=
  intBinary (fun x y => sra64 x (y % 64)) d a b s

/-- ROL (05 R91). -/
def execRol (d a b : Reg) (s : State) : Host.Outcome State Fault Refusal :=
  intBinary (fun x y => rol64 x (y % 64)) d a b s

/-- MIN (05 R91). -/
def execMin (d a b : Reg) (s : State) : Host.Outcome State Fault Refusal :=
  intBinary (fun x y => if s64 x ≤ s64 y then x else y) d a b s

/-- MAX (05 R91). -/
def execMax (d a b : Reg) (s : State) : Host.Outcome State Fault Refusal :=
  intBinary (fun x y => if s64 y ≤ s64 x then x else y) d a b s

/-- MINN (05 R91). -/
def execMinn (d a b : Reg) (s : State) : Host.Outcome State Fault Refusal :=
  intBinary (fun x y => if x ≤ y then x else y) d a b s

/-- MAXN (05 R91). -/
def execMaxn (d a b : Reg) (s : State) : Host.Outcome State Fault Refusal :=
  intBinary (fun x y => if y ≤ x then x else y) d a b s

/-- SLT (05 R91). -/
def execSlt (d a b : Reg) (s : State) : Host.Outcome State Fault Refusal :=
  intBinary (fun x y => if s64 x < s64 y then 1 else 0) d a b s

/-- SLTN (05 R91). -/
def execSltn (d a b : Reg) (s : State) : Host.Outcome State Fault Refusal :=
  intBinary (fun x y => if x < y then 1 else 0) d a b s

/-- MUL (05 R92). -/
def execMul (d a b : Reg) (s : State) : Host.Outcome State Fault Refusal :=
  intBinary (fun x y => x * y) d a b s

/-- MULH (05 R92). -/
def execMulh (d a b : Reg) (s : State) : Host.Outcome State Fault Refusal :=
  intBinary (fun x y => toU64 (s64 x * s64 y / 2 ^ 64)) d a b s

/-- MULHN (05 R92). -/
def execMulhn (d a b : Reg) (s : State) : Host.Outcome State Fault Refusal :=
  intBinary (fun x y => x * y / 2 ^ 64) d a b s

/-- DIV (05 R92). -/
def execDiv (d a b : Reg) (s : State) : Host.Outcome State Fault Refusal :=
  intDivide div64 d a b s

/-- DIVN (05 R92). -/
def execDivn (d a b : Reg) (s : State) : Host.Outcome State Fault Refusal :=
  intDivide divn64 d a b s

/-- REM (05 R92). -/
def execRem (d a b : Reg) (s : State) : Host.Outcome State Fault Refusal :=
  intDivide rem64 d a b s

/-- REMN (05 R92). -/
def execRemn (d a b : Reg) (s : State) : Host.Outcome State Fault Refusal :=
  intDivide remn64 d a b s

/-- CLZ (05 R92). -/
def execClz (d a : Reg) (s : State) : Host.Outcome State Fault Refusal :=
  intUnary clz64 d a s

/-- CTZ (05 R92). -/
def execCtz (d a : Reg) (s : State) : Host.Outcome State Fault Refusal :=
  intUnary (ctzFrom 64) d a s

/-- POPC (05 R92). -/
def execPopc (d a : Reg) (s : State) : Host.Outcome State Fault Refusal :=
  intUnary (popCount 64) d a s

/-- A TENS value copied into a register adds a pin on its node (05 R87). -/
def pinCopy (s : State) (t : Thread) (d : Reg) (v : GReg) : State :=
  if v.kind = .tens ∧ d ≠ 0 then addPin s t.ctx (v.bits.toNat % 2 ^ 20) else s

/-- SEL (05 R93): G[a] or G[b] whole, with kind. -/
def execSel (d a b c : Reg) (s : State) : Host.Outcome State Fault Refusal :=
  issueWith s [d, a, b, c] [a, b, c] (fun i t => do
    needKinds [.data, .cap, .strm, .tens] a (t.rd a)
    needKinds [.data, .cap, .strm, .tens] b (t.rd b)
    needKind .data c (t.rd c)
    destOk t d []
    let v := if lo64 (t.rd c) ≠ 0 then t.rd a else t.rd b
    .ok (advance (setReg (pinCopy s t d v) i.tid d v) i.tid))

/-- ADDI (05 R94). -/
def execAddi (d a : Reg) (imm : BitVec 14) (s : State) : Host.Outcome State Fault Refusal :=
  intUnary (fun x => x + toU64 imm.toInt) d a s

/-- ANDI (05 R94). -/
def execAndi (d a : Reg) (imm : BitVec 14) (s : State) : Host.Outcome State Fault Refusal :=
  intUnary (fun x => Nat.land x imm.toNat) d a s

/-- ORI (05 R94). -/
def execOri (d a : Reg) (imm : BitVec 14) (s : State) : Host.Outcome State Fault Refusal :=
  intUnary (fun x => Nat.lor x imm.toNat) d a s

/-- XORI (05 R94). -/
def execXori (d a : Reg) (imm : BitVec 14) (s : State) : Host.Outcome State Fault Refusal :=
  intUnary (fun x => Nat.xor x imm.toNat) d a s

/-- SLTI (05 R94). -/
def execSlti (d a : Reg) (imm : BitVec 14) (s : State) : Host.Outcome State Fault Refusal :=
  intUnary (fun x => if s64 x < imm.toInt then 1 else 0) d a s

/-- SHLI (05 R94). -/
def execShli (d a : Reg) (sh : BitVec 6) (s : State) : Host.Outcome State Fault Refusal :=
  intUnary (fun x => x * 2 ^ sh.toNat) d a s

/-- SHRI (05 R94). -/
def execShri (d a : Reg) (sh : BitVec 6) (s : State) : Host.Outcome State Fault Refusal :=
  intUnary (fun x => x / 2 ^ sh.toNat) d a s

/-- SRAI (05 R94). -/
def execSrai (d a : Reg) (sh : BitVec 6) (s : State) : Host.Outcome State Fault Refusal :=
  intUnary (fun x => sra64 x sh.toNat) d a s

/-- The shape of LI: a constant into a register (05 R95). -/
def loadImmediate (d : Reg) (v : Nat) (s : State) : Host.Outcome State Fault Refusal :=
  issueWith s [d] [] (fun i t => do
    destOk t d []
    .ok (advance (setReg s i.tid d (data64 v)) i.tid))

/-- LI with a sign-extended IMM19 (05 R95). -/
def execLi (d : Reg) (imm : BitVec 19) (s : State) : Host.Outcome State Fault Refusal := loadImmediate d (toU64 imm.toInt) s

/-- LI with a 64-bit literal (05 R95). -/
def execLiX (d : Reg) (imm : DWord) (s : State) : Host.Outcome State Fault Refusal := loadImmediate d imm.toNat s

end Sys2Proof.Machine
end

