-- ==== Sys2Proof/Machine/Caps.lean ====
section
/-!
DEFINITION. Kinds, moves and capability derivation (05 R83, R85, R96-R98).
-/

namespace Sys2Proof.Machine

/-- MOV or MOVE of a PORT register to itself, alone: the register is left unchanged and nothing is consumed (05 R96). -/
def portToItself (i : Issue) (t : Thread) (d a : Reg) : Bool := d == a && (t.rd a).kind == .port && !i.paired

/-- MOV (05 R96): DATA, CAP, STRM and TENS only; with d = a nothing changes. -/
def execMov (d a : Reg) (s : State) : Host.Outcome State Fault Refusal :=
  issueWith s [d, a] (if d = a then [] else [a]) (fun i t =>
    if portToItself i t d a then .ok (advance s i.tid)
    else do
      needKinds [.data, .cap, .strm, .tens] a (t.rd a)
      destOk t d []
      if d = a then .ok (advance s i.tid)
      else
        let v := t.rd a
        .ok (advance (setReg (pinCopy s t d v) i.tid d v) i.tid))

/-- The roles of a CPYS register pass to the destination of its MOVE (06 R118). -/
def moveRing (s : State) (tid : Nat) (roles : List (Nat × Nat)) (d a : Reg) : State :=
  match getT s tid with
  | none => s
  | some t => setT s tid { t with rings := t.rings ++ (roles.filter (fun p => p.1 == a.val)).map (fun p => (d.val, p.2)) }

/-- MOVE (05 R85, R96): the value and its kind move; the source becomes MOVED. A PORT source pops and is not consumed
(10 R194); a COC source may not be discarded. The bits left in the source are free (log entry 36). -/
def execMove (d a : Reg) (s : State) : Host.Outcome State Fault Refusal :=
  issueWith s [d, a] (if d = a then [] else [a]) (fun i t =>
    if portToItself i t d a then .ok (advance s i.tid)
    else do
      needKinds [.data, .cap, .strm, .tens, .coc] a (t.rd a)
      let fromPort := portAt s i.tid a
      if d = 0 ∧ (t.rd a).kind = .coc then .error (.fault .kind a.val)
      else do
        destOk t d [a]
        let v := t.rd a
        if d = a then .ok (advance s i.tid)
        else
          let roles := (((getT s i.tid).map Thread.rings).getD [])
          let s1 := setReg (pinCopy s t d v) i.tid d v
          if fromPort ∨ a = 0 then .ok (advance s1 i.tid)
          else .ok (advance (moveRing (setMoved s1 i.tid a) i.tid (if d = 0 then [] else roles) d a) i.tid))

/-- KIND (05 R96): the kind code, MOVED as 14 and PORT as 5, without a fault or a pop. It reads 5 in a pair too (DESIGN CHOICE, log entry 62:
10 R194 has a PORT operand of a pair fault KIND, where R96 has KIND never fault on a kind). -/
def execKind (d a : Reg) (s : State) : Host.Outcome State Fault Refusal :=
  issueWith s [d, a] [] (fun i t => do
    destOk t d []
    .ok (advance (setReg s i.tid d (dataOf (t.rd a).kind.code)) i.tid))

/-- The field CGET reads (05 R97). -/
def capField (f : CapField) (b : QWord) : Nat :=
  match f with
  | .base => capBase b
  | .len => capLen b
  | .cur => capCur b
  | .perm => bits b.toNat 112 8
  | .step => toU64 (sextZ 8 (capStep b))

/-- CGET (05 R97). -/
def execCget (f : CapField) (d a : Reg) (s : State) : Host.Outcome State Fault Refusal :=
  issueWith s [d, a] [a] (fun i t => do
    needKind .cap a (t.rd a)
    destOk t d []
    .ok (advance (setReg s i.tid d (data64 (capField f (t.rd a).bits))) i.tid))

/-- The shape of a derivation (05 R98): a CAP and a DATA operand, a CAP result. -/
def derive (f : QWord → Nat → Except Stop QWord) (d a b : Reg) (s : State) : Host.Outcome State Fault Refusal :=
  issueWith s [d, a, b] [a, b] (fun i t => do
    needKind .cap a (t.rd a)
    needKind .data b (t.rd b)
    let c ← f (t.rd a).bits (lo64 (t.rd b))
    destOk t d []
    .ok (advance (setReg s i.tid d ⟨.cap, c⟩) i.tid))

/-- CSETB's result (05 R98). -/
def csetbBits (c : QWord) (v : Nat) : Except Stop QWord :=
  if !capDerive c then .error (.fault .perm (capAddr c 0))
  else if capLen c < capCur c ∨ capLen c - capCur c < v then .error (.fault .bounds (capAddr c 0))
  else .ok (mkCap (capBase c + capCur c) v 0 (bits c.toNat 112 8) (capStep c))

/-- CSETP's result (05 R98): Onchip is kept. -/
def csetpBits (c : QWord) (v : Nat) : QWord :=
  mkCap (capBase c) (capLen c) (capCur c)
    (Nat.land (bits c.toNat 112 8) (Nat.lor (v % 256) 64)) (capStep c)

/-- CSETC's result (05 R98). -/
def csetcBits (c : QWord) (v : Nat) : QWord := mkCap (capBase c) (capLen c) v (bits c.toNat 112 8) (bits v 32 8)

/-- CINC's result (05 R98). -/
def cincBits (c : QWord) (v : Nat) : QWord :=
  mkCap (capBase c) (capLen c) (capCur c + v % 2 ^ 32) (bits c.toNat 112 8) (capStep c)

/-- CSETB (05 R98). -/
def execCsetb (d a b : Reg) (s : State) : Host.Outcome State Fault Refusal := derive csetbBits d a b s

/-- CSETP (05 R98). -/
def execCsetp (d a b : Reg) (s : State) : Host.Outcome State Fault Refusal := derive (fun c v => .ok (csetpBits c v)) d a b s

/-- CSETC (05 R98). -/
def execCsetc (d a b : Reg) (s : State) : Host.Outcome State Fault Refusal := derive (fun c v => .ok (csetcBits c v)) d a b s

/-- CINC (05 R98). -/
def execCinc (d a b : Reg) (s : State) : Host.Outcome State Fault Refusal := derive (fun c v => .ok (cincBits c v)) d a b s

end Sys2Proof.Machine
end

