-- ==== Sys2Proof/Machine/Mask.lean ====
section
/-!
DEFINITION. Mask registers (08 R165, R166).
-/

namespace Sys2Proof.Machine

/-- Writes a mask register. -/
def setMask (s : State) (tid : Nat) (m : MReg) (v : BitVec 16) : State :=
  match getT s tid with
  | none => s
  | some t => setT s tid { t with m := setNth v m.val t.m }

/-- Reads a mask register. -/
def Thread.mask (t : Thread) (m : MReg) : BitVec 16 := nth 0 m.val t.m

/-- The shape of an instruction that reads a mask into a G register. -/
def maskToReg (f : BitVec 16 → Nat) (d : Reg) (a : MReg) (s : State) : Host.Outcome State Fault Refusal :=
  issueWith s [d] [] (fun i t => do
    destOk t d []
    .ok (advance (setReg s i.tid d (dataOf (f (t.mask a)))) i.tid))

/-- The shape of an instruction from masks to a mask. -/
def maskOp (f : Thread → BitVec 16) (d : MReg) (s : State) : Host.Outcome State Fault Refusal :=
  issueWith s [] [] (fun i t => .ok (advance (setMask s i.tid d (f t)) i.tid))

/-- MOVM.MG (08 R166). -/
def execMovmMg (d : Reg) (a : MReg) (s : State) : Host.Outcome State Fault Refusal := maskToReg BitVec.toNat d a s

/-- MOVM.GM (08 R166). -/
def execMovmGm (d : MReg) (a : Reg) (s : State) : Host.Outcome State Fault Refusal :=
  issueWith s [a] [a] (fun i t => do
    needKind .data a (t.rd a)
    .ok (advance (setMask s i.tid d (BitVec.ofNat 16 (lo64 (t.rd a)))) i.tid))

/-- MAND (08 R166). -/
def execMand (d a b : MReg) (s : State) : Host.Outcome State Fault Refusal := maskOp (fun t => t.mask a &&& t.mask b) d s

/-- MOR (08 R166). -/
def execMor (d a b : MReg) (s : State) : Host.Outcome State Fault Refusal := maskOp (fun t => t.mask a ||| t.mask b) d s

/-- MXOR (08 R166). -/
def execMxor (d a b : MReg) (s : State) : Host.Outcome State Fault Refusal := maskOp (fun t => t.mask a ^^^ t.mask b) d s

/-- MNOT (08 R166). -/
def execMnot (d a : MReg) (s : State) : Host.Outcome State Fault Refusal := maskOp (fun t => ~~~ t.mask a) d s

/-- MPOP (08 R166). -/
def execMpop (d : Reg) (a : MReg) (s : State) : Host.Outcome State Fault Refusal := maskToReg (fun v => popCount 16 v.toNat) d a s

/-- MFF (08 R166): 16 when no bit is set. -/
def execMff (d : Reg) (a : MReg) (s : State) : Host.Outcome State Fault Refusal := maskToReg (fun v => ctzFrom 16 v.toNat) d a s

end Sys2Proof.Machine
end

