-- ==== Sys2Proof/Machine/Float.lean ====
section
/-!
DEFINITION. Scalar float, conversion and image instructions (07 R131-R138).
-/

namespace Sys2Proof.Machine

/-- The low 32 bits of a register as F32 (07 R131). -/
def f32Of (g : GReg) : FVal := decodeF f32L (g.bits.toNat % 2 ^ 32)

def low32 (g : GReg) : Nat := g.bits.toNat % 2 ^ 32

/-- The shape of a float instruction of two operands: result and counts, at retirement (07 R131, R141). -/
def floatBinary (f : Thread → Nat → Nat → Nat × Counts) (d a b : Reg) (s : State) : Host.Outcome State Fault Refusal :=
  issueWith s [d, a, b] [a, b] (fun i t => do
    needKind .data a (t.rd a)
    needKind .data b (t.rd b)
    destOk t d []
    let r := f t (low32 (t.rd a)) (low32 (t.rd b))
    .ok (countAt (advance (setReg s i.tid d (dataOf r.1)) i.tid) i.tid r.2))

/-- The shape of a float instruction of one operand. -/
def floatUnary (f : Thread → Nat → Nat × Counts) (d a : Reg) (s : State) : Host.Outcome State Fault Refusal :=
  issueWith s [d, a] [a] (fun i t => do
    needKind .data a (t.rd a)
    destOk t d []
    let r := f t (low32 (t.rd a))
    .ok (countAt (advance (setReg s i.tid d (dataOf r.1)) i.tid) i.tid r.2))

/-- FADD (07 R134). -/
def execFadd (rm : Rm) (d a b : Reg) (s : State) : Host.Outcome State Fault Refusal :=
  floatBinary (fun t x y => addF f32L (rmMode rm t.rmode) (decodeF f32L x) (decodeF f32L y)) d a b s

/-- FSUB (07 R134). -/
def execFsub (rm : Rm) (d a b : Reg) (s : State) : Host.Outcome State Fault Refusal :=
  floatBinary (fun t x y => addF f32L (rmMode rm t.rmode) (decodeF f32L x) (decodeF f32L y).neg) d a b s

/-- FMUL (07 R134). -/
def execFmul (rm : Rm) (d a b : Reg) (s : State) : Host.Outcome State Fault Refusal :=
  floatBinary (fun t x y => mulF f32L (rmMode rm t.rmode) (decodeF f32L x) (decodeF f32L y)) d a b s

/-- FDIV (07 R134). -/
def execFdiv (rm : Rm) (d a b : Reg) (s : State) : Host.Outcome State Fault Refusal :=
  floatBinary (fun t x y => divF f32L (rmMode rm t.rmode) (decodeF f32L x) (decodeF f32L y)) d a b s

/-- FSQRT (07 R134). -/
def execFsqrt (rm : Rm) (d a : Reg) (s : State) : Host.Outcome State Fault Refusal :=
  floatUnary (fun t x => sqrtF f32L (rmMode rm t.rmode) (decodeF f32L x)) d a s

/-- FMIN (07 R135). -/
def execFmin (d a b : Reg) (s : State) : Host.Outcome State Fault Refusal := floatBinary (fun _ x y => minMaxF f32L false x y) d a b s

/-- FMAX (07 R135). -/
def execFmax (d a b : Reg) (s : State) : Host.Outcome State Fault Refusal := floatBinary (fun _ x y => minMaxF f32L true x y) d a b s

/-- FCMP (07 R136). -/
def execFcmp (p : FPred) (d a b : Reg) (s : State) : Host.Outcome State Fault Refusal :=
  floatBinary (fun _ x y => (if (predF f32L p x y).1 then 1 else 0, (predF f32L p x y).2)) d a b s

/-- FCLASS (07 R137). -/
def execFclass (d a : Reg) (s : State) : Host.Outcome State Fault Refusal :=
  floatUnary (fun _ x => (2 ^ classBit x, Counts.zero)) d a s

/-- FFMA (07 R133, R134). -/
def execFfma (rm : Rm) (d a b c : Reg) (s : State) : Host.Outcome State Fault Refusal :=
  issueWith s [d, a, b, c] [a, b, c] (fun i t => do
    needKind .data a (t.rd a)
    needKind .data b (t.rd b)
    needKind .data c (t.rd c)
    destOk t d []
    let r := fmaF f32L (rmMode rm t.rmode) (f32Of (t.rd a)) (f32Of (t.rd b)) (f32Of (t.rd c))
    .ok (countAt (advance (setReg s i.tid d (dataOf r.1)) i.tid) i.tid r.2))

/-- AMAX of a thread after source values in element order (07 R139). -/
def amaxAll (s : State) (tid : Nat) (vs : List FVal) : State :=
  match getT s tid with
  | none => s
  | some t => setT s tid { t with amax := vs.foldl amaxStep t.amax }

/-- CVT (07 R138). -/
def execCvt (rm : Rm) (src dst : Fmt) (d a : Reg) (s : State) : Host.Outcome State Fault Refusal :=
  issueWith s [d, a] [a] (fun i t => do
    needKind .data a (t.rd a)
    destOk t d []
    let v := valueOf src (t.rd a).bits.toNat
    let r := convert dst (rmMode rm t.rmode) v
    .ok (amaxAll (countAt (advance (setReg s i.tid d (resultData dst r.1)) i.tid) i.tid r.2) i.tid [v]))

/-- The shape of IMG and IMGI: the low w bits, zero-extended, and no count (07 R138). -/
def imageInstr (f : Nat → Nat) (d a : Reg) (s : State) : Host.Outcome State Fault Refusal :=
  issueWith s [d, a] [a] (fun i t => do
    needKind .data a (t.rd a)
    destOk t d []
    .ok (advance (setReg s i.tid d (dataOf (f (t.rd a).bits.toNat))) i.tid))

/-- IMG (07 R130, R138). -/
def execImg (fmt : Fmt) (d a : Reg) (s : State) : Host.Outcome State Fault Refusal := imageInstr (image fmt) d a s

/-- IMGI (07 R130, R138). -/
def execImgi (fmt : Fmt) (d a : Reg) (s : State) : Host.Outcome State Fault Refusal := imageInstr (imageInv fmt) d a s

end Sys2Proof.Machine
end

