-- ==== Sys2Proof/Machine/Mem.lean ====
section
/-!
DEFINITION. Loads, stores, full/empty accesses and atomics (06 R104-R114), in the core's own local store and beyond it, with
the events of an access in flight: performed at its home, replied, tested at its word, retried.
-/

namespace Sys2Proof.Machine

/-! ## What an access does at its home -/

/-- w bits at a byte, from a bit of it on: an element of a stream (08 R143). -/
def elemAt (s : State) (p : Place) (bit w : Nat) : Nat :=
  if w < 8 then (getByte s p).toNat / 2 ^ bit % 2 ^ w else getNat s (placeRun p (w / 8))

/-- The writer of a thread's stores (21 R323). -/
def threadWriter (s : State) (tid : Nat) : Writer :=
  match getT s tid with
  | none => ⟨0, 0, 0, tid / 16, tid % 16, 0⟩
  | some t => ⟨t.ctx, taskidOf s t.owner, 0, tid / 16, tid % 16, 0⟩

/-- The new word of ATM (06 R111). -/
def atmNew (op : AtmOp) (sz old v : Nat) : Nat :=
  let w := 8 * sz
  match op with
  | .add => (old + v) % 2 ^ w
  | .and => Nat.land old v
  | .or => Nat.lor old v
  | .xor => Nat.xor old v
  | .min => if sextZ w old ≤ sextZ w v then old else v
  | .max => if sextZ w v ≤ sextZ w old then old else v
  | .minn => if old ≤ v then old else v
  | .maxn => if v ≤ old then old else v
  | .swap => v

/-- The new word of ATMF and its counts (06 R113): FADD in RNE. -/
def atmfNew (op : AtmfOp) (old v : Nat) : Nat × Counts :=
  match op with
  | .fadd => addF f32L .rne (decodeF f32L old) (decodeF f32L v)
  | .fmin => minMaxF f32L false old v
  | .fmax => minMaxF f32L true old v

/-- A full/empty access would find the state it needs (06 R109). -/
def feReady (s : State) (op : AccOp) (ps : List Place) : Bool :=
  match ps with
  | [] => true
  | p :: _ => match op with
    | .lds => isFull s p
    | .sts _ => !isFull s p
    | _ => true

/-- An access takes effect at its home: the state, the result and the counts. -/
def applyAcc (s : State) (w : Writer) (op : AccOp) (ps : List Place) : State × GReg × Counts :=
  let key := match ps with
    | [] => 0
    | p :: _ => placeKey p
  match op with
  | .load _ => (s, loadValue s ps, Counts.zero)
  | .store sz v =>
    if v.kind = .data then (storeBytes s w ps (toBytes sz v.bits.toNat), GReg.zero, Counts.zero)
    else (storeTagged s ps v, GReg.zero, Counts.zero)
  | .atm op sz v =>
    let old := getNat s ps
    (storeBytes s w ps (toBytes sz (atmNew op sz old v)), dataOf old, Counts.zero)
  | .cas sz e n =>
    let old := getNat s ps
    (if old = e then storeBytes s w ps (toBytes sz n) else s, dataOf old, Counts.zero)
  | .atmf op v =>
    let old := getNat s ps
    let r := atmfNew op old v
    (storeBytes s w ps (toBytes 4 r.1), dataOf old, r.2)
  | .lds => (setFull s key false, dataOf (getNat s ps), Counts.zero)
  | .sts v => (storeBytes s w ps (toBytes 4 v.toNat), GReg.zero, Counts.zero)
  | .fest full => (setFull s key full, GReg.zero, Counts.zero)
  | .feget =>
    let full := match ps with
      | [] => true
      | p :: _ => isFull s p
    (s, dataOf (getNat s ps + (if full then 2 ^ 32 else 0)), Counts.zero)
  | .post bs => (clearPoison (putBytes s bs) (bs.map Prod.fst), GReg.zero, Counts.zero)
  | .ahead _ _ _ _ => (s, GReg.zero, Counts.zero)
  | .window bs v _ _ =>
    match ps with
    | .reg tid off :: _ => (windowWrite s tid off bs v, GReg.zero, Counts.zero)
    | _ => (s, GReg.zero, Counts.zero)

/-! ## Serving parked full/empty accesses (06 R110) -/

/-- An older access comes before a younger: first test, then core, then slot (06 R110). -/
def feOlder (a b : Req) : Bool :=
  decide (a.firstTest < b.firstTest) || (a.firstTest == b.firstTest && decide (a.tid < b.tid))

/-- The oldest of some parked accesses. -/
def feOldest : List (Nat × Req) → Option (Nat × Req)
  | [] => none
  | x :: rest =>
    match feOldest rest with
    | none => some x
    | some y => if feOlder x.2 y.2 then some x else some y

/-- The accesses parked at a word. -/
def feParked (s : State) (key : Nat) : List (Nat × Req) :=
  s.reqs.filter (fun p => p.2.atWord && !p.2.performed && !p.2.dropped &&
    (match p.2.at_ with
     | [] => false
     | q :: _ => placeKey q == key))

/-- The access reads the data of its word (21 R325): a store, a post, STS and FEST do not. -/
def accReads : AccOp → Bool
  | .store _ _ => false
  | .sts _ => false
  | .fest _ => false
  | .post _ => false
  | .window _ _ _ _ => false
  | _ => true

/-- The logged address of a word with a soft error (21 R318): physical or on-chip. -/
def wordAddr (k : Nat) : Nat := k % onchipBase / 4 * 4

/-- A full/empty access, which a tagged granule is out of reach of (05 R84, 06 R108). -/
def isFullEmpty : AccOp → Bool
  | .lds => true
  | .sts _ => true
  | .fest _ => true
  | .feget => true
  | _ => false

/-- An ordinary load of a whole granule that holds a stream, in the local store of another core than the thread's (05 R83). A relaxed one whose
granule takes a stream while it is in flight returns it (DESIGN CHOICE, log entry 39: by 06 R106 it no longer faults, and 05 R83 does not say
what it returns). -/
def foreignStream (s : State) (r : Req) : Bool :=
  match r.op, r.at_ with
  | .load 16, p :: _ => !r.relaxed && (loadValue s r.at_).kind == .strm && (match p with
    | .ls c _ => c != r.tid / 16
    | _ => false)
  | _, _ => false

/-- What an access meets at its home (05 R84, 06 R101, R108, 21 R325): a place that is another context's by now, a tagged granule under a
full/empty access, a stream another core stored, a word with a soft error that it reads. -/
def accFault (s : State) (r : Req) : Option (Cause × Nat) :=
  if !reqReaches s r then some (.perm, r.addr)
  else if (isFullEmpty r.op && r.at_.any (tagged s)) || foreignStream s r then some (.kind, r.addr)
  else if accReads r.op then (poisoned s r.at_).map (fun k => (.softErr, wordAddr k))
  else none

/-- The access is complete: it leaves the table and its handle's ACTIVE falls (17 R272). -/
def accessDone (s : State) (id : Nat) (r : Req) : State :=
  let s1 := { s with reqs := tdel id s.reqs }
  match r.handle with
  | some (cl, k) => sched (hltActive s1 cl k false) s.cycle (.cocoonTableServe cl)
  | none => s1

/-- An access that meets a fault at its home is over, and its thread faults. -/
def accFail (s : State) (id : Nat) (r : Req) (f : Cause × Nat) : State := takeFault (accessDone s id r) r.tid f.1 f.2

/-- A parked access is served: it takes effect and its reply is on its way (06 R110). -/
def feServeOne (s : State) (id : Nat) (r : Req) : State :=
  let e := applyAcc s (threadWriter s r.tid) r.op r.at_
  sched { e.1 with reqs := tset id { r with performed := true, result := e.2.1 } e.1.reqs } (s.cycle + ceilDiv r.lat 2) (.farAccessReply id)

/-- An access parked at its word reaches FE_LIMIT retries and faults FE_RETRY (06 R110). The fault reaches the thread in the cycle
of the failing test (DESIGN CHOICE, log entry 37: the spec gives no return trip for it). -/
def feGiveUp (s : State) (id : Nat) (r : Req) : State :=
  takeFault { s with reqs := tdel id s.reqs } r.tid .feRetry r.addr

/-- A failed test counts one retry. -/
def feRetry (s : State) (id : Nat) (r : Req) : State :=
  let limit := match getT s r.tid with
    | some t => t.feLimit.toNat
    | none => 0
  if limit ≤ r.retries + 1 then feGiveUp s id r
  else { s with reqs := tset id { r with retries := r.retries + 1 } s.reqs }

/-- A word changed its state: an access that cannot be served there any more faults, the oldest access the new state satisfies is
served, its own update may satisfy the next, and every access tested in vain counts a retry (06 R110). -/
def feServe (key : Nat) : Nat → State → State
  | 0, s => s
  | n + 1, s =>
    let all := feParked s key
    let s0 := all.foldl (fun u p => match accFault s p.2 with
      | some f => accFail u p.1 p.2 f
      | none => u) s
    let parked := all.filter (fun p => (accFault s p.2).isNone)
    let ok := parked.filter (fun p => feReady s p.2.op p.2.at_)
    let s1 := (parked.filter (fun p => !feReady s p.2.op p.2.at_)).foldl (fun u p => feRetry u p.1 p.2) s0
    match feOldest ok with
    | none => s1
    | some (id, r) => feServe key n (feServeOne s1 id r)

/-- A word's state: its full/empty bit and its granule's tag (06 R108). -/
def wordState (s : State) (key : Nat) : Bool × Bool := (smem key s.empties, smem (key / 16 * 16) s.tags)

/-- After bytes have been written: each word whose state changed serves its parked accesses. -/
def serveWords (before after : State) (ps : List Place) : State :=
  (ps.map (fun p => placeKey p / 4 * 4)).eraseDups.foldl
    (fun u key => if wordState before key == wordState u key then u else feServe key (u.reqs.length + 1) u) after

/-- An access at its home, and what it wakes there. -/
def perform (s : State) (w : Writer) (op : AccOp) (ps : List Place) : State × GReg × Counts :=
  let e := applyAcc s w op ps
  match s.reqs with
  | [] => e
  | _ => (serveWords s e.1 ps, e.2)

/-! ## Issue -/

/-- The cursor of an .INC access moves at retirement (05 R80). -/
def applyInc (s : State) (tid : Nat) (inc : Option Nat) : State :=
  match inc with
  | none => s
  | some k =>
    if h : k < 32 then
      let r : Reg := ⟨k, h⟩
      match getT s tid with
      | some t => if (t.rd r).kind = .cap then setBits s tid r (capStepped (t.rd r).bits) else s
      | none => s
    else s

/-- The result of an access goes to its register, DATA or, from a tagged granule, its kind; a TENS value adds a pin (05 R87). -/
def writeResult (s : State) (tid : Nat) (t : Thread) (op : AccOp) (d : Nat) (v : GReg) : State :=
  match op with
  | .store _ _ => s
  | .sts _ => s
  | .fest _ => s
  | _ =>
    if h : d < 32 then
      let s1 := if v.kind = .tens ∧ d ≠ 0 then addPin s t.ctx (v.bits.toNat % 2 ^ 20) else s
      setReg s1 tid ⟨d, h⟩ v
    else s

/-- A checked access: where it goes, its checked address, and the handle it counts in. -/
structure Access where
  place : Place
  addr : Nat
  handle : Option Nat
  deriving DecidableEq, Repr

/-- The access is within the issuing core's own local store. -/
def isOwnLs (core : Nat) : Place → Bool
  | .ls c _ => c == core
  | _ => false

/-- A soft error at places that would be read (21 R325). -/
def softCheck (s : State) (ps : List Place) : Except Stop Unit :=
  match poisoned s ps with
  | some k => .error (.fault .softErr (wordAddr k))
  | none => .ok ()

/-- A store goes to a register window (05 R89). -/
def toWindow (r : Req) : Bool :=
  match r.op, r.at_ with
  | .store _ _, .reg _ _ :: _ => true
  | _, _ => false

/-- The event that performs an access at its home: a write of a register window comes after the bundles of its cycle (05 R88). -/
def arrival (id : Nat) (r : Req) : Instr := if toWindow r then .windowWrite id else .accessPerformed id

/-- The cycles of its park in which an access can be performed: a window's store before the cycle of the reply. -/
def arriveWithin (lat : Nat) (r : Req) : Nat := if toWindow r then max 1 (lat - 1) else lat

/-- An access leaves the core: it is recorded as in flight, its handle counts it, and it is performed at its home in a free cycle of
its park (11 R209); of accesses that arrive in one cycle the older comes first, and of equal age the lower core's (01 R13). -/
def sendAccess (s : State) (tid lat : Nat) (handle : Option Nat) (r : Req) : State :=
  let s1 := match handle with
    | some k => hltActive s (tid / 256) k true
    | none => s
  bump (schedArrival (fresh { s1 with reqs := tset s.nextId r s1.reqs }) (tid / 16) (s.cycle + 1 + Config.freeNat s.free % arriveWithin lat r)
    (arrival s.nextId r))

/-- An access has a result for a register (06 R106). -/
def accWrites : AccOp → Bool
  | .store _ _ => false
  | _ => true

/-- The replies of a relaxed access: a result when it has one, and completion of a store or an atomic (06 R106). -/
def relaxedReplies (s : State) (op : AccOp) (at_ id : Nat) : State :=
  let s1 := if accWrites op then sched s at_ (.relaxedLoadReply id) else s
  match op with
  | .load _ => s1
  | _ => sched s1 at_ (.relaxedAccessComplete id)

/-- The destination of a relaxed access is pending (05 R88). -/
def relaxedPend (s : State) (tid : Nat) (op : AccOp) (d id : Nat) : State :=
  match getT s tid with
  | some u => if accWrites op ∧ d ≠ 0 then setT s tid { u with pend := u.pend ++ [(d, id)] } else s
  | none => s

/-- Issues a checked access of a thread (06 R104, R106): at once in the core's own local store and record copies; otherwise
it leaves the core, parks the thread until the reply or, relaxed, leaves its register pending. -/
def launchAccess (s : State) (tid : Nat) (t : Thread) (op : AccOp) (n : Nat) (a : Access) (d : Nat) (inc : Option Nat)
    (relaxed : Bool) : Except Stop State :=
  let core := tid / 16
  let ps := placeRun a.place n
  let lat := parkTime core a.place
  if lat = 0 then do
    softCheck s (if accReads op then ps else [])
    let e := perform s (threadWriter s tid) op ps
    let s1 := match a.place with
      | .ls _ off => bankHit e.1 core off
      | _ => e.1
    .ok (countAt (advance (applyInc (writeResult s1 tid t op d e.2.1) tid inc) tid) tid e.2.2)
  else if relaxed ∧ 8 ≤ relaxedCount s tid then .error (.wait .relaxedRoom)
  else
    let id := s.nextId
    let s1 := sendAccess s tid lat a.handle ⟨tid, op, ps, a.addr, relaxed, s.cycle, lat, d, if relaxed then none else inc, false,
      GReg.zero, Counts.zero, 0, 0, false, a.handle.map (fun k => (tid / 256, k)), false, [], t.owner⟩
    if relaxed then .ok (advance (applyInc (relaxedPend (relaxedReplies s1 op (s.cycle + lat) id) tid op d id) tid inc) tid)
    else .ok (parkAs (sched s1 (s.cycle + lat) (.farAccessReply id)) tid (.reply id))

/-- The address of LD and ST through a CAP or a COC, to the point before the data checks (06 R105, 17 R272). -/
inductive Addressed where
  | cap (b : QWord) (a : Nat)
  | coc (acc : Access)
  deriving DecidableEq, Repr

def memAddress (s : State) (tid : Nat) (t : Thread) (op : MemOp) (a : Reg) (n : Nat) (write : Bool) : Except Stop Addressed :=
  let g := t.rd a
  let off : Int := op.off.toInt * n
  if g.kind = .coc then
    if op.inc then .error (.fault .kind a.val)
    else do
      let r ← cocPlace s (tid / 256) g.bits write off n
      .ok (.coc ⟨r.1, r.2, some (cocHlt g.bits)⟩)
  else do
    needKind .cap a g
    let v ← capCheck g.bits (if write then Need.st else Need.ld) off n
    needAlign v n
    .ok (.cap g.bits v)

/-- The place of the address: in a pair, only the core's own local store (02 R32, R39). -/
def memPlace (s : State) (i : Issue) (t : Thread) (am : Bool) (write : Bool) (x : Addressed) : Except Stop Access :=
  let core := i.tid / 16
  let illegal : Except Stop Access := .error (.fault .illegal t.pc.toNat)
  match x with
  | .coc acc => if i.paired && !isOwnLs core acc.place then illegal else .ok acc
  | .cap b a =>
    if i.paired && !(capOnchip b && (match onchip a am with
        | some p => isOwnLs core p
        | none => false)) then
      (if capOnchip b && !write && !capRead b then .error (.fault .perm a) else illegal)
    else (capPlace s core t.ctx b a am (if write then Need.st else Need.ld)).map (fun p => ⟨p, a, none⟩)

def szBytes : Sz → Nat
  | .b => 1 | .h => 2 | .w => 4 | .d => 8 | .q => 16

/-- A whole granule of another core's local store that holds a stream is not loaded (05 R83). -/
def loadable (s : State) (tid n : Nat) (acc : Access) : Except Stop Unit :=
  if n = 16 ∧ !isOwnLs (tid / 16) acc.place ∧ (loadValue s (placeRun acc.place n)).kind = .strm then .error (.fault .kind acc.addr)
  else .ok ()

/-- The internal access of a half whose checks completed when its bundle issued (06 R103). -/
def heldBank (s : State) (tid : Nat) : Place → State
  | .ls _ off => bankHit s (tid / 16) off
  | _ => s

/-- The cursor of an .INC access moves by the capability the bundle has read. -/
def heldInc (s : State) (tid : Nat) (t : Thread) : Option Reg → State
  | none => s
  | some r => match getT s tid with
    | some u => setT s tid (u.wr r ⟨.cap, capStepped (t.rd r).bits⟩)
    | none => s

/-- The load of a pair whose bundle goes on after a park: its checks are complete, and what it read in the bundle's turn is written now
(02 R33, R35). -/
def heldLoad (s : State) (tid : Nat) (t : Thread) (n d : Nat) (p : Place) (inc : Option Reg) (v : GReg) : State :=
  advance (heldInc (writeResult (heldBank s tid p) tid t (.load n) d v) tid t inc) tid

/-- The store of such a pair: its checks are complete, and it is performed now, by what the bundle read in its turn. -/
def heldStore (s : State) (tid : Nat) (t : Thread) (n : Nat) (d : Reg) (p : Place) (inc : Option Reg) : State :=
  advance (heldInc (heldBank (perform s (threadWriter s tid) (.store n (t.rd d)) (placeRun p n)).1 tid p) tid t inc) tid

/-- LD (06 R105, R106). In a pair whose D holds COC, the destination is checked before the paired address (DESIGN CHOICE, log
entry 38: 02 R39 does not place it). -/
def execLd (op : MemOp) (d a : Reg) (s : State) : Host.Outcome State Fault Refusal :=
  issueWith s [d, a] [a] (fun i t => do
    let n := szBytes op.sz
    match i.latch.bind Latch.held with
    | some h => .ok (heldLoad s i.tid t n d.val h.1 (if op.inc then some a else none) h.2)
    | none => do
      let x ← memAddress s i.tid t op a n false
      destOk t d []
      let acc ← memPlace s i t op.am false x
      loadable s i.tid n acc
      launchAccess s i.tid t (.load n) n acc d.val (if op.inc then some a.val else none) op.rx)

/-- The data checks of ST (05 R83, R84; 06 R105): below 16 bytes the data is DATA; a tagged value needs Send and goes to a
local store only, a stream to the core's own, and a tile holds DATA only. -/
def storeData (g : GReg) (tid : Nat) (op : MemOp) (d : Reg) (x : Addressed) : Except Stop Unit :=
  let bad : Except Stop Unit := .error (.fault .kind d.val)
  match op.sz with
  | .q =>
    match g.kind with
    | .data => .ok ()
    | .moved => .error (.fault .moved d.val)
    | .coc => bad
    | .port => bad
    | _ =>
      match x with
      | .coc _ => bad
      | .cap b a =>
        if g.kind = .cap ∧ !capSend g.bits then .error (.fault .perm a)
        else if g.kind = .tens ∧ bits g.bits.toNat 23 1 = 0 then .error (.fault .perm a)
        else if !capOnchip b then bad
        else
          match onchip a op.am with
          | some (.ls c _) => if g.kind = .strm ∧ c ≠ tid / 16 then bad else .ok ()
          | _ => bad
  | _ => needKind .data d g

/-- Where the LD or ST of the issuing bundle goes, once its checks are complete. -/
def memTarget (s : State) (i : Issue) (t : Thread) : Instr → Option Place
  | .ld op _ a =>
    (match memAddress s i.tid t op a (szBytes op.sz) false with
     | .ok x => (memPlace s i t op.am false x).toOption.map Access.place
     | .error _ => none)
  | .st op _ a =>
    (match memAddress s i.tid t op a (szBytes op.sz) true with
     | .ok x => (memPlace s i t op.am true x).toOption.map Access.place
     | .error _ => none)
  | _ => none

/-- ST (06 R105, R106). -/
def execSt (op : MemOp) (d a : Reg) (s : State) : Host.Outcome State Fault Refusal :=
  issueWith s [d, a] [a] (fun i t => do
    let n := szBytes op.sz
    match i.latch.bind Latch.held with
    | some h => .ok (heldStore s i.tid t n d h.1 (if op.inc then some a else none))
    | none => do
      let x ← memAddress s i.tid t op a n true
      storeData (unpopped s i.tid t d) i.tid op d x
      let acc ← memPlace s i t op.am true x
      launchAccess s i.tid t (.store n (t.rd d)) n acc d.val (if op.inc then some a.val else none) op.rx)

/-! ## Events of an access in flight -/

/-- A thread that waited for its relaxed accesses or posted writes goes on when they allow it (06 R106, 11 R207, R210). -/
def relaxedWake (s : State) (tid : Nat) : State :=
  match waitOf s tid with
  | some .relaxedRoom => if relaxedCount s tid < 8 then wake s tid else s
  | some (.relaxedDone scope) => if quietAt scope s tid then wake s tid else s
  | some (.relaxedPoint scope) => if quietAt scope s tid then wake s tid else s
  | some .postRoom => wake s tid
  | some (.cocoon _) => sched s s.cycle (.cocoonTableServe (tid / 256))
  | _ => s

/-- An access takes effect at its home, or meets a fault there; a write to host memory is complete below the system scope
(11 R209, R210). -/
def performAccess (s : State) (id : Nat) (r : Req) : State :=
  if r.performed then s
  else
    match accFault s r with
    | some f => accFail s id r f
    | none =>
      let e := perform s (threadWriter s r.tid) r.op r.at_
      let vals := match r.op with
        | .ahead _ _ w elems => elems.map (fun x => (x.1, elemAt s x.2.1 x.2.2 w))
        | _ => []
      let r1 := { r with performed := true, result := e.2.1, counts := e.2.2, vals := vals }
      let s1 := { e.1 with reqs := tset id r1 e.1.reqs }
      if completeAt 0 r1 then relaxedWake s1 r.tid else s1

/-- ACCESS_PERFORMED (11 R209). -/
def execAccessPerformed (id : Nat) (s : State) : Host.Outcome State Fault Refusal :=
  match tget id s.reqs with
  | none => .next s
  | some r => .next (performAccess s id r)

/-- FAR_ACCESS_REPLY (06 R104, R110): the result is written, and the parked thread's bundle retires. -/
def execFarAccessReply (id : Nat) (s : State) : Host.Outcome State Fault Refusal :=
  match tget id s.reqs with
  | none => .next s
  | some r =>
    let s1 := accessDone s id r
    match waitOf s r.tid, getT s r.tid with
    | some (.reply j), some t =>
      if j = id ∧ !r.dropped then
        .next (countAt (retirePast (applyInc (writeResult s1 r.tid t r.op r.dest r.result) r.tid r.inc) r.tid) r.tid r.counts)
      else .next s1
    | some (.fullEmpty j), some t =>
      if j = id ∧ !r.dropped then
        let acq : Bool := match r.op with
          | .lds => true
          | _ => false
        let s2 := retirePast (applyInc (writeResult s1 r.tid t r.op r.dest r.result) r.tid r.inc) r.tid
        .next (if acq then dropAhead s2 r.tid else s2)
      else .next s1
    | _, _ => .next s1

/-- RELAXED_LOAD_REPLY (05 R88, 06 R106): the reply is written into its pending register at the end of the cycle; a thread that
waits on the register goes on. -/
def execRelaxedLoadReply (id : Nat) (s : State) : Host.Outcome State Fault Refusal :=
  match tget id s.reqs with
  | none => .next s
  | some r =>
    let s0 := match r.op with
      | .load _ => accessDone s id r
      | _ => s
    match getT s0 r.tid with
    | none => .next s0
    | some t =>
      if r.dropped then .next s0
      else
        let s1 := setT s0 r.tid { t with pend := t.pend.filter (fun p => p.2 != id) }
        let s2 := writeResult s1 r.tid t r.op r.dest r.result
        let s3 := match waitOf s2 r.tid with
          | some (.pending k) => if k = r.dest then wake s2 r.tid else s2
          | _ => s2
        .next (relaxedWake s3 r.tid)

/-- RELAXED_ACCESS_COMPLETE (06 R106): a relaxed store or atomic is complete; an atomic's counters rise in this cycle. -/
def execRelaxedAccessComplete (id : Nat) (s : State) : Host.Outcome State Fault Refusal :=
  match tget id s.reqs with
  | none => .next s
  | some r => .next (relaxedWake (countAt (accessDone s id r) r.tid r.counts) r.tid)

/-! ## Full/empty instructions (06 R109, R110) -/

/-- The checks of 06 R109: Sync and Read or Write, alignment, a local store, an untagged granule, DATA to write. -/
def feChecks (s : State) (tid : Nat) (t : Thread) (op : FewOp) (d a : Reg) (write : Bool) : Except Stop Access := do
  let g := t.rd a
  needKind .cap a g
  let v ← capCheck g.bits ⟨false, !write, write, true, false⟩ (op.off.toInt * 4) 4
  needAlign v 4
  let p ← capPlace s (tid / 16) t.ctx g.bits v op.am ⟨false, !write, write, true, false⟩
  match p with
  | .ls _ _ =>
    if tagged s p then .error (.fault .kind v)
    else if write then do
      needKind .data d (t.rd d)
      .ok ⟨p, v, none⟩
    else do
      destOk t d []
      .ok ⟨p, v, none⟩
  | _ => .error (.fault .perm v)

/-- Issues LDS or STS: a word of the core's own store is tested in the turn, another at the word in cycle t + P / 2. -/
def launchFe (s : State) (tid : Nat) (t : Thread) (op : AccOp) (a : Access) (d : Nat) (inc : Option Nat) : Except Stop State :=
  let core := tid / 16
  let ps := placeRun a.place 4
  let lat := parkTime core a.place
  let acq : Bool := match op with
    | .lds => true
    | _ => false
  if lat = 0 ∧ feReady s op ps then do
    softCheck s (if accReads op then ps else [])
    let e := perform s (threadWriter s tid) op ps
    let s1 := match a.place with
      | .ls _ off => bankHit e.1 core off
      | _ => e.1
    let s2 := advance (applyInc (writeResult s1 tid t op d e.2.1) tid inc) tid
    .ok (if acq then dropAhead s2 tid else s2)
  else
    let id := s.nextId
    let here := decide (lat = 0)
    let req : Req := ⟨tid, op, ps, a.addr, false, s.cycle, lat, d, inc, false, GReg.zero, Counts.zero, 0,
      s.cycle + lat / 2, here, none, false, [], t.owner⟩
    let s1 := parkAs (fresh { s with reqs := tset id req s.reqs }) tid (.fullEmpty id)
    .ok (if here then sched s1 (s.cycle + 4096) (.feRetryTick id) else schedArrival s1 core (s.cycle + lat / 2) (.feFirstTest id))

/-- LDS and STS: an ordering point first waits for the thread's relaxed accesses (11 R207, R208). -/
def syncAccess (op : FewOp) (d a : Reg) (write : Bool) (s : State) : Host.Outcome State Fault Refusal :=
  issueWith s [d, a] (if write then [a, d] else [a]) (fun i t => do
    let acc ← feChecks s i.tid t op d a write
    if !quiet s i.tid then .error (.wait (.relaxedDone 4))
    else
      launchFe s i.tid t (if write then .sts (BitVec.ofNat 32 (lo64 (t.rd d))) else .lds) acc d.val
        (if op.inc then some a.val else none))

/-- LDS (06 R109). -/
def execLds (op : FewOp) (d a : Reg) (s : State) : Host.Outcome State Fault Refusal := syncAccess op d a false s

/-- STS (06 R109). -/
def execSts (op : FewOp) (d a : Reg) (s : State) : Host.Outcome State Fault Refusal := syncAccess op d a true s

/-- FEST (06 R109): an ordinary access that sets the word's state. -/
def execFest (op : FewOp) (d a : Reg) (s : State) : Host.Outcome State Fault Refusal :=
  issueWith s [d, a] [a, d] (fun i t => do
    let acc ← feChecks s i.tid t op d a true
    launchAccess s i.tid t (.fest (lo64 (t.rd d) % 2 == 1)) 4 acc d.val (if op.inc then some a.val else none) false)

/-- FEGET (06 R109): an ordinary access that reads data and state. -/
def execFeget (op : FewOp) (d a : Reg) (s : State) : Host.Outcome State Fault Refusal :=
  issueWith s [d, a] [a] (fun i t => do
    let acc ← feChecks s i.tid t op d a false
    launchAccess s i.tid t .feget 4 acc d.val (if op.inc then some a.val else none) false)

/-- FE_FIRST_TEST (06 R110): the first test at a far word. -/
def execFeFirstTest (id : Nat) (s : State) : Host.Outcome State Fault Refusal :=
  match tget id s.reqs with
  | none => .next s
  | some r =>
    if r.performed ∨ r.dropped then .next s
    else
      match accFault s r with
      | some f => .next (accFail s id r f)
      | none =>
        if feReady s r.op r.at_ then
          let e := perform s (threadWriter s r.tid) r.op r.at_
          .next (sched { e.1 with reqs := tset id { r with performed := true, result := e.2.1 } e.1.reqs } (r.issued + r.lat)
            (.farAccessReply id))
        else .next (sched { s with reqs := tset id { r with atWord := true } s.reqs } (s.cycle + 4096) (.feRetryTick id))

/-- FE_RETRY_TICK (06 R110): a parked access is tested again every 4,096 cycles. -/
def execFeRetryTick (id : Nat) (s : State) : Host.Outcome State Fault Refusal :=
  match tget id s.reqs with
  | none => .next s
  | some r =>
    if r.performed ∨ r.dropped then .next s
    else
      match accFault s r with
      | some f => .next (accFail s id r f)
      | none =>
        if feReady s r.op r.at_ then .next (feServeOne s id r)
        else .next (sched (feRetry s id r) (s.cycle + 4096) (.feRetryTick id))

/-! ## Atomics (06 R111-R114) -/

/-- The address checks of an atomic: Read and Write, alignment, then the operands, then the memory it may act on. A tagged granule
is looked for at issue only (DESIGN CHOICE, log entry 39: the spec does not say whether a far atomic's is looked for at its home). -/
def atmPlace (s : State) (tid : Nat) (t : Thread) (a : Reg) (n : Nat) (am : Bool) (data : List Reg) (d : Reg) : Except Stop Access := do
  let g := t.rd a
  needKind .cap a g
  let v ← capCheck g.bits Need.rw 0 n
  needAlign v n
  data.forM (fun r => needKind .data r (t.rd r))
  destOk t d []
  let p ← capPlace s (tid / 16) t.ctx g.bits v am Need.rw
  match p with
  | .ls _ _ => if tagged s p then .error (.fault .kind v) else .ok ⟨p, v, none⟩
  | .phys pa => if isHost pa then .error (.fault .perm v) else .ok ⟨p, v, none⟩
  | _ => .error (.fault .perm v)

/-- ATM (06 R111). -/
def execAtm (op : AtmOp) (f : AtmFlags) (d a b : Reg) (s : State) : Host.Outcome State Fault Refusal :=
  issueWith s [d, a, b] [a, b] (fun i t => do
    let n := if f.w then 8 else 4
    let acc ← atmPlace s i.tid t a n f.am [b] d
    launchAccess s i.tid t (.atm op n (lo64 (t.rd b) % 2 ^ (8 * n))) n acc d.val none f.rx)

/-- ATM.CAS (06 R112). -/
def execAtmCas (f : AtmFlags) (d a b c : Reg) (s : State) : Host.Outcome State Fault Refusal :=
  issueWith s [d, a, b, c] [a, b, c] (fun i t => do
    let n := if f.w then 8 else 4
    let acc ← atmPlace s i.tid t a n f.am [b, c] d
    launchAccess s i.tid t (.cas n (lo64 (t.rd b) % 2 ^ (8 * n)) (lo64 (t.rd c) % 2 ^ (8 * n))) n acc d.val none f.rx)

/-- ATMF (06 R113). -/
def execAtmf (op : AtmfOp) (am rx : Bool) (d a b : Reg) (s : State) : Host.Outcome State Fault Refusal :=
  issueWith s [d, a, b] [a, b] (fun i t => do
    let acc ← atmPlace s i.tid t a 4 am [b] d
    launchAccess s i.tid t (.atmf op (low32 (t.rd b))) 4 acc d.val none rx)

end Sys2Proof.Machine
end

