-- ==== Sys2Proof/Machine/Groups.lean ====
section
/-!
DEFINITION. Thread groups and collectives (09 R167-R174).
-/

namespace Sys2Proof.Machine

/-! ## Membership -/

/-- The slots of a core's members of a group, rising (09 R167). -/
def members (s : State) (core : Nat) (g : Fin 16) : List Nat :=
  (List.range 16).filter (fun k => match getT s (core * 16 + k) with
    | some t => t.groups.getLsbD g.val
    | none => false)

/-- The owner of a group: that of its members (09 R167). -/
def groupOwner (s : State) (core : Nat) (g : Fin 16) : Option Nat :=
  match members s core g with
  | [] => none
  | k :: _ => (getT s (core * 16 + k)).map Thread.owner

/-- Sets or clears a membership. -/
def setMember (s : State) (tid : Nat) (g : Fin 16) (on : Bool) : State :=
  match getT s tid with
  | none => s
  | some t =>
    let b : BitVec 16 := BitVec.ofNat 16 (2 ^ g.val)
    setT s tid { t with groups := if on then t.groups ||| b else t.groups &&& ~~~ b }

/-- The pending collective of a group. -/
def pendingColl (s : State) (core : Nat) (g : Nat) : Option Coll := (coreSt s core).colls.find? (fun c => c.g == g)

def dropColl (s : State) (core g : Nat) : State :=
  let c := coreSt s core
  setCore s core { c with colls := c.colls.filter (fun x => x.g != g) }

def putColl (s : State) (core : Nat) (x : Coll) : State :=
  let c := coreSt s core
  setCore s core { c with colls := c.colls.filter (fun y => y.g != x.g) ++ [x] }

/-! ## Results (09 R171-R174) -/

/-- One level of the tree of 09 R173 over present elements. -/
def pairLevel (f : Nat → Nat → Nat × Counts) : List Nat → List Nat × Counts
  | a :: b :: rest =>
    let r := f a b
    let t := pairLevel f rest
    (r.1 :: t.1, r.2.add t.2)
  | [a] => ([a], Counts.zero)
  | [] => ([], Counts.zero)

/-- The tree to its root: four levels reduce sixteen leaves. -/
def reduceTree (f : Nat → Nat → Nat × Counts) : Nat → List Nat → Counts → Nat × Counts
  | 0, xs, c => (nth 0 0 xs, c)
  | n + 1, xs, c =>
    let r := pairLevel f xs
    reduceTree f n r.1 (c.add r.2)

/-- The counts of an addition in a reduction: NaN elements are counted apart (09 R173). -/
def addCounted (x y : Nat) : Nat × Counts :=
  let r := addF f32L .rne (decodeF f32L x) (decodeF f32L y)
  (r.1, { r.2 with nan := 0 })

def plain (f : Nat → Nat → Nat) (x y : Nat) : Nat × Counts := (f x y, Counts.zero)

/-- The combination of a GRED (09 R173). -/
def redFn : RedOp → Nat → Nat → Nat × Counts
  | .iadd => plain (fun x y => (x + y) % 2 ^ 64)
  | .fadd => addCounted
  | .min => plain (fun x y => if s64 x ≤ s64 y then x else y)
  | .max => plain (fun x y => if s64 y ≤ s64 x then x else y)
  | .minn => plain (fun x y => if x ≤ y then x else y)
  | .maxn => plain (fun x y => if y ≤ x then x else y)
  | .fmin => minMaxF f32L false
  | .fmax => minMaxF f32L true
  | .and => plain Nat.land
  | .or => plain Nat.lor
  | .xor => plain Nat.xor

/-- A NaN gives the canonical NaN, of one element too (07 R121, 09 R173, 10 R201). -/
def canonF32 (v : Nat) : Nat := if (decodeF f32L v).isNan then f32L.canon else v

/-- The element of a GRED; a NaN is canonical, a lone member's too (07 R121, 09 R173). -/
def redElem (op : RedOp) (v : QWord) : Nat :=
  match op with
  | .fadd | .fmin | .fmax => canonF32 (v.toNat % 2 ^ 32)
  | _ => v.toNat % 2 ^ 64

/-- NaN elements of a .FADD, counted once each. -/
def nanCount (op : RedOp) (vs : List Nat) : Counts :=
  match op with
  | .fadd => { Counts.zero with nan := (vs.filter (fun v => (decodeF f32L v).isNan)).length }
  | _ => Counts.zero

/-- A number whose bit k is set where the k-th test holds. -/
def ballot (vs : List Bool) : Nat := (vs.zipIdx.map (fun p => if p.1 then 2 ^ p.2 else 0)).sum

/-- The tile a GXLD reads: row by row. -/
def gxldTile (s : State) (e : CollEntry) : List (List Byte) := e.rows.map (fun r => r.map (getByte s))

/-- Column m of a tile of bytes or 16-bit elements (09 R174). -/
def gxldColumn (wide : Bool) (tile : List (List Byte)) (m : Nat) : Nat :=
  leNat ((tile.map (fun row => if wide then [nth 0 (2 * m) row, nth 0 (2 * m + 1) row] else [nth 0 m row])).flatten)

/-- The results of a collective: for each entry, in member order, its value; and the counts of the collective. -/
def collResults (s : State) (c : Coll) : List Nat × Counts :=
  let es := c.entries
  let n := es.length
  let vs := es.map (fun e => e.a.toNat % 2 ^ 64)
  match c.sel with
  | .gshfl _ _ _ _ =>
    (es.map (fun e =>
      let k := e.b.toNat % 16
      if k < n then (nth e k es).a.toNat else e.a.toNat), Counts.zero)
  | .gvote _ m _ _ =>
    let r := match m with
      | .any => if vs.any (fun v => v != 0) then 1 else 0
      | .all => if vs.all (fun v => v != 0) then 1 else 0
      | .ballot => ballot (vs.map (fun v => v != 0))
    (es.map (fun _ => r), Counts.zero)
  | .gmatch _ _ _ => (vs.map (fun v => ballot (vs.map (fun u => u == v))), Counts.zero)
  | .gred _ op _ _ =>
    let xs := es.map (fun e => redElem op e.a)
    let r := reduceTree (redFn op) 4 xs (nanCount op xs)
    (es.map (fun _ => r.1), r.2)
  | .gxld _ wide _ _ _ =>
    match es with
    | [] => ([], Counts.zero)
    | e :: _ =>
      let tile := gxldTile s e
      ((List.range n).map (gxldColumn wide tile), Counts.zero)
  | _ => ([], Counts.zero)

/-! ## Completion (09 R169) -/

/-- Entries in member order. -/
def insertEntry (e : CollEntry) : List CollEntry → List CollEntry
  | [] => [e]
  | x :: rest => if e.slot < x.slot then e :: x :: rest else x :: insertEntry e rest

/-- A member's result: a parked member retires; the issuing one retires in its own turn. -/
def finishMember (s : State) (core : Nat) (e : CollEntry) (v : Nat) : State :=
  let tid := core * 16 + e.slot
  match getT s tid with
  | none => s
  | some t =>
    let s1 := if h : e.d < 32 then setReg s tid ⟨e.d, h⟩ (dataOf v) else s
    if t.status = .issuing then advance s1 tid else retirePast s1 tid

/-- Threads parked behind a collective of a group join now (09 R168). -/
def wakeJoiners (s : State) (core g : Nat) : State :=
  wakeAll (fun tid _ w => tid / 16 == core && w == .joining g) s

/-- Writes every member's result, counts once, and frees the group. -/
def finishColl (s : State) (core : Nat) (c : Coll) : State :=
  let r := collResults s c
  let s1 := count (dropColl s core c.g) core r.2
  wakeJoiners ((c.entries.zip r.1).foldl (fun u p => finishMember u core p.1 p.2) s1) core c.g

/-- What the reading of a tile's rows meets: a row that is another context's by now, or a soft error. -/
def rowsFault (s : State) (core : Nat) (e : CollEntry) : Option (Cause × Nat) :=
  match e.rows.flatten.find? (fun p => !reaches s (ctxOf s (core * 16 + e.slot)) p) with
  | some p => some (.perm, placeKey p % onchipBase)
  | none => (poisoned s e.rows.flatten).map (fun k => (.softErr, wordAddr k))

/-- COLLECTIVE_COMPLETE (09 R169, R174): at once, or for rows beyond the core when the last row arrives. -/
def completeColl (s : State) (core : Nat) (c : Coll) : State :=
  match c.sel, c.entries with
  | .gxld _ _ _ _ _, e :: _ =>
    let far := (e.rows.map (fun r => match r with
      | [] => 0
      | p :: _ => parkTime core p)).foldl Nat.max 0
    if far = 0 then
      match rowsFault s core e with
      | some f => takeFault s (core * 16 + e.slot) f.1 f.2
      | none => finishColl s core c
    else
      let s1 := putColl s core { c with rowsComing := true }
      let s2 := c.entries.foldl (fun u x => parkAs u (core * 16 + x.slot) (.collective c.g)) s1
      sched s2 (s.cycle + far) (.gxldRowsArrive core c.g)
  | _, _ => finishColl s core c

/-- A collective is complete when every current member has issued it. -/
def tryComplete (s : State) (core : Nat) (g : Fin 16) : State :=
  match pendingColl s core g.val with
  | none => s
  | some c =>
    if c.rowsComing then s
    else if !c.entries.isEmpty && (members s core g).all (fun k => c.entries.any (fun e => e.slot == k)) then completeColl s core c
    else s

/-- A thread leaves a group, and a pending collective no longer requires it (09 R168). -/
def leaveGroup (s : State) (tid : Nat) (g : Fin 16) : State :=
  match getT s tid with
  | none => s
  | some t => if t.groups.getLsbD g.val then tryComplete (setMember s tid g false) (tid / 16) g else s

/-- A thread leaves every group (04 R69). -/
def leaveAll (s : State) (tid : Nat) : State :=
  (List.finRange 16).foldl (fun u g => leaveGroup u tid g) s

/-- A pending collective is abandoned with no effect (09 R169). -/
def abandonColl (s : State) (core g : Nat) : State := wakeJoiners (dropColl s core g) core g

/-- GXLD_ROWS_ARRIVE (09 R174). -/
def execGxldRowsArrive (core g : Nat) (s : State) : Host.Outcome State Fault Refusal :=
  match pendingColl s core g with
  | none => .next s
  | some c =>
    if !c.rowsComing then .next s
    else
      match c.entries with
      | [] => .next (dropColl s core g)
      | e :: _ =>
        match rowsFault s core e with
        | some f => .next (takeFault s (core * 16 + e.slot) f.1 f.2)
        | none => .next (finishColl s core c)

/-! ## The instructions -/

/-- GJOIN (09 R167, R168). -/
def execGjoin (g : Fin 16) (s : State) : Host.Outcome State Fault Refusal :=
  issueWith s [] [] (fun i t =>
    let core := i.tid / 16
    if t.groups.getLsbD g.val then .ok (advance s i.tid)
    else
      match groupOwner s core g with
      | some o =>
        if o ≠ t.owner then .error (.fault .perm 0)
        else if (pendingColl s core g.val).isSome then .error (.wait (.joining g.val))
        else .ok (advance (setMember s i.tid g true) i.tid)
      | none => .ok (advance (setMember s i.tid g true) i.tid))

/-- GLEAVE (09 R168). -/
def execGleave (g : Fin 16) (s : State) : Host.Outcome State Fault Refusal :=
  issueWith s [] [] (fun i _ => .ok (advance (leaveGroup s i.tid g) i.tid))

/-- The selecting fields of a collective: its instruction with D and A cleared (09 R169). -/
def collSel : Instr → Instr
  | .gshfl g _ _ b => .gshfl g 0 0 b
  | .gvote g m _ _ => .gvote g m 0 0
  | .gmatch g _ _ => .gmatch g 0 0
  | .gred g op _ _ => .gred g op 0 0
  | .gxld g w am _ _ => .gxld g w am 0 0
  | i => i

/-- A member issues a collective (09 R169). -/
def joinColl (s : State) (i : Issue) (t : Thread) (g : Fin 16) (sel : Instr) (e : CollEntry) : Except Stop State :=
  let core := i.tid / 16
  if !t.groups.getLsbD g.val then .error (.fault .perm 0)
  else
    match pendingColl s core g.val with
    | some c =>
      if c.sel ≠ sel then .error (.fault .illegal t.pc.toNat)
      else
        let s1 := putColl s core { c with entries := insertEntry e c.entries }
        let s2 := tryComplete s1 core g
        if (pendingColl s2 core g.val).isSome then .ok (parkAs s2 i.tid (.collective g.val)) else .ok s2
    | none =>
      let s1 := putColl s core ⟨g.val, sel, [e], false⟩
      let s2 := tryComplete s1 core g
      if (pendingColl s2 core g.val).isSome then .ok (parkAs s2 i.tid (.collective g.val)) else .ok s2

/-- GSHFL (09 R171). -/
def execGshfl (g : Fin 16) (d a b : Reg) (s : State) : Host.Outcome State Fault Refusal :=
  issueWith s [d, a, b] [a, b] (fun i t => do
    needKind .data a (t.rd a)
    needKind .data b (t.rd b)
    destOk t d []
    joinColl s i t g (collSel (.gshfl g d a b)) ⟨i.tid % 16, d.val, (t.rd a).bits, (t.rd b).bits, []⟩)

/-- The shape of a collective over one DATA value. -/
def collOne (g : Fin 16) (op : Instr) (d a : Reg) (s : State) : Host.Outcome State Fault Refusal :=
  issueWith s [d, a] [a] (fun i t => do
    needKind .data a (t.rd a)
    destOk t d []
    joinColl s i t g (collSel op) ⟨i.tid % 16, d.val, (t.rd a).bits, 0, []⟩)

/-- GVOTE (09 R172). -/
def execGvote (g : Fin 16) (m : VoteMode) (d a : Reg) (s : State) : Host.Outcome State Fault Refusal :=
  collOne g (.gvote g m d a) d a s

/-- GMATCH (09 R172). -/
def execGmatch (g : Fin 16) (d a : Reg) (s : State) : Host.Outcome State Fault Refusal := collOne g (.gmatch g d a) d a s

/-- GRED (09 R173). -/
def execGred (g : Fin 16) (op : RedOp) (d a : Reg) (s : State) : Host.Outcome State Fault Refusal :=
  collOne g (.gred g op d a) d a s

/-- The rows of a GXLD tile; every row must be in the local-store region (09 R174), where the context may reach it (06 R101). -/
def gxldRows (s : State) (ctx v : Nat) (wide am : Bool) : Option (List (List Place)) :=
  let rb := if wide then 32 else 16
  (List.range (256 / rb)).mapM (fun r => match reach s ctx (v + rb * r) am with
    | some (.ls c off) => some (placeRun (.ls c off) rb)
    | _ => none)

/-- GXLD (09 R174). -/
def execGxld (g : Fin 16) (wide am : Bool) (d a : Reg) (s : State) : Host.Outcome State Fault Refusal :=
  issueWith s [d, a] [a] (fun i t => do
    needKind .cap a (t.rd a)
    let b := (t.rd a).bits
    let v ← capCheck b Need.rd 0 256
    needAlign v (if wide then 32 else 16)
    destOk t d []
    match (if capOnchip b then gxldRows s t.ctx v wide am else none) with
    | none => .error (.fault .perm v)
    | some rows => joinColl s i t g (collSel (.gxld g wide am d a)) ⟨i.tid % 16, d.val, 0, 0, rows⟩)

end Sys2Proof.Machine
end

