-- ==== Sys2Proof/Machine/Status.lean ====
section
/-!
DEFINITION. Status entries and the error log (20 R317, 21 R323), page tables (21 R334, R335), and reads and writes of a
context's virtual memory by the front end and Gondola.
-/

namespace Sys2Proof.Machine

/-! ## Contexts and owners -/

def getC (s : State) (ctx : Nat) : Option Ctx := tget ctx s.ctxs

def setC (s : State) (ctx : Nat) (c : Ctx) : State := { s with ctxs := tset ctx c s.ctxs }

def getO (s : State) (o : Nat) : Option Owner := tget o s.owners

def setO (s : State) (o : Nat) (v : Owner) : State := { s with owners := tset o v s.owners }

/-- The key of an owner's placement on a core. -/
def placeKeyOf (owner core : Nat) : Nat := owner * 4096 + core

def getP (s : State) (owner core : Nat) : Option Placement := tget (placeKeyOf owner core) s.places

def setP (s : State) (p : Placement) : State := { s with places := tset (placeKeyOf p.owner p.core) p s.places }

/-! ## Status entries (20 R317) -/

/-- An entry: kind, cause, code, core, slot, TASKID, address, data. -/
def statusEntry (kind cause code core slot : Nat) (task : DWord) (addr data : Nat) : BitVec 256 :=
  BitVec.ofNat 256 (kind % 2 ^ 8 + cause % 2 ^ 8 * 2 ^ 8 + code % 2 ^ 9 * 2 ^ 16 + core % 2 ^ 12 * 2 ^ 32 + slot % 2 ^ 4 * 2 ^ 44
    + task.toNat * 2 ^ 64 + addr % 2 ^ 64 * 2 ^ 128 + data % 2 ^ 64 * 2 ^ 192)

/-- The KIND codes of R317. -/
def kTrap : Nat := 1
def kLate : Nat := 2
def kOverrun : Nat := 3
def kFault : Nat := 4
def kQueueError : Nat := 5
def kFwLayout : Nat := 6
def kGateRange : Nat := 7

/-- A LATE or GATE_RANGE entry that finds the queue full is dropped and counted; every other waits in the error core. -/
def addStatus (s : State) (ctx : Nat) (e : BitVec 256) (waiter : Option Nat) : State :=
  match getC s ctx with
  | none => s
  | some c =>
    if c.status.length < c.statusCap then setC s ctx { c with status := c.status ++ [e] }
    else if bits e.toNat 0 8 = kLate ∨ bits e.toNat 0 8 = kGateRange then setC s ctx { c with statusLost := c.statusLost + 1 }
    else setC s ctx { c with statusWait := c.statusWait ++ [(e, waiter)] }

/-- The status queue of a context has room. -/
def statusRoom (s : State) (ctx : Nat) : Bool :=
  match getC s ctx with
  | none => false
  | some c => decide (c.status.length < c.statusCap)

/-! ## Page tables (21 R334, R335) -/

/-- The 64-bit entry at a physical address. -/
def tableEntry (s : State) (pa : Nat) : Nat := leNat ((List.range 8).map (fun k => memGet (pa + k) s.mem))

/-- What a walk finds: the reads it makes at physical addresses, and a leaf with its page size in bits. -/
structure WalkResult where
  reads : List Nat
  leaf : Option (Nat × Nat)
  deriving DecidableEq, Repr

def entryValid (e : Nat) : Bool := bits e 0 1 == 1 && bits e 5 7 == 0
def entryLeaf (e : Nat) : Bool := bits e 4 1 == 1
def entryPa (e : Nat) : Nat := bits e 12 44 * 4096

/-- Walks from a level's table: index bits at shift, 9 wide below level 4. -/
def walkFrom (s : State) (va : Nat) : Nat → Nat → List Nat → WalkResult
  | 0, _, rs => ⟨rs, none⟩
  | n + 1, table, rs =>
    let shift := 12 + 9 * n
    let pa := table + 8 * (if n = 3 then bits va 39 18 else bits va shift 9)
    let e := tableEntry s pa
    let rs1 := rs ++ [pa]
    if !entryValid e then ⟨rs1, none⟩
    else if entryLeaf e then
      (if n = 3 ∨ entryPa e % 2 ^ shift ≠ 0 ∨ !physExists (entryPa e) then ⟨rs1, none⟩ else ⟨rs1, some (e, shift)⟩)
    else if n = 0 then ⟨rs1, none⟩
    else walkFrom s va n (entryPa e) rs1

/-- The walk of an address in a context's tables. -/
def pageWalk (s : State) (ctx va : Nat) : WalkResult :=
  match getC s ctx with
  | none => ⟨[], none⟩
  | some c => walkFrom s va 4 c.root []

/-- The physical address of a virtual one by the tables as they stand. -/
def physOf (s : State) (ctx va : Nat) : Option Nat :=
  match (pageWalk s ctx va).leaf with
  | some (e, pb) => some (entryPa e + va % 2 ^ pb)
  | none => none

/-- The first word with an uncorrectable error among n bytes from a key (21 R325). -/
def poisonIn (s : State) (k n : Nat) : Option Nat := s.poison.find? (fun w => decide (k / 4 * 4 ≤ w) && decide (w < k + n))

/-- A word with an uncorrectable error that the walk of an address reads (21 R325). -/
def walkPoison (s : State) (ctx va : Nat) : Option Nat :=
  match s.poison with
  | [] => none
  | _ => (pageWalk s ctx va).reads.findSome? (fun pa => poisonIn s pa 8)

/-- A word with an uncorrectable error among bytes of virtual memory, or in an entry that their walks read. -/
def virtPoison (s : State) (ctx va n : Nat) : Option Nat :=
  match s.poison with
  | [] => none
  | ps => (List.range n).findSome? (fun k => match walkPoison s ctx (va + k), physOf s ctx (va + k) with
    | some w, _ => some w
    | none, some pa => if smem (pa / 4 * 4) ps then some (pa / 4 * 4) else none
    | none, none => none)

/-- A byte of virtual memory as the front end reads it; an unmapped one has no stated content (log entry 17). -/
def virtByte (s : State) (ctx va : Nat) : Byte :=
  match physOf s ctx va with
  | some pa => memGet pa s.mem
  | none => Config.freeByte (s.free + va)

def virtBytes (s : State) (ctx va n : Nat) : List Byte := (List.range n).map (fun k => virtByte s ctx (va + k))

/-- Writes bytes of virtual memory; an unmapped byte is not written. -/
def putVirtBytes (s : State) (ctx : Nat) : List (Nat × Byte) → State
  | [] => s
  | (va, b) :: rest =>
    match physOf s ctx va with
    | some pa => putVirtBytes { s with mem := memPut pa b s.mem } ctx rest
    | none => putVirtBytes s ctx rest

/-- A write of virtual memory: words written whole are clean (21 R325). -/
def putVirt (s : State) (ctx : Nat) (bs : List (Nat × Byte)) : State :=
  clearPoison (putVirtBytes s ctx bs) (bs.filterMap (fun b => (physOf s ctx b.1).map Place.phys))

/-! ## Measurements (23 R354) -/

/-- MEASk becomes SHA-384 of itself and a 48-byte digest (23 R354). -/
def extendMeas (s : State) (k : Nat) (digest : Nat) : State :=
  let old := nth (0 : BitVec 384) k s.dev.meas
  let new := BitVec.ofNat 384 (Config.sha384 (toBytes 48 old.toNat ++ toBytes 48 digest))
  { s with dev := { s.dev with meas := setNth new k s.dev.meas } }

end Sys2Proof.Machine
end

