-- ==== Sys2Proof/Machine/Launch.lean ====
section
/-!
DEFINITION. A core's resources, placements and spawns (04 R58-R61, R68; 06 R100; 20 R313, R316), the end of a thread
(04 R69, 10 R190), the end of a task or population (21 R322, 04 R61), TRAP's status entry (04 R73).
-/

namespace Sys2Proof.Machine

/-! ## What a core has free (04 R58, 06 R100, 09 R175) -/

/-- The threads on a core: slot and thread. -/
def threadsOn (s : State) (core : Nat) : List (Nat × Thread) :=
  (List.range 16).filterMap (fun k => (getT s (core * 16 + k)).map (fun t => (k, t)))

/-- Live threads of an owner on a core. -/
def liveOn (s : State) (owner core : Nat) : Nat := ((threadsOn s core).filter (fun p => p.2.owner == owner)).length

/-- Live threads of an owner anywhere. -/
def liveThreads (s : State) (owner : Nat) : List Nat := (s.threads.filter (fun p => p.2.owner == owner)).map Prod.fst

/-- The placements on a core. -/
def placesOn (s : State) (core : Nat) : List Placement := (s.places.filter (fun p => p.2.core == core)).map Prod.snd

/-- Reservations on a core for tasks other than one (20 R312). -/
def othersReserved (s : State) (core : Nat) (forOrder : Option Nat) : List Reservation :=
  s.reserved.filter (fun r => r.core == core && some r.order != forOrder)

/-- Slots of a reservation that its victim has already given up. -/
def reservedSlots (s : State) (r : Reservation) : Nat := r.slots - liveOn s r.victim r.core

/-- The free slots of a core, rising. -/
def freeSlots (s : State) (core : Nat) : List Nat := (List.range 16).filter (fun k => (getT s (core * 16 + k)).isNone)

/-- Free granules of the pool of 48. -/
def freeGranules (s : State) (core : Nat) : Nat := 48 - ((threadsOn s core).map (fun p => p.2.nregs / 8)).sum

/-- Free barriers of 512. -/
def freeBars (s : State) (core : Nat) : Nat := 512 - ((placesOn s core).map (fun p => p.bars.length)).sum

/-- A local-store unit is nobody's: in no placement, below the cocoon region, not reserved for another. -/
def unitOpen (s : State) (core : Nat) (forOrder : Option Nat) (u : Nat) : Bool :=
  decide (u < 96 - s.cocoonUnits)
    && (placesOn s core).all (fun p => decide (u < p.unit0) || decide (p.unit0 + p.units ≤ u))
    && (othersReserved s core forOrder).all (fun r => decide (u < r.unit0) || decide (r.unit0 + r.units ≤ u))

/-- A local-store unit is free (06 R100): nobody's, and scrubbed. -/
def unitFree (s : State) (core : Nat) (forOrder : Option Nat) (u : Nat) : Bool := unitOpen s core forOrder u && !scrubs s core u

/-- FIRST FIT (06 R100): the lowest run of n units that are nobody's; while one of them is still being scrubbed the core cannot take the
placement (DEDUCED, log entry 61: 22 R340 has the next task wait for the scrub beside free units). A task whose reservation has come due takes
the lowest run that is scrubbed. -/
def findRun (s : State) (core : Nat) (forOrder : Option Nat) (n : Nat) : Option Nat :=
  if n = 0 then some 0
  else
    let run := fun (ok : Nat → Bool) (u : Nat) => (List.range n).all (fun k => ok (u + k))
    if forOrder.isSome then (List.range 96).find? (run (unitFree s core forOrder))
    else ((List.range 96).find? (run (unitOpen s core none))).filter (run (fun u => !scrubs s core u))

/-- The shape of a placement. -/
structure Shape where
  threads : Nat
  nregs : Nat
  units : Nat
  bars : Nat
  ctx : Nat
  ovf : Bool
  /-- Normal inbox entries a resume needs free (10 R190). -/
  inbox : Nat
  deriving DecidableEq, Repr

/-- Resources taken back from the free ones by reservations for other tasks. -/
def heldBack (s : State) (core : Nat) (forOrder : Option Nat) : Nat × Nat × Nat :=
  (othersReserved s core forOrder).foldl (fun a r =>
    let k := reservedSlots s r
    (a.1 + k, a.2.1 + k * (r.nregs / 8), a.2.2 + (if (getP s r.victim core).isSome then 0 else r.bars))) (0, 0, 0)

/-- A core can take a placement now: its first unit (04 R58, 06 R100, 10 R197). Only a resume that brings messages needs normal inbox
entries (10 R190). -/
def canTake (s : State) (core : Nat) (sh : Shape) (forOrder : Option Nat) : Option Nat :=
  let held := heldBack s core forOrder
  let ctxOk := (!overflowOn s core || (threadsOn s core).all (fun p => p.2.ctx == sh.ctx))
    && (!sh.ovf || ((getT s (core * 16 + 15)).isNone && (threadsOn s core).all (fun p => p.2.ctx == sh.ctx)))
  if ctxOk ∧ sh.threads + held.1 ≤ (freeSlots s core).length ∧ sh.threads * (sh.nregs / 8) + held.2.1 ≤ freeGranules s core
      ∧ sh.bars + held.2.2 ≤ freeBars s core ∧ (sh.inbox = 0 ∨ sh.inbox + (coreSt s core).inbox.length ≤ 64) then
    findRun s core forOrder sh.units
  else none

/-! ## Clearing local store -/

/-- Keys of memory from lo to hi - 1 read zero, FULL, untagged and clean (06 R100, 21 R325). -/
def clearRange (s : State) (lo hi : Nat) : State :=
  let out := fun k => decide (k < lo) || decide (hi ≤ k)
  { s with
    mem := s.mem.filter (fun c => out c.1)
    empties := s.empties.filter out
    tags := s.tags.filter out
    poison := s.poison.filter out }

/-- Lines of memory from lo to hi - 1 leave every operand window (11 R205). -/
def dropLines (s : State) (lo hi : Nat) : State :=
  { s with clusters := s.clusters.map (fun c => (c.1, { c.2 with
      engines := c.2.engines.map (fun e => { e with window := e.window.filter (fun l => decide (l.1 + 128 ≤ lo) || decide (hi ≤ l.1)) }) })) }

/-- The memory keys of some units of a core. -/
def unitKeys (core u n : Nat) : Nat × Nat :=
  (onchipBase + lsAddr core (u * 4096), onchipBase + lsAddr core (u * 4096) + n * 4096)

/-- Words from lo to hi - 1 have been cleared or written: each whose state has changed serves the accesses parked at it (06 R110). -/
def serveRange (before after : State) (lo hi : Nat) : State :=
  let keys := after.reqs.filterMap (fun p => if p.2.atWord then p.2.at_.head?.map placeKey else none)
  (keys.filter (fun k => decide (lo ≤ k) && decide (k < hi))).eraseDups.foldl
    (fun u key => if wordState before key == wordState u key then u else feServe key (u.reqs.length + 1) u) after

def clearUnits (s : State) (core u n : Nat) : State :=
  let k := unitKeys core u n
  serveRange s (dropLines (clearRange s k.1 k.2) k.1 k.2) k.1 k.2

/-- Released units go to the core's scrubber, 64 cycles each (06 R100). -/
def scrubUnits (s : State) (core u : Nat) : Nat → State
  | 0 => s
  | n + 1 =>
    let c := coreSt s core
    let done := max c.scrubBusy s.cycle + 64
    let s1 := setCore s core { c with scrubBusy := done, scrubbing := c.scrubbing ++ [(u, 1)] }
    scrubUnits (sched s1 done (.unitScrubDone core u)) core (u + 1) n

/-! ## Launching threads (04 R59, R60; 05 R81; 20 R313) -/

/-- A CAP register from its fields. -/
def capReg (base len perm : Nat) : GReg := ⟨.cap, mkCap base len 0 perm 0⟩

/-- The record copy's address of a thread name (06 R101). -/
def recAddr (tid : Nat) : Nat := 0x180000000 + tid / 16 * 0x200 + tid % 16 * 32

/-- G4 of R60: the allocation, or DATA zero when it is empty. -/
def allocCap (core unit0 units : Nat) : GReg :=
  if units = 0 then GReg.zero else capReg (lsAddr core (unit0 * 4096)) (units * 4096) 0xFB

/-- A new thread's state beside its seeds (04 R60). -/
def newThread (ctx owner nregs : Nat) (pc : VAddr) (ready ordinal : Nat) (g1 g2 g3 g4 : GReg) : Thread :=
  { ctx := ctx, owner := owner, nregs := nregs
    g := [GReg.zero, g1, g2, g3, g4] ++ List.replicate (nregs - 5) GReg.zero
    m := List.replicate 8 0, pc := pc, groups := 0, rmode := 0, amax := 0, feLimit := 1024, fltCause := 0, fltAddr := 0
    fltPc := 0, preempt := false, arrivals := [], pend := [], rings := [], ahead := [], status := .launching
    nextIssue := ready, issueAt := 0, size := 0, bundle := none, held := 0, arrived := false, popDue := none, latch := none, late := none, barD := 0, replay := none
    ordinal := ordinal
    seed1 := g1, seed3 := g3, seed4 := g4 }

/-- Writes bytes from a place on, as untagged FULL data. -/
def putAt (s : State) (p : Place) (bs : List Byte) : State :=
  serveRange s (putBytes s ((placeRun p bs.length).zip bs)) (placeKey p) (placeKey p + bs.length)

/-- Writes bytes at a memory key that no local-store tag covers. -/
def putKeys (s : State) (k : Nat) (bs : List Byte) : State :=
  { s with mem := (bs.zipIdx.foldl (fun m p => memPut (k + p.2) p.1 m) s.mem) }

/-- The roots in the last 256 bytes of an allocation (05 R81). -/
def writeRoots (s : State) (core off : Nat) (roots : List (Nat × QWord)) : State :=
  let k := placeKey (.ls core off)
  serveRange s (roots.foldl (fun u r => storeTagged u (placeRun (.ls core (off + 16 * r.1)) 16) ⟨.cap, r.2⟩) s) k (k + 256)

/-- Words written whole are clean (21 R325). -/
def cleanKeys (s : State) (k n : Nat) : State :=
  match s.poison with
  | [] => s
  | ps => { s with poison := ps.filter (fun w => decide (w < k) || decide (k + n < w + 4)) }

/-- A reply to the host goes to the host memory its request names (23 R352). -/
def replyTo (s : State) (addr : Nat) (bs : List Byte) : State :=
  let s1 := if physExists addr && isHost addr then cleanKeys (putKeys s addr bs) addr bs.length else s
  { s1 with dev := { s1.dev with replies := s1.dev.replies ++ [bs] } }

/-- The record copy of a thread (04 R60, 06 R101). -/
def writeRecord (s : State) (tid : Nat) (rec_ : BitVec 256) : State :=
  let k := placeKey (.recCopy tid 0)
  cleanKeys (putKeys s k (toBytes 32 rec_.toNat)) k 32

/-- Mesh distance from a core's router to its die's station (20 R313). -/
def stationHops (core : Nat) : Nat := meshCol (core / 16) + meshRow (core / 16)

/-- The cycle at whose end a placement's threads are ready (20 R313, 04 R59). -/
def readyCycle (s : State) (core granules imageBytes : Nat) : Nat :=
  let unloaded := s.cycle + 60 + 4 * stationHops core + max (2 * granules) (ceilDiv imageBytes 64) - 1
  let busy := (coreSt s core).clearBusy
  if s.cycle < busy then max unloaded (busy + 2 * granules + 4) else unloaded

/-- The cycle in which the core's clear engine has cleared a placement's registers (04 R59, 20 R313): it takes the placement behind the
work it has accepted, and the seeds, the image and the roots are not its work (DEDUCED, log entry 41). -/
def clearDone (s : State) (core granules : Nat) : Nat :=
  max (s.cycle + 55 + 4 * stationHops core) (coreSt s core).clearBusy + 2 * granules

/-- The name THREAD_READY gives a placement; smaller names are spawned threads. -/
def readyName (owner core : Nat) : Nat := 49152 + placeKeyOf owner core

/-- One thread of a placement: X, Y, Z and rows of a task's record, or ordinal and core of a population (04 R60). -/
def placeThread (o : Owner) (owner core unit0 ready : Nat) (s : State) (slot : Nat) : State :=
  let tid := core * 16 + slot
  let n := match getO s owner with
    | some v => v.launched
    | none => 0
  let r := o.record.toNat
  let g3 := if o.isPop then dataOf (n % 2 ^ 16 + core * 2 ^ 16)
    else dataOf (bits r 80 16 + bits r 96 16 * 2 ^ 16 + bits r 112 16 * 2 ^ 32 + bits r 128 9 * 2 ^ 48)
  let t := newThread o.ctx owner o.nregs o.entry ready n (capReg (recAddr tid) 32 0x41) (data64 o.arg.toNat) g3
    (allocCap core unit0 o.units)
  let s1 := setT (writeRecord s tid o.record) tid t
  match getO s1 owner with
  | some v => setO s1 owner { v with launched := v.launched + 1 }
  | none => s1

/-- Barrier operations that wait at a core for its owner to take it are offered (09 R177). -/
def offerFwds (s : State) (owner core : Nat) : State :=
  let waits := fun (f : Fwd) => f.owner == owner && f.home == core && f.held
  let ids := (s.fwds.filter (fun p => waits p.2)).map Prod.fst
  ids.foldl (fun u k => sched u u.cycle (.barrierForward k))
    { s with fwds := s.fwds.map (fun p => if waits p.2 then (p.1, { p.2 with held := false, due := s.cycle }) else p) }

/-- A local-store image whose bytes in memory hold an uncorrectable error ends the task or population placed with it: the first of
its threads faults (21 R325). -/
def imageCheck (s : State) (o : Owner) (core : Nat) (slots : List Nat) : State :=
  match virtPoison s o.ctx o.image.toNat o.imageLen, slots with
  | some w, k :: _ => takeFault s (core * 16 + k) .softErr (wordAddr w)
  | _, _ => s

/-- PLACEMENT (20 R313): slots, granules, units and barriers are taken, the run is cleared, the image and roots written, and
the threads are cleared and seeded; THREAD_READY makes them ready. -/
def placeOn (s : State) (owner core unit0 : Nat) : State :=
  match getO s owner with
  | none => s
  | some o =>
    let granules := o.threads * (o.nregs / 8)
    let ready := readyCycle s core granules o.imageLen
    let s1 := clearUnits s core unit0 o.units
    let s2 := if o.imageLen = 0 then s1 else putAt s1 (.ls core (unit0 * 4096)) (virtBytes s1 o.ctx o.image.toNat o.imageLen)
    let s3 := if o.units = 0 then s2 else
      match getC s2 o.ctx with
      | some c => writeRoots s2 core ((unit0 + o.units) * 4096 - 256) c.roots
      | none => s2
    let s4 := setP s3 ⟨owner, core, unit0, o.units, List.replicate o.nbars Barrier.reset, o.threads, ready, s.time⟩
    let slots := if o.ovf then [15] else (freeSlots s4 core).take o.threads
    let s5 := match getO s4 owner with
      | some v => setO s4 owner { v with launched := 0 }
      | none => s4
    let s6 := offerFwds (slots.foldl (placeThread o owner core unit0 ready) s5) owner core
    let s7 := imageCheck s6 o core slots
    let c := coreSt s7 core
    sched (setCore s7 core { c with clearBusy := clearDone s core granules }) ready (.threadReady (readyName owner core))

/-- THREAD_READY (04 R59, R60): a placement's or a spawned thread becomes ready; it issues at its slot's first turn after this
cycle, unless its LAUNCH's release time holds it (20 R315). -/
def execThreadReady (r : Nat) (s : State) : Host.Outcome State Fault Refusal :=
  let hit : Nat → Thread → Bool := fun tid t =>
    t.status == .launching && t.nextIssue == s.cycle &&
      (if r < 49152 then tid == r else readyName t.owner (tid / 16) == r)
  .next { s with threads := s.threads.map (fun p =>
    if hit p.1 p.2 then
      let late := match getO s p.2.owner with
        | some o => decide (s.time < o.notBefore)
        | none => false
      (p.1, { p.2 with status := if late then .heldLaunch else .ready, nextIssue := turnAfter s.cycle (p.1 % 16) })
    else p) }

/-- LAUNCH_AT_RELEASE (20 R315): the counter reaches NBT and the held threads issue at their first turn at or after it. -/
def execLaunchAtRelease (owner core : Nat) (s : State) : Host.Outcome State Fault Refusal :=
  .next { s with threads := s.threads.map (fun p =>
    if p.2.owner = owner ∧ p.1 / 16 = core ∧ p.2.status = .heldLaunch then
      (p.1, { p.2 with status := .ready, nextIssue := turnFrom s.cycle (p.1 % 16) })
    else p) }

/-! ## SPAWN (04 R68) -/

/-- The slot a SPAWN takes, when the owner's quota, a slot and granules allow. What 20 R312 reserves for a task on this core is taken
too, while it is free (DESIGN CHOICE, log entry 42: R68 says "free", R312 "reserves"). -/
def spawnSlot (s : State) (tid : Nat) (t : Thread) : Option Nat :=
  let core := tid / 16
  let quota := match getP s t.owner core with
    | some p => p.quota
    | none => 0
  if liveOn s t.owner core < quota ∧ t.nregs / 8 ≤ freeGranules s core then (freeSlots s core).head? else none

/-- The spawned thread, ready at the end of cycle t + 2g + 4 when the clear engine is idle. -/
def spawnThread (s : State) (tid : Nat) (t : Thread) (slot : Nat) (pc : VAddr) (arg : GReg) : State :=
  let core := tid / 16
  let c := coreSt s core
  let cleared := max s.cycle c.clearBusy + 2 * (t.nregs / 8)
  let ready := cleared + 4
  let new := core * 16 + slot
  let u := newThread t.ctx t.owner t.nregs pc ready 0 t.seed1 arg t.seed3 t.seed4
  let s1 := if arg.kind = .tens then addPin s t.ctx (arg.bits.toNat % 2 ^ 20) else s
  let preempt := match getO s t.owner with
    | some o => o.requested.isSome
    | none => false
  let s2 := sched (setCore (setT s1 new { u with preempt := preempt }) core { c with clearBusy := cleared }) ready (.threadReady new)
  if preempt then sched s2 s.cycle (.threadSave new) else s2

/-! ## The end of a thread (04 R69, 10 R190, 18 R284) -/

/-- Drops the pins of a thread's TENS registers. -/
def dropPins (s : State) (t : Thread) : State :=
  t.g.foldl (fun u g => if g.kind = .tens then sched u s.cycle (.pinDrop t.ctx (g.bits.toNat % 2 ^ 20)) else u) s

/-- Drops the pins that discarded messages hold: those of TENS payloads (10 R190). -/
def dropEntries (s : State) (es : List InboxEntry) : State :=
  es.foldl (fun u e => if e.payload.kind = .tens then sched u u.cycle (.pinDrop e.ctx (e.payload.bits.toNat % 2 ^ 20)) else u) s

/-- Discards the entries for a slot: TENS payloads drop their pins and NEXT_OUT becomes NEXT_IN (10 R190). -/
def discardInbox (s : State) (tid : Nat) : State :=
  let core := tid / 16
  let slot := tid % 16
  let c := coreSt s core
  let gone := c.inbox.filter (fun e => e.dslot == slot)
  let s1 := setCore s core { c with
    inbox := c.inbox.filter (fun e => e.dslot != slot)
    nextOut := setNth (nth 0 slot c.nextIn) slot c.nextOut }
  let s2 := dropEntries s1 gone
  if gone.isEmpty then s2 else sched s2 s.cycle (.messageReoffer core slot)

/-- The command is a CPYS. -/
def isRing (c : Cmd) : Bool :=
  match c.op with
  | .cpys _ _ _ _ => true
  | .cpysAt _ _ _ _ _ => true
  | _ => false

/-- A CPYS stops at its next line when its thread is gone (06 R118), and no later thread of the slot has issued its commands. -/
def stopRings (s : State) (tid : Nat) : State :=
  let rings := (s.cmds.filter (fun p => p.2.tid == tid && p.2.live && p.2.phase != .finished && isRing p.2)).map Prod.fst
  let s1 := { s with cmds := s.cmds.map (fun p =>
      if p.2.tid = tid ∧ p.2.live then
        (p.1, { p.2 with live := false, total := if isRing p.2 then p.2.next else p.2.total })
      else p) }
  rings.foldl (fun u id => sched u (u.cycle + 1) (.cpysRingWrite id)) s1

/-- Offers an engine's queue to the engine again. -/
def kickEngine (s : State) (cl e : Nat) : State :=
  (nth Engine.reset e (clusterSt s cl).engines).queue.foldl (fun u id => sched u u.cycle (.engineAccept id)) s

/-- Releases the held result of a thread that is gone or issues its next command (18 R284). -/
def releaseHeld (s : State) (tid : Nat) : State :=
  let cl := tid / 256
  let c := clusterSt s cl
  match c.held with
  | some h => if h.tid = tid then kickEngine (setCluster s cl { c with held := none }) cl 5 else s
  | none => s

/-- Those that wait for room among a context's pending records look again, the oldest first (20 R305). -/
def wakeRoom (s : State) (ctx : Nat) : State :=
  (s.gates.filter (fun p => p.2.ctx == ctx && !p.2.sent)).foldl (fun u p => sched u u.cycle (.gateApply p.1)) s

/-- Withdraws the operations of a thread that have not reached their target: folds not sent, so that a fifth gathering on its core may begin
(10 R201), cocoon operations that wait at the table, which free what they reserved (17 R276), gate operations that have not reached IO0 (20
R304), whose records make room, and the entry of a TRAP that waits for room (04 R73, 21 R322). -/
def rescindOps (s : State) (tid : Nat) : State :=
  let s1 := unreserve s tid
  let withdrawn := s.gates.filter (fun p => p.2.tid == tid && !p.2.applied && !p.2.records.isEmpty)
  let gathers := s.reds.any (fun p => p.2.gathered.any (fun g => g.1 * 16 + g.2.1 == tid))
  let s2 := withdrawn.foldl (fun u p => wakeRoom u p.2.ctx) { s1 with
    gates := s1.gates.filter (fun p => p.2.tid != tid || p.2.applied)
    reds := s1.reds.map (fun p => (p.1, { p.2 with
      gathered := p.2.gathered.filter (fun g => g.1 * 16 + g.2.1 != tid) }))
    ctxs := s1.ctxs.map (fun p => (p.1, { p.2 with statusWait := p.2.statusWait.filter (fun e => e.2 != some tid) })) }
  if gathers then wakeAll (fun k _ w => k / 16 == tid / 16 && k != tid && w == .gatherRoom) s2 else s2

/-- Abandons what a thread has under way: its accesses are no longer its own, and its other operations are withdrawn. -/
def abandonOps (s : State) (tid : Nat) : State :=
  rescindOps { s with reqs := s.reqs.map (fun p => if p.2.tid = tid then (p.1, { p.2 with dropped := true }) else p) } tid

/-- An arrival a thread has sent and a home has not counted yet (09 R177) goes on without the thread: what comes into its slot is another. -/
def leaveArrivals (s : State) (tid : Nat) : State :=
  { s with fwds := s.fwds.map (fun p =>
      match p.2.op with
      | .arrive k => if k = tid then (p.1, { p.2 with op := .arrive (tid + 2 ^ 20) }) else p
      | _ => p) }

/-- The thread leaves the machine: its slot and granules return to the core. -/
def removeThread (s : State) (tid : Nat) : State := { leaveArrivals s tid with threads := tdel tid s.threads }

/-- EXIT's effect at retirement (04 R69, R61). -/
def endThread (s : State) (tid : Nat) : State :=
  match getT s tid with
  | none => s
  | some t =>
    let s1 := leaveAll s tid
    let s2 := discardInbox (dropPins (stopRings s1 tid) t) tid
    sched (removeThread (abandonOps (releaseHeld s2 tid) tid) tid) s.cycle (.taskEnd t.owner (tid / 16))

/-- A thread abandoned by the end of its task or by its save: its pending collectives are abandoned (09 R169). -/
def dropGroups (s : State) (tid : Nat) : State :=
  match getT s tid with
  | none => s
  | some t =>
    let core := tid / 16
    let s1 := (List.finRange 16).foldl (fun u g =>
      if t.groups.getLsbD g.val then
        (match pendingColl u core g.val with
         | some c => if c.entries.any (fun e => e.slot == tid % 16) then abandonColl u core g.val else u
         | none => u)
      else u) s
    match getT s1 tid with
    | some u => setT s1 tid { u with groups := 0 }
    | none => s1

/-- Abandons one thread of an ending owner; one that waits for the answer of a SENDH waits on (21 R322). -/
def abandonThread (s : State) (tid : Nat) : State :=
  match getT s tid with
  | none => s
  | some t =>
    let waits := match t.status with
      | .parked (.sendh _) => true
      | _ => false
    let s1 := discardInbox (dropGroups s tid) tid
    if waits then s1
    else removeThread (abandonOps (releaseHeld (dropPins (stopRings (dropLate s1 tid) tid) t) tid) tid) tid

/-- A command is over: what it holds in ACTIVE counts and pins is given back (17 R272, 15 R251). -/
def releaseCmd (s : State) (c : Cmd) : State :=
  let cl := c.tid / 256
  let s1 := c.handles.foldl (fun u k => hltActive u cl k false) s
  let s2 := c.pins.foldl (fun u m => sched u u.cycle (.pinDrop c.ctx m)) s1
  if c.handles.isEmpty then s2 else sched s2 s2.cycle (.cocoonTableServe cl)

/-- A command that no engine has accepted is abandoned with no effect. -/
def abandonCmd (s : State) (id : Nat) : State :=
  match tget id s.cmds with
  | none => s
  | some c =>
    let s1 := releaseCmd s c
    { s1 with
      cmds := tdel id s1.cmds
      clusters := s1.clusters.map (fun k => (k.1, { k.2 with
        claims := k.2.claims.filter (fun j => j != id)
        engines := k.2.engines.map (fun e => { e with queue := e.queue.filter (fun j => j != id) }) })) }

/-- Every idle engine of a cluster with a command waiting is offered it, no sooner than 4 cycles after its issue (06 R115). -/
def kickIdle (s : State) (cl : Nat) : State :=
  (clusterSt s cl).engines.foldl (fun u e =>
    if e.exec.isSome then u
    else e.queue.foldl (fun v id =>
      match tget id v.cmds with
      | some c => sched v (max v.cycle (c.issued + 4)) (.engineAccept id)
      | none => v) u) s

/-- Commands of an owner that no engine has accepted go with it: a parked thread is abandoned with no effect (21 R322). A drain that an
array has accepted and put back until it may go on has been accepted. -/
def abandonClaims (s : State) (owner : Nat) : State :=
  let gone := (s.cmds.filter (fun p => p.2.owner == owner && (p.2.phase == .claiming || (p.2.phase == .queued && (p.2.accepted == 0 || p.2.eng % 8 != 4))))).map Prod.fst
  s.clusters.foldl (fun u c => kickIdle u c.1) (gone.foldl abandonCmd s)

/-- FAULT_END and a TRAP that ends (21 R322, 04 R73): from now on no thread of the owner issues; what it holds is released by
04 R61 once its engine commands are complete. -/
def endOwner (s : State) (owner : Nat) : State :=
  match getO s owner with
  | none => s
  | some o =>
    if o.phase = .ending then s
    else
      let s1 := setO s owner { o with phase := .ending, saved := [], record_ := none, waiting := [] }
      let s1a := o.saved.foldl (fun u v => dropEntries (dropPins u v.t) v.inbox) s1
      let s2 := abandonClaims ((liveThreads s1a owner).foldl abandonThread s1a) owner
      let s3 := { s2 with
        ready := s2.ready.filter (fun r => r.resume != some owner)
        faults := s2.faults.filter (fun f => f.2.owner != owner || decide (2 ^ 32 ≤ f.2.tid)) }
      (s3.places.filter (fun p => p.2.owner == owner)).foldl (fun u p => sched u s.cycle (.taskEnd owner p.2.core))
        (if s3.places.any (fun p => p.2.owner == owner) then s3 else sched s3 s.cycle (.taskEnd owner 0))

/-! ## TRAP (04 R73) -/

/-- The entry of a TRAP: code, bundle, core, slot, G2. -/
def trapEntry (s : State) (tid : Nat) (t : Thread) (code : Nat) : BitVec 256 :=
  statusEntry kTrap 0 code (tid / 16) (tid % 16) (taskidOf s t.owner) t.pc.toNat (lo64 (t.rd 2))

/-- TRAP: the entry is accepted at once when the queue has room, else the thread waits parked. -/
def takeTrap (s : State) (tid : Nat) (t : Thread) (code : Nat) : State :=
  let room := statusRoom s t.ctx
  let s1 := addStatus s t.ctx (trapEntry s tid t code) (some tid)
  if !room then parkAs s1 tid .statusRoom
  else if code < 256 then advance s1 tid
  else endOwner s1 t.owner

/-- STATUS_ENTRY_WRITE (20 R317): with room in the queue the oldest waiting entry is written, and a TRAP that waited goes on or
ends its task. -/
def execStatusEntryWrite (ctx : Nat) (s : State) : Host.Outcome State Fault Refusal :=
  match getC s ctx with
  | none => .next s
  | some c =>
    match c.statusWait with
    | [] => .next s
    | (e, w) :: rest =>
      if c.status.length < c.statusCap then
        let s1 := setC s ctx { c with status := c.status ++ [e], statusWait := rest }
        match w with
        | none => .next s1
        | some tid =>
          match getT s1 tid with
          | some t =>
            if t.status = .parked .statusRoom then
              (if bits e.toNat 16 9 < 256 then .next (retirePast s1 tid) else .next (endOwner s1 t.owner))
            else .next s1
          | none => .next s1
      else .next s

/-! ## UNIT_SCRUB_DONE's scrub, and a saved or ended owner's placement -/

/-- A placement ends: its units go to the scrubber and its barriers are free at once (04 R61, 06 R100). -/
def releasePlace (s : State) (owner core : Nat) : State :=
  match getP s owner core with
  | none => s
  | some p => scrubUnits { s with places := tdel (placeKeyOf owner core) s.places } core p.unit0 p.units

/-- All of a thread's registers but G0, as a mask. -/
def allRegs (t : Thread) : Nat := 2 ^ t.nregs - 2

/-- A thread at a PPT of its pending pre-emption, its PC past the PPT, is saved with its live registers by THREAD_SAVE
(04 R71, 21 R326). -/
def saveThread (s : State) (tid live : Nat) : State := sched (parkAs s tid (.saving live)) s.cycle (.threadSave tid)

end Sys2Proof.Machine
end

