-- ==== Sys2Proof/Machine/Barriers.lean ====
section
/-!
DEFINITION. Named barriers and CSTAT (09 R175-R185), with arrivals, waits, expectations and credits forwarded to a home core.
-/

namespace Sys2Proof.Machine

/-! ## Ranges of places -/

/-- The places of a checked range, resolved 16 bytes at a time. -/
def rangePlaces (s : State) (core ctx : Nat) (b : QWord) (am : Bool) (n : Need) (a : Nat) : Nat → Except Stop (List Place)
  | 0 => .ok []
  | k + 1 => do
    let p ← capPlace s core ctx b a am n
    let rest ← rangePlaces s core ctx b am n (a + 16) k
    .ok (placeRun p 16 ++ rest)

/-- Local store, stacked DRAM or LPDDR (09 R185, 15 R261, 18 R292, 20 R305). -/
def ownMemory : Place → Bool
  | .ls _ _ => true
  | .phys pa => !isHost pa
  | _ => false

/-! ## Homes (09 R177) -/

/-- The cores where an owner has a placement. -/
def placedCores (s : State) (owner : Nat) : List Nat := (s.places.filter (fun p => p.2.owner == owner)).map (fun p => p.2.core)

/-- An owner's cores: those where it is placed and those that are still to take it (20 R316). -/
def ownerCores (s : State) (owner : Nat) : List Nat :=
  placedCores s owner ++ (match getO s owner with
    | some o => o.waiting
    | none => [])

/-- Two cores lie in one cluster, die or module. -/
def sameScope (scope a b : Nat) : Bool :=
  match scope with
  | 0 => a == b
  | 1 => a / 16 == b / 16
  | 2 => a / 384 == b / 384
  | _ => true

/-- The owner's lowest core in the scope around a core. Once the population has released its lowest core (04 R61), the lowest that is placed
or waits is home, with that core's own barriers (DESIGN CHOICE, log entry 60: R177 does not name that case). -/
def homeCore (s : State) (owner core scope : Nat) : Nat :=
  ((ownerCores s owner).filter (fun c => sameScope scope core c)).foldl Nat.min core

/-- Barrier n of an owner on a core. -/
def getBar (s : State) (owner core n : Nat) : Option Barrier :=
  match getP s owner core with
  | some p => if n < p.bars.length then some (nth Barrier.reset n p.bars) else none
  | none => none

def setBar (s : State) (owner core n : Nat) (b : Barrier) : State :=
  match getP s owner core with
  | some p => { s with places := tset (placeKeyOf owner core) { p with bars := setNth b n p.bars } s.places }
  | none => s

/-- The home core of an owner's barrier as seen from a core. -/
def barHome (s : State) (owner core n : Nat) : Nat :=
  match getBar s owner core n with
  | some b => homeCore s owner core b.scope
  | none => core

/-- Time one way between two cores' clusters. -/
def fwdTime (a b : Nat) : Nat := fabricTime (a / 16) (b / 16)

/-- Sends a barrier operation from one core to another. -/
def sendFwd (s : State) (owner n src dst : Nat) (op : FwdOp) : State :=
  let id := s.nextId
  let due := s.cycle + fwdTime src dst
  sched (fresh { s with fwds := tset id ⟨owner, n, src, dst, op, s.cycle, due, false⟩ s.fwds }) due (.barrierForward id)

/-- A completion notice to a forwarding core. -/
def sendNotice (s : State) (owner n home core phase : Nat) : State :=
  let id := s.nextId
  let due := s.cycle + fwdTime home core
  sched (fresh { s with fwds := tset id ⟨owner, n, home, core, .notice phase, s.cycle, due, false⟩ s.fwds }) due
    (.barrierCompletionNotice id)

/-- A completion notice. -/
def Fwd.isNotice (f : Fwd) : Bool :=
  match f.op with
  | .notice _ => true
  | _ => false

/-- Of two operations, the older, or at equal age the one from the lower core (09 R177, 01 R13). -/
def fwdBefore (a b : Nat × Fwd) : Bool :=
  decide (a.2.sent < b.2.sent) || (a.2.sent == b.2.sent &&
    (decide (a.2.from_ < b.2.from_) || (a.2.from_ == b.2.from_ && decide (a.1 ≤ b.1))))

/-- The operation that acts first of those that reach the core of some operation in this cycle. -/
def firstFwd (s : State) (id : Nat) : Nat :=
  match tget id s.fwds with
  | none => id
  | some f =>
    match sortBy fwdBefore (s.fwds.filter (fun p => p.2.home == f.home && decide (p.2.due ≤ s.cycle) && !p.2.held && !p.2.isNotice)) with
    | [] => id
    | p :: _ => p.1

/-! ## Completion and error -/

/-- A thread's wait on a barrier: the phase, and whether it waits before arriving. A CSTAT whose phase has completed waits on the barrier until
its record is written (DESIGN CHOICE, log entry 60). -/
def waitsOn (w : Wait) (n : Nat) : Option (Nat × Bool) :=
  match w with
  | .phase b p => if b = n then some (p, false) else none
  | .cstat b p => if b = n then some (p, false) else none
  | .phaseFirst b p => if b = n then some (p, true) else none
  | _ => none

/-- The owner's threads on a core that are parked on a barrier. -/
def waitersOn (s : State) (owner core n : Nat) : List Nat :=
  (threadsOn s core).filterMap (fun p =>
    match p.2.status with
    | .parked w => if p.2.owner = owner ∧ (waitsOn w n).isSome then some (core * 16 + p.1) else none
    | _ => none)

/-- Threads of forwarding cores whose arrival is held at the home (09 R181). -/
def heldWaiters (s : State) (owner home n : Nat) : List Nat :=
  s.fwds.filterMap (fun p =>
    match p.2.op with
    | .arriveWait tid _ => if p.2.held ∧ p.2.owner = owner ∧ p.2.bar = n ∧ p.2.home = home then some tid else none
    | _ => none)

/-- The owner's threads on a core that wait for a barrier's home to answer (09 R177). -/
def awayOn (s : State) (owner core n : Nat) : List Nat :=
  (threadsOn s core).filterMap (fun p => if p.2.owner = owner ∧ p.2.status = .parked (.home n) then some (core * 16 + p.1) else none)

/-- A thread is parked on the barrier: on the core itself, on one that forwards to it as home, or held there (09 R179). -/
def parkedOn (s : State) (owner core n : Nat) : Bool :=
  !(waitersOn s owner core n ++ awayOn s owner core n ++ heldWaiters s owner core n).isEmpty ||
    (placedCores s owner).any (fun c => barHome s owner c n == core && !(waitersOn s owner c n).isEmpty)

/-- The destination register of the BWAIT or BSYNC a thread is parked in. -/
def barDest (t : Thread) : Reg := if h : t.barD < 32 then ⟨t.barD, h⟩ else 0

/-- Wakes the waiters of a completed phase on one core: those that have arrived retire with the phase, those yet to arrive are counted in
their slot's next turn (11 R222), and the read-ahead of both is discarded as the wake is an acquire (09 R182). CSTAT arrivers wait for their
record. -/
def wakePhase (s : State) (owner core n phase : Nat) : State :=
  (waitersOn s owner core n).foldl (fun u tid =>
    match getT u tid with
    | some t =>
      match t.status with
      | .parked (.phase _ p) =>
        if p = phase then retirePast (dropAhead (setReg u tid (barDest t) (dataOf phase)) tid) tid else u
      | .parked (.phaseFirst _ p) => if p = phase then sched (dropAhead u tid) (turnAfter u.cycle (tid % 16)) (.arrivalCounted tid) else u
      | _ => u
    | none => u) s

/-- Discards the operand windows of the engines a scope around a core covers (11 R205). -/
def dropWindows (s : State) (scope core : Nat) : State :=
  { s with clusters := s.clusters.map (fun c =>
      let covered := match scope with
        | 0 => c.1 == core / 16
        | 1 => c.1 == core / 16
        | 2 => c.1 / 24 == core / 384
        | _ => true
      if covered then (c.1, { c.2 with engines := c.2.engines.map (fun e => { e with window := [] }) }) else c) }

/-- AMAX of a CSTAT arriver, which may be saved already. -/
def arriverAmax (s : State) (owner tid : Nat) : Option Word :=
  match (getT s tid).filter (fun t => t.owner == owner) with
  | some t => some t.amax
  | none => (getO s owner).bind (fun o => (o.saved.find? (fun v => v.slot == tid % 16)).map (fun v => v.t.amax))

/-- The record of a phase's CSTAT arrivers (09 R185): contributing cores' counters as they stand, and the largest AMAX. An arriver with G0,
which gets no copy, wakes after the gathering and the fabric's time back to its core (DESIGN CHOICE, log entry 60). -/
def sendRecords (s : State) (owner home n : Nat) (b : Barrier) : State :=
  let cores := (b.cstat.map (fun e => e.1 / 16)).eraseDups
  let sums := (List.range 8).map (fun k => (cores.map (fun c => (nth 0 k (coreSt s c).evc).toNat)).sum)
  let amax := (b.cstat.filterMap (fun e => (arriverAmax s owner e.1).map (fun a => a.toNat % 2 ^ 31))).foldl Nat.max 0
  let gather := (cores.map (fun c => fwdTime c home)).foldl Nat.max 0
  b.cstat.foldl (fun u e =>
    let id := u.nextId
    let far := (e.2.map (placeTime (home / 16))).foldl Nat.max 0
    let r : CstatRec := ⟨owner, e.1, n, e.2, b.phase, sums, cores.length, BitVec.ofNat 32 amax⟩
    let back := if e.2.isEmpty then fwdTime home (e.1 / 16) else far
    let due := if cores = [home] ∧ far ≤ 40 then u.cycle + fwdTime home home + far else u.cycle + gather + back
    sched (fresh { u with cstats := tset id r u.cstats }) due (.cstatRecordWrite id)) s

/-- Arrivals held at the home are offered again. -/
def releaseHeldFwds (s : State) (owner n : Nat) : State :=
  let ids := (s.fwds.filter (fun p => p.2.owner == owner && p.2.bar == n && p.2.held)).map Prod.fst
  let s1 := { s with fwds := s.fwds.map (fun p => if ids.contains p.1 then (p.1, { p.2 with held := false, due := s.cycle }) else p) }
  ids.foldl (fun u k => sched u u.cycle (.barrierForward k)) s1

/-- PHASE_COMPLETE (09 R181): arrivals and bytes meet their targets. -/
def checkPhase (s : State) (owner home n : Nat) : State :=
  match getBar s owner home n with
  | none => s
  | some b =>
    if b.err.isSome ∨ b.arrived ≠ b.count ∨ b.delivered ≠ b.expect then s
    else
      let s1 := setBar s owner home n { b with phase := (b.phase + 1) % 2 ^ 32, arrived := 0, expect := 0, delivered := 0, clock := none, cstat := [] }
      let s2 := sendRecords (dropWindows s1 b.scope home) owner home n b
      let others := ((placedCores s2 owner).filter (fun c => c != home && barHome s2 owner c n == home && !(waitersOn s2 owner c n).isEmpty))
      releaseHeldFwds (others.foldl (fun u c => sendNotice u owner n home c b.phase) (wakePhase s2 owner home n b.phase)) owner n

/-- The clock of a phase starts at its first arrival or waiter (09 R183). -/
def startClock (s : State) (owner home n : Nat) : State :=
  match getBar s owner home n with
  | none => s
  | some b =>
    if b.timeout = 0 ∨ b.clock.isSome then s
    else
      sched (setBar s owner home n { b with clock := some s.cycle }) (s.cycle + b.timeout * 4096)
        (.barTimeout home (owner * 512 + n) b.phase)

/-- A barrier error's entry in the error log (KIND 4, 21 R323). -/
def barrierLog (s : State) (owner core slot n addr : Nat) (c : Cause) : State :=
  match getO s owner with
  | none => s
  | some o => logError s o.ctx ⟨BitVec.ofNat 64 addr, taskidOf s owner, BitVec.ofNat 64 n, slot, core, 0, c.code, 4⟩

/-- The barrier enters ERROR: it is logged and every thread parked on it faults, at a forwarding core when told (09 R180,
R183); arrivals held at the home meet the ERROR. The entry names the home core, slot 0 and agent 0 (DESIGN CHOICE, log entry 60: no thread is
its cause). -/
def barError (s : State) (owner home n : Nat) (c : Cause) (addr : Nat) : State :=
  match getBar s owner home n with
  | none => s
  | some b =>
    let s1 := barrierLog (setBar s owner home n { b with err := some (c, addr), clock := none }) owner home 0 n addr c
    releaseHeldFwds ((placedCores s1 owner).foldl (fun u core =>
      if barHome u owner core n ≠ home then u
      else (waitersOn u owner core n).foldl (fun v tid =>
        if core = home then takeFault v tid c addr else sendFwd v owner n home core (.answerFault tid c addr)) u) s1) owner n

/-- Bytes credited at the home to the current phase; the first beyond the expectation is an overrun (09 R180). -/
def creditBytes (owner home n : Nat) : Nat → State → Nat → Nat → State
  | 0, s, _, _ => s
  | f + 1, s, bytes, addr =>
    match getBar s owner home n with
    | none => s
    | some b =>
      if bytes = 0 ∨ b.err.isSome then s
      else
        let room := b.expect - b.delivered
        if room = 0 then barError s owner home n .barOverrun addr
        else
          let k := min room bytes
          creditBytes owner home n f (checkPhase (setBar s owner home n { b with delivered := b.delivered + k }) owner home n)
            (bytes - k) (addr + k)

/-- Credits bytes written from an address on to a barrier of an issuing core (06 R116, 09 R177, R180). -/
def credit (s : State) (owner core n bytes addr : Nat) : State :=
  let home := barHome s owner core n
  if home = core then creditBytes owner home n (bytes + 1) s bytes addr
  else sendFwd s owner n core home (.credit bytes addr)

/-! ## Arriving and waiting at the home (09 R181) -/

/-- The arrival record of a thread. -/
def arrivalOf (t : Thread) (n : Nat) : Option Nat := tget n t.arrivals

/-- What an arrival comes to. -/
inductive Arrived where
  /-- The barrier is in ERROR. -/
  | error (c : Cause) (addr : Nat)
  /-- The phase must complete first. -/
  | blocked (phase : Nat)
  /-- Counted in a phase; the completion is still to be checked. -/
  | counted (s : State) (phase : Nat)
  /-- There is no such barrier. -/
  | absent
  deriving DecidableEq, Repr

/-- The sender of an operation, while it is a thread of the owner. -/
def senderOf (s : State) (owner tid : Nat) : Option Thread := (getT s tid).filter (fun t => t.owner == owner)

/-- An arrival at the home, of a thread or of one that has ended since it was sent: its record is valid no longer (09 R176). -/
def arriveAt (s : State) (owner home n tid : Nat) (cstat : Option (List Place)) : Arrived :=
  match getBar s owner home n with
  | none => .absent
  | some b =>
    match b.err with
    | some (c, a) => .error c a
    | none =>
      let sender := senderOf s owner tid
      if sender.any (fun t => arrivalOf t n == some b.phase) ∨ b.arrived = b.count then .blocked b.phase
      else
        let s1 := match sender with
          | some t => setT s tid { t with arrivals := tset n b.phase t.arrivals }
          | none => s
        let b1 := { b with
          arrived := b.arrived + 1
          cstat := match cstat with
            | some p => b.cstat ++ [(tid, p)]
            | none => b.cstat }
        .counted (startClock (setBar s1 owner home n b1) owner home n) b.phase

/-- The wait of BWAIT, BSYNC or CSTAT: the phase waited for, and whether it has completed. -/
def waitPhase (b : Barrier) (t : Thread) (n : Nat) : Nat × Bool :=
  let w := (arrivalOf t n).getD b.phase
  (w, w != b.phase)

/-- BARRIER_FORWARD (09 R177, R181): an operation reaches the home, or an answer the forwarding core; of those that arrive in one
cycle the oldest acts first. An operation that reaches a home the owner has not taken yet waits for it (DESIGN CHOICE, log entry
40). -/
def execBarrierForward (tok : Nat) (s : State) : Host.Outcome State Fault Refusal :=
  let id := firstFwd s tok
  match tget id s.fwds with
  | none => .next s
  | some f =>
    let s1 := { s with fwds := tdel id s.fwds }
    let hold := { s with fwds := tset id { f with held := true } s.fwds }
    let await := if (ownerCores s f.owner).contains f.home then hold else s1
    let dropLog : Nat → State := fun tid =>
      match getBar s1 f.owner f.home f.bar with
      | some b => match b.err with
        | some (c, a) => barrierLog s1 f.owner f.from_ (tid % 16) f.bar a c
        | none => s1
      | none => s1
    match f.op with
    | .arrive tid =>
      match arriveAt s1 f.owner f.home f.bar tid none with
      | .error _ _ => .next (dropLog tid)
      | .blocked _ => .next hold
      | .counted s2 _ => .next (checkPhase s2 f.owner f.home f.bar)
      | .absent => .next await
    | .arriveWait tid cs =>
      match arriveAt s1 f.owner f.home f.bar tid cs with
      | .error c a => .next (sendFwd s1 f.owner f.bar f.home f.from_ (.answerFault tid c a))
      | .blocked _ => .next (startClock hold f.owner f.home f.bar)
      | .counted s2 p =>
        let s3 := match senderOf s2 f.owner tid with
          | some t => setT s2 tid { t with arrived := true, status := .parked (match cs with
              | some _ => .cstat f.bar p
              | none => .phase f.bar p) }
          | none => s2
        .next (checkPhase s3 f.owner f.home f.bar)
      | .absent => .next await
    | .wait tid _ _ =>
      match getBar s1 f.owner f.home f.bar, senderOf s1 f.owner tid with
      | some b, some t =>
        match b.err with
        | some (c, a) => .next (sendFwd s1 f.owner f.bar f.home f.from_ (.answerFault tid c a))
        | none =>
          let w := waitPhase b t f.bar
          if w.2 then .next (sendFwd s1 f.owner f.bar f.home f.from_ (.answerPhase tid w.1))
          else .next (startClock (setT s1 tid { t with status := .parked (.phase f.bar w.1) }) f.owner f.home f.bar)
      | none, some _ => .next await
      | _, none => .next s1
    | .bexp n =>
      match getBar s1 f.owner f.home f.bar with
      | some b =>
        if b.err.isSome then .next s1
        else .next (setBar s1 f.owner f.home f.bar { b with expect := min (b.expect + n) (2 ^ 48 - 1) })
      | none => .next await
    | .credit bytes addr =>
      if (getBar s1 f.owner f.home f.bar).isNone then .next await
      else .next (creditBytes f.owner f.home f.bar (bytes + 1) s1 bytes addr)
    | .answerFault tid c a =>
      let waits : Bool := (senderOf s1 f.owner tid).isSome && match waitOf s1 tid with
        | some (.home b) => b == f.bar
        | some (.phase b _) => b == f.bar
        | some (.phaseFirst b _) => b == f.bar
        | some (.cstat b _) => b == f.bar
        | _ => false
      .next (if waits then takeFault s1 tid c a else s1)
    | .answerPhase tid p =>
      match senderOf s1 f.owner tid with
      | some t =>
        .next (if t.status = .parked (.home f.bar) then retirePast (dropAhead (setReg s1 tid (barDest t) (dataOf p)) tid) tid else s1)
      | none => .next s1
    | .notice _ => .next s1
    | .answerArrived _ _ => .next s1

/-- BARRIER_COMPLETION_NOTICE (09 R181): the notice reaches a forwarding core and wakes its waiters. -/
def execBarrierCompletionNotice (id : Nat) (s : State) : Host.Outcome State Fault Refusal :=
  match tget id s.fwds with
  | none => .next s
  | some f =>
    match f.op with
    | .notice p => .next (wakePhase { s with fwds := tdel id s.fwds } f.owner f.home f.bar p)
    | _ => .next s

/-- BAR_TIMEOUT (09 R183). -/
def execBarTimeout (core bar phase : Nat) (s : State) : Host.Outcome State Fault Refusal :=
  let owner := bar / 512
  let n := bar % 512
  match getBar s owner core n with
  | none => .next s
  | some b =>
    if b.err.isNone ∧ b.phase = phase ∧ b.clock.any (fun c => c + b.timeout * 4096 == s.cycle) then
      .next (barError s owner core n .barTimeout n)
    else .next s

/-- ARRIVAL_COUNTED (11 R222): the relaxed accesses and posted writes of a parked arriver are complete and its bundle goes on to be
counted in this cycle, or what it first waited for, the phase before, a page walk or a message, is over and its bundle goes on in its turn. -/
def execArrivalCounted (tid : Nat) (s : State) : Host.Outcome State Fault Refusal :=
  match waitOf s tid with
  | some (.relaxedDone scope) => .next (if quietAt scope s tid then wake s tid else s)
  | some (.relaxedPoint scope) => .next (if quietAt scope s tid then wake s tid else s)
  | some (.phaseFirst _ _) => .next (wake s tid)
  | some (.walk _) => .next (wake s tid)
  | some .port => .next (wake s tid)
  | some .overflowPort => .next (wake s tid)
  | _ => .next s

/-- CSTAT_RECORD_WRITE (09 R185): the record is written, where its context may still write (06 R101), and its arriver wakes. -/
def execCstatRecordWrite (id : Nat) (s : State) : Host.Outcome State Fault Refusal :=
  match tget id s.cstats with
  | none => .next s
  | some r =>
    let bs := (r.sums.map (toBytes 8)).flatten ++ toBytes 8 r.cores ++ toBytes 4 r.phase ++ toBytes 4 r.amax.toNat
    let s0 := { s with cstats := tdel id s.cstats }
    let s1 := (perform s0 (threadWriter s0 r.tid) (.post (if ownerReaches s0 r.owner r.at_ then r.at_.zip bs else [])) r.at_).1
    match waitOf s1 r.tid with
    | some (.cstat b p) => if b = r.bar ∧ p = r.phase ∧ ((getT s1 r.tid).any (fun t => t.owner == r.owner)) then .next (retirePast (dropAhead s1 r.tid) r.tid) else .next s1
    | _ => .next s1

/-! ## The instructions -/

/-- An instruction names one of the owner's barriers (09 R175). -/
def needBar (s : State) (tid : Nat) (t : Thread) (n : Fin 512) : Except Stop Barrier :=
  match getBar s t.owner (tid / 16) n.val with
  | some b => .ok b
  | none => .error (.fault .bounds n.val)

/-- BINIT (09 R179). -/
def execBinit (n : Fin 512) (a : Reg) (s : State) : Host.Outcome State Fault Refusal :=
  issueWith s [a] [a] (fun i t => do
    let core := i.tid / 16
    needKind .data a (t.rd a)
    let b ← needBar s i.tid t n
    let v := lo64 (t.rd a)
    let scope := bits v 16 3
    let isPop := match getO s t.owner with
      | some o => o.isPop
      | none => false
    let busy := b.err.isNone && (b.arrived != 0 || b.expect != 0 || b.delivered != 0 || parkedOn s t.owner core n.val)
    if bits v 48 16 ≠ 0 ∨ bits v 19 13 ≠ 0 ∨ bits v 0 16 = 0 ∨ 4 ≤ scope ∨ (scope ≠ 0 ∧ !isPop) ∨ busy then
      .error (.fault .bounds v)
    else if homeCore s t.owner core scope = core then
      .ok (advance (setBar s t.owner core n.val { b with err := none, scope := scope, count := bits v 0 16, timeout := bits v 32 16, arrived := 0, expect := 0, delivered := 0, clock := none, cstat := [] }) i.tid)
    else .ok (advance (setBar s t.owner core n.val { b with scope := scope }) i.tid))

/-- BARR (09 R181): an ordering point; on a forwarding core it retires when the arrival is sent. -/
def execBarr (n : Fin 512) (s : State) : Host.Outcome State Fault Refusal :=
  issueWith s [] [] (fun i t => do
    let core := i.tid / 16
    let b ← needBar s i.tid t n
    let home := barHome s t.owner core n.val
    if home ≠ core then
      if !quietAt b.scope s i.tid then .error (.wait (.relaxedDone b.scope))
      else .ok (advance (sendFwd s t.owner n.val core home (.arrive i.tid)) i.tid)
    else
      match arriveAt s t.owner home n.val i.tid none with
      | .error c a => .error (.fault c a)
      | .absent => .error (.fault .bounds n.val)
      | .blocked p =>
        if quietAt b.scope s i.tid then .ok (parkAs (startClock s t.owner home n.val) i.tid (.phaseFirst n.val p))
        else .error (.wait (.relaxedDone b.scope))
      | .counted s1 _ =>
        if !quietAt b.scope s i.tid then .error (.wait (.relaxedDone b.scope))
        else .ok (checkPhase (advance s1 i.tid) t.owner home n.val))

/-- Remembers the destination of a wait that may park. -/
def setBarDest (s : State) (tid : Nat) (d : Nat) : State :=
  match getT s tid with
  | some t => setT s tid { t with barD := d }
  | none => s

/-- The wait of a thread at the home in its own turn; a CSTAT's, for its record. -/
def waitHere (s : State) (tid : Nat) (t : Thread) (n : Nat) (d : Reg) (cstat : Bool) : Except Stop State :=
  let core := tid / 16
  match getBar s t.owner core n with
  | none => .error (.fault .bounds n)
  | some b =>
    match b.err with
    | some (c, a) => .error (.fault c a)
    | none =>
      let w := waitPhase b t n
      if w.2 then .ok (advance (dropAhead (setReg s tid d (dataOf w.1)) tid) tid)
      else .ok (parkAs (startClock (setBarDest s tid d.val) t.owner core n) tid (if cstat then .cstat n w.1 else .phase n w.1))

/-- BWAIT (09 R181). -/
def execBwait (n : Fin 512) (d : Reg) (s : State) : Host.Outcome State Fault Refusal :=
  issueWith s [d] [] (fun i t => do
    let core := i.tid / 16
    let _ ← needBar s i.tid t n
    destOk t d []
    let home := barHome s t.owner core n.val
    if home = core then waitHere s i.tid t n.val d false
    else .ok (parkAs (sendFwd (setBarDest s i.tid d.val) t.owner n.val core home (.wait i.tid none none)) i.tid (.home n.val)))

/-- The barrier's ERROR, and the scope at which an arrival's accesses must be complete, as the thread's core has them. -/
def barHere (s : State) (owner core n : Nat) : Option (Cause × Nat) × Nat :=
  match getBar s owner core n with
  | some b => (b.err, b.scope)
  | none => (none, 3)

/-- Arrives and waits: BSYNC, and CSTAT with its record's places (09 R181, R185). At the home an ERROR is met first. A re-issue after
a save only waits (R184). -/
def arriveAndWait (s : State) (tid : Nat) (t : Thread) (n : Nat) (d : Reg) (cs : Option (List Place)) : Except Stop State :=
  let core := tid / 16
  let home := barHome s t.owner core n
  if t.arrived then
    (if home = core then waitHere s tid t n d cs.isSome
     else .ok (parkAs (sendFwd (setBarDest s tid d.val) t.owner n core home (.wait tid none none)) tid (.home n)))
  else
    let here := barHere s t.owner core n
    match (if home = core then here.1 else none) with
    | some (c, a) => .error (.fault c a)
    | none =>
      if !quietAt here.2 s tid then .error (.wait (.relaxedPoint here.2))
      else if home ≠ core then
        .ok (parkAs (sendFwd (setBarDest s tid d.val) t.owner n core home (.arriveWait tid cs)) tid (.home n))
      else
        match arriveAt s t.owner home n tid cs with
        | .error c a => .error (.fault c a)
        | .absent => .error (.fault .bounds n)
        | .blocked p => .ok (parkAs (startClock s t.owner home n) tid (.phaseFirst n p))
        | .counted s1 p =>
          let w := match cs with
            | some _ => Wait.cstat n p
            | none => Wait.phase n p
          let s2 := match getT s1 tid with
            | some u => setT s1 tid { u with arrived := true, barD := d.val, status := .parked w }
            | none => s1
          .ok (checkPhase s2 t.owner home n)

/-- BSYNC (09 R181). -/
def execBsync (n : Fin 512) (d : Reg) (s : State) : Host.Outcome State Fault Refusal :=
  issueWith s [d] [] (fun i t => do
    let _ ← needBar s i.tid t n
    destOk t d []
    arriveAndWait s i.tid t n.val d none)

/-- BEXP (09 R180): BOUNDS is checked on the expectation as it stands at the home; one that the owner has not taken yet has none. -/
def execBexp (n : Fin 512) (a : Reg) (s : State) : Host.Outcome State Fault Refusal :=
  issueWith s [a] [a] (fun i t => do
    let core := i.tid / 16
    needKind .data a (t.rd a)
    let _ ← needBar s i.tid t n
    let v := lo64 (t.rd a)
    let home := barHome s t.owner core n.val
    match getBar s t.owner home n.val with
    | none =>
      if 2 ^ 48 - 1 < v then .error (.fault .bounds v) else .ok (advance (sendFwd s t.owner n.val core home (.bexp v)) i.tid)
    | some b =>
      if 2 ^ 48 - 1 < b.expect + v then .error (.fault .bounds v)
      else if home ≠ core then .ok (advance (sendFwd s t.owner n.val core home (.bexp v)) i.tid)
      else if b.err.isSome then .ok (advance s i.tid)
      else .ok (advance (checkPhase (setBar s t.owner core n.val { b with expect := b.expect + v }) t.owner core n.val) i.tid))

/-- CSTAT (09 R185). -/
def execCstat (n : Fin 512) (a : Reg) (s : State) : Host.Outcome State Fault Refusal :=
  issueWith s [a] [a] (fun i t => do
    let _ ← needBar s i.tid t n
    if a = 0 then arriveAndWait s i.tid t n.val 0 (some [])
    else do
      needKind .cap a (t.rd a)
      let b := (t.rd a).bits
      let v ← capCheck b Need.st 0 80
      needAlign v 16
      let ps ← rangePlaces s (i.tid / 16) t.ctx b false Need.st v 5
      if ps.all ownMemory then arriveAndWait s i.tid t n.val 0 (some ps) else .error (.fault .perm v))

end Sys2Proof.Machine
end

