-- ==== Sys2Proof/Machine/Messages.lean ====
section
/-!
DEFINITION. Messages, ports and the overflow thread (10 R186-R198).
-/

namespace Sys2Proof.Machine

/-! ## Placing, arriving, answering -/

/-- Places and clusters of a message's way. -/
def msgTime (m : Msg) : Nat := fabricTime (m.src / 256) (m.dst / 256)

/-- Messages of a core's outbound buffer (10 R191). -/
def outboundCount (s : State) (core : Nat) : Nat :=
  (s.msgs.filter (fun p => p.2.src / 16 == core && !p.2.handle && p.2.answer.isNone)).length

/-- Sends a message now. -/
def placeMsg (s : State) (m : Msg) : State :=
  let id := s.nextId
  sched (fresh { s with msgs := tset id m s.msgs }) (s.cycle + msgTime m) (.messageArrival id)

/-- Entries an inbox may hold (10 R188). -/
def inboxLimit (s : State) (core : Nat) : Nat := if overflowOn s core then 72 else 64

/-- Messages counted as outstanding for a slot (10 R189). -/
def outstanding (c : CoreSt) (slot : Nat) : Nat := (nth 0 slot c.nextIn - nth 0 slot c.nextOut).toNat

/-- Conditions 1 to 3 of R188. -/
def addressed (s : State) (m : Msg) : Bool :=
  match getT s m.dst with
  | none => false
  | some t =>
    let saving := match t.status with
      | .parked (.saving _) => true
      | _ => false
    t.ctx == m.ctx && !saving && !isOverflow s m.dst && (m.payload.kind != .coc || t.owner == m.owner)
      && (match getO s t.owner with
        | some o => o.phase == .running || o.phase == .saving
        | none => false)

/-- Conditions 4 and 5 of R188. -/
def hasRoom (s : State) (m : Msg) : Bool :=
  let c := coreSt s (m.dst / 16)
  decide (c.inbox.length < inboxLimit s (m.dst / 16)) && decide (outstanding c (m.dst % 16) < 32768)

/-- An older message of the same sender is held back for the same core (10 R189). -/
def behindHeld (s : State) (id : Nat) (m : Msg) : Bool :=
  s.msgs.any (fun p => p.1 != id && p.2.heldBack && p.2.src == m.src && p.2.dst / 16 == m.dst / 16 &&
    (decide (p.2.sent < m.sent) || (p.2.sent == m.sent && decide (p.1 < id))))

/-- Wakes the reader of a slot's port, and the overflow thread once a reserve entry is taken (10 R189, R197). -/
def wakeReader (s : State) (dst : Nat) : State :=
  let s1 := if waitOf s dst = some .port ∧ (portHead s dst).isSome then wakeArriver s dst else s
  let o := dst / 16 * 16 + 15
  if waitOf s1 o = some .overflowPort ∧ 64 < (coreSt s1 (dst / 16)).inbox.length then wakeArriver s1 o else s1

/-- Wakes threads of a core that wait for room in its outbound buffer. -/
def wakeOutbound (s : State) (core : Nat) : State := wakeAll (fun tid _ w => tid / 16 == core && w == .outbound) s

/-- The message is accepted: its entry takes the slot's next number (10 R189); a handle loses its holder (17 R271). -/
def acceptMsg (s : State) (id : Nat) (m : Msg) : State :=
  let core := m.dst / 16
  let slot := m.dst % 16
  let c := coreSt s core
  let seq := nth 0 slot c.nextIn
  let e : InboxEntry := ⟨m.ctx, seq.toNat, m.src % 16, m.src / 16, slot, m.tag, m.payload⟩
  let s1 := setCore s core { c with inbox := c.inbox ++ [e], nextIn := setNth (seq + 1) slot c.nextIn }
  let s2 := if m.payload.kind = .coc then
      let k := cocHlt m.payload.bits
      setHlt s1 (core / 16) k { hltEntry s1 (core / 16) k with holder := none }
    else s1
  let s3 := if m.handle then
      sched { s2 with msgs := tset id { m with answer := some true, heldBack := false } s2.msgs } (s2.cycle + msgTime m) (.sendhAnswer id)
    else wakeOutbound { s2 with msgs := tdel id s2.msgs } (m.src / 16)
  wakeReader s3 m.dst

/-- The message is rejected (10 R191): a SENDH is answered; a SEND is discarded, its pin dropped and its failure logged. -/
def rejectMsg (s : State) (id : Nat) (m : Msg) : State :=
  if m.handle then
    sched { s with msgs := tset id { m with answer := some false, heldBack := false } s.msgs } (s.cycle + msgTime m) (.sendhAnswer id)
  else
    let s1 := wakeOutbound { s with msgs := tdel id s.msgs } (m.src / 16)
    let s2 := if m.payload.kind = .tens then sched s1 s1.cycle (.pinDrop m.ctx (m.payload.bits.toNat % 2 ^ 20)) else s1
    logError s2 m.ctx ⟨BitVec.ofNat 64 m.dst, taskidOf s m.owner, BitVec.ofNat 64 (m.dst + m.tag.toNat * 2 ^ 16), m.src % 16, m.src / 16, 0,
      Cause.msgDest.code, 3⟩

/-- Offers a message to its inbox (10 R188). -/
def offerMsg (s : State) (id : Nat) (m : Msg) : State :=
  if !addressed s m then rejectMsg s id m
  else if behindHeld s id m || !hasRoom s m then { s with msgs := tset id { m with heldBack := true } s.msgs }
  else acceptMsg s id m

/-- Of two messages, the older, or at equal age the one from the lower core (01 R13). -/
def msgBefore (a b : Nat × Msg) : Bool :=
  decide (a.2.sent < b.2.sent) || (a.2.sent == b.2.sent &&
    (decide (a.2.src < b.2.src) || (a.2.src == b.2.src && decide (a.1 ≤ b.1))))

/-- Messages at a core's inbox, oldest first. -/
def heldFor (s : State) (core : Nat) : List (Nat × Msg) :=
  sortBy msgBefore (s.msgs.filter (fun p => p.2.heldBack && p.2.dst / 16 == core))

/-- Every message at a core's inbox is offered, in age order (10 R188). -/
def offerHeld (s : State) (core : Nat) : State :=
  (heldFor s core).foldl (fun u p => match tget p.1 u.msgs with
    | some m => if m.heldBack then offerMsg u p.1 m else u
    | none => u) s

/-- The message has reached its inbox and is not answered. -/
def atInbox (s : State) (core : Nat) (m : Msg) : Bool :=
  m.dst / 16 == core && m.answer.isNone && decide (m.sent + msgTime m ≤ s.cycle)

/-- MESSAGE_ARRIVAL (10 R188, R193): messages that reach an inbox in one cycle are offered with those held back for it, in age
order. -/
def execMessageArrival (id : Nat) (s : State) : Host.Outcome State Fault Refusal :=
  match tget id s.msgs with
  | none => .next s
  | some m =>
    let core := m.dst / 16
    .next (offerHeld { s with msgs := s.msgs.map (fun p =>
      if atInbox s core p.2 then (p.1, { p.2 with heldBack := true }) else p) } core)

/-- MESSAGE_REOFFER (10 R188): entries were freed or a count fell; held-back messages are offered in age order, and a LOOPB
that waits for a normal entry goes on. -/
def execMessageReoffer (core _slot : Nat) (s : State) : Host.Outcome State Fault Refusal :=
  let s1 := offerHeld s core
  if (coreSt s1 core).inbox.length < 64 then .next (wakeAll (fun tid _ w => tid / 16 == core && w == .inboxRoom) s1) else .next s1

/-- The sent register becomes MOVED; a pin travels with the value (10 R191). -/
def moveSent (s : State) (tid : Nat) (r : Nat) : State :=
  match getT s tid with
  | none => s
  | some t => if h : r < 32 then bump (setT s tid (t.wr ⟨r, h⟩ (movedReg s))) else s

/-- SENDH_ANSWER (10 R191): accepted, the SENDH retires and its register becomes MOVED; rejected, it faults MSG_DEST. A thread
whose task has ended meanwhile goes with it (21 R322). -/
def execSendhAnswer (id : Nat) (s : State) : Host.Outcome State Fault Refusal :=
  match tget id s.msgs with
  | none => .next s
  | some m =>
    let s1 := { s with msgs := tdel id s.msgs }
    if waitOf s1 m.src ≠ some (.sendh id) then .next s1
    else
      let s2 := if m.answer = some true then moveSent s1 m.src m.reg else s1
      let ending : Bool := match getT s2 m.src with
        | some t => (match getO s2 t.owner with
          | some o => o.phase == .ending
          | none => true)
        | none => true
      if ending then
        match getT s2 m.src with
        | some t => .next (sched (abandonThread (setT s2 m.src { t with status := .ready }) m.src) s2.cycle (.taskEnd t.owner (m.src / 16)))
        | none => .next s2
      else if m.answer = some true then .next (retirePast s2 m.src)
      else .next (takeFault s2 m.src .msgDest m.dst)

/-! ## SEND and SENDH -/

/-- What may be a payload (10 R191). -/
def payloadOk (r : Reg) (g : GReg) (coc : Bool) : Except Stop Unit :=
  match g.kind with
  | .moved => .error (.fault .moved r.val)
  | .port => .error (.fault .kind r.val)
  | .strm => .error (.fault .kind r.val)
  | .coc => if coc then .ok () else .error (.fault .kind r.val)
  | .cap => if capSend g.bits then .ok () else .error (.fault .perm (capAddr g.bits 0))
  | .tens => if bits g.bits.toNat 23 1 = 1 then .ok () else .error (.fault .perm (g.bits.toNat % 2 ^ 20))
  | .data => .ok ()

/-- The checks SEND and SENDH share. -/
def sendChecks (s : State) (tid : Nat) (t : Thread) (a b : Reg) (coc : Bool) : Except Stop Nat := do
  needKind .data a (t.rd a)
  payloadOk b (unpopped s tid t b) coc
  let n := lo64 (t.rd a)
  if n / 2 ^ 16 ≠ 0 ∨ 3072 ≤ n / 16 then .error (.fault .msgDest n)
  else if (t.rd b).kind = .coc ∧ n / 256 ≠ tid / 256 then .error (.fault .msgDest n)
  else .ok n

/-- SEND (10 R191, R192). -/
def execSend (tag : BitVec 8) (a b : Reg) (s : State) : Host.Outcome State Fault Refusal :=
  issueWith s [a, b] [a] (fun i t => do
    let n ← sendChecks s i.tid t a b false
    if !quiet s i.tid then .error (.wait (.relaxedDone 4))
    else if 8 ≤ outboundCount s (i.tid / 16) then .error (.wait .outbound)
    else
      let v := t.rd b
      let s1 := if v.kind = .tens then addPin s t.ctx (v.bits.toNat % 2 ^ 20) else s
      .ok (advance (placeMsg s1 ⟨i.tid, t.ctx, t.owner, n, tag, v, false, b.val, s.cycle, false, none⟩) i.tid))

/-- SENDH (10 R191): parks until the destination accepts or rejects. -/
def execSendh (tag : BitVec 8) (a b : Reg) (s : State) : Host.Outcome State Fault Refusal :=
  issueWith s [a, b] [a] (fun i t => do
    let n ← sendChecks s i.tid t a b true
    if !quiet s i.tid then .error (.wait (.relaxedDone 4))
    else
      .ok (parkAs (placeMsg s ⟨i.tid, t.ctx, t.owner, n, tag, t.rd b, true, b.val, s.cycle, false, none⟩) i.tid (.sendh s.nextId)))

/-! ## Port instructions -/

/-- PBIND (10 R194). -/
def execPbind (d : Reg) (s : State) : Host.Outcome State Fault Refusal :=
  issueWith s [d] [] (fun i t => do
    destOk t d []
    .ok (advance (setReg s i.tid d ⟨.port, BitVec.ofNat 128 (i.tid % 16)⟩) i.tid))

/-- The header of 10 R195. -/
def headerOf (occ : Nat) : Option InboxEntry → Nat
  | none => occ * 2 ^ 48
  | some e => 2 ^ 63 + occ * 2 ^ 48 + e.seq % 2 ^ 16 * 2 ^ 32 + e.sslot % 16 * 2 ^ 28 + e.score % 2 ^ 12 * 2 ^ 16
      + e.payload.kind.code * 2 ^ 12 + e.dslot % 16 * 2 ^ 8 + e.tag.toNat

/-- PEEK (10 R195). -/
def execPeek (d a : Reg) (s : State) : Host.Outcome State Fault Refusal :=
  issueWith s [d, a] [] (fun i t => do
    needKind .port a (t.rd a)
    destOk t d []
    .ok (advance (setReg s i.tid d (dataOf (headerOf (coreSt s (i.tid / 16)).inbox.length (peekHead s i.tid)))) i.tid))

/-- BTAG (10 R196): a branch through a table in the core's own local store by the low four bits of the next message's tag.
A PORT as the table is read like any operand (05 R83). -/
def execBtag (a b : Reg) (s : State) : Host.Outcome State Fault Refusal :=
  issueWith s [a, b] [b] (fun i t => do
    let core := i.tid / 16
    needKind .port a (unpopped s i.tid t a)
    needKind .cap b (t.rd b)
    let c := (t.rd b).bits
    let v ← capCheck c Need.rd 0 64
    needAlign v 4
    match (if capOnchip c then reach s t.ctx v false else none) with
    | some (.ls k off) =>
      if k ≠ core then .error (.fault .perm v)
      else
        match portHead s i.tid with
        | none => .error (.wait (if isOverflow s i.tid then .overflowPort else .port))
        | some e => do
          let p := Place.ls k (off + 4 * (e.tag.toNat % 16))
          softCheck s (placeRun p 4)
          let w := getNat s (placeRun p 4)
          .ok (setPc (bankHit s core (off + 4 * (e.tag.toNat % 16))) i.tid (branchTarget t.pc (sextZ 32 w)))
    | _ => .error (.fault .perm v))

/-- A sequence number lies in the outstanding range of a slot (10 R198). -/
def inRange (c : CoreSt) (slot seq : Nat) : Bool :=
  decide ((BitVec.ofNat 16 seq - nth 0 slot c.nextOut).toNat < outstanding c slot)

/-- LOOPB (10 R198). -/
def execLoopb (d a b : Reg) (s : State) : Host.Outcome State Fault Refusal :=
  issueWith s [d, a, b] [a] (fun i t => do
    let core := i.tid / 16
    if !isOverflow s i.tid then .error (.fault .perm 0)
    else do
      needKind .data a (t.rd a)
      payloadOk b (unpopped s i.tid t b) false
      destOk t d []
      let c := coreSt s core
      if 64 ≤ c.inbox.length then .error (.wait .inboxRoom)
      else
        let h := lo64 (t.rd a)
        let slot := bits h 8 4
        let seq := bits h 32 16
        if !inRange c slot seq || c.inbox.any (fun e => e.dslot == slot && e.seq == seq) then
          .ok (advance (setReg s i.tid d (dataOf 1)) i.tid)
        else
          let v := t.rd b
          let s1 := if v.kind = .tens then addPin s t.ctx (v.bits.toNat % 2 ^ 20) else s
          let e : InboxEntry := ⟨t.ctx, seq, bits h 28 4, bits h 16 12, slot, BitVec.ofNat 8 h, v⟩
          let s2 := setCore s1 core { coreSt s1 core with inbox := c.inbox ++ [e] }
          .ok (wakeReader (advance (setReg s2 i.tid d (dataOf 0)) i.tid) (core * 16 + slot)))

end Sys2Proof.Machine
end

