-- ==== Sys2Proof/Machine/Combine.lean ====
section
/-!
DEFINITION. The combining fabric and CRED (10 R199-R202).
-/

namespace Sys2Proof.Machine

def descFirst (d : DWord) : Nat := bits d.toNat 0 12
def descLast (d : DWord) : Nat := bits d.toNat 12 12
def descKm1 (d : DWord) : Nat := bits d.toNat 24 4
def descOcore (d : DWord) : Nat := bits d.toNat 28 12
def descOslot (d : DWord) : Nat := bits d.toNat 40 4

/-- The name of a reduction on a core: owner core, slot and number. -/
def descName (d : DWord) : Nat := bits d.toNat 28 24

/-- ⊕ of an operation, with its counts (10 R201). -/
def combine (op : CredOp) (x y : Nat) : Nat × Counts :=
  match op with
  | .sumI32 => ((x + y) % 2 ^ 32, Counts.zero)
  | .sumI64 => ((x + y) % 2 ^ 64, Counts.zero)
  | .sumF32 => addCounted x y
  | .min => (if x ≤ y then x else y, Counts.zero)
  | .max => (if y ≤ x then x else y, Counts.zero)
  | .maxi =>
    let kx := image .f32 x
    let ky := image .f32 y
    (if ky < kx then x else if kx < ky then y else if x / 2 ^ 32 ≤ y / 2 ^ 32 then x else y, Counts.zero)

/-- The value an operation takes of a contribution. -/
def credValue (op : CredOp) (v : Nat) : Nat :=
  match op with
  | .sumI32 => v % 2 ^ 32
  | .sumF32 => canonF32 (v % 2 ^ 32)
  | _ => v % 2 ^ 64

/-- The owner's result (10 R201). -/
def credResult (op : CredOp) (v : Nat) : GReg :=
  match op with
  | .sumI32 => data64 (toU64 (sextZ 32 v))
  | _ => data64 v

/-- A left fold of present values. -/
def foldLeft (op : CredOp) : List Nat → Option (Nat × Counts)
  | [] => none
  | x :: rest => some (rest.foldl (fun a y =>
      let r := combine op a.1 y
      (r.1, a.2.add r.2)) (x, Counts.zero))

/-- A step towards the owner's router: die columns, die rows, mesh columns, mesh rows (10 R200). -/
def towards (o c : Nat) : Nat :=
  if dieCol c < dieCol o then c + 24
  else if dieCol o < dieCol c then c - 24
  else if dieRow c < dieRow o then c + 96
  else if dieRow o < dieRow c then c - 96
  else if meshCol c < meshCol o then c + 1
  else if meshCol o < meshCol c then c - 1
  else if meshRow c < meshRow o then c + 6
  else if meshRow o < meshRow c then c - 6
  else c

/-- The neighbours of a router that send to it, in the order of 10 R200. -/
def children (o c : Nat) : List Nat :=
  let at_ := fun (ok : Bool) (n : Nat) => if ok && n != c && decide (n < 192) && towards o n == c then [n] else []
  at_ (decide (0 < meshCol c)) (c - 1) ++ at_ (decide (meshCol c < 5)) (c + 1)
    ++ at_ (decide (0 < meshRow c)) (c - 6) ++ at_ (decide (meshRow c < 3)) (c + 6)
    ++ at_ (decide (0 < dieCol c)) (c - 24) ++ at_ (decide (dieCol c < 3)) (c + 24)
    ++ at_ (decide (0 < dieRow c)) (c - 96) ++ at_ (decide (dieRow c < 1)) (c + 96)

/-- Folds optional values with their counts, left to right. -/
def foldSome (op : CredOp) (acc : Option Nat × Counts) (v : Option Nat × Counts) : Option Nat × Counts :=
  match acc.1, v.1 with
  | none, _ => (v.1, acc.2.add v.2)
  | _, none => (acc.1, acc.2.add v.2)
  | some x, some y =>
    let r := combine op x y
    (some r.1, (acc.2.add v.2).add r.2)

/-- A router's value: its local fold, then its children's (10 R200). -/
def routerValue (op : CredOp) (localAt : Nat → Option Nat × Counts) (o : Nat) : Nat → Nat → Option Nat × Counts
  | 0, c => localAt c
  | n + 1, c => (children o c).foldl (fun acc k => foldSome op acc (routerValue op localAt o n k)) (localAt c)

/-- The fold of a cluster's participating cores, ascending. -/
def localFold (op : CredOp) (folds : List (Nat × Nat)) (cl : Nat) : Option Nat × Counts :=
  let cores := (List.range 16).filterMap (fun k => tget (cl * 16 + k) folds)
  match foldLeft op cores with
  | some r => (some r.1, r.2)
  | none => (none, Counts.zero)

/-- The root of a reduction whose folds have all arrived. -/
def rootOf (r : Red) : Nat × Counts :=
  let folds := r.folds.map (fun f => (f.1, f.2.1.toNat))
  let v := routerValue r.op (localFold r.op folds) (descOcore r.desc / 16) 13 (descOcore r.desc / 16)
  (v.1.getD 0, r.counts.add v.2)

/-- The reduction a core gathers under a name. -/
def gatheringOn (s : State) (core : Nat) (name : Nat) : Option (Nat × Red) :=
  s.reds.find? (fun p => descName p.2.desc == name && p.2.gathered.any (fun g => g.1 == core))

/-- The reductions a core gathers. -/
def gatherings (s : State) (core : Nat) : Nat := (s.reds.filter (fun p => p.2.gathered.any (fun g => g.1 == core))).length

/-- The reduction of a descriptor that is under way, whoever has contributed. -/
def redFor (s : State) (owner : Nat) (op : CredOp) (desc : DWord) (core : Nat) : Option (Nat × Red) :=
  s.reds.find? (fun p => p.2.owner == owner && p.2.op == op && p.2.desc == desc && !p.2.folds.any (fun f => f.1 == core))

/-- The contributions of a core in ascending slot order. -/
def bySlot (gs : List (Nat × Nat × DWord)) : List (Nat × Nat × DWord) := sortBy (fun a b => decide (a.2.1 ≤ b.2.1)) gs

/-- The core's fold is sent: earlier participants wake, all but the owner retire (10 R201). -/
def sendFold (s : State) (id : Nat) (r : Red) (core me : Nat) : State :=
  let mine := bySlot (r.gathered.filter (fun g => g.1 == core))
  match foldLeft r.op (mine.map (fun g => g.2.2.toNat)) with
  | none => s
  | some f =>
    let nans := match r.op with
      | .sumF32 => { Counts.zero with nan := (mine.filter (fun g => (decodeF f32L g.2.2.toNat).isNan)).length }
      | _ => Counts.zero
    let r1 : Red := { r with
      gathered := r.gathered.filter (fun g => g.1 != core)
      folds := r.folds ++ [(core, BitVec.ofNat 64 f.1, s.cycle)]
      counts := (r.counts.add f.2).add nans }
    let s1 := sched { s with reds := tset id r1 s.reds } (s.cycle + fabricTime (core / 16) (descOcore r.desc / 16)) (.combinePacket id)
    let ownerTid := descOcore r.desc * 16 + descOslot r.desc
    let s2 := mine.foldl (fun u g =>
      let tid := core * 16 + g.2.1
      if tid = ownerTid then parkAs u tid (.root id)
      else if tid = me then advance u tid
      else if waitOf u tid = some (.fold id) then retirePast u tid else u) s1
    wakeAll (fun tid _ w => tid / 16 == core && w == .gatherRoom) s2

/-- CRED (10 R201). -/
def execCred (op : CredOp) (d a b : Reg) (s : State) : Host.Outcome State Fault Refusal :=
  issueWith s [d, a, b] [a, b] (fun i t => do
    let core := i.tid / 16
    needKind .data a (t.rd a)
    needKind .data b (t.rd b)
    let v := lo64 (t.rd b)
    let desc : DWord := BitVec.ofNat 64 v
    if bits v 52 12 ≠ 0 ∨ descLast desc < descFirst desc ∨ 3072 ≤ descLast desc ∨ core < descFirst desc ∨ descLast desc < core
        ∨ descOcore desc < descFirst desc ∨ descLast desc < descOcore desc then .error (.fault .bounds v)
    else do
      let me := decide (i.tid = descOcore desc * 16 + descOslot desc)
      if me then destOk t d [] else .ok ()
      let g := gatheringOn s core (descName desc)
      let clash := match g with
        | some (_, r) => r.op != op || r.desc != desc
        | none => false
      if clash then .error (.fault .illegal t.pc.toNat)
      else if g.isNone ∧ 4 ≤ gatherings s core then .error (.wait .gatherRoom)
      else
        let old := match g with
          | some x => some x
          | none => redFor s t.owner op desc core
        let id := match old with
          | some x => x.1
          | none => s.nextId
        let r : Red := match old with
          | some x => x.2
          | none => ⟨t.ctx, t.owner, op, desc, [], [], [], Counts.zero, 0⟩
        let s1 := if old.isNone then fresh s else s
        let r1 : Red := { r with
          gathered := r.gathered ++ [(core, i.tid % 16, BitVec.ofNat 64 (credValue op (lo64 (t.rd a))))]
          dest := if me then d.val else r.dest }
        let s2 := { s1 with reds := tset id r1 s1.reds }
        if (r1.gathered.filter (fun x => x.1 == core)).length < descKm1 desc + 1 then .ok (parkAs s2 i.tid (.fold id))
        else .ok (sendFold s2 id r1 core i.tid))

/-! ## Routers (10 R200, R201) -/

/-- The routers a packet passes on its way to the owner's. -/
def routersTo (o : Nat) : Nat → Nat → List Nat
  | 0, c => [c]
  | n + 1, c => if c = o then [c] else c :: routersTo o n (towards o c)

/-- The routers that a core's fold passes. -/
def routersOf (r : Red) (core : Nat) : List Nat := routersTo (descOcore r.desc / 16) 13 (core / 16)

/-- The participating cores. -/
def redCores (r : Red) : List Nat := (List.range (descLast r.desc + 1 - descFirst r.desc)).map (fun k => descFirst r.desc + k)

/-- A router has the reduction in progress: some fold that passes it is there and some is not. -/
def inProgress (r : Red) (c : Nat) : Bool :=
  r.arrived.any (fun k => (routersOf r k).contains c)
    && (redCores r).any (fun k => !r.arrived.contains k && (routersOf r k).contains c)

/-- Every router on a packet's way has the reduction in progress already, or fewer than 64 others (10 R201). -/
def routersTake (s : State) (id : Nat) (r : Red) (core : Nat) : Bool :=
  decide (s.reds.length ≤ 64) || (routersOf r core).all (fun c =>
    inProgress r c || decide ((s.reds.filter (fun p => p.1 != id && inProgress p.2 c)).length < 64))

/-- Packets that have reached the owner's router and have not been taken: cycle sent, core, reduction; oldest first (01 R13). -/
def duePackets (s : State) : List (Nat × Nat × Nat) :=
  sortBy (fun a b => decide (a.1 < b.1) || (a.1 == b.1 && (decide (a.2.1 < b.2.1) || (a.2.1 == b.2.1 && decide (a.2.2 ≤ b.2.2)))))
    (s.reds.flatMap (fun p => (p.2.folds.filter (fun f =>
      decide (f.2.2 + fabricTime (f.1 / 16) (descOcore p.2.desc / 16) ≤ s.cycle) && !p.2.arrived.contains f.1)).map
        (fun f => (f.2.2, f.1, p.1))))

/-- The routers on a packet's way have room for it. -/
def mayTake (s : State) (x : Nat × Nat × Nat) : Bool := (tget x.2.2 s.reds).any (fun r => routersTake s x.2.2 r x.2.1)

/-- A packet is taken; the last makes the root. -/
def takePacket (s : State) (x : Nat × Nat × Nat) : State :=
  match tget x.2.2 s.reds with
  | none => s
  | some r =>
    let r1 := { r with arrived := r.arrived ++ [x.2.1] }
    let s1 := { s with reds := tset x.2.2 r1 s.reds }
    if r1.arrived.length = (redCores r).length then sched s1 s.cycle (.credRootDelivery x.2.2) else s1

/-- Packets that are due are taken one by one, each time the oldest that has room: a place that one of them frees is the oldest's (10 R201). -/
def takeDue : Nat → State → State
  | 0, s => s
  | n + 1, s =>
    match (duePackets s).find? (mayTake s) with
    | none => s
    | some x => takeDue n (takePacket s x)

/-- COMBINE_PACKET (10 R200, R201): the packets that are due are taken in age order; those that find no room wait until a place is free. -/
def execCombinePacket (_id : Nat) (s : State) : Host.Outcome State Fault Refusal := .next (takeDue (duePackets s).length s)

/-- CRED_ROOT_DELIVERY (10 R202): the root is written to the owner, whose core counts. -/
def execCredRootDelivery (id : Nat) (s : State) : Host.Outcome State Fault Refusal :=
  match tget id s.reds with
  | none => .next s
  | some r =>
    let tid := descOcore r.desc * 16 + descOslot r.desc
    let s0 := { s with reds := tdel id s.reds }
    let s1 := if (duePackets s0).isEmpty then s0 else sched s0 s.cycle (.combinePacket id)
    if waitOf s1 tid = some (.root id) then
      let v := rootOf r
      let s2 := if h : r.dest < 32 then setReg s1 tid ⟨r.dest, h⟩ (credResult r.op v.1) else s1
      .next (countAt (retirePast s2 tid) tid v.2)
    else .next s1

end Sys2Proof.Machine
end

