-- ==== Sys2Proof/Machine/Control.lean ====
section
/-!
DEFINITION. Slot control (04 R63-R73): branches, jumps, thread creation and ending, timed waits, pre-emption points, control
registers, TRAP and NOP.
-/

namespace Sys2Proof.Machine

/-- Elements in one vector of a stream of a width (02 R30, 08 R143). -/
def vecElems (w : Nat) : Nat := if w ≥ 32 then 256 else if w = 16 then 512 else 1024

def strmCur (b : QWord) : Nat := bits b.toNat 72 32
def strmCount (b : QWord) : Nat := bits b.toNat 40 32
def strmFmt (b : QWord) : Nat := bits b.toNat 104 4

/-- Takes the branch when the condition holds, else goes on (04 R63). -/
def branchTo (s : State) (i : Issue) (t : Thread) (taken : Bool) (off : Int) : State :=
  setPc s i.tid (if taken then branchTarget t.pc off else t.nextPc)

/-- B.cc in either form (04 R63, 02 R30, R34): SMORE and SDONE read a stream's count before the bundle consumes any. -/
def branchB (cc : BCond) (a b : Reg) (off : Int) (s : State) : Host.Outcome State Fault Refusal :=
  match cc with
  | .cmp c =>
    issueWith s [a, b] [a, b] (fun i t => do
      needKind .data a (t.rd a)
      needKind .data b (t.rd b)
      .ok (branchTo s i t (cmpHolds c (lo64 (t.rd a)) (lo64 (t.rd b))) off))
  | .smore =>
    issueWith s [a] [a] (fun i t => do
      needKind .strm a (t.rd a)
      let v := (t.rd a).bits
      .ok (branchTo s i t (decide (vecElems (codeWidth (strmFmt v)) < strmCount v - strmCur v)) off))
  | .sdone =>
    issueWith s [a] [a] (fun i t => do
      needKind .strm a (t.rd a)
      let v := (t.rd a).bits
      .ok (branchTo s i t (strmCount v - strmCur v == 0) off))

def execBCc (cc : BCond) (a b : Reg) (off : BitVec 9) (s : State) : Host.Outcome State Fault Refusal :=
  branchB cc a b off.toInt s

def execBCcX (cc : BCond) (a b : Reg) (off : Word) (s : State) : Host.Outcome State Fault Refusal :=
  branchB cc a b off.toInt s

/-- BI.cc in either form (04 R63). -/
def branchBI (cc : Cmp) (a : Reg) (imm : Int) (off : Int) (s : State) : Host.Outcome State Fault Refusal :=
  issueWith s [a] [a] (fun i t => do
    needKind .data a (t.rd a)
    .ok (branchTo s i t (cmpHolds cc (lo64 (t.rd a)) (toU64 imm)) off))

def execBiCc (cc : Cmp) (a : Reg) (imm : BitVec 5) (off : BitVec 9) (s : State) : Host.Outcome State Fault Refusal :=
  branchBI cc a imm.toInt off.toInt s

def execBiCcX (cc : Cmp) (a : Reg) (imm off : Word) (s : State) : Host.Outcome State Fault Refusal :=
  branchBI cc a imm.toInt off.toInt s

/-- J (04 R64). -/
def execJ (off : BitVec 24) (s : State) : Host.Outcome State Fault Refusal :=
  issueWith s [] [] (fun i t => .ok (branchTo s i t true off.toInt))

/-- JAL (04 R64): the link, then the jump; no link overwrites a COC register (05 R86). -/
def execJal (d : Reg) (off : BitVec 19) (s : State) : Host.Outcome State Fault Refusal :=
  issueWith s [d] [] (fun i t => do
    destOk t d []
    .ok (branchTo (setReg s i.tid d (dataOf t.nextPc.toNat)) i t true off.toInt))

/-- JALR (04 R67). -/
def execJalr (d a : Reg) (s : State) : Host.Outcome State Fault Refusal :=
  issueWith s [d, a] [a] (fun i t => do
    needKind .data a (t.rd a)
    let v := lo64 (t.rd a)
    if v % 4 ≠ 0 ∨ v / 2 ^ 57 ≠ 0 then .error (.fault .align v)
    else do
      destOk t d []
      .ok (setPc (setReg s i.tid d (dataOf t.nextPc.toNat)) i.tid (BitVec.ofNat 57 v)))

/-- SPAWN (04 R68): one thread of the owner on this core when its quota, a slot and granules allow. -/
def execSpawn (d a b : Reg) (s : State) : Host.Outcome State Fault Refusal :=
  issueWith s [d, a, b] [a, b] (fun i t => do
    needKind .data a (t.rd a)
    needKinds [.data, .cap, .strm, .tens] b (t.rd b)
    let v := lo64 (t.rd a)
    if v % 4 ≠ 0 ∨ v / 2 ^ 57 ≠ 0 then .error (.fault .align v)
    else do
      destOk t d []
      match spawnSlot s i.tid t with
      | some slot =>
        .ok (advance (setReg (spawnThread s i.tid t slot (BitVec.ofNat 57 v) (t.rd b)) i.tid d (dataOf slot)) i.tid)
      | none => .ok (advance (setReg s i.tid d (data64 (2 ^ 64 - 1))) i.tid))

/-- EXIT (04 R69, 10 R190): waits for the thread's relaxed accesses, faults KIND while a handle is held or queued, and ends
the thread. -/
def execExit (s : State) : Host.Outcome State Fault Refusal :=
  issueWith s [] [] (fun i t =>
    if !quiet s i.tid then .error (.wait (.relaxedDone 4))
    else
      match (List.range t.nregs).find? (fun k => (nth GReg.zero k t.g).kind == .coc) with
      | some k => .error (.fault .kind k)
      | none =>
        if (coreSt s (i.tid / 16)).inbox.any (fun e => e.dslot == i.tid % 16 && e.payload.kind == .coc) then
          .error (.fault .kind 0)
        else .ok (endThread (countParked s i.tid t) i.tid))

/-- WAITT (04 R70): retires at once when the time has come, else parks until the counter reaches it. -/
def execWaitt (a : Reg) (s : State) : Host.Outcome State Fault Refusal :=
  issueWith s [a] [a] (fun i t => do
    needKind .data a (t.rd a)
    let v := lo64 (t.rd a)
    if v ≤ s.time then .ok (advance s i.tid)
    else .ok (schedAt (parkAs s i.tid (.until_ v)) v (.waittWake i.tid)))

/-- SLEEP (04 R70): the next issue is the slot's first turn at or after t + N, never before t + 16, where t is its own turn. -/
def execSleep (a : Reg) (s : State) : Host.Outcome State Fault Refusal :=
  issueWith s [a] [a] (fun i t => do
    needKind .data a (t.rd a)
    let n := lo64 (t.rd a)
    let c := turnFrom (t.issueAt + n) (i.tid % 16) - 1
    if n ≤ 16 ∨ c ≤ s.cycle then .ok (advance s i.tid)
    else
      .ok (sched (parkAs s i.tid (.asleep c)) c (.sleepWake i.tid)))

/-- WAITT_WAKE (04 R70): the time has come for which the thread waits: it retires and issues by 04 R55. -/
def execWaittWake (tid : Nat) (s : State) : Host.Outcome State Fault Refusal :=
  match waitOf s tid with
  | some (.until_ v) => if v ≤ s.time then .next (retirePast s tid) else .next s
  | _ => .next s

/-- SLEEP_WAKE (04 R70): the last cycle before the turn in which the thread issues again. -/
def execSleepWake (tid : Nat) (s : State) : Host.Outcome State Fault Refusal :=
  match waitOf s tid with
  | some (.asleep c) => if c ≤ s.cycle then .next (retirePast s tid) else .next s
  | _ => .next s

/-- PPT (04 R71): a pre-emption point with the registers to keep; bit 0 of the mask is ignored. -/
def execPpt (mask : Word) (s : State) : Host.Outcome State Fault Refusal :=
  issueWith s [] [] (fun i t =>
    if !t.preempt then .ok (advance s i.tid)
    else
      match (List.range t.nregs).find? (fun k =>
          let r := nth GReg.zero k t.g
          k != 0 && !mask.getLsbD k && (r.kind == .coc || r.kind == .port || r.kind == .tens)) with
      | some k => .error (.fault .kind k)
      | none => .ok (saveThread (advance s i.tid) i.tid (mask.toNat / 2 * 2)))

/-- The value of a control register (04 R62); TIME and the event counters are given, as the bundle's turn has them (04 R72). -/
def crValue (s : State) (tid : Nat) (t : Thread) (time : Nat) (evc : List Word) (crn : Nat) : Nat :=
  match crn with
  | 0x000 => tid % 16
  | 0x001 => tid / 16
  | 0x002 => tid / 256
  | 0x003 => t.ctx
  | 0x004 => (taskidOf s t.owner).toNat
  | 0x005 => time % 2 ^ 64
  | 0x006 => t.groups.toNat
  | 0x007 => if t.preempt then 1 else 0
  | 0x010 => t.rmode.toNat
  | 0x011 => t.amax.toNat
  | 0x012 => t.feLimit.toNat
  | 0x018 => t.fltCause.toNat
  | 0x019 => t.fltAddr.toNat
  | 0x01A => t.fltPc.toNat
  | n => (nth 0 (n - 0x020) evc).toNat

/-- The time counter in the bundle's turn (04 R72). -/
def turnTime (s : State) (i : Issue) : Nat :=
  match i.latch with
  | some l => l.time
  | none => s.time

/-- The core's event counters in the bundle's turn (07 R141). A lone CRR that was parked on a pending destination register reads them as it
goes on (DESIGN CHOICE, log entry 62: 04 R72, 05 R88 and 07 R141 do not say which turn's count). -/
def turnEvc (s : State) (i : Issue) : List Word :=
  match i.latch with
  | some l => l.evc
  | none => (coreSt s (i.tid / 16)).evc

/-- CRR (04 R72). -/
def execCrr (crn : BitVec 9) (d : Reg) (s : State) : Host.Outcome State Fault Refusal :=
  issueWith s [d] [] (fun i t => do
    destOk t d []
    .ok (advance (setReg s i.tid d (data64 (crValue s i.tid t (turnTime s i) (turnEvc s i) crn.toNat))) i.tid))

/-- Writes a control register of a thread (04 R62). -/
def crWrite (s : State) (tid : Nat) (crn v : Nat) : State :=
  match getT s tid with
  | none => s
  | some t =>
    match crn with
    | 0x010 => setT s tid { t with rmode := BitVec.ofNat 2 v }
    | 0x011 => setT s tid { t with amax := BitVec.ofNat 32 v }
    | 0x012 => setT s tid { t with feLimit := if v % 2 ^ 32 = 0 then 1 else BitVec.ofNat 32 v }
    | n => writeEvc s (tid / 16) (n - 0x020) (BitVec.ofNat 32 v)

/-- CRW (04 R72): KIND for a source that is not DATA, PRIV for a read-only register. -/
def execCrw (crn : BitVec 9) (a : Reg) (s : State) : Host.Outcome State Fault Refusal :=
  issueWith s [a] [a] (fun i t => do
    needKind .data a (t.rd a)
    if crn.toNat < 0x010 ∨ (0x018 ≤ crn.toNat ∧ crn.toNat < 0x020) then .error (.fault .priv crn.toNat)
    else .ok (advance (crWrite s i.tid crn.toNat (lo64 (t.rd a))) i.tid))

/-- NOP (04 R66). -/
def execNop (s : State) : Host.Outcome State Fault Refusal :=
  issueWith s [] [] (fun i _ => .ok (advance s i.tid))

/-- TRAP (04 R73): a TRAP status entry; codes from 256 end the task or population. A full queue holds it parked. It reads G2, of
any kind that may be read (05 R83, R85). -/
def execTrap (code : BitVec 9) (s : State) : Host.Outcome State Fault Refusal :=
  issueWith s [2] [2] (fun i t =>
    if (t.rd 2).kind = .moved then .error (.fault .moved 2)
    else .ok (takeTrap s i.tid t code.toNat))

end Sys2Proof.Machine
end

