-- ==== Sys2Proof/Machine/Streams.lean ====
section
/-!
DEFINITION. Streams (05 R77; 08 R142-R151): binding, where elements live, read-ahead of fetched streams, posted writes, and
SBIND and SCNT.
-/

namespace Sys2Proof.Machine

/-! ## Fields of a STRM (05 R77) -/

def strmBase (b : QWord) : Nat := bits b.toNat 0 40
def strmWrite (b : QWord) : Bool := bits b.toNat 108 1 == 1
def strmSrc (b : QWord) : Nat := bits b.toNat 109 2
def strmLink (b : QWord) : Nat := bits b.toNat 112 16
def strmW (b : QWord) : Nat := codeWidth (strmFmt b)
def strmRem (b : QWord) : Nat := strmCount b - strmCur b

/-- A STRM from its fields. -/
def mkStrm (base count cur fmt : Nat) (write : Bool) (src : Nat) (am : Bool) (link : Nat) : QWord :=
  BitVec.ofNat 128 (base % 2 ^ 40 + count % 2 ^ 32 * 2 ^ 40 + cur % 2 ^ 32 * 2 ^ 72 + fmt % 16 * 2 ^ 104
    + (if write then 2 ^ 108 else 0) + src % 4 * 2 ^ 109 + (if am then 2 ^ 111 else 0) + link % 2 ^ 16 * 2 ^ 112)

/-- The stream with its cursor at an index. -/
def strmAt (b : QWord) (cur : Nat) : QWord :=
  BitVec.ofNat 128 (b.toNat - strmCur b * 2 ^ 72 + cur % 2 ^ 32 * 2 ^ 72)

/-! ## Binding (08 R144) -/

/-- The .L bytes from a to a + n - 1 lie in the local-store region: a run of bytes leaves it where its cluster's stores end (06 R101). -/
def inLocalRegion (a n : Nat) : Bool := n == 0 || (decide (a < 0x60000000) && decide (a % 0x800000 + n ≤ 0x600000))

/-- SBIND (08 R144). -/
def execSbind (write : Bool) (fmt : Fmt) (d a b : Reg) (s : State) : Host.Outcome State Fault Refusal :=
  issueWith s [d, a, b] [a, b] (fun i t => do
    needKinds [.cap, .coc] a (t.rd a)
    needKind .data b (t.rd b)
    let n := lo64 (t.rd b)
    let w := fmtWidth fmt
    let c := (t.rd a).bits
    if 2 ^ 32 ≤ n ∨ (fmt = .e2m1 ∧ n % 2 = 1) then .error (.fault .bounds n)
    else if (t.rd a).kind = .cap then do
      let v := capAddr c 0
      let bytes := ceilDiv (n * w) 8
      if !capOnchip c ∨ !capRead c ∨ (write ∧ !capWrite c) then .error (.fault .perm v)
      else if capLen c < capCur c + bytes then .error (.fault .bounds v)
      else do
        needAlign v (max (w / 8) 1)
        if !inLocalRegion v bytes then .error (.fault .perm v)
        else do
          destOk t d []
          .ok (advance (setReg s i.tid d ⟨.strm, mkStrm v n 0 fmt.code write 0 false 0⟩) i.tid)
    else if cocFmt c ≠ fmt.code then .error (.fault .kind a.val)
    else if !cocR c ∨ (write ∧ !cocW c) then .error (.fault .perm (i.tid / 256 * 0x800000 + cocTbase c))
    else if cocRcount c * cocCcount c < n then .error (.fault .bounds n)
    else do
      destOk t d []
      .ok (advance (setReg s i.tid d ⟨.strm, mkStrm (i.tid / 256 * 0x800000 + cocTbase c) n 0 fmt.code write 1 true
        (cocHlt c + cocGen c % 64 * 2 ^ 10)⟩) i.tid))

/-- SCNT (08 R145). -/
def execScnt (d a : Reg) (s : State) : Host.Outcome State Fault Refusal :=
  issueWith s [d, a] [a] (fun i t => do
    needKind .strm a (t.rd a)
    destOk t d []
    .ok (advance (setReg s i.tid d (dataOf (strmRem (t.rd a).bits))) i.tid))

/-! ## Where elements live -/

/-- The CPYS command behind a ring stream: its cluster's engine and ring number (06 R118). -/
def ringCmd (s : State) (tid : Nat) (b : QWord) : Option (Nat × Cmd) :=
  s.cmds.find? (fun p => p.2.eng == tid / 256 * 8 + strmLink b % 4 && p.2.ring == strmLink b / 4)

/-- Bytes of the ring of a CPYS. -/
def ringLen (c : Cmd) : Nat := capLen c.b.bits - capCur c.b.bits

/-- The entry a cocoon stream's LINK names still stands for this thread (17 R273). -/
def linkLive (s : State) (tid : Nat) (b : QWord) : Bool :=
  let e := hltEntry s (tid / 256) (strmLink b % 1024)
  e.state == .leaf && e.gen.toNat % 64 == strmLink b / 1024 && e.holder == some tid

/-- The first byte of element i and the bit of it where the element begins; a dead handle's element faults HLT_STALE, an element whose place
the thread's context may not reach PERM (06 R101). -/
def elemPlace (s : State) (tid : Nat) (b : QWord) (i : Nat) : Except Stop (Place × Nat) :=
  let w := strmW b
  let bit := i * w % 8
  let off := i * w / 8
  match strmSrc b with
  | 1 =>
    let e := hltEntry s (tid / 256) (strmLink b % 1024)
    if !linkLive s tid b ∨ e.ccount = 0 ∨ e.rcount * e.ccount ≤ i then .error (.fault .hltStale (strmLink b % 1024))
    else
      let a := tid / 256 * 0x800000 + e.tbase + (e.rstart + i / e.ccount) * e.pitch * 128 + (e.cstart + i % e.ccount) * w / 8
      match onchip a true with
      | some p => .ok (p, 0)
      | none => .error (.fault .perm a)
  | 2 =>
    let a := match ringCmd s tid b with
      | some (_, c) => if ringLen c = 0 then strmBase b + off else strmBase b + off % ringLen c
      | none => strmBase b + off
    match reach s (ctxOf s tid) a false with
    | some p => .ok (p, bit)
    | none => .error (.fault .perm a)
  | _ =>
    match reach s (ctxOf s tid) (strmBase b + off) false with
    | some p => .ok (p, bit)
    | none => .error (.fault .perm (strmBase b + off))

/-- A near stream: all its elements in the core's own local store, or a ring (08 R148). -/
def isNear (tid : Nat) (b : QWord) : Bool :=
  match strmSrc b with
  | 2 => true
  | 1 => false
  | _ =>
    let lo := lsAddr (tid / 16) 0
    decide (lo ≤ strmBase b) && decide (strmBase b + ceilDiv (strmCount b * strmW b) 8 ≤ lo + 0x60000)

/-- Element i of a ring is readable (06 R118). -/
def ringReady (s : State) (tid : Nat) (b : QWord) (i : Nat) : Bool :=
  match ringCmd s tid b with
  | some (_, c) => decide (i < c.next)
  | none => true

/-- The value a read-ahead holds for an element. -/
def aheadValue (t : Thread) (r : Reg) (i : Nat) : Option Nat :=
  t.ahead.findSome? (fun x => if x.reg = r.val then tget i x.vals else none)

/-- Reads element i of a stream register: at its home when near, from the read-ahead when fetched (08 R148, R150). -/
def readElem (s : State) (tid : Nat) (r : Reg) (b : QWord) (i : Nat) : Except Stop Nat := do
  let p ← elemPlace s tid b i
  if isNear tid b then
    if strmSrc b = 2 ∧ !ringReady s tid b i then .error (.wait .stream)
    else do
      softCheck s (placeRun p.1 (max (strmW b / 8) 1))
      .ok (elemAt s p.1 p.2 (strmW b))
  else
    match (getT s tid).bind (fun t => aheadValue t r i) with
    | some v => .ok v
    | none => .error (.wait .stream)

/-- The lane of an element of a stream (08 R143). -/
def laneOf (b : QWord) (i : Nat) : Nat := i * strmW b / 32 % 16

/-! ## Read-ahead and posted writes (08 R148) -/

/-- Elements of a stream register that are held or on their way. -/
def aheadCovered (s : State) (tid : Nat) (t : Thread) (r : Reg) (i : Nat) : Bool :=
  (aheadValue t r i).isSome ||
    s.reqs.any (fun p => p.2.tid == tid && !p.2.dropped &&
      (match p.2.op with
       | .ahead k b _ es => k == r.val && b == strmAt (t.rd r).bits 0 && es.any (fun e => e.1 == i)
       | _ => false))

/-- Requests some elements of a fetched stream. A cocoon stream's access counts in its entry's ACTIVE (17 R272). -/
def requestAhead (s : State) (tid : Nat) (t : Thread) (r : Reg) (idx : List Nat) : State :=
  let b := (t.rd r).bits
  let es := (idx.filter (fun i => !aheadCovered s tid t r i)).filterMap (fun i =>
    match elemPlace s tid b i with
    | .ok p => some (i, p.1, p.2)
    | .error _ => none)
  if es.isEmpty then s
  else
    let id := s.nextId
    let lat := max 1 ((es.map (fun e => placeTime (tid / 256) e.2.1)).foldl Nat.max 0)
    let h := if strmSrc b = 1 then some (tid / 256, strmLink b % 1024) else none
    let req : Req := ⟨tid, .ahead r.val (strmAt b 0) (strmW b) es, es.flatMap (fun e => placeRun e.2.1 (max (strmW b / 8) 1)), strmBase b, true,
      s.cycle, lat, 0, none, false, GReg.zero, Counts.zero, 0, 0, false, h, false, [], t.owner⟩
    let s1 := match h with
      | some x => hltActive s x.1 x.2 true
      | none => s
    bump (sched (schedArrival (fresh { s1 with reqs := tset id req s1.reqs }) (tid / 16) (s.cycle + 1 + Config.freeNat s.free % lat) (.accessPerformed id))
      (s.cycle + lat) (.streamReadaheadArrival id))

/-- Consumed elements leave the read-ahead. -/
def pruneAhead (t : Thread) (r : Reg) (cur : Nat) : Thread :=
  let xs := t.ahead.map (fun x => if x.reg = r.val then { x with vals := x.vals.filter (fun e => decide (cur ≤ e.1)) } else x)
  { t with ahead := xs.filter (fun x => !x.vals.isEmpty) }

/-- STREAM_READAHEAD_ARRIVAL (08 R148): elements read ahead arrive for the stream of the register, or of what a parked pair has read of it
(02 R33); a waiting vector half goes on, and so does an ordering point that awaited them (11 R207). -/
def execStreamReadaheadArrival (id : Nat) (s : State) : Host.Outcome State Fault Refusal :=
  match tget id s.reqs with
  | none => .next s
  | some q =>
    let s1 := accessDone s id q
    match q.op, getT s1 q.tid with
    | .ahead r b _ _, some t =>
      let read := match t.latch with
        | some l => l.onto t
        | none => t
      let live := if h : r < 32 then (read.rd ⟨r, h⟩).kind == .strm && strmAt (read.rd ⟨r, h⟩).bits 0 == b else false
      if q.dropped ∨ !live then .next (relaxedWake s1 q.tid)
      else
        let s2 := setT s1 q.tid { t with ahead := t.ahead ++ [⟨r, q.vals⟩] }
        if waitOf s2 q.tid = some .stream then .next (wake s2 q.tid) else .next (relaxedWake s2 q.tid)
    | _, _ => .next s1

/-- Posts a vector of writes of a fetched stream. -/
def postWrites (s : State) (tid : Nat) (b : QWord) (bs : List (Place × Byte)) : State :=
  if bs.isEmpty then s
  else
    let id := s.nextId
    let lat := max 1 ((bs.map (fun e => placeTime (tid / 256) e.1)).foldl Nat.max 0)
    let h := if strmSrc b = 1 then some (tid / 256, strmLink b % 1024) else none
    let req : Req := ⟨tid, .post bs, bs.map Prod.fst, strmBase b, true, s.cycle, lat, 0, none, false, GReg.zero, Counts.zero, 0, 0, false,
      h, false, [], ownerOf s tid⟩
    let s1 := match h with
      | some x => hltActive s x.1 x.2 true
      | none => s
    bump (sched (schedArrival (fresh { s1 with reqs := tset id req s1.reqs }) (tid / 16) (s.cycle + 1 + Config.freeNat s.free % lat) (.accessPerformed id))
      (s.cycle + lat) (.streamWriteAck id))

/-- STREAM_WRITE_ACK (08 R148): a posted write is acknowledged. -/
def execStreamWriteAck (id : Nat) (s : State) : Host.Outcome State Fault Refusal :=
  match tget id s.reqs with
  | none => .next s
  | some q => .next (relaxedWake (accessDone s id q) q.tid)

end Sys2Proof.Machine
end

