-- ==== Sys2Proof/Machine/Vector.lean ====
section
/-!
DEFINITION. The vector words (08 R146-R164): operand checks, the element loop with its partial commit, and one meaning for each.
The shared operation runVector is stated once over a plan; each instruction gives its plan.
-/

namespace Sys2Proof.Machine

/-! ## Plans -/

/-- What becomes of one element: bits to write to the destination, or to the table, counts, AMAX source, running value. -/
structure Outcome1 where
  /-- Destination index and value. -/
  out : List (Reg × Nat × Nat)
  /-- Table byte offset and value, of width w. -/
  table : Option (Place × Nat)
  counts : Counts
  amax : Option FVal
  carry : Nat
  deriving DecidableEq, Repr

def Outcome1.skip (carry : Nat) : Outcome1 := ⟨[], none, Counts.zero, none, carry⟩

/-- A checked vector half: its stream registers (in the order VD, VA, VB), elements to process, elements a read-ahead must
hold, the step of the k-th element, what the final carry does, and the table's banks. -/
structure Plan where
  streams : List Reg
  /-- Streams whose elements are read. -/
  reads : List Reg
  n : Nat
  /-- Elements the cursors advance for one step (2 for VCX). -/
  unit_ : Nat
  /-- Indices needed of a stream that is read. -/
  idx : Reg → List Nat
  step : Nat → Nat → Except Stop Outcome1
  carry0 : Nat
  /-- The register that takes the result of the carries and the processed outcomes, and its value. -/
  result : Option (Reg × (Nat → List Outcome1 → Nat × Counts))
  tableBanks : List Nat
  width : Nat
  /-- The elements of a stream that are processed, by its cursor. -/
  touch : Nat → List Nat := fun c => (List.range n).map (fun k => c + k)

/-- Runs the steps from index k on until one stops. -/
def runSteps (f : Nat → Nat → Except Stop Outcome1) : Nat → Nat → Nat → List Outcome1 × Option Stop
  | 0, _, _ => ([], none)
  | n + 1, k, c =>
    match f k c with
    | .error st => ([], some st)
    | .ok o =>
      let r := runSteps f n (k + 1) o.carry
      (o :: r.1, r.2)

/-- Destination elements can be written: an element of a dead handle's stream faults HLT_STALE as it is accessed, read or written
(17 R273). -/
def outsOk (s : State) (tid : Nat) (t : Thread) : List (Reg × Nat × Nat) → Except Stop Unit
  | [] => .ok ()
  | e :: rest =>
    match elemPlace s tid (t.rd e.1).bits e.2.1 with
    | .error st => .error st
    | .ok _ => outsOk s tid t rest

/-- A step of a plan, its destination elements checked. -/
def checkedStep (s : State) (tid : Nat) (t : Thread) (f : Nat → Nat → Except Stop Outcome1) (k c : Nat) : Except Stop Outcome1 := do
  let o ← f k c
  outsOk s tid t o.out
  .ok o

/-! ## Committing -/

/-- Writes one element of a near stream at its home. -/
def writeNear (s : State) (tid : Nat) (b : QWord) (i v : Nat) : State :=
  match elemPlace s tid b i with
  | .error _ => s
  | .ok (p, bit) =>
    let w := strmW b
    if w < 8 then
      let old := (getByte s p).toNat
      let byte := old - old / 2 ^ bit % 2 ^ w * 2 ^ bit + v % 2 ^ w * 2 ^ bit
      (perform s (threadWriter s tid) (.post [(p, BitVec.ofNat 8 byte)]) [p]).1
    else
      let ps := placeRun p (w / 8)
      (perform s (threadWriter s tid) (.post (ps.zip (toBytes (w / 8) v))) ps).1

/-- The bytes of some elements of a fetched stream, E2M1 pairs merged into their byte. -/
def fetchedBytes (s : State) (tid : Nat) (b : QWord) (vs : List (Nat × Nat)) : List (Place × Byte) :=
  vs.flatMap (fun e =>
    match elemPlace s tid b e.1 with
    | .error _ => []
    | .ok (p, bit) =>
      let w := strmW b
      if w < 8 then
        let other := tget (if bit = 0 then e.1 + 1 else e.1 - 1) vs
        let old := (getByte s p).toNat
        let lo := if bit = 0 then e.2 % 16 else other.getD (old % 16) % 16
        let hi := if bit = 0 then other.getD (old / 16) % 16 else e.2 % 16
        [(p, BitVec.ofNat 8 (lo + 16 * hi))]
      else (placeRun p (w / 8)).zip (toBytes (w / 8) e.2))

/-- The banks of the core's own store that some elements of a near stream touch (08 R149). -/
def nearBanks (s : State) (tid : Nat) (b : QWord) (idx : List Nat) : List Nat :=
  if !isNear tid b then []
  else
    (idx.filterMap (fun i =>
      match elemPlace s tid b i with
      | .ok (.ls _ off, _) => some (off / 0x20000)
      | _ => none)).eraseDups

/-- The banks of a plan's streams. -/
def planBanks (s : State) (tid : Nat) (t : Thread) (p : Plan) : List Nat :=
  p.streams.eraseDups.flatMap (fun r => nearBanks s tid (t.rd r).bits (p.touch (strmCur (t.rd r).bits)))

/-- Advances the cursor of a stream as the bundle read it; a ring's freed space is reported to its engine (06 R118). -/
def moveCursor (s : State) (tid : Nat) (r : Reg) (b : QWord) (by_ : Nat) : State :=
  match getT s tid with
  | none => s
  | some t =>
    let cur := strmCur b + by_
    let s1 := setT s tid (pruneAhead (t.wr r ⟨.strm, strmAt b cur⟩) r cur)
    match t.rings.find? (fun p => p.1 == r.val) with
    | some (_, id) =>
      match tget id s1.cmds with
      | some c => sched { s1 with cmds := tset id { c with passed := cur } s1.cmds } s1.cycle (.cpysRingWrite id)
      | none => s1
    | none => s1

/-- The outputs of outcomes to one register. -/
def outsTo (os : List Outcome1) (r : Reg) : List (Nat × Nat) :=
  os.flatMap (fun o => o.out.filterMap (fun e => if e.1 = r then some (e.2.1, e.2.2) else none))

/-- Commits the first elements of a plan: writes in element order, the result register, counts, AMAX, cursors (08 R147, R151). With no
element processed there is no result. -/
def commitPlan (s : State) (tid : Nat) (t : Thread) (p : Plan) (os : List Outcome1) : State :=
  let written := (os.flatMap (fun o => o.out.map Prod.fst)).eraseDups
  let s1 := written.foldl (fun u r =>
    let b := (t.rd r).bits
    let vs := outsTo os r
    if isNear tid b then vs.foldl (fun v e => writeNear v tid b e.1 e.2) u
    else postWrites u tid b (fetchedBytes u tid b vs)) s
  let s2 := os.foldl (fun u o => match o.table with
    | some (q, v) =>
      let ps := placeRun q (p.width / 8)
      (perform u (threadWriter u tid) (.post (ps.zip (toBytes (p.width / 8) v))) ps).1
    | none => u) s1
  let total := os.foldl (fun c o => c.add o.counts) Counts.zero
  let carry := match os.getLast? with
    | some o => o.carry
    | none => p.carry0
  let res := match p.result with
    | some (r, f) => if os.isEmpty then none else some (r, f carry os)
    | none => none
  let s3 := match res with
    | some (r, v) => setReg s2 tid r (dataOf v.1)
    | none => s2
  let c := match res with
    | some (_, v) => total.add v.2
    | none => total
  let s4 := amaxAll (countAt s3 tid c) tid (os.filterMap Outcome1.amax)
  p.streams.eraseDups.foldl (fun u r => moveCursor u tid r (t.rd r).bits (p.unit_ * os.length)) s4

/-- Starts the read-ahead of every fetched stream that is read, by the registers as the bundle read them: its elements, and a vector more. -/
def readAhead (s : State) (tid : Nat) (t : Thread) (p : Plan) : State :=
  p.reads.eraseDups.foldl (fun u r =>
    let b := (t.rd r).bits
    if isNear tid b then u
    else
      let need := p.idx r
      let q := vecElems (strmW b)
      let more := ((List.range q).map (fun k => strmCur b + p.n * p.unit_ + k)).filter (fun i => decide (i < strmCount b))
      match getT u tid with
      | some v => requestAhead (requestAhead u tid { v with g := t.g } r need) tid { v with g := t.g } r more
      | none => u) s

/-- A write stream that is fetched: its elements are posted (08 R148). -/
def postsTo (tid : Nat) (t : Thread) (r : Reg) : Bool := strmWrite (t.rd r).bits && !isNear tid (t.rd r).bits

/-- At most two vectors of posted writes are unacknowledged, those that the plan's streams would post among them (08 R148). -/
def postRoom (s : State) (tid : Nat) (t : Thread) (p : Plan) : Bool :=
  !p.streams.any (postsTo tid t) || decide (postedCount s tid + (p.streams.eraseDups.filter (postsTo tid t)).length ≤ 2)

/-- Some outcomes post writes. -/
def posting (tid : Nat) (t : Thread) (os : List Outcome1) : Bool := os.any (fun o => o.out.any (fun e => postsTo tid t e.1))

/-- RUNNING A VECTOR HALF (08 R147, R148, R151): all elements, or those before the first that stops. What it would post waits for
room first; then a stop that is a fault commits the elements before it and faults, and a wait commits them only when asked to, for a
save. A save finds no element processed while there is no room. -/
def runVector (s : State) (tid : Nat) (t : Thread) (p : Plan) (commitOnWait : Bool) : Except Stop State :=
  let r := runSteps (checkedStep s tid t p.step) p.n 0 p.carry0
  if posting tid t r.1 && !postRoom s tid t p then (if commitOnWait then .ok s else .error (.wait .postRoom))
  else
    match r.2 with
    | none =>
      let s1 := commitPlan (readAhead s tid t p) tid t p r.1
      .ok ((planBanks s tid t p ++ p.tableBanks).foldl (fun u k => bankHit u (tid / 16) (k * 0x20000)) s1)
    | some (.fault c a) => .ok (takeFault (commitPlan s tid t p r.1) tid c a)
    | some (.miss va) => .error (.miss va)
    | some (.wait w) =>
      if commitOnWait then .ok (commitPlan s tid t p r.1)
      else .ok (parkAs (readAhead s tid t p) tid w)

/-! ## Operand checks (08 R146) -/

/-- A stream operand of a direction whose format passes a test. -/
def needStream (t : Thread) (r : Reg) (write : Bool) (ok : Nat → Bool) : Except Stop Unit := do
  needKind .strm r (t.rd r)
  let b := (t.rd r).bits
  if strmWrite b ≠ write ∨ !ok (strmFmt b) then .error (.fault .kind r.val) else .ok ()

/-- A read-or-scalar operand. -/
def needStreamOrData (t : Thread) (r : Reg) (ok : Nat → Bool) : Except Stop Unit :=
  if (t.rd r).kind = .data then .ok () else needStream t r false ok

/-- The widest element among stream registers. -/
def widest (t : Thread) (rs : List Reg) : Nat := (rs.map (fun r => strmW (t.rd r).bits)).foldl Nat.max 0

/-- The lane stream: the first of the widest (08 R143). -/
def laneStream (t : Thread) (rs : List Reg) : Option Reg := rs.find? (fun r => strmW (t.rd r).bits == widest t rs)

/-- Elements a bundle processes (08 R147). -/
def vecCount (t : Thread) (rs : List Reg) : Nat := (rs.map (fun r => strmRem (t.rd r).bits)).foldl Nat.min (vecElems (widest t rs))

/-- The mask enables the k-th element of a bundle. -/
def laneOn (t : Thread) (msk : MReg) (rs : List Reg) (k : Nat) : Bool :=
  msk == 0 ||
    (match laneStream t rs with
     | some r => (t.mask msk).getLsbD (laneOf (t.rd r).bits (strmCur (t.rd r).bits + k))
     | none => true)

/-- The index of the k-th element of a stream. -/
def idxOf (t : Thread) (r : Reg) (k : Nat) : Nat := strmCur (t.rd r).bits + k

/-- The value of an operand for the k-th element: a stream's element or a scalar's low w bits. -/
def operand (s : State) (tid : Nat) (t : Thread) (r : Reg) (w k : Nat) : Except Stop Nat :=
  if (t.rd r).kind = .data then .ok ((t.rd r).bits.toNat % 2 ^ w) else readElem s tid r (t.rd r).bits (idxOf t r k)

/-- The stream registers among some operands. -/
def streamsOf (t : Thread) (rs : List Reg) : List Reg := rs.filter (fun r => (t.rd r).kind == .strm)

/-- Indices of the enabled elements of a stream in a bundle. -/
def activeIdx (t : Thread) (msk : MReg) (rs : List Reg) (n : Nat) (r : Reg) : List Nat :=
  ((List.range n).filter (laneOn t msk rs)).map (idxOf t r)

/-- The shape of a vector meaning: operands in check order, then the plan. Registers that await a load park the bundle; a PORT
faults KIND by its kind, since the half stands in a pair. -/
def vectorWith (s : State) (regs : List Reg) (plan : Nat → Thread → Except Stop Plan) : Host.Outcome State Fault Refusal :=
  issueWith s regs [] (fun i t => do
    let p ← plan i.tid t
    runVector s i.tid t p i.commit)

/-- An element-wise plan: f of the two operands and the destination's old element. -/
def mapPlan (s : State) (tid : Nat) (t : Thread) (msk : MReg) (vd : Reg) (srcs : List Reg) (w wd : Nat) (dRead : Bool)
    (f : List Nat → Nat → Nat × Counts × Option FVal) : Plan :=
  let rs := streamsOf t (vd :: srcs)
  let n := vecCount t rs
  { streams := rs, reads := streamsOf t srcs ++ (if dRead then [vd] else []), n := n, unit_ := 1
    idx := activeIdx t msk rs n
    step := fun k _ =>
      if !laneOn t msk rs k then .ok (Outcome1.skip 0)
      else do
        let xs ← srcs.mapM (fun r => operand s tid t r w k)
        let d ← if dRead then readElem s tid vd (t.rd vd).bits (idxOf t vd k) else .ok 0
        let r := f xs d
        .ok ⟨[(vd, idxOf t vd k, r.1 % 2 ^ wd)], none, r.2.1, r.2.2, 0⟩
    carry0 := 0, result := none, tableBanks := [], width := wd }

/-- A binary element-wise instruction whose operands all have the word's format. -/
def vecBinary (v : VWord) (dRead : Bool) (f : Thread → Nat → Nat → Nat → Nat × Counts) (s : State) : Host.Outcome State Fault Refusal :=
  vectorWith s [v.va, v.vb, v.vd] (fun tid t => do
    let ok := fun c => c == v.fmt.code
    needStream t v.va false ok
    needStreamOrData t v.vb ok
    needStream t v.vd true ok
    .ok (mapPlan s tid t v.msk v.vd [v.va, v.vb] (fmtWidth v.fmt) (fmtWidth v.fmt) dRead (fun xs d =>
      let r := f t (nth 0 0 xs) (nth 0 1 xs) d
      (r.1, r.2, none))))

/-- A unary element-wise instruction. -/
def vecUnary (v : VUnary) (f : Nat → Nat × Counts) (s : State) : Host.Outcome State Fault Refusal :=
  vectorWith s [v.va, v.vd] (fun tid t => do
    let ok := fun c => c == v.fmt.code
    needStream t v.va false ok
    needStream t v.vd true ok
    .ok (mapPlan s tid t v.msk v.vd [v.va] (fmtWidth v.fmt) (fmtWidth v.fmt) false (fun xs _ =>
      let r := f (nth 0 0 xs)
      (r.1, r.2, none))))

/-! ## Element functions -/

/-- The layout of a word's float format. -/
def vlay (f : Fmt) : FLayout := (layoutOf f).getD f32L

/-- The integer value of a pattern, by the signedness of its format (08 R157). -/
def intVal (f : Fmt) (v : Nat) : Int := if isI f then sextZ (fmtWidth f) v else (v : Int)

/-- Saturates an exact integer to a format's range, counting EVC_SAT (08 R157). -/
def saturate (f : Fmt) (x : Int) : Nat × Counts :=
  let w := fmtWidth f
  let lo : Int := if isI f then -(2 ^ (w - 1) : Nat) else 0
  let hi : Int := if isI f then (2 ^ (w - 1) : Nat) - 1 else (2 ^ w : Nat) - 1
  if x < lo then ((lo % (2 ^ w : Nat)).toNat, cSat)
  else if hi < x then (hi.toNat, cSat)
  else ((x % (2 ^ w : Nat)).toNat, Counts.zero)

/-- VMIN and VMAX (08 R153). -/
def vecMinMax (f : Fmt) (larger : Bool) (a b : Nat) : Nat × Counts :=
  if f.isFloat16 then minMaxF (vlay f) larger a b
  else if larger then (if intVal f b ≤ intVal f a then a else b, Counts.zero)
  else (if intVal f a ≤ intVal f b then a else b, Counts.zero)

/-- VSHL (08 R157). -/
def vshlElem (f : Fmt) (a b : Nat) : Nat := if fmtWidth f ≤ b then 0 else a * 2 ^ b % 2 ^ fmtWidth f

/-- VSHR (08 R157). -/
def vshrElem (f : Fmt) (a b : Nat) : Nat :=
  let w := fmtWidth f
  ((intVal f a / (2 ^ min b w : Nat)) % (2 ^ w : Nat)).toNat

/-- The predicate of a VCMP (08 R155). -/
def vcmpElem (f : Fmt) (p : VPred) (a b : Nat) : Bool × Counts :=
  if f.isFloat16 then
    predF (vlay f) (match p with
      | .eq => .eq
      | .lt => .lt
      | .le => .le
      | .ne => .ne) a b
  else
    (match p with
     | .eq => a == b
     | .lt => decide (intVal f a < intVal f b)
     | .le => decide (intVal f a ≤ intVal f b)
     | .ne => a != b, Counts.zero)

/-- VABS and VNEG (08 R154). -/
def vabsElem (f : Fmt) (a : Nat) : Nat × Counts :=
  if f.isFloat16 then
    (if (decodeF (vlay f) a).isNan then ((vlay f).canon, cNan) else (a % 2 ^ (fmtWidth f - 1), Counts.zero))
  else saturate f (if intVal f a < 0 then -(intVal f a) else intVal f a)

def vnegElem (f : Fmt) (a : Nat) : Nat × Counts :=
  if f.isFloat16 then
    (if (decodeF (vlay f) a).isNan then ((vlay f).canon, cNan)
     else ((a + 2 ^ (fmtWidth f - 1)) % 2 ^ fmtWidth f, Counts.zero))
  else saturate f (-(intVal f a))

/-! ## The instructions -/

/-- VADD (08 R153). -/
def execVadd (v : VWord) (s : State) : Host.Outcome State Fault Refusal :=
  vecBinary v false (fun t a b _ => addF (vlay v.fmt) (modeOf t.rmode) (decodeF (vlay v.fmt) a) (decodeF (vlay v.fmt) b)) s

/-- VSUB (08 R153). -/
def execVsub (v : VWord) (s : State) : Host.Outcome State Fault Refusal :=
  vecBinary v false (fun t a b _ => addF (vlay v.fmt) (modeOf t.rmode) (decodeF (vlay v.fmt) a) (decodeF (vlay v.fmt) b).neg) s

/-- VMUL (08 R153). -/
def execVmul (v : VWord) (s : State) : Host.Outcome State Fault Refusal :=
  vecBinary v false (fun t a b _ => mulF (vlay v.fmt) (modeOf t.rmode) (decodeF (vlay v.fmt) a) (decodeF (vlay v.fmt) b)) s

/-- VFMA (08 R153). -/
def execVfma (v : VWord) (s : State) : Host.Outcome State Fault Refusal :=
  vecBinary v true (fun t a b d => fmaF (vlay v.fmt) (modeOf t.rmode) (decodeF (vlay v.fmt) a) (decodeF (vlay v.fmt) b)
    (decodeF (vlay v.fmt) d)) s

/-- VMIN (08 R153). -/
def execVmin (v : VWord) (s : State) : Host.Outcome State Fault Refusal := vecBinary v false (fun _ a b _ => vecMinMax v.fmt false a b) s

/-- VMAX (08 R153). -/
def execVmax (v : VWord) (s : State) : Host.Outcome State Fault Refusal := vecBinary v false (fun _ a b _ => vecMinMax v.fmt true a b) s

/-- A binary instruction whose destination has another format of the word's width. -/
def vecBinaryTo (v : VWord) (dOk : Nat → Bool) (dRead : Bool) (f : Nat → Nat → Nat → Nat × Counts) (s : State) : Host.Outcome State Fault Refusal :=
  vectorWith s [v.va, v.vb, v.vd] (fun tid t => do
    let ok := fun c => c == v.fmt.code
    needStream t v.va false ok
    needStreamOrData t v.vb ok
    needStream t v.vd true dOk
    .ok (mapPlan s tid t v.msk v.vd [v.va, v.vb] (fmtWidth v.fmt) (fmtWidth v.fmt) dRead (fun xs d =>
      let r := f (nth 0 0 xs) (nth 0 1 xs) d
      (r.1, r.2, none))))

/-- VSEL (08 R156): the destination may have any format of the word's width. -/
def execVsel (v : VWord) (s : State) : Host.Outcome State Fault Refusal :=
  vecBinaryTo v (fun c => codeWidth c == fmtWidth v.fmt) true (fun a b d => (if d ≠ 0 then a else b, Counts.zero)) s

/-- The N format code of a width (08 R155). -/
def nCode (w : Nat) : Nat := if w = 32 then 14 else if w = 16 then 13 else 12

/-- VCMP (08 R155). -/
def execVcmp (p : VPred) (v : VWord) (s : State) : Host.Outcome State Fault Refusal :=
  vecBinaryTo v (fun c => c == nCode (fmtWidth v.fmt)) false (fun a b _ =>
    let r := vcmpElem v.fmt p a b
    (if r.1 then 2 ^ fmtWidth v.fmt - 1 else 0, r.2)) s

/-- VAND (08 R157). -/
def execVand (v : VWord) (s : State) : Host.Outcome State Fault Refusal := vecBinary v false (fun _ a b _ => (Nat.land a b, Counts.zero)) s

/-- VOR (08 R157). -/
def execVor (v : VWord) (s : State) : Host.Outcome State Fault Refusal := vecBinary v false (fun _ a b _ => (Nat.lor a b, Counts.zero)) s

/-- VXOR (08 R157). -/
def execVxor (v : VWord) (s : State) : Host.Outcome State Fault Refusal := vecBinary v false (fun _ a b _ => (Nat.xor a b, Counts.zero)) s

/-- VSHL (08 R157). -/
def execVshl (v : VWord) (s : State) : Host.Outcome State Fault Refusal := vecBinary v false (fun _ a b _ => (vshlElem v.fmt a b, Counts.zero)) s

/-- VSHR (08 R157). -/
def execVshr (v : VWord) (s : State) : Host.Outcome State Fault Refusal := vecBinary v false (fun _ a b _ => (vshrElem v.fmt a b, Counts.zero)) s

/-- VIADD (08 R157). -/
def execViadd (v : VWord) (s : State) : Host.Outcome State Fault Refusal :=
  vecBinary v false (fun _ a b _ => saturate v.fmt (intVal v.fmt a + intVal v.fmt b)) s

/-- VISUB (08 R157). -/
def execVisub (v : VWord) (s : State) : Host.Outcome State Fault Refusal :=
  vecBinary v false (fun _ a b _ => saturate v.fmt (intVal v.fmt a - intVal v.fmt b)) s

/-- VIMUL (08 R157). -/
def execVimul (v : VWord) (s : State) : Host.Outcome State Fault Refusal :=
  vecBinary v false (fun _ a b _ => saturate v.fmt (intVal v.fmt a * intVal v.fmt b)) s

/-- VABS (08 R154). -/
def execVabs (v : VUnary) (s : State) : Host.Outcome State Fault Refusal := vecUnary v (vabsElem v.fmt) s

/-- VNEG (08 R154). -/
def execVneg (v : VUnary) (s : State) : Host.Outcome State Fault Refusal := vecUnary v (vnegElem v.fmt) s

/-- VEXP2 (08 R159). -/
def execVexp2 (v : VUnary) (s : State) : Host.Outcome State Fault Refusal := vecUnary v (fun a => exp2F (decodeF f32L a)) s

/-- VLOG2 (08 R159). -/
def execVlog2 (v : VUnary) (s : State) : Host.Outcome State Fault Refusal := vecUnary v (fun a => log2F (decodeF f32L a)) s

/-- VRCP (08 R159). -/
def execVrcp (v : VUnary) (s : State) : Host.Outcome State Fault Refusal := vecUnary v (fun a => rcpF (decodeF f32L a)) s

/-- VRSQ (08 R159). -/
def execVrsq (v : VUnary) (s : State) : Host.Outcome State Fault Refusal := vecUnary v (fun a => rsqF (decodeF f32L a)) s

/-- VTANH (08 R159). -/
def execVtanh (v : VUnary) (s : State) : Host.Outcome State Fault Refusal := vecUnary v (fun a => tanhF (decodeF f32L a)) s

/-- VMOV (08 R164). -/
def execVmov (v : VUnary) (s : State) : Host.Outcome State Fault Refusal := vecUnary v (fun a => (a, Counts.zero)) s

/-- VSPLAT (08 R164): n is limited by VD alone. -/
def execVsplat (v : VUnary) (s : State) : Host.Outcome State Fault Refusal :=
  vectorWith s [v.va, v.vd] (fun tid t => do
    needKind .data v.va (t.rd v.va)
    needStream t v.vd true (fun c => c == v.fmt.code)
    .ok (mapPlan s tid t v.msk v.vd [v.va] (fmtWidth v.fmt) (fmtWidth v.fmt) false (fun xs _ => (nth 0 0 xs, Counts.zero, none))))

/-- VCVT (08 R158): into the format of the VD stream, in RMODE, with AMAX in element order. -/
def execVcvt (v : VUnary) (s : State) : Host.Outcome State Fault Refusal :=
  vectorWith s [v.va, v.vd] (fun tid t => do
    needStream t v.va false (fun c => c == v.fmt.code)
    needStream t v.vd true (fun _ => true)
    let dst := (Fmt.ofCode (strmFmt (t.rd v.vd).bits)).getD .f32
    .ok (mapPlan s tid t v.msk v.vd [v.va] (fmtWidth v.fmt) (fmtWidth dst) false (fun xs _ =>
      let x := valueOf v.fmt (nth 0 0 xs)
      let r := convert dst (modeOf t.rmode) x
      (r.1, r.2, some x))))

/-! ## VRED and VSCAN (08 R160, R161) -/

/-- One level of the tree of 08 R160 over present elements and gaps. -/
def pairLevelOpt (f : Nat → Nat → Nat × Counts) : List (Option Nat) → List (Option Nat) × Counts
  | a :: b :: rest =>
    let t := pairLevelOpt f rest
    match a, b with
    | some x, some y =>
      let r := f x y
      (some r.1 :: t.1, r.2.add t.2)
    | some x, none => (some x :: t.1, t.2)
    | none, y => (y :: t.1, t.2)
  | [a] => ([a], Counts.zero)
  | [] => ([], Counts.zero)

/-- The tree to its root: ten levels reduce 1,024 leaves. -/
def treeOpt (f : Nat → Nat → Nat × Counts) : Nat → List (Option Nat) → Counts → Option Nat × Counts
  | 0, xs, c => (nth none 0 xs, c)
  | n + 1, xs, c =>
    let r := pairLevelOpt f xs
    treeOpt f n r.1 (c.add r.2)

/-- ADD of VRED (08 R160). -/
def vredAdd (f : Fmt) (md : RMode) (x y : Nat) : Nat × Counts :=
  if f.isFloat16 then
    let r := addF f32L md (decodeF f32L x) (decodeF f32L y)
    (r.1, { r.2 with nan := 0 })
  else ((x + y) % 2 ^ 64, Counts.zero)

/-- A leaf of VRED: F32, or 64 bits; a NaN element counts once. -/
def vredLeaf (f : Fmt) (v : Nat) : Nat × Counts :=
  if f.isFloat16 then ((convert .f32 .rne (decodeF (vlay f) v)).1, if (decodeF (vlay f) v).isNan then cNan else Counts.zero)
  else (toU64 (intVal f v), Counts.zero)

/-- VRED (08 R160): the outcomes' table slot is unused; their carry holds the leaf, plus one for an active element. -/
def execVred (v : VUnary) (s : State) : Host.Outcome State Fault Refusal :=
  vectorWith s [v.va, v.vd] (fun tid t => do
    needStream t v.va false (fun c => c == v.fmt.code)
    needKind .data v.vd (t.rd v.vd)
    let rs := [v.va]
    let n := vecCount t rs
    let md := modeOf t.rmode
    let acc := (t.rd v.vd).bits.toNat % (if v.fmt.isFloat16 then 2 ^ 32 else 2 ^ 64)
    .ok {
      streams := rs, reads := rs, n := n, unit_ := 1, idx := activeIdx t v.msk rs n
      step := fun k _ =>
        if !laneOn t v.msk rs k then .ok (Outcome1.skip 0)
        else do
          let x ← readElem s tid v.va (t.rd v.va).bits (idxOf t v.va k)
          let l := vredLeaf v.fmt x
          .ok ⟨[], none, l.2, none, l.1 + 1⟩
      carry0 := 0
      result := some (v.vd, fun _ os =>
        let leaves := os.map (fun o => if o.carry = 0 then none else some (o.carry - 1))
        let root := treeOpt (vredAdd v.fmt md) 10 leaves Counts.zero
        match root.1 with
        | none => ((t.rd v.vd).bits.toNat, Counts.zero)
        | some x =>
          let r := vredAdd v.fmt md acc x
          (r.1, root.2.add r.2))
      tableBanks := [], width := 32 })

/-- One step of VSCAN: the new carry, the element and its count. -/
def vscanStep (f : Fmt) (md : RMode) (c a : Nat) : Nat × Nat × Counts :=
  if f = .f32 then
    let r := addF f32L md (decodeF f32L (c % 2 ^ 32)) (decodeF f32L a)
    (r.1, r.1, r.2)
  else
    let x := toU64 (s64 c + intVal f a)
    let d := saturate f (if isI f then s64 x else (x : Int))
    (x, d.1, d.2)

/-- VSCAN (08 R161): the carry is G[b]; it is written even when no element is active. Its bits above the carry become zero (DESIGN
CHOICE, log entry 44: R161 gives the carry's bits only). -/
def execVscan (v : VWord) (s : State) : Host.Outcome State Fault Refusal :=
  vectorWith s [v.va, v.vb, v.vd] (fun tid t => do
    let ok := fun c => c == v.fmt.code
    needStream t v.va false ok
    needKind .data v.vb (t.rd v.vb)
    needStream t v.vd true ok
    let rs := streamsOf t [v.vd, v.va]
    let n := vecCount t rs
    let md := modeOf t.rmode
    let c0 := if v.fmt = .f32 then (t.rd v.vb).bits.toNat % 2 ^ 32 else lo64 (t.rd v.vb)
    .ok {
      streams := rs, reads := [v.va], n := n, unit_ := 1, idx := activeIdx t v.msk rs n
      step := fun k c =>
        if !laneOn t v.msk rs k then .ok (Outcome1.skip c)
        else do
          let x ← readElem s tid v.va (t.rd v.va).bits (idxOf t v.va k)
          let r := vscanStep v.fmt md c x
          .ok ⟨[(v.vd, idxOf t v.vd k, r.2.1)], none, r.2.2, none, r.1⟩
      carry0 := c0
      result := some (v.vb, fun c _ => (c, Counts.zero))
      tableBanks := [], width := 32 })

/-! ## VGATH, VSCAT, VCX (08 R162, R163) -/

/-- The table of VGATH or VSCAT: a CAP with Onchip whose range lies in the core's own local store. -/
def needTable (tid : Nat) (t : Thread) (r : Reg) (write : Bool) : Except Stop Unit := do
  needKind .cap r (t.rd r)
  let b := (t.rd r).bits
  let lo := lsAddr (tid / 16) 0
  let a := capAddr b 0
  if !capOnchip b ∨ (!write ∧ !capRead b) ∨ (write ∧ !capWrite b) ∨ capBase b + capCur b < lo
      ∨ lo + 0x60000 < capBase b + max (capLen b) (capCur b) then .error (.fault .perm a)
  else .ok ()

/-- The place of table element k, checked at the element. -/
def tablePlace (s : State) (ctx : Nat) (b : QWord) (w k : Nat) : Except Stop Place :=
  let a := capBase b + capCur b + k * (w / 8)
  if capLen b - capCur b < (k + 1) * (w / 8) then .error (.fault .bounds a)
  else
    match reach s ctx a false with
    | some p => if (placeRun p (w / 8)).any (tagged s) then .error (.fault .kind a) else .ok p
    | none => .error (.fault .perm a)

/-- The banks a table's range touches (08 R149). -/
def tableBanks (tid : Nat) (b : QWord) : List Nat :=
  let lo := capBase b + capCur b - lsAddr (tid / 16) 0
  let hi := capBase b + capLen b - lsAddr (tid / 16) 0
  if hi ≤ lo then [] else (List.range 3).filter (fun k => decide (lo < (k + 1) * 0x20000) && decide (k * 0x20000 < hi))

/-- VGATH (08 R162). The stream with the widest element, the first of VD and VA, gives the lane, as in R143 (DESIGN CHOICE, log
entry 45: R143 leaves it to R162, which does not say). The table's PERM is part of the check of VB, before that of VD (DESIGN CHOICE, log
entry 62: 08 R146 orders the operands' checks and does not place it). -/
def execVgath (v : VWord) (s : State) : Host.Outcome State Fault Refusal :=
  vectorWith s [v.va, v.vb, v.vd] (fun tid t => do
    needStream t v.va false (fun c => c == 14)
    needTable tid t v.vb false
    needStream t v.vd true (fun c => c == v.fmt.code)
    let w := fmtWidth v.fmt
    let rs := [v.vd, v.va]
    let n := vecCount t rs
    let tb := (t.rd v.vb).bits
    .ok {
      streams := rs, reads := [v.va], n := n, unit_ := 1, idx := activeIdx t v.msk rs n
      step := fun k _ =>
        if !laneOn t v.msk rs k then .ok (Outcome1.skip 0)
        else do
          let j ← readElem s tid v.va (t.rd v.va).bits (idxOf t v.va k)
          let p ← tablePlace s t.ctx tb w j
          softCheck s (placeRun p (w / 8))
          .ok ⟨[(v.vd, idxOf t v.vd k, getNat s (placeRun p (w / 8)))], none, Counts.zero, none, 0⟩
      carry0 := 0, result := none, tableBanks := tableBanks tid tb, width := w })

/-- VSCAT (08 R162): a later element overwrites an earlier one at the same index. Its lane is VGATH's, of VA and VB (log entry 45). -/
def execVscat (v : VWord) (s : State) : Host.Outcome State Fault Refusal :=
  vectorWith s [v.va, v.vb, v.vd] (fun tid t => do
    needStream t v.va false (fun c => c == v.fmt.code)
    needStream t v.vb false (fun c => c == 14)
    needTable tid t v.vd true
    let w := fmtWidth v.fmt
    let rs := [v.va, v.vb]
    let n := vecCount t rs
    let tb := (t.rd v.vd).bits
    .ok {
      streams := rs, reads := rs, n := n, unit_ := 1, idx := activeIdx t v.msk rs n
      step := fun k _ =>
        if !laneOn t v.msk rs k then .ok (Outcome1.skip 0)
        else do
          let x ← readElem s tid v.va (t.rd v.va).bits (idxOf t v.va k)
          let j ← readElem s tid v.vb (t.rd v.vb).bits (idxOf t v.vb k)
          let p ← tablePlace s t.ctx tb w j
          .ok ⟨[], some (p, x), Counts.zero, none, 0⟩
      carry0 := 0, result := none, tableBanks := tableBanks tid tb, width := w })

/-- A power of two from 1 to 1,024. -/
def pow2UpTo1024 (x : Nat) : Bool := (List.range 11).any (fun k => x == 2 ^ k)

/-- The lower index of pair q of a stage with distance j (08 R163). -/
def vcxLow (j q : Nat) : Nat := q / j * (2 * j) + q % j

/-- VCX (08 R163): one stage of a bitonic network in place. -/
def execVcx (v : VWord) (s : State) : Host.Outcome State Fault Refusal :=
  vectorWith s [v.va, v.vb, v.vd] (fun tid t => do
    let w := fmtWidth v.fmt
    needStream t v.va true (fun c => codeWidth c == w)
    needKind .data v.vb (t.rd v.vb)
    needStream t v.vd true (fun c => c == v.fmt.code)
    let key := (t.rd v.vd).bits
    let pay := (t.rd v.va).bits
    if v.va = v.vd ∨ strmCount key ≠ strmCount pay ∨ strmCur key ≠ strmCur pay then .error (.fault .kind v.va.val)
    else
      let x := lo64 (t.rd v.vb)
      let j := bits x 0 16
      let kk := bits x 16 16
      if !pow2UpTo1024 j ∨ !pow2UpTo1024 kk ∨ kk ≤ j ∨ strmCount key % (2 * j) ≠ 0 ∨ strmCur key % 2 ≠ 0 then .error (.fault .bounds x)
      else
        let np := min (vecElems w / 2) ((strmCount key - strmCur key) / 2)
        let low := fun p => vcxLow j (strmCur key / 2 + p)
        let on := fun p => v.msk == 0 || (t.mask v.msk).getLsbD (laneOf key (low p))
        .ok {
          streams := [v.vd, v.va], reads := [v.vd, v.va], n := np, unit_ := 2
          idx := fun _ => ((List.range np).filter on).flatMap (fun p => [low p, low p + j])
          step := fun p _ =>
            if !on p then .ok (Outcome1.skip 0)
            else do
              let i := low p
              let m := i + j
              let ki ← readElem s tid v.vd key i
              let km ← readElem s tid v.vd key m
              let pi ← readElem s tid v.va pay i
              let pm ← readElem s tid v.va pay m
              let asc := i / kk % 2 = 0
              if (asc ∧ image v.fmt km < image v.fmt ki) ∨ (¬ asc ∧ image v.fmt ki < image v.fmt km) then
                .ok ⟨[(v.vd, i, km), (v.vd, m, ki), (v.va, i, pm), (v.va, m, pi)], none, Counts.zero, none, 0⟩
              else .ok (Outcome1.skip 0)
          carry0 := 0, result := none, tableBanks := [], width := w
          touch := fun _ => (List.range np).flatMap (fun p => [low p, low p + j]) })

end Sys2Proof.Machine
end

