-- ==== Sys2Proof/Machine/Tensor.lean ====
section
/-!
DEFINITION. Tensors (15 R244-R255): views, lines and their encodings, resolution along a chain, the pool, forks, rebasing,
flattening, freeing and splicing, and reclamation.
-/

namespace Sys2Proof.Machine

/-! ## Fields of a TENS (05 R78) -/

def tensTid (b : QWord) : Nat := bits b.toNat 0 20
def tensPerm (b : QWord) (k : Nat) : Bool := bits b.toNat (20 + k) 1 == 1
def tensRowb (b : QWord) : Nat := bits b.toNat 32 24
def tensRown (b : QWord) : Nat := bits b.toNat 56 24
def tensColb (b : QWord) : Nat := bits b.toNat 80 24
def tensColn (b : QWord) : Nat := bits b.toNat 104 24

/-- A TENS from its fields. -/
def mkTens (tid perm rowb rown colb coln : Nat) : QWord :=
  BitVec.ofNat 128 (tid % 2 ^ 20 + perm % 16 * 2 ^ 20 + rowb % 2 ^ 24 * 2 ^ 32 + rown % 2 ^ 24 * 2 ^ 56 + colb % 2 ^ 24 * 2 ^ 80
    + coln % 2 ^ 24 * 2 ^ 104)

/-- The view of a whole node with every permission. -/
def wholeView (tid : Nat) (n : Node) : QWord := mkTens tid 15 0 n.rows 0 n.cols

/-! ## Lines and their encodings (15 R247, R248) -/

/-- The sectors of a tag. -/
def tagSectors (tag : Nat) : Nat :=
  match tag % 8 with
  | 2 => 1 | 3 => 2 | 4 => 3 | 7 => 4 | _ => 0

/-- 32 zero words. -/
def zeroLine : List Nat := List.replicate 32 0

/-- The stored form of 32 words in an encoding, in whole sectors (15 R247). -/
def storedForm (e : Nat) (ws : List Nat) : List Byte :=
  let b := nth 0 0 ws
  match e with
  | 2 => toBytes 4 b ++ List.replicate 28 0
  | 3 => toBytes 4 b ++ ws.map (fun w => BitVec.ofNat 8 (w + 2 ^ 32 - b)) ++ List.replicate 28 0
  | 4 => toBytes 4 b ++ (ws.map (fun w => toBytes 2 (w + 2 ^ 32 - b))).flatten ++ List.replicate 28 0
  | 7 => (ws.map (toBytes 4)).flatten
  | _ => []

/-- The words a stored form decodes to; encodings 5 and 6 are corrupt (15 R247). -/
def decodedWords (e : Nat) (bs : List Byte) : Option (List Nat) :=
  let b := leNat (bs.take 4)
  let word := fun (k : Nat) (d : Nat) => ((b + sextZ k d) % (2 ^ 32 : Nat)).toNat
  match e with
  | 1 => some zeroLine
  | 2 => some (List.replicate 32 b)
  | 3 => some ((List.range 32).map (fun i => word 8 (nth 0 (4 + i) bs).toNat))
  | 4 => some ((List.range 32).map (fun i => word 16 (leNat ((bs.drop (4 + 2 * i)).take 2))))
  | 7 => some ((List.range 32).map (fun i => leNat ((bs.drop (4 * i)).take 4)))
  | _ => none

/-- A line's decoded words; none when its metadata is corrupt. -/
def Line.words (x : Line) : Option (List Nat) := decodedWords (x.tag % 8) x.bytes

/-- A word differs from a base by a signed number of k bits. -/
def deltaFits (k base w : Nat) : Bool :=
  let d := sextZ 32 (w + 2 ^ 32 - base)
  decide (-(2 ^ (k - 1) : Nat) ≤ d) && decide (d < (2 ^ (k - 1) : Nat))

/-- The encoding of 32 words: the first that fits. -/
def costTag (ws : List Nat) : Nat :=
  let b := nth 0 0 ws
  if ws.all (fun w => w == 0) then 1
  else if ws.all (fun w => w == b) then 2
  else if ws.all (deltaFits 8 b) then 3
  else if ws.all (deltaFits 16 b) then 4
  else 7

def xorWords (a b : List Nat) : List Nat := List.zipWith Nat.xor a b

/-- THE ENCODER (15 R248): the tag and the words stored. -/
def encodeLine (v q : List Nat) (root : Bool) : Nat × List Nat :=
  if v = q then (0, [])
  else
    let cp := costTag v
    if root then (cp, v)
    else
      let x := xorWords v q
      let cx := costTag x
      if tagSectors cx < tagSectors cp then (8 + cx, x) else (cp, v)

/-- The stored line of a node, when it is not INHERIT. -/
def lineOf (n : Node) (l : Nat) : Option Line := n.lines.find? (fun x => x.idx == l)

/-- Sectors of a node's line. -/
def lineSectors (n : Node) (l : Nat) : Nat :=
  match lineOf n l with
  | some x => tagSectors x.tag
  | none => 0

/-- Stores a line; tag 0 is INHERIT. -/
def putLine (n : Node) (l tag : Nat) (ws : List Nat) : Node :=
  let rest := n.lines.filter (fun x => x.idx != l)
  { n with
    lines := if tag = 0 then rest else rest ++ [⟨l, tag, storedForm (tag % 8) ws⟩]
    sectors := n.sectors - lineSectors n l + tagSectors tag }

/-- RESOLUTION (15 R249): the words of a line and the nodes whose tag was examined (16 R265). -/
def resolveLine (nodes : List (Nat × Node)) : Nat → Nat → Nat → List Nat × Nat
  | 0, _, _ => (zeroLine, 0)
  | f + 1, m, l =>
    match tget m nodes with
    | none => (zeroLine, 0)
    | some n =>
      match lineOf n l with
      | none => if n.parent = 0 then (zeroLine, 1) else
        let r := resolveLine nodes f n.parent l
        (r.1, r.2 + 1)
      | some x =>
        if x.tag < 8 then (x.words.getD zeroLine, 1)
        else
          let r := resolveLine nodes f n.parent l
          (xorWords (x.words.getD zeroLine) r.1, r.2 + 1)

/-- The nodes whose tag of a line a resolution examines. -/
def examined (nodes : List (Nat × Node)) : Nat → Nat → Nat → List Nat
  | 0, _, _ => []
  | f + 1, m, l =>
    match tget m nodes with
    | none => []
    | some n =>
      m :: (match lineOf n l with
        | none => if n.parent = 0 then [] else examined nodes f n.parent l
        | some x => if x.tag < 8 then [] else examined nodes f n.parent l)

/-- Nodes a chain may have: the depth bound is 15, and DEAD nodes keep their places (15 R250). -/
def chainFuel : Nat := 64

def resolve (c : Ctx) (m l : Nat) : List Nat × Nat := resolveLine c.nodes chainFuel m l

/-- The lines stored on the chain from a node up to, not including, another (0: to the root). -/
def storedLines (nodes : List (Nat × Node)) : Nat → Nat → Nat → List Nat
  | 0, _, _ => []
  | f + 1, m, stop =>
    if m = stop then []
    else
      match tget m nodes with
      | none => []
      | some n => n.lines.map Line.idx ++ (if n.parent = 0 then [] else storedLines nodes f n.parent stop)

/-! ## Views (06 R116, 15 R247) -/

/-- Element width of a node. -/
def nodeW (n : Node) : Nat := codeWidth n.fmt

/-- Bytes of one row of a view. -/
def viewRowBytes (n : Node) (b : QWord) : Nat := tensColn b * nodeW n / 8

/-- Bytes of a view, packed. -/
def viewBytes (n : Node) (b : QWord) : Nat := tensRown b * viewRowBytes n b

/-- The line of byte o of a view and the byte's place in it. -/
def viewAt (n : Node) (b : QWord) (o : Nat) : Nat × Nat :=
  let rb := max (viewRowBytes n b) 1
  let y := tensColb b * nodeW n / 8 + o % rb
  ((tensRowb b + o / rb) * n.pitch + y / 128, y % 128)

/-- The lines a view touches, row by row. -/
def viewLines (n : Node) (b : QWord) : List Nat :=
  let lo := tensColb b * nodeW n / 8
  let hi := lo + viewRowBytes n b
  ((List.range (tensRown b)).map (fun r =>
    (List.range ((hi + 127) / 128 - lo / 128)).map (fun k => (tensRowb b + r) * n.pitch + lo / 128 + k))).flatten

/-- Byte j of a line's words. -/
def wordByte (ws : List Nat) (j : Nat) : Nat := nth 0 (j / 4) ws / 256 ^ (j % 4) % 256

/-- n bytes of a view from byte lo on, and the largest number of nodes a resolution examined. -/
def viewRead (c : Ctx) (n : Node) (b : QWord) (lo k : Nat) : List Byte × Nat :=
  let at_ := (List.range k).map (fun i => viewAt n b (lo + i))
  let ls := (at_.map Prod.fst).eraseDups.map (fun l => (l, resolve c (tensTid b) l))
  let get := fun (p : Nat × Nat) => match ls.find? (fun x => x.1 == p.1) with
    | some x => BitVec.ofNat 8 (wordByte x.2.1 p.2)
    | none => (0 : Byte)
  (at_.map get, (ls.map (fun x => x.2.2)).foldl Nat.max 1)

/-- A line of a node that an operation writes. -/
structure Edit where
  node : Nat
  idx : Nat
  tag : Nat
  words : List Nat
  deriving DecidableEq, Repr

/-- The words 128 bytes hold. -/
def wordsOf (bs : List Nat) : List Nat :=
  (List.range 32).map (fun k => nth 0 (4 * k) bs + nth 0 (4 * k + 1) bs * 256 + nth 0 (4 * k + 2) bs * 65536 + nth 0 (4 * k + 3) bs * 16777216)

/-- Encodes new content of a node's line against its parent. -/
def editOf (c : Ctx) (m : Nat) (parent l : Nat) (v : List Nat) : Edit :=
  let q := if parent = 0 then zeroLine else (resolve c parent l).1
  let e := encodeLine v q (decide (parent = 0))
  ⟨m, l, e.1, e.2⟩

/-- The edits of a write of bytes at offsets of a view (15 R261, R262), and the largest examined count. -/
def viewWrite (c : Ctx) (n : Node) (b : QWord) (data : List (Nat × Byte)) : List Edit × Nat :=
  let m := tensTid b
  let new := data.map (fun p => (viewAt n b p.1, p.2))
  let ls := (new.map (fun p => p.1.1)).eraseDups
  (ls.map (fun l =>
    let old := (resolve c m l).1
    let here := (new.filter (fun p => p.1.1 == l)).map (fun p => (p.1.2, p.2.toNat))
    let bs := (List.range 128).map (fun j => (tget j (sortBy (fun x y => x.1 ≤ y.1) here)).getD (wordByte old j))
    editOf c m n.parent l (wordsOf bs)), (ls.map (fun l => (resolve c m l).2)).foldl Nat.max 1)

/-- The edits that re-encode a node's lines against another parent: lines stored nowhere between stay INHERIT. -/
def reencode (c : Ctx) (m parent : Nat) : List Edit :=
  (storedLines c.nodes chainFuel m parent).eraseDups.map (fun l => editOf c m parent l (resolve c m l).1)

/-! ## The pool (15 R255) -/

/-- Sectors that must be free before any is returned. -/
def growth (c : Ctx) (es : List Edit) : Nat :=
  (es.map (fun e => match tget e.node c.nodes with
    | some n => tagSectors e.tag - lineSectors n e.idx
    | none => tagSectors e.tag)).sum

/-- Stores lines, taking and returning sectors. -/
def applyEdits (c : Ctx) (es : List Edit) : Ctx :=
  es.foldl (fun u e =>
    match tget e.node u.nodes with
    | none => u
    | some n =>
      { u with
        nodes := tset e.node (putLine n e.idx e.tag e.words) u.nodes
        pool := u.pool + lineSectors n e.idx - tagSectors e.tag }) c

/-! ## Reclamation (15 R251) -/

/-- A DEAD node with no pins returns its sectors and descriptor and drops its pin on its parent, in turn. -/
def reclaim : Nat → Ctx → Nat → Ctx
  | 0, c, _ => c
  | f + 1, c, m =>
    match tget m c.nodes with
    | none => c
    | some n =>
      if n.state = .dead ∧ n.pins = 0 then
        let c1 := { c with nodes := tdel m c.nodes, freed := c.freed ++ [m], pool := c.pool + n.sectors }
        match tget n.parent c1.nodes with
        | some p => reclaim f { c1 with nodes := tset n.parent { p with pins := p.pins - 1 } c1.nodes } n.parent
        | none => c1
      else c

/-- A pin is dropped. -/
def dropPin (c : Ctx) (m : Nat) : Ctx :=
  match tget m c.nodes with
  | none => c
  | some n => reclaim chainFuel { c with nodes := tset m { n with pins := n.pins - 1 } c.nodes } m

/-- A node becomes DEAD: it pins its parent until it is reclaimed. -/
def killNode (c : Ctx) (m : Nat) : Ctx :=
  match tget m c.nodes with
  | none => c
  | some n =>
    let c1 := { c with nodes := tset m { n with state := .dead, children := 0 } c.nodes }
    let c2 := match tget n.parent c1.nodes with
      | some p => { c1 with nodes := tset n.parent { p with pins := p.pins + 1 } c1.nodes }
      | none => c1
    reclaim chainFuel c2 m

/-! ## Structure of the tree (15 R252-R254) -/

/-- Live children: nodes whose PARENT is this and which are not DEAD (15 R245). -/
def childrenOf (c : Ctx) (m : Nat) : List Nat :=
  (c.nodes.filter (fun p => p.2.parent == m && p.2.state != .dead)).map Prod.fst

/-- Proper ancestors of a node, nearest first. -/
def ancestors (nodes : List (Nat × Node)) : Nat → Nat → List Nat
  | 0, _ => []
  | f + 1, m =>
    match tget m nodes with
    | none => []
    | some n => if n.parent = 0 then [] else n.parent :: ancestors nodes f n.parent

def setNode (c : Ctx) (m : Nat) (n : Node) : Ctx := { c with nodes := tset m n c.nodes }

/-- Every node below one takes the new depth of its chain; the nodes touched. -/
def redepth (c : Ctx) (m d : Nat) : Ctx × List Nat :=
  match tget m c.nodes with
  | none => (c, [])
  | some n =>
    if n.depth = d then (c, [])
    else
      let below := fun (k : Nat) => k == m || (ancestors c.nodes chainFuel k).contains m
      ({ c with nodes := c.nodes.map (fun p => if below p.1 then (p.1, { p.2 with depth := p.2.depth + d - n.depth }) else p) },
       (c.nodes.filter (fun p => below p.1)).map Prod.fst)

/-- A splice (15 R254): node s is removed and its one child k takes its place. -/
structure Splice where
  s : Nat
  k : Nat
  deriving DecidableEq, Repr

/-- The splice that the removal of node m from its parent causes. -/
def removalSplice (c : Ctx) (m : Nat) : Option Splice :=
  match tget m c.nodes with
  | none => none
  | some n =>
    match tget n.parent c.nodes with
    | none => none
    | some p =>
      if p.state = .retired then
        (match (childrenOf c n.parent).filter (fun k => k != m) with
         | [k] => some ⟨n.parent, k⟩
         | _ => none)
      else none

/-- The edits of a splice. -/
def spliceEdits (c : Ctx) (x : Splice) : List Edit :=
  match tget x.s c.nodes with
  | none => []
  | some n => reencode c x.k n.parent

/-- Performs a splice whose edits are given; the nodes touched, the parent of the spliced one among them, which the dead node pins (16
R265). -/
def doSplice (c : Ctx) (x : Splice) (es : List Edit) : Ctx × List Nat :=
  let c1 := applyEdits c es
  match tget x.s c1.nodes, tget x.k c1.nodes with
  | some n, some k =>
    let c2 := setNode c1 x.k { k with parent := n.parent }
    let r := redepth c2 x.k n.depth
    (killNode r.1 x.s, [x.s, x.k] ++ (if n.parent = 0 then [] else [n.parent]) ++ r.2)
  | _, _ => (c1, [])

/-- The removal of a child from its parent p (15 R254), with the splice it causes. -/
def removeChild (c : Ctx) (p : Nat) (x : Option Splice) (es : List Edit) : Ctx × List Nat :=
  match tget p c.nodes with
  | none => (c, [])
  | some n =>
    let n1 := { n with children := n.children - 1 }
    let n2 := if n1.state = .frozen ∧ n1.children = 0 then { n1 with state := .live } else n1
    let c1 := setNode c p n2
    match x with
    | none => (c1, [p])
    | some y =>
      let r := doSplice c1 y es
      (r.1, p :: r.2)

/-- The next free TID (15 R244): never used first, then freed ones in order. -/
def freeTid (c : Ctx) : Option Nat :=
  if c.nextTid < 2 ^ 20 then some c.nextTid
  else match c.freed with
    | m :: _ => some m
    | [] => none

/-- Takes a TID for a new node with one pin; its SERIAL is its creation's number. -/
def newNode (c : Ctx) (m : Nat) (n : Node) : Ctx :=
  { c with
    nodes := tset m { n with serial := c.serials + 1, pins := 1 } c.nodes
    serials := c.serials + 1
    nextTid := if m = c.nextTid then m + 1 else c.nextTid
    freed := c.freed.filter (fun k => k != m) }

/-! ## Operations -/

/-- What an operation on the table does: the context after, the lines written or re-encoded, the descriptors touched, the
status code, a new node, and whether it has read lines though it writes none (16 R265). -/
structure LinResult where
  ctx : Ctx
  lines : Nat
  touched : List Nat
  code : Nat
  made : Option Nat
  seen : Bool
  deriving DecidableEq, Repr

/-- An operation's answer: a fault, or its result. -/
abbrev LinAns := Except (Cause × Nat) LinResult

/-- Lines of a node. -/
def allLines (n : Node) : Nat := n.rows * n.pitch

/-- Short of sectors (15 R255): POOL with the node whose lines need them, or status 1 with .T, when the descriptors and the lines that it has
read count for its time (16 R265). -/
def shortOf (c : Ctx) (t : Bool) (m : Nat) (touched : List Nat) : LinAns :=
  if t then .ok ⟨c, 0, touched, 1, none, true⟩ else .error (.pool, m)

/-- A node's parent, if it has one. -/
def parentOf (c : Ctx) (m : Nat) : List Nat :=
  match tget m c.nodes with
  | some n => if n.parent = 0 then [] else [n.parent]
  | none => []

/-- The descriptors a splice reads: the node, its child, its parent. -/
def spliceReads (c : Ctx) (x : Option Splice) : List Nat :=
  match x with
  | some y => [y.s, y.k] ++ parentOf c y.s
  | none => []

/-- FORK of node m (15 R252). -/
def linFork (c : Ctx) (t nf : Bool) (m : Nat) (n : Node) : LinAns :=
  if n.depth + 1 ≤ n.maxd then
    match freeTid c with
    | none => if t then .ok ⟨c, 0, [m], 3, none, false⟩ else .error (.pool, 2 ^ 63 + m)
    | some k =>
      let child := { n with parent := m, depth := n.depth + 1, state := .live, lines := [], sectors := 0, children := 0, detached := false }
      let c1 := newNode c k child
      .ok ⟨setNode c1 m { n with children := n.children + 1, state := .frozen }, 0, [m, k], 0, some k, false⟩
  else if nf then .ok ⟨c, 0, [m], 2, none, false⟩
  else
    match freeTid c with
    | none => if t then .ok ⟨c, 0, [m], 3, none, false⟩ else .error (.pool, 2 ^ 63 + m)
    | some k =>
      let child := { n with parent := 0, depth := 0, state := .live, lines := [], sectors := 0, children := 0, detached := true }
      let es := (reencode c m 0).map (fun e => { e with node := k })
      if c.pool < growth { c with nodes := tdel k c.nodes } es then shortOf c t m [m]
      else .ok ⟨applyEdits (newNode c k child) es, allLines n, [m, k], 0, some k, true⟩

/-- Gives node m a new parent (0: none), with the removal from its old one (15 R253). The search for the ancestor reads the nodes between (16
R265). -/
def linReparent (c : Ctx) (t : Bool) (m : Nat) (n : Node) (a depth : Nat) : LinAns :=
  let own := reencode c m a
  let x := if n.parent = a then none else removalSplice c m
  let es := match x with
    | some y => spliceEdits c y
    | none => []
  let target := if a = 0 then [] else (ancestors c.nodes chainFuel m).takeWhile (fun k => k != a) ++ [a]
  if c.pool < growth c own + growth c es then
    shortOf c t (if growth c own = 0 then (match x with
      | some y => y.k
      | none => m) else m) (m :: target ++ parentOf c m ++ spliceReads c x)
  else
    let c1 := applyEdits c own
    let spliced := match x with
      | some y => (match tget y.k c.nodes with
        | some k => allLines k
        | none => 0)
      | none => 0
    let r := if n.parent = a then (c1, []) else
      let c2 := match tget a c1.nodes with
        | some p => setNode c1 a { p with children := p.children + 1 }
        | none => c1
      let c3 := match tget m c2.nodes with
        | some k => setNode c2 m { k with parent := a }
        | none => c2
      removeChild c3 n.parent x es
    let d := redepth r.1 m depth
    .ok ⟨d.1, allLines n + spliced, m :: target ++ r.2 ++ d.2, 0, none, true⟩

/-- FLAT (15 R253): a root is its own result. -/
def linFlat (c : Ctx) (t : Bool) (m : Nat) (n : Node) : LinAns :=
  if n.parent = 0 then .ok ⟨c, 0, [m], 0, none, false⟩ else linReparent c t m n 0 0

/-- The splice a TFREE of a node makes (15 R254). -/
def freeSplice (c : Ctx) (m : Nat) : Option Splice :=
  match childrenOf c m with
  | [k] => some ⟨m, k⟩
  | [] => removalSplice c m
  | _ => none

/-- TFREE (15 R254). -/
def linFree (c : Ctx) (t : Bool) (m : Nat) (n : Node) : LinAns :=
  let kids := childrenOf c m
  let x := freeSplice c m
  let es := match x with
    | some y => spliceEdits c y
    | none => []
  let nl := match x with
    | some y => (match tget y.k c.nodes with
      | some k => allLines k
      | none => 0)
    | none => 0
  if c.pool < growth c es then shortOf c t (match x with
    | some y => y.k
    | none => m) (m :: parentOf c m ++ spliceReads c x)
  else
    match kids with
    | [] =>
      let r := removeChild (killNode c m) n.parent x es
      .ok ⟨r.1, nl, m :: r.2, 0, none, x.isSome⟩
    | [k] =>
      let r := doSplice c ⟨m, k⟩ es
      .ok ⟨r.1, nl, m :: r.2, 0, none, x.isSome⟩
    | _ => .ok ⟨setNode c m { n with state := .retired }, 0, [m], 0, none, false⟩

/-- Writes bytes at offsets of a view, the first at lo, on every line or on none (15 R261, R262). -/
def linWriteAt (c : Ctx) (t : Bool) (n : Node) (b : QWord) (lo : Nat) (data : List (Nat × Byte)) : LinAns :=
  let m := tensTid b
  if n.state = .frozen then .error (.frozen, m + (viewAt n b lo).1 * 2 ^ 20)
  else
    let w := viewWrite c n b data
    if c.pool < growth c w.1 then shortOf c t m [m]
    else .ok ⟨applyEdits c w.1, w.1.length, [m], 0, none, true⟩

/-- Writes bytes into a view from byte lo on. -/
def linWrite (c : Ctx) (t : Bool) (n : Node) (b : QWord) (lo : Nat) (data : List Byte) : LinAns :=
  linWriteAt c t n b lo (data.zipIdx.map (fun p => (lo + p.2, p.1)))

/-! ## Times (15 R246, R263) -/

/-- The stacked-DRAM time from a cluster to a channel of a die. -/
def chanTime (cl home ch : Nat) : Nat := 180 + 4 * hops cl (home * 24 + ch) + 70 * crossings cl (home * 24 + ch)

/-- The largest time to some descriptors. -/
def descTime (cl home : Nat) (ms : List Nat) : Nat := (ms.map (fun m => chanTime cl home (m % 24))).foldl Nat.max 0

/-- The largest time to the channels of some lines. -/
def linesTime (cl home : Nat) (ls : List Nat) : Nat := ((ls.map (fun l => l / 32 % 24)).eraseDups.map (chanTime cl home)).foldl Nat.max 0

/-- The largest time to the channels of every line of a node of k lines. -/
def nodeTime (cl home k : Nat) : Nat := ((List.range (min 24 (ceilDiv k 32))).map (chanTime cl home)).foldl Nat.max 0

end Sys2Proof.Machine
end

