-- ==== Sys2Proof/Machine/Lineage.lean ====
section
/-!
DEFINITION. The lineage instructions and their events (15 R256-R263, 16 R265): issue checks, the operation at its point of
Chrysalis order, the reply, pins and the host's frees.
-/

namespace Sys2Proof.Machine

/-! ## Ranges of any alignment -/

/-- The places of a checked range of any alignment, resolved up to each multiple of 16. -/
def capRun (s : State) (core ctx : Nat) (b : QWord) (am : Bool) (n : Need) : Nat → Nat → Nat → Except Stop (List Place)
  | 0, _, _ => .ok []
  | f + 1, a, len =>
    if len = 0 then .ok []
    else do
      let k := min len (16 - a % 16)
      let p ← capPlace s core ctx b a am n
      let rest ← capRun s core ctx b am n f (a + k) (len - k)
      .ok (placeRun p k ++ rest)

/-- Fuel for a range of some bytes. -/
def runFuel (len : Nat) : Nat := len / 16 + 2

/-! ## Soft errors in Chrysalis (21 R325) -/

/-- The poison key of a node's line, or of its descriptor (line 2^28). -/
def linKey (ctx serial l : Nat) : Nat := 2 ^ 61 + (ctx * 2 ^ 40 + serial) * 2 ^ 29 + l

/-- A descriptor of a node is poisoned. -/
def descPoisoned (s : State) (ctx : Nat) (c : Ctx) (k : Nat) : Bool :=
  match s.poison with
  | [] => false
  | ps => (match tget k c.nodes with
    | none => false
    | some n => smem (linKey ctx n.serial (2 ^ 28)) ps)

/-- A node's own copy of a line is poisoned, or its metadata is corrupt (15 R247). -/
def linePoisoned (s : State) (ctx : Nat) (c : Ctx) (k l : Nat) : Bool :=
  match tget k c.nodes with
  | none => false
  | some n => smem (linKey ctx n.serial l) s.poison || (match lineOf n l with
    | some x => x.words.isNone
    | none => false)

/-- Reading some lines of a node meets an uncorrectable error: in its descriptor, or in a descriptor or a line its resolution
examines (21 R325). -/
def linPoisoned (s : State) (ctx : Nat) (c : Ctx) (m : Nat) (ls : List Nat) : Bool :=
  descPoisoned s ctx c m ||
    ls.any (fun l => (examined c.nodes chainFuel m l).any (fun k => descPoisoned s ctx c k || linePoisoned s ctx c k l))

/-- Re-encoding a node against a parent (0: none) meets an uncorrectable error. -/
def reencodePoisoned (s : State) (ctx : Nat) (c : Ctx) (m parent : Nat) : Bool :=
  let ls := (storedLines c.nodes chainFuel m parent).eraseDups
  linPoisoned s ctx c m ls || (parent != 0 && linPoisoned s ctx c parent ls)

/-- A splice meets one. -/
def splicePoisoned (s : State) (ctx : Nat) (c : Ctx) (x : Option Splice) : Bool :=
  match x with
  | none => false
  | some y => (match tget y.s c.nodes with
    | none => false
    | some n => reencodePoisoned s ctx c y.k n.parent)

/-! ## Issue -/

/-- Adds pins on the nodes an operation names, those that exist (15 R251). -/
def namedPins (s : State) (ctx : Nat) (ms : List Nat) : List Nat :=
  match getC s ctx with
  | none => []
  | some c => ms.filter (fun m => (tget m c.nodes).isSome)

/-- Sends a lineage operation to Chrysalis: the thread parks until the reply; the point of Chrysalis order is free within the
park (15 R256, 11 R214). -/
def launchLin (s : State) (tid : Nat) (t : Thread) (op : Instr) (a b d : GReg) (named : List Nat) (at_ : List Place) : State :=
  let id := s.nextId
  let pins := namedPins s t.ctx named
  let o : LinOp := ⟨tid, t.ctx, op, a, b, d, s.cycle, false, pins, at_, [], none⟩
  let s1 := pins.foldl (fun u m => addPin u t.ctx m) s
  let s2 := fresh { s1 with lins := tset id o s1.lins }
  parkAs (bump (sched s2 (s.cycle + Config.freeNat s.free % 180) (.lineageOperation id))) tid (.lineage id)

/-- The node of a TENS operand: RETIRED, DEAD or absent faults DEAD (15 R250, R256). -/
def needNode (s : State) (ctx : Nat) (b : QWord) : Except Stop (Ctx × Node) :=
  match getC s ctx with
  | none => .error (.fault .dead (tensTid b))
  | some c =>
    match tget (tensTid b) c.nodes with
    | none => .error (.fault .dead (tensTid b))
    | some n => if n.state = .retired ∨ n.state = .dead then .error (.fault .dead (tensTid b)) else .ok (c, n)

/-- A view's permission (15 R256 step 4). -/
def needView (b : QWord) (k : Nat) : Except Stop Unit := if tensPerm b k then .ok () else .error (.fault .perm (tensTid b))

/-- The minimum pitch of a row (15 R257). -/
def minPitch (cols : Nat) (fmt : Fmt) : Nat := ceilDiv (cols * fmtWidth fmt) 1024

/-- The pitch TNEW takes. -/
def newPitch (cols : Nat) (fmt : Fmt) (g : Nat) : Nat := if g % 2 ^ 16 = 0 then minPitch cols fmt else g % 2 ^ 16

/-- TNEW (15 R257). -/
def execTnew (rows cols : BitVec 24) (fmt : Fmt) (maxd : BitVec 4) (d a b : Reg) (s : State) : Host.Outcome State Fault Refusal :=
  issueWith s [d, a, b] (if fmt = .e2m1 then [a, b] else [b]) (fun i t => do
    let r := rows.toNat
    let c := cols.toNat
    let cap := (t.rd a).bits
    if fmt = .e2m1 then needKind .cap a (t.rd a) else .ok ()
    needKind .data b (t.rd b)
    destOk t d []
    let g := lo64 (t.rd b)
    let p := newPitch c fmt g
    if r = 0 ∨ c = 0 ∨ maxd = 0 then .error (.fault .bounds 0)
    else if g / 2 ^ 16 ≠ 0 ∨ p < minPitch c fmt then .error (.fault .bounds g)
    else if 2 ^ 28 < r * p then .error (.fault .bounds (r * p))
    else if fmt = .e2m1 ∧ c % 2 = 1 then .error (.fault .bounds c)
    else if fmt ≠ .e2m1 ∧ a ≠ 0 then .error (.fault .bounds a.val)
    else if fmt = .e2m1 ∧ (capOnchip cap ∨ !capRead cap ∨ !capMatrix cap) then .error (.fault .perm (capAddr cap 0))
    else if fmt = .e2m1 ∧ capLen cap < capCur cap + r * ceilDiv c 32 then .error (.fault .bounds (capAddr cap 0))
    else .ok (launchLin s i.tid t (.tnew rows cols fmt maxd d a b) (t.rd a) (t.rd b) GReg.zero [] []))

/-- TOPEN (15 R258). -/
def execTopen (colb coln : BitVec 24) (keep : BitVec 4) (d a b : Reg) (s : State) : Host.Outcome State Fault Refusal :=
  issueWith s [d, a, b] [a, b] (fun i t => do
    needKinds [.data, .tens] a (t.rd a)
    needKind .data b (t.rd b)
    destOk t d []
    let g := lo64 (t.rd b)
    if g / 2 ^ 48 ≠ 0 then .error (.fault .bounds g)
    else .ok (launchLin s i.tid t (.topen colb coln keep d a b) (t.rd a) (t.rd b) GReg.zero [tensTid (t.rd a).bits] []))

/-- FORK (15 R252, R260). -/
def execFork (ft nf : Bool) (d a st : Reg) (s : State) : Host.Outcome State Fault Refusal :=
  issueWith s [d, a, st] [a] (fun i t => do
    needKind .tens a (t.rd a)
    destOk t d []
    destOk t st []
    needView (t.rd a).bits 0
    let _ ← needNode s t.ctx (t.rd a).bits
    .ok (launchLin s i.tid t (.fork ft nf d a st) (t.rd a) GReg.zero GReg.zero [tensTid (t.rd a).bits] []))

/-- REBASE (15 R253, R260). -/
def execRebase (ft : Bool) (a b st : Reg) (s : State) : Host.Outcome State Fault Refusal :=
  issueWith s [a, b, st] [a, b] (fun i t => do
    needKind .tens a (t.rd a)
    needKinds [.data, .tens] b (t.rd b)
    destOk t st []
    needView (t.rd a).bits 0
    let _ ← needNode s t.ctx (t.rd a).bits
    .ok (launchLin s i.tid t (.rebase ft a b st) (t.rd a) (t.rd b) GReg.zero [tensTid (t.rd a).bits, tensTid (t.rd b).bits] []))

/-- FLAT (15 R253, R260). -/
def execFlat (ft : Bool) (a st : Reg) (s : State) : Host.Outcome State Fault Refusal :=
  issueWith s [a, st] [a] (fun i t => do
    needKind .tens a (t.rd a)
    destOk t st []
    needView (t.rd a).bits 0
    let _ ← needNode s t.ctx (t.rd a).bits
    .ok (launchLin s i.tid t (.flat ft a st) (t.rd a) GReg.zero GReg.zero [tensTid (t.rd a).bits] []))

/-- TFREE (15 R254, R260). -/
def execTfree (ft : Bool) (a st : Reg) (s : State) : Host.Outcome State Fault Refusal :=
  issueWith s [a, st] [a] (fun i t => do
    needKind .tens a (t.rd a)
    destOk t st []
    needView (t.rd a).bits 1
    let _ ← needNode s t.ctx (t.rd a).bits
    .ok (launchLin s i.tid t (.tfree ft a st) (t.rd a) GReg.zero GReg.zero [tensTid (t.rd a).bits] []))

/-- TINFO (15 R259). -/
def execTinfo (q : Fin 4) (d a : Reg) (s : State) : Host.Outcome State Fault Refusal :=
  issueWith s [d, a] [a] (fun i t => do
    needKinds [.data, .tens] a (t.rd a)
    destOk t d []
    .ok (launchLin s i.tid t (.tinfo q d a) (t.rd a) GReg.zero GReg.zero [tensTid (t.rd a).bits] []))

/-- TRD (15 R261): G[d] needs Write over the view's bytes in local store, stacked DRAM or LPDDR. -/
def execTrd (d a : Reg) (s : State) : Host.Outcome State Fault Refusal :=
  issueWith s [d, a] [a, d] (fun i t => do
    needKind .tens a (t.rd a)
    needKind .cap d (t.rd d)
    needView (t.rd a).bits 0
    let x ← needNode s t.ctx (t.rd a).bits
    let n := viewBytes x.2 (t.rd a).bits
    let v ← capCheck (t.rd d).bits Need.st 0 n
    let ps ← capRun s (i.tid / 16) t.ctx (t.rd d).bits false Need.st (runFuel n) v n
    if ps.all ownMemory then
      .ok (launchLin s i.tid t (.trd d a) (t.rd a) GReg.zero (t.rd d) [tensTid (t.rd a).bits] ps)
    else .error (.fault .perm v))

/-- TWR (15 R261). -/
def execTwr (ft : Bool) (a b st : Reg) (s : State) : Host.Outcome State Fault Refusal :=
  issueWith s [a, b, st] [a, b] (fun i t => do
    needKind .tens a (t.rd a)
    needKind .cap b (t.rd b)
    destOk t st []
    needView (t.rd a).bits 1
    let x ← needNode s t.ctx (t.rd a).bits
    if x.2.state = .frozen then
      .error (.fault .frozen (tensTid (t.rd a).bits + (viewAt x.2 (t.rd a).bits 0).1 * 2 ^ 20))
    else do
      let n := viewBytes x.2 (t.rd a).bits
      let v ← capCheck (t.rd b).bits Need.rd 0 n
      let ps ← capRun s (i.tid / 16) t.ctx (t.rd b).bits false Need.rd (runFuel n) v n
      .ok (launchLin s i.tid t (.twr ft a b st) (t.rd a) (t.rd b) GReg.zero [tensTid (t.rd a).bits] ps))

def tszBytes : TSz → Nat
  | .b => 1 | .h => 2 | .w => 4 | .d => 8

/-- The byte offset of TLD and TST: G[i] as signed, the sum exact (15 R262). -/
def tensOffset (g : GReg) (off : Word) : Int := s64 (lo64 g) + off.toInt

/-- ALIGN and BOUNDS of an offset in a view (15 R262). -/
def checkOffset (n : Node) (b : QWord) (o : Int) (sz : Nat) : Except (Cause × Nat) Unit :=
  let a := (o % 2 ^ 64).toNat
  if o % sz ≠ 0 then .error (.align, a)
  else if o < 0 ∨ viewBytes n b < o + sz then .error (.bounds, a)
  else
    let rb := viewRowBytes n b
    if a / rb ≠ (a + sz - 1) / rb then .error (.bounds, a) else .ok ()

/-- TLD (15 R262). -/
def execTld (sz : TSz) (d a x : Reg) (off : Word) (s : State) : Host.Outcome State Fault Refusal :=
  issueWith s [d, a, x] [a, x] (fun i t => do
    needKind .tens a (t.rd a)
    needKind .data x (t.rd x)
    destOk t d []
    needView (t.rd a).bits 0
    let _ ← needNode s t.ctx (t.rd a).bits
    .ok (launchLin s i.tid t (.tld sz d a x off) (t.rd a) (t.rd x) GReg.zero [tensTid (t.rd a).bits] []))

/-- TST (15 R262). -/
def execTst (ft : Bool) (sz : TSz) (d a x st : Reg) (off : Word) (s : State) : Host.Outcome State Fault Refusal :=
  issueWith s [d, a, x, st] [a, x, d] (fun i t => do
    needKind .tens a (t.rd a)
    needKind .data x (t.rd x)
    needKind .data d (t.rd d)
    destOk t st []
    needView (t.rd a).bits 1
    let _ ← needNode s t.ctx (t.rd a).bits
    .ok (launchLin s i.tid t (.tst ft sz d a x st off) (t.rd a) (t.rd x) (t.rd d) [tensTid (t.rd a).bits] []))

/-! ## The operation (11 R214) -/

/-- What an operation did: the state, the registers to write, its park time. -/
structure LinDone where
  st : State
  out : List (Nat × GReg)
  time : Nat

/-- The status register of a .T or .NF form (15 R256). -/
def statusOut (flag : Bool) (st : Reg) (code : Nat) : List (Nat × GReg) := if flag then [(st.val, dataOf code)] else []

/-- A descriptor's 64 bytes as a number (15 R245). A minimum pitch of 2^16 lines or more shows its low 16 bits (DESIGN CHOICE, log entry
50). -/
def descriptor (m : Nat) (n : Node) : Nat :=
  m + n.parent * 2 ^ 20 + n.depth % 16 * 2 ^ 40 + n.maxd % 16 * 2 ^ 44
    + (match n.state with | .live => 0 | .frozen => 1 | .retired => 2 | .dead => 3) * 2 ^ 48
    + n.fmt % 16 * 2 ^ 52 + (if n.detached then 2 ^ 56 else 0) + n.children % 2 ^ 32 * 2 ^ 64 + n.pins % 2 ^ 32 * 2 ^ 96
    + n.rows * 2 ^ 128 + n.cols * 2 ^ 152 + n.pitch % 2 ^ 16 * 2 ^ 176 + n.scale % 2 ^ 64 * 2 ^ 192 + n.sectors % 2 ^ 32 * 2 ^ 320
    + n.serial % 2 ^ 64 * 2 ^ 384

/-- The view TOPEN makes (15 R258). -/
def openView (b : QWord) (g colb coln keep fmt : Nat) : Except (Cause × Nat) QWord :=
  let rowb := bits g 0 24
  let rown := if bits g 24 24 = 0 then tensRown b - rowb else bits g 24 24
  let cn := if coln = 0 then tensColn b - colb else coln
  if rown = 0 ∨ tensRown b < rowb + rown then .error (.bounds, g)
  else if cn = 0 ∨ tensColn b < colb + cn then .error (.bounds, colb)
  else if fmt = 5 ∧ (colb % 2 = 1 ∨ cn % 2 = 1) then .error (.bounds, colb)
  else .ok (mkTens (tensTid b) (Nat.land (bits b.toNat 20 4) keep) (tensRowb b + rowb) rown (tensColb b + colb) cn)

/-- The node a read names: one that has died since its issue keeps its content (15 R251). -/
def nodeHeld (c : Ctx) (b : QWord) : Except (Cause × Nat) Node :=
  match tget (tensTid b) c.nodes with
  | none => .error (.dead, tensTid b)
  | some n => .ok n

/-- The node of an operand at the operation. -/
def nodeAt (c : Ctx) (b : QWord) : Except (Cause × Nat) Node :=
  match tget (tensTid b) c.nodes with
  | none => .error (.dead, tensTid b)
  | some n => if n.state = .retired ∨ n.state = .dead then .error (.dead, tensTid b) else .ok n

/-- An operation on the table, committed: its park is over the descriptors it touches, and over every line when it reads or writes lines. -/
def linCommit (s : State) (o : LinOp) (n : Node) (r : LinResult) (flag : Bool) (st : Reg) (d : Option Reg) : LinDone :=
  let cl := o.tid / 256
  let time := max (descTime cl n.die r.touched) (if r.seen then nodeTime cl n.die (allLines n) else 0) + 4 * r.lines + 16
  let made := match r.made, d with
    | some k, some x => [(x.val, (⟨.tens, wholeView k n⟩ : GReg))]
    | _, _ => []
  ⟨setC s o.ctx r.ctx, made ++ statusOut flag st r.code, time⟩

/-- An uncorrectable error an operation meets ends it (21 R325). -/
def needClean (s : State) (bad : Bool) : Except (Cause × Nat) Unit :=
  if bad then .error (.softErr, Config.freeNat s.free % 2 ^ 64) else .ok ()

/-- The on-chip places of TRD and TWR are still the context's (06 R101). -/
def needOwn (s : State) (ctx : Nat) (ps : List Place) (a : Nat) : Except (Cause × Nat) Unit :=
  if ps.all (reaches s ctx) then .ok () else .error (.perm, a)

/-- The lines of some bytes of a view: bytes of one row may lie in two (15 R262). -/
def lineSpan (n : Node) (b : QWord) (lo k : Nat) : List Nat := ((List.range k).map (fun i => (viewAt n b (lo + i)).1)).eraseDups

/-- Performs a lineage operation at its point of Chrysalis order (15 R257-R262). -/
def linPerform (s : State) (o : LinOp) (c : Ctx) : Except (Cause × Nat) LinDone :=
  let cl := o.tid / 256
  let b := o.a.bits
  let m := tensTid b
  match o.op with
  | .tnew rows cols fmt maxd d _ _ =>
    match freeTid c with
    | none => .error (.pool, 2 ^ 63)
    | some k =>
      let die := o.tid / 6144
      let cap := o.a.bits
      let n : Node := { serial := 0, sectors := 0, scale := if fmt = .e2m1 then capBase cap + capCur cap else 0
                        pitch := newPitch cols.toNat fmt (lo64 o.b), cols := cols.toNat, rows := rows.toNat, pins := 1, children := 0
                        detached := false, fmt := fmt.code, state := .live, maxd := maxd.toNat, depth := 0, parent := 0, die := die, lines := [] }
      .ok ⟨setC s o.ctx (newNode c k n), [(d.val, ⟨.tens, wholeView k n⟩)], descTime cl die [k] + 8⟩
  | .topen colb coln keep d _ _ => do
    let isData := o.a.kind == .data
    if isData ∧ lo64 o.a / 2 ^ 20 ≠ 0 then .error (.dead, m)
    else do
      let n ← nodeAt c b
      needClean s (descPoisoned s o.ctx c m)
      let v ← openView (if isData then wholeView m n else b) (lo64 o.b) colb.toNat coln.toNat keep.toNat n.fmt
      .ok ⟨addPin s o.ctx m, [(d.val, ⟨.tens, v⟩)], descTime cl n.die [m] + 8⟩
  | .fork ft nf d _ st => do
    let n ← nodeAt c b
    needClean s (if n.depth + 1 ≤ n.maxd then descPoisoned s o.ctx c m else reencodePoisoned s o.ctx c m 0)
    let r ← linFork c ft nf m n
    .ok (linCommit s o n r (ft || nf) st (some d))
  | .rebase ft _ _ st => do
    let n ← nodeAt c b
    let a := tensTid o.b.bits
    let big := o.b.kind == .data && lo64 o.b / 2 ^ 20 != 0
    match (if big then none else tget a c.nodes) with
    | none => .error (.bounds, if big then lo64 o.b else a)
    | some p =>
      if !(ancestors c.nodes chainFuel m).contains a then .error (.bounds, a)
      else if p.state = .retired then .error (.dead, a)
      else do
        needClean s (reencodePoisoned s o.ctx c m a || (n.parent != a && splicePoisoned s o.ctx c (removalSplice c m)))
        let r ← linReparent c ft m n a (p.depth + 1)
        .ok (linCommit s o n r ft st none)
  | .flat ft _ st => do
    let n ← nodeAt c b
    needClean s (reencodePoisoned s o.ctx c m 0 || splicePoisoned s o.ctx c (removalSplice c m))
    let r ← linFlat c ft m n
    .ok (linCommit s o n r ft st none)
  | .tfree ft _ st => do
    let n ← nodeAt c b
    needClean s (descPoisoned s o.ctx c m || splicePoisoned s o.ctx c (freeSplice c m))
    let r ← linFree c ft m n
    .ok (linCommit s o n r ft st none)
  | .tinfo q d _ =>
    match (if o.a.kind = .data ∧ lo64 o.a / 2 ^ 20 ≠ 0 then none else tget m c.nodes) with
    | none => .ok ⟨s, [(d.val, GReg.zero)], descTime cl (o.tid / 6144) [m] + 8⟩
    | some n => do
      needClean s (descPoisoned s o.ctx c m)
      .ok ⟨s, [(d.val, dataOf (bits (descriptor m n) (128 * q.val) 128))], descTime cl n.die [m] + 8⟩
  | .trd _ _ => do
    let n ← nodeHeld c b
    let ls := viewLines n b
    needOwn s o.ctx o.at_ (capAddr o.d.bits 0)
    needClean s (linPoisoned s o.ctx c m ls)
    let r := viewRead c n b 0 (viewBytes n b)
    let w : Writer := ⟨o.ctx, 0, 4, o.tid / 16, o.tid % 16, 0⟩
    let s1 := (perform s w (.post (o.at_.zip r.1)) o.at_).1
    .ok ⟨s1, [], max (descTime cl n.die [m]) (linesTime cl n.die ls) + 2 * ls.length + 8 * (r.2 - 1)⟩
  | .twr ft _ _ st => do
    let n ← nodeAt c b
    let ls := viewLines n b
    needOwn s o.ctx o.at_ (capAddr o.b.bits 0)
    match poisoned s o.at_ with
    | some k => .error (.softErr, k % onchipBase / 4 * 4)
    | none =>
      needClean s (linPoisoned s o.ctx c m ls)
      let k := (ls.map (fun l => (resolve c m l).2)).foldl Nat.max 1
      let r ← linWrite c ft n b 0 (o.at_.map (getByte s))
      .ok ⟨setC s o.ctx r.ctx, statusOut ft st r.code,
        max (descTime cl n.die [m]) (linesTime cl n.die ls) + 2 * r.lines + 8 * (k - 1) + 16⟩
  | .tld sz d _ _ off => do
    let n ← nodeHeld c b
    let x := tensOffset o.b off
    checkOffset n b x (tszBytes sz)
    let ls := lineSpan n b x.toNat (tszBytes sz)
    needClean s (linPoisoned s o.ctx c m ls)
    let r := viewRead c n b x.toNat (tszBytes sz)
    .ok ⟨s, [(d.val, dataOf (leNat r.1))], linesTime cl n.die ls + 8 * (r.2 - 1)⟩
  | .tst ft sz _ _ _ st off => do
    let n ← nodeAt c b
    let x := tensOffset o.b off
    let y := if x < 0 ∨ viewBytes n b ≤ x then 0 else x.toNat
    if n.state = .frozen then .error (.frozen, m + (viewAt n b y).1 * 2 ^ 20)
    else do
      checkOffset n b x (tszBytes sz)
      let ls := lineSpan n b x.toNat (tszBytes sz)
      needClean s (linPoisoned s o.ctx c m ls)
      let k := (ls.map (fun l => (resolve c m l).2)).foldl Nat.max 1
      let r ← linWrite c ft n b x.toNat (toBytes (tszBytes sz) o.d.bits.toNat)
      .ok ⟨setC s o.ctx r.ctx, statusOut ft st r.code, linesTime cl n.die ls + 8 * k + 16⟩
  | _ => .ok ⟨s, [], 0⟩

/-- Drops the pins an operation holds. -/
def dropOpPins (s : State) (o : LinOp) : State := o.pins.foldl (fun u m => sched u u.cycle (.pinDrop o.ctx m)) s

/-- LINEAGE_OPERATION (11 R214): the operation takes effect, or finds its fault; the reply follows. One whose thread has been
abandoned has no effect (21 R322). -/
def execLineageOperation (id : Nat) (s : State) : Host.Outcome State Fault Refusal :=
  match tget id s.lins with
  | none => .next s
  | some o =>
    match getC s o.ctx with
    | none => .next { s with lins := tdel id s.lins }
    | some c =>
      if o.done then .next s
      else if waitOf s o.tid ≠ some (.lineage id) then .next (dropOpPins { s with lins := tdel id s.lins } o)
      else
        match linPerform s o c with
        | .ok r => .next (sched { r.st with lins := tset id { o with done := true, out := r.out } r.st.lins } (o.issued + r.time) (.lineageReply id))
        | .error f =>
          let die := match tget (tensTid o.a.bits) c.nodes with
            | some n => n.die
            | none => o.tid / 6144
          let time := descTime (o.tid / 256) die [tensTid o.a.bits] + 8
          .next (sched (bump { s with lins := tset id { o with done := true, fault := some f } s.lins }) (o.issued + time) (.lineageReply id))

/-- LINEAGE_REPLY (15 R256): the results are written and the bundle retires, or it faults. A view goes to its register with the
pin the operation took; one that reaches no register drops it. -/
def execLineageReply (id : Nat) (s : State) : Host.Outcome State Fault Refusal :=
  match tget id s.lins with
  | none => .next s
  | some o =>
    let s1 := dropOpPins { s with lins := tdel id s.lins } o
    if waitOf s1 o.tid = some (.lineage id) then
      match o.fault with
      | some (c, a) => .next (takeFault s1 o.tid c a)
      | none =>
        let s2 := o.out.foldl (fun u e =>
          if h : e.1 < 32 then
            let u1 := setReg u o.tid ⟨e.1, h⟩ e.2
            if e.1 = 0 ∧ e.2.kind = .tens then sched u1 u1.cycle (.pinDrop o.ctx (tensTid e.2.bits)) else u1
          else u) s1
        .next (retirePast s2 o.tid)
    else
      .next (o.out.foldl (fun u e => if e.2.kind = .tens then sched u u.cycle (.pinDrop o.ctx (tensTid e.2.bits)) else u) s1)

/-- PIN_DROP (15 R251): a pin is dropped, and a DEAD node without pins is reclaimed. -/
def execPinDrop (ctx node : Nat) (s : State) : Host.Outcome State Fault Refusal :=
  match getC s ctx with
  | none => .next s
  | some c => .next (setC s ctx (dropPin c node))

/-- Moves sectors from the reserve into the pool (15 R255): 65,536, or every sector left. -/
def refillPool (c : Ctx) : Ctx :=
  let k := min 65536 c.reserve
  { c with pool := c.pool + k, reserve := c.reserve - k }

/-- A TFREE whose shortage of sectors is met from the reserve while it lasts. -/
def freeRefilling (m : Nat) (n : Node) : Nat → Ctx → Ctx
  | 0, c => c
  | f + 1, c =>
    match linFree c false m n with
    | .ok r => r.ctx
    | .error _ => if c.reserve = 0 then c else freeRefilling m n f (refillPool c)

/-- HOST_TENSOR_FREE (15 R251): the memory core performs TFREE for the host; a node already RETIRED or DEAD is left, and one whose free
meets an uncorrectable error too, since no task performs it (DESIGN CHOICE, log entry 51). -/
def execHostTensorFree (ctx node : Nat) (s : State) : Host.Outcome State Fault Refusal :=
  match getC s ctx with
  | none => .next s
  | some c =>
    match tget node c.nodes with
    | none => .next s
    | some n =>
      if n.state = .retired ∨ n.state = .dead ∨ descPoisoned s ctx c node ∨ splicePoisoned s ctx c (freeSplice c node) then .next s
      else .next (setC s ctx (freeRefilling node n (c.reserve / 65536 + 2) c))

end Sys2Proof.Machine
end

