-- ==== Sys2Proof/Machine/Engine.lean ====
section
/-!
DEFINITION. What copy engines, matrix arrays and Hawkmoth engines share (01 R15; 11 R203-R205): memory operands, operand
windows, queues, acceptance, the start of a command and its end, and the faults an engine meets (06 R117, 21 R324).
-/

namespace Sys2Proof.Machine

/-! ## Engines and queues (01 R15) -/

def engOf (s : State) (k : Nat) : Engine := nth Engine.reset (k % 8) (clusterSt s (k / 8)).engines

def setEng (s : State) (k : Nat) (e : Engine) : State :=
  let c := clusterSt s (k / 8)
  setCluster s (k / 8) { c with engines := setNth e (k % 8) c.engines }

/-- A queue's length counts the command being executed. -/
def engLoad (e : Engine) : Nat := e.queue.length + (if e.exec.isSome then 1 else 0)

/-- The copy engine a command takes: the lowest idle one, else the shortest queue, lowest number first. -/
def chooseCopy (s : State) (cl : Nat) : Nat :=
  let loads := (List.range 4).map (fun k => engLoad (engOf s (cl * 8 + k)))
  let least := loads.foldl Nat.min (nth 0 0 loads)
  cl * 8 + ((List.range 4).find? (fun k => nth 0 k loads == least)).getD 0

/-- The command a thread issues, before its engine has accepted it. -/
def newCmd (op : Instr) (tid : Nat) (t : Thread) (eng : Nat) (a b d m : GReg) (now : Nat) : Cmd :=
  { op := op, tid := tid, ctx := t.ctx, owner := t.owner, eng := eng, a := a, b := b, d := d, m := m, bar := none, notBefore := 0
    issued := now, accepted := 0, phase := .queued, pins := [], handles := [], next := 0, total := 0, data := [], dataAt := 0
    passed := 0, view := [], counts := Counts.zero, amax := 0, result := GReg.zero, result2 := GReg.zero, run := none, err := none
    live := true, ring := 2 ^ 14, mixed := false, due := 0, adds := none }

/-- The handles and nodes that operands name are counted and pinned from issue (17 R272, 15 R251). -/
def holdOperands (s : State) (tid ctx : Nat) (gs : List GReg) : State × List Nat × List Nat :=
  let hs := (gs.filter (fun g => g.kind == .coc)).map (fun g => cocHlt g.bits)
  let ps := namedPins s ctx ((gs.filter (fun g => g.kind == .tens)).map (fun g => tensTid g.bits))
  let s1 := hs.foldl (fun u k => hltActive u (tid / 256) k true) s
  (ps.foldl (fun u m => addPin u ctx m) s1, hs, ps)

/-- The lowest ring number that an engine's commands, one aside, do not use. -/
def freeRing (s : State) (eng id : Nat) : Nat :=
  let used := (s.cmds.filter (fun p => p.1 != id && p.2.eng == eng)).map (fun p => p.2.ring)
  ((List.range (used.length + 1)).find? (fun r => !used.contains r)).getD 0

/-- Commands of the same cycle and kind of engine that a higher core or slot of the cluster has issued, in that order (01 R15). -/
def issuedBehind (s : State) (c : Cmd) : List Nat :=
  let kind := fun (e : Nat) => max (e % 8) 3
  (sortBy (fun a b => decide (a.2.tid ≤ b.2.tid)) (s.cmds.filter (fun p => p.2.phase == .queued && p.2.issued == s.cycle
    && decide (c.tid < p.2.tid) && p.2.eng / 8 == c.eng / 8 && kind p.2.eng == kind c.eng))).map Prod.fst

/-- A copy command takes the engine that is the lowest idle one or has the shortest queue now. -/
def chooseAgain (s : State) (id : Nat) : State :=
  match tget id s.cmds with
  | none => s
  | some c =>
    if 4 ≤ c.eng % 8 then s
    else
      let e := chooseCopy s (c.eng / 8)
      { s with cmds := tset id { c with eng := e, ring := if isRing c then freeRing s e id else c.ring } s.cmds }

/-- A command leaves its engine's queue. -/
def unqueue (s : State) (id : Nat) : State :=
  match tget id s.cmds with
  | none => s
  | some c =>
    let e := engOf s c.eng
    setEng s c.eng { e with queue := e.queue.erase id }

/-- A command joins its engine's queue; an idle engine accepts it 4 cycles later (06 R115). -/
def enqueue (s : State) (id : Nat) : State :=
  match tget id s.cmds with
  | none => s
  | some c =>
    let e := engOf s c.eng
    let s1 := setEng s c.eng { e with queue := e.queue ++ [id] }
    if e.exec.isNone then sched s1 (s.cycle + 4) (.engineAccept id) else s1

/-- A command of this cycle joins its engine's queue, before those of the cycle that a higher core or slot has issued (01 R15). -/
def joinQueue (s : State) (id : Nat) (behind : List Nat) : State :=
  match behind with
  | [] => enqueue s id
  | later => (id :: later).foldl (fun u k => enqueue (chooseAgain u k) k) (later.foldl unqueue s)

/-- Submits a command to its engine's queue. -/
def submit (s : State) (c : Cmd) (wait : Nat → Wait) : State :=
  let id := s.nextId
  let h := holdOperands s c.tid c.ctx [c.a, c.b, c.d, c.m]
  let s1 := fresh { h.1 with cmds := tset id { c with handles := h.2.1, pins := h.2.2 } h.1.cmds }
  parkAs (joinQueue s1 id (issuedBehind s c)) c.tid (wait id)

/-! ## Memory operands of engines -/

/-- The address byte o of an operand has, for a log (21 R318). -/
def operandAddr (cl : Nat) (g : GReg) (o : Nat) : Nat :=
  match g.kind with
  | .cap => capAddr g.bits o
  | .coc => cocByteAddr cl g.bits o
  | .tens => tensTid g.bits
  | .data => g.bits.toNat + o
  | _ => o

/-- Where bytes o to o + n - 1 of a CAP or COC operand live, by the cluster's translations; a COPY packet's operand is a virtual
address held as DATA. -/
def operandPlaces (s : State) (cl ctx : Nat) (g : GReg) (am : Bool) (need : Need) (o n : Nat) : Except Stop (List Place) :=
  if g.kind = .coc then
    (List.range n).mapM (fun k => match onchip (cocByteAddr cl g.bits (o + k)) true with
      | some p => .ok p
      | none => .error (.fault .perm (cocByteAddr cl g.bits (o + k))))
  else if g.kind = .data then capRun s (cl * 16) ctx (mkCap 0 0 0 3 0) false need (runFuel n) (operandAddr cl g o) n
  else capRun s (cl * 16) ctx g.bits am need (runFuel n) (capAddr g.bits o) n

/-- Joins consecutive runs of memory keys. -/
def joinRuns : List (Nat × Nat) → List (Nat × Nat)
  | [] => []
  | (k, n) :: rest =>
    match joinRuns rest with
    | [] => [(k, n)]
    | (j, m) :: more => if k + n = j then (k, n + m) :: more else (k, n) :: (j, m) :: more

/-- The runs of memory keys of n bytes of an operand, by the tables as they stand; unmapped bytes have none. -/
def operandRuns (s : State) (cl ctx : Nat) (g : GReg) (am : Bool) : Nat → Nat → Nat → List (Nat × Nat)
  | 0, _, _ => []
  | f + 1, o, n =>
    if n = 0 then []
    else
      let a := operandAddr cl g o
      let k := min n (if g.kind = .coc then min (128 - a % 128) (max (cocRowBytes g.bits) 1 - o % max (cocRowBytes g.bits) 1)
        else if capOnchip g.bits then 16 - a % 16 else 4096 - a % 4096)
      let here := if g.kind = .coc then onchip a true
        else if capOnchip g.bits then onchip a am
        else (physOf s ctx a).map Place.phys
      match here with
      | some p => (placeKey p, k) :: operandRuns s cl ctx g am f (o + k) (n - k)
      | none => operandRuns s cl ctx g am f (o + k) (n - k)

/-- Two lists of runs share a byte. -/
def runsMeet (xs ys : List (Nat × Nat)) : Bool := xs.any (fun x => ys.any (fun y => decide (x.1 < y.1 + y.2) && decide (y.1 < x.1 + x.2)))

/-- The place a memory key below the windows stands for, for its time. -/
def keyTime (cl k : Nat) : Nat :=
  if k < onchipBase then placeTime cl (.phys k)
  else
    match onchip (k - onchipBase) false with
    | some p => placeTime cl p
    | none => 40

/-- The largest time of 06 R104 from a cluster to some runs, at 4 KiB steps (13 R232). -/
def runsTime (cl : Nat) (rs : List (Nat × Nat)) : Nat :=
  rs.foldl (fun t r => (List.range (r.2 / 4096 + 1)).foldl (fun u k => max u (keyTime cl (min (r.1 + 4096 * k) (r.1 + r.2 - 1)))) t) 40

/-- The time of an operand (06 R115, 13 R232): the largest to its bytes, or to a view's lines and descriptor. -/
def operandTime (s : State) (cl ctx : Nat) (g : GReg) (am : Bool) (n : Nat) : Nat :=
  if g.kind = .tens then
    match getC s ctx with
    | none => 40
    | some c =>
      match tget (tensTid g.bits) c.nodes with
      | none => 40
      | some d => max (descTime cl d.die [tensTid g.bits]) (linesTime cl d.die (viewLines d g.bits))
  else runsTime cl (joinRuns (operandRuns s cl ctx g am (n + 1) 0 n))

/-! ## Operand windows (11 R205) -/

/-- The line of a memory key. -/
def lineKey (k : Nat) : Nat := k / 128 * 128

/-- A free choice, the k-th drawn now. -/
def freeBit (s : State) (k : Nat) : Bool := Config.freeNat s.free / 2 ^ k % 2 == 1

/-- An engine reads bytes at places; registers, accumulators and B-store are never held in a window. A line its window holds may be served from the window; a line read at its home may be
kept, and any line may be dropped: which, is free. -/
def windowRead (s : State) (eng : Nat) (ps : List Place) : State × List Byte :=
  let e := engOf s eng
  let isReg := fun (p : Place) => match p with
    | .reg _ _ => true
    | .acc _ _ => true
    | .bstore _ _ => true
    | _ => false
  let lines := ((ps.filter (fun p => !isReg p)).map (fun p => lineKey (placeKey p))).eraseDups
  let serve := (lines.zipIdx.filter (fun l => freeBit s (2 * l.2))).map Prod.fst
  let keep := (lines.zipIdx.filter (fun l => freeBit s (2 * l.2 + 1))).map Prod.fst
  let byte := fun (p : Place) =>
    if isReg p then getByte s p
    else
      let k := placeKey p
      match (if serve.contains (lineKey k) then tget (lineKey k) e.window else none) with
      | some l => nth 0 (k % 128) l
      | none => getByte s p
  let fresh_ := keep.filter (fun l => !serve.contains l)
  let line := fun (l : Nat) => (List.range 128).map (fun j => memGet (l + j) s.mem)
  let w := (fresh_.foldl (fun u l => tset l (line l) u) e.window).take 64
  (bump (if w = e.window then s else setEng s eng { e with window := w }), ps.map byte)

/-- An engine writes bytes of lines its window holds. -/
def windowWrote (s : State) (eng : Nat) (bs : List (Place × Byte)) : State :=
  let e := engOf s eng
  match e.window with
  | [] => s
  | w => setEng s eng { e with window := w.map (fun l =>
      (l.1, bs.foldl (fun u b => if lineKey (placeKey b.1) = l.1 then setNth b.2 (placeKey b.1 % 128) u else u) l.2)) }

/-- Discards the windows of some engines of every cluster a scope around a core covers (11 R210, R219). -/
def discardWindows (s : State) (scope core : Nat) (which : Nat → Bool) : State :=
  { s with clusters := s.clusters.map (fun c =>
      let covered := match scope with
        | 0 => c.1 == core / 16
        | 1 => c.1 == core / 16
        | 2 => c.1 / 24 == core / 384
        | _ => true
      if covered then (c.1, { c.2 with engines := c.2.engines.zipIdx.map (fun e => if which e.2 then { e.1 with window := [] } else e.1) })
      else c) }

/-! ## Reading and writing by an engine -/

/-- INFO of a KIND 2 entry: word 0 of the command; a front end's command has none (21 R323). -/
def cmdInfo (c : Cmd) : DWord :=
  match c.op with
  | .nop => 0
  | op => BitVec.ofNat 64 (nth 0 0 (Bundle.encode ⟨op, none⟩))

/-- The writer an engine's command stands for (21 R323). -/
def cmdWriter (s : State) (c : Cmd) (agent : Nat) : Writer := ⟨c.ctx, taskidOf s c.owner, agent, c.tid / 16, c.eng % 8, cmdInfo c⟩

/-- The command with the lines of bytes o to o + n - 1 of a view resolved, each once and whole (11 R214); a soft error stops it. The node
stands while the command pins it (15 R251). -/
def holdLines (s : State) (c : Cmd) (g : GReg) (o n : Nat) : Except Stop Cmd :=
  if g.kind ≠ .tens then .ok c
  else
    let m := tensTid g.bits
    match (getC s c.ctx).bind (fun x => (tget m x.nodes).map (fun d => (x, d))) with
    | none => .error (.fault .dead m)
    | some (x, d) =>
      let ls := (((List.range n).map (fun k => (viewAt d g.bits (o + k)).1)).eraseDups).filter (fun l => (tget l c.view).isNone)
      if linPoisoned s c.ctx x m ls then .error (.fault .softErr (Config.freeNat s.free % 2 ^ 64))
      else .ok { c with view := c.view ++ ls.map (fun l => (l, (resolve x m l).1)) }

/-- Reads bytes o to o + n - 1 of an operand: a view through Chrysalis, memory through the window; a soft error stops it. -/
def cmdRead (s : State) (c : Cmd) (g : GReg) (am : Bool) (need : Need) (o n : Nat) : Except Stop (State × List Byte) :=
  if g.kind = .tens then do
    let c1 ← holdLines s c g o n
    match (getC s c.ctx).bind (fun x => tget (tensTid g.bits) x.nodes) with
    | none => .error (.fault .dead (tensTid g.bits))
    | some d => .ok (s, (List.range n).map (fun k =>
        let p := viewAt d g.bits (o + k)
        BitVec.ofNat 8 (wordByte ((tget p.1 c1.view).getD zeroLine) p.2)))
  else do
    let ps ← operandPlaces s (c.eng / 8) c.ctx g am need o n
    softCheck s ps
    .ok (windowRead s c.eng ps)

/-- A write reaches a register window. -/
def isRegPlace : Place → Bool
  | .reg _ _ => true
  | _ => false

/-- Bytes for register windows, at places from byte o of a destination on, one run for each register. -/
def regRuns (o : Nat) : List (Place × Byte) → List (Nat × Place × List (Nat × Byte))
  | [] => []
  | (p, b) :: rest =>
    let tail := regRuns (o + 1) rest
    match p with
    | .reg tid off =>
      (match tail with
       | (x, .reg tid2 off2, bs) :: more =>
         if x = o + 1 ∧ tid2 = tid ∧ off2 = off + 1 ∧ off2 % 16 ≠ 0 then (o, p, (off % 16, b) :: bs) :: more
         else (o, p, [(off % 16, b)]) :: tail
       | _ => (o, p, [(off % 16, b)]) :: tail)
    | _ => tail

/-- Sends a write to a register window: it arrives after what the cycle's bundles write (05 R88). -/
def sendWindow (s : State) (id : Nat) (c : Cmd) (w : Writer) (x : Nat × Place × List (Nat × Byte)) : State :=
  let r := s.nextId
  let q : Req := ⟨c.tid, .window x.2.2 w id x.1, [x.2.1], 0, true, s.cycle, 0, 0, none, false, GReg.zero, Counts.zero, 0, 0, false, none, true, [], c.owner⟩
  sched (fresh { s with reqs := tset r q s.reqs }) s.cycle (.windowWrite r)

/-- Writes bytes at places, from byte o of a destination on, for a command: granules untagged, words FULL, windows of the engine updated
(06 R116, 11 R205); what goes to a register arrives through its window. -/
def cmdWrite (s : State) (id : Nat) (c : Cmd) (agent o : Nat) (ps : List Place) (bs : List Byte) : State :=
  let plainBs := (ps.zip bs).filter (fun p => !isRegPlace p.1)
  let s1 := (perform s (cmdWriter s c agent) (.post plainBs) (plainBs.map Prod.fst)).1
  windowWrote ((regRuns o (ps.zip bs)).foldl (fun u x => sendWindow u id c (cmdWriter s c agent) x) s1) c.eng plainBs

/-! ## What an engine meets -/

/-- The name under which an engine's command stands in a fault record. -/
def cmdFaultName (id : Nat) : Nat := 2 ^ 32 + id

/-- An engine's access misses: the command waits for the walk (21 R337). -/
def cmdMiss (s : State) (id : Nat) (c : Cmd) (va : Nat) : State :=
  addMiss { s with cmds := tset id { c with phase := .faulted, err := some (.xlate, va) } s.cmds } (c.eng / 8) c.ctx va (c.tid / 16)

/-- A KIND 2 entry (21 R323, R324). -/
def logCmd (s : State) (c : Cmd) (agent : Nat) (cause : Cause) (addr : Nat) : State :=
  logError s c.ctx ⟨BitVec.ofNat 64 addr, taskidOf s c.owner, cmdInfo c, c.eng % 8, c.tid / 16 % 4096, if 8192 ≤ c.eng then 6 else agent, cause.code, 2⟩

/-- The engine is done with a command and takes the next (01 R15). -/
def freeEngine (s : State) (eng id : Nat) : State :=
  let e := engOf s eng
  if e.exec = some id then kickEngine (setEng s eng { e with exec := none }) (eng / 8) (eng % 8) else s

/-- Threads at a FENCEX that waited for a command go on (11 R219). -/
def wakeFences (s : State) (tid : Nat) : State := if waitOf s tid = some .fenceCmds then wake s tid else s

/-- A command is complete: its engine goes on, what it held is given back, and the owner's end is looked at again (04 R61). -/
def endCmd (s : State) (id : Nat) (keep : Bool) : State :=
  match tget id s.cmds with
  | none => s
  | some c =>
    let s1 := if keep then { s with cmds := tset id { c with phase := .finished, handles := [], pins := [] } s.cmds }
      else { s with cmds := tdel id s.cmds }
    let s2 := releaseCmd (freeEngine s1 c.eng id) c
    if 8192 ≤ c.eng then sched s2 s.cycle (.packetComplete (c.adds.getD 0))
  else sched (if c.live then wakeFences s2 c.tid else s2) s.cycle (.taskEnd c.owner (c.tid / 16))

/-- A task or population ends by a fault that is not resolved (21 R322): the FAULT status entry and its end. Only the first
fault of a task is reported. -/
def endByFault (s : State) (tid ctx owner : Nat) (cause : Cause) (pc : Nat) : State :=
  match getO s owner with
  | none => s
  | some o =>
    if o.phase = .ending then s
    else endOwner (addStatus s ctx (statusEntry kFault cause.code 0 (tid / 16) (tid % 16) (taskidOf s owner) pc 0) none) owner

/-- A matrix or Hawkmoth command meets a violation after acceptance (13 R231, 18 R290, 21 R324): a KIND 2 entry, the rest of the
command discarded, and the end of the issuing task. -/
def violate (s : State) (id : Nat) (c : Cmd) (agent : Nat) (cause : Cause) (addr : Nat) : State :=
  let pc := match getT s c.tid with
    | some t => t.pc.toNat
    | none => 0
  endByFault (endCmd (logCmd s c agent cause addr) id false) c.tid c.ctx c.owner cause pc

end Sys2Proof.Machine
end

