-- ==== Sys2Proof/Machine/Copy.lean ====
section
/-!
DEFINITION. Copies and copy-fed rings (06 R115-R119) and fences (11 R217-R220).
-/

namespace Sys2Proof.Machine

/-! ## Issue -/

/-- The source checks of 06 R116 for n bytes: a CAP over [CUR, CUR + n), a live handle with Read, or a view with Read. -/
def copySource (s : State) (tid : Nat) (t : Thread) (a : Reg) (n : Nat) : Except Stop Unit :=
  let g := t.rd a
  match g.kind with
  | .coc =>
    if !cocLive s (tid / 256) g.bits then .error (.fault .hltStale (cocHlt g.bits))
    else if !cocR g.bits then .error (.fault .perm (tid / 256 * 0x800000 + cocTbase g.bits))
    else if cocRcount g.bits * cocRowBytes g.bits < n then .error (.fault .bounds n)
    else .ok ()
  | .tens => do
    let c ← match getC s t.ctx with
      | some c => .ok c
      | none => .error (.fault .dead (tensTid g.bits))
    let d ← match tget (tensTid g.bits) c.nodes with
      | some d => .ok d
      | none => .error (.fault .dead (tensTid g.bits))
    if viewBytes d g.bits < n then .error (.fault .bounds n)
    else if !tensPerm g.bits 0 then .error (.fault .perm (tensTid g.bits))
    else if d.state = .retired ∨ d.state = .dead then .error (.fault .dead (tensTid g.bits))
    else .ok ()
  | _ => (capCheck g.bits Need.rd 0 n).map (fun _ => ())

/-- The destination checks of 06 R116. -/
def copyDest (s : State) (tid : Nat) (t : Thread) (d : Reg) (n : Nat) : Except Stop Unit :=
  let g := t.rd d
  match g.kind with
  | .coc =>
    if !cocLive s (tid / 256) g.bits then .error (.fault .hltStale (cocHlt g.bits))
    else if !cocW g.bits then .error (.fault .perm (tid / 256 * 0x800000 + cocTbase g.bits))
    else if cocRcount g.bits * cocRowBytes g.bits < n then .error (.fault .bounds n)
    else .ok ()
  | _ => (capCheck g.bits Need.st 0 n).map (fun _ => ())

/-- The barrier a copy credits must be one of the owner's (06 R116, 09 R175). -/
def copyBar (s : State) (tid : Nat) (t : Thread) (bv : Bool) (n : Fin 512) : Except Stop (Option Nat) :=
  if bv then (needBar s tid t n).map (fun _ => some n.val) else .ok none

/-- CPY with a not-before time (06 R116, R119). -/
def copyIssue (op : Instr) (x : CpyX) (d a b : Reg) (time : Nat) (s : State) : Host.Outcome State Fault Refusal :=
  issueWith s [d, a, b] [a, b, d] (fun i t => do
    needKinds [.cap, .coc, .tens] a (t.rd a)
    needKind .data b (t.rd b)
    needKinds [.cap, .coc] d (t.rd d)
    let n := lo64 (t.rd b)
    if 2 ^ 32 ≤ n then .error (.fault .bounds n)
    else do
      copySource s i.tid t a n
      copyDest s i.tid t d n
      let bar ← copyBar s i.tid t x.bv x.bar
      let c := newCmd op i.tid t (chooseCopy s (i.tid / 256)) (t.rd a) (t.rd b) (t.rd d) GReg.zero s.cycle
      .ok (submit s { c with total := n, bar := bar, notBefore := time } Wait.accept))

/-- CPY (06 R116). -/
def execCpy (x : CpyX) (d a b : Reg) (s : State) : Host.Outcome State Fault Refusal := copyIssue (.cpy x d a b) x d a b 0 s

/-- CPY.AT (06 R119). -/
def execCpyAt (x : CpyX) (d a b : Reg) (time : DWord) (s : State) : Host.Outcome State Fault Refusal :=
  copyIssue (.cpyAt x d a b time) x d a b time.toNat s

/-- The ring's place: the core's own local store, from a multiple of 64, whole vectors, at least two (06 R118). -/
def ringOk (tid : Nat) (b : QWord) : Bool :=
  let a := capBase b + capCur b
  let n := capLen b - capCur b
  let lo := lsAddr (tid / 16) 0
  capOnchip b && decide (capCur b ≤ capLen b) && decide (lo ≤ a) && decide (a + n ≤ lo + 0x60000) && decide (a % 64 = 0)
    && decide (n % 1024 = 0) && decide (2048 ≤ n)

/-- CPYS with a not-before time (06 R118, R119). An odd count of E2M1 elements faults BOUNDS (DESIGN CHOICE, log entry 47: R118 requires an
even one and names no cause). -/
def ringIssue (op : Instr) (x : CpysX) (d a b : Reg) (time : Nat) (s : State) : Host.Outcome State Fault Refusal :=
  issueWith s [d, a, b] [a, b] (fun i t => do
    needKinds [.cap, .coc, .tens] a (t.rd a)
    needKind .cap b (t.rd b)
    let n := x.count.toNat
    let bytes := ceilDiv (n * fmtWidth x.fmt) 8
    let g := t.rd a
    let e2m1View : Bool := g.kind == .tens &&
      (match getC s t.ctx with
       | some c => (match tget (tensTid g.bits) c.nodes with
         | some k => k.fmt == 5
         | none => false)
       | none => false)
    if (g.kind = .coc ∧ cocFmt g.bits ≠ x.fmt.code) ∨ e2m1View then .error (.fault .kind a.val)
    else do
      destOk t d []
      let rb := (t.rd b).bits
      if !capWrite rb then .error (.fault .perm (capAddr rb 0))
      else if !ringOk i.tid rb then .error (.fault .bounds (capAddr rb 0))
      else if x.fmt = .e2m1 ∧ n % 2 = 1 then .error (.fault .bounds n)
      else do
        copySource s i.tid t a bytes
        let bar ← copyBar s i.tid t x.bv x.bar
        let eng := chooseCopy s (i.tid / 256)
        let c := newCmd op i.tid t eng g (t.rd b) GReg.zero GReg.zero s.cycle
        .ok (submit s { c with total := n, bar := bar, notBefore := time, ring := freeRing s eng s.nextId } Wait.accept))

/-- CPYS (06 R118). -/
def execCpys (x : CpysX) (d a b : Reg) (s : State) : Host.Outcome State Fault Refusal := ringIssue (.cpys x d a b) x d a b 0 s

/-- CPYS.AT (06 R119). -/
def execCpysAt (x : CpysX) (d a b : Reg) (time : DWord) (s : State) : Host.Outcome State Fault Refusal :=
  ringIssue (.cpysAt x d a b time) x d a b time.toNat s

/-! ## Acceptance -/

/-- The fields of a CPYS command and its destination register. -/
def ringFields (c : Cmd) : Option (CpysX × Reg) :=
  match c.op with
  | .cpys x d _ _ => some (x, d)
  | .cpysAt x d _ _ _ => some (x, d)
  | _ => none

/-- At acceptance the copy's issuer retires; a CPYS binds its stream (06 R115, R118). -/
def acceptCopy (s : State) (id : Nat) (c : Cmd) : State :=
  if waitOf s c.tid ≠ some (.accept id) then s
  else
    let s1 := match ringFields c with
      | none => s
      | some (x, d) =>
        let v : GReg := ⟨.strm, mkStrm (capBase c.b.bits + capCur c.b.bits) x.count.toNat 0 x.fmt.code false 2 false
          (c.eng % 4 + 4 * c.ring)⟩
        let s2 := setReg s c.tid d v
        match getT s2 c.tid with
        | some t => if d = 0 then s2 else setT s2 c.tid { t with rings := t.rings ++ [(d.val, id)] }
        | none => s2
    retirePast s1 c.tid

/-- The tile a drain with .REL releases. -/
def relTile (c : Cmd) : Option Nat :=
  match c.op with
  | .mdrain x y _ => if y.rel then some x.t.val else none
  | .mdrainAt x y _ _ => if y.rel then some x.t.val else none
  | .mdraina x y _ => if y.rel then some x.t.val else none
  | .mdrainaAt x y _ _ => if y.rel then some x.t.val else none
  | _ => none

/-- Both forms of MDRAINA. -/
def addFields (op : Instr) : Option (DrainX × MdrainaX) :=
  match op with
  | .mdraina x y _ => some (x, y)
  | .mdrainaAt x y _ _ => some (x, y)
  | _ => none

/-- The peer cluster of an MDRAINA (13 R239). -/
def peerOf (g : GReg) : Nat := bits g.bits.toNat 0 8

/-- An MDRAINA adds into the tile it drains: its .REL acts after its own additions (13 R239). -/
def ownPeer (c : Cmd) : Bool :=
  match addFields c.op with
  | some (x, y) => peerOf c.a == c.eng / 8 && x.t == y.u
  | none => false

/-! How far an MDRAINA is with its peer stands in the command's `passed`: 0 it has not been answered, 1 it has, 2 it has left its array to wait
for the answer, 4 its elements are sent. -/

/-- An MDRAINA has been answered and sends nothing yet. -/
def isAnswered (c : Cmd) : Bool := (addFields c.op).isSome && c.adds.isNone && c.passed == 1

/-- The tile a drain with .REL releases has confirmed additions to come, other than its own (13 R239). -/
def additionsDue (s : State) (c : Cmd) : Bool :=
  c.adds.isNone && (match relTile c with
    | some t => decide ((if ownPeer c ∧ isAnswered c ∧ c.err.isNone then 1 else 0) < (nth Tile.reset t (clusterSt s (c.eng / 8)).tiles).confirmed)
    | none => false)

/-- A Hawkmoth engine with a held result takes no other thread's command, and a result to be restored goes ahead of every queued one
(18 R284); a drain with .REL waits for the confirmed additions into its tile, and an MDRAINA that has left its array for the answer (13
R239). -/
def mayAccept (s : State) (c : Cmd) : Bool :=
  let k := clusterSt s (c.eng / 8)
  if c.eng % 8 = 5 then
    (match k.held with
     | some h => h.tid == c.tid
     | none => k.restoring.isEmpty)
  else if c.eng % 8 = 4 ∧ c.adds.isNone then
    !((addFields c.op).isSome && c.passed == 2) && (!isAnswered c || decide (c.due ≤ s.cycle)) && (c.err.isSome || !additionsDue s c)
  else true

/-- The command of a queue that its engine takes next: the first it may accept. -/
def nextCmd (s : State) (e : Engine) : Option Nat :=
  e.queue.find? (fun j => match tget j s.cmds with
    | some c => mayAccept s c
    | none => false)

/-- ENGINE_ACCEPT (01 R15): the next of a queue becomes the command of its idle engine; a command of another context finds the
window empty (11 R205); it starts at once or at its not-before time (06 R119). -/
def execEngineAccept (id : Nat) (s : State) : Host.Outcome State Fault Refusal :=
  match tget id s.cmds with
  | none => .next s
  | some c =>
    let e := engOf s c.eng
    if c.phase ≠ .queued ∨ e.exec.isSome ∨ nextCmd s e ≠ some id then .next s
    else
      let e1 := { e with exec := some id, queue := e.queue.erase id, window := if e.lastCtx = c.ctx then e.window else [], lastCtx := c.ctx }
      let s1 := setEng { s with cmds := tset id { c with phase := .starting, accepted := s.cycle } s.cmds } c.eng e1
      let s2 := if c.eng % 8 < 4 then acceptCopy s1 id c else s1
      if s.time < c.notBefore then .next (schedAt s2 c.notBefore (.engineAtStart id))
      else .next (sched s2 s.cycle (.engineAtStart id))

/-! ## CPY at its engine (06 R115-R117) -/

/-- The address modes of a copy: source, destination. -/
def copyModes (c : Cmd) : Bool × Bool :=
  match c.op with
  | .cpy x _ _ _ => (x.sam, x.dam)
  | .cpyAt x _ _ _ _ => (x.sam, x.dam)
  | .cpys x _ _ _ => (x.sam, false)
  | .cpysAt x _ _ _ _ => (x.sam, false)
  | _ => (false, false)

/-- Where the chunk of a copy that begins at byte o ends: 64 bytes on, or at the beginning of the destination's aligned 4-byte word that
holds that byte, since the engine writes whole words (06 R107, R115). -/
def chunkEnd (c : Cmd) (o : Nat) : Nat :=
  let p := o + 64
  let row := if c.d.kind = .coc then p % max (cocRowBytes c.d.bits) 1 else p
  if c.total ≤ p then c.total else p - min (operandAddr (c.eng / 8) c.d p % 4) row

/-- Where the k-th chunk of a copy begins. -/
def chunkAt (c : Cmd) : Nat → Nat
  | 0 => 0
  | k + 1 => chunkEnd c (chunkAt c k)

/-- Chunks from byte o on. -/
def chunksFrom (c : Cmd) : Nat → Nat → Nat
  | 0, _ => 0
  | f + 1, o => if c.total ≤ o then 0 else 1 + chunksFrom c f (chunkEnd c o)

/-- Chunks of a copy, each of at most 64 bytes (06 R115). -/
def copyChunks (c : Cmd) : Nat := chunksFrom c (c.total / 61 + 1) 0

/-- The engine begins a CPY: n = 0 is complete at once; otherwise chunks are moved in a free order of rotation, one a cycle, and
the last is written in the cycle of 06 R115. -/
def startCopy (s : State) (id : Nat) (c : Cmd) : State :=
  if c.total = 0 then sched { s with cmds := tset id { c with phase := .running } s.cmds } s.cycle (.copyComplete id)
  else
    let cl := c.eng / 8
    let m := copyModes c
    let ls := operandTime s cl c.ctx c.a m.1 c.total
    let ld := operandTime s cl c.ctx c.d m.2 c.total
    let n := copyChunks c
    let mixed := c.a.kind != .tens &&
      runsMeet (joinRuns (operandRuns s cl c.ctx c.a m.1 (c.total + 1) 0 c.total)) (joinRuns (operandRuns s cl c.ctx c.d m.2 (c.total + 1) 0 c.total))
    let c1 := { c with phase := .running, passed := Config.freeNat s.free % n, due := s.cycle + ls + ceilDiv c.total 64 + ld, mixed := mixed }
    bump (sched { s with cmds := tset id c1 s.cmds } (s.cycle + ls) (.copyWrite id))

/-- COPY_ERROR (06 R117): the command ends with error status, and the address is logged. -/
def execCopyError (id : Nat) (s : State) : Host.Outcome State Fault Refusal :=
  match tget id s.cmds with
  | none => .next s
  | some c =>
    match c.err with
    | some (k, a) => .next (endCmd (logCmd s c 1 k a) id (isRing c))
    | none => .next s

/-- A copy meets a stop: a miss holds it for the walk, a violation ends it. -/
def copyStop (s : State) (id : Nat) (c : Cmd) (st : Stop) : State :=
  match st with
  | .miss va => cmdMiss s id c va
  | .fault k a => endCmd (logCmd { s with cmds := tset id { c with err := some (k, a) } s.cmds } c 1 k a) id (isRing c)
  | .wait _ => s

/-- Credits bytes o to o + n - 1 of the destination as they are written (09 R180). -/
def creditRun (s : State) (c : Cmd) (g : GReg) (o n : Nat) : State :=
  match c.bar with
  | none => s
  | some k =>
    let cl := c.eng / 8
    if g.kind = .coc then (List.range n).foldl (fun u j => credit u c.owner (c.tid / 16) k 1 (operandAddr cl g (o + j))) s
    else credit s c.owner (c.tid / 16) k n (operandAddr cl g o)

/-- Writes a chunk of a CPY and credits it; what goes to a register window is credited as it arrives there. -/
def writeChunk (s : State) (id : Nat) (c : Cmd) (o : Nat) (bs : List Byte) : Except Stop State := do
  let ps ← operandPlaces s (c.eng / 8) c.ctx c.d (copyModes c).2 Need.st o bs.length
  let s1 := cmdWrite s id c 1 o ps bs
  .ok (if ps.any isRegPlace then s1 else creditRun s1 c c.d o bs.length)

/-- The cycle in which a copy's last bytes are written: its last one, or, when they go to host memory, the one in which IO1 has accepted
them (06 R115, 11 R210). -/
def lastWrite (s : State) (c : Cmd) (o n : Nat) : Nat :=
  match operandPlaces s (c.eng / 8) c.ctx c.d (copyModes c).2 Need.st o n with
  | .ok ps => if ps.all (fun p => match p with
      | .phys pa => isHost pa
      | _ => false) then c.due - Config.hostLatency else c.due
  | .error _ => c.due

/-- COPY_WRITE (06 R115, 09 R180): the engine reads the next chunk and writes it, crediting its bytes; the last chunk read is
written last. Overlapping regions leave undefined bytes (06 R116). -/
def execCopyWrite (id : Nat) (s : State) : Host.Outcome State Fault Refusal :=
  match tget id s.cmds with
  | none => .next s
  | some c =>
    if c.phase ≠ .running then .next s
    else
      let n := copyChunks c
      let k := (c.passed + c.dataAt) % max n 1
      let o := chunkAt c k
      let len := chunkAt c (k + 1) - o
      if !c.data.isEmpty then
        match writeChunk s id c o c.data with
        | .error st => .next (copyStop s id c st)
        | .ok s1 =>
          let s2 := sched { s1 with cmds := tset id { c with data := [], next := c.total } s1.cmds } (max s.cycle c.due) (.copyComplete id)
          .next (if c.live then wakeFences s2 c.tid else s2)
      else
        match holdLines s c c.a o len with
        | .error st => .next (copyStop s id c st)
        | .ok c1 =>
          match cmdRead s c1 c.a (copyModes c).1 Need.rd o len with
          | .error st => .next (copyStop s id c1 st)
          | .ok (s1, bs0) =>
            let bs := if c.mixed then (List.range bs0.length).map (fun j => Config.freeByte (s1.free + j)) else bs0
            let s2 := bump s1
            if c.dataAt + 1 = n then
              .next (sched { s2 with cmds := tset id { c1 with data := bs } s2.cmds } (max (s.cycle + 1) (lastWrite s c o len)) (.copyWrite id))
            else
              match writeChunk s2 id c1 o bs with
              | .error st => .next (copyStop s2 id c1 st)
              | .ok s3 => .next (sched { s3 with cmds := tset id { c1 with dataAt := c.dataAt + 1 } s3.cmds } (s.cycle + 1) (.copyWrite id))

/-- WINDOW_WRITE (05 R86, R88, R89): a write reaches a register window. A thread's store is performed there. An engine's is credited as it
is written; one that is discarded leaves its command with error status PERM, and the command goes on (DEDUCED, log entry 53). -/
def execWindowWrite (id : Nat) (s : State) : Host.Outcome State Fault Refusal :=
  match tget id s.reqs with
  | none => .next s
  | some r =>
    match r.op, r.at_ with
    | .window bs w k o, .reg tid off :: _ =>
      let s1 := windowWrite { s with reqs := tdel id s.reqs } tid off bs w
      (match tget k s1.cmds with
       | none => .next s1
       | some c =>
         if (windowTarget s w.ctx tid off).isSome then .next (creditRun s1 c c.d o bs.length)
         else .next { s1 with cmds := tset k { c with err := some (.perm, windowAddr tid off) } s1.cmds })
    | _, _ => .next (performAccess s id r)

/-! ## CPYS at its engine (06 R118) -/

/-- The engine begins to fill a ring: its first line is delivered L(src) + 41 cycles after the start, a line a cycle while there is room (DESIGN
CHOICE, log entry 48: R118 gives no cycles). -/
def startRing (s : State) (id : Nat) (c : Cmd) : State :=
  let cl := c.eng / 8
  let bytes := match ringFields c with
    | some (x, _) => ceilDiv (c.total * fmtWidth x.fmt) 8
    | none => 0
  let ls := operandTime s cl c.ctx c.a (copyModes c).1 bytes
  sched { s with cmds := tset id { c with phase := .running } s.cmds } (s.cycle + ls + 41) (.cpysRingWrite id)

/-- Vector halves on a core that wait for elements go on. -/
def wakeStreams (s : State) (core : Nat) : State := wakeAll (fun tid _ w => tid / 16 == core && w == .stream) s

/-- CPYS_RING_WRITE (06 R118): up to 64 bytes of the next elements are delivered where the cursor has passed, credited, and
readable; the rest waits for room. It writes whole 4-byte words (06 R107). A ring whose thread has gone before its start ends. -/
def execCpysRingWrite (id : Nat) (s : State) : Host.Outcome State Fault Refusal :=
  match tget id s.cmds with
  | none => .next s
  | some c =>
    match ringFields c with
    | none => .next s
    | some (x, _) =>
      if c.phase = .starting ∧ !c.live then .next (endCmd s id true)
      else if c.phase ≠ .running ∨ s.cycle < c.dataAt then .next s
      else if c.total ≤ c.next then .next (sched s s.cycle (.copyComplete id))
      else
        let w := fmtWidth x.fmt
        let len := ringLen c
        let room := len * 8 / w - (c.next - c.passed)
        let k0 := min (512 / w) (min (c.total - c.next) room)
        let k := if c.next + k0 = c.total then k0 else k0 - k0 % (32 / w)
        if k = 0 then .next s
        else
          let o := c.next * w / 8
          let n := k * w / 8
          match holdLines s c c.a o n with
          | .error st => .next (copyStop s id c st)
          | .ok cv =>
          match cmdRead s cv c.a x.sam Need.rd o n with
          | .error st => .next (copyStop s id cv st)
          | .ok (s1, bs) =>
            let base := capBase c.b.bits + capCur c.b.bits
            let ps := (List.range n).filterMap (fun j => reach s1 c.ctx (base + (o + j) % len) false)
            let s2 := cmdWrite s1 id c 1 o ps bs
            let s3 := match c.bar with
              | some b => (List.range n).foldl (fun u j => credit u c.owner (c.tid / 16) b 1 (base + (o + j) % len)) s2
              | none => s2
            let c1 := { cv with next := c.next + k, dataAt := s.cycle + 1 }
            .next (sched (wakeStreams { s3 with cmds := tset id c1 s3.cmds } (c.tid / 16)) (s.cycle + 1) (.cpysRingWrite id))

/-- COPY_COMPLETE (06 R115): the engine is free. A ring's record stays for its stream's readers. -/
def execCopyComplete (id : Nat) (s : State) : Host.Outcome State Fault Refusal :=
  match tget id s.cmds with
  | none => .next s
  | some c => if c.phase = .running then .next (endCmd s id (isRing c)) else .next s

/-! ## Fences (11 R217-R220) -/

/-- The engines of a path set: copy, matrix, Hawkmoth. -/
def pathEngine (p : PathSet) (e : Nat) : Bool :=
  (p.copy && decide (e < 4)) || (p.matrix && e == 4) || (p.hawk && e == 5)

/-- A CPY has made all its reads, and what it has still to complete is writes to host memory that IO1 has accepted (11 R210). -/
def acceptedAll (c : Cmd) : Bool := !isRing c && decide (c.eng % 8 < 4) && c.phase == .running && decide (0 < c.total) && c.next == c.total

/-- A thread has a command on the paths that is not complete at a scope (11 R210, R219). -/
def cmdsOut (s : State) (tid scope : Nat) (p : PathSet) : Bool :=
  s.cmds.any (fun c => c.2.tid == tid && c.2.live && c.2.phase != .finished && pathEngine p (c.2.eng % 8)
    && !(decide (scope < 4) && acceptedAll c.2))

/-- FENCE (11 R218). -/
def execFence (sc : Scope) (s : State) : Host.Outcome State Fault Refusal :=
  issueWith s [] [] (fun i _ =>
    if !quietAt sc.code s i.tid then .error (.wait (.relaxedPoint sc.code)) else .ok (advance (dropAhead s i.tid) i.tid))

/-- FENCEX (11 R219). -/
def execFencex (sc : Scope) (p : PathSet) (s : State) : Host.Outcome State Fault Refusal :=
  issueWith s [] [] (fun i _ =>
    if p.thread ∧ !quietAt sc.code s i.tid then .error (.wait (.relaxedPoint sc.code))
    else if cmdsOut s i.tid sc.code p then .error (.wait .fenceCmds)
    else
      let s1 := if p.thread then dropAhead s i.tid else s
      .ok (advance (discardWindows s1 sc.code (i.tid / 16) (pathEngine p)) i.tid))

end Sys2Proof.Machine
end

