-- ==== Sys2Proof/Machine/Translate.lean ====
section
/-!
DEFINITION. Page walks and changes of translations (21 R334-R338).
-/

namespace Sys2Proof.Machine

/-! ## Walks (21 R337) -/

/-- The name of a walk: cluster, context and page. -/
def walkName (cl ctx va : Nat) : Nat := (cl * 64 + ctx) * 2 ^ 57 + va

/-- An older miss: by cycle, then by global core number (21 R337). -/
def missOlder (a b : Miss) : Bool := decide (a.since < b.since) || (a.since == b.since && decide (a.core ≤ b.core))

/-- The time of a walk: each read from the cluster to the table's home, and 8 cycles. -/
def walkTime (s : State) (cl ctx va : Nat) : Nat := ((pageWalk s ctx va).reads.map (fun pa => placeTime cl (.phys pa))).sum + 8

/-- PAGE_WALK_START (21 R337): while fewer than 4 walks run, the oldest of the 256 oldest pending pages starts its walk. -/
def execPageWalkStart (cl : Nat) (s : State) : Host.Outcome State Fault Refusal :=
  let c := clusterSt s cl
  let pending := (sortBy missOlder c.misses).take 256
  if 4 ≤ (c.misses.filter Miss.walking).length then .next s
  else
    match pending.find? (fun m => !m.walking) with
    | none => .next s
    | some m =>
      let c1 := { c with misses := c.misses.map (fun x => if x.ctx = m.ctx ∧ x.va = m.va then { x with walking := true } else x) }
      .next (sched (sched (setCluster s cl c1) (s.cycle + walkTime s cl m.ctx m.va) (.walkComplete (walkName cl m.ctx m.va)))
        s.cycle (.pageWalkStart cl))

/-- A held command of an engine goes on. -/
def resumeCmd (s : State) (id : Nat) (c : Cmd) : State :=
  if c.eng % 8 < 4 then
    sched { s with cmds := tset id { c with phase := .running, err := none } s.cmds } s.cycle (if isRing c then .cpysRingWrite id else .copyWrite id)
  else sched { s with cmds := tset id { c with phase := .starting, err := none } s.cmds } s.cycle (.engineAtStart id)

/-- A thread whose fetch waited for a walk issues at its first turn after it; the turns it was parked are held (04 R55, R56). -/
def fetchAgain (s : State) (tid : Nat) : State :=
  match getT s tid with
  | none => s
  | some t =>
    let n := turnAfter s.cycle (tid % 16)
    setT s tid { t with status := .ready, nextIssue := n, held := t.held + ((n - t.issueAt) / 16 - 1) }

/-- A command's access has no translation: the page fault goes to the error core, and the engine holds the command (06 R117,
13 R231). -/
def cmdFault (s : State) (id : Nat) (c : Cmd) (cause : Cause) (addr : Nat) : State :=
  let k := s.nextId
  let pc := match getT s c.tid with
    | some t => t.pc
    | none => 0
  let r : FaultRec := ⟨cmdFaultName id, c.ctx, c.owner, cause, BitVec.ofNat 64 addr, pc, taskidOf s c.owner⟩
  let s1 := fresh { s with faults := tset k r s.faults, cmds := tset id { c with phase := .faulted, err := some (cause, addr) } s.cmds }
  bump (sched s1 (s.cycle + 1 + Config.freeNat s.free) (.faultDecision k))

/-- How a walk has ended: with a valid leaf, with none, or with an uncorrectable error in an entry it read. -/
inductive WalkEnd where
  | found
  | nothing
  | soft (word : Nat)
  deriving DecidableEq, Repr

/-- What the walk of a page finds now. -/
def walkEnd (s : State) (ctx va : Nat) : WalkEnd :=
  match walkPoison s ctx va with
  | some w => .soft w
  | none => if (pageWalk s ctx va).leaf.isSome then .found else .nothing

/-- A thread's access after the walk: it goes on, or it faults. -/
def afterWalk (r : WalkEnd) (s : State) (tid x : Nat) (goOn : State → Nat → State) : State :=
  match r with
  | .found => goOn s tid
  | .nothing => takeFault s tid .xlate x
  | .soft w => takeFault s tid .softErr (wordAddr w)

/-- The end of a walk for one thread. -/
def walkDoneThread (r : WalkEnd) (cl ctx va : Nat) (s : State) (e : Nat × Thread) : State :=
  if e.1 / 256 = cl ∧ e.2.ctx = ctx then
    match e.2.status with
    | .parked (.walk x) => if pageOf x = va then afterWalk r s e.1 x wakeArriver else s
    | .parked (.fetchWalk x) => if pageOf x = va then afterWalk r s e.1 x fetchAgain else s
    | _ => s
  else s

/-- A command that reads a word with an uncorrectable error: a copy ends with error status, any other ends its task (06 R117, 13 R231). -/
def cmdSoft (s : State) (id : Nat) (c : Cmd) (w : Nat) : State :=
  if c.eng % 8 < 4 then copyStop s id c (.fault .softErr (wordAddr w))
  else violate s id c (if c.eng % 8 = 5 then 3 else 2) .softErr (wordAddr w)

/-- The end of a walk for one command. -/
def walkDoneCmd (r : WalkEnd) (cl ctx va : Nat) (s : State) (e : Nat × Cmd) : State :=
  if e.2.eng / 8 = cl ∧ e.2.ctx = ctx ∧ e.2.phase = .faulted then
    match e.2.err with
    | some (.xlate, x) =>
      if pageOf x = va ∧ !s.faults.any (fun f => f.2.tid == cmdFaultName e.1) then
        (match r with
         | .found => resumeCmd s e.1 e.2
         | .nothing => cmdFault s e.1 e.2 .xlate x
         | .soft w => cmdSoft s e.1 e.2 w)
      else s
    | _ => s
  else s

/-- WALK_COMPLETE (21 R335, R337): a valid leaf is held by the cluster and the accesses that missed go on; with none they fault
XLATE, and an entry with an uncorrectable error gives SOFT_ERR (R325). A free walker takes the next page. -/
def execWalkComplete (r : Nat) (s : State) : Host.Outcome State Fault Refusal :=
  let va := r % 2 ^ 57
  let ctx := r / 2 ^ 57 % 64
  let cl := r / 2 ^ 63
  let c := clusterSt s cl
  if c.misses.any (fun m => m.ctx == ctx && m.va == va && m.walking) then
    let rest := c.misses.filter (fun m => m.ctx != ctx || m.va != va)
    let r := walkEnd s ctx va
    let tlb := match (if r = .found then (pageWalk s ctx va).leaf else none) with
      | some (e, pb) => (⟨ctx, va / 2 ^ pb * 2 ^ pb, pb, e⟩ :: c.tlb).take 4096
      | none => c.tlb
    let s1 := setCluster s cl { c with misses := rest, tlb := tlb }
    let s2 := s.threads.foldl (walkDoneThread r cl ctx va) s1
    let s3 := s.cmds.foldl (walkDoneCmd r cl ctx va) s2
    .next (sched s3 s.cycle (.pageWalkStart cl))
  else .next s

/-! ## Changing translations (21 R334, R335, R338) -/

/-- Writes a 64-bit entry at a physical address, whole and so clean (21 R325). -/
def putEntry (s : State) (pa e : Nat) : State := cleanKeys (putKeys s pa (toBytes 8 e)) pa 8

/-- The address of an entry at a level, from a table at level n, with tables taken for the levels between. -/
def entryFor (s : State) (ctx va level : Nat) : Nat → Nat → State × Nat
  | 0, table => (s, table)
  | n + 1, table =>
    let pa := table + 8 * (if n = 3 then bits va 39 18 else bits va (12 + 9 * n) 9)
    if n + 1 = level then (s, pa)
    else
      let e := tableEntry s pa
      if entryValid e ∧ !entryLeaf e then entryFor s ctx va level n (entryPa e)
      else
        match getC s ctx with
        | none => (s, pa)
        | some c =>
          let s1 := setC (putEntry s pa (c.tables / 4096 * 4096 + 1)) ctx { c with tables := c.tables + 4096 }
          entryFor s1 ctx va level n c.tables

/-- Sets the entry for an address at a level of a context's tables. -/
def installEntry (s : State) (ctx va leaf level : Nat) : State :=
  match getC s ctx with
  | none => s
  | some c =>
    let r := entryFor s ctx va level 4 c.root
    putEntry r.1 r.2 leaf

/-- Invalidates the translations of a page in every cluster (21 R338). -/
def invalidate (s : State) (ctx va pbits : Nat) : State :=
  { s with clusters := s.clusters.map (fun c => (c.1, { c.2 with
      tlb := c.2.tlb.filter (fun e => e.ctx != ctx || va / 2 ^ max pbits e.pbits != e.va / 2 ^ max pbits e.pbits) })) }

/-- The leaves under an entry of a level: physical address and bytes of what each maps. -/
def leavesUnder (s : State) : Nat → Nat → List (Nat × Nat)
  | 0, _ => []
  | n + 1, e =>
    if !entryValid e then []
    else if entryLeaf e then [(entryPa e, 2 ^ (12 + 9 * n))]
    else (List.range 512).flatMap (fun k => leavesUnder s n (tableEntry s (entryPa e + 8 * k)))

/-- The leaves that a change of a level's entry for an address takes away: those under the entry, or the leaf of a larger page that stands in
its way. -/
def oldLeaves (s : State) (va level : Nat) : Nat → Nat → List (Nat × Nat)
  | 0, _ => []
  | n + 1, table =>
    let e := tableEntry s (table + 8 * (if n = 3 then bits va 39 18 else bits va (12 + 9 * n) 9))
    if n + 1 = level ∨ !entryValid e ∨ entryLeaf e then leavesUnder s (n + 1) e else oldLeaves s va level n (entryPa e)

/-- A place is in memory that one of some leaves maps. -/
def underLeaf (ls : List (Nat × Nat)) (p : Place) : Bool :=
  match p with
  | .phys pa => ls.any (fun l => decide (l.1 ≤ pa) && decide (pa < l.1 + l.2))
  | _ => false

/-- CSTAT arrivals that have translated a place, and have not had their record written there: thread and places (09 R185). -/
def cstatPlaces (s : State) : List (Nat × List Place) :=
  s.places.flatMap (fun p => p.2.bars.flatMap Barrier.cstat)
    ++ s.owners.flatMap (fun o => (o.2.record_.map SaveRec.bars).getD [] |>.flatMap Barrier.cstat)
    ++ s.fwds.filterMap (fun f => match f.2.op with
      | .arriveWait tid (some ps) => some (tid, ps)
      | _ => none)
    ++ s.cstats.map (fun c => (c.2.tid, c.2.at_))

/-- A thread of a context has translated a place under some leaves, and its bundle still waits: a store of a parked pair, a CSTAT. -/
def holdsPlace (s : State) (ls : List (Nat × Nat)) (tid : Nat) : Bool :=
  (getT s tid).any (fun t => (t.latch.bind Latch.held).any (fun h => underLeaf ls h.1))
    || (cstatPlaces s).any (fun c => c.1 == tid && c.2.any (underLeaf ls))
    || s.reqs.any (fun r => r.2.tid == tid && !r.2.performed && r.2.at_.any (underLeaf ls))

/-- An access in flight belongs to a context. -/
def reqOf (s : State) (ctx : Nat) (r : Req) : Bool := (getO s r.owner).all (fun o => o.ctx == ctx)

/-- TRANSLATION_CHANGE (21 R338): the memory core changes or removes an entry and invalidates it in every cluster. What was translated
through the leaves it took away keeps its effect: accesses in flight, TRD and TWR, and what threads hold translated; the change is reported
done when all of it has been performed. -/
def execTranslationChange (ctx : Nat) (va : VAddr) (x : EntryChange) (level : Nat) (s : State) : Host.Outcome State Fault Refusal :=
  if level = 0 ∨ 4 < level then .next s
  else
    let ls := match getC s ctx with
      | some c => oldLeaves s va.toNat level 4 c.root
      | none => []
    let c : XlateChange := {
      ctx := ctx, va := va, reply := x.reply, leaves := ls
      reqs := (s.reqs.filter (fun r => !r.2.performed && reqOf s ctx r.2 && r.2.at_.any (underLeaf ls))).map Prod.fst
      lins := (s.lins.filter (fun o => o.2.ctx == ctx && o.2.at_.any (underLeaf ls))).map Prod.fst
      tids := ((s.threads.filter (fun t => t.2.ctx == ctx)).map Prod.fst ++ (cstatPlaces s).map Prod.fst).eraseDups.filter (holdsPlace s ls) }
    let s1 := invalidate (installEntry s ctx va.toNat x.leaf level) ctx va.toNat (12 + 9 * (level - 1))
    .next { s1 with dev := { s1.dev with changes := s1.dev.changes ++ [c] } }

/-- Something translated before a change is still to be performed. -/
def changeOpen (s : State) (c : XlateChange) : Bool :=
  c.reqs.any (fun id => (tget id s.reqs).any (fun r => !r.performed)) || c.lins.any (fun id => (tget id s.lins).isSome)
    || c.tids.any (holdsPlace s c.leaves)

/-- A change is reported done: to the device's own record, and to the host memory its request names (23 R352; log entry 63). -/
def reportChange (s : State) (c : XlateChange) : State :=
  let s1 := replyTo s c.reply (toBytes 8 c.va.toNat)
  { s1 with dev := { s1.dev with changed := s1.dev.changed ++ [(c.ctx, c.va)] } }

/-- Changes whose accesses have all been performed are reported done, in order. -/
def settleChanges (s : State) : State :=
  match s.dev.changes with
  | [] => s
  | cs => (cs.filter (fun c => !changeOpen s c)).foldl reportChange { s with dev := { s.dev with changes := cs.filter (changeOpen s) } }

end Sys2Proof.Machine
end

