-- ==== Sys2Proof/Machine/Cocoon.lean ====
section
/-!
DEFINITION. Cocoon tiles and their handles (17 R267-R283): the instructions at issue, the handle-lineage table, granules and
their scrubbing.
-/

namespace Sys2Proof.Machine

/-! ## Handles and granules -/

/-- A handle's register from its entry (05 R79, 17 R275). -/
def cocOf (k : Nat) (e : HltEntry) : QWord :=
  BitVec.ofNat 128 (k % 2 ^ 10 + e.gen.toNat * 2 ^ 10 + e.rstart % 2 ^ 16 * 2 ^ 26 + e.rcount % 2 ^ 16 * 2 ^ 42 + e.cstart % 2 ^ 16 * 2 ^ 58
    + e.ccount % 2 ^ 16 * 2 ^ 74 + e.fmt % 16 * 2 ^ 90 + 3 * 2 ^ 94 + e.tbase % 2 ^ 23 * 2 ^ 96 + e.pitch % 2 ^ 9 * 2 ^ 119)

/-- The lowest-numbered FREE entry from k on (17 R270). -/
def freeHlt (s : State) (cl k : Nat) : Option Nat :=
  ((List.range 1024).drop k).find? (fun j => (hltEntry s cl j).state == .free)

/-- The root entry of a handle's tile (17 R270): a half leads to the entry that was split. -/
def rootEntry (s : State) (cl : Nat) : Nat → HltEntry → HltEntry
  | 0, e => e
  | n + 1, e => if e.root then e else rootEntry s cl n (hltEntry s cl e.parent)

/-- The lines of the whole tile of a handle leave every window of the cluster (11 R215, 17 R276, R277). -/
def dropTile (s : State) (cl : Nat) (e : HltEntry) : State :=
  let r := rootEntry s cl 1024 e
  let lo := r.tbase
  let hi := r.tbase + r.rcount * r.pitch * 128
  let inside := fun (k : Nat) =>
    k ≥ onchipBase &&
      (match onchip (k - onchipBase) false with
       | some (.ls core off) =>
         let o := off / 128 * 2048 + core % 16 * 128
         core / 16 == cl && decide (lo ≤ o) && decide (o < hi)
       | _ => false)
  let c := clusterSt s cl
  setCluster s cl { c with engines := c.engines.map (fun g => { g with window := g.window.filter (fun l => !inside l.1) }) }

/-- Granules a tile takes (17 R269). -/
def tileGranules (e : HltEntry) : Nat := ceilDiv (e.rcount * e.pitch) 16

/-- Granules of an owner's live tiles, over every cluster (17 R268). -/
def ownerGranules (s : State) (owner : Nat) : Nat :=
  (s.clusters.map (fun c => ((c.2.hlt.filter (fun p => p.2.root && (p.2.state == .leaf || p.2.state == .split) && p.2.owner == some owner)).map
    (fun p => tileGranules p.2)).sum)).sum

/-- A granule of the region is free: neither taken nor being scrubbed (17 R267). -/
def granuleFree (s : State) (cl g : Nat) : Bool :=
  let c := clusterSt s cl
  decide ((96 - s.cocoonUnits) * 32 ≤ g) && decide (g < 3072) &&
    (c.granules ++ c.scrubbing).all (fun p => decide (g < p.1) || decide (p.1 + p.2 ≤ g))

/-- First fit of n granules in the region. -/
def findGranules (s : State) (cl n : Nat) : Option Nat :=
  ((List.range 3072).drop ((96 - s.cocoonUnits) * 32)).find? (fun g => (List.range n).all (fun k => granuleFree s cl (g + k)))

/-- A run of granules goes to the scrubbers of the cluster's cores, 2 cycles a granule, in order of release (17 R267). -/
def scrubGranules (s : State) (cl first n : Nat) : State :=
  let cores := (List.range 16).map (fun k => cl * 16 + k)
  let s1 := cores.foldl (fun u core =>
    let c := coreSt u core
    setCore u core { c with scrubBusy := max c.scrubBusy u.cycle + 2 * n }) s
  let done := (cores.map (fun core => (coreSt s1 core).scrubBusy)).foldl Nat.max 0
  let c := clusterSt s1 cl
  sched (setCluster s1 cl { c with granules := c.granules.filter (fun p => p.1 != first), scrubbing := c.scrubbing ++ [(first, n)] }) done
    (.granuleScrubDone cl (first + n * 2 ^ 20))

/-- GRANULE_SCRUB_DONE (17 R267): the run reads zero, FULL and untagged, and is free. -/
def execGranuleScrubDone (cl r : Nat) (s : State) : Host.Outcome State Fault Refusal :=
  let first := r % 2 ^ 20
  let n := r / 2 ^ 20
  let c := clusterSt s cl
  if c.scrubbing.contains (first, n) then
    let s1 := setCluster s cl { c with scrubbing := c.scrubbing.erase (first, n) }
    .next ((List.range 16).foldl (fun u k =>
      let lo := onchipBase + lsAddr (cl * 16 + k) (first * 128)
      dropLines (clearRange u lo (lo + n * 128)) lo (lo + n * 128)) s1)
  else .next s

/-- COCOON_REGION_SET (17 R267): only while the module has no context, from 0 to 32 units. -/
def execCocoonRegionSet (c : Nat) (s : State) : Host.Outcome State Fault Refusal :=
  if s.dev.ready ∧ s.ctxs.isEmpty ∧ c ≤ 32 then .next (extendMeas { s with cocoonUnits := c } 2 (Config.sha384 (toBytes 8 c))) else .next s

/-! ## Issue -/

/-- A thread's operation at its cluster's table: it parks (17 R280). -/
def launchCoc (s : State) (tid : Nat) (op : Instr) (a b : GReg) (x y : Nat) (due : Option Nat) : State :=
  let id := s.nextId
  let s1 := fresh { s with cocs := tset id ⟨tid, op, a, b, x, y, due⟩ s.cocs }
  let at_ := match due with
    | some d => d
    | none => s.cycle
  parkAs (sched s1 at_ (.cocoonTableServe (tid / 256))) tid (.cocoon id)

/-- The bad fields of a CALLOC shape (17 R275). -/
def badShape (v : Nat) : Bool :=
  let r := bits v 0 16
  let c := bits v 16 16
  let f := bits v 32 4
  v / 2 ^ 36 != 0 || r == 0 || c == 0 || f == 5 || f == 7 || decide (511 < ceilDiv (c * codeWidth f) 1024)

/-- CALLOC (17 R275). -/
def execCalloc (d a : Reg) (s : State) : Host.Outcome State Fault Refusal :=
  issueWith s [d, a] [a] (fun i t => do
    needKind .data a (t.rd a)
    destOk t d []
    let v := lo64 (t.rd a)
    if badShape v then .error (.fault .bounds v)
    else .ok (launchCoc s i.tid (.calloc d a) (t.rd a) GReg.zero 0 0 (some (s.cycle + 40))))

/-- The register after d. -/
def nextReg (d : Reg) : Reg := if h : d.val + 1 < 32 then ⟨d.val + 1, h⟩ else 0

/-- CSPLIT (17 R276): two entries are reserved, and the operation waits for the accesses through the handle. -/
def execCsplit (col : Bool) (d a b : Reg) (s : State) : Host.Outcome State Fault Refusal :=
  issueWith s [d, nextReg d, a, b] [a, b] (fun i t => do
    needKind .coc a (t.rd a)
    needKind .data b (t.rd b)
    destOk t d [a]
    destOk t (nextReg d) [a]
    let cl := i.tid / 256
    let h := (t.rd a).bits
    let e := hltEntry s cl (cocHlt h)
    let k := lo64 (t.rd b)
    if !cocLive s cl h then .error (.fault .hltStale (cocHlt h))
    else if k = 0 ∨ (if col then e.ccount else e.rcount) ≤ k then .error (.fault .bounds k)
    else
      match freeHlt s cl 0 with
      | none => .error (.fault .hltFull 0)
      | some x =>
        match freeHlt s cl (x + 1) with
        | none => .error (.fault .hltFull 0)
        | some y =>
          let s1 := setHlt s cl x { hltEntry s cl x with state := .resv }
          let s2 := setHlt s1 cl y { hltEntry s1 cl y with state := .resv }
          .ok (launchCoc s2 i.tid (.csplit col d a b) (t.rd a) (t.rd b) x y none))

/-- The two entries are the children of one SPLIT entry, which is named (17 R277). -/
def splitOf (s : State) (cl j k : Nat) : Option Nat :=
  let p := (hltEntry s cl j).parent
  let e := hltEntry s cl p
  if !(hltEntry s cl j).root ∧ e.state = .split ∧ ((e.child0 = j ∧ e.child1 = k) ∨ (e.child0 = k ∧ e.child1 = j)) then some p else none

/-- CJOIN (17 R277). -/
def execCjoin (d a b : Reg) (s : State) : Host.Outcome State Fault Refusal :=
  issueWith s [d, a, b] [a, b] (fun i t => do
    needKind .coc a (t.rd a)
    needKind .coc b (t.rd b)
    destOk t d [a, b]
    let cl := i.tid / 256
    let h := (t.rd a).bits
    let k := (t.rd b).bits
    if !cocLive s cl h then .error (.fault .hltStale (cocHlt h))
    else if !cocLive s cl k then .error (.fault .hltStale (cocHlt k))
    else if a = b ∨ (splitOf s cl (cocHlt h) (cocHlt k)).isNone then .error (.fault .hltMismatch (cocHlt h))
    else .ok (launchCoc s i.tid (.cjoin d a b) (t.rd a) (t.rd b) 0 0 none))

/-- CFREE (17 R278). -/
def execCfree (a : Reg) (s : State) : Host.Outcome State Fault Refusal :=
  issueWith s [a] [a] (fun i t => do
    needKind .coc a (t.rd a)
    let cl := i.tid / 256
    let h := (t.rd a).bits
    if !cocLive s cl h then .error (.fault .hltStale (cocHlt h))
    else if !(hltEntry s cl (cocHlt h)).root then .error (.fault .hltMismatch (cocHlt h))
    else .ok (launchCoc s i.tid (.cfree a) (t.rd a) GReg.zero 0 0 none))

/-- CSHAPE (17 R279). -/
def execCshape (d a : Reg) (s : State) : Host.Outcome State Fault Refusal :=
  issueWith s [d, a] [a] (fun i t => do
    needKind .coc a (t.rd a)
    destOk t d []
    .ok (launchCoc s i.tid (.cshape d a) (t.rd a) GReg.zero 0 0 (some (s.cycle + 40))))

/-! ## The table (17 R280) -/

/-- The entries whose ACTIVE an operation waits on. -/
def waitsActive (o : CocOp) : List Nat :=
  match o.op with
  | .csplit _ _ _ _ => [cocHlt o.a.bits]
  | .cjoin _ _ _ => [cocHlt o.a.bits, cocHlt o.b.bits]
  | .cfree _ => [cocHlt o.a.bits]
  | _ => []

/-- CSPLIT and CJOIN are ordering points: they also wait for the thread's relaxed accesses (11 R207). -/
def ordersAccesses (o : CocOp) : Bool :=
  match o.op with
  | .csplit _ _ _ _ => true
  | .cjoin _ _ _ => true
  | _ => false

/-- An operation's entries are at rest. -/
def cocReady (s : State) (o : CocOp) : Bool := (waitsActive o).all (fun k => (hltEntry s (o.tid / 256) k).active == 0)

/-- An operation whose time has come is served; an ordering point not before its thread's relaxed accesses are complete. -/
def cocDue (s : State) (o : CocOp) : Bool :=
  (match o.due with
   | some d => decide (d ≤ s.cycle)
   | none => false) && (!ordersAccesses o || quiet s o.tid)

/-- The waiting operation's entries are at rest: its tile leaves the windows, and the table replies 40 cycles on. -/
def cocStart (s : State) (id : Nat) (o : CocOp) : State :=
  let cl := o.tid / 256
  let s1 := if ordersAccesses o then (waitsActive o).foldl (fun u k => dropTile u cl (hltEntry u cl k)) s else s
  sched { s1 with cocs := tset id { o with due := some (s.cycle + 40) } s1.cocs } (s.cycle + 40) (.cocoonTableServe cl)

/-- A consumed source: MOVED, unless it is a port or a destination takes it (05 R85). -/
def consume (s : State) (tid : Nat) (r : Reg) (dests : List Reg) : State :=
  match getT s tid with
  | none => s
  | some t => if (t.rd r).kind = .coc ∧ !dests.contains r then setMoved s tid r else s

/-- An entry becomes LEAF, held by a thread. -/
def leafOf (e : HltEntry) (tid : Nat) : HltEntry :=
  { e with state := .leaf, gen := e.gen + 1, holder := some tid, active := 0 }

/-- An entry becomes FREE; only its generation lives on. -/
def freeEntry (e : HltEntry) : HltEntry := { HltEntry.reset with gen := e.gen }

/-- CALLOC at the table (17 R275). -/
def serveCalloc (s : State) (o : CocOp) (t : Thread) (d : Reg) : State :=
  let cl := o.tid / 256
  let v := lo64 o.a
  let r := bits v 0 16
  let c := bits v 16 16
  let f := bits v 32 4
  let p := ceilDiv (c * codeWidth f) 1024
  let n := ceilDiv (r * p) 16
  let quota := match getO s t.owner with
    | some w => 2 * w.units
    | none => 0
  if quota < ownerGranules s t.owner + n then takeFault s o.tid .bounds v
  else
    match freeHlt s cl 0 with
    | none => retirePast (setReg s o.tid d (dataOf 2)) o.tid
    | some k =>
      match findGranules s cl n with
      | none => retirePast (setReg s o.tid d (dataOf 1)) o.tid
      | some g =>
        let e := { leafOf (hltEntry s cl k) o.tid with
          root := true, rstart := 0, rcount := r, cstart := 0, ccount := c, tbase := g * 2048, pitch := p, fmt := f, owner := some t.owner }
        let s1 := setHlt s cl k e
        let w := clusterSt s1 cl
        let s2 := setCluster s1 cl { w with granules := w.granules ++ [(g, n)] }
        retirePast (setReg s2 o.tid d ⟨.coc, cocOf k e⟩) o.tid

/-- CSPLIT at the table (17 R276). -/
def serveCsplit (s : State) (o : CocOp) (col : Bool) (d a : Reg) : State :=
  let cl := o.tid / 256
  let k := cocHlt o.a.bits
  let e := hltEntry s cl k
  let n := lo64 o.b
  let half := fun (j : Nat) (second : Bool) =>
    let b := { leafOf (hltEntry s cl j) o.tid with
      root := false, parent := k, rstart := e.rstart, rcount := e.rcount, cstart := e.cstart, ccount := e.ccount, tbase := e.tbase
      pitch := e.pitch, fmt := e.fmt, owner := e.owner }
    match col, second with
    | false, false => { b with rcount := n }
    | false, true => { b with rstart := e.rstart + n, rcount := e.rcount - n }
    | true, false => { b with ccount := n }
    | true, true => { b with cstart := e.cstart + n, ccount := e.ccount - n }
  let x := half o.x false
  let y := half o.y true
  let s1 := setHlt (setHlt s cl o.x x) cl o.y y
  let s2 := setHlt s1 cl k { e with state := .split, child0 := o.x, child1 := o.y, axis := col, at_ := n, holder := none }
  let s3 := consume s2 o.tid a [d, nextReg d]
  retirePast (setReg (setReg s3 o.tid d ⟨.coc, cocOf o.x x⟩) o.tid (nextReg d) ⟨.coc, cocOf o.y y⟩) o.tid

/-- CJOIN at the table (17 R277): an acquire. -/
def serveCjoin (s : State) (o : CocOp) (d a b : Reg) : State :=
  let cl := o.tid / 256
  let j := cocHlt o.a.bits
  let k := cocHlt o.b.bits
  match splitOf s cl j k with
  | none => takeFault s o.tid .hltMismatch j
  | some p =>
    let e := leafOf (hltEntry s cl p) o.tid
    let s1 := setHlt (setHlt (setHlt s cl j (freeEntry (hltEntry s cl j))) cl k (freeEntry (hltEntry s cl k))) cl p e
    let s2 := consume (consume s1 o.tid a [d]) o.tid b [d]
    retirePast (dropAhead (setReg s2 o.tid d ⟨.coc, cocOf p e⟩) o.tid) o.tid

/-- CFREE at the table (17 R278). -/
def serveCfree (s : State) (o : CocOp) (a : Reg) : State :=
  let cl := o.tid / 256
  let k := cocHlt o.a.bits
  let e := hltEntry s cl k
  let s1 := scrubGranules (setHlt s cl k (freeEntry e)) cl (e.tbase / 2048) (tileGranules e)
  retirePast (consume s1 o.tid a []) o.tid

/-- CSHAPE at the table (17 R279). -/
def serveCshape (s : State) (o : CocOp) (d : Reg) : State :=
  let h := o.a.bits
  let cl := o.tid / 256
  let root := cocLive s cl h && (hltEntry s cl (cocHlt h)).root
  let v := cocRstart h + cocRcount h * 2 ^ 16 + cocCstart h * 2 ^ 32 + cocCcount h * 2 ^ 48 + cocFmt h * 2 ^ 64
    + (if cocR h then 2 ^ 68 else 0) + (if cocW h then 2 ^ 69 else 0) + (if root then 2 ^ 70 else 0) + cocPitch h * 2 ^ 72 + cocHlt h * 2 ^ 96
  retirePast (setReg s o.tid d (dataOf v)) o.tid

/-- One operation is served. -/
def cocServe (s : State) (id : Nat) (o : CocOp) : State :=
  let s1 := { s with cocs := tdel id s.cocs }
  match getT s1 o.tid with
  | none => s1
  | some t =>
    if waitOf s1 o.tid ≠ some (.cocoon id) then s1
    else
      match o.op with
      | .calloc d _ => serveCalloc s1 o t d
      | .csplit col d a _ => serveCsplit s1 o col d a
      | .cjoin d a b => serveCjoin s1 o d a b
      | .cfree a => serveCfree s1 o a
      | .cshape d _ => serveCshape s1 o d
      | _ => s1

/-- COCOON_TABLE_SERVE (17 R270, R280): operations whose entries have come to rest are taken up, and those due are served in
order of core and slot. Tasks that end look at their tiles again (17 R283). -/
def execCocoonTableServe (cl : Nat) (s : State) : Host.Outcome State Fault Refusal :=
  let here := s.cocs.filter (fun p => p.2.tid / 256 == cl)
  let s1 := (here.filter (fun p => p.2.due.isNone)).foldl (fun u p => if cocReady u p.2 then cocStart u p.1 p.2 else u) s
  let due := sortBy (fun a b => decide (a.2.tid ≤ b.2.tid)) (here.filter (fun p => cocDue s p.2))
  let s2 := due.foldl (fun u p => cocServe u p.1 p.2) s1
  .next ((s2.places.filter (fun p => p.2.core / 16 == cl && (match getO s2 p.2.owner with
    | some o => o.phase == .ending
    | none => false))).foldl (fun u p => sched u u.cycle (.taskEnd p.2.owner p.2.core)) s2)

end Sys2Proof.Machine
end

