-- ==== Sys2Proof/Machine/Matrix.lean ====
section
/-!
DEFINITION. Matrix arrays, B-store and accumulator tiles (13 R225-R241).
-/

namespace Sys2Proof.Machine

/-! ## Geometry (13 R225, R227, R228) -/

/-- Rows and columns of a tile, and columns of a panel. -/
def tileDim (cl : Nat) : Nat := if isF4 cl then 256 else 128

/-- K_s: rows of a panel in a format. -/
def panelRows (f : Fmt) : Nat := if fmtWidth f = 16 then 128 else 256

/-- The first slice and the number of panels of a context's partition on a cluster's class. -/
def partition (s : State) (cl ctx : Nat) : Nat × Nat :=
  match getC s ctx with
  | none => (0, 0)
  | some c => if isF4 cl then (c.f4Base, c.f4Count) else (c.b16Base, c.b16Count)

/-- The memory key of a byte of a slice. -/
def sliceKey (cl slice off : Nat) : Nat := placeKey (.bstore cl (slice * 0x8000 + off))

/-- The memory key of the scale of block b of column n of a panel's slice. -/
def scaleKey (cl slice n b : Nat) : Nat := sliceKey cl (240 + slice / 16) (slice % 16 * 0x800 + n * 8 + b)

/-- The memory key of element (i, j) of a tile (06 R101). -/
def tileKey (cl t i j : Nat) : Nat := placeKey (.acc cl (t * 0x40000 + (i * tileDim cl + j) * 4))

/-- A tile of a cluster. -/
def tileOf (s : State) (cl t : Nat) : Tile := nth Tile.reset t (clusterSt s cl).tiles

def setTile (s : State) (cl t : Nat) (x : Tile) : State :=
  let c := clusterSt s cl
  setCluster s cl { c with tiles := setNth x t c.tiles }

/-- Element (i, j) of a tile. -/
def tileElem (s : State) (cl t i j : Nat) : Nat := leNat ((List.range 4).map (fun b => memGet (tileKey cl t i j + b) s.mem))

/-- Writes bytes from a memory key on; words written are clean (21 R325). -/
def putClean (s : State) (k : Nat) (bs : List Byte) : State :=
  let s1 := putKeys s k bs
  match s1.poison with
  | [] => s1
  | ps => { s1 with poison := ps.filter (fun w => decide (w < k) || decide (k + bs.length < w + 4)) }

/-- Writes consecutive elements of a tile's row. -/
def putElems (s : State) (cl t i j : Nat) (vs : List Nat) : State := putClean s (tileKey cl t i j) (vs.map (toBytes 4)).flatten

/-- A released tile is zeroed, its state reset, and waiting claims are looked at (13 R229). -/
def releaseTile (s : State) (cl t : Nat) : State :=
  let k := placeKey (.acc cl (t * 0x40000))
  sched (setTile (clearRange s k (k + 0x40000)) cl t Tile.reset) s.cycle (.minitClaimGrant cl)

/-! ## Operands (13 R231) -/

/-- The first of a list of values that a condition refuses faults BOUNDS. -/
def needRange (ok : Bool) (v : Nat) : Except Stop Unit := if ok then .ok () else .error (.fault .bounds v)

/-- A view in a matrix role: Matrix and Read or Write, enough rows and columns, a node that is neither DEAD nor RETIRED nor, to
be written, FROZEN, and its format. -/
def matView (s : State) (t : Thread) (r : Reg) (write : Bool) (f : Fmt) (rows cols : Nat) : Except Stop Unit := do
  let b := (t.rd r).bits
  if !tensPerm b 2 || !tensPerm b (if write then 1 else 0) then .error (.fault .perm (tensTid b))
  else if tensRown b < rows then .error (.fault .bounds rows)
  else if tensColn b < cols then .error (.fault .bounds cols)
  else if f = .e2m1 ∧ tensColb b % 32 ≠ 0 then .error (.fault .bounds (tensColb b))
  else do
    let x ← needNode s t.ctx b
    if write ∧ x.2.state = .frozen then .error (.fault .frozen (tensTid b + (viewAt x.2 b 0).1 * 2 ^ 20))
    else if x.2.fmt ≠ f.code then .error (.fault .kind r.val)
    else .ok ()

/-- A handle in a matrix role. -/
def matHandle (s : State) (cl : Nat) (t : Thread) (r : Reg) (write : Bool) (f : Fmt) (rows cols : Nat) : Except Stop Unit :=
  let b := (t.rd r).bits
  if !cocLive s cl b then .error (.fault .hltStale (cocHlt b))
  else if (write && !cocW b) || (!write && !cocR b) then .error (.fault .perm (cl * 0x800000 + cocTbase b))
  else if cocRcount b < rows then .error (.fault .bounds rows)
  else if cocCcount b < cols then .error (.fault .bounds cols)
  else if cocCstart b * codeWidth (cocFmt b) / 8 % 4 ≠ 0 then .error (.fault .align (cocByteAddr cl b 0))
  else if cocFmt b ≠ f.code then .error (.fault .kind r.val)
  else .ok ()

/-- Bytes of a CAP operand: rows at a pitch, and E2M1 scale rows behind them. -/
def matExtent (f : Fmt) (rows cols pitch : Nat) : Nat :=
  let e := (rows - 1) * pitch + ceilDiv (cols * fmtWidth f) 8
  if f = .e2m1 then max e (rows * pitch + rows * ceilDiv cols 32) else e

/-- A capability in a matrix role: Matrix and Read or Write, its bytes within LEN, start and pitch multiples of 4. -/
def matCap (t : Thread) (r : Reg) (write : Bool) (f : Fmt) (rows cols pitch : Nat) : Except Stop Unit := do
  let b := (t.rd r).bits
  let a ← capCheck b ⟨false, !write, write, false, true⟩ 0 (matExtent f rows cols pitch)
  if a % 4 ≠ 0 ∨ pitch % 4 ≠ 0 then .error (.fault .align a) else .ok ()

/-- The capability, handle and view checks of a rows × cols operand. -/
def matOperand (s : State) (cl : Nat) (t : Thread) (r : Reg) (write : Bool) (f : Fmt) (rows cols pitch : Nat) : Except Stop Unit :=
  match (t.rd r).kind with
  | .tens => matView s t r write f rows cols
  | .coc => matHandle s cl t r write f rows cols
  | _ => matCap t r write f rows cols pitch

/-- A tile must be the task's (13 R229). -/
def needTile (s : State) (cl : Nat) (t : Thread) (k : Nat) : Except Stop Unit :=
  if (tileOf s cl k).owner = some t.owner then .ok () else .error (.fault .perm k)

/-- A memory role takes a CAP, a COC or a TENS; a PORT there is no read that pops, and faults KIND (13 R231 item 2). -/
def needMemory (r : Reg) (g : GReg) : Except Stop Unit := needKinds [.cap, .coc, .tens] r g

/-- Fields that only a CAP operand has must be zero beside another kind (13 R233, R234, R237; 02 R36). -/
def needNoPitch (t : Thread) (r : Reg) (pitch : Nat) : Except Stop Unit :=
  let k := (t.rd r).kind
  if (k = .tens ∨ k = .coc) ∧ pitch ≠ 0 then .error (.fault .illegal t.pc.toNat) else .ok ()

/-- A format the cluster's array accepts (01 R14, 13 R226). -/
def arrayTakes (cl : Nat) (f : Fmt) : Bool :=
  match f with
  | .e2m1 => isF4 cl
  | .b16 | .f16 | .e4m3 | .e5m2 => !isF4 cl
  | _ => false

/-- The combinations of 13 R226. -/
def formatsMeet (fa fb : Fmt) : Bool :=
  fa == fb || ((fa == .e4m3 || fa == .e5m2) && (fb == .e4m3 || fb == .e5m2))

def needLegal (t : Thread) (ok : Bool) : Except Stop Unit := if ok then .ok () else .error (.fault .illegal t.pc.toNat)

/-- The array of a thread's cluster. -/
def arrayOf (tid : Nat) : Nat := tid / 256 * 8 + 4

/-- Hands a command to the array; the thread parks until it completes (13 R231 item 4). -/
def submitArray (s : State) (op : Instr) (tid : Nat) (t : Thread) (a d : GReg) (notBefore : Nat) : State :=
  submit s { newCmd op tid t (arrayOf tid) a GReg.zero d GReg.zero s.cycle with notBefore := notBefore } Wait.command

/-! ## Issue (13 R233, R234, R237) -/

/-- BLOAD (13 R233). -/
def execBload (x : BloadX) (a : Reg) (s : State) : Host.Outcome State Fault Refusal :=
  issueWith s [a] [] (fun i t => do
    let cl := i.tid / 256
    needLegal t (arrayTakes cl x.fmt)
    needNoPitch t a x.pitch.toNat
    needMemory a (t.rd a)
    needRange (decide (x.p.toNat < (partition s cl t.ctx).2)) x.p.toNat
    needRange (decide (1 ≤ x.k.toNat) && decide (x.k.toNat ≤ panelRows x.fmt) && (x.fmt != .e2m1 || x.k.toNat % 2 == 0)) x.k.toNat
    needRange (decide (1 ≤ x.n.toNat) && decide (x.n.toNat ≤ tileDim cl)) x.n.toNat
    matOperand s cl t a false x.fmt x.n.toNat x.k.toNat x.pitch.toNat
    .ok (submitArray s (.bload x a) i.tid t (t.rd a) GReg.zero 0))

/-- The tiles a MINIT names. -/
def minitTiles (x : MinitX) : List Nat := (List.range 4).filter (fun k => x.tiles.getLsbD k)

/-- Rows of a tile: at least one, within it. -/
def needRows (cl row0 rows : Nat) : Except Stop Unit :=
  if rows = 0 ∨ tileDim cl < rows then .error (.fault .bounds rows)
  else if tileDim cl < row0 + rows then .error (.fault .bounds row0)
  else .ok ()

/-- A claim waits behind the earlier ones, and of its cycle behind those of lower cores and slots (01 R15, 13 R233). -/
def awaitClaim (s : State) (cl id : Nat) (c : Cmd) : State :=
  let k := clusterSt s cl
  let first := fun (i j : Nat) => i == id && (tget j s.cmds).any (fun x => x.issued == c.issued && decide (c.tid < x.tid))
  sched (setCluster s cl { k with claims := insertBy first id k.claims }) s.cycle (.minitClaimGrant cl)

/-- MINIT (13 R233): a claim of tiles the task does not own waits before it joins the queue. -/
def execMinit (x : MinitX) (a : Reg) (s : State) : Host.Outcome State Fault Refusal :=
  issueWith s [a] [a] (fun i t => do
    let cl := i.tid / 256
    needKind .data a (t.rd a)
    needRange (x.tiles != 0) 0
    needRows cl x.row0.toNat x.rows.toNat
    let ks := minitTiles x
    if ks.all (fun k => (tileOf s cl k).owner == some t.owner) then
      .ok (submitArray s (.minit x a) i.tid t (t.rd a) GReg.zero 0)
    else if (List.range 4).any (fun k => (tileOf s cl k).owner == some t.owner) then .error (.fault .perm x.tiles.toNat)
    else
      let id := s.nextId
      let c := newCmd (.minit x a) i.tid t (arrayOf i.tid) (t.rd a) GReg.zero GReg.zero GReg.zero s.cycle
      let s1 := fresh { s with cmds := tset id { c with phase := .claiming } s.cmds }
      .ok (parkAs (awaitClaim s1 cl id c) i.tid (.claim id)))

/-- A packed run of n bytes as a matrix source: MPLOAD's entries. -/
def matPacked (s : State) (cl : Nat) (t : Thread) (r : Reg) (n : Nat) : Except Stop Unit :=
  let g := t.rd r
  match g.kind with
  | .tens => do
    if !tensPerm g.bits 2 || !tensPerm g.bits 0 then .error (.fault .perm (tensTid g.bits))
    else do
      let x ← needNode s t.ctx g.bits
      if viewBytes x.2 g.bits < n then .error (.fault .bounds n) else .ok ()
  | .coc =>
    if !cocLive s cl g.bits then .error (.fault .hltStale (cocHlt g.bits))
    else if !cocR g.bits then .error (.fault .perm (cl * 0x800000 + cocTbase g.bits))
    else if cocRcount g.bits * cocRowBytes g.bits < n then .error (.fault .bounds n)
    else if cocCstart g.bits * codeWidth (cocFmt g.bits) / 8 % 4 ≠ 0 then .error (.fault .align (cocByteAddr cl g.bits 0))
    else .ok ()
  | _ => do
    let a ← capCheck g.bits ⟨false, true, false, false, true⟩ 0 n
    if a % 4 ≠ 0 then .error (.fault .align a) else .ok ()

/-- MPLOAD (13 R233). -/
def execMpload (x : MploadX) (a : Reg) (s : State) : Host.Outcome State Fault Refusal :=
  issueWith s [a] [] (fun i t => do
    let cl := i.tid / 256
    needMemory a (t.rd a)
    needRows cl x.row0.toNat x.rows.toNat
    matPacked s cl t a (8 * x.rows.toNat)
    needTile s cl t x.t.val
    .ok (submitArray s (.mpload x a) i.tid t (t.rd a) GReg.zero 0))

/-- MSTAT's OWN (13 R233). -/
def ownCode (s : State) (t : Thread) (o : Option Nat) : Nat :=
  match o with
  | none => 0
  | some k =>
    if k = t.owner then 1
    else match getO s k with
      | some w => if w.ctx = t.ctx then 2 else 3
      | none => 3

/-- MSTAT (13 R233): read in its own turn; a tile of any owner may be named. -/
def execMstat (k : Fin 4) (d : Reg) (s : State) : Host.Outcome State Fault Refusal :=
  issueWith s [d] [] (fun i t => do
    destOk t d []
    let cl := i.tid / 256
    let x := tileOf s cl k.val
    let e := engOf s (arrayOf i.tid)
    let own := ownCode s t x.owner
    let v := (if own = 1 then x.init.toNat else 0) + (if e.exec.isSome then 2 ^ 32 else 0) + own * 2 ^ 33
      + (if own = 1 then x.drows * 2 ^ 35 else 0) + min e.queue.length 255 * 2 ^ 44
    .ok (advance (setReg s i.tid d (dataOf v)) i.tid))

/-- P of 13 R232: panels of a product. -/
def panelCount (x : MmaX) : Nat := ceilDiv x.k.toNat (panelRows x.fa)

/-- The limits of 13 R234. -/
def mmaLimits (s : State) (cl ctx : Nat) (x : MmaX) : Except Stop Unit := do
  needRows cl x.row0.toNat x.m.toNat
  needRange (decide (1 ≤ x.k.toNat) && decide (x.k.toNat ≤ 16 * panelRows x.fa) && (x.fa != .e2m1 || x.k.toNat % 2 == 0)) x.k.toNat
  needRange (decide (x.p0.toNat + panelCount x ≤ (partition s cl ctx).2)) x.p0.toNat

/-- MMA (13 R234, R235). -/
def execMma (x : MmaX) (a : Reg) (s : State) : Host.Outcome State Fault Refusal :=
  issueWith s [a] [] (fun i t => do
    let cl := i.tid / 256
    needLegal t (arrayTakes cl x.fa && arrayTakes cl x.fb && formatsMeet x.fa x.fb)
    needNoPitch t a x.pitch.toNat
    needMemory a (t.rd a)
    mmaLimits s cl t.ctx x
    matOperand s cl t a false x.fa x.m.toNat x.k.toNat x.pitch.toNat
    needTile s cl t x.t.val
    .ok (submitArray s (.mma x a) i.tid t (t.rd a) GReg.zero 0))

/-- A node is a proper ancestor of another on its current chain (13 R236). -/
def isAncestor (s : State) (ctx m anc : Nat) : Bool :=
  match getC s ctx with
  | none => false
  | some c => (ancestors c.nodes chainFuel m).contains anc

/-- MMAD (13 R234, R236). -/
def execMmad (x : MmaX) (d a : Reg) (s : State) : Host.Outcome State Fault Refusal :=
  issueWith s [d, a] (if d = a then [] else [d]) (fun i t => do
    let cl := i.tid / 256
    needLegal t (arrayTakes cl x.fa && arrayTakes cl x.fb && formatsMeet x.fa x.fb && x.pitch == 0)
    needKind .tens a (t.rd a)
    needKind .tens d (t.rd d)
    mmaLimits s cl t.ctx x
    matOperand s cl t a false x.fa x.m.toNat x.k.toNat 0
    if !isAncestor s t.ctx (tensTid (t.rd a).bits) (tensTid (t.rd d).bits) then .error (.fault .bounds (tensTid (t.rd d).bits))
    else do
      needTile s cl t x.t.val
      .ok (submitArray s (.mmad x d a) i.tid t (t.rd a) (t.rd d) 0))

/-- A drain's destination format (13 R226). -/
def drainTakes (f : Fmt) : Bool :=
  match f with
  | .f32 | .b16 | .f16 | .e4m3 | .e5m2 => true
  | _ => false

/-- The limits of X1 of a drain (13 R237). -/
def drainLimits (cl : Nat) (x : DrainX) : Except Stop Unit := do
  needRows cl x.row0.toNat x.rows.toNat
  needRange (decide (1 ≤ x.ncols.toNat) && decide (x.ncols.toNat ≤ tileDim cl)) x.ncols.toNat

/-- MDRAIN with a not-before time (13 R237, R238). -/
def drainIssue (op : Instr) (x : DrainX) (y : MdrainX) (d : Reg) (time : Nat) (s : State) : Host.Outcome State Fault Refusal :=
  issueWith s [d] [] (fun i t => do
    let cl := i.tid / 256
    needLegal t (drainTakes y.fmt)
    needNoPitch t d y.pitch.toNat
    needMemory d (t.rd d)
    drainLimits cl x
    needRange ((t.rd d).kind != .cap || decide (x.ncols.toNat * fmtWidth y.fmt / 8 ≤ y.pitch.toNat)) y.pitch.toNat
    matOperand s cl t d true y.fmt x.rows.toNat x.ncols.toNat y.pitch.toNat
    needTile s cl t x.t.val
    .ok (submitArray s op i.tid t GReg.zero (t.rd d) time))

/-- MDRAIN (13 R237, R238). -/
def execMdrain (x : DrainX) (y : MdrainX) (d : Reg) (s : State) : Host.Outcome State Fault Refusal :=
  drainIssue (.mdrain x y d) x y d 0 s

/-- MDRAIN.AT (13 R237). -/
def execMdrainAt (x : DrainX) (y : MdrainX) (d : Reg) (time : DWord) (s : State) : Host.Outcome State Fault Refusal :=
  drainIssue (.mdrainAt x y d time) x y d time.toNat s

/-- MDRAINA with a not-before time (13 R237, R239). -/
def addIssue (op : Instr) (x : DrainX) (y : MdrainaX) (a : Reg) (time : Nat) (s : State) : Host.Outcome State Fault Refusal :=
  issueWith s [a] [a] (fun i t => do
    let cl := i.tid / 256
    needKind .data a (t.rd a)
    drainLimits cl x
    let p := peerOf (t.rd a)
    if 192 ≤ p then .error (.fault .msgDest p)
    else do
      needRange (decide (y.prow0.toNat + x.rows.toNat ≤ tileDim p)) y.prow0.toNat
      needRange (decide (y.pcol0.toNat + x.ncols.toNat ≤ tileDim p)) y.pcol0.toNat
      needTile s cl t x.t.val
      .ok (submitArray s op i.tid t (t.rd a) GReg.zero time))

/-- MDRAINA (13 R237, R239). -/
def execMdraina (x : DrainX) (y : MdrainaX) (a : Reg) (s : State) : Host.Outcome State Fault Refusal :=
  addIssue (.mdraina x y a) x y a 0 s

/-- MDRAINA.AT (13 R237). -/
def execMdrainaAt (x : DrainX) (y : MdrainaX) (a : Reg) (time : DWord) (s : State) : Host.Outcome State Fault Refusal :=
  addIssue (.mdrainaAt x y a time) x y a time.toNat s

/-! ## Claims (13 R233 MINIT) -/

/-- A waiting claim whose tiles are free, or its task's, and named by no earlier claim. -/
def claimReady (s : State) (cl : Nat) (c : Cmd) (blocked : List Nat) : Bool :=
  match c.op with
  | .minit x _ => (minitTiles x).all (fun k => !blocked.contains k && ((tileOf s cl k).owner.isNone || (tileOf s cl k).owner == some c.owner))
  | _ => false

def claimTiles (c : Cmd) : List Nat :=
  match c.op with
  | .minit x _ => minitTiles x
  | _ => []

/-- A granted claim owns its tiles and joins the array's queue, one of this cycle before the commands of higher cores (01 R15); an idle array
accepts it 4 cycles on, though a drain with .REL that waits for additions stands before it. -/
def grantClaim (s : State) (cl id : Nat) (c : Cmd) : State :=
  let s1 := (claimTiles c).foldl (fun u k => setTile u cl k { tileOf u cl k with owner := some c.owner }) s
  let k := clusterSt s1 cl
  let s2 := setCluster { s1 with cmds := tset id { c with phase := .queued } s1.cmds } cl { k with claims := k.claims.filter (fun j => j != id) }
  parkAs (if c.issued = s.cycle then joinQueue s2 id (issuedBehind s2 c) else enqueue s2 id) c.tid (.command id)

/-- MINIT_CLAIM_GRANT (13 R233): waiting claims in order of issue. -/
def execMinitClaimGrant (cl : Nat) (s : State) : Host.Outcome State Fault Refusal :=
  .next ((clusterSt s cl).claims.foldl (fun (p : State × List Nat) id =>
    match tget id p.1.cmds with
    | none => p
    | some c => if claimReady p.1 cl c p.2 then (grantClaim p.1 cl id c, p.2) else (p.1, p.2 ++ claimTiles c)) (s, [])).1

/-! ## Reading operands -/

/-- Bytes from one row of an operand to the next. -/
def rowStride (s : State) (ctx : Nat) (g : GReg) (pitch : Nat) : Nat :=
  match g.kind with
  | .coc => cocRowBytes g.bits
  | .tens => (match getC s ctx with
    | some c => (match tget (tensTid g.bits) c.nodes with
      | some n => viewRowBytes n g.bits
      | none => 0)
    | none => 0)
  | _ => pitch

/-- Reads n bytes of each of some rows of an operand. -/
def readRows (s : State) (c : Cmd) (g : GReg) (am : Bool) (stride n : Nat) : List Nat → Except Stop (State × List Byte)
  | [] => .ok (s, [])
  | r :: rest => do
    let x ← cmdRead s c g am Need.rd (r * stride) n
    let y ← readRows x.1 c g am stride n rest
    .ok (y.1, x.2 ++ y.2)

/-- A capability over n bytes of memory, for the scales a descriptor names (07 R122). -/
def scaleCap (a n : Nat) : GReg := ⟨.cap, mkCap a n 0 1 0⟩

/-- Where the scales of an operand's row stand: a CAP and an offset in it (07 R122, 13 R231 item 3). -/
def scaleRow (s : State) (ctx : Nat) (g : GReg) (rows pitch k r : Nat) : GReg × Nat :=
  match g.kind with
  | .tens => (match getC s ctx with
    | some c => (match tget (tensTid g.bits) c.nodes with
      | some n => (scaleCap (n.scale + (tensRowb g.bits + r) * ceilDiv n.cols 32 + tensColb g.bits / 32) (ceilDiv k 32), 0)
      | none => (scaleCap 0 0, 0))
    | none => (scaleCap 0 0, 0))
  | _ => (g, rows * pitch + r * ceilDiv k 32)

/-- Reads the scales of some rows. -/
def readScales (s : State) (c : Cmd) (g : GReg) (am : Bool) (rows pitch k : Nat) : List Nat → Except Stop (State × List Byte)
  | [] => .ok (s, [])
  | r :: rest => do
    let w := scaleRow s c.ctx g rows pitch k r
    let x ← cmdRead s c w.1 am Need.rd w.2 (ceilDiv k 32)
    let y ← readScales x.1 c g am rows pitch k rest
    .ok (y.1, x.2 ++ y.2)

/-- Reads rows of an operand of k elements each: the elements' bytes, then in E2M1 the scales. -/
def readOperand (s : State) (c : Cmd) (f : Fmt) (am : Bool) (rows pitch k : Nat) (which : List Nat) : Except Stop (State × List Byte) := do
  let x ← readRows s c c.a am (rowStride s c.ctx c.a pitch) (ceilDiv (k * fmtWidth f) 8) which
  if f = .e2m1 then do
    let y ← readScales x.1 c c.a am rows pitch k which
    .ok (y.1, x.2 ++ y.2)
  else .ok x

/-! ## Products (13 R235) -/

/-- Element k of a row of packed elements that starts at a byte. -/
def packedElem (f : Fmt) (byte : Nat → Nat) (k : Nat) : FVal :=
  let w := fmtWidth f
  let v := if w = 4 then byte (k / 2) / 16 ^ (k % 2) % 16 else (if w = 8 then byte k else byte (2 * k) + 256 * byte (2 * k + 1))
  valueOf f v

/-- An element under its block's scale; a scale of 0xFF makes it NaN. -/
def scaled (v : FVal) (scale : Nat) : FVal := (mulExact v (valueOf .s8 scale)).getD .nan

/-- Row q of a product's A among n rows that were read. -/
def aRow (f : Fmt) (data : List Byte) (n k q : Nat) : List FVal :=
  let rb := ceilDiv (k * fmtWidth f) 8
  let row := data.drop (q * rb)
  let sc := data.drop (n * rb + q * ceilDiv k 32)
  let byte := fun (o : Nat) => (nth (0 : Byte) o row).toNat
  (List.range k).map (fun e =>
    let v := packedElem f byte e
    if f = .e2m1 then scaled v (nth (0 : Byte) (e / 32) sc).toNat else v)

/-- Column j of the B matrix held in the panels from a slice on. -/
def bColumn (s : State) (cl : Nat) (f : Fmt) (slice k j : Nat) : List FVal :=
  (List.range k).map (fun e =>
    let sl := slice + e / panelRows f
    let kk := e % panelRows f
    let byte := fun (o : Nat) => (memGet (sliceKey cl sl (j * (if f = .e2m1 then 128 else 256) + o)) s.mem).toNat
    let v := packedElem f byte kk
    if f = .e2m1 then scaled v (memGet (scaleKey cl sl j (kk / 32)) s.mem).toNat else v)

/-- The exact sum of products; none for 0 × ∞ or infinities of both signs. -/
def dot : List FVal → List FVal → FVal → Option FVal
  | a :: as, b :: bs, acc =>
    match mulExact a b with
    | none => none
    | some p =>
      match acc, p with
      | .inf x, .inf y => if x = y then dot as bs acc else none
      | .inf _, _ => dot as bs acc
      | _, .inf y => dot as bs (.inf y)
      | .fin n1 m1 e1, .fin n2 m2 e2 => dot as bs (addExact .rne n1 m1 e1 n2 m2 e2)
      | _, _ => none
  | _, _, acc => some acc

/-- c + s with s a number whose zero has no sign, rounded once (13 R235). -/
def accumulate (c : Nat) (v : FVal) : Nat × Counts :=
  match v with
  | .fin _ 0 _ => addF f32L .rne (decodeF f32L c) (.fin false 0 0)
  | _ => addF f32L .rne (decodeF f32L c) v

/-- One element of a product. -/
def macElem (as bs : List FVal) (c : Nat) : Nat × Counts :=
  if as.any FVal.isNan || bs.any FVal.isNan || (decodeF f32L c).isNan then (f32L.canon, cNan)
  else
    match dot as bs (.fin false 0 0) with
    | none => (f32L.canon, cInv)
    | some v => accumulate c v

/-- Adds one row of a product to a tile's row; a row to be recomputed starts from INIT. -/
def mmaRow (s : State) (cl : Nat) (t row : Nat) (cols : List (List FVal)) (as : List FVal) (init : Option Nat) : State × Counts :=
  let out := cols.zipIdx.map (fun p => macElem as p.1 (match init with
    | some v => v
    | none => tileElem s cl t row p.2))
  (putElems s cl t row 0 (out.map Prod.fst), (out.map Prod.snd).foldl Counts.add Counts.zero)

/-- The rows of a product, over the rows of A that were read. -/
def mmaRows (s : State) (cl : Nat) (x : MmaX) (slice : Nat) (data : List Byte) (which : List Nat) (init : Option Nat) : State × Counts :=
  let k := x.k.toNat
  let cols := (List.range (tileDim cl)).map (bColumn s cl x.fb slice k)
  which.zipIdx.foldl (fun p r =>
    let y := mmaRow p.1 cl x.t.val (x.row0.toNat + r.1) cols (aRow x.fa data which.length k r.2) init
    (y.1, Counts.add p.2 y.2)) (s, Counts.zero)

/-- The rows of an MMAD's view that differ between the child and the ancestor (13 R236). -/
def rowsDiffer (c : Ctx) (n : Node) (b : QWord) (anc rows : Nat) : List Nat :=
  let path := (tensTid b :: ancestors c.nodes chainFuel (tensTid b)).takeWhile (fun m => m != anc)
  let stored := fun (l : Nat) => path.any (fun m => match tget m c.nodes with
    | some k => k.lines.any (fun x => x.idx == l)
    | none => false)
  let lo := tensColb b * nodeW n / 8
  let hi := lo + viewRowBytes n b
  (List.range rows).filter (fun r =>
    ((List.range ((hi + 127) / 128 - lo / 128)).map (fun k => (tensRowb b + r) * n.pitch + lo / 128 + k)).any stored)

/-! ## Drains (13 R238) -/

/-- The mask parameter entry of a row. -/
def maskEntry (x : Tile) (i : Nat) : Nat := (tget i x.maskp).getD 0xFFFF

/-- Column j of a row with an entry is visible (13 R230). -/
def visible (e j : Nat) : Bool :=
  bits e 48 1 == 0 &&
    (decide (j < bits e 0 16) || (decide (bits e 16 16 ≤ j) && decide (j ≤ bits e 16 16 + 15) && bits e (32 + (j - bits e 16 16)) 1 == 1))

/-- -∞ of a destination format; for E4M3, -448. -/
def maskedOut (f : Fmt) : Nat :=
  match f with
  | .f32 => 0xFF800000
  | .b16 => 0xFF80
  | .f16 => 0xFC00
  | .e5m2 => 0xFC
  | _ => 0xFE

/-- One drained element: its pattern, counts, and the value AMAX takes. -/
def drainElem (f : Fmt) (masked : Bool) (v : Nat) : Nat × Counts × Option FVal :=
  if masked then (maskedOut f, Counts.zero, none)
  else
    let r := convert f .rne (decodeF f32L v)
    (r.1, r.2, some (decodeF f32L v))

/-- A drained row: its bytes, counts and values. -/
def drainRow (s : State) (cl : Nat) (x : DrainX) (y : MdrainX) (r : Nat) : List Byte × Counts × List FVal :=
  let i := x.row0.toNat + r
  let e := maskEntry (tileOf s cl x.t.val) i
  let out := (List.range x.ncols.toNat).map (fun j => drainElem y.fmt (y.mask && !visible e j) (tileElem s cl x.t.val i j))
  ((out.map (fun o => toBytes (fmtWidth y.fmt / 8) o.1)).flatten, (out.map (fun o => o.2.1)).foldl Counts.add Counts.zero, out.filterMap (fun o => o.2.2))

/-- .CLR: every element of the rows becomes INIT. -/
def clearRows (s : State) (cl t row0 rows : Nat) : State :=
  let v := (tileOf s cl t).init.toNat
  (List.range rows).foldl (fun u r => putElems u cl t (row0 + r) 0 (List.replicate (tileDim cl) v)) s

/-- .CLR and .REL at the end of a drain. -/
def drainEnd (s : State) (cl : Nat) (x : DrainX) (clr rel : Bool) : State :=
  let s1 := if clr then clearRows s cl x.t.val x.row0.toNat x.rows.toNat else s
  if rel then releaseTile s1 cl x.t.val else s1

/-- Places of the rows of a CAP or COC destination, row by row. -/
def destRows (s : State) (c : Cmd) (am : Bool) (stride n : Nat) : List Nat → Except Stop (List Place)
  | [] => .ok []
  | r :: rest => do
    let ps ← operandPlaces s (c.eng / 8) c.ctx c.d am Need.st (r * stride) n
    let qs ← destRows s c am stride n rest
    .ok (ps ++ qs)

/-! ## Running a command -/

/-- Both forms of MDRAIN. -/
def drainFields (op : Instr) : Option (DrainX × MdrainX) :=
  match op with
  | .mdrain x y _ => some (x, y)
  | .mdrainAt x y _ _ => some (x, y)
  | _ => none

/-- A matrix command meets a stop: a miss and a shortage hold it, a violation ends the task (13 R231 item 5). -/
def matStop (s : State) (id : Nat) (c : Cmd) (st : Stop) : State :=
  match st with
  | .miss va => cmdMiss s id c va
  | .fault .pool a => cmdFault s id c .pool a
  | .fault k a => violate s id c 2 k a
  | .wait _ => s

/-- The command runs with what it has read, and completes some cycles on. -/
def runFor (s : State) (id : Nat) (c : Cmd) (data : List Byte) (n : Nat) : State :=
  sched { s with cmds := tset id { c with phase := .running, data := data, due := s.cycle + n } s.cmds } (s.cycle + n) (.matrixComplete id)

/-- What a command reads at its start, with the cycles it takes (13 R232); an MMAD also finds the rows that differ. -/
def matStart (s : State) (c : Cmd) : Except Stop (State × List Byte × Nat × Nat) :=
  let cl := c.eng / 8
  let time := fun (g : GReg) (am : Bool) (n : Nat) => operandTime s cl c.ctx g am n
  match c.op with
  | .bload x _ => do
    let n := x.n.toNat
    let k := x.k.toNat
    let r ← readOperand s c x.fmt x.am n x.pitch.toNat k (List.range n)
    .ok (r.1, r.2, time c.a x.am (matExtent x.fmt n k x.pitch.toNat) + ceilDiv r.2.length 64 + 16, 0)
  | .minit x _ => .ok (s, [], ceilDiv x.rows.toNat 8 * (minitTiles x).length + 4, 0)
  | .mpload x _ => do
    let n := 8 * x.rows.toNat
    let r ← cmdRead s c c.a x.am Need.rd 0 n
    .ok (r.1, r.2, time c.a x.am n + ceilDiv n 64 + 4, 0)
  | .mma x _ => do
    let m := x.m.toNat
    let r ← readOperand s c x.fa x.am m x.pitch.toNat x.k.toNat (List.range m)
    .ok (r.1, r.2, time c.a x.am (matExtent x.fa m x.k.toNat x.pitch.toNat) + panelCount x * m + 24, 0)
  | .mmad x _ _ =>
    let m := tensTid c.a.bits
    let anc := tensTid c.d.bits
    match getC s c.ctx with
    | none => .error (.fault .dead m)
    | some y =>
      match tget m y.nodes with
      | none => .error (.fault .dead m)
      | some n =>
        if n.state = .dead ∨ n.state = .retired then .error (.fault .dead m)
        else if !isAncestor s c.ctx m anc then .error (.fault .bounds anc)
        else if linPoisoned s c.ctx y m [] then .error (.fault .softErr (Config.freeNat s.free % 2 ^ 64))
        else do
          let which := rowsDiffer y n c.a.bits anc x.m.toNat
          let r ← readOperand s c x.fa false x.m.toNat 0 x.k.toNat which
          let mask := (which.map (fun q => 2 ^ q)).sum
          .ok (r.1, r.2, time c.a false 0 + ceilDiv x.m.toNat 16 + which.length * panelCount x + 24, mask)
  | op =>
    match drainFields op with
    | some (x, y) =>
      let rb := x.ncols.toNat * fmtWidth y.fmt / 8
      let n := x.rows.toNat * rb
      let dur := ceilDiv n 64 + time c.d y.am (matExtent y.fmt x.rows.toNat x.ncols.toNat y.pitch.toNat) + 8
      if c.d.kind = .tens then .ok (s, [], dur, 0)
      else do
        let _ ← destRows s c y.am (rowStride s c.ctx c.d y.pitch.toNat) rb (List.range x.rows.toNat)
        .ok (s, [], dur, 0)
    | none => .ok (s, [], 0, 0)

/-- One fewer confirmed addition holds a tile: what waited for it is looked at again. -/
def additionDone (s : State) (p u : Nat) : State :=
  let tl := tileOf s p u
  let s1 := kickEngine (setTile s p u { tl with confirmed := tl.confirmed - 1 }) p 4
  match tl.owner with
  | some o => sched s1 s1.cycle (.taskEnd o (p * 16))
  | none => s1

/-- A drain waits, for additions into the tile it releases or for its peer's answer: it goes back to the head of its queue, before it has read
the tile, and the array goes on with others (13 R239; DESIGN CHOICE, log entry 54). -/
def putBack (s : State) (id : Nat) (c : Cmd) : State :=
  let e := engOf s c.eng
  kickEngine (setEng { s with cmds := tset id { c with phase := .queued } s.cmds } c.eng
    { e with exec := none, queue := id :: e.queue }) (c.eng / 8) (c.eng % 8)

/-- A command that violates a rule before it has sent its additions gives its peer's tile up. -/
def giveUp (s : State) (id : Nat) (c : Cmd) (agent : Nat) (k : Cause) (a : Nat) : State :=
  match addFields c.op with
  | some (_, y) => violate (if isAnswered c ∧ c.err.isNone then additionDone s (peerOf c.a) y.u.val else s) id c agent k a
  | none => violate s id c agent k a

/-- The tiles a command names. -/
def tilesNamed (op : Instr) : List Nat :=
  match op with
  | .minit x _ => minitTiles x
  | .mpload x _ => [x.t.val]
  | .mma x _ => [x.t.val]
  | .mmad x _ _ => [x.t.val]
  | _ => match drainFields op, addFields op with
    | some (x, _), _ => [x.t.val]
    | none, some (x, _) => [x.t.val]
    | none, none => []

/-- The first tile a command names that its task owns no longer: a drain with .REL ahead of it in the queue has released it (13 R229). -/
def lostTile (s : State) (c : Cmd) : Option Nat :=
  if c.adds.isSome then none else (tilesNamed c.op).find? (fun k => (tileOf s (c.eng / 8) k).owner != some c.owner)

/-- A MINIT whose tiles have been released since its issue claims them again (13 R229; DEDUCED, log entry 21). -/
def claimAgain (s : State) (id : Nat) (c : Cmd) : State :=
  let s1 := freeEngine { s with cmds := tset id { c with phase := .claiming } s.cmds } c.eng id
  awaitClaim (if waitOf s1 c.tid = some (.command id) then parkAs s1 c.tid (.claim id) else s1) (c.eng / 8) id c

/-- The array begins a command that owns its tiles. An MDRAINA first asks its peer (13 R239); its additions there take their cycles. -/
def beginMatrix (s : State) (id : Nat) (c : Cmd) : State :=
  match addFields c.op with
  | some (x, _) =>
    if c.adds.isSome then
      sched { s with cmds := tset id { c with phase := .running } s.cmds } (s.cycle + ceilDiv (x.rows.toNat * x.ncols.toNat) 16) (.mdrainaPeerAdd id)
    else if isAnswered c then sched { s with cmds := tset id { c with phase := .adding } s.cmds } s.cycle (.mdrainaPeerAdd id)
    else sched { s with cmds := tset id { c with phase := .confirming } s.cmds } (s.cycle + fabricTime (c.eng / 8) (peerOf c.a)) (.mdrainaConfirm id)
  | none =>
    match matStart s c with
    | .error st => matStop s id c st
    | .ok (s1, data, n, mask) => runFor s1 id { c with total := mask } data n

/-- The array takes a command up. A tile that its task owns no longer is a violation (13 R229, R231 item 5), and a MINIT's is claimed again. -/
def startMatrix (s : State) (id : Nat) (c : Cmd) : State :=
  match lostTile s c, c.op with
  | some _, .minit _ _ => claimAgain s id c
  | some k, _ => giveUp s id c 2 .perm k
  | none, _ => if c.err.isNone ∧ additionsDue s c then putBack s id c else beginMatrix s id c

/-- A command that names a result register or counters completes: they rise as its thread's bundle retires (13 R231 item 7). -/
def finishCmd (s : State) (id : Nat) (c : Cmd) (n : Counts) (vs : List FVal) : State :=
  let s1 := endCmd s id false
  if waitOf s1 c.tid = some (.command id) then retirePast (amaxAll (countAt s1 c.tid n) c.tid vs) c.tid else s1

/-- The words of B and of a tile's rows that a product over some rows reads; one over no row reads nothing, and rows that are recomputed from
INIT are not read (13 R235, R236). -/
def mmaPoison (s : State) (cl slice : Nat) (x : MmaX) (which : List Nat) (fromInit : Bool) : Option Nat :=
  if s.poison.isEmpty ∨ which.isEmpty then none
  else
    let pitch := if x.fb = .e2m1 then 128 else 256
    let parts := (List.range (panelCount x)).flatMap (fun p =>
      let k := min (panelRows x.fb) (x.k.toNat - p * panelRows x.fb)
      (List.range (tileDim cl)).flatMap (fun j => (sliceKey cl (slice + p) (j * pitch), ceilDiv (k * fmtWidth x.fb) 8) ::
        (if x.fb = .e2m1 then [(scaleKey cl (slice + p) j 0, ceilDiv k 32)] else [])))
    let rows := if fromInit then [] else which.map (fun q => (tileKey cl x.t.val (x.row0.toNat + q) 0, tileDim cl * 4))
    (parts ++ rows).findSome? (fun r => poisonIn s r.1 r.2)

/-- BLOAD's writes: the whole slice, and in E2M1 its scale block (13 R228, R233). -/
def bloadWrite (s : State) (c : Cmd) (x : BloadX) : State :=
  let cl := c.eng / 8
  let slice := (partition s cl c.ctx).1 + x.p.toNat
  let n := x.n.toNat
  let k := x.k.toNat
  let rb := ceilDiv (k * fmtWidth x.fmt) 8
  let base := sliceKey cl slice 0
  let pitch := if x.fmt = .e2m1 then 128 else 256
  let s1 := clearRange s base (base + 0x8000)
  let s2 := (List.range n).foldl (fun u r => putKeys u (base + r * pitch) ((c.data.drop (r * rb)).take rb)) s1
  if x.fmt = .e2m1 then
    let sb := scaleKey cl slice 0 0
    let s3 := putClean s2 sb (List.replicate 0x800 127)
    let per := ceilDiv k 32
    (List.range n).foldl (fun u r => putKeys u (sb + r * 8) ((c.data.drop (n * rb + r * per)).take per)) s3
  else s2

/-- MPLOAD's entries; one with a non-zero reserved bit is a violation before anything is written (13 R230). -/
def mploadWrite (s : State) (id : Nat) (c : Cmd) (x : MploadX) : State :=
  let cl := c.eng / 8
  let es := (List.range x.rows.toNat).map (fun r => leNat ((c.data.drop (8 * r)).take 8))
  match es.findIdx? (fun e => e / 2 ^ 49 != 0) with
  | some r => violate s id c 2 .bounds (operandAddr cl c.a (8 * r))
  | none =>
    let tl := tileOf s cl x.t.val
    let m := es.zipIdx.foldl (fun u e => tset (x.row0.toNat + e.2) e.1 u) tl.maskp
    finishCmd (setTile s cl x.t.val { tl with maskp := m }) id c Counts.zero []

/-- MDRAIN's writes (13 R238). Those to register windows arrive before the command completes, in the same cycle: it completes, with error
status PERM where one has been discarded, when they have (05 R86, R89, 11 R213). -/
def drainWrite (s : State) (id : Nat) (c : Cmd) (x : DrainX) (y : MdrainX) : State :=
  let cl := c.eng / 8
  let rows := List.range x.rows.toNat
  let rb := x.ncols.toNat * fmtWidth y.fmt / 8
  let stride := rowStride s c.ctx c.d y.pitch.toNat
  match poisonIn s (tileKey cl x.t.val x.row0.toNat 0) (x.rows.toNat * tileDim cl * 4) with
  | some k => violate s id c 2 .softErr (k - onchipBase)
  | none =>
    let out := rows.map (drainRow s cl x y)
    let n := (out.map (fun o => o.2.1)).foldl Counts.add Counts.zero
    let vs := (out.map (fun o => o.2.2)).flatten
    if c.d.kind = .tens then
      match getC s c.ctx with
      | none => violate s id c 2 .dead (tensTid c.d.bits)
      | some z =>
        match tget (tensTid c.d.bits) z.nodes with
        | none => violate s id c 2 .dead (tensTid c.d.bits)
        | some k =>
          if k.state = .dead ∨ k.state = .retired then violate s id c 2 .dead (tensTid c.d.bits)
          else if linPoisoned s c.ctx z (tensTid c.d.bits) (viewLines k c.d.bits) then
            violate s id c 2 .softErr (Config.freeNat s.free % 2 ^ 64)
          else
            let bytes := (rows.map (fun r => (nth ([], Counts.zero, []) r out).1.zipIdx.map (fun p => (r * stride + p.2, p.1)))).flatten
            match linWriteAt z false k c.d.bits 0 bytes with
            | .error (f, a) => matStop s id c (.fault f a)
            | .ok r => finishCmd (drainEnd (setC s c.ctx r.ctx) cl x y.clr y.rel) id c n vs
    else
      match destRows s c y.am stride rb rows with
      | .error st => matStop s id c st
      | .ok ps =>
        if c.passed = 1 then finishCmd (drainEnd s cl x y.clr y.rel) id c n vs
        else
          let s1 := cmdWrite s id c 2 0 ps (out.map Prod.fst).flatten
          if ps.any isRegPlace then sched { s1 with cmds := tset id { c with passed := 1 } s1.cmds } s.cycle (.matrixComplete id)
          else finishCmd (drainEnd s1 cl x y.clr y.rel) id c n vs

/-- MATRIX_COMPLETE (13 R232, R240): a command's writes are performed, its counters rise and its issuer retires; for an MDRAINA
the last element has been sent. -/
def execMatrixComplete (id : Nat) (s : State) : Host.Outcome State Fault Refusal :=
  match tget id s.cmds with
  | none => .next s
  | some c =>
    let cl := c.eng / 8
    if c.phase = .adding then
      match addFields c.op with
      | some (x, y) => if c.passed = 4 ∧ c.due = s.cycle then .next (freeEngine (drainEnd s cl x y.clr (y.rel && !ownPeer c)) c.eng id) else .next s
      | none => .next s
    else if c.phase ≠ .running ∨ c.due ≠ s.cycle then .next s
    else
      match c.op with
      | .bload x _ => .next (finishCmd (bloadWrite s c x) id c Counts.zero [])
      | .minit x _ =>
        let v := c.a.bits.toNat % 2 ^ 32
        .next (finishCmd ((minitTiles x).foldl (fun u k =>
          let u1 := (List.range x.rows.toNat).foldl (fun w r => putElems w cl k (x.row0.toNat + r) 0 (List.replicate (tileDim cl) v)) u
          setTile u1 cl k { tileOf u1 cl k with init := BitVec.ofNat 32 v }) s) id c Counts.zero [])
      | .mpload x _ => .next (mploadWrite s id c x)
      | .mma x _ =>
        let slice := (partition s cl c.ctx).1 + x.p0.toNat
        (match mmaPoison s cl slice x (List.range x.m.toNat) false with
         | some k => .next (violate s id c 2 .softErr (k - onchipBase))
         | none =>
           let r := mmaRows s cl x slice c.data (List.range x.m.toNat) none
           .next (finishCmd r.1 id c r.2 []))
      | .mmad x _ _ =>
        let slice := (partition s cl c.ctx).1 + x.p0.toNat
        let which := (List.range x.m.toNat).filter (fun q => bits c.total q 1 == 1)
        (match mmaPoison s cl slice x which true with
         | some k => .next (violate s id c 2 .softErr (k - onchipBase))
         | none =>
           let r := mmaRows s cl x slice c.data which (some (tileOf s cl x.t.val).init.toNat)
           .next (finishCmd (setTile r.1 cl x.t.val { tileOf r.1 cl x.t.val with drows := which.length }) id c r.2 []))
      | op =>
        match drainFields op with
        | some (x, y) => .next (drainWrite s id c x y)
        | none => .next s

/-! ## Cross-cluster additions (13 R239) -/

/-- A command of an array that drains a tile with .REL goes before the question of another command into that tile: one that runs, one whose
last element is not yet sent, and an MDRAINA that has asked or been answered, where it comes first by array and by issue. -/
def goesFirst (s : State) (id q p u : Nat) (j : Nat) (c : Cmd) : Bool :=
  j != id && c.eng == p * 8 + 4 && c.adds.isNone && relTile c == some u &&
    (c.phase == .running || (c.phase == .adding && c.passed == 4 && decide (s.cycle ≤ c.due)) ||
      ((addFields c.op).isSome && c.passed != 4 && (c.phase == .confirming || c.phase == .adding || (c.phase == .queued && c.passed != 0)) &&
        (decide (p < q) || (p == q && decide (j < id)))))

/-- The answer for a tile waits: a drain with .REL of it goes before, one that adds into its own tile is not over, or its owner is being saved
(DESIGN CHOICE, log entry 54). -/
def answerWaits (s : State) (id q p u : Nat) : Bool :=
  s.cmds.any (fun c => goesFirst s id q p u c.1 c.2 || (c.2.adds.isSome && c.2.eng == p * 8 + 4 && ownPeer c.2 && relTile c.2 == some u))
    || (match (tileOf s p u).owner.bind (getO s) with
        | some o => o.record_.isSome
        | none => false)

/-- The tile is owned by a task of a context. -/
def tileOfCtx (s : State) (p u ctx : Nat) : Bool :=
  match (tileOf s p u).owner.bind (getO s) with
  | some o => o.ctx == ctx
  | none => false

/-- MDRAINA_CONFIRM: the peer array confirms that its tile is owned by a task of the issuer's context, and holds the tile. A command whose
answer waits leaves its array meanwhile (DESIGN CHOICE, log entry 54). -/
def execMdrainaConfirm (id : Nat) (s : State) : Host.Outcome State Fault Refusal :=
  match tget id s.cmds with
  | none => .next s
  | some c =>
    match addFields c.op with
    | none => .next s
    | some (_, y) =>
      let p := peerOf c.a
      let u := y.u.val
      let q := c.eng / 8
      let away : Bool := c.phase == .queued && c.passed == 2
      if c.adds.isSome ∨ !(c.phase == .confirming && c.passed == 0 || away) then .next s
      else if answerWaits s id q p u then
        .next (sched (if away then s else putBack s id { c with passed := 2 }) (s.cycle + 1) (.mdrainaConfirm id))
      else
        let ok := tileOfCtx s p u c.ctx
        let back := s.cycle + fabricTime q p
        let c1 := { c with passed := 1, due := back, phase := if away then .queued else .adding, err := if ok then none else some (.perm, u) }
        let s1 := { s with cmds := tset id c1 s.cmds }
        let s2 := if ok then setTile s1 p u { tileOf s1 p u with confirmed := (tileOf s1 p u).confirmed + 1 } else s1
        .next (sched s2 back (if away then .engineAccept id else .mdrainaPeerAdd id))

/-- The elements an MDRAINA sends, row by row. -/
def sentElems (s : State) (cl : Nat) (x : DrainX) : List Byte :=
  ((List.range x.rows.toNat).map (fun r => ((List.range x.ncols.toNat).map (fun j =>
    toBytes 4 (tileElem s cl x.t.val (x.row0.toNat + r) j))).flatten)).flatten

/-- The addition joins its array's queue; of those that join in one cycle the lower core's comes first (01 R13). -/
def queueAddition (s : State) (k : Nat) (c : Cmd) : State :=
  let e := engOf s c.eng
  let first := fun (i j : Nat) => i == k && (tget j s.cmds).any (fun x => x.adds.isSome && x.accepted == s.cycle && decide (c.tid / 16 < x.tid / 16))
  let s1 := setEng s c.eng { e with queue := insertBy first k e.queue }
  if e.exec.isNone then kickEngine s1 (c.eng / 8) (c.eng % 8) else s1

/-- The source elements are sent: the additions join the peer array's queue, and the source array is done when the last has
gone. An uncorrectable error after the first has gone ends both tasks. -/
def sendAdditions (s : State) (id : Nat) (c : Cmd) (x : DrainX) (y : MdrainaX) : State :=
  let cl := c.eng / 8
  let p := peerOf c.a
  let first := tileKey cl x.t.val x.row0.toNat 0
  match (List.range x.rows.toNat).findSome? (fun r => poisonIn s (tileKey cl x.t.val (x.row0.toNat + r) 0) (4 * x.ncols.toNat)) with
  | some k =>
    let peer := (tileOf s p y.u.val).owner
    let s1 := violate (additionDone s p y.u.val) id c 2 .softErr (k - onchipBase)
    if k = first then s1
    else match peer with
      | some o => endByFault s1 c.tid c.ctx o .softErr 0
      | none => s1
  | none =>
    let k := s.nextId
    let add : Cmd := { c with
      eng := p * 8 + 4, phase := .queued, adds := some id, live := false, pins := [], handles := [], notBefore := 0, accepted := s.cycle
      data := sentElems s cl x }
    let due := s.cycle + ceilDiv (x.rows.toNat * x.ncols.toNat) 16
    let s1 := fresh { s with cmds := tset k add (tset id { c with due := due, passed := 4 } s.cmds) }
    sched (queueAddition s1 k add) due (.matrixComplete id)

/-- Adds the sent elements into the peer tile, row by row (13 R239). -/
def addElems (s : State) (p : Nat) (x : DrainX) (y : MdrainaX) (data : List Byte) : State × Counts :=
  let n := x.ncols.toNat
  (List.range x.rows.toNat).foldl (fun q r =>
    let out := (List.range n).map (fun j =>
      addF f32L .rne (decodeF f32L (tileElem q.1 p y.u.val (y.prow0.toNat + r) (y.pcol0.toNat + j)))
        (decodeF f32L (leNat ((data.drop (4 * (r * n + j))).take 4))))
    (putElems q.1 p y.u.val (y.prow0.toNat + r) y.pcol0.toNat (out.map Prod.fst), (out.map Prod.snd).foldl Counts.add q.2)) (s, Counts.zero)

/-- The additions' command ends: its tile is no longer held for it, and the .REL of its own drain acts. -/
def endAdditions (s : State) (id : Nat) (c : Cmd) (y : MdrainaX) : State :=
  let s1 := additionDone (endCmd s id false) (c.eng / 8) y.u.val
  if ownPeer c && y.rel then releaseTile s1 (c.eng / 8) y.u.val else s1

/-- The additions of a command at its peer are complete, and with them the MDRAINA. -/
def finishAdditions (s : State) (id main : Nat) (c : Cmd) (x : DrainX) (y : MdrainaX) : State :=
  let p := c.eng / 8
  let rows := (List.range x.rows.toNat).map (fun r => tileKey p y.u.val (y.prow0.toNat + r) y.pcol0.toNat)
  match tget main s.cmds with
  | none => endAdditions s id c y
  | some m =>
    match rows.findSome? (fun k => poisonIn s k (4 * x.ncols.toNat)) with
    | some k => violate (endAdditions s id c y) main m 5 .softErr (k - onchipBase)
    | none =>
      let r := addElems s p x y c.data
      finishCmd (endAdditions r.1 id c y) main m r.2 []

/-- MDRAINA_PEER_ADD: the answer of the peer is back, and the elements are sent or the command faults with no effect; or the
peer array has performed the additions. -/
def execMdrainaPeerAdd (id : Nat) (s : State) : Host.Outcome State Fault Refusal :=
  match tget id s.cmds with
  | none => .next s
  | some c =>
    match addFields c.op with
    | none => .next s
    | some (x, y) =>
      match c.adds with
      | some main => if c.phase = .running then .next (finishAdditions s id main c x y) else .next s
      | none =>
        if c.phase ≠ .adding ∨ c.passed ≠ 1 then .next s
        else
          match c.err with
          | some (k, a) => .next (violate s id c 2 k a)
          | none => .next (if additionsDue s c then putBack s id c else sendAdditions s id c x y)

/-- MATRIX_VIOLATION (13 R231 item 5, 21 R324): the event that ends the task of a command whose access is refused. -/
def execMatrixViolation (id : Nat) (s : State) : Host.Outcome State Fault Refusal :=
  match tget id s.cmds with
  | none => .next s
  | some c =>
    match c.err with
    | some (k, a) => .next (violate s id c (if c.adds.isSome then 5 else if c.eng % 8 = 5 then 3 else 2) k a)
    | none => .next s

end Sys2Proof.Machine
end

