-- ==== Sys2Proof/Machine/Hawk.lean ====
section
/-!
DEFINITION. Hawkmoth (18 R284-R295): selections by bit planes, the held result, HMASK and HSTAT.
-/

namespace Sys2Proof.Machine

/-! ## Commands -/

/-- A selection's fields: whether weighted, ascending and of N32 weights, p, its common fields and destination. -/
structure Selection where
  weighted : Bool
  asc : Bool
  wn : Bool
  p : Nat
  x : HselX
  d : Reg
  deriving DecidableEq, Repr

/-- The selection a command is. -/
def selectionOf (op : Instr) : Option Selection :=
  match op with
  | .hsel asc x d _ _ => some ⟨false, asc, false, 0, x, d⟩
  | .hselw wn x p d _ _ => some ⟨true, false, wn, p.toNat, x, d⟩
  | _ => none

/-- The Hawkmoth engine of a thread's cluster. -/
def hawkOf (tid : Nat) : Nat := tid / 256 * 8 + 5

/-- The weight format. -/
def weightFmt (wn : Bool) : Fmt := if wn then .n32 else .f32

/-- The operand checks of a column of n elements (18 R285). -/
def needColumn (s : State) (cl : Nat) (t : Thread) (r : Reg) (f : Fmt) (n : Nat) : Except Stop Unit :=
  let g := t.rd r
  let b := g.bits
  let size := n * (fmtWidth f / 8)
  match g.kind with
  | .tens => do
    if !tensPerm b 2 || !tensPerm b 0 then .error (.fault .perm (tensTid b))
    else do
      let x ← needNode s t.ctx b
      if x.2.fmt ≠ f.code then .error (.fault .kind r.val)
      else if tensRown b * tensColn b < n then .error (.fault .bounds n)
      else .ok ()
  | .coc =>
    if !cocLive s cl b then .error (.fault .hltStale (cocHlt b))
    else if !cocR b then .error (.fault .perm (cl * 0x800000 + cocTbase b))
    else if cocFmt b ≠ f.code then .error (.fault .kind r.val)
    else if cocRcount b * cocCcount b < n then .error (.fault .bounds n)
    else .ok ()
  | _ => do
    let a ← capCheck b ⟨false, true, false, false, true⟩ 0 size
    needAlign a (fmtWidth f / 8)

/-- A p that is positive and at most 1 (18 R289). -/
def goodP (p : Nat) : Bool := decide (0 < p) && decide (p ≤ 0x3F800000)

/-- The registers of a selection that pop a message: k and the mask, unless the same register is a column, where a PORT faults KIND (18
R285). -/
def popped (q : Selection) (a b : Reg) : List Reg :=
  ((if q.weighted then [] else [b]) ++ (if q.x.mv then [q.x.mr] else [])).filter (fun r => r != a && !(q.weighted && r == b))

/-- The shape of HSEL and HSELW (18 R290). -/
def selectIssue (op : Instr) (q : Selection) (a b : Reg) (s : State) : Host.Outcome State Fault Refusal :=
  let x := q.x
  issueWith s [q.d, nextReg q.d, a, b, x.mr] (popped q a b) (fun i t => do
    let cl := i.tid / 256
    let n := x.n.toNat
    needLegal t (x.kf != .e2m1 && x.kf != .s8 && q.d != 0 && decide (q.d.val + 1 < t.nregs) && (x.mv || x.mr == 0))
    needMemory a (unpopped s i.tid t a)
    if q.weighted then needMemory b (unpopped s i.tid t b) else needKind .data b (t.rd b)
    if x.mv then needKind .cap x.mr (t.rd x.mr) else .ok ()
    destOk t q.d []
    destOk t (nextReg q.d) []
    needRange (decide (1 ≤ n) && decide (n ≤ 65536)) n
    needRange (!q.weighted || goodP q.p) q.p
    needRange (decide (n * (fmtWidth x.kf / 8 + (if q.weighted then 4 else 0)) ≤ 524288)) n
    needColumn s cl t a x.kf n
    if q.weighted then needColumn s cl t b (weightFmt q.wn) n else .ok ()
    if x.mv then (capCheck (t.rd x.mr).bits Need.rd 0 (ceilDiv n 8)).map (fun _ => ()) else .ok ()
    let m := if x.mv then t.rd x.mr else GReg.zero
    .ok (submit s (newCmd op i.tid t (hawkOf i.tid) (t.rd a) (t.rd b) GReg.zero m s.cycle) Wait.command))

/-- HSEL (18 R289, R290). -/
def execHsel (asc : Bool) (x : HselX) (d a b : Reg) (s : State) : Host.Outcome State Fault Refusal :=
  selectIssue (.hsel asc x d a b) ⟨false, asc, false, 0, x, d⟩ a b s

/-- HSELW (18 R289, R290). -/
def execHselw (wn : Bool) (x : HselX) (p : Word) (d a b : Reg) (s : State) : Host.Outcome State Fault Refusal :=
  selectIssue (.hselw wn x p d a b) ⟨true, false, wn, p.toNat, x, d⟩ a b s

/-- The held result of a thread. -/
def heldBy (s : State) (tid : Nat) : Option Held :=
  match (clusterSt s (tid / 256)).held with
  | some h => if h.tid = tid then some h else none
  | none => none

/-- HMASK (18 R292). -/
def execHmask (d a : Reg) (s : State) : Host.Outcome State Fault Refusal :=
  issueWith s [d, a] [a] (fun i t => do
    needKind .cap a (t.rd a)
    destOk t d []
    match heldBy s i.tid with
    | none => .ok (advance (setReg s i.tid d (dataOf 1)) i.tid)
    | some h => do
      let n := ceilDiv h.n 8
      let v ← capCheck (t.rd a).bits Need.st 0 n
      let ps ← capRun s (i.tid / 16) t.ctx (t.rd a).bits false Need.st (runFuel n) v n
      if ps.all ownMemory then
        .ok (submit s (newCmd (.hmask d a) i.tid t (hawkOf i.tid) GReg.zero GReg.zero (t.rd a) GReg.zero s.cycle) Wait.command)
      else .error (.fault .perm v))

/-- The cycles of one pass over n elements. -/
def passCycles (n : Nat) : Nat := ceilDiv n 64

/-- Planes an executing selection has passed: its load ends a pass after c.next (18 R291). -/
def planesPassed (s : State) (c : Cmd) (n : Nat) (planes : Nat) : Nat :=
  min planes ((s.cycle - (c.next + passCycles n)) / max (passCycles n) 1)

/-- Planes still to pass in the command a Hawkmoth engine executes (18 R293). -/
def planesLeft (s : State) (c : Cmd) : Nat :=
  match selectionOf c.op, c.run with
  | some q, some r => if c.phase = .stopped then r.planes else r.planes - planesPassed s c q.x.n.toNat r.planes
  | some q, none => fmtWidth q.x.kf
  | none, _ => 0

/-- HSTAT (18 R293). PLANE has six bits: 64 planes to pass read as 63 (DESIGN CHOICE, log entry 55: the spec gives no value for them). -/
def execHstat (d : Reg) (s : State) : Host.Outcome State Fault Refusal :=
  issueWith s [d] [] (fun i t => do
    destOk t d []
    let e := engOf s (hawkOf i.tid)
    let plane := match e.exec with
      | some id => (match tget id s.cmds with
        | some c => planesLeft s c
        | none => 0)
      | none => 0
    let h := match (clusterSt s (i.tid / 256)).held with
      | some h => if h.tid = i.tid then 2 ^ 32 + h.n else 2 * 2 ^ 32
      | none => 0
    .ok (advance (setReg s i.tid d (dataOf (h + min plane 63 * 2 ^ 34 + min e.queue.length 255 * 2 ^ 44))) i.tid))

/-! ## The procedure (18 R286, R287) -/

/-- The elements of a mask below n. -/
def maskMembers (m n : Nat) : List Nat := (List.range n).filter (fun i => m.testBit i)

/-- The mask of some elements. -/
def maskOf (is : List Nat) : Nat := (is.map (fun i => 2 ^ i)).sum

/-- A weight in units of 2^-149; none when it is not valid. -/
def weightOf (wn : Bool) (v : Nat) : Option Nat :=
  match valueOf (weightFmt wn) v with
  | .fin neg m e => if neg ∧ m ≠ 0 then none else some (m * 2 ^ (e + 149).toNat)
  | _ => none

/-- Elements of some bytes each. -/
def elemsOf (bs : List Byte) (size n : Nat) : List Nat := (List.range n).map (fun i => leNat ((bs.drop (i * size)).take size))

/-- An element's image, inverted for .ASC. -/
def planeImage (q : Selection) (k : Nat) : Nat :=
  if q.asc then 2 ^ fmtWidth q.x.kf - 1 - image q.x.kf k else image q.x.kf k

/-- What the columns and the mask give: images, weights, candidates and counts (18 R286). -/
def candidates (q : Selection) (keys wts : List Nat) (mask : Option (List Byte)) : List Nat × List Nat × Nat × Counts :=
  let n := q.x.n.toNat
  let named := fun (i : Nat) => match mask with
    | some m => (nth (0 : Byte) (i / 8) m).toNat.testBit (i % 8)
    | none => true
  let isNan := fun (i : Nat) => (valueOf q.x.kf (nth 0 i keys)).isNan
  let maskIn := (List.range n).filter named
  let nans := maskIn.filter isNan
  let ordered := maskIn.filter (fun i => q.x.nanin || !isNan i)
  let w := wts.map (weightOf q.wn)
  let valid := fun (i : Nat) => !q.weighted || (nth none i w).isSome
  let cs := ordered.filter valid
  let bad := ordered.filter (fun i => !valid i)
  (keys.map (planeImage q), w.map (fun v => v.getD 0), maskOf cs, ⟨nans.length, 0, 0, 0, 0, bad.length⟩)

/-- The sum of weights of some elements. -/
def weigh (wts : List Nat) (is : List Nat) : Nat := (is.map (fun i => nth 0 i wts)).sum

/-- The start of the procedure: the target, k or p × W in units of 2^-298, and whether nothing can be selected. -/
def startRun (q : Selection) (k : Nat) (v : List Nat × List Nat × Nat × Counts) : HawkRun :=
  let n := q.x.n.toNat
  let cs := maskMembers v.2.2.1 n
  let total := weigh v.2.1 cs
  let p := match decodeF f32L q.p with
    | .fin _ m e => m * 2 ^ (e + 149).toNat
    | _ => 0
  { imgs := v.1, wts := v.2.1, cand := v.2.2.1, surv := 0, aboveN := 0, aboveW := 0, planes := fmtWidth q.x.kf
    none_ := if q.weighted then total == 0 else (k == 0 || decide (cs.length < k))
    total := if q.weighted then p * total else k, poisoned := false }

/-- One plane pass. -/
def planePass (q : Selection) (r : HawkRun) : HawkRun :=
  match r.planes with
  | 0 => r
  | b + 1 =>
    let cs := maskMembers r.cand q.x.n.toNat
    let one := cs.filter (fun i => (nth 0 i r.imgs).testBit b)
    let zero := cs.filter (fun i => !(nth 0 i r.imgs).testBit b)
    let w := weigh r.wts one
    let keep := if q.weighted then decide (r.total ≤ (r.aboveW + w) * 2 ^ 149) else decide (r.total ≤ r.aboveN + one.length)
    if keep then { r with cand := maskOf one, planes := b }
    else { r with cand := maskOf zero, surv := r.surv + maskOf one, aboveN := r.aboveN + one.length, aboveW := r.aboveW + w, planes := b }

/-- Some plane passes; a selection that selects nothing passes over its planes. -/
def passes (q : Selection) : Nat → HawkRun → HawkRun
  | 0, r => r
  | k + 1, r => passes q k (if r.none_ then { r with planes := r.planes - 1 } else planePass q r)

/-- The value, the counts word and the survivors (18 R287, R288). -/
def selected (q : Selection) (r : HawkRun) : GReg × GReg × Nat :=
  let n := q.x.n.toNat
  let cs := maskMembers r.cand n
  if r.none_ then (GReg.zero, dataOf (2 ^ 63 + cs.length), 0)
  else
    let v := nth 0 (cs.headD 0) r.imgs
    let img := if q.asc then 2 ^ fmtWidth q.x.kf - 1 - v else v
    (resultData q.x.kf (imageInv q.x.kf img), dataOf (r.aboveN + cs.length * 2 ^ 32), r.surv + r.cand)

/-! ## The engine (18 R290, R291) -/

/-- Reads a selection's columns and mask. -/
def readColumns (s : State) (c : Cmd) (q : Selection) : Except Stop (State × List Nat × List Nat × Option (List Byte)) := do
  let n := q.x.n.toNat
  let size := fmtWidth q.x.kf / 8
  let k ← cmdRead s c c.a q.x.am Need.rd 0 (n * size)
  let w ← if q.weighted then cmdRead k.1 c c.b q.x.am Need.rd 0 (4 * n) else .ok (k.1, [])
  let m ← if q.x.mv then cmdRead w.1 c c.m q.x.am Need.rd 0 (ceilDiv n 8) else .ok (w.1, [])
  .ok (m.1, elemsOf k.2 size n, (if q.weighted then elemsOf w.2 4 n else []), if q.x.mv then some m.2 else none)

/-- The largest time to a selection's operands. -/
def selectTime (s : State) (c : Cmd) (q : Selection) : Nat :=
  let cl := c.eng / 8
  let n := q.x.n.toNat
  let k := operandTime s cl c.ctx c.a q.x.am (n * (fmtWidth q.x.kf / 8))
  let w := if q.weighted then operandTime s cl c.ctx c.b q.x.am (4 * n) else 40
  let m := if q.x.mv then operandTime s cl c.ctx c.m q.x.am (ceilDiv n 8) else 40
  max k (max w m)

/-- A Hawkmoth command meets a stop. -/
def hawkStop (s : State) (id : Nat) (c : Cmd) (st : Stop) : State :=
  match st with
  | .miss va => cmdMiss s id c va
  | .fault k a => violate s id c 3 k a
  | .wait _ => s

/-- The holder's next command is accepted: the held result is released (18 R284). -/
def takeHeld (s : State) (c : Cmd) : State × Option Held :=
  let k := clusterSt s (c.eng / 8)
  match k.held with
  | some h => if h.tid = c.tid then (setCluster s (c.eng / 8) { k with held := none }, some h) else (s, none)
  | none => (s, none)

/-- A resumed selection reads its columns from their homes (18 R295): nothing of the operand window serves it. -/
def fromHomes (s : State) (c : Cmd) : State :=
  if c.run.isSome then setEng s c.eng { engOf s c.eng with window := [] } else s

/-- The run a selection goes on with: a new one, or, of a resumed one, the saved masks with the images and weights loaded again; one
that had passed no plane finds its candidates in this load. -/
def runFrom (c : Cmd) (q : Selection) (v : List Nat × List Nat × Nat × Counts) : HawkRun :=
  match c.run with
  | some r => if r.planes < fmtWidth q.x.kf then { r with imgs := v.1, wts := v.2.1 } else startRun q (lo64 c.b) v
  | none => startRun q (lo64 c.b) v

/-- The engine begins a command: a selection loads its columns, and a resumed one goes on with its masks (18 R295). -/
def startHawk (s : State) (id : Nat) (c : Cmd) : State :=
  let h := takeHeld s c
  match selectionOf c.op with
  | some q =>
    match readColumns (fromHomes h.1 c) c q with
    | .error st => hawkStop h.1 id c st
    | .ok (s1, keys, wts, mask) =>
      let v := candidates q keys wts mask
      let run := runFrom c q v
      let base := s.cycle + (if c.run.isSome then 0 else selectTime s c q)
      let due := base + passCycles q.x.n.toNat * (run.planes + 1) + 8
      let c1 := { c with phase := .running, run := some run, counts := v.2.2.2, next := base, due := due }
      sched { s1 with cmds := tset id c1 s1.cmds } due (.hawkComplete id)
  | none =>
    match h.2 with
    | none => sched { s with cmds := tset id { c with phase := .running, due := s.cycle } s.cmds } s.cycle (.hawkComplete id)
    | some r =>
      if r.poisoned then violate h.1 id c 3 .softErr 0
      else
      let n := ceilDiv r.n 8
      let due := s.cycle + ceilDiv r.n 512 + operandTime s (c.eng / 8) c.ctx c.d false n + 4
      let c1 := { c with phase := .running, data := toBytes n r.mask, due := due }
      sched { h.1 with cmds := tset id c1 h.1.cmds } due (.hawkComplete id)

/-- A selection retires: its registers are written and its counters rise (18 R286, R288). -/
def finishSelection (s : State) (id : Nat) (c : Cmd) (q : Selection) (r : HawkRun) : State :=
  let v := selected q (passes q r.planes r)
  let live := waitOf s c.tid == some (.command id)
  let k := clusterSt s (c.eng / 8)
  let s1 := if q.x.hold && live then setCluster s (c.eng / 8) { k with held := some ⟨c.tid, c.owner, q.x.n.toNat, v.2.2, false⟩ } else s
  let s2 := endCmd s1 id false
  if live then retirePast (countAt (setReg (setReg s2 c.tid q.d v.1) c.tid (nextReg q.d) v.2.1) c.tid c.counts) c.tid else s2

/-- HMASK's writes. -/
def finishMask (s : State) (id : Nat) (c : Cmd) (d : Reg) : State :=
  match operandPlaces s (c.eng / 8) c.ctx c.d false Need.st 0 c.data.length with
  | .error st => hawkStop s id c st
  | .ok ps =>
    let s1 := endCmd (cmdWrite s id c 3 0 ps c.data) id false
    if waitOf s1 c.tid = some (.command id) then retirePast (setReg s1 c.tid d GReg.zero) c.tid else s1

/-- HAWK_COMPLETE (18 R288, R291, R292). -/
def execHawkComplete (id : Nat) (s : State) : Host.Outcome State Fault Refusal :=
  match tget id s.cmds with
  | none => .next s
  | some c =>
    if c.phase ≠ .running ∨ c.due ≠ s.cycle then .next s
    else
      match c.op, selectionOf c.op, c.run with
      | .hmask d _, _, _ => .next (finishMask s id c d)
      | _, some q, some r => .next (if r.poisoned then violate s id c 3 .softErr 0 else finishSelection s id c q r)
      | _, _, _ => .next s

/-- ENGINE_AT_START (06 R119, 13 R237): the not-before time has come, and the engine begins its command. -/
def execEngineAtStart (id : Nat) (s : State) : Host.Outcome State Fault Refusal :=
  match tget id s.cmds with
  | none => .next s
  | some c =>
    if c.phase ≠ .starting then .next s
    else if c.eng % 8 = 4 then .next (startMatrix s id c)
    else if c.eng % 8 = 5 then .next (startHawk s id c)
    else if isRing c then .next (startRing s id c)
    else .next (startCopy s id c)

end Sys2Proof.Machine
end

