-- ==== Sys2Proof/Machine/Tasks.lean ====
section
/-!
DEFINITION. The task instructions and gates (20 R301-R309), completion signals and their notification (23 R347-R349).
-/

namespace Sys2Proof.Machine

/-! ## Task records and types (20 R300, R301) -/

def recTyp (r : BitVec 256) : Nat := bits r.toNat 0 12
def recPrio (r : BitVec 256) : Nat := bits r.toNat 12 8
def recPdef (r : BitVec 256) : Bool := bits r.toNat 21 1 == 1
def recNodl (r : BitVec 256) : Bool := bits r.toNat 22 1 == 1
def recDeadline (r : BitVec 256) : Nat := bits r.toNat 32 48
def recVrows (r : BitVec 256) : Nat := bits r.toNat 128 9
def recWaitg (r : BitVec 256) : Nat := bits r.toNat 144 16
def recDoneg (r : BitVec 256) : Nat := bits r.toNat 160 16
def recArg (r : BitVec 256) : Nat := bits r.toNat 192 64

def typEntry (e : BitVec 512) : Nat := bits e.toNat 0 57
def typThreads (e : BitVec 512) : Nat := bits e.toNat 64 4 + 1
def typRegs (e : BitVec 512) : Nat := 8 * (bits e.toNat 68 2 + 1)
def typClass (e : BitVec 512) : Nat := bits e.toNat 70 2
def typLocal (e : BitVec 512) : Nat := bits e.toNat 72 7
def typValid (e : BitVec 512) : Bool := bits e.toNat 79 1 == 1 && typClass e != 3
def typBars (e : BitVec 512) : Nat := bits e.toNat 80 10
def typPool (e : BitVec 512) : Nat := bits e.toNat 92 4
def typPrio (e : BitVec 512) : Nat := bits e.toNat 96 8
def typPdist (e : BitVec 512) : Nat := bits e.toNat 128 32
def typImage (e : BitVec 512) : Nat := bits e.toNat 192 57
def typImgLen (e : BitVec 512) : Nat := bits e.toNat 256 19

/-- The entry a record's type names, when it is valid. -/
def typOf (c : Ctx) (r : BitVec 256) : Option (BitVec 512) :=
  match tget (recTyp r) c.types with
  | some e => if typValid e then some e else none
  | none => none

/-- A valid record (20 R301). -/
def recValid (c : Ctx) (r : BitVec 256) : Bool :=
  (typOf c r).isSome && decide (recVrows r ≤ 256) && bits r.toNat 20 1 == 0 && bits r.toNat 23 9 == 0 && bits r.toNat 137 7 == 0
    && bits r.toNat 176 16 == 0

/-! ## Ready records (20 R302, R304, R310) -/

/-- An event due in a cycle, unless the same is due then already. -/
def schedOnce (s : State) (c : Nat) (i : Instr) : State := if s.agenda.contains (c, i) then s else sched s c i

/-- Every station decides for a pool at the first decision cycle after this one (20 R310, R313). -/
def kickPool (s : State) (pool : Nat) : State :=
  (List.range 8).foldl (fun u die => schedOnce u ((s.cycle / 4 + 1) * 4) (.dispatchDecision die pool)) s

/-- Records become ready in order. -/
def addReady (s : State) (ctx : Nat) (rs : List (BitVec 256)) : State :=
  rs.foldl (fun u r =>
    let u1 := { u with ready := u.ready ++ [⟨u.nextOrder, u.cycle, ctx, r, none⟩], nextOrder := u.nextOrder + 1 }
    match getC u ctx with
    | some c => (match typOf c r with
      | some e => kickPool u1 (typPool e)
      | none => u1)
    | none => u1) s

/-- Pending records of a context (20 R305): waiting on a gate, for a time, ready and not placed, or on their way. -/
def pendingRecords (s : State) (ctx : Nat) : Nat :=
  match getC s ctx with
  | none => 0
  | some c => c.waiting.length + c.later + (s.ready.filter (fun r => r.ctx == ctx && r.resume.isNone)).length
      + (s.gates.map (fun g => if g.2.ctx = ctx ∧ g.2.sent ∧ !(match g.2.op with
          | .tsubAt _ _ _ => g.2.applied && g.2.v != 1
          | _ => false) then g.2.records.length else 0)).sum

/-! ## Gates (20 R302) -/

def gateCount (c : Ctx) (g : Nat) : Nat := (tget g c.gates).getD 0

/-- Sets a count; a transition makes the waiting records ready in their submission order. -/
def setGate (c : Ctx) (g n : Nat) : Ctx × List (BitVec 256) :=
  if gateCount c g ≠ 0 ∧ n = 0 then
    ({ c with gates := tset g n c.gates, waiting := c.waiting.filter (fun w => w.1 != g) }, (c.waiting.filter (fun w => w.1 == g)).map Prod.snd)
  else ({ c with gates := tset g n c.gates }, [])

/-- Adds a signed number to a count, held in range: the count, and whether it was held. -/
def addGate (c : Ctx) (g : Nat) (v : Int) : Nat × Bool :=
  let n : Int := (gateCount c g : Int) + v
  if n < 0 then (0, true) else if 2 ^ 32 - 1 < n then (2 ^ 32 - 1, true) else (n.toNat, false)

/-- Inserts a record in gate order: it is ready, or it waits on its gate. -/
def insertRecord (c : Ctx) (r : BitVec 256) : Ctx × List (BitVec 256) :=
  let g := recWaitg r
  if g = 0 ∨ gateCount c g = 0 then (c, [r]) else ({ c with waiting := c.waiting ++ [(g, r)] }, [])

/-- Inserts records at one point of gate order; those ready at once, in order. -/
def insertRecords (c : Ctx) (rs : List (BitVec 256)) : Ctx × List (BitVec 256) :=
  rs.foldl (fun p r =>
    let q := insertRecord p.1 r
    (q.1, p.2 ++ q.2)) (c, [])

/-- A GATE_RANGE entry (20 R302, R317). -/
def gateRange (s : State) (o : GateOp) : State :=
  let task := if (getO s o.owner).isSome then taskidOf s o.owner else BitVec.ofNat 64 o.v
  addStatus s o.ctx (statusEntry kGateRange 0 0 (o.tid / 16) (o.tid % 16) task 0 o.g) none

/-- The time of a gate access (20 R304). -/
def gateTime (cl : Nat) : Nat := 40 + toIo0 cl

/-- Sends an operation to the scheduler on IO0: it takes its place in gate order half-way, and the thread parks for the whole. -/
def launchGate (s : State) (tid : Nat) (t : Thread) (op : Instr) (g v : Nat) (records : List (BitVec 256)) : State :=
  let id := s.nextId
  let p := gateTime (tid / 256)
  let o : GateOp := ⟨tid, t.ctx, t.owner, op, g, v, records, false, 0, none, true⟩
  let s1 := fresh { s with gates := tset id o s.gates }
  parkAs (sched (sched s1 (s.cycle + p / 2) (.gateApply id)) (s.cycle + p) (.gateReply id)) tid (.gate id)

/-- A TSUB whose records are read waits for room among the pending records, and keeps them (20 R305). -/
def keepRecords (s : State) (tid : Nat) (t : Thread) (op : Instr) (records : List (BitVec 256)) : State :=
  parkAs (fresh { s with gates := tset s.nextId ⟨tid, t.ctx, t.owner, op, 0, 0, records, false, 0, none, false⟩ s.gates }) tid .recordRoom

/-- A TSUB that waits for room leaves for the scheduler when there is room. -/
def sendRecords_ (s : State) (id : Nat) (o : GateOp) : State :=
  if 65536 < pendingRecords s o.ctx + o.records.length ∨ waitOf s o.tid ≠ some .recordRoom then s
  else
    let p := gateTime (o.tid / 256)
    let s1 := { s with gates := tset id { o with sent := true } s.gates }
    parkAs (sched (sched s1 (s.cycle + p / 2) (.gateApply id)) (s.cycle + p) (.gateReply id)) o.tid (.gate id)

/-! ## The instructions -/

/-- The records a TSUB reads (20 R305). -/
def readRecords (s : State) (ps : List Place) (n : Nat) : List (BitVec 256) :=
  (List.range n).map (fun k => BitVec.ofNat 256 (getNat s ((ps.drop (32 * k)).take 32)))

/-- TSUB with a not-before time (20 R305). -/
def submitIssue (op : Instr) (a b : Reg) (s : State) : Host.Outcome State Fault Refusal :=
  issueWith s [a, b] [a, b] (fun i t => do
    needKind .cap a (t.rd a)
    needKind .data b (t.rd b)
    let n := lo64 (t.rd b)
    if n = 0 ∨ 256 < n then .error (.fault .bounds n)
    else do
      let v ← capCheck (t.rd a).bits Need.rd 0 (32 * n)
      needAlign v 32
      let ps ← capRun s (i.tid / 16) t.ctx (t.rd a).bits false Need.rd (runFuel (32 * n)) v (32 * n)
      if !ps.all ownMemory then .error (.fault .perm v)
      else if !quiet s i.tid then .error (.wait (.relaxedPoint 4))
      else do
        softCheck s ps
        let rs := readRecords s ps n
        match getC s t.ctx with
        | none => .error (.fault .bounds v)
        | some c =>
          match rs.findIdx? (fun r => !recValid c r) with
          | some k => .error (.fault .bounds (v + 32 * k))
          | none =>
            if 65536 < pendingRecords s t.ctx + n then .ok (keepRecords s i.tid t op rs)
            else .ok (launchGate s i.tid t op 0 0 rs))

/-- TSUB (20 R305). -/
def execTsub (a b : Reg) (s : State) : Host.Outcome State Fault Refusal := submitIssue (.tsub a b) a b s

/-- TSUB.AT (20 R305). -/
def execTsubAt (a b : Reg) (time : DWord) (s : State) : Host.Outcome State Fault Refusal := submitIssue (.tsubAt a b time) a b s

/-- TDONE (20 R306). -/
def execTdone (s : State) : Host.Outcome State Fault Refusal :=
  issueWith s [] [] (fun i t =>
    match getO s t.owner with
    | none => .error (.fault .perm 0)
    | some o =>
      if o.isPop then .error (.fault .perm 0)
      else if o.donegDone ∨ recDoneg o.record = 0 then .ok (advance s i.tid)
      else if !quiet s i.tid then .error (.wait (.relaxedPoint 4))
      else .ok (launchGate s i.tid t .tdone (recDoneg o.record) 0 []))

/-- GATE (20 R307). -/
def execGate (op : Sys2Proof.GateOp) (d a b : Reg) (s : State) : Host.Outcome State Fault Refusal :=
  issueWith s [d, a, b] [a, b] (fun i t => do
    needKind .data a (t.rd a)
    needKind .data b (t.rd b)
    destOk t d []
    let g := lo64 (t.rd a)
    if g = 0 ∨ 65535 < g then .error (.fault .bounds g)
    else .ok (launchGate s i.tid t (.gate op d a b) g (lo64 (t.rd b) % 2 ^ 32) []))

/-- TREC (20 R308). -/
def execTrec (q : Fin 3) (d : Reg) (s : State) : Host.Outcome State Fault Refusal :=
  issueWith s [d] [] (fun i t => do
    destOk t d []
    let v := match getO s t.owner with
      | none => 0
      | some o =>
        match q.val with
        | 0 => bits o.record.toNat 0 128
        | 1 => bits o.record.toNat 128 128
        | _ => ((getP s t.owner (i.tid / 16)).map Placement.placed).getD o.placed % 2 ^ 64 + (if o.isPop then 0 else o.prio) * 2 ^ 64 + o.pool * 2 ^ 72 + (if o.late then 2 ^ 76 else 0)
            + (if o.resumed then 2 ^ 77 else 0)
    .ok (advance (setReg s i.tid d (dataOf v)) i.tid))

/-! ## Completion signals (23 R347-R349) -/

def sigAddr (e : BitVec 256) : Nat := bits e.toNat 0 64
def sigTarget (e : BitVec 256) : Nat := bits e.toNat 64 64
def sigNdesc (e : BitVec 256) : Nat := bits e.toNat 128 64
def sigVec (e : BitVec 256) : Nat := bits e.toNat 192 12
def sigCond (e : BitVec 256) : Bool := bits e.toNat 204 1 == 1
def sigArmed (e : BitVec 256) : Bool := bits e.toNat 205 1 == 1
def sigValid (e : BitVec 256) : Bool := bits e.toNat 206 1 == 1

/-- A registered entry of a context's signal table. -/
def sigEntry (s : State) (ctx i : Nat) : Option (BitVec 256) :=
  match getC s ctx with
  | none => none
  | some c => match tget i c.signals with
    | some e => if sigValid e then some e else none
    | none => none

/-- The edge router on IO0 of a cluster's mesh row (01 R12), as the cluster beside it. -/
def edgeOf (cl : Nat) : Nat := dieRow cl * 96 + meshRow cl * 6

/-- QPOST (20 R309). -/
def execQpost (op : PostOp) (a b : Reg) (s : State) : Host.Outcome State Fault Refusal :=
  issueWith s [a, b] [a, b] (fun i t => do
    needKind .data a (t.rd a)
    needKind .data b (t.rd b)
    let k := lo64 (t.rd a)
    match (if 65535 < k then none else sigEntry s t.ctx k) with
    | none => .error (.fault .bounds k)
    | some e =>
      if !quiet s i.tid then .error (.wait (.relaxedPoint 4))
      else
        let id := s.nextId
        let cl := i.tid / 256
        let p := gateTime cl
        let home := placeTime (edgeOf cl) (.phys (sigAddr e))
        let o : GateOp := ⟨i.tid, t.ctx, t.owner, .qpost op a b, k, lo64 (t.rd b), [], false, 0, none, true⟩
        let s1 := fresh { s with gates := tset id o s.gates }
        .ok (parkAs (sched (sched s1 (s.cycle + p / 2) (.gateApply id)) (s.cycle + p + home) (.qpostAcknowledgement id)) i.tid (.qpost id)))

/-- The 64-bit counter of an entry. -/
def counterOf (s : State) (e : BitVec 256) : Nat := leNat ((List.range 8).map (fun k => memGet (sigAddr e + k) s.mem))

/-- A vector of the MSI-X table is masked: bit 0 of its last word (log entry 8). -/
def maskedVec (s : State) (vec : Nat) : Bool := ((tget (vec * 16 + 12) s.dev.msix).getD 0).toNat % 2 == 1

/-- The host interrupt of a vector (23 R342, R343), of which there are 2,048: a masked vector is left pending (log entry 8). -/
def sendMsix (s : State) (vec : Nat) : State :=
  if 2048 ≤ vec then s
  else if maskedVec s vec then { s with dev := { s.dev with pba := sadd vec s.dev.pba } }
  else { s with dev := { s.dev with sent := s.dev.sent ++ [(2 ^ 64 + vec, 0)] } }

/-- The compare-and-swap on a descriptor has failed 8 times, since the host changed it each time: free (23 R349; log entry 8). -/
def casFails (s : State) : Bool := freeBit s 0

/-- Notification after an update of an armed entry, or when it is armed (23 R349). -/
def notify (s : State) (ctx i : Nat) : State :=
  match sigEntry s ctx i, getC s ctx with
  | some e, some c =>
    let v := counterOf s e
    if sigArmed e ∧ (if sigCond e then sigTarget e ≤ v else v ≤ sigTarget e) then
      let s1 := setC s ctx { c with signals := tset i (BitVec.ofNat 256 (e.toNat - 2 ^ 205)) c.signals }
      if sigNdesc e = 0 then sendMsix s1 (sigVec e)
      else if casFails s1 then bump (sendMsix s1 (sigVec e))
      else
        let k := 0x400000000000 + sigNdesc e
        let w := memGet k s1.mem
        let s2 := bump <| putKeys s1 k [BitVec.ofNat 8 (Nat.lor w.toNat 2)]
        if w.toNat % 2 = 1 then
          let u := leNat ((List.range 8).map (fun j => memGet (k + 8 + j) s2.mem))
          { s2 with dev := { s2.dev with sent := s2.dev.sent ++ [(u, (memGet (k + 1) s2.mem).toNat)] } }
        else sendMsix s2 (sigVec e)
    else s
  | _, _ => s

/-- A field of a packet (20 R315): n bytes from byte lo. -/
def pktField (p : Pkt) (lo n : Nat) : Nat := bits p.bits.toNat (8 * lo) (8 * n)

/-- A WAIT packet whose signal meets its condition. -/
def waitMet (s : State) (p : Pkt) : Bool :=
  match sigEntry s p.ctx (pktField p 16 2) with
  | none => false
  | some e =>
    let v := counterOf s e
    if pktField p 18 1 = 0 then decide (pktField p 24 8 ≤ v) else v == pktField p 24 8

/-- Begun WAIT packets whose counters, read again, meet their conditions: every agent's write to a counter counts. -/
def metWaits (s : State) : List Nat :=
  (s.pkts.filter (fun p => p.2.phase == .begun && pktField p.2 0 1 == 4 && waitMet s p.2)).map Prod.fst

/-- One update of a counter at its home (23 R347), and what follows it. -/
def updateSignal (s : State) (ctx i : Nat) (set_ : Bool) (v : Nat) : State :=
  match sigEntry s ctx i with
  | none => s
  | some e =>
    let n := if set_ then v else (counterOf s e + v) % 2 ^ 64
    let s1 := if physExists (sigAddr e) then clearPoison (putKeys s (sigAddr e) (toBytes 8 n)) ((List.range 8).map (fun k => Place.phys (sigAddr e + k))) else s
    notify s1 ctx i

/-- SIGNAL_UPDATE (23 R347): an update issued by IO0 is applied at its counter. -/
def execSignalUpdate (id : Nat) (s : State) : Host.Outcome State Fault Refusal :=
  match tget id s.gates with
  | none => .next s
  | some o =>
    match o.op with
    | .qpost k _ _ => .next (updateSignal s o.ctx o.g (k == .set) o.v)
    | _ =>
      let s1 := updateSignal { s with gates := tdel id s.gates } o.ctx o.g (o.result == 1) o.v
      match o.pkt with
      | some p => .next (sched s1 s1.cycle (.packetComplete p))
      | none => .next s1

/-- The host writes a signal entry (23 R347, R349). -/
def writeSignal (s : State) (ctx i : Nat) (e : BitVec 256) (arms : Bool) : State :=
  match getC s ctx with
  | none => s
  | some c =>
    let v := BitVec.ofNat 256 (e.toNat % 2 ^ 207)
    let s1 := setC s ctx { c with signals := tset i v c.signals }
    if arms ∧ sigArmed v then notify s1 ctx i else s1

/-- SIGNAL_ENTRY_WRITE (23 R347, R349). -/
def execSignalEntryWrite (ctx i : Nat) (e : BitVec 256) (s : State) : Host.Outcome State Fault Refusal :=
  if s.dev.ready ∧ i < 65536 then .next (writeSignal s ctx i e true) else .next s

/-- An update of a signal from a packet, issued by IO0. -/
def issueSignal (s : State) (ctx owner i : Nat) (set_ : Bool) (v : Nat) (pkt : Option Nat) : State :=
  let id := s.nextId
  let o : GateOp := ⟨0, ctx, owner, .nop, i, v, [], true, if set_ then 1 else 0, pkt, true⟩
  sched (fresh { s with gates := tset id o s.gates }) s.cycle (.signalUpdate id)

/-! ## Events of the scheduler (20 R302-R305, R309) -/

/-- Stores what an operation did to its context, and its answer. -/
def gateDid (s : State) (id : Nat) (o : GateOp) (c : Ctx) (made : List (BitVec 256)) (old : Nat) : State :=
  let s1 := setC s o.ctx c
  { s1 with gates := tset id { o with applied := true, records := made, result := old } s1.gates }

/-- The single decrement of a task's completion gate (20 R303). -/
def decrementDone (s : State) (id : Nat) (o : GateOp) (c : Ctx) : State :=
  let n := addGate c o.g (-1)
  let q := setGate c o.g n.1
  let s1 := gateDid s id o q.1 q.2 0
  let s2 := match getO s1 o.owner with
    | some w => setO s1 o.owner { w with donegDone := true }
    | none => s1
  if n.2 then gateRange s2 o else s2

/-- GATE_APPLY (20 R302, R304): the operation takes its place in gate order; a TSUB that waits for room looks again. -/
def execGateApply (id : Nat) (s : State) : Host.Outcome State Fault Refusal :=
  match tget id s.gates with
  | none => .next s
  | some o =>
    if !o.sent then .next (sendRecords_ s id o)
    else match (if o.applied then none else getC s o.ctx) with
    | none => .next s
    | some c =>
      match o.op with
      | .tsub _ _ =>
        let q := insertRecords c o.records
        .next (gateDid s id o q.1 q.2 0)
      | .tsubAt _ _ time =>
        .next (schedAt (gateDid s id o { c with later := c.later + o.records.length } o.records 0) time.toNat (.tsubAtInsert id))
      | .gate op _ _ _ =>
        let old := gateCount c o.g
        (match op with
         | .read => .next (gateDid s id o c [] old)
         | .set =>
           let q := setGate c o.g o.v
           .next (gateDid s id o q.1 q.2 old)
         | .add =>
           let n := addGate c o.g (sextZ 32 o.v)
           let q := setGate c o.g n.1
           let s1 := gateDid s id o q.1 q.2 old
           if n.2 then .next (gateRange s1 o) else .next s1)
      | .qpost _ _ _ => .next (sched { s with gates := tset id { o with applied := true } s.gates } s.cycle (.signalUpdate id))
      | _ =>
        match getO s o.owner with
        | some w => if w.donegDone then .next (gateDid s id o c [] 0) else .next (decrementDone s id o c)
        | none => .next (decrementDone s id o c)

/-- The thread of an answered operation retires; a save that waited for the answer takes it then (20 R304). -/
def retireAnswered (s : State) (tid : Nat) : State :=
  let s1 := retirePast s tid
  match getT s1 tid with
  | some t => if t.preempt then saveThread s1 tid (allRegs t) else s1
  | none => s1

/-- The thread of an answered operation retires: GATE's old count is written, and a READ acquires. -/
def gateRetire (s : State) (id : Nat) (o : GateOp) : State :=
  if waitOf s o.tid ≠ some (.gate id) then s
  else
    match o.op with
    | .gate op d _ _ =>
      let s1 := setReg s o.tid d (dataOf o.result)
      retireAnswered (match op with
        | .read => dropAhead s1 o.tid
        | _ => s1) o.tid
    | _ => retireAnswered s o.tid

/-- GATE_REPLY (20 R304): the issuer's park ends, and the records made ready are ready at every station. -/
def execGateReply (id : Nat) (s : State) : Host.Outcome State Fault Refusal :=
  match tget id s.gates with
  | none => .next s
  | some o =>
    match o.op with
    | .tsubAt _ _ _ =>
      if o.v = 1 then .next (addReady (gateRetire { s with gates := tdel id s.gates } id o) o.ctx o.records)
      else .next (gateRetire { s with gates := tset id { o with g := 1 } s.gates } id o)
    | _ => .next (addReady (gateRetire { s with gates := tdel id s.gates } id o) o.ctx o.records)

/-- TSUB_AT_INSERT (20 R305, R315): IO0's counter has reached the time, and the records are inserted. -/
def execTsubAtInsert (id : Nat) (s : State) : Host.Outcome State Fault Refusal :=
  match tget id s.gates with
  | none => .next s
  | some o =>
    match getC s o.ctx with
    | none => .next { s with gates := tdel id s.gates }
    | some c =>
      let q := insertRecords { c with later := c.later - o.records.length } o.records
      let s1 := setC s o.ctx q.1
      match o.pkt with
      | some p => .next (sched (addReady { s1 with gates := tdel id s1.gates } o.ctx q.2) s.cycle (.packetComplete p))
      | none =>
        if o.g = 1 then .next (addReady { s1 with gates := tdel id s1.gates } o.ctx q.2)
        else .next { s1 with gates := tset id { o with v := 1, records := q.2 } s1.gates }

/-- QPOST_ACKNOWLEDGEMENT (20 R309). -/
def execQpostAcknowledgement (id : Nat) (s : State) : Host.Outcome State Fault Refusal :=
  match tget id s.gates with
  | none => .next s
  | some o =>
    let s1 := { s with gates := tdel id s.gates }
    if waitOf s1 o.tid = some (.qpost id) then .next (retireAnswered s1 o.tid) else .next s1

end Sys2Proof.Machine
end

