-- ==== Sys2Proof/Machine/Faults.lean ====
section
/-!
DEFINITION. Faults after the error core has their record: decision, resolution and end (21 R320-R324), fetch faults and
illegal encodings (02 R36, R37), soft errors (01 R20, 21 R325).
-/

namespace Sys2Proof.Machine

/-! ## Faults of the fetch (02 R36, R37) -/

/-- The issuing thread's bundle faults before any part of it executes. -/
def bundleFault (c : Cause) (addr : Thread → Nat) (s : State) : Host.Outcome State Fault Refusal :=
  match issuer s with
  | none => .fault .noIssuer
  | some (i, t) => .next (takeFault s i.tid c (addr t))

/-- ILLEGAL_ENCODING (02 R36): the address is the bundle's. -/
def execIllegalEncoding (s : State) : Host.Outcome State Fault Refusal := bundleFault .illegal (fun t => t.pc.toNat) s

/-- FETCH_FAULT (02 R37): no translation, or a mapping without Execute. -/
def execFetchFault (perm : Bool) (addr : Nat) (s : State) : Host.Outcome State Fault Refusal :=
  bundleFault (if perm then .perm else .xlate) (fun _ => addr) s

/-! ## The decision (21 R319, R321, R322) -/

/-- A page the memory core can give for an address (21 R321). -/
def backingOf (c : Ctx) (va : Nat) : Option (VAddr × Nat × Nat) :=
  c.backing.find? (fun b => va / 2 ^ (12 + 9 * (b.2.2 - 1)) == b.1.toNat / 2 ^ (12 + 9 * (b.2.2 - 1)))

/-- The memory core can resolve a fault: the tables have a valid leaf for the address by now, or the one it can give is valid there, its page
base in a range of 01 R9. -/
def resolvable (s : State) (f : FaultRec) : Bool :=
  match getC s f.ctx with
  | none => false
  | some c =>
    match f.cause with
    | .xlate => (pageWalk s f.ctx f.addr.toNat).leaf.isSome || (match backingOf c f.addr.toNat with
      | some b => (pageWalk (installEntry s f.ctx b.1.toNat b.2.1 b.2.2) f.ctx f.addr.toNat).leaf.isSome
      | none => false)
    | .pool => f.addr.toNat < 2 ^ 63 && decide (0 < c.reserve)
    | _ => false

/-- The command a fault record of an engine stands for. -/
def cmdOfRec (f : FaultRec) : Option Nat := if 2 ^ 32 ≤ f.tid then some (f.tid - 2 ^ 32) else none

/-- A fault that is not resolved writes FLT_CAUSE, FLT_ADDR and FLT_PC of its thread (21 R320). -/
def writeFlt (s : State) (f : FaultRec) : State :=
  match getT s f.tid with
  | none => s
  | some t => if t.owner = f.owner then setT s f.tid (t.flt f.cause f.addr f.pc) else s

/-- An unresolved fault of a thread ends its task or population: its fault registers, an error-log entry and a FAULT status entry
(21 R320, R322). -/
def endThreadFault (s : State) (f : FaultRec) : State :=
  let soft : Bool := f.cause == .softErr
  let s1 := logError (writeFlt s f) f.ctx ⟨f.addr, f.taskid, 0, f.tid % 16, f.tid / 16, 0, f.cause.code, if soft then 5 else 1⟩
  endByFault s1 f.tid f.ctx f.owner f.cause f.pc.toNat

/-- An unresolved fault of an engine: a copy ends with error status (06 R117), any other ends its task (13 R231, 18 R290). -/
def endCmdFault (s : State) (id : Nat) (f : FaultRec) : State :=
  match tget id s.cmds with
  | none => s
  | some c =>
    if c.eng % 8 < 4 then copyStop s id c (.fault f.cause f.addr.toNat)
    else violate s id c (if c.eng % 8 = 5 then 3 else 2) f.cause f.addr.toNat

/-- FAULT_DECISION (21 R321, R322): a fault the memory core can resolve goes to it, any other ends its task; records of a task
that ends already are discarded. -/
def execFaultDecision (r : Nat) (s : State) : Host.Outcome State Fault Refusal :=
  match tget r s.faults with
  | none => .next s
  | some f =>
    let gone : Bool := match getO s f.owner with
      | some o => o.phase == .ending && (cmdOfRec f).isNone
      | none => (cmdOfRec f).isNone
    if gone then .next { s with faults := tdel r s.faults }
    else if resolvable s f then
      let due := s.cycle + 1 + Config.freeNat s.free
      .next (bump (sched s due (if f.cause = Cause.xlate then Instr.xlateResolve r else .poolResolve r)))
    else
      let s1 := { s with faults := tdel r s.faults }
      match cmdOfRec f with
      | some id => .next (endCmdFault s1 id f)
      | none => .next (endThreadFault s1 f)

/-- A resolved fault: its thread replays the bundle, its command goes on (21 R321). -/
def resolved (s : State) (r : Nat) (f : FaultRec) : State :=
  let s1 := { s with faults := tdel r s.faults }
  match cmdOfRec f with
  | some id => (match tget id s1.cmds with
    | some c => if c.phase = .faulted then resumeCmd s1 id c else s1
    | none => s1)
  | none => if waitOf s1 f.tid = some (.faultRec r) then replayThread s1 f.tid f else s1

/-- XLATE_RESOLVE (21 R321): the memory core installs a translation. -/
def execXlateResolve (r : Nat) (s : State) : Host.Outcome State Fault Refusal :=
  match tget r s.faults with
  | none => .next s
  | some f =>
    match getC s f.ctx with
    | none => .next s
    | some c =>
      let va := f.addr.toNat
      let s1 := if (pageWalk s f.ctx va).leaf.isSome then s
        else match backingOf c va with
          | some b => installEntry s f.ctx b.1.toNat b.2.1 b.2.2
          | none => s
      .next (resolved s1 r f)

/-- POOL_RESOLVE (15 R255, 21 R321): sectors move from the reserve into the pool. -/
def execPoolResolve (r : Nat) (s : State) : Host.Outcome State Fault Refusal :=
  match tget r s.faults with
  | none => .next s
  | some f =>
    match getC s f.ctx with
    | none => .next s
    | some c => .next (resolved (setC s f.ctx (refillPool c)) r f)

/-! ## Soft errors (01 R20, 21 R325) -/

/-- An uncorrectable error in a Hawkmoth buffer: what reads the part it hits meets it (01 R20, 21 R325). -/
def poisonHawk (s : State) (cl : Nat) (held : Bool) : State :=
  if held then
    let k := clusterSt s cl
    setCluster s cl { k with held := k.held.map (fun h => { h with poisoned := true }) }
  else
    match (engOf s (cl * 8 + 5)).exec with
    | none => s
    | some id =>
      match tget id s.cmds with
      | none => s
      | some c => { s with cmds := tset id { c with run := c.run.map (fun r => { r with poisoned := true }) } s.cmds }

/-- SOFT_ERR (21 R325): an uncorrectable error poisons its word; a register parity error ends the thread's task. -/
def execSoftErr (t : SoftTarget) (s : State) : Host.Outcome State Fault Refusal :=
  match t with
  | .word key => .next { s with poison := sadd (key / 4 * 4) s.poison }
  | .hawk cl held => .next (poisonHawk s cl held)
  | .thread tid => .next (takeFault (abandonOps s tid) tid .softErr 0)

/-- ECC_CORRECTED (01 R20): logged by the error core, without visible effect. -/
def execEccCorrected (at_ : Nat) (s : State) : Host.Outcome State Fault Refusal :=
  .next { s with dev := { s.dev with corrected := s.dev.corrected ++ [at_] } }

end Sys2Proof.Machine
end

