-- ==== Sys2Proof/Machine/Activate.lean ====
section
/-!
DEFINITION. The steps of a firmware activation that wait for tasks to be saved and populations to end (21 R333).
-/

namespace Sys2Proof.Machine

/-- Bytes of an image's header from an offset on (23 R353). -/
def imageField (i : FwImage) (lo n : Nat) : Nat := leNat ((i.bytes.drop lo).take n)

def fwVersion (i : FwImage) : Nat := imageField i 0x004 4
def fwSvn (i : FwImage) : Nat := imageField i 0x008 4
def fwLayout (i : FwImage) : Nat := imageField i 0x00C 2
def fwPrevLayout (i : FwImage) : Nat := imageField i 0x00E 2

/-- The body: LENGTH bytes from 0x100 on. -/
def fwBody (i : FwImage) : List Byte := (i.bytes.drop 0x100).take (imageField i 0x010 8)

/-- The layouts an image restores: its own and the one before (21 R333, 23 R353). -/
def restores (img : FwImage) (version : Nat) : Bool := version == fwLayout img || version == fwPrevLayout img

/-- Every pool's stations decide again, and packets held back are looked at again. -/
def resumeDispatch (s : State) : State :=
  let s1 := if s.ready.isEmpty then s else (List.range 16).foldl kickPool s
  (s1.pkts.filter (fun p => p.2.phase == .fetched)).foldl (fun u p => schedOnce u u.cycle (.packetBegin p.1)) s1

/-- Cores a population has still to take are looked at again when something on them is freed (20 R316). -/
def pokeCore (s : State) (core : Nat) : State :=
  (s.owners.filter (fun o => o.2.isPop && o.2.waiting.contains core)).foldl (fun u o => schedOnce u u.cycle (.populationDeferredPlace o.1 core)) s

/-- The image runs (23 R346, R354): its version shows in FWVER, and it is measured. -/
def runImage (s : State) (img : FwImage) : State :=
  extendMeas { s with dev := { s.dev with running := some img, fwver := BitVec.ofNat 32 (fwVersion img) } } 1
    (Config.sha384 (img.bytes.take 0x100 ++ fwBody img))

/-- The end of an activation, with or without the new image. -/
def endActivation (s : State) (img : Option FwImage) : State :=
  let s1 := { s with dev := { s.dev with activation := none, activating := false } }
  resumeDispatch (match img with
    | some i => runImage s1 i
    | none => s1)

/-- A context is terminated (21 R333): what it runs ends, and nothing of it is dispatched or fetched again; its status queue stays
for the host (log entry 9). -/
def terminateContext (s : State) (ctx : Nat) : State :=
  let s1 := ((s.owners.filter (fun o => o.2.ctx == ctx)).map Prod.fst).foldl endOwner s
  let s2 := { s1 with ready := s1.ready.filter (fun r => r.ctx != ctx), pkts := s1.pkts.filter (fun p => p.2.ctx != ctx) }
  match getC s2 ctx with
  | some c => setC s2 ctx { c with waiting := [], queues := [], types := [], signals := [], roots := [] }
  | none => s2

/-- An FW_LAYOUT entry (21 R333, 20 R317): with a population's TASKID, or for a saved task with zero. -/
def layoutEntry (s : State) (owner : Nat) (o : Owner) : State :=
  addStatus s o.ctx (statusEntry kFwLayout 0 0 0 0 (if o.isPop then taskidOf s owner else 0) 0 0) none

/-- The saved tasks of a context. -/
def savedOf (s : State) (ctx : Nat) : List (Nat × Owner) := s.owners.filter (fun o => o.2.ctx == ctx && o.2.record_.isSome)

/-- Populations end as after a fault that is not resolved, each with its entry (21 R333). -/
def endPopulations (s : State) : State :=
  (s.owners.filter (fun o => o.2.isPop && o.2.phase != .ending)).foldl (fun u o => endOwner (layoutEntry u o.1 o.2) o.1) s

/-- The saved tasks a new image cannot restore. -/
def unrestorable (s : State) (img : FwImage) : List (Nat × Owner) :=
  s.owners.filter (fun o => match o.2.record_ with
    | some r => !restores img r.version
    | none => false)

/-- Looks at an activation again (21 R333): once every task is saved and every population has ended, the records are checked, and
the image runs or is refused; a forced one ends what stands in its way. -/
def activationStep (s : State) : State :=
  match s.dev.activation with
  | none => s
  | some a =>
    let s1 := if a.forced then endPopulations s else s
    if s1.owners.any (fun o => o.2.isPop || o.2.phase != .saved) then s1
    else
      let bad := unrestorable s1 a.img
      let ctxs := (bad.map (fun o => o.2.ctx)).eraseDups
      if bad.isEmpty then endActivation s1 (some a.img)
      else if a.forced then
        endActivation (ctxs.foldl terminateContext ((ctxs.flatMap (savedOf s1)).foldl (fun u o => layoutEntry u o.1 o.2) s1)) (some a.img)
      else
        endActivation (replyTo s1 a.reply (toBytes 8 ctxs.length)) none

end Sys2Proof.Machine
end

