-- ==== Sys2Proof/Machine/Save.lean ====
section
/-!
DEFINITION. Pre-emption (21 R326-R332, R356): requests, save points, forced saves, the save record with its byte layout, the save
of a task's shared state and the resume.
-/

namespace Sys2Proof.Machine

/-! ## Requests (21 R326, R332) -/

/-- A pre-emption is requested: PREEMPT reads 1 in every thread, and PDIST counts from here; a second request has no effect. -/
def requestPreempt (s : State) (owner : Nat) : State :=
  match getO s owner with
  | none => s
  | some o =>
    if o.isPop ∨ o.phase ≠ .running then s
    else
      let live := liveThreads s owner
      let s1 := setO s owner { o with phase := .saving, requested := some s.cycle, forced := false, forcedPc := none, saved := [] }
      let s2 := { s1 with threads := s1.threads.map (fun p => if p.2.owner = owner then (p.1, { p.2 with preempt := true }) else p) }
      sched (live.foldl (fun u tid => sched u u.cycle (.threadSave tid)) s2) (s.cycle + o.pdist) (.forcedSave owner)

/-- FORCED_SAVE (21 R327): PDIST cycles after the request, threads not saved are saved at their next instruction boundary. -/
def execForcedSave (owner : Nat) (s : State) : Host.Outcome State Fault Refusal :=
  match getO s owner with
  | none => .next s
  | some o =>
    match o.requested with
    | none => .next s
    | some r =>
      if o.phase = .saving ∧ r + o.pdist = s.cycle ∧ o.record_.isNone then
        .next ((liveThreads s owner).foldl (fun u tid => schedOnce u u.cycle (.threadSave tid)) (setO s owner { o with forced := true }))
      else .next s

/-! ## Save points (21 R326, R327) -/

/-- The thread is at a save point: its parked operation is withdrawn, and it waits for what it has outstanding. -/
def hold (s : State) (tid : Nat) (t : Thread) : State := parkAs (rescindOps s tid) tid (.saving (allRegs t))

/-- A running selection stops at the end of its load or plane pass, at once where it still waits for its operands (18 R295). An
uncorrectable error in what would be saved ends its task (21 R325). -/
def stopSelection (s : State) (tid : Nat) (t : Thread) (id : Nat) (c : Cmd) : State :=
  match selectionOf c.op, c.run with
  | some q, some r =>
    let n := q.x.n.toNat
    let cycles := max (passCycles n) 1
    let gone := s.cycle - c.next
    if r.poisoned then violate s id c 3 .softErr 0
    else if s.cycle < c.next ∨ c.next + cycles ≤ s.cycle ∧ (gone % cycles = 0 ∨ cycles * (r.planes + 1) ≤ gone) then
      let c1 := { c with phase := .stopped, live := false, run := some (passes q (planesPassed s c n r.planes) r), pins := [], handles := [] }
      hold (releaseCmd { s with cmds := tset id c1 s.cmds } c) tid t
    else s
  | _, _ => s

/-- A selection whose load waits for a page walk or for the resolution of a fault stops there: no plane has been passed (18 R295). -/
def stopLoad (s : State) (tid : Nat) (t : Thread) (id : Nat) (c : Cmd) : State :=
  match selectionOf c.op with
  | none => s
  | some q =>
    let none_ : HawkRun := { imgs := [], wts := [], cand := 0, surv := 0, aboveN := 0, aboveW := 0, planes := fmtWidth q.x.kf, none_ := false, total := 0, poisoned := false }
    let c1 := { c with phase := .stopped, live := false, err := none, run := some (c.run.getD none_), pins := [], handles := [] }
    hold (releaseCmd { s with cmds := tset id c1 s.cmds } c) tid t

/-- A parked synchronising access is abandoned by a forced save, unless it has been performed (21 R327, 06 R110). -/
def dropSync (s : State) (tid : Nat) (t : Thread) (id : Nat) : State :=
  match tget id s.reqs with
  | some r => if r.performed then s else hold { s with reqs := tset id { r with dropped := true } s.reqs } tid t
  | none => s

/-- An operation that has not reached IO0 is abandoned (20 R304). -/
def dropGate (s : State) (tid : Nat) (t : Thread) (id : Nat) : State :=
  match tget id s.gates with
  | some g => if g.applied then s else hold s tid t
  | none => s

/-- What a pending pre-emption does to a thread where it stands now. -/
def capture (s : State) (tid : Nat) (t : Thread) (forced : Bool) : State :=
  match t.status with
  | .parked w =>
    (match w with
     | .until_ _ => hold s tid t
     | .asleep _ => hold s tid t
     | .port => hold s tid t
     | .relaxedPoint _ => hold s tid t
     | .fenceCmds => hold s tid t
     | .phaseFirst _ _ => hold s tid t
     | .phase _ _ => hold s tid t
     | .cstat _ _ => hold s tid t
     | .cocoon _ => hold s tid t
     | .recordRoom => hold s tid t
     | .fold _ => hold s tid t
     | .gatherRoom => hold s tid t
     | .collective _ => hold (dropGroupsOnly s tid) tid t
     | .stream => setT s tid { t with status := .stopVector }
     | .postRoom => setT s tid { t with status := .stopVector }
     | .claim c => hold (abandonCmd s c) tid t
     | .command c =>
       (match tget c s.cmds with
        | some x =>
          if (selectionOf x.op).isNone then s
          else if x.phase = .queued then hold (abandonCmd s c) tid t
          else if x.phase = .running then stopSelection s tid t c x
          else if x.phase = .faulted then stopLoad s tid t c x
          else s
        | none => s)
     | .faultRec r =>
       (match tget r s.faults with
        | some f =>
          if resolvable s f then
            (match getT s tid with
             | some u => hold (setT s tid { u with
                 replay := some (f.cause, f.addr, f.pc), held := u.held + ((turnAfter s.cycle (tid % 16) - u.issueAt) / 16 - 1) }) tid t
             | none => s)
          else s
        | none => s)
     | .gate g => dropGate s tid t g
     | .qpost g => dropGate s tid t g
     | .fullEmpty r => if forced then dropSync s tid t r else s
     | _ => s)
  | .ready => if forced then hold s tid t else s
  | .launching => if forced then hold s tid t else s
  | _ => s
where
  /-- The pending collective of a parked member is abandoned; its memberships stay until it is saved (09 R169). -/
  dropGroupsOnly (s : State) (tid : Nat) : State :=
    (List.finRange 16).foldl (fun u g =>
      match pendingColl u (tid / 16) g.val with
      | some c => if c.entries.any (fun e => e.slot == tid % 16) then abandonColl u (tid / 16) g.val else u
      | none => u) s

/-- Nothing the thread has issued is outstanding (21 R326): relaxed accesses, posted writes, every access through a handle (17 R282)
and engine commands, copy rings, which stay in place (R328), and stopped selections aside. -/
def saveReady (s : State) (tid : Nat) : Bool :=
  quiet s tid && s.reqs.all (fun r => r.2.tid != tid || r.2.handle.isNone) && s.cmds.all (fun c => c.2.tid != tid || !c.2.live || c.2.phase == .finished || isRing c.2)

/-! ## The save of a thread (21 R326, R330; 10 R190) -/

/-- The entries for a thread's slot in SEQ order. -/
def inboxOf (s : State) (tid : Nat) : List InboxEntry :=
  let c := coreSt s (tid / 16)
  let age := fun (e : InboxEntry) => (e.seq + 2 ^ 16 - (nth 0 (tid % 16) c.nextOut).toNat) % 2 ^ 16
  sortBy (fun x y => decide (age x ≤ age y)) (c.inbox.filter (fun e => e.dslot == tid % 16))

/-- The entries leave the inbox with the thread, their pins kept. -/
def takeInbox (s : State) (tid : Nat) : State :=
  let core := tid / 16
  let c := coreSt s core
  let s1 := setCore s core { c with
    inbox := c.inbox.filter (fun e => e.dslot != tid % 16)
    nextOut := setNth (nth 0 (tid % 16) c.nextIn) (tid % 16) c.nextOut }
  if (inboxOf s tid).isEmpty then s1 else sched s1 s.cycle (.messageReoffer core (tid % 16))

/-- The name a held result bears while its holder is saved. -/
def savedName (tid : Nat) : Nat := tid + 2 ^ 20

/-- Commands and the held result of a saved thread, one still to be restored among them, are no longer its slot's (18 R284). -/
def disown (s : State) (tid : Nat) : State :=
  let s1 := { s with cmds := s.cmds.map (fun c => if c.2.tid = tid ∧ c.2.live then (c.1, { c.2 with live := false }) else c) }
  let k := clusterSt s1 (tid / 256)
  let name := fun (h : Held) => if h.tid = tid then { h with tid := savedName tid } else h
  setCluster s1 (tid / 256) { k with held := k.held.map name, restoring := k.restoring.map name }

/-- What is kept of a saved thread: registers outside the mask read as DATA zero on resume (04 R71); one whose selection was
stopped goes on waiting for it. -/
def savedThread (s : State) (tid : Nat) (t : Thread) (live : Nat) : SavedThread :=
  let sel := s.cmds.find? (fun c => c.2.tid == tid && c.2.owner == t.owner && c.2.phase == .stopped)
  { slot := tid % 16, live := live, inbox := inboxOf s tid
    t := { t with
      g := t.g.zipIdx.map (fun p => if live.testBit p.2 then p.1 else GReg.zero)
      status := match sel with
        | some c => .parked (.command c.1)
        | none => .ready
      preempt := false, pend := [], ahead := [], popDue := none, latch := none, late := none } }

/-- Registers that the save does not keep drop their pins (05 R87): a view loaded beside the mask while the save waited. -/
def dropUnsaved (s : State) (t : Thread) (live : Nat) : State :=
  dropPins s { t with g := (t.g.zipIdx.filter (fun p => !live.testBit p.2)).map Prod.fst }

/-- The thread is saved: its slot and granules return to the core, and the last one starts the save of the shared state. -/
def saveNow (s : State) (tid live : Nat) : State :=
  match getT s tid with
  | none => s
  | some t =>
    match getO s t.owner with
    | none => s
    | some o =>
      let first := o.forced && o.forcedPc.isNone
      let s1 := setO s t.owner { o with
        saved := o.saved ++ [savedThread s tid t live]
        forcedPc := if first then some (t.pc, tid) else o.forcedPc }
      let s2 := if first then
          addStatus s1 o.ctx (statusEntry kOverrun 0 0 (tid / 16) (tid % 16) (taskidOf s t.owner) t.pc.toNat 0) none
        else s1
      let s3 := disown (takeInbox (dropGroups s2 tid) tid) tid
      let s4 := removeThread (abandonOps (dropUnsaved s3 t live) tid) tid
      let s5 := pokeCore s4 (tid / 16)
      if (liveThreads s5 t.owner).isEmpty then sched s5 s5.cycle (.taskSave t.owner) else s5

/-- THREAD_SAVE (21 R326): a thread with a pending pre-emption is looked at until it is saved. -/
def execThreadSave (tid : Nat) (s : State) : Host.Outcome State Fault Refusal :=
  match getT s tid with
  | none => .next s
  | some t =>
    if !t.preempt then .next s
    else
      let forced := match getO s t.owner with
        | some o => o.forced
        | none => false
      let s1 := capture s tid t forced
      let again := schedOnce s1 (s.cycle + 1) (.threadSave tid)
      match waitOf s1 tid with
      | some (.saving live) => .next (if saveReady s1 tid then saveNow s1 tid live else again)
      | _ => .next again

/-! ## The save record (21 R329, R330, R356) -/

def align64 (n : Nat) : Nat := ceilDiv n 64 * 64

/-- Registers a mask names. -/
def maskCount (m : Nat) : Nat := ((List.range 32).filter (fun k => m.testBit k)).length

/-- Bytes of a thread record (21 R330). -/
def threadRecordSize (v : SavedThread) : Nat := 128 + 16 * maskCount v.live

/-- Bytes of a tile record (21 R356). -/
def tileRecordSize (cl : Nat) : Nat := if isF4 cl then 264256 else 66624

/-- Bytes of the record up to its tile states: each section starts on a 64-byte boundary. -/
def headSize (threads : List SavedThread) (bars : Nat) : Nat :=
  128 + align64 ((threads.map threadRecordSize).sum) + align64 (bars * (32 + 4 * threads.length))
    + align64 (32 * (threads.map (fun v => v.inbox.length)).sum)

/-- Bytes of the Hawkmoth section. -/
def hawkSize (r : SaveRec) : Nat := (if r.hawk.isSome then 16512 else 0) + (if r.held.isSome then 8256 else 0)

/-- Bytes of a whole record. -/
def recordSize (r : SaveRec) : Nat :=
  headSize r.threads r.bars.length + r.tiles.length * tileRecordSize (r.home / 16) + hawkSize r + r.units * (4096 + 256)

/-- FLAGS of the header. -/
def recordFlags (r : SaveRec) : Nat :=
  (if r.forced then 1 else 0) + (if r.toCluster then 2 else 0) + (if r.toCore then 4 else 0) + (if r.hawk.isSome then 8 else 0)
    + (if r.held.isSome then 16 else 0)

/-- The header of a record, byte by byte (21 R329). -/
def recordHeader (taskid : DWord) (rec_ : BitVec 256) (r : SaveRec) : List Byte :=
  toBytes 4 r.version ++ toBytes 4 (recordFlags r) ++ toBytes 8 taskid.toNat ++ toBytes 32 rec_.toNat ++ toBytes 4 r.home
    ++ toBytes 2 r.threads.length ++ toBytes 2 ((r.tiles.map (fun t => 2 ^ t.tile)).sum) ++ toBytes 4 r.units ++ toBytes 4 r.bars.length
    ++ toBytes 8 r.alloc ++ toBytes 56 0

/-- A thread record, byte by byte (21 R330). -/
def threadRecord (v : SavedThread) : List Byte :=
  let t := v.t
  toBytes 8 t.pc.toNat ++ (t.m.map (fun m => toBytes 2 m.toNat)).flatten ++ toBytes 2 t.groups.toNat ++ toBytes 1 v.slot
    ++ toBytes 1 t.nregs ++ toBytes 4 v.live ++ toBytes 4 t.rmode.toNat ++ toBytes 4 t.amax.toNat ++ toBytes 4 t.feLimit.toNat
    ++ toBytes 4 t.fltCause.toNat ++ toBytes 8 t.fltAddr.toNat ++ toBytes 8 t.fltPc.toNat
    ++ toBytes 16 ((t.g.zipIdx.map (fun p => p.1.kind.code * 16 ^ p.2)).sum) ++ toBytes 48 0
    ++ ((t.g.zipIdx.filter (fun p => v.live.testBit p.2)).map (fun p => toBytes 16 p.1.bits.toNat)).flatten

/-- A section filled up to a 64-byte boundary. -/
def section64 (bs : List Byte) : List Byte := bs ++ toBytes (align64 bs.length - bs.length) 0

/-- A barrier's state, its fields from bit 0 on in the order and widths of 09 R176 (DESIGN CHOICE, log entry 59), and an arrival record
of each thread (21 R329). -/
def barrierBytes (threads : List SavedThread) (n : Nat) (b : Barrier) : List Byte :=
  toBytes 32 ((if b.err.isSome then 1 else 0) + b.scope % 8 * 2 + b.count % 2 ^ 16 * 2 ^ 4 + b.timeout % 2 ^ 16 * 2 ^ 20
      + b.phase % 2 ^ 32 * 2 ^ 36 + b.arrived % 2 ^ 16 * 2 ^ 68 + b.expect % 2 ^ 48 * 2 ^ 84 + b.delivered % 2 ^ 48 * 2 ^ 132)
    ++ (threads.map (fun v => toBytes 4 (match tget n v.t.arrivals with
        | some p => 2 ^ 31 + p % 2 ^ 31
        | none => 0))).flatten

/-- An inbox entry in 32 bytes, its fields where 10 R187 has them. -/
def inboxBytes (e : InboxEntry) : List Byte :=
  toBytes 32 (e.payload.bits.toNat + e.payload.kind.code * 2 ^ 128 + e.tag.toNat * 2 ^ 132 + e.dslot % 16 * 2 ^ 140 + e.score % 4096 * 2 ^ 144
    + e.sslot % 16 * 2 ^ 156 + e.seq % 2 ^ 16 * 2 ^ 160 + e.ctx % 64 * 2 ^ 176)

/-- Bytes at offsets, zero where none is given; the offsets rise. -/
def spread : Nat → Nat → List (Nat × Byte) → List Byte
  | _, 0, _ => []
  | k, n + 1, [] => 0 :: spread (k + 1) n []
  | k, n + 1, (a, b) :: rest => if a = k then b :: spread (k + 1) n rest else 0 :: spread (k + 1) n ((a, b) :: rest)

/-- The header of the Hawkmoth section (21 R356). -/
def hawkHeader (c : Cmd) (q : Selection) (r : HawkRun) : List Byte :=
  ((Bundle.encode ⟨c.op, none⟩).map (toBytes 4)).flatten ++ toBytes 4 q.x.n.toNat ++ toBytes 4 r.planes ++ toBytes 4 r.aboveN
    ++ toBytes 4 (if q.weighted then q.p else lo64 c.b) ++ toBytes 4 0 ++ toBytes 40 r.aboveW ++ toBytes 56 0

/-- The Hawkmoth section (21 R356): header, candidate and survivor masks, held result with its size. -/
def hawkSection (r : SaveRec) : List Byte :=
  (match r.hawk with
   | some c => (match selectionOf c.op, c.run with
     | some q, some u => hawkHeader c q u ++ toBytes 8192 u.cand ++ toBytes 8192 u.surv
     | _, _ => toBytes 16512 0)
   | none => [])
  ++ (match r.held with
   | some h => toBytes 4 h.n ++ toBytes 60 0 ++ toBytes 8192 h.mask
   | none => [])

/-- The side table (21 R329): of each granule its full/empty bits, a set one FULL, and its tag. -/
def sideTable (r : SaveRec) : List Byte :=
  (List.range (r.units * 256)).map (fun k =>
    let full := (List.range 4).map (fun i => if smem (16 * k + 4 * i) r.empties then 0 else 2 ^ i)
    BitVec.ofNat 8 (full.sum + if smem (16 * k) r.tags then 16 else 0))

/-- A tile-state record up to its elements, byte by byte (21 R356). -/
def tileHeader (cl : Nat) (v : SavedTile) : List Byte :=
  let rows := if isF4 cl then 256 else 128
  toBytes 1 v.tile ++ toBytes 1 (if isF4 cl then 0 else 1) ++ toBytes 2 v.st.drows ++ toBytes 4 v.st.init.toNat ++ toBytes 56 0
    ++ ((List.range rows).map (fun i => toBytes 8 ((tget i v.st.maskp).getD 0xFFFF))).flatten

/-- A whole record, byte by byte: header and sections in order (21 R329). -/
def recordBytes (taskid : DWord) (rec_ : BitVec 256) (r : SaveRec) : List Byte :=
  let cl := r.home / 16
  recordHeader taskid rec_ r ++ section64 ((r.threads.map threadRecord).flatten)
    ++ section64 ((r.bars.zipIdx.map (fun b => barrierBytes r.threads b.2 b.1)).flatten)
    ++ section64 ((r.threads.map (fun v => (v.inbox.map inboxBytes).flatten)).flatten)
    ++ (r.tiles.map (fun v => tileHeader cl v ++ spread 0 (if isF4 cl then 0x40000 else 0x10000) v.cells)).flatten
    ++ hawkSection r ++ spread 0 (r.units * 4096) r.image ++ sideTable r

/-- Where record k of a context stands: in 2 MiB of stacked DRAM of its own (DESIGN CHOICE, log entry 59). -/
def recordArea (ctx k : Nat) : Nat := (Config.saveArea ctx + k) % 0x30000 * 0x200000

/-- The first place of a context's reserve that no record of it takes. -/
def freeArea (s : State) (ctx : Nat) : Nat :=
  let taken := s.owners.filterMap (fun o => if o.2.ctx = ctx then o.2.record_.map SaveRec.base else none)
  recordArea ctx (((List.range (taken.length + 1)).find? (fun k => !taken.contains (recordArea ctx k))).getD 0)

/-- A record is written to its place. -/
def writeRecordBytes (s : State) (owner : Nat) (o : Owner) (r : SaveRec) : State :=
  let bs := recordBytes (taskidOf s owner) o.record r
  { s with
    mem := memSplice r.base bs s.mem
    poison := s.poison.filter (fun w => decide (w < r.base) || decide (r.base + bs.length ≤ w)) }

/-! ## The save of the shared state (21 R328) -/

/-- Memory of a run of keys, as offsets. -/
def cellsOf (s : State) (lo n : Nat) : List (Nat × Byte) :=
  (s.mem.filter (fun c => decide (lo ≤ c.1) && decide (c.1 < lo + n))).map (fun c => (c.1 - lo, c.2))

/-- Numbers of a rising list in a run, as offsets. -/
def marksOf (ks : List Nat) (lo n : Nat) : List Nat := (ks.filter (fun k => decide (lo ≤ k) && decide (k < lo + n))).map (fun k => k - lo)

/-- The first key of a tile's elements. -/
def tileBase (cl t : Nat) : Nat := placeKey (.acc cl (t * 0x40000))

/-- Tiles of a cluster an owner owns, by number. -/
def tilesOf (s : State) (cl owner : Nat) : List Nat :=
  (List.range 4).filter (fun t => (nth Tile.reset t (clusterSt s cl).tiles).owner == some owner)

/-- A CPYS of a saved thread is still to deliver elements, whether or not a register holds its stream (21 R328). -/
def ringRuns (c : Cmd) (owner : Nat) : Bool := c.owner == owner && isRing c && !c.live && c.phase != .finished && decide (c.next < c.total)

/-- A copy-fed stream of the thread has elements still to come (21 R331). -/
def ringOpen (s : State) (v : SavedThread) : Bool :=
  v.t.rings.any (fun r => match tget r.2 s.cmds with
    | some c => decide (c.passed < c.total)
    | none => false)

/-- The record of a task whose threads are all saved: its thread records stand in the order of their saves (log entry 28). -/
def buildRecord (s : State) (owner : Nat) (o : Owner) (p : Placement) : SaveRec :=
  let cl := p.core / 16
  let k := unitKeys p.core p.unit0 p.units
  let n := p.units * 4096
  let tiles := (tilesOf s cl owner).map (fun t => { tile := t, st := nth Tile.reset t (clusterSt s cl).tiles, cells := cellsOf s (tileBase cl t) 0x40000 : SavedTile })
  let hawk := (s.cmds.find? (fun c => c.2.owner == owner && c.2.phase == .stopped)).map Prod.snd
  let held := ((clusterSt s cl).held.toList ++ (clusterSt s cl).restoring).find? (fun h => h.owner == owner && decide (2 ^ 20 ≤ h.tid))
  let handles := (clusterSt s cl).hlt.any (fun e => e.2.owner == some owner)
    || o.saved.any (fun v => v.t.g.any (fun g => g.kind == .coc) || v.inbox.any (fun e => e.payload.kind == .coc))
  let base := freeArea s o.ctx
  let there := placeTime cl (.phys base)
  let head := headSize o.saved p.bars.length
  let tileBytes := tiles.length * tileRecordSize cl
  let hawkBytes := (if hawk.isSome then 16512 else 0) + (if held.isSome then 8256 else 0)
  { forced := o.forcedPc.isSome
    toCluster := handles || !tiles.isEmpty || hawk.isSome || held.isSome
    toCore := o.saved.any (ringOpen s) || s.cmds.any (fun c => ringRuns c.2 owner)
    home := p.core, alloc := lsAddr p.core (p.unit0 * 4096), units := p.units
    threads := o.saved
    bars := p.bars.map (fun b => { b with clock := none }), tiles := tiles, hawk := hawk, held := held
    image := cellsOf s k.1 n, empties := marksOf s.empties k.1 n, tags := marksOf s.tags k.1 n, base := base
    version := match s.dev.running with
      | some i => fwLayout i
      | none => 3
    tilesAt := s.cycle + ceilDiv (head + tileBytes) 64 + there
    hawkAt := s.cycle + ceilDiv (head + tileBytes + hawkBytes) 64 + there }

/-- A word with an uncorrectable error that the save reads (21 R325). -/
def savePoison (s : State) (owner : Nat) (p : Placement) : Option Nat :=
  let k := unitKeys p.core p.unit0 p.units
  match poisonIn s k.1 (p.units * 4096) with
  | some w => some w
  | none =>
    match (tilesOf s (p.core / 16) owner).findSome? (fun t => poisonIn s (tileBase (p.core / 16) t) 0x40000) with
    | some w => some w
    | none => if (clusterSt s (p.core / 16)).held.any (fun h => h.owner == owner && h.poisoned) then some onchipBase else none

/-- The placement of a task. -/
def placeOf (s : State) (owner : Nat) : Option Placement := (s.places.find? (fun p => p.2.owner == owner)).map Prod.snd

/-- Commands, CSTAT records still to be written and confirmed additions that the save of the shared state waits for (21 R328, 13 R241,
09 R184, R185). -/
def saveWaits (s : State) (owner : Nat) (p : Placement) : Bool :=
  s.cstats.any (fun c => c.2.owner == owner) ||
  s.cmds.any (fun c => c.2.owner == owner && c.2.phase != .finished && c.2.phase != .stopped && !isRing c.2)
    || (tilesOf s (p.core / 16) owner).any (fun t => (nth Tile.reset t (clusterSt s (p.core / 16)).tiles).confirmed != 0)

/-- The tiles whose states have been written are released (13 R241), and the engine whose state has been written goes on (18 R284,
R295). -/
def releaseWritten (s : State) (owner : Nat) (r : SaveRec) : State :=
  let cl := r.home / 16
  let s1 := if r.tilesAt ≤ s.cycle then (tilesOf s cl owner).foldl (fun u t => releaseTile u cl t) s else s
  if s.cycle < r.hawkAt then s1
  else
    let s2 := match s1.cmds.find? (fun c => c.2.owner == owner && c.2.phase == .stopped) with
      | some c => freeEngine s1 c.2.eng c.1
      | none => s1
    match r.held with
    | some h =>
      let k := clusterSt s2 cl
      if k.held = some h ∨ h ∈ k.restoring then
        kickEngine (setCluster s2 cl { k with held := k.held.filter (fun x => x != h), restoring := k.restoring.filter (fun x => x != h) }) cl 5
      else s2
    | none => s2

/-- TASK_SAVE (21 R328): with every thread saved, the shared state is written to the record at 64 bytes a cycle (22 R340); a poisoned
word ends the task instead. -/
def execTaskSave (owner : Nat) (s : State) : Host.Outcome State Fault Refusal :=
  match getO s owner, placeOf s owner with
  | some o, some p =>
    if o.phase ≠ .saving ∨ o.saved.isEmpty ∨ !(liveThreads s owner).isEmpty then .next s
    else
      match o.record_ with
      | some r => .next (releaseWritten s owner r)
      | none =>
        if saveWaits s owner p then .next (schedOnce s (s.cycle + 1) (.taskSave owner))
        else
          match savePoison s owner p, o.saved with
          | some w, v :: _ =>
            .next (endThreadFault s ⟨p.core * 16 + v.slot, o.ctx, owner, .softErr, BitVec.ofNat 64 (w % onchipBase), v.t.pc, taskidOf s owner⟩)
          | _, _ =>
            let r := buildRecord s owner o p
            let there := placeTime (p.core / 16) (.phys r.base)
            let s1 := setO s owner { o with record_ := some r }
            .next (sched (sched (sched s1 r.tilesAt (.taskSave owner)) r.hawkAt (.taskSave owner)) (s.cycle + ceilDiv (recordSize r) 64 + there)
              (.taskSaveComplete owner))
  | _, _ => .next s

/-! ## Resume (21 R331) -/

/-- A move of an address range: first address, bytes, first address of its new place. -/
structure Move where
  lo : Nat
  n : Nat
  to_ : Nat
  deriving DecidableEq, Repr

/-- The move that holds a whole range. -/
def moveOf (ms : List Move) (a n : Nat) : Option Move := ms.find? (fun m => decide (m.lo ≤ a) && decide (a + n ≤ m.lo + m.n))

/-- A saved value at its new place: an Onchip CAP, or a stream over the task's own local store (21 R331). The first move is the
allocation's, the others the record copies'. -/
def relocate (ms : List Move) (g : GReg) : GReg :=
  match g.kind with
  | .cap =>
    let b := g.bits
    (match (if capOnchip b then moveOf ms (capBase b) (capLen b) else none) with
     | some m => ⟨.cap, mkCap (capBase b - m.lo + m.to_) (capLen b) (capCur b) (bits b.toNat 112 8) (capStep b)⟩
     | none => g)
  | .strm =>
    let b := g.bits
    (match (if strmSrc b = 0 then moveOf (ms.take 1) (strmBase b) (ceilDiv (strmCount b * strmW b) 8) else none) with
     | some m => ⟨.strm, mkStrm (strmBase b - m.lo + m.to_) (strmCount b) (strmCur b) (strmFmt b) (strmWrite b) 0 (bits b.toNat 111 1 == 1) (strmLink b)⟩
     | none => g)
  | _ => g

/-- Slots the threads of a resume take: the lowest free, in saved order (log entry 28). -/
def resumeSlots (s : State) (core n : Nat) : List Nat := (freeSlots s core).take n

/-- The moves of a resume. -/
def movesOf (r : SaveRec) (core unit0 : Nat) (slots : List Nat) : List Move :=
  ⟨r.alloc, r.units * 4096, lsAddr core (unit0 * 4096)⟩ ::
    (r.threads.zip slots).map (fun p => ⟨recAddr (r.home * 16 + p.1.slot), 32, recAddr (core * 16 + p.2)⟩)

/-- Tagged granules of an allocation, at their offsets in it, are relocated. -/
def relocateTags (s : State) (core unit0 : Nat) (tags : List Nat) (ms : List Move) : State :=
  tags.foldl (fun u k =>
    let ps := placeRun (.ls core (unit0 * 4096 + k)) 16
    let v := loadValue u ps
    let w := relocate ms v
    let key := placeKey (.ls core (unit0 * 4096 + k))
    if w = v then u else serveRange u (storeTagged u ps w) key (key + 16)) s

/-- The local-store image and its side table are restored. -/
def restoreImage (s : State) (r : SaveRec) (core unit0 : Nat) : State :=
  let k := unitKeys core unit0 r.units
  serveRange s { s with
    mem := r.image.foldl (fun m c => memPut (k.1 + c.1) c.2 m) s.mem
    empties := r.empties.foldl (fun e o => sadd (k.1 + o) e) s.empties
    tags := r.tags.foldl (fun e o => sadd (k.1 + o) e) s.tags } k.1 k.2

/-- The tiles are claimed again and restored (13 R241). -/
def restoreTiles (s : State) (cl : Nat) (r : SaveRec) : State :=
  r.tiles.foldl (fun u v =>
    let base := tileBase cl v.tile
    setTile (cleanKeys { u with mem := v.cells.foldl (fun m c => memPut (base + c.1) c.2 m) u.mem } base 0x40000) cl v.tile v.st) s

/-- Saved messages enter the inbox for the new slot (10 R190) under fresh consecutive numbers from its NEXT_OUT on: a gap that a message in
the overflow heap has left among the saved ones closes (DESIGN CHOICE, log entry 46: the spec gives no numbers). -/
def restoreInbox (s : State) (core slot : Nat) (es : List InboxEntry) : State :=
  let c := coreSt s core
  let out := nth 0 slot c.nextOut
  setCore s core { c with
    inbox := c.inbox ++ es.zipIdx.map (fun e => { e.1 with dslot := slot, seq := (out + BitVec.ofNat 16 e.2).toNat })
    nextIn := setNth (out + BitVec.ofNat 16 es.length) slot c.nextIn }

/-- The command of a stopped selection or of a ring belongs to the resumed thread; a selection's operands move with it. -/
def adopt (s : State) (tid id : Nat) (ms : List Move) : State :=
  match tget id s.cmds with
  | none => s
  | some c =>
    if c.phase = .stopped then
      let gs := [c.a, c.b, c.d, c.m].map (relocate ms)
      let h := holdOperands s tid c.ctx gs
      { h.1 with cmds := tset id { c with
          tid := tid, live := true, handles := h.2.1, pins := h.2.2, a := nth c.a 0 gs, b := nth c.b 1 gs, d := nth c.d 2 gs, m := nth c.m 3 gs } h.1.cmds }
    else { s with cmds := tset id { c with tid := tid, live := true } s.cmds }

/-- One saved thread is restored in its new slot. The copies it has still under way are its own again (11 R220). -/
def restoreThread (o : Owner) (owner core ready : Nat) (ms : List Move) (r : SaveRec) (s : State) (p : SavedThread × Nat) : State :=
  let v := p.1
  let tid := core * 16 + p.2
  let g := v.t.g.map (fun x => if x.kind = .port then ⟨.port, BitVec.ofNat 128 p.2⟩ else relocate ms x)
  let waits := r.held.any (fun h => h.tid == savedName (r.home * 16 + v.slot))
  let status := match v.t.status with
    | .parked w => Status.parked w
    | _ => .launching
  let next := if waits then 0 else ready
  let t := { v.t with g := g, owner := owner, status := status, nextIssue := next, issueAt := ready, preempt := false,
                      seed1 := relocate ms v.t.seed1, seed4 := relocate ms v.t.seed4 }
  let s1 := restoreInbox (setT (writeRecord s tid o.record) tid t) core p.2 v.inbox
  let s2 := g.foldl (fun u x => if x.kind = .coc then setHolder u tid x.bits else u) s1
  let rings := (s.cmds.filter (fun c => ringRuns c.2 owner && c.2.tid == r.home * 16 + v.slot)).map Prod.fst
  let ids := v.t.rings.map Prod.snd ++ rings ++ (match v.t.status with
    | .parked (.command c) => [c]
    | _ => [])
  ids.eraseDups.foldl (fun u id => adopt u tid id ms) s2

/-- CSTAT arrivals of a restored barrier belong to the new names and places. -/
def restoreBar (r : SaveRec) (core unit0 : Nat) (slots : List Nat) (b : Barrier) : Barrier :=
  let name := fun (tid : Nat) => match (r.threads.zip slots).find? (fun p => r.home * 16 + p.1.slot == tid) with
    | some p => core * 16 + p.2
    | none => tid
  let old := r.alloc - lsAddr r.home 0
  let place := fun (q : Place) => match q with
    | .ls c off => if c = r.home ∧ old ≤ off ∧ off < old + r.units * 4096 then Place.ls core (off - old + unit0 * 4096) else q
    | _ => q
  { b with cstat := b.cstat.map (fun e => (name e.1, e.2.map place)) }

/-- A group number some saved thread belonged to is in use on a core (21 R331). -/
def groupsTaken (s : State) (r : SaveRec) (core : Nat) : Bool :=
  (threadsOn s core).any (fun p => r.threads.any (fun v => (v.t.groups &&& p.2.groups) != 0))

/-- The shape a resume takes. -/
def resumeShape (o : Owner) (r : SaveRec) : Shape :=
  ⟨r.threads.length, o.nregs, if r.toCore then 0 else r.units, if r.toCore then 0 else r.bars.length, o.ctx, false,
    (r.threads.map (fun v => v.inbox.length)).sum⟩

/-- A core may take a resume: HOME, HOME's cluster or any; groups and tiles free there (21 R331, 13 R241). -/
def canResume (s : State) (o : Owner) (r : SaveRec) (core : Nat) (forOrder : Option Nat) : Option Nat :=
  let cl := core / 16
  if (r.toCore ∧ core ≠ r.home) ∨ (r.toCluster ∧ cl ≠ r.home / 16) ∨ groupsTaken s r core
      ∨ !r.tiles.all (fun t => (nth Tile.reset t.tile (clusterSt s cl).tiles).owner.isNone) then none
  else (canTake s core (resumeShape o r) forOrder).map (fun u => if r.toCore then (r.alloc - lsAddr r.home 0) / 4096 else u)

/-- The local store and the barriers of a resume: restored, or, of a record bound to its core, as they stayed in place, with what
names the threads' old places moved. -/
def restorePlace (s : State) (o : Owner) (r : SaveRec) (owner core unit0 : Nat) (slots : List Nat) (ms : List Move) (ready : Nat) : State :=
  if r.toCore then
    match getP s owner core with
    | none => s
    | some p =>
      let k := unitKeys core p.unit0 p.units
      relocateTags (setP s { p with bars := p.bars.map (restoreBar r core unit0 slots), ready := ready, placed := s.time }) core p.unit0
        (marksOf s.tags k.1 (p.units * 4096)) ms
  else
    setP (relocateTags (restoreImage (clearUnits s core unit0 r.units) r core unit0) core unit0 r.tags ms)
      ⟨owner, core, unit0, r.units, r.bars.map (restoreBar r core unit0 slots), o.threads, ready, s.time⟩

/-- RESUME (21 R331): the placement of the saved shape, everything restored and relocated before the first issue. The task's placement
time is the resume's from then on (DEDUCED, log entry 43). -/
def resumeOn (s : State) (owner core unit0 : Nat) : State :=
  match getO s owner with
  | none => s
  | some o =>
    match o.record_ with
    | none => s
    | some r =>
      let slots := resumeSlots s core r.threads.length
      let ms := movesOf r core unit0 slots
      let bytes := r.units * (4096 + 256) + r.tiles.length * tileRecordSize (core / 16) + hawkSize r
      let ready := readyCycle s core (r.threads.length * (o.nregs / 8)) bytes
      let s1 := restorePlace s o r owner core unit0 slots ms ready
      let s2 := restoreTiles s1 (core / 16) r
      let s3 := setO s2 owner { o with phase := .running, requested := none, forced := false, forcedPc := none, saved := [], record_ := none, resumed := true, placed := s.time }
      let s4 := (r.threads.zip slots).foldl (restoreThread o owner core ready ms r) s3
      let held := match r.held with
        | some h => (r.threads.zip slots).filterMap (fun p => if savedName (r.home * 16 + p.1.slot) = h.tid then some { h with tid := core * 16 + p.2 } else none)
        | none => []
      let k := clusterSt s4 (core / 16)
      let s5 := setCluster s4 (core / 16) { k with restoring := k.restoring ++ held }
      let c := coreSt s5 core
      let s6 := sched (setCore s5 core { c with clearBusy := clearDone s core (r.threads.length * (o.nregs / 8)) }) ready (.threadReady (readyName owner core))
      let s7 := if held.isEmpty then s6 else sched s6 s6.cycle (.heldResultRestore (core / 16))
      if r.hawk.isSome then sched s7 ready (.heldResultRestore (core / 16)) else s7

/-- A resume whose record has a word with an uncorrectable error ends its task (21 R325). -/
def resumeRecord (s : State) (owner core unit0 : Nat) : State :=
  match getO s owner with
  | none => s
  | some o =>
    match o.record_ with
    | none => s
    | some r =>
      match poisonIn s r.base (recordSize r), r.threads with
      | some w, v :: _ => endThreadFault s ⟨r.home * 16 + v.slot, o.ctx, owner, .softErr, BitVec.ofNat 64 w, v.t.pc, taskidOf s owner⟩
      | _, _ => resumeOn s owner core unit0

/-- Saved selections of resumed tasks go to the head of the engine's queue (18 R295). -/
def requeueSelections (s : State) (cl : Nat) : State :=
  let mine := s.cmds.filter (fun c => c.2.phase == .stopped && c.2.live && c.2.eng == cl * 8 + 5 &&
    (match getP s c.2.owner (c.2.tid / 16) with
     | some p => decide (p.ready ≤ s.cycle)
     | none => false))
  mine.foldl (fun u c =>
    let e := engOf u (cl * 8 + 5)
    kickEngine (setEng { u with cmds := tset c.1 { c.2 with phase := .queued } u.cmds } (cl * 8 + 5) { e with queue := c.1 :: e.queue }) cl 5) s

/-- HELD_RESULT_RESTORE (18 R284, R295): a resumed thread's held result enters the engine once its command has completed, ahead of
every queued one, and the thread may issue; a saved selection goes to the head of the queue. -/
def execHeldResultRestore (cl : Nat) (s : State) : Host.Outcome State Fault Refusal :=
  let s1 := requeueSelections s cl
  let k := clusterSt s1 cl
  match k.restoring with
  | [] => .next s1
  | h :: rest =>
    if (engOf s1 (cl * 8 + 5)).exec.isSome ∨ k.held.isSome then .next (schedOnce s1 (s.cycle + 1) (.heldResultRestore cl))
    else
      let s2 := setCluster s1 cl { k with held := some h, restoring := rest }
      let s3 := if rest.isEmpty then kickEngine s2 cl 5 else schedOnce s2 (s.cycle + 1) (.heldResultRestore cl)
      match getT s3 h.tid with
      | none => .next s3
      | some t =>
        if t.status ≠ .launching then .next s3
        else
          let ready := match getP s3 t.owner (h.tid / 16) with
            | some p => p.ready
            | none => s.cycle
          if s.cycle < ready then .next (setT s3 h.tid { t with nextIssue := ready })
          else .next (setT s3 h.tid { t with status := .ready, nextIssue := turnAfter s.cycle (h.tid % 16) })

end Sys2Proof.Machine
end

