-- ==== Sys2Proof/Machine/Dispatcher.lean ====
section
/-!
DEFINITION. The dispatcher (20 R310-R313), reservations, population placements (20 R316), the end of a task or population (04 R61),
units scrubbed (06 R100), the completion of a save (21 R328), and Bridle (20 R314).
-/

namespace Sys2Proof.Machine

/-! ## Ready tasks (20 R310) -/

/-- A core's pool; 0 unless assigned (20 R299, log entry 7). -/
def poolOf (s : State) (core : Nat) : Nat := (tget core s.pools).getD 0

/-- A core's class is one a task accepts: 0 ANY, 1 F4, 2 B16 (20 R299). -/
def classOk (cls core : Nat) : Bool := cls == 0 || (cls == 1 && isF4 (core / 16)) || (cls == 2 && !isF4 (core / 16))

/-- A ready task as the dispatcher sees it. -/
structure Cand where
  ready : Ready
  pool : Nat
  cls : Nat
  prio : Nat
  /-- none for a task without a deadline. -/
  key : Option Int
  shape : Shape
  deriving DecidableEq, Repr

/-- The key of a record: its deadline less the counter, in 48 bits (20 R310). -/
def keyOf (s : State) (r : BitVec 256) : Option Int :=
  if recNodl r then none else some (sextZ 48 (recDeadline r + 2 ^ 48 - s.time % 2 ^ 48))

/-- The effective priority of a record of a type (20 R301). -/
def prioOf (r : BitVec 256) (e : BitVec 512) : Nat := if recPdef r then typPrio e else recPrio r

/-- A ready entry as a candidate. -/
def candOf (s : State) (r : Ready) : Option Cand :=
  match r.resume with
  | some owner => (match getO s owner with
    | some o => (match o.record_ with
      | some v => some ⟨r, o.pool, o.cls, o.prio, keyOf s o.record, resumeShape o v⟩
      | none => none)
    | none => none)
  | none => match getC s r.ctx with
    | none => none
    | some c => match typOf c r.record with
      | none => none
      | some e => some ⟨r, typPool e, typClass e, prioOf r.record e, keyOf s r.record, ⟨typThreads e, typRegs e, typLocal e, typBars e, r.ctx, false, 0⟩⟩

/-- The ready tasks of a pool, in ready order. -/
def candsOf (s : State) (pool : Nat) : List Cand :=
  sortBy (fun a b => decide (a.ready.order ≤ b.ready.order)) ((s.ready.filterMap (candOf s)).filter (fun c => c.pool == pool))

/-- Those a decision of this cycle considers: a task is decided at the first decision cycle after it becomes ready (20 R313). -/
def decidable_ (s : State) (pool : Nat) : List Cand := (candsOf s pool).filter (fun c => decide (c.ready.since < s.cycle))

/-- One key comes before another. -/
def keyBefore (a b : Option Int) : Bool :=
  match a, b with
  | some x, some y => decide (x < y)
  | some _, none => true
  | none, _ => false

/-- a is chosen before b: by priority, key, ready order. -/
def better (a b : Cand) : Bool :=
  if a.prio ≠ b.prio then decide (b.prio < a.prio)
  else if keyBefore a.key b.key then true
  else if keyBefore b.key a.key then false
  else decide (a.ready.order ≤ b.ready.order)

/-- The best of some ready tasks. -/
def best (cs : List Cand) : Option Cand := (sortBy better cs).head?

/-- A core with a population to take accepts no task before it (20 R316). -/
def coreHeld (s : State) (core : Nat) : Bool := s.owners.any (fun o => o.2.isPop && o.2.waiting.contains core)

/-- A core of the candidate's pool and class can take it now: its first unit. What a reservation keeps for it counts only when
the reservation has come due (20 R312). -/
def coreTakes (s : State) (c : Cand) (core : Nat) (due : Option Nat) : Option Nat :=
  if poolOf s core ≠ c.pool ∨ !classOk c.cls core then none
  else
    match c.ready.resume with
    | none => canTake s core c.shape due
    | some owner => (match getO s owner with
      | some o => (match o.record_ with
        | some r => canResume s o r core due
        | none => none)
      | none => none)

/-- The cores of a die that take a candidate. -/
def takers (s : State) (c : Cand) (die : Nat) : List (Nat × Nat) :=
  (List.range 384).filterMap (fun k =>
    let core := die * 384 + k
    if coreHeld s core then none else (coreTakes s c core none).map (fun u => (core, u)))

/-- Most free slots, then lowest global core number. -/
def chooseCore (s : State) (ts : List (Nat × Nat)) : Option (Nat × Nat) :=
  let most := (ts.map (fun t => (freeSlots s t.1).length)).foldl Nat.max 0
  ts.find? (fun t => (freeSlots s t.1).length == most)

/-! ## Placing a task (20 R310, R311, R313) -/

/-- Takes the next dispatch serial of a context (04 R62, log entry 12). -/
def takeSerial (s : State) (ctx : Nat) : Nat × State :=
  match getC s ctx with
  | none => (0, s)
  | some c => (c.nextSerial, setC s ctx { c with nextSerial := c.nextSerial + 1 })

/-- A ready task is no longer one, and reservations for it are gone. -/
def unready (s : State) (r : Ready) : State :=
  let s1 := { s with ready := s.ready.filter (fun x => x.order != r.order), reserved := s.reserved.filter (fun x => x.order != r.order) }
  if r.resume.isNone then wakeRoom s1 r.ctx else s1

/-- A LATE entry: lateness in ns (20 R311, R317). -/
def lateEntry (s : State) (ctx owner core : Nat) (key : Int) : State :=
  addStatus s ctx (statusEntry kLate 0 0 core 0 (taskidOf s owner) 0 (-key).toNat) none

/-- A task placed for the first time. -/
def placeTask (s : State) (c : Cand) (e : BitVec 512) (core unit0 : Nat) : State :=
  let r := c.ready.record
  let late := match c.key with
    | some k => decide (k < 0)
    | none => false
  let sn := takeSerial s c.ready.ctx
  let owner := sn.2.nextId
  let o : Owner := {
    ctx := c.ready.ctx, isPop := false, ovf := false, serial := sn.1, typ := recTyp r, record := r, arg := BitVec.ofNat 64 (recArg r)
    pool := c.pool, cls := c.cls, threads := typThreads e, nregs := typRegs e, units := typLocal e, nbars := typBars e
    entry := BitVec.ofNat 57 (typEntry e), image := BitVec.ofNat 57 (typImage e), imageLen := typImgLen e, pdist := typPdist e
    prio := c.prio, order := c.ready.order, placed := s.time, late := late, resumed := false, donegDone := false, phase := .running
    requested := none, forced := false, forcedPc := none, saved := [], record_ := none, waiting := [], notBefore := 0, pkt := 0
    launched := 0 }
  let s1 := setO (fresh sn.2) owner o
  let s2 := match c.key with
    | some k => if k < 0 then lateEntry s1 c.ready.ctx owner core k else s1
    | none => s1
  placeOn (unready s2 c.ready) owner core unit0

/-- Places a candidate on a core: a first placement or a resume. -/
def placeCand (s : State) (c : Cand) (core unit0 : Nat) : State :=
  match c.ready.resume with
  | some owner => resumeRecord (unready s c.ready) owner core unit0
  | none => match getC s c.ready.ctx with
    | none => s
    | some x => match typOf x c.ready.record with
      | none => s
      | some e => placeTask s c e core unit0

/-! ## Victims (20 R312) -/

/-- The core as it would be without a task. -/
def without (s : State) (owner core : Nat) : State :=
  { s with threads := s.threads.filter (fun t => t.2.owner != owner), places := tdel (placeKeyOf owner core) s.places }

/-- A pre-emption is pending on a core. -/
def preemptPending (s : State) (core : Nat) : Bool :=
  (placesOn s core).any (fun p => match getO s p.owner with
    | some o => o.phase == .saving
    | none => false)

/-- Save records a context's reserve has no room left for: saved or being saved (21 R329). -/
def savesUsed (s : State) (ctx : Nat) : Nat :=
  (s.owners.filter (fun o => o.2.ctx == ctx && (o.2.phase == .saving || o.2.phase == .saved))).length

/-- A running task is a victim for a candidate. -/
def isVictim (s : State) (u : Cand) (owner : Nat) (o : Owner) (p : Placement) : Bool :=
  !o.isPop && o.phase == .running && decide (o.prio < u.prio) && !preemptPending s p.core && !(liveThreads s owner).isEmpty
    && !coreHeld s p.core && (coreTakes (without s owner p.core) u p.core none).isSome
    && (match getC s o.ctx with
        | some c => decide (savesUsed s o.ctx < c.saves)
        | none => false)

/-- v is chosen before w: lowest priority, then largest key, then latest placement. -/
def victimBefore (s : State) (v w : Nat × Owner × Placement) : Bool :=
  if v.2.1.prio ≠ w.2.1.prio then decide (v.2.1.prio < w.2.1.prio)
  else
    let kv := keyOf s v.2.1.record
    let kw := keyOf s w.2.1.record
    if keyBefore kw kv then true
    else if keyBefore kv kw then false
    else decide (w.2.1.placed < v.2.1.placed) || (v.2.1.placed == w.2.1.placed && decide (w.1 ≤ v.1))

/-- The victims for a candidate. -/
def victims (s : State) (u : Cand) : List (Nat × Owner × Placement) :=
  s.places.filterMap (fun p => match getO s p.2.owner with
    | some o => if isVictim s u p.2.owner o p.2 then some (p.2.owner, o, p.2) else none
    | none => none)

/-- PREEMPT_REQUEST (20 R312): the victim's threads see PREEMPT, and what it holds is reserved for the candidate. -/
def considerPreemption (s : State) (u : Cand) : State :=
  match (sortBy (victimBefore s) (victims s u)).head? with
  | none => s
  | some v =>
    let p := v.2.2
    let r : Reservation := ⟨p.core, u.ready.order, v.1, liveOn s v.1 p.core, v.2.1.nregs, p.unit0, p.units, p.bars.length⟩
    requestPreempt { s with reserved := s.reserved ++ [r] } v.1

/-! ## A decision (20 R310) -/

/-- A task that no core can take and that has no reservation. -/
def unplaceable (s : State) (u : Cand) : Bool :=
  !s.reserved.any (fun r => r.order == u.ready.order) && (List.range 8).all (fun die => (takers s u die).isEmpty)

/-- The decision of a station for a pool. -/
def decide_ (s : State) (die pool : Nat) : State :=
  let cs := decidable_ s pool
  let can := cs.filter (fun c => !(takers s c die).isEmpty)
  let top := (can.map Cand.prio).foldl Nat.max 0
  let stuck := cs.filter (fun u => (can.isEmpty || decide (top < u.prio)) && unplaceable s u)
  let s1 := match best stuck with
    | some u => considerPreemption s u
    | none => s
  match best can with
  | none => s1
  | some c =>
    match chooseCore s1 (takers s1 c die) with
    | some t => placeCand s1 c t.1 t.2
    | none => s1

/-- DISPATCH_DECISION (20 R310): a station's decision for a pool with cores on its die, every 4 cycles while the pool has ready tasks and
dispatch is not stopped for an activation (21 R333). -/
def execDispatchDecision (die pool : Nat) (s : State) : Host.Outcome State Fault Refusal :=
  if s.dev.activation.isSome ∨ (candsOf s pool).isEmpty ∨ !(List.range 384).any (fun k => poolOf s (die * 384 + k) == pool) then .next s
  else
    let s1 := decide_ s die pool
    if (candsOf s1 pool).isEmpty then .next s1 else .next (schedOnce s1 ((s.cycle / 4 + 1) * 4) (.dispatchDecision die pool))

/-! ## Reservations (20 R312, 21 R332) -/

/-- The victim has given up what a reservation waits for, and its units have been scrubbed. -/
def reservationDue (s : State) (r : Reservation) : Bool :=
  (match getP s r.victim r.core with
   | none => true
   | some _ => (match getO s r.victim with
     | some o => o.phase == .saved
     | none => true))
    && (coreSt s r.core).scrubbing.all (fun p => decide (p.1 + p.2 ≤ r.unit0) || decide (r.unit0 + r.units ≤ p.1))

/-- RESERVATION_PLACE (20 R312): the task is placed in this cycle if the reservation still takes it; else the reservation lapses. -/
def settleReservation (s : State) (r : Reservation) : State :=
  let gone := { s with reserved := s.reserved.filter (fun x => x != r) }
  match (s.ready.find? (fun x => x.order == r.order)).bind (candOf s) with
  | none => gone
  | some c =>
    if coreHeld s r.core ∨ s.dev.activation.isSome then gone
    else
      match coreTakes s c r.core (some r.order) with
      | some u => placeCand gone c r.core u
      | none => gone

/-- Reservations on a core that have come due. -/
def settleReservations (s : State) (core : Nat) : State :=
  (s.reserved.filter (fun r => r.core == core && reservationDue s r)).foldl settleReservation s

/-- Something on a core is free: once the cycle's bundles are done (04 R68), what waits for it is placed, a population before the tasks whose
reservations have come due (20 R312, R316). -/
def offerCore (s : State) (core : Nat) : State :=
  (s.reserved.filter (fun r => r.core == core && reservationDue s r)).foldl
    (fun u r => schedOnce u u.cycle (.populationDeferredPlace r.victim core)) (pokeCore s core)

/-- UNIT_SCRUB_DONE (06 R100): the unit reads zero, FULL and untagged, and is free; a population that waits for it, or a
reservation, is placed. -/
def execUnitScrubDone (core u : Nat) (s : State) : Host.Outcome State Fault Refusal :=
  let c := coreSt s core
  let s1 := clearUnits (setCore s core { c with scrubbing := c.scrubbing.filter (fun p => p.1 != u) }) core u 1
  .next (offerCore s1 core)

/-! ## Populations (20 R316) -/

/-- The shape of an owner's placement on a core. -/
def ownerShape (o : Owner) : Shape := ⟨o.threads, o.nregs, o.units, o.nbars, o.ctx, o.ovf, 0⟩

/-- A core takes a population when it can, before any task; it keeps waiting otherwise. -/
def popPlace (s : State) (owner core : Nat) : State :=
  match getO s owner with
  | none => s
  | some o =>
    if !o.waiting.contains core then s
    else
      match canTake { s with reserved := [] } core (ownerShape o) none with
      | none => s
      | some u =>
        let s1 := placeOn (setO s owner { o with waiting := o.waiting.erase core }) owner core u
        if s.time < o.notBefore then schedAt s1 o.notBefore (.launchAtRelease owner core) else s1

/-- POPULATION_DEFERRED_PLACE (20 R316): a core looks again at what waits for it, a population and then the reservations that have come
due (20 R312). -/
def execPopulationDeferredPlace (owner core : Nat) (s : State) : Host.Outcome State Fault Refusal :=
  .next (settleReservations (popPlace s owner core) core)

/-! ## The end of a task or population (04 R61) -/

/-- Commands of an owner that are not complete; a stopped selection of an ending task is nothing more. -/
def ownerBusy (s : State) (owner : Nat) (core : Option Nat) : Bool :=
  s.cmds.any (fun c => c.2.owner == owner && c.2.phase != .finished && c.2.phase != .stopped &&
    (match core with
     | some k => c.2.tid / 16 == k
     | none => true))

/-- Tiles and handles of an owner, anywhere: cluster and number. -/
def ownedTiles (s : State) (owner : Nat) : List (Nat × Nat) := s.clusters.flatMap (fun c => (tilesOf s c.1 owner).map (fun t => (c.1, t)))

def ownedHandles (s : State) (owner : Nat) : List (Nat × Nat × HltEntry) :=
  s.clusters.flatMap (fun c => (c.2.hlt.filter (fun e => e.2.owner == some owner && e.2.state != .free)).map (fun e => (c.1, e.1, e.2)))

/-- The access writes memory, and no state of a word holds it. -/
def writesMemory : AccOp → Bool
  | .store _ _ => true
  | .post _ => true
  | .atm _ _ _ => true
  | .cas _ _ _ => true
  | .atmf _ _ => true
  | _ => false

/-- The end waits for the owner's stores on their way (20 R303, 21 R322), for accesses through its handles and for additions confirmed
into its tiles (17 R283, 13 R239). -/
def endWaits (s : State) (owner : Nat) : Bool :=
  s.reqs.any (fun r => r.2.owner == owner && writesMemory r.2.op && !r.2.performed)
    || (ownedHandles s owner).any (fun h => h.2.2.active != 0)
    || (ownedTiles s owner).any (fun t => (nth Tile.reset t.2 (clusterSt s t.1).tiles).confirmed != 0)

/-- Frees an owner's cocoon tiles: every entry FREE, the granules to the scrubbers (17 R283). -/
def freeHandles (s : State) (owner : Nat) : State :=
  (ownedHandles s owner).foldl (fun u h =>
    let v := setHlt u h.1 h.2.1 (freeEntry h.2.2)
    if h.2.2.root then scrubGranules v h.1 (h.2.2.tbase / 2048) (tileGranules h.2.2) else v) s

/-- What an owner's saved selection and held result keep of an engine is given back. -/
def freeHawk (s : State) (owner : Nat) : State :=
  let s1 := (s.cmds.filter (fun c => c.2.owner == owner && c.2.phase == .stopped)).foldl (fun u c => freeEngine u c.2.eng c.1) s
  { s1 with clusters := s1.clusters.map (fun k => (k.1, { k.2 with
      restoring := k.2.restoring.filter (fun h => h.owner != owner)
      held := match k.2.held with
        | some h => if h.owner = owner then none else some h
        | none => none })) }

/-- What an owner holds beside its placements is released; its commands are forgotten. -/
def releaseOwned (s : State) (owner : Nat) : State :=
  let s1 := (ownedTiles s owner).foldl (fun u t => releaseTile u t.1 t.2) s
  let s2 := freeHawk (freeHandles s1 owner) owner
  let cls := (s.clusters.filter (fun c => match c.2.held with
    | some h => h.owner == owner
    | none => false)).map Prod.fst
  cls.foldl (fun u c => kickEngine u c 5) { s2 with cmds := s2.cmds.filter (fun c => c.2.owner != owner), owners := tdel owner s2.owners }

/-- DONEG_DECREMENT (20 R303): an ending task performs its decrement if TDONE has not. -/
def endDecrement (s : State) (owner core : Nat) (o : Owner) : State :=
  if o.donegDone ∨ recDoneg o.record = 0 then s
  else
    let id := s.nextId
    let t := gateTime (core / 16)
    let g : GateOp := ⟨2 ^ 20 + core * 16, o.ctx, owner, .tdone, recDoneg o.record, (taskidOf s owner).toNat, [], false, 0, none, true⟩
    sched (sched (fresh { s with gates := tset id g s.gates }) (s.cycle + t / 2) (.gateApply id)) (s.cycle + t) (.gateReply id)

/-- Once nothing of the core is the owner's any more, others may have it. -/
def coreFreed (s : State) (core : Nat) : State := activationStep (offerCore s core)

/-- The end of a task. -/
def endTask (s : State) (owner : Nat) (o : Owner) : State :=
  match placeOf s owner with
  | some p =>
    let s1 := releasePlace (endDecrement s owner p.core o) owner p.core
    coreFreed (releaseOwned s1 owner) p.core
  | none => activationStep (releaseOwned (endDecrement s owner (match o.record_ with
      | some r => r.home
      | none => 0) o) owner)

/-- A population on one core: its placement ends with its last thread there (04 R61). -/
def endPopOn (s : State) (owner core : Nat) : State :=
  match getP s owner core with
  | none => s
  | some _ =>
    if 0 < liveOn s owner core ∨ ownerBusy s owner (some core) then s
    else offerCore (releasePlace s owner core) core

/-- TASK_END (04 R61): after an EXIT, a command's completion or a fault's end, what is over is released. -/
def execTaskEnd (owner core : Nat) (s0 : State) : Host.Outcome State Fault Refusal :=
  let s := pokeCore s0 core
  match getO s owner with
  | none => .next s
  | some o =>
    if o.isPop then
      let s1 := endPopOn s owner core
      if !o.waiting.isEmpty ∨ !(liveThreads s1 owner).isEmpty ∨ s1.places.any (fun p => p.2.owner == owner) ∨ ownerBusy s1 owner none then .next s1
      else if endWaits s1 owner then .next (schedOnce s1 (s1.cycle + 1) (.taskEnd owner core))
      else .next (activationStep (sched (releaseOwned s1 owner) s1.cycle (.packetComplete o.pkt)))
    else if !(liveThreads s owner).isEmpty ∨ o.phase = .saved then .next s
    else if o.phase = .saving ∧ (!o.saved.isEmpty ∨ o.record_.isSome) then
      .next (if o.record_.isNone then schedOnce s s.cycle (.taskSave owner) else s)
    else if ownerBusy s owner none then .next s
    else if endWaits s owner then .next (schedOnce s (s.cycle + 1) (.taskEnd owner core))
    else .next (endTask s owner o)

/-- TASK_SAVE_COMPLETE (21 R328, R331): the units go to the scrubber, the task is ready again at its old place in ready order. -/
def execTaskSaveComplete (owner : Nat) (s : State) : Host.Outcome State Fault Refusal :=
  match getO s owner with
  | none => .next s
  | some o =>
    match o.record_ with
    | none => .next s
    | some r =>
      if o.phase ≠ .saving then .next s
      else
        let s1 := setO (releaseWritten (writeRecordBytes s owner o r) owner r) owner { o with phase := .saved }
        let s2 := if r.toCore then s1 else releasePlace s1 owner r.home
        let s3 := { s2 with ready := s2.ready ++ [⟨o.order, s.cycle, o.ctx, o.record, some owner⟩] }
        .next (kickPool (coreFreed s3 r.home) o.pool)

/-! ## Bridle (20 R314) -/

/-- O_p: ready, unplaced tasks naming a pool. -/
def occupancy (s : State) (pool : Nat) : Nat := (candsOf s pool).length

def poolCores (s : State) (pool : Nat) : List Nat := (List.range 3072).filter (fun c => poolOf s c == pool)

/-- A core is idle: no thread, no reservation, no saved task bound to it, no population to take. -/
def coreIdle (s : State) (core : Nat) : Bool :=
  (threadsOn s core).isEmpty && s.reserved.all (fun r => r.core != core) && !coreHeld s core
    && s.owners.all (fun o => match o.2.record_ with
      | some r => !(r.toCore && r.home == core)
      | none => true)

def steady (s : State) (pool : Nat) : Bool :=
  match tget pool s.bridle with
  | some p => !p.settling
  | none => false

/-- Pool q may give cores to pool p. -/
def isDonor (s : State) (p q : Nat) : Bool :=
  p != q && steady s q && (match tget q s.bridle with
    | some b => decide (occupancy s q < b.par.low) && b.par.minc != b.par.maxc && decide (b.par.minc < (poolCores s q).length)
    | none => false)

/-- The cores a donor gives, at most n: first those of the class the best ready task needs, then the other if it is ANY. -/
def givenBy (s : State) (cls q n : Nat) : List Nat :=
  match tget q s.bridle with
  | none => []
  | some b =>
    let cores := poolCores s q
    ((cores.filter (fun c => coreIdle s c && classOk cls c)).take (min n (cores.length - b.par.minc)))

/-- Settles a pool from now on. -/
def settle (s : State) (pool : Nat) : State :=
  match tget pool s.bridle with
  | none => s
  | some b => schedAt { s with bridle := tset pool { b with settling := true } s.bridle } (s.time + b.par.settle) (.settleExpire pool)

/-- Moves cores from donors in turn until n have moved. -/
def takeFrom (s : State) (p cls : Nat) : Nat → List Nat → State × List Nat
  | _, [] => (s, [])
  | n, q :: rest =>
    if n = 0 then (s, [])
    else
      let cs := givenBy s cls q n
      let s1 := { s with pools := cs.foldl (fun u c => if p = 0 then tdel c u else tset c p u) s.pools }
      let r := takeFrom s1 p cls (n - cs.length) rest
      (r.1, if cs.isEmpty then r.2 else q :: r.2)

/-- One pool's evaluation. -/
def evaluatePool (s : State) (p : Nat) : State :=
  match tget p s.bridle with
  | none => s
  | some b =>
    let size := (poolCores s p).length
    let donors := sortBy (fun x y => decide (occupancy s x ≤ occupancy s y)) ((List.range 16).filter (isDonor s p))
    if b.settling ∨ occupancy s p ≤ b.par.high ∨ b.par.maxc ≤ size ∨ b.par.minc = b.par.maxc ∨ donors.isEmpty then s
    else
      match best (candsOf s p) with
      | none => s
      | some c =>
        let r := takeFrom s p c.cls (min b.par.step (b.par.maxc - size)) donors
        kickPool ((p :: r.2).foldl settle r.1) p

/-- BRIDLE_EVALUATE (20 R314): every pool in turn, whenever the module time counter reaches a multiple of 1,000 ns (DESIGN CHOICE, log entry
7: R314 gives the interval alone). -/
def execBridleEvaluate (s : State) : Host.Outcome State Fault Refusal :=
  if !s.dev.ready then .next s
  else .next (schedAt ((List.range 16).foldl evaluatePool s) ((s.time / 1000 + 1) * 1000) .bridleEvaluate)

/-- SETTLE_EXPIRE (20 R314). -/
def execSettleExpire (pool : Nat) (s : State) : Host.Outcome State Fault Refusal :=
  match tget pool s.bridle with
  | none => .next s
  | some b => .next { s with bridle := tset pool { b with settling := false } s.bridle }

/-- POOL_ASSIGN (20 R299): the host's initial assignment, a pool for each core, before any task is ready or placed (log entry 7); after
that only Bridle moves cores. -/
def execPoolAssign (pools : List Nat) (s : State) : Host.Outcome State Fault Refusal :=
  if s.dev.ready ∧ !s.assigned ∧ s.pools.isEmpty ∧ s.owners.isEmpty ∧ s.ready.isEmpty ∧ pools.length = 3072 ∧ pools.all (fun p => decide (p < 16)) then
    .next { s with pools := (pools.zipIdx.filter (fun p => p.1 != 0)).map (fun p => (p.2, p.1)), assigned := true }
  else .next s

/-- BRIDLE_SET (20 R314): parameters in their ranges. -/
def execBridleSet (pool : Nat) (p : BridleParams) (s : State) : Host.Outcome State Fault Refusal :=
  if s.dev.ready ∧ pool < 16 ∧ p.low < 65536 ∧ p.high < 65536 ∧ p.minc ≤ p.maxc ∧ p.maxc ≤ 3072 ∧ 1 ≤ p.step ∧ p.step ≤ 64 then
    let settling := match tget pool s.bridle with
      | some b => b.settling
      | none => false
    .next { s with bridle := tset pool ⟨p, settling⟩ s.bridle }
  else .next s

end Sys2Proof.Machine
end

