-- ==== Sys2Proof/Machine/FrontEnd.lean ====
section
/-!
DEFINITION. Host queues and packets (20 R315, R316; 23 R344, R345, R351): doorbells, fetching in round-robin order, the order in
which packets begin, one meaning for each type, completion and errors.
-/

namespace Sys2Proof.Machine

/-! ## Queues -/

def queueOf (s : State) (ctx q : Nat) : Option Queue := (getC s ctx).bind (fun c => tget q c.queues)

def setQueue (s : State) (ctx q : Nat) (v : Queue) : State :=
  match getC s ctx with
  | none => s
  | some c => setC s ctx { c with queues := tset q v c.queues }

/-- The virtual address of packet i of a ring (20 R315). -/
def packetAddr (v : Queue) (i : Nat) : Nat := v.base + 64 * (i % 2 ^ v.k)

/-- QUEUE_ERROR (20 R315): the queue stops until the host resets it, with one entry. -/
def queueError (s : State) (ctx q addr : Nat) : State :=
  match queueOf s ctx q with
  | none => s
  | some v => if v.state = 2 then s else addStatus (setQueue s ctx q { v with state := 2 }) ctx (statusEntry kQueueError 0 0 0 0 0 addr 0) none

/-- A packet that has begun is at fault (20 R315): it is over, and its queue is in ERROR. -/
def failPacket (s : State) (id : Nat) (p : Pkt) : State :=
  let s1 := { s with pkts := tdel id s.pkts }
  let s2 := match queueOf s1 p.ctx p.q with
    | some v => setQueue s1 p.ctx p.q { v with open_ := v.open_.filter (fun j => j != id) }
    | none => s1
  queueError s2 p.ctx p.q p.va

/-- The fetcher looks at the queues within 16 cycles (20 R315). -/
def wakeFetcher (s : State) : State :=
  if s.agenda.any (fun e => e.2 == .packetFetch) then s
  else bump (sched s (s.cycle + drawUpTo s 16) .packetFetch)

/-- WPTR (23 R344): the doorbell. A write that overruns the ring puts the queue in ERROR; one that lowers WPTR withdraws packets. -/
def execWptr (ctx q : Nat) (value : Word) (s : State) : Host.Outcome State Fault Refusal :=
  match (if s.dev.ready then queueOf s ctx q else none) with
  | none => .next s
  | some v =>
    if v.state = 0 then .next s
    else
      let s1 := setQueue s ctx q { v with wptr := value }
      if v.state = 1 ∧ 2 ^ v.k < (value - v.rptr).toNat then .next (queueError s1 ctx q (packetAddr v v.rptr.toNat))
      else .next (wakeFetcher s1)

/-- RESET (23 R344): RPTR takes WPTR and the queue runs; packets already begun continue. -/
def execReset (ctx q : Nat) (s : State) : Host.Outcome State Fault Refusal :=
  match (if s.dev.ready then queueOf s ctx q else none) with
  | none => .next s
  | some v =>
    if v.state = 0 then .next s
    else
      let begun := v.open_.filter (fun id => match tget id s.pkts with
        | some p => p.phase == .begun
        | none => false)
      let s1 := { s with pkts := s.pkts.filter (fun p => !(p.2.ctx == ctx && p.2.q == q && p.2.phase != .begun)) }
      .next (setQueue s1 ctx q { v with rptr := v.wptr, state := 1, open_ := begun })

/-- QUEUE_CREATE (23 R344, 20 R315): ring base and size are fixed, and STATE goes from not created to RUN. -/
def execQueueCreate (ctx q base k : Nat) (s : State) : Host.Outcome State Fault Refusal :=
  match getC s ctx with
  | none => .next s
  | some c =>
    if s.dev.ready ∧ q < 16 ∧ 4 ≤ k ∧ k ≤ 16 ∧ (tget q c.queues).isNone then .next (setQueue s ctx q ⟨1, 0, 0, base, k, []⟩)
    else .next s

/-! ## Access to a context's memory by the front end -/

/-- A page's leaf allows reads, or writes. -/
def leafAllows (e : Nat) (write : Bool) : Bool := bits e (if write then 2 else 1) 1 == 1

/-- The state in which an address is mapped as needed: as it is, or with the page the memory core can give; none where neither
holds, or where the walk reads an uncorrectable error (21 R325). -/
def mapFor (s : State) (ctx va : Nat) (write : Bool) : Option State :=
  if (walkPoison s ctx va).isSome then none
  else
  match (pageWalk s ctx va).leaf with
  | some (e, _) => if leafAllows e write then some s else none
  | none =>
    match (getC s ctx).bind (fun c => backingOf c va) with
    | none => none
    | some b =>
      let s1 := installEntry s ctx b.1.toNat b.2.1 b.2.2
      match (pageWalk s1 ctx va).leaf with
      | some (e, _) => if leafAllows e write ∧ (walkPoison s1 ctx va).isNone then some s1 else none
      | none => none

/-- Every page of a range is mapped as needed. -/
def mapRange (s : State) (ctx va : Nat) (write : Bool) : Nat → Option State
  | 0 => some s
  | n + 1 =>
    match mapFor s ctx va write with
    | some s1 => mapRange s1 ctx ((va / 4096 + 1) * 4096) write n
    | none => none

/-- Pages of 4 KiB a range touches. -/
def pagesOf (va n : Nat) : Nat := if n = 0 then 0 else (va + n - 1) / 4096 - va / 4096 + 1

/-- The front end reads a range, unless some of it cannot be mapped or has an uncorrectable error (DESIGN CHOICE, log entry 58). -/
def frontRead (s : State) (ctx va n : Nat) : Option (State × List Byte) :=
  match mapRange s ctx va false (pagesOf va n) with
  | none => none
  | some s1 => if (virtPoison s1 ctx va n).isSome then none else some (s1, virtBytes s1 ctx va n)

/-- The time of an access of the front end, from IO0's edge router beside cluster 0. -/
def frontTime (s : State) (ctx va : Nat) : Nat :=
  match physOf s ctx va with
  | some pa => placeTime (edgeOf 0) (.phys pa)
  | none => 0

/-! ## Fetching (20 R315) -/

/-- A queue with a packet to fetch, none of its fetches stalled. -/
def queueHolds (s : State) (v : Queue) : Bool :=
  v.state == 1 && v.rptr != v.wptr && v.open_.all (fun id => match tget id s.pkts with
    | some p => p.phase != .stalled
    | none => true)

/-- The queues of all contexts, by context and number. -/
def allQueues (s : State) : List (Nat × Nat × Queue) := s.ctxs.flatMap (fun c => c.2.queues.map (fun q => (c.1, q.1, q.2)))

/-- The next queue to serve: the first after the one served last, in the order of their numbers. -/
def nextQueue (s : State) : Option (Nat × Nat × Queue) :=
  let hold := (allQueues s).filter (fun q => queueHolds s q.2.2)
  match hold.find? (fun q => decide (s.lastQueue < q.1 * 16 + q.2.1 + 1)) with
  | some q => some q
  | none => hold.head?

/-- PACKET_FETCH (20 R315): the next queue's next packet is requested; it arrives after the time of its memory. A page fault stalls
the queue while the memory core resolves it. -/
def execPacketFetch (s : State) : Host.Outcome State Fault Refusal :=
  match nextQueue s with
  | none => .next s
  | some (ctx, q, v) =>
    let id := s.nextId
    let va := packetAddr v v.rptr.toNat
    let mapped := match (pageWalk s ctx va).leaf with
      | some (e, _) => leafAllows e false && (walkPoison s ctx va).isNone
      | none => false
    let p : Pkt := ⟨ctx, q, v.rptr.toNat, 0, if mapped then .fetching else .stalled, va, 0, none⟩
    let s1 := setQueue s ctx q { v with rptr := v.rptr + 1, open_ := v.open_ ++ [id] }
    let s2 := fresh { s1 with pkts := tset id p s1.pkts, lastQueue := ctx * 16 + q + 1 }
    let s3 := if mapped then sched s2 (s.cycle + frontTime s ctx va) (.packetBegin id)
      else bump (sched s2 (s.cycle + 1 + Config.freeNat s.free) (.packetBegin id))
    .next (if (nextQueue s3).isSome then wakeFetcher s3 else s3)

/-! ## Packets -/

def pktType (p : Pkt) : Nat := pktField p 0 1
def pktAt (p : Pkt) : Bool := bits (pktField p 1 1) 0 1 == 1
def pktBarrier (p : Pkt) : Bool := bits (pktField p 1 1) 1 1 == 1
def pktSig (p : Pkt) : Bool := bits (pktField p 1 1) 2 1 == 1
def pktNbt (p : Pkt) : Nat := pktField p 8 8

/-- A LAUNCH's CONFIG: k bits from bit lo. -/
def launchField (p : Pkt) (lo k : Nat) : Nat := bits (pktField p 48 8) lo k

/-- A domain address's peer and physical address (23 R351); none for any other address with [63] set. -/
def domainAddr (a : Nat) : Option (Nat × Nat) :=
  if bits a 63 1 = 1 ∧ bits a 42 12 = 0 ∧ bits a 54 9 < 288 then some (bits a 54 9, bits a 0 42) else none

def isDomain (a : Nat) : Bool := bits a 63 1 == 1

/-- The n bytes from a COPY's address are virtual ones, or ones of a domain address of a module that has joined a domain. -/
def copyAddrOk (s : State) (a n : Nat) : Bool :=
  if isDomain a then (domainAddr a).any (fun d => decide (d.2 + n ≤ 2 ^ 42)) && s.dev.domain.isSome
  else decide (a < 2 ^ 57) && decide (a + n ≤ 2 ^ 57)

/-- The fields of a packet are in range and its reserved bytes zero (20 R315), the records of a TASKS apart. -/
def pktValid (s : State) (p : Pkt) : Bool :=
  let zero := fun (lo n : Nat) => pktField p lo n == 0
  let virtual := fun (at_ n : Nat) => decide (pktField p at_ 8 < 2 ^ 57) && decide (pktField p at_ 8 + n ≤ 2 ^ 57)
  bits (pktField p 1 1) 3 5 == 0 && zero 4 4 && (!pktSig p || (sigEntry s p.ctx (pktField p 2 2)).isSome) &&
  (match pktType p with
   | 1 =>
     zero 56 8 && launchField p 50 14 == 0 && decide (1 ≤ launchField p 4 5) && decide (launchField p 4 5 ≤ 16) && decide (launchField p 11 7 ≤ 96)
       && decide (launchField p 18 10 ≤ 512) && launchField p 28 2 != 3 && (launchField p 30 1 == 0 || launchField p 4 5 == 1)
       && (launchField p 31 19 == 0 || decide (launchField p 31 19 + 256 ≤ launchField p 11 7 * 4096))
       && virtual 16 1 && pktField p 16 8 % 4 == 0 && virtual 32 32 && virtual 40 (launchField p 31 19)
   | 2 => zero 28 36 && virtual 16 (32 * pktField p 24 4) && pktField p 16 8 % 32 == 0 && decide (1 ≤ pktField p 24 4) && decide (pktField p 24 4 ≤ 65536)
   | 3 => zero 19 5 && zero 32 32 && decide (pktField p 18 1 ≤ 1) && (sigEntry s p.ctx (pktField p 16 2)).isSome
   | 4 => zero 19 5 && zero 32 32 && decide (pktField p 18 1 ≤ 1) && (sigEntry s p.ctx (pktField p 16 2)).isSome
   | 5 => zero 24 40 && virtual 16 8
   | 6 => zero 40 24 && copyAddrOk s (pktField p 16 8) (pktField p 32 8) && copyAddrOk s (pktField p 24 8) (pktField p 32 8) && !(isDomain (pktField p 16 8) && isDomain (pktField p 24 8))
   | 7 => zero 17 47 && (pktField p 16 1 == 3 || pktField p 16 1 == 4)
   | _ => false)

/-- A packet of a type that has begun. -/
def begunPkt (s : State) (id type_ : Nat) : Option Pkt :=
  match tget id s.pkts with
  | some p => if p.phase = .begun ∧ pktType p = type_ then some p else none
  | none => none

/-- A packet is complete in this cycle. -/
def pktDone (s : State) (id : Nat) : State := sched s s.cycle (.packetComplete id)

/-- The cores a population is placed on: those of its pool and class now. -/
def popCores (s : State) (pool cls : Nat) : List Nat := (List.range 3072).filter (fun c => poolOf s c == pool && classOk cls c)

/-- LAUNCH_PACKET (20 R315, R316): the population is placed on every core of its pool and class; cores that cannot take it at once
wait for it. -/
def execLaunchPacket (id : Nat) (s : State) : Host.Outcome State Fault Refusal :=
  match begunPkt s id 1 with
  | none => .next s
  | some p =>
    match frontRead s p.ctx (pktField p 32 8) 32 with
    | none => .next (failPacket s id p)
    | some (s0, block) =>
      let sn := takeSerial s0 p.ctx
      let owner := sn.2.nextId
      let cores := popCores s (launchField p 0 4) (launchField p 28 2)
      let o : Owner := {
        ctx := p.ctx, isPop := true, ovf := launchField p 30 1 == 1, serial := sn.1, typ := 0, record := BitVec.ofNat 256 (leNat block)
        arg := BitVec.ofNat 64 (pktField p 24 8), pool := launchField p 0 4, cls := launchField p 28 2, threads := launchField p 4 5
        nregs := 8 * (launchField p 9 2 + 1), units := launchField p 11 7, nbars := launchField p 18 10
        entry := BitVec.ofNat 57 (pktField p 16 8), image := BitVec.ofNat 57 (pktField p 40 8), imageLen := launchField p 31 19
        pdist := 0, prio := 0, order := 0, placed := s.time, late := false, resumed := false, donegDone := false, phase := .running
        requested := none, forced := false, forcedPc := none, saved := [], record_ := none, waiting := cores
        notBefore := if pktAt p then pktNbt p else 0, pkt := id, launched := 0 }
      let s1 := setO (fresh sn.2) owner o
      .next (sched (cores.foldl (fun u c => popPlace u owner c) s1) s.cycle (.taskEnd owner 0))

/-- The records of a TASKS packet. -/
def pktRecords (bs : List Byte) (n : Nat) : List (BitVec 256) :=
  (List.range n).map (fun k => BitVec.ofNat 256 (leNat ((bs.drop (32 * k)).take 32)))

/-- The records of a begun TASKS packet: read once, before it waits for room (20 R305). -/
def readOnce (s : State) (p : Pkt) (n : Nat) : Option (State × List (BitVec 256)) :=
  match p.records with
  | some rs => some (s, rs)
  | none => (frontRead s p.ctx (pktField p 16 8) (32 * n)).map (fun r => (r.1, pktRecords r.2 n))

/-- TASKS_PACKET (20 R315): the records are inserted as TSUB inserts them, at once or at NBT; it waits for room among the pending
records. -/
def execTasksPacket (id : Nat) (s : State) : Host.Outcome State Fault Refusal :=
  match begunPkt s id 2 with
  | none => .next s
  | some p =>
    let n := pktField p 24 4
    match readOnce s p n with
    | none => .next (failPacket s id p)
    | some (s0, rs) =>
      match getC s0 p.ctx with
      | none => .next s
      | some c =>
        if p.records.isNone ∧ !rs.all (recValid c) then .next (failPacket s id p)
        else if 65536 < pendingRecords s0 p.ctx + n then
          .next (sched { s0 with pkts := tset id { p with records := some rs } s0.pkts } (s.cycle + 1) (.packetBegin id))
        else if pktAt p ∧ s.time < pktNbt p then
          let g : GateOp := ⟨0, p.ctx, 0, .tsubAt 0 0 (BitVec.ofNat 64 (pktNbt p)), 0, 0, rs, true, 0, some id, true⟩
          let k := s0.nextId
          .next (schedAt (fresh (setC { s0 with gates := tset k g s0.gates } p.ctx { c with later := c.later + n })) (pktNbt p) (.tsubAtInsert k))
        else
          let q := insertRecords c rs
          .next (pktDone (addReady (setC s0 p.ctx q.1) p.ctx q.2) id)

/-- SIGNAL_PACKET (20 R315). -/
def execSignalPacket (id : Nat) (s : State) : Host.Outcome State Fault Refusal :=
  match begunPkt s id 3 with
  | none => .next s
  | some p => .next (issueSignal s p.ctx 0 (pktField p 16 2) (pktField p 18 1 == 1) (pktField p 24 8) (some id))

/-- WAIT_PACKET (20 R315): it completes when the signal meets its condition. -/
def execWaitPacket (id : Nat) (s : State) : Host.Outcome State Fault Refusal :=
  match begunPkt s id 4 with
  | none => .next s
  | some p => .next (if waitMet s p then pktDone s id else s)

/-- TIMER_PACKET (20 R315): TIME is written as 8 bytes, and the packet completes when the write has been performed. -/
def execTimerPacket (id : Nat) (s : State) : Host.Outcome State Fault Refusal :=
  match begunPkt s id 5 with
  | none => .next s
  | some p =>
    let va := pktField p 16 8
    match mapRange s p.ctx va true (pagesOf va 8) with
    | none => .next (failPacket s id p)
    | some s1 =>
      let s2 := putVirt s1 p.ctx ((List.range 8).map (fun k => (va + k, nth 0 k (toBytes 8 (s.time % 2 ^ 64)))))
      .next (sched s2 (s.cycle + frontTime s2 p.ctx va) (.packetComplete id))

/-- The command of a COPY packet at an IO1 engine. -/
def frontCmd (s : State) (id : Nat) (p : Pkt) : Cmd :=
  { op := .nop, tid := 2 ^ 20, ctx := p.ctx, owner := 0, eng := chooseCopy s 1024, a := data64 (pktField p 16 8), b := GReg.zero
    d := data64 (pktField p 24 8), m := GReg.zero, bar := none, notBefore := 0, issued := s.cycle, accepted := 0, phase := .queued
    pins := [], handles := [], next := 0, total := pktField p 32 8, view := [], data := [], dataAt := 0, passed := 0, counts := Counts.zero
    amax := 0, result := GReg.zero, result2 := GReg.zero, run := none, err := none, live := false, ring := 2 ^ 14, mixed := false
    due := 0, adds := some id }

/-! ## Otain ports (23 R350) -/

def portOf (s : State) (p : Nat) : Port := nth Port.reset p s.dev.ports

def setPort (s : State) (p : Nat) (v : Port) : State := { s with dev := { s.dev with ports := setNth v p s.dev.ports } }

/-- The ports that are up. -/
def upPorts (s : State) : List Nat := (List.range 18).filter (fun p => (portOf s p).up)

/-- A body leaves on a port that is up, which one is free (log entry 8), and stays in its retry buffer until it is acknowledged; with no
port up it waits. -/
def transmit (s : State) (o : Outbound) : State :=
  match upPorts s with
  | [] => { s with dev := { s.dev with unsent := s.dev.unsent ++ [o] } }
  | ps =>
    let k := nth 0 (Config.freeNat s.free % ps.length) ps
    let p := portOf s k
    bump (setPort s k { p with seq := p.seq + 1, retry := p.retry ++ [(p.seq, o)] })

/-- Hands a body to the Otain ports for a peer. -/
def sendOut (s : State) (domain : Nat) (b : FlitBody) : State :=
  transmit { s with dev := { s.dev with outbound := s.dev.outbound ++ [⟨domain, b⟩] } } ⟨domain, b⟩

/-- The largest payload of a flit. -/
def flitBytes : Nat := 232

/-- Sends bytes in pieces, each the body of one flit. -/
def sendPieces (s : State) (peer n : Nat) (bs : List Byte) (mk : Nat → List Byte → FlitBody) : State :=
  (List.range (ceilDiv n flitBytes)).foldl (fun u k => sendOut u peer (mk (flitBytes * k) ((bs.drop (flitBytes * k)).take flitBytes))) s

/-- A packet whose transfer over Otain waits for answers to n bytes. -/
def awaitPeer (s : State) (id n : Nat) (p : Pkt) : State :=
  if n = 0 then pktDone s id else { s with pkts := tset id { p with left := n } s.pkts }

/-- COPY_PACKET (20 R315, 23 R351): an IO1 engine copies; a peer's part goes over Otain, and its answers complete the packet. -/
def execCopyPacket (id : Nat) (s : State) : Host.Outcome State Fault Refusal :=
  match begunPkt s id 6 with
  | none => .next s
  | some p =>
    let n := pktField p 32 8
    match domainAddr (pktField p 16 8), domainAddr (pktField p 24 8) with
    | some (peer, pa), _ =>
      let s1 := awaitPeer s id n p
      .next (if n = 0 then s1 else sendOut s1 peer (.read p.ctx pa n id))
    | none, some (peer, pa) =>
      (match frontRead s p.ctx (pktField p 16 8) n with
       | none => .next (failPacket s id p)
       | some (s1, bs) => .next (sendPieces (awaitPeer s1 id n p) peer n bs (fun o b => .write p.ctx (pa + o) id b)))
    | none, none => .next (submit s (frontCmd s id p) Wait.accept)

/-- FENCE_PACKET (20 R315): it has begun after every earlier packet of its queue completed, and their writes are complete then. -/
def execFencePacket (id : Nat) (s : State) : Host.Outcome State Fault Refusal :=
  match begunPkt s id 7 with
  | none => .next s
  | some _ => .next (pktDone s id)

/-! ## Beginning and completion (20 R315) -/

/-- Packets of a queue before one that are not complete. -/
def earlier (v : Queue) (id : Nat) : List Nat := v.open_.takeWhile (fun j => j != id)

/-- The order rules let a fetched packet begin. -/
def mayBegin (s : State) (v : Queue) (id : Nat) (p : Pkt) : Bool :=
  let before := earlier v id
  if pktBarrier p || pktType p == 4 || pktType p == 7 then before.isEmpty
  else before.all (fun j => match tget j s.pkts with
    | some r => r.phase == .begun
    | none => true)

/-- Packets of a queue are looked at again, in order. -/
def lookAgain (s : State) (v : Queue) : State :=
  (v.open_.filter (fun j => match tget j s.pkts with
    | some r => r.phase == .fetched
    | none => false)).foldl (fun u j => schedOnce u u.cycle (.packetBegin j)) s

/-- What a packet that has begun does. -/
def runPacket (s : State) (id type_ : Nat) : Host.Outcome State Fault Refusal :=
  match type_ with
  | 1 => execLaunchPacket id s
  | 2 => execTasksPacket id s
  | 3 => execSignalPacket id s
  | 4 => execWaitPacket id s
  | 5 => execTimerPacket id s
  | 6 => execCopyPacket id s
  | _ => execFencePacket id s

/-- A fetched packet begins when the order rules, its time and an activation allow. -/
def tryBegin (s : State) (id : Nat) (p : Pkt) (v : Queue) : Host.Outcome State Fault Refusal :=
  if v.state ≠ 1 ∨ !mayBegin s v id p then .next s
  else if !pktValid s p then .next (queueError s p.ctx p.q p.va)
  else if pktType p = 1 ∧ s.dev.activation.isSome then .next s
  else if pktAt p ∧ pktType p ≠ 1 ∧ pktType p ≠ 2 ∧ s.time < pktNbt p then .next (schedAt s (pktNbt p) (.packetBegin id))
  else
    let s1 := { s with pkts := tset id { p with phase := .begun } s.pkts }
    runPacket (lookAgain s1 v) id (pktType p)

/-- PACKET_BEGIN (20 R315): a requested packet arrives, and one that has arrived begins or waits; a stalled fetch goes on or puts
its queue in ERROR. -/
def execPacketBegin (id : Nat) (s : State) : Host.Outcome State Fault Refusal :=
  match tget id s.pkts with
  | none => .next s
  | some p =>
    match queueOf s p.ctx p.q with
    | none => .next s
    | some v =>
      match p.phase with
      | .stalled =>
        (match mapFor s p.ctx p.va false with
         | none => .next (queueError s p.ctx p.q p.va)
         | some s1 =>
           let s2 := { s1 with pkts := tset id { p with phase := .fetching } s1.pkts }
           .next (wakeFetcher (sched s2 (s.cycle + frontTime s2 p.ctx p.va) (.packetBegin id))))
      | .fetching =>
        let p1 := { p with phase := .fetched, bits := BitVec.ofNat 512 (leNat (virtBytes s p.ctx p.va 64)) }
        if (virtPoison s p.ctx p.va 64).isSome then .next (queueError s p.ctx p.q p.va)
        else tryBegin { s with pkts := tset id p1 s.pkts } id p1 v
      | .fetched => tryBegin s id p v
      | .begun => if pktType p = 2 then execTasksPacket id s else .next s

/-- PACKET_COMPLETE (20 R315): with SIG, 1 is subtracted from its signal; packets that waited for it are looked at. -/
def execPacketComplete (id : Nat) (s : State) : Host.Outcome State Fault Refusal :=
  match tget id s.pkts with
  | none => .next s
  | some p =>
    if p.phase ≠ .begun then .next s
    else
      let s1 := { s with pkts := tdel id s.pkts }
      let s2 := match queueOf s1 p.ctx p.q with
        | some v =>
          let w := { v with open_ := v.open_.filter (fun j => j != id) }
          lookAgain (setQueue s1 p.ctx p.q w) w
        | none => s1
      .next (if pktSig p then issueSignal s2 p.ctx 0 (pktField p 2 2) false (2 ^ 64 - 1) none else s2)

end Sys2Proof.Machine
end

