-- ==== Sys2Proof/Machine/Gondola.lean ====
section
/-!
DEFINITION. Gondola and the host (23 R342-R355; 21 R333; 05 R81; 03 R49-R51; 13 R227; 15 R255): bring-up, contexts, roots, images,
mailboxes, firmware, attestation, Otain ports.
-/

namespace Sys2Proof.Machine

/-! ## Firmware images (23 R353) and bring-up (23 R355) -/

/-- The reserved bytes of a header are zero. -/
def fwReservedZero (i : FwImage) : Bool := imageField i 0x0A8 88 == 0

/-- The security core accepts an image (23 R353): a whole header and body, MAGIC, zero reserved bytes, the digest of the body, the signature
over bytes 0x000 to 0x047, and SVN at or above the fused minimum. -/
def imageOk (d : Device) (i : FwImage) : Bool :=
  decide (0x100 + imageField i 0x010 8 ≤ i.bytes.length) && imageField i 0x000 4 == 0x4A589600 && fwReservedZero i
    && Config.sha384 (fwBody i) == imageField i 0x018 48
    && Config.ecdsaVerify d.releaseKey (Config.sha384 (i.bytes.take 0x048)) ((i.bytes.drop 0x048).take 96) && decide (d.svnMin ≤ fwSvn i)

/-- The device as a cold reset leaves it: what is fused or stored stays. -/
def coldDevice (d : Device) : Device :=
  { Device.reset with
    stored := d.stored, svnMin := d.svnMin, serialNo := d.serialNo, rom := d.rom, releaseKey := d.releaseKey, deviceKey := d.deviceKey
    chain := d.chain }

/-- Host memory, which a reset of the module does not touch. -/
def hostCells (m : List Host.Cell) : List Host.Cell := m.filter (fun c => isHost c.1 && decide (c.1 < onchipBase))

/-- Step 6 of the bring-up (23 R355): READY, and Bridle evaluates from then on. -/
def setReady (s : State) : State := schedAt { s with dev := { s.dev with ready := true } } ((s.time / 1000 + 1) * 1000) .bridleEvaluate

/-- COLD_RESET (23 R355): the bring-up in its fixed order. A refused image leaves the module at step 2; whether each port trains is
free. With a port up, step 5 waits for DOMAIN_JOIN; with none the module joins no domain and is ready. -/
def execColdReset (s : State) : Host.Outcome State Fault Refusal :=
  let d := coldDevice s.dev
  let s0 := { State.reset with agenda := [], free := s.free + 1, dev := d, mem := hostCells s.mem }
  if !imageOk d d.stored then .next s0
  else
    let s1 := runImage (extendMeas s0 0 (Config.sha384 d.rom)) d.stored
    let ports := (List.range 18).map (fun p => { Port.reset with up := freeBit s p })
    let s2 := { s1 with dev := { s1.dev with ports := ports } }
    .next (if ports.any Port.up then s2 else setReady s2)

/-- DOMAIN_JOIN (01 R18, 23 R355): step 5 of the bring-up. With a port up, the links core joins the domain, steps the counter forward to
domain time and extends MEAS3; step 6 follows. -/
def execDomainJoin (domain time : Nat) (s : State) : Host.Outcome State Fault Refusal :=
  if !s.dev.ready ∧ s.dev.running.isSome ∧ s.dev.ports.any Port.up ∧ domain < 288 ∧ s.dev.domain.isNone ∧ s.time ≤ time then
    .next (setReady (extendMeas { s with time := time, timeFrac := 0, dev := { s.dev with domain := some domain } } 3
      (Config.sha384 (toBytes 2 domain))))
  else .next s

/-! ## Activation (21 R333, 23 R353) -/

/-- FIRMWARE_ACTIVATION (21 R333): an image the security core accepts stops dispatch and has every running task pre-empted; a refused
one leaves the running one in place. -/
def execFirmwareActivation (r : FwRequest) (s : State) : Host.Outcome State Fault Refusal :=
  if !s.dev.ready ∨ s.dev.activation.isSome ∨ !imageOk s.dev r.img then .next s
  else
    let s1 := { s with dev := { s.dev with activation := some ⟨r.img, false, r.reply⟩, activating := true } }
    .next (activationStep ((s1.owners.map Prod.fst).foldl requestPreempt s1))

/-- FORCED_ACTIVATION (21 R333). -/
def execForcedActivation (s : State) : Host.Outcome State Fault Refusal :=
  match s.dev.activation with
  | none => .next s
  | some a => .next (activationStep { s with dev := { s.dev with activation := some { a with forced := true } } })

/-- SVN_RAISE (23 R353): the fused minimum rises to the running image's SVN. -/
def execSvnRaise (s : State) : Host.Outcome State Fault Refusal :=
  match s.dev.running with
  | none => .next s
  | some i => .next { s with dev := { s.dev with svnMin := max s.dev.svnMin (fwSvn i) } }

/-- ATTESTATION_REQUEST (23 R354): nonce, MEAS0-MEAS7, VERSION, SVN, LAYOUT, PREVLAYOUT and serial number, signed; the reply goes to the
host memory that the request names (R352). -/
def execAttestationRequest (r : AttRequest) (s : State) : Host.Outcome State Fault Refusal :=
  match s.dev.running with
  | none => .next s
  | some i =>
    if r.nonce.length ≠ 32 then .next s
    else
      let body := r.nonce ++ (s.dev.meas.map (fun m => toBytes 48 m.toNat)).flatten ++ toBytes 4 (fwVersion i) ++ toBytes 4 (fwSvn i)
        ++ toBytes 2 (fwLayout i) ++ toBytes 2 (fwPrevLayout i) ++ toBytes 8 s.dev.serialNo
      .next (replyTo s r.reply (body ++ Config.ecdsaSign s.dev.deviceKey (Config.sha384 body)))

/-- MEASUREMENT_EXTEND (23 R354): MEAS4-MEAS7 take digests that the host submits. -/
def execMeasurementExtend (k digest : Nat) (s : State) : Host.Outcome State Fault Refusal :=
  if s.dev.running.isSome ∧ 4 ≤ k ∧ k < 8 ∧ digest < 2 ^ 384 then .next (extendMeas s k digest) else .next s

/-! ## Mailboxes (23 R346, R352) and BARs (23 R343) -/

/-- A Gondola core has taken some of its oldest messages since the last arrival: how many is free (log entry 8). Messages whose
senders waited move in. -/
def drainMailbox (s : State) (k : Nat) : State :=
  let box := nth [] k s.dev.mailboxes
  let left := box.drop (drawUpTo s box.length)
  let waiting := (s.dev.mailWait.filter (fun m => m.1 == k)).map Prod.snd
  let moved := waiting.take (32 - left.length)
  bump { s with dev := { s.dev with
    mailboxes := setNth (left ++ moved) k s.dev.mailboxes
    mailWait := s.dev.mailWait.filter (fun m => m.1 != k) ++ (waiting.drop moved.length).map (fun b => (k, b)) } }

/-- A mailbox has no free entry. -/
def mailboxFull (s : State) (k : Nat) : Bool := decide (32 ≤ (nth [] k s.dev.mailboxes).length)

/-- A 64-byte entry enters a mailbox. -/
def fileMessage (s : State) (k : Nat) (bytes : List Byte) : State :=
  { s with dev := { s.dev with mailboxes := setNth (nth [] k s.dev.mailboxes ++ [bytes]) k s.dev.mailboxes } }

/-- HOST_MAILBOX_WRITE (23 R352): a 64-byte entry for MB7; a write while it is full is discarded and counted in MBLOST. -/
def execHostMailboxWrite (bytes : List Byte) (s : State) : Host.Outcome State Fault Refusal :=
  if bytes.length ≠ 64 then .next s
  else if mailboxFull s 7 then
    .next (drainMailbox { s with dev := { s.dev with mblost := if s.dev.mblost = 0xFFFF then 0xFFFF else s.dev.mblost + 1 } } 7)
  else .next (drainMailbox (fileMessage s 7 bytes) 7)

/-- MAILBOX_MESSAGE (01 R17, 23 R352): a message of 64 bytes enters a Gondola core's mailbox; its sender waits while the mailbox is
full. -/
def execMailboxMessage (k : Nat) (bytes : List Byte) (s : State) : Host.Outcome State Fault Refusal :=
  if 8 ≤ k ∨ bytes.length ≠ 64 then .next s
  else if mailboxFull s k then .next (drainMailbox { s with dev := { s.dev with mailWait := s.dev.mailWait ++ [(k, bytes)] } } k)
  else .next (drainMailbox (fileMessage s k bytes) k)

/-- DEVSTATUS (23 R346). -/
def devStatus (s : State) : DWord :=
  BitVec.ofNat 64 ((if s.dev.ready then 1 else 0) + (if s.dev.activating then 2 else 0) + (if mailboxFull s 7 then 4 else 0)
    + s.dev.fwver.toNat * 2 ^ 16 + s.dev.mblost.toNat * 2 ^ 48)

/-! ## BARs (23 R343, R344, R346) -/

/-- What an offset of a BAR names (23 R343): a byte of a queue block, of DEVSTATUS, of the mailbox window, of the MSI-X table, of the
pending-bit array or of a signal entry. -/
inductive BarByte where
  | queue (ctx q off : Nat)
  | devStatus (off : Nat)
  | mailbox (off : Nat)
  | msix (off : Nat)
  | pba (off : Nat)
  | signal (ctx i off : Nat)
  deriving DecidableEq, Repr

def barByte (bar off : Nat) : Option BarByte :=
  if bar = 0 then
    if off < 0x40000 then (if off % 0x1000 < 0x400 then some (.queue (off / 0x1000) (off % 0x1000 / 0x40) (off % 0x40)) else none)
    else if 0xC0000 ≤ off ∧ off < 0xC0008 then some (.devStatus (off - 0xC0000))
    else if 0xC1000 ≤ off ∧ off < 0xC1040 then some (.mailbox (off - 0xC1000))
    else if 0xE0000 ≤ off ∧ off < 0xE8000 then some (.msix (off - 0xE0000))
    else if 0xF0000 ≤ off ∧ off < 0xF0100 then some (.pba (off - 0xF0000))
    else none
  else if bar = 2 ∧ off < 0x8000000 then some (.signal (off / 0x200000) (off % 0x200000 / 32) (off % 32))
  else none

/-- A queue block (23 R344). -/
def queueBlock (s : State) (ctx q : Nat) : Nat :=
  match queueOf s ctx q with
  | some v => v.wptr.toNat + v.rptr.toNat * 2 ^ 64 + v.state * 2 ^ 128
  | none => 0

/-- A signal entry as the host wrote it; one never written reads as zero. -/
def signalWord (s : State) (ctx i : Nat) : BitVec 256 := ((getC s ctx).bind (fun c => tget i c.signals)).getD 0

/-- Byte k of a number. -/
def byteOf (n k : Nat) : Byte := BitVec.ofNat 8 (n / 2 ^ (8 * k))

/-- What a byte of a BAR reads as: zero where no row names it, and while READY is 0, DEVSTATUS aside (23 R343, R346). The mailbox window
reads as zero (DESIGN CHOICE, log entry 8). -/
def barReads (s : State) (bar off : Nat) : Byte :=
  match barByte bar off with
  | some (.devStatus k) => byteOf (devStatus s).toNat k
  | some x =>
    if !s.dev.ready then 0
    else
      (match x with
       | .queue ctx q k => byteOf (queueBlock s ctx q) k
       | .msix k => (tget k s.dev.msix).getD 0
       | .pba k => BitVec.ofNat 8 (((List.range 8).map (fun b => if smem (8 * k + b) s.dev.pba then 2 ^ b else 0)).sum)
       | .signal ctx i k => byteOf (signalWord s ctx i).toNat k
       | _ => 0)
  | none => 0

/-- The state an event leads to. -/
def after (s : State) : Host.Outcome State Fault Refusal → State
  | .next t => t
  | _ => s

/-- A number with some of its bytes replaced, from byte lo on. -/
def patched (n size lo : Nat) (bs : List Byte) : Nat :=
  leNat ((List.range size).map (fun k => if lo ≤ k ∧ k < lo + bs.length then nth 0 (k - lo) bs else byteOf n k))

/-- A write covers a byte. -/
def covers (lo : Nat) (bs : List Byte) (k : Nat) : Bool := decide (lo ≤ k) && decide (k < lo + bs.length)

/-- The host writes bytes of a queue block: the doorbell whole, then RESET (23 R344). -/
def writeQueue (s : State) (ctx q lo : Nat) (bs : List Byte) : State :=
  let s1 := if (List.range 4).any (covers lo bs) then
      (match queueOf s ctx q with
       | some v => after s (execWptr ctx q (BitVec.ofNat 32 (patched v.wptr.toNat 4 lo bs)) s)
       | none => s)
    else s
  if covers lo bs 24 ∧ (nth (0 : Byte) (24 - lo) bs).toNat % 2 = 1 then after s1 (execReset ctx q s1) else s1

/-- The host writes bytes of the MSI-X table; a pending vector whose mask is cleared is sent. -/
def writeMsix (s : State) (lo : Nat) (bs : List Byte) : State :=
  let s1 := { s with dev := { s.dev with msix := bs.zipIdx.foldl (fun t (b : Byte × Nat) => tset (lo + b.2) b.1 t) s.dev.msix } }
  let due := s1.dev.pba.filter (fun v => !maskedVec s1 v)
  { s1 with dev := { s1.dev with pba := s1.dev.pba.filter (maskedVec s1), sent := s1.dev.sent ++ due.map (fun v => (2 ^ 64 + v, 0)) } }

/-- The host writes bytes of a signal entry; a write of the byte with ARMED arms it (23 R349). -/
def writeEntry (s : State) (ctx i lo : Nat) (bs : List Byte) : State :=
  writeSignal s ctx i (BitVec.ofNat 256 (patched (signalWord s ctx i).toNat 32 lo bs)) (covers lo bs 25)

/-- A write of bytes within one block of a BAR. -/
def writeBlock (s : State) (bar off : Nat) (bs : List Byte) : State :=
  match barByte bar off with
  | some (.mailbox k) => if k = 0 then after s (execHostMailboxWrite bs s) else s
  | some x =>
    if !s.dev.ready then s
    else
      (match x with
       | .queue ctx q k => writeQueue s ctx q k bs
       | .msix k => writeMsix s k bs
       | .signal ctx i k => writeEntry s ctx i k bs
       | _ => s)
  | none => s

/-- The bytes a BAR's registers take together: a queue block or the mailbox window, or a signal entry. -/
def blockSize (bar : Nat) : Nat := if bar = 2 then 32 else 64

/-- A write of the host, block by block. -/
def barWrite (s : State) (bar off : Nat) (bs : List Byte) : State :=
  let n := blockSize bar
  let k := off % n
  (List.range (ceilDiv (k + bs.length) n)).foldl (fun u b =>
    let lo := if b = 0 then off else off / n * n + b * n
    let from_ := if b = 0 then 0 else b * n - k
    writeBlock u bar lo ((bs.drop from_).take (if b = 0 then n - k else n))) s

/-- The function has completed a request of the host with bytes. -/
def complete (s : State) (bs : List Byte) : State := { s with dev := { s.dev with completions := s.dev.completions ++ [bs] } }

/-- A 64-bit AtomicOp of the host on a counter (23 R342, R347): one read-modify-write at its home. -/
def hostAtomic (s : State) (addr : Nat) (f : Nat → Nat) : State :=
  if addr % 8 = 0 ∧ physExists addr then
    let old := leNat ((List.range 8).map (fun k => memGet (addr + k) s.mem))
    complete (clearPoison (putKeys s addr (toBytes 8 (f old % 2 ^ 64))) (placeRun (.phys addr) 8)) (toBytes 8 old)
  else s

/-- A 64-bit AtomicOp of the host on a BAR (23 R342): its old bytes are the completion, and what it writes has the effect of a write there
(DEDUCED, log entry 8). -/
def barAtomic (s : State) (bar off : Nat) (f : Nat → Option Nat) : State :=
  if off % 8 = 0 then
    let old := (List.range 8).map (fun k => barReads s bar (off + k))
    let s1 := match f (leNat old) with
      | some v => barWrite s bar off (toBytes 8 (v % 2 ^ 64))
      | none => s
    complete s1 old
  else s

/-- BAR_WRITE (23 R342, R343, R346): an access of the host. Offsets that no row names, and read-only ones, ignore writes; while READY is
0, every write but the mailbox window's is discarded. AtomicOps act on a counter in memory, or on a BAR. -/
def execBarWrite (bar : Option Nat) (addr : Nat) (a : HostAccess) (s : State) : Host.Outcome State Fault Refusal :=
  match bar, a with
  | some b, .write bytes => .next (barWrite s b addr bytes)
  | some b, .read n => .next (complete s ((List.range n).map (fun k => barReads s b (addr + k))))
  | some b, .fetchAdd v => .next (barAtomic s b addr (fun x => some (x + v)))
  | some b, .cas expect new => .next (barAtomic s b addr (fun x => if x = expect then some new else none))
  | none, .fetchAdd v => .next (hostAtomic s addr (fun x => x + v))
  | none, .cas expect new => .next (hostAtomic s addr (fun x => if x = expect then new else x))
  | _, _ => .next s

/-! ## Otain ports (23 R350, R351) -/

/-- Step 5 of the bring-up ends without a domain once no port is up (23 R355). -/
def noPortLeft (s : State) : State :=
  if !s.dev.ready ∧ s.dev.running.isSome ∧ s.dev.domain.isNone ∧ !s.dev.ports.any Port.up then setReady s else s

/-- PORT_RETRAIN (23 R350): the port retrains; if that fails, which is free, it is down and its traffic moves to the others. -/
def execPortRetrain (port : Nat) (s : State) : Host.Outcome State Fault Refusal :=
  let p := portOf s port
  if 18 ≤ port ∨ !p.up then .next s
  else if freeBit s 0 then .next (bump (setPort s port { p with replays := 0 }))
  else .next (noPortLeft ((p.retry.map Prod.snd).foldl transmit (bump (setPort s port { p with up := false, replays := 0, retry := [] }))))

/-- A range of physical addresses lies in one that a context exports (23 R351). -/
def exports_ (s : State) (ctx addr n : Nat) : Bool :=
  match getC s ctx with
  | none => false
  | some c => c.exported.any (fun e => decide (e.1 ≤ addr) && decide (addr + n ≤ e.1 + e.2))

/-- The links core admits a transfer: an exported range of memory that exists. -/
def admits (s : State) (ctx addr n : Nat) : Bool :=
  exports_ s ctx addr n && decide (n ≠ 0) && physExists addr && physExists (addr + n - 1)

/-- A peer has answered for n bytes of a packet's transfer. -/
def peerAnswered (s : State) (id n : Nat) : State :=
  match begunPkt s id 6 with
  | none => s
  | some p =>
    let s1 := { s with pkts := tset id { p with left := p.left - n } s.pkts }
    if p.left ≤ n then pktDone s1 id else s1

/-- Bytes a remote copy brings for one of this module's packets; a destination that is not mapped is the packet's fault. -/
def takeData (s : State) (pkt off : Nat) (bs : List Byte) : State :=
  match begunPkt s pkt 6 with
  | none => s
  | some p =>
    let va := pktField p 24 8 + off
    match mapRange s p.ctx va true (pagesOf va bs.length) with
    | none => failPacket s pkt p
    | some s1 => peerAnswered (putVirt s1 p.ctx (bs.zipIdx.map (fun b => (va + b.2, b.1)))) pkt bs.length

/-- The peer has refused a packet's transfer: its queue is in ERROR (23 R351). -/
def refusedBy (s : State) (id : Nat) : State :=
  match begunPkt s id 6 with
  | none => s
  | some p => failPacket s id p

/-- The bytes of a body fit a flit's payload, and a message is one mailbox entry. -/
def bodyFits : FlitBody → Bool
  | .message _ bs => bs.length == 64
  | .write _ _ _ bs => decide (bs.length ≤ flitBytes)
  | .data _ _ bs => decide (bs.length ≤ flitBytes)
  | _ => true

/-- What a received flit's body does (23 R351). Time synchronisation only adjusts the counter's rate, whose drift is free (01 R18). -/
def takeBody (s : State) (peer : Nat) (b : FlitBody) : Host.Outcome State Fault Refusal :=
  match b with
  | .message k bytes => execMailboxMessage k bytes s
  | .time _ => .next s
  | .ack pkt n => .next (peerAnswered s pkt n)
  | .refuse pkt => .next (refusedBy s pkt)
  | .data pkt off bytes => .next (takeData s pkt off bytes)
  | .write ctx addr pkt bytes =>
    .next (if admits s ctx addr bytes.length then
      sendOut (clearPoison (putKeys s addr bytes) (placeRun (.phys addr) bytes.length)) peer (.ack pkt bytes.length)
    else sendOut s peer (.refuse pkt))
  | .read ctx addr n pkt =>
    .next (if admits s ctx addr n ∧ (poisonIn s addr n).isNone then
      sendPieces s peer n ((List.range n).map (fun k => memGet (addr + k) s.mem)) (fun o bs => .data pkt o bs)
    else sendOut s peer (.refuse pkt))

/-- FLIT_RECEIVE (23 R350): the peer's acknowledgement empties the retry buffer; flits of a port are taken in order, once each; a bad CRC
is replayed, and 16 replays that fail in a row retrain the port. -/
def execFlitReceive (port : Nat) (f : Flit) (s : State) : Host.Outcome State Fault Refusal :=
  let p := portOf s port
  if 18 ≤ port ∨ !p.up then .next s
  else if !f.crcOk then
    (if p.replays < 16 then .next (setPort s port { p with replays := p.replays + 1 }) else execPortRetrain port s)
  else
    let p1 := { p with replays := 0, retry := p.retry.filter (fun x => decide (f.ack ≤ x.1)) }
    if f.seq ≠ p.next ∨ !bodyFits f.body then .next (setPort s port p1)
    else takeBody (setPort s port { p1 with next := p.next + 1 }) f.src f.body

/-! ## Contexts (13 R227, 15 R255, 21 R323, R329, R334; 20 R317) -/

/-- Two slice ranges share a slice. -/
def rangesMeet (a n b m : Nat) : Bool := decide (max a b < min (a + n) (b + m))

/-- A partition request: ranges in bounds, counts multiples of 16, disjoint from every other context's (13 R227). -/
def partitionOk (s : State) (p : CtxParams) : Bool :=
  decide (p.f4Base + p.f4Count ≤ 240) && decide (p.b16Base + p.b16Count ≤ 256) && p.f4Count % 16 == 0 && p.b16Count % 16 == 0
    && s.ctxs.all (fun c => !rangesMeet p.f4Base p.f4Count c.2.f4Base c.2.f4Count && !rangesMeet p.b16Base p.b16Count c.2.b16Base c.2.b16Count)

/-- A context as it is created. -/
def newCtx (p : CtxParams) : Ctx :=
  { root := p.root, tables := p.tables, backing := p.backing, log := [], logCap := p.logCap, logLost := 0, nodes := [], nextTid := 1
    freed := [], serials := 0, pool := p.grant, reserve := p.reserve, f4Base := p.f4Base, f4Count := p.f4Count, b16Base := p.b16Base
    b16Count := p.b16Count, roots := [], types := [], gates := [], waiting := [], later := 0, signals := [], status := []
    statusCap := p.statusCap, statusLost := 0, statusWait := [], queues := [], saves := p.saves, nextSerial := 0, exported := p.exported }

/-- The partition is zeroed before the context receives it (13 R227): its slices, and on F4-class clusters their scale blocks. -/
def zeroPartition (s : State) (p : CtxParams) : State :=
  (List.range 192).foldl (fun u cl =>
    let base := placeKey (.bstore cl 0)
    if isF4 cl then
      clearRange (clearRange u (base + p.f4Base * 32768) (base + (p.f4Base + p.f4Count) * 32768))
        (base + 240 * 32768 + p.f4Base * 2048) (base + 240 * 32768 + (p.f4Base + p.f4Count) * 2048)
    else clearRange u (base + p.b16Base * 32768) (base + (p.b16Base + p.b16Count) * 32768)) s

/-- CONTEXT_CREATE (13 R227, 15 R255, 23 R354, R355). -/
def execContextCreate (ctx : Nat) (p : CtxParams) (s : State) : Host.Outcome State Fault Refusal :=
  if s.dev.ready ∧ ctx < 64 ∧ (getC s ctx).isNone ∧ partitionOk s p ∧ p.root % 2 ^ 21 = 0 ∧ physExists p.root then
    let d := toBytes 8 p.f4Base ++ toBytes 8 p.f4Count ++ toBytes 8 p.b16Base ++ toBytes 8 p.b16Count ++ toBytes 8 p.grant ++ toBytes 8 p.reserve
    .next (extendMeas (setC (zeroPartition s p) ctx (newCtx p)) 2 (Config.sha384 d))
  else .next s

/-- The on-chip ranges over which a root may be minted (05 R81, 06 R101, 13 R227, 17 R267): every address is assigned, no other context has
it, and no cocoon granule is among them. -/
def rootPlaceOk (s : State) (ctx a n : Nat) : Bool :=
  (List.range (ceilDiv n 16 + 1)).all (fun k =>
    match onchip (a + min (16 * k) (n - 1)) false with
    | none => n == 0
    | some p => reaches s ctx p)

/-- A root as the memory core mints it (05 R81): Onchip where BASE lies in the on-chip map (DEDUCED, log entry 57), whatever the host asked
for. -/
def mintedRoot (cap : QWord) : QWord :=
  let c := BitVec.ofNat 128 (cap.toNat - bits cap.toNat 118 1 * 2 ^ 118)
  if (onchip (capBase cap) false).isSome then BitVec.ofNat 128 (c.toNat + 2 ^ 118) else c

/-- ROOT_REGISTER (05 R81): the memory core sets Onchip by where BASE lies and refuses a root that breaks the rules: a virtual one
ends below 2^48, an on-chip one lies within the map, over what belongs to the context. -/
def execRootRegister (ctx k : Nat) (cap : QWord) (s : State) : Host.Outcome State Fault Refusal :=
  match getC s ctx with
  | none => .next s
  | some c =>
    let r := mintedRoot cap
    let ok := if capOnchip r then rootPlaceOk s ctx (capBase r) (capLen r) else decide (capBase r + capLen r < 2 ^ 48)
    if s.dev.ready ∧ k < 16 ∧ ok then .next (setC s ctx { c with roots := tset k r c.roots }) else .next s

/-! ## Images (03 R49-R51) -/

/-- A value fits a field (03 R51). -/
def fieldFits (f : FieldUse) (v : Int) : Bool :=
  if f.signed then decide (-(2 ^ (f.width - 1)) ≤ v) && decide (v < 2 ^ (f.width - 1)) else decide (0 ≤ v) && decide (v < 2 ^ f.width)

/-- Every byte of a range of virtual memory is mapped. -/
def allMapped (s : State) (ctx va n : Nat) : Bool := (List.range n).all (fun k => (physOf s ctx (va + k)).isSome)

/-- The loader writes a field, or fails with its address. -/
def patchField (s : State) (ctx : Nat) (f : FieldUse) (v : Int) : Except (Option Nat) State :=
  if !fieldFits f v ∨ !allMapped s ctx f.addr f.size then .error (some f.addr)
  else
    let old := leNat (virtBytes s ctx f.addr f.size)
    let n := old - bits old f.lo f.width * 2 ^ f.lo + (v % 2 ^ f.width).toNat * 2 ^ f.lo
    .ok (putVirt s ctx ((toBytes f.size n).zipIdx.map (fun b => (f.addr + b.2, b.1))))

/-- Some fields take their values, in order. -/
def patchFields (ctx : Nat) : List (FieldUse × Int) → State → Except (Option Nat) State
  | [], s => .ok s
  | (f, v) :: rest, s =>
    match patchField s ctx f v with
    | .error e => .error e
    | .ok s1 => patchFields ctx rest s1

/-- The limits of TNEW for a .tensor (03 R50, 15 R257). -/
def tensorOk (t : TensorInit) (f : Fmt) : Bool :=
  decide (1 ≤ t.rows) && decide (t.rows < 2 ^ 24) && decide (1 ≤ t.cols) && decide (t.cols < 2 ^ 24) && decide (1 ≤ t.maxd) && decide (t.maxd ≤ 15)
    && decide (minPitch t.cols f ≤ t.pitch) && decide (t.rows * t.pitch ≤ 2 ^ 28) && (f != .e2m1 || t.cols % 2 == 0)

/-- The content of a .tensor, packed: row r of its data stands at r times the pitch, and what no data gives is zero. Bytes between a row's last
element and its pitch do not enter the lines (DESIGN CHOICE, log entry 63: R50 does not say). -/
def tensorRows (t : TensorInit) (f : Fmt) : List Byte :=
  let n := t.cols * fmtWidth f / 8
  (List.range t.rows).flatMap (fun r =>
    let row := (t.data.drop (r * t.pitch * 128)).take n
    row ++ List.replicate (n - row.length) 0)

/-- Creates a .tensor's root as TNEW does and writes its content through the encoder (03 R50): its TID, or none when a limit is
broken, or the table or the pool has no room: the loader draws nothing from the reserve (DESIGN CHOICE, log entry 63). -/
def loadTensor (s : State) (ctx : Nat) (t : TensorInit) : Option (State × Nat) :=
  match getC s ctx, Fmt.ofCode t.fmt with
  | some c, some f =>
    (match (if tensorOk t f then freeTid c else none) with
     | none => none
     | some m =>
       let n : Node := { serial := 0, sectors := 0, scale := t.scale, pitch := t.pitch, cols := t.cols, rows := t.rows, pins := 0, children := 0
                         detached := false, fmt := t.fmt, state := .live, maxd := t.maxd, depth := 0, parent := 0
                         die := Config.freeNat s.free % 8, lines := [] }
       let c1 := newNode c m n
       match tget m c1.nodes with
       | none => none
       | some n1 =>
         match (if t.data.isEmpty then .ok ⟨c1, 0, [m], 0, none, false⟩ else linWrite c1 false n1 (wholeView m n1) 0 (tensorRows t f)) with
         | .error _ => none
         | .ok r =>
           match tget m r.ctx.nodes with
           | none => none
           | some n2 => some (bump (setC s ctx (setNode r.ctx m { n2 with pins := 0 })), m))
  | _, _ => none

/-- Tensors in order; each field that names one takes its TID. One that cannot be made fails the load with no address (DESIGN CHOICE, log
entry 63: R51 names a value that does not fit alone). -/
def loadTensors (ctx : Nat) : List TensorInit → State → Except (Option Nat) State
  | [], s => .ok s
  | t :: rest, s =>
    match loadTensor s ctx t with
    | none => .error none
    | some (s1, m) =>
      match patchFields ctx (t.uses.map (fun f => (f, (m : Int)))) s1 with
      | .error e => .error e
      | .ok s2 => loadTensors ctx rest s2

/-- The loader's work on an image: its bytes, its relocations, its task-type entries and its tensors. A byte without a translation fails the
load with its address (DESIGN CHOICE, log entry 63: R51 names a value that does not fit alone). A task type whose index the
context's table already holds replaces the entry (DESIGN CHOICE, log entry 49: R49 says the index is unique). -/
def loadImage (ctx : Nat) (img : Image) (c : Ctx) (s : State) : Except (Option Nat) State :=
  match img.bytes.find? (fun b => (physOf s ctx b.1).isNone) with
  | some b => .error (some b.1)
  | none =>
    let s1 := setC s ctx { c with types := img.types.foldl (fun t e => tset (e.1 % 4096) (BitVec.ofNat 512 e.2) t) c.types }
    match patchFields ctx img.relocs (putVirt s1 ctx img.bytes) with
    | .error e => .error e
    | .ok s2 => loadTensors ctx img.tensors s2

/-- IMAGE_LOAD (03 R49-R51): the whole image is loaded, or nothing of it, and the load fails with the address of the field that does not
fit, in a reply to the host (23 R352; log entry 63: what the reply holds). A task type whose index is in the table already replaces the entry
(DESIGN CHOICE, log entry 49: R49 gives no outcome). -/
def execImageLoad (ctx : Nat) (img : Image) (s : State) : Host.Outcome State Fault Refusal :=
  match (if s.dev.ready then getC s ctx else none) with
  | none => .next s
  | some c =>
    match loadImage ctx img c s with
    | .ok s1 => .next s1
    | .error e =>
      let s1 := replyTo s img.reply (toBytes 8 (e.getD 0))
      .next { s1 with dev := { s1.dev with loadErrors := s1.dev.loadErrors ++ [(ctx, e)] } }

end Sys2Proof.Machine
end

