-- ==== Sys2Proof/Machine/Dispatch.lean ====
section
/-!
DEFINITION. One arm for each constructor of Instr, in the order of the opcode table: a direct call of its meaning.
-/

namespace Sys2Proof.Machine

/-- What an instruction or event does. -/
def exec (i : Instr) (s : State) : Host.Outcome State Fault Refusal :=
  match i with
  | .bCc x1 x2 x3 x4 => Sys2Proof.Machine.execBCc x1 x2 x3 x4 s
  | .bCcX x1 x2 x3 x4 => Sys2Proof.Machine.execBCcX x1 x2 x3 x4 s
  | .biCc x1 x2 x3 x4 => Sys2Proof.Machine.execBiCc x1 x2 x3 x4 s
  | .biCcX x1 x2 x3 x4 => Sys2Proof.Machine.execBiCcX x1 x2 x3 x4 s
  | .j x1 => Sys2Proof.Machine.execJ x1 s
  | .jal x1 x2 => Sys2Proof.Machine.execJal x1 x2 s
  | .jalr x1 x2 => Sys2Proof.Machine.execJalr x1 x2 s
  | .spawn x1 x2 x3 => Sys2Proof.Machine.execSpawn x1 x2 x3 s
  | .exit => Sys2Proof.Machine.execExit s
  | .waitt x1 => Sys2Proof.Machine.execWaitt x1 s
  | .sleep x1 => Sys2Proof.Machine.execSleep x1 s
  | .ppt x1 => Sys2Proof.Machine.execPpt x1 s
  | .crr x1 x2 => Sys2Proof.Machine.execCrr x1 x2 s
  | .crw x1 x2 => Sys2Proof.Machine.execCrw x1 x2 s
  | .trap x1 => Sys2Proof.Machine.execTrap x1 s
  | .nop => Sys2Proof.Machine.execNop s
  | .add x1 x2 x3 => Sys2Proof.Machine.execAdd x1 x2 x3 s
  | .sub x1 x2 x3 => Sys2Proof.Machine.execSub x1 x2 x3 s
  | .and x1 x2 x3 => Sys2Proof.Machine.execAnd x1 x2 x3 s
  | .or x1 x2 x3 => Sys2Proof.Machine.execOr x1 x2 x3 s
  | .xor x1 x2 x3 => Sys2Proof.Machine.execXor x1 x2 x3 s
  | .andn x1 x2 x3 => Sys2Proof.Machine.execAndn x1 x2 x3 s
  | .shl x1 x2 x3 => Sys2Proof.Machine.execShl x1 x2 x3 s
  | .shr x1 x2 x3 => Sys2Proof.Machine.execShr x1 x2 x3 s
  | .sra x1 x2 x3 => Sys2Proof.Machine.execSra x1 x2 x3 s
  | .rol x1 x2 x3 => Sys2Proof.Machine.execRol x1 x2 x3 s
  | .min x1 x2 x3 => Sys2Proof.Machine.execMin x1 x2 x3 s
  | .max x1 x2 x3 => Sys2Proof.Machine.execMax x1 x2 x3 s
  | .minn x1 x2 x3 => Sys2Proof.Machine.execMinn x1 x2 x3 s
  | .maxn x1 x2 x3 => Sys2Proof.Machine.execMaxn x1 x2 x3 s
  | .slt x1 x2 x3 => Sys2Proof.Machine.execSlt x1 x2 x3 s
  | .sltn x1 x2 x3 => Sys2Proof.Machine.execSltn x1 x2 x3 s
  | .mul x1 x2 x3 => Sys2Proof.Machine.execMul x1 x2 x3 s
  | .mulh x1 x2 x3 => Sys2Proof.Machine.execMulh x1 x2 x3 s
  | .mulhn x1 x2 x3 => Sys2Proof.Machine.execMulhn x1 x2 x3 s
  | .div x1 x2 x3 => Sys2Proof.Machine.execDiv x1 x2 x3 s
  | .divn x1 x2 x3 => Sys2Proof.Machine.execDivn x1 x2 x3 s
  | .rem x1 x2 x3 => Sys2Proof.Machine.execRem x1 x2 x3 s
  | .remn x1 x2 x3 => Sys2Proof.Machine.execRemn x1 x2 x3 s
  | .clz x1 x2 => Sys2Proof.Machine.execClz x1 x2 s
  | .ctz x1 x2 => Sys2Proof.Machine.execCtz x1 x2 s
  | .popc x1 x2 => Sys2Proof.Machine.execPopc x1 x2 s
  | .sel x1 x2 x3 x4 => Sys2Proof.Machine.execSel x1 x2 x3 x4 s
  | .addi x1 x2 x3 => Sys2Proof.Machine.execAddi x1 x2 x3 s
  | .andi x1 x2 x3 => Sys2Proof.Machine.execAndi x1 x2 x3 s
  | .ori x1 x2 x3 => Sys2Proof.Machine.execOri x1 x2 x3 s
  | .xori x1 x2 x3 => Sys2Proof.Machine.execXori x1 x2 x3 s
  | .slti x1 x2 x3 => Sys2Proof.Machine.execSlti x1 x2 x3 s
  | .shli x1 x2 x3 => Sys2Proof.Machine.execShli x1 x2 x3 s
  | .shri x1 x2 x3 => Sys2Proof.Machine.execShri x1 x2 x3 s
  | .srai x1 x2 x3 => Sys2Proof.Machine.execSrai x1 x2 x3 s
  | .li x1 x2 => Sys2Proof.Machine.execLi x1 x2 s
  | .liX x1 x2 => Sys2Proof.Machine.execLiX x1 x2 s
  | .mov x1 x2 => Sys2Proof.Machine.execMov x1 x2 s
  | .move x1 x2 => Sys2Proof.Machine.execMove x1 x2 s
  | .kind x1 x2 => Sys2Proof.Machine.execKind x1 x2 s
  | .cget x1 x2 x3 => Sys2Proof.Machine.execCget x1 x2 x3 s
  | .csetb x1 x2 x3 => Sys2Proof.Machine.execCsetb x1 x2 x3 s
  | .csetp x1 x2 x3 => Sys2Proof.Machine.execCsetp x1 x2 x3 s
  | .csetc x1 x2 x3 => Sys2Proof.Machine.execCsetc x1 x2 x3 s
  | .cinc x1 x2 x3 => Sys2Proof.Machine.execCinc x1 x2 x3 s
  | .ld x1 x2 x3 => Sys2Proof.Machine.execLd x1 x2 x3 s
  | .st x1 x2 x3 => Sys2Proof.Machine.execSt x1 x2 x3 s
  | .lds x1 x2 x3 => Sys2Proof.Machine.execLds x1 x2 x3 s
  | .sts x1 x2 x3 => Sys2Proof.Machine.execSts x1 x2 x3 s
  | .fest x1 x2 x3 => Sys2Proof.Machine.execFest x1 x2 x3 s
  | .feget x1 x2 x3 => Sys2Proof.Machine.execFeget x1 x2 x3 s
  | .atm x1 x2 x3 x4 x5 => Sys2Proof.Machine.execAtm x1 x2 x3 x4 x5 s
  | .atmCas x1 x2 x3 x4 x5 => Sys2Proof.Machine.execAtmCas x1 x2 x3 x4 x5 s
  | .atmf x1 x2 x3 x4 x5 x6 => Sys2Proof.Machine.execAtmf x1 x2 x3 x4 x5 x6 s
  | .cpy x1 x2 x3 x4 => Sys2Proof.Machine.execCpy x1 x2 x3 x4 s
  | .cpyAt x1 x2 x3 x4 x5 => Sys2Proof.Machine.execCpyAt x1 x2 x3 x4 x5 s
  | .cpys x1 x2 x3 x4 => Sys2Proof.Machine.execCpys x1 x2 x3 x4 s
  | .cpysAt x1 x2 x3 x4 x5 => Sys2Proof.Machine.execCpysAt x1 x2 x3 x4 x5 s
  | .fadd x1 x2 x3 x4 => Sys2Proof.Machine.execFadd x1 x2 x3 x4 s
  | .fsub x1 x2 x3 x4 => Sys2Proof.Machine.execFsub x1 x2 x3 x4 s
  | .fmul x1 x2 x3 x4 => Sys2Proof.Machine.execFmul x1 x2 x3 x4 s
  | .fdiv x1 x2 x3 x4 => Sys2Proof.Machine.execFdiv x1 x2 x3 x4 s
  | .fsqrt x1 x2 x3 => Sys2Proof.Machine.execFsqrt x1 x2 x3 s
  | .fmin x1 x2 x3 => Sys2Proof.Machine.execFmin x1 x2 x3 s
  | .fmax x1 x2 x3 => Sys2Proof.Machine.execFmax x1 x2 x3 s
  | .fcmp x1 x2 x3 x4 => Sys2Proof.Machine.execFcmp x1 x2 x3 x4 s
  | .fclass x1 x2 => Sys2Proof.Machine.execFclass x1 x2 s
  | .ffma x1 x2 x3 x4 x5 => Sys2Proof.Machine.execFfma x1 x2 x3 x4 x5 s
  | .cvt x1 x2 x3 x4 x5 => Sys2Proof.Machine.execCvt x1 x2 x3 x4 x5 s
  | .img x1 x2 x3 => Sys2Proof.Machine.execImg x1 x2 x3 s
  | .imgi x1 x2 x3 => Sys2Proof.Machine.execImgi x1 x2 x3 s
  | .sbind x1 x2 x3 x4 x5 => Sys2Proof.Machine.execSbind x1 x2 x3 x4 x5 s
  | .scnt x1 x2 => Sys2Proof.Machine.execScnt x1 x2 s
  | .vadd x1 => Sys2Proof.Machine.execVadd x1 s
  | .vsub x1 => Sys2Proof.Machine.execVsub x1 s
  | .vmul x1 => Sys2Proof.Machine.execVmul x1 s
  | .vfma x1 => Sys2Proof.Machine.execVfma x1 s
  | .vmin x1 => Sys2Proof.Machine.execVmin x1 s
  | .vmax x1 => Sys2Proof.Machine.execVmax x1 s
  | .vsel x1 => Sys2Proof.Machine.execVsel x1 s
  | .vcx x1 => Sys2Proof.Machine.execVcx x1 s
  | .vcmp x1 x2 => Sys2Proof.Machine.execVcmp x1 x2 s
  | .vand x1 => Sys2Proof.Machine.execVand x1 s
  | .vor x1 => Sys2Proof.Machine.execVor x1 s
  | .vxor x1 => Sys2Proof.Machine.execVxor x1 s
  | .vshl x1 => Sys2Proof.Machine.execVshl x1 s
  | .vshr x1 => Sys2Proof.Machine.execVshr x1 s
  | .viadd x1 => Sys2Proof.Machine.execViadd x1 s
  | .visub x1 => Sys2Proof.Machine.execVisub x1 s
  | .vimul x1 => Sys2Proof.Machine.execVimul x1 s
  | .vred x1 => Sys2Proof.Machine.execVred x1 s
  | .vscan x1 => Sys2Proof.Machine.execVscan x1 s
  | .vabs x1 => Sys2Proof.Machine.execVabs x1 s
  | .vneg x1 => Sys2Proof.Machine.execVneg x1 s
  | .vexp2 x1 => Sys2Proof.Machine.execVexp2 x1 s
  | .vlog2 x1 => Sys2Proof.Machine.execVlog2 x1 s
  | .vrcp x1 => Sys2Proof.Machine.execVrcp x1 s
  | .vrsq x1 => Sys2Proof.Machine.execVrsq x1 s
  | .vtanh x1 => Sys2Proof.Machine.execVtanh x1 s
  | .vmov x1 => Sys2Proof.Machine.execVmov x1 s
  | .vsplat x1 => Sys2Proof.Machine.execVsplat x1 s
  | .vcvt x1 => Sys2Proof.Machine.execVcvt x1 s
  | .vgath x1 => Sys2Proof.Machine.execVgath x1 s
  | .vscat x1 => Sys2Proof.Machine.execVscat x1 s
  | .movmMg x1 x2 => Sys2Proof.Machine.execMovmMg x1 x2 s
  | .movmGm x1 x2 => Sys2Proof.Machine.execMovmGm x1 x2 s
  | .mand x1 x2 x3 => Sys2Proof.Machine.execMand x1 x2 x3 s
  | .mor x1 x2 x3 => Sys2Proof.Machine.execMor x1 x2 x3 s
  | .mxor x1 x2 x3 => Sys2Proof.Machine.execMxor x1 x2 x3 s
  | .mnot x1 x2 => Sys2Proof.Machine.execMnot x1 x2 s
  | .mpop x1 x2 => Sys2Proof.Machine.execMpop x1 x2 s
  | .mff x1 x2 => Sys2Proof.Machine.execMff x1 x2 s
  | .gjoin x1 => Sys2Proof.Machine.execGjoin x1 s
  | .gleave x1 => Sys2Proof.Machine.execGleave x1 s
  | .gshfl x1 x2 x3 x4 => Sys2Proof.Machine.execGshfl x1 x2 x3 x4 s
  | .gvote x1 x2 x3 x4 => Sys2Proof.Machine.execGvote x1 x2 x3 x4 s
  | .gmatch x1 x2 x3 => Sys2Proof.Machine.execGmatch x1 x2 x3 s
  | .gred x1 x2 x3 x4 => Sys2Proof.Machine.execGred x1 x2 x3 x4 s
  | .gxld x1 x2 x3 x4 x5 => Sys2Proof.Machine.execGxld x1 x2 x3 x4 x5 s
  | .binit x1 x2 => Sys2Proof.Machine.execBinit x1 x2 s
  | .barr x1 => Sys2Proof.Machine.execBarr x1 s
  | .bwait x1 x2 => Sys2Proof.Machine.execBwait x1 x2 s
  | .bsync x1 x2 => Sys2Proof.Machine.execBsync x1 x2 s
  | .bexp x1 x2 => Sys2Proof.Machine.execBexp x1 x2 s
  | .cstat x1 x2 => Sys2Proof.Machine.execCstat x1 x2 s
  | .send x1 x2 x3 => Sys2Proof.Machine.execSend x1 x2 x3 s
  | .sendh x1 x2 x3 => Sys2Proof.Machine.execSendh x1 x2 x3 s
  | .pbind x1 => Sys2Proof.Machine.execPbind x1 s
  | .btag x1 x2 => Sys2Proof.Machine.execBtag x1 x2 s
  | .peek x1 x2 => Sys2Proof.Machine.execPeek x1 x2 s
  | .loopb x1 x2 x3 => Sys2Proof.Machine.execLoopb x1 x2 x3 s
  | .cred x1 x2 x3 x4 => Sys2Proof.Machine.execCred x1 x2 x3 x4 s
  | .fence x1 => Sys2Proof.Machine.execFence x1 s
  | .fencex x1 x2 => Sys2Proof.Machine.execFencex x1 x2 s
  | .bload x1 x2 => Sys2Proof.Machine.execBload x1 x2 s
  | .minit x1 x2 => Sys2Proof.Machine.execMinit x1 x2 s
  | .mpload x1 x2 => Sys2Proof.Machine.execMpload x1 x2 s
  | .mstat x1 x2 => Sys2Proof.Machine.execMstat x1 x2 s
  | .mma x1 x2 => Sys2Proof.Machine.execMma x1 x2 s
  | .mmad x1 x2 x3 => Sys2Proof.Machine.execMmad x1 x2 x3 s
  | .mdrain x1 x2 x3 => Sys2Proof.Machine.execMdrain x1 x2 x3 s
  | .mdrainAt x1 x2 x3 x4 => Sys2Proof.Machine.execMdrainAt x1 x2 x3 x4 s
  | .mdraina x1 x2 x3 => Sys2Proof.Machine.execMdraina x1 x2 x3 s
  | .mdrainaAt x1 x2 x3 x4 => Sys2Proof.Machine.execMdrainaAt x1 x2 x3 x4 s
  | .tnew x1 x2 x3 x4 x5 x6 x7 => Sys2Proof.Machine.execTnew x1 x2 x3 x4 x5 x6 x7 s
  | .topen x1 x2 x3 x4 x5 x6 => Sys2Proof.Machine.execTopen x1 x2 x3 x4 x5 x6 s
  | .fork x1 x2 x3 x4 x5 => Sys2Proof.Machine.execFork x1 x2 x3 x4 x5 s
  | .rebase x1 x2 x3 x4 => Sys2Proof.Machine.execRebase x1 x2 x3 x4 s
  | .flat x1 x2 x3 => Sys2Proof.Machine.execFlat x1 x2 x3 s
  | .tfree x1 x2 x3 => Sys2Proof.Machine.execTfree x1 x2 x3 s
  | .tinfo x1 x2 x3 => Sys2Proof.Machine.execTinfo x1 x2 x3 s
  | .trd x1 x2 => Sys2Proof.Machine.execTrd x1 x2 s
  | .twr x1 x2 x3 x4 => Sys2Proof.Machine.execTwr x1 x2 x3 x4 s
  | .tld x1 x2 x3 x4 x5 => Sys2Proof.Machine.execTld x1 x2 x3 x4 x5 s
  | .tst x1 x2 x3 x4 x5 x6 x7 => Sys2Proof.Machine.execTst x1 x2 x3 x4 x5 x6 x7 s
  | .calloc x1 x2 => Sys2Proof.Machine.execCalloc x1 x2 s
  | .csplit x1 x2 x3 x4 => Sys2Proof.Machine.execCsplit x1 x2 x3 x4 s
  | .cjoin x1 x2 x3 => Sys2Proof.Machine.execCjoin x1 x2 x3 s
  | .cfree x1 => Sys2Proof.Machine.execCfree x1 s
  | .cshape x1 x2 => Sys2Proof.Machine.execCshape x1 x2 s
  | .hsel x1 x2 x3 x4 x5 => Sys2Proof.Machine.execHsel x1 x2 x3 x4 x5 s
  | .hselw x1 x2 x3 x4 x5 x6 => Sys2Proof.Machine.execHselw x1 x2 x3 x4 x5 x6 s
  | .hmask x1 x2 => Sys2Proof.Machine.execHmask x1 x2 s
  | .hstat x1 => Sys2Proof.Machine.execHstat x1 s
  | .tsub x1 x2 => Sys2Proof.Machine.execTsub x1 x2 s
  | .tsubAt x1 x2 x3 => Sys2Proof.Machine.execTsubAt x1 x2 x3 s
  | .tdone => Sys2Proof.Machine.execTdone s
  | .gate x1 x2 x3 x4 => Sys2Proof.Machine.execGate x1 x2 x3 x4 s
  | .trec x1 x2 => Sys2Proof.Machine.execTrec x1 x2 s
  | .qpost x1 x2 x3 => Sys2Proof.Machine.execQpost x1 x2 x3 s
  | .relaxedLoadReply x1 => Sys2Proof.Machine.execRelaxedLoadReply x1 s
  | .relaxedAccessComplete x1 => Sys2Proof.Machine.execRelaxedAccessComplete x1 s
  | .farAccessReply x1 => Sys2Proof.Machine.execFarAccessReply x1 s
  | .accessPerformed x1 => Sys2Proof.Machine.execAccessPerformed x1 s
  | .windowWrite x1 => Sys2Proof.Machine.execWindowWrite x1 s
  | .feFirstTest x1 => Sys2Proof.Machine.execFeFirstTest x1 s
  | .feRetryTick x1 => Sys2Proof.Machine.execFeRetryTick x1 s
  | .streamReadaheadArrival x1 => Sys2Proof.Machine.execStreamReadaheadArrival x1 s
  | .streamWriteAck x1 => Sys2Proof.Machine.execStreamWriteAck x1 s
  | .engineAccept x1 => Sys2Proof.Machine.execEngineAccept x1 s
  | .engineAtStart x1 => Sys2Proof.Machine.execEngineAtStart x1 s
  | .copyWrite x1 => Sys2Proof.Machine.execCopyWrite x1 s
  | .cpysRingWrite x1 => Sys2Proof.Machine.execCpysRingWrite x1 s
  | .copyComplete x1 => Sys2Proof.Machine.execCopyComplete x1 s
  | .copyError x1 => Sys2Proof.Machine.execCopyError x1 s
  | .pageWalkStart x1 => Sys2Proof.Machine.execPageWalkStart x1 s
  | .walkComplete x1 => Sys2Proof.Machine.execWalkComplete x1 s
  | .faultDecision x1 => Sys2Proof.Machine.execFaultDecision x1 s
  | .xlateResolve x1 => Sys2Proof.Machine.execXlateResolve x1 s
  | .poolResolve x1 => Sys2Proof.Machine.execPoolResolve x1 s
  | .arrivalCounted x1 => Sys2Proof.Machine.execArrivalCounted x1 s
  | .barrierForward x1 => Sys2Proof.Machine.execBarrierForward x1 s
  | .barrierCompletionNotice x1 => Sys2Proof.Machine.execBarrierCompletionNotice x1 s
  | .barTimeout x1 x2 x3 => Sys2Proof.Machine.execBarTimeout x1 x2 x3 s
  | .cstatRecordWrite x1 => Sys2Proof.Machine.execCstatRecordWrite x1 s
  | .gxldRowsArrive x1 x2 => Sys2Proof.Machine.execGxldRowsArrive x1 x2 s
  | .messageArrival x1 => Sys2Proof.Machine.execMessageArrival x1 s
  | .messageReoffer x1 x2 => Sys2Proof.Machine.execMessageReoffer x1 x2 s
  | .sendhAnswer x1 => Sys2Proof.Machine.execSendhAnswer x1 s
  | .combinePacket x1 => Sys2Proof.Machine.execCombinePacket x1 s
  | .credRootDelivery x1 => Sys2Proof.Machine.execCredRootDelivery x1 s
  | .minitClaimGrant x1 => Sys2Proof.Machine.execMinitClaimGrant x1 s
  | .matrixComplete x1 => Sys2Proof.Machine.execMatrixComplete x1 s
  | .matrixViolation x1 => Sys2Proof.Machine.execMatrixViolation x1 s
  | .mdrainaConfirm x1 => Sys2Proof.Machine.execMdrainaConfirm x1 s
  | .mdrainaPeerAdd x1 => Sys2Proof.Machine.execMdrainaPeerAdd x1 s
  | .hawkComplete x1 => Sys2Proof.Machine.execHawkComplete x1 s
  | .heldResultRestore x1 => Sys2Proof.Machine.execHeldResultRestore x1 s
  | .lineageOperation x1 => Sys2Proof.Machine.execLineageOperation x1 s
  | .lineageReply x1 => Sys2Proof.Machine.execLineageReply x1 s
  | .pinDrop x1 x2 => Sys2Proof.Machine.execPinDrop x1 x2 s
  | .cocoonTableServe x1 => Sys2Proof.Machine.execCocoonTableServe x1 s
  | .granuleScrubDone x1 x2 => Sys2Proof.Machine.execGranuleScrubDone x1 x2 s
  | .unitScrubDone x1 x2 => Sys2Proof.Machine.execUnitScrubDone x1 x2 s
  | .threadReady x1 => Sys2Proof.Machine.execThreadReady x1 s
  | .dispatchDecision x1 x2 => Sys2Proof.Machine.execDispatchDecision x1 x2 s
  | .threadSave x1 => Sys2Proof.Machine.execThreadSave x1 s
  | .forcedSave x1 => Sys2Proof.Machine.execForcedSave x1 s
  | .taskSave x1 => Sys2Proof.Machine.execTaskSave x1 s
  | .taskSaveComplete x1 => Sys2Proof.Machine.execTaskSaveComplete x1 s
  | .taskEnd x1 x2 => Sys2Proof.Machine.execTaskEnd x1 x2 s
  | .populationDeferredPlace x1 x2 => Sys2Proof.Machine.execPopulationDeferredPlace x1 x2 s
  | .launchAtRelease x1 x2 => Sys2Proof.Machine.execLaunchAtRelease x1 x2 s
  | .gateApply x1 => Sys2Proof.Machine.execGateApply x1 s
  | .gateReply x1 => Sys2Proof.Machine.execGateReply x1 s
  | .tsubAtInsert x1 => Sys2Proof.Machine.execTsubAtInsert x1 s
  | .signalUpdate x1 => Sys2Proof.Machine.execSignalUpdate x1 s
  | .signalEntryWrite x1 x2 x3 => Sys2Proof.Machine.execSignalEntryWrite x1 x2 x3 s
  | .bridleEvaluate => Sys2Proof.Machine.execBridleEvaluate s
  | .settleExpire x1 => Sys2Proof.Machine.execSettleExpire x1 s
  | .wptr x1 x2 x3 => Sys2Proof.Machine.execWptr x1 x2 x3 s
  | .reset x1 x2 => Sys2Proof.Machine.execReset x1 x2 s
  | .packetFetch => Sys2Proof.Machine.execPacketFetch s
  | .packetBegin x1 => Sys2Proof.Machine.execPacketBegin x1 s
  | .launchPacket x1 => Sys2Proof.Machine.execLaunchPacket x1 s
  | .tasksPacket x1 => Sys2Proof.Machine.execTasksPacket x1 s
  | .signalPacket x1 => Sys2Proof.Machine.execSignalPacket x1 s
  | .waitPacket x1 => Sys2Proof.Machine.execWaitPacket x1 s
  | .timerPacket x1 => Sys2Proof.Machine.execTimerPacket x1 s
  | .copyPacket x1 => Sys2Proof.Machine.execCopyPacket x1 s
  | .fencePacket x1 => Sys2Proof.Machine.execFencePacket x1 s
  | .packetComplete x1 => Sys2Proof.Machine.execPacketComplete x1 s
  | .statusEntryWrite x1 => Sys2Proof.Machine.execStatusEntryWrite x1 s
  | .eccCorrected x1 => Sys2Proof.Machine.execEccCorrected x1 s
  | .softErr x1 => Sys2Proof.Machine.execSoftErr x1 s
  | .translationChange x1 x2 x3 x4 => Sys2Proof.Machine.execTranslationChange x1 x2 x3 x4 s
  | .hostMailboxWrite x1 => Sys2Proof.Machine.execHostMailboxWrite x1 s
  | .mailboxMessage x1 x2 => Sys2Proof.Machine.execMailboxMessage x1 x2 s
  | .barWrite x1 x2 x3 => Sys2Proof.Machine.execBarWrite x1 x2 x3 s
  | .firmwareActivation x1 => Sys2Proof.Machine.execFirmwareActivation x1 s
  | .forcedActivation => Sys2Proof.Machine.execForcedActivation s
  | .attestationRequest x1 => Sys2Proof.Machine.execAttestationRequest x1 s
  | .measurementExtend x1 x2 => Sys2Proof.Machine.execMeasurementExtend x1 x2 s
  | .svnRaise => Sys2Proof.Machine.execSvnRaise s
  | .coldReset => Sys2Proof.Machine.execColdReset s
  | .domainJoin x1 x2 => Sys2Proof.Machine.execDomainJoin x1 x2 s
  | .flitReceive x1 x2 => Sys2Proof.Machine.execFlitReceive x1 x2 s
  | .portRetrain x1 => Sys2Proof.Machine.execPortRetrain x1 s
  | .contextCreate x1 x2 => Sys2Proof.Machine.execContextCreate x1 x2 s
  | .rootRegister x1 x2 x3 => Sys2Proof.Machine.execRootRegister x1 x2 x3 s
  | .imageLoad x1 x2 => Sys2Proof.Machine.execImageLoad x1 x2 s
  | .hostTensorFree x1 x2 => Sys2Proof.Machine.execHostTensorFree x1 x2 s
  | .cocoonRegionSet x1 => Sys2Proof.Machine.execCocoonRegionSet x1 s
  | .poolAssign x1 => Sys2Proof.Machine.execPoolAssign x1 s
  | .bridleSet x1 x2 => Sys2Proof.Machine.execBridleSet x1 x2 s
  | .waittWake x1 => Sys2Proof.Machine.execWaittWake x1 s
  | .sleepWake x1 => Sys2Proof.Machine.execSleepWake x1 s
  | .illegalEncoding => Sys2Proof.Machine.execIllegalEncoding s
  | .fetchFault x1 x2 => Sys2Proof.Machine.execFetchFault x1 x2 s
  | .queueCreate x1 x2 x3 x4 => Sys2Proof.Machine.execQueueCreate x1 x2 x3 x4 s
  | .qpostAcknowledgement x1 => Sys2Proof.Machine.execQpostAcknowledgement x1 s

end Sys2Proof.Machine
end

