-- ==== Sys2Proof/Machine/Turn.lean ====
section
/-!
DEFINITION. A turn (04 R53-R55): the fetch of the bundle (02 R37), its two halves (02 R33, R35), its end, its continuation after
a park, and what the machine does next in a cycle (01 R13, R18; log entry 5).
-/

namespace Sys2Proof.Machine

/-! ## The fetch (02 R21, R36, R37) -/

/-- The word at a virtual address, fetched through the cluster's translations: a page it does not hold, a page without Execute
and a word with a soft error stop the fetch. -/
def fetchWord (s : State) (tid ctx va : Nat) : Except Stop Nat :=
  match tlbFind s (tid / 256) ctx va with
  | none => .error (.miss va)
  | some e =>
    if !leafExec e.leaf then .error (.fault .perm va)
    else
      let ps := placeRun (.phys (e.phys va)) 4
      match softCheck s ps with
      | .error st => .error st
      | .ok _ => .ok (getNat s ps)

/-- n words from an address on, modulo 2^57 (02 R31). -/
def fetchWords (s : State) (tid ctx : Nat) (pc : VAddr) : Nat → Except Stop (List Nat)
  | 0 => .ok []
  | n + 1 =>
    match fetchWord s tid ctx pc.toNat with
    | .error st => .error st
    | .ok w =>
      match fetchWords s tid ctx (pc + 4) n with
      | .error st => .error st
      | .ok ws => .ok (w :: ws)

/-- Every word that the L field of the first one names. -/
def fetchBundle (s : State) (tid ctx : Nat) (pc : VAddr) : Except Stop (List Nat) :=
  match fetchWord s tid ctx pc.toNat with
  | .error st => .error st
  | .ok w =>
    match fetchWords s tid ctx (pc + 4) (bundleWords w - 1) with
    | .error st => .error st
    | .ok ws => .ok (w :: ws)

/-! ## The halves of a bundle (02 R33-R35) -/

/-- The thread's bundle is still executing: it has not parked, faulted or ended. -/
def issuing (s : State) (tid : Nat) : Bool :=
  match getT s tid with
  | none => false
  | some t => decide (t.status = .issuing)

/-- What the issuing bundle carries as its turn begins. -/
def Issue.begin (tid : Nat) : Issue := ⟨tid, false, false, none, [0, 0, 0]⟩

/-- Goes on with a state in which the bundle is still executing; otherwise that state is the outcome. -/
def thenHalf (o : Host.Outcome State Fault Refusal) (tid : Nat)
    (f : State → Host.Outcome State Fault Refusal) : Host.Outcome State Fault Refusal :=
  match o with
  | .next s => if issuing s tid then f s else .next s
  | .fault r => .fault r
  | .refused r => .refused r

/-- The instruction is a store, which a pair performs after its vector half has read. -/
def isStore : Instr → Bool
  | .st _ _ _ => true
  | _ => false

/-- What the pair of a thread has read in its turn: now, or when it parked. -/
def pairLatch (s : State) (tid : Nat) : Option Latch :=
  (getT s tid).map (fun t => match t.latch with
    | some l => l.refresh t
    | none => Latch.take s tid t)

/-- Of an LD or ST that has executed in its turn: where its access goes, and what an LD has loaded. -/
def heldBy1 (s0 s1 : State) (tid : Nat) (first : Instr) : Option (Place × GReg) :=
  match issuer s0 with
  | none => none
  | some (i, t) =>
    match i.latch.bind Latch.held with
    | some h => some h
    | none => (memTarget s0 i t first).map (fun p => (p, match first with
        | .ld _ d _ => ((getT s1 tid).map (fun u => u.rd d)).getD GReg.zero
        | _ => GReg.zero))

/-- A pair that has parked keeps what it read in its turn; one that has faulted begins anew when it replays. -/
def keepLatch (tid : Nat) (l : Latch) : Host.Outcome State Fault Refusal → Host.Outcome State Fault Refusal
  | .next s =>
    match getT s tid, waitOf s tid with
    | some t, some w => (match w with
      | .faultRec _ => .next s
      | _ => .next (setT s tid { t with latch := some l }))
    | _, _ => .next s
  | .fault r => .fault r
  | .refused r => .refused r

/-- A pair. Both halves read their operands from the thread as the bundle found it. A half that stops leaves the other without
effect: the first half is tried alone, then the second, and only when neither stops does the one execute on the result of the
other. While a half waits, the pair keeps what it read in its turn; while the vector half waits, the checks of an LD or ST are complete and the
LD has its value (02 R33, R35). -/
def runPair (s : State) (tid : Nat) (first vec : Instr) : Host.Outcome State Fault Refusal :=
  match pairLatch s tid with
  | none => .fault .noIssuer
  | some l =>
    let s0 := { s with cur := some { Issue.begin tid with paired := true, latch := some l } }
    thenHalf (keepLatch tid l (exec first s0)) tid (fun s1 =>
      keepLatch tid { l with held := heldBy1 s0 s1 tid first } (thenHalf (exec vec s0) tid (fun s2 =>
        if isStore first then exec first s2 else exec vec s1)))

/-- Executes a bundle of a thread. -/
def runBundle (s : State) (tid : Nat) (b : Bundle) : Host.Outcome State Fault Refusal :=
  match b.vec with
  | none => exec b.first { s with cur := some (Issue.begin tid) }
  | some v => runPair s tid b.first v

/-! ## The end of a turn (04 R55, R56) -/

/-- The registers a thread's bundle writes: those of the first half and results, and stream cursors (02 R33). A scalar among a vector half's
operands is only read. -/
def bundleWrites (t : Thread) : List Reg × List Reg :=
  match t.bundle with
  | none => ([], [])
  | some b =>
    match b.vec with
    | none => (b.first.firstWrites, [])
    | some (.vred v) => (b.first.firstWrites ++ [v.vd], [v.va])
    | some (.vscan v) => (b.first.firstWrites ++ [v.vb], [v.vd, v.va])
    | some v => (b.first.firstWrites, v.vecWrites.filter (fun r => (t.rd r).kind == .strm))

/-- The increments a core's counters have taken in this cycle. -/
def evcNow (s : State) (core : Nat) : List Nat :=
  let c := coreSt s core
  if c.evcAt = s.cycle then c.evcAdded else List.replicate 8 0

/-- A BANK COLLISION (05 R88, 06 R103): the bundle's accesses have been made, and what it writes beside them waits for the last of the turns it
loses, in which it retires (DESIGN CHOICE, log entry 60: R88 says only that this is not its turn). A TENS that it will write is pinned from
its turn on. -/
def collide (before s : State) (tid lost : Nat) : State :=
  match getT before tid, getT s tid with
  | some t, some u =>
    let core := tid / 16
    let w := bundleWrites t
    let values := fun (rs : List Reg) => (rs.filter (fun r => r != 0)).map (fun r => (r.val, u.rd r))
    let moved := s.cmds.filterMap (fun c => match tget c.1 before.cmds with
      | some b => if b.passed = c.2.passed then none else some (c.1, c.2.passed)
      | none => none)
    let late : Late :=
      { regs := values w.1, curs := values w.2, m := u.m, amax := u.amax, pc := u.pc, passed := moved
        incs := List.zipWith (fun x y => x + y) (List.zipWith (fun a b => a - b) (evcNow s core) (evcNow before core))
          [0, 0, 0, 0, 0, 0, lost, parkedTurns s.cycle tid u] }
    let drops := fun (x : State) => x.agenda.filter (fun e => match e.2 with
      | .pinDrop _ _ => true
      | _ => false)
    let b := coreSt before core
    let s1 := setCore { s with
      agenda := s.agenda.diff ((drops s).diff (drops before))
      cmds := s.cmds.map (fun c => match tget c.1 before.cmds with
        | some b => (c.1, { c.2 with passed := b.passed })
        | none => c) } core { coreSt s core with evc := b.evc, evcAdded := b.evcAdded, evcAt := b.evcAt }
    setT s1 tid { u with g := t.g, m := t.m, amax := t.amax, pc := t.pc, rings := t.rings, status := .collided
                         nextIssue := turnAfter s.cycle (tid % 16) + 16 * (lost - 1), late := some late }
  | _, _ => s

/-- A bundle that has collided retires: what it writes takes effect, and the next issue is the slot's next turn. -/
def retireLate (s : State) (tid : Nat) (t : Thread) : State :=
  match t.late with
  | none => s
  | some l =>
    let s1 := l.regs.foldl (fun u p => if h : p.1 < 32 then setReg u tid ⟨p.1, h⟩ p.2 else u) s
    let s2 := l.passed.foldl (fun u p => match tget p.1 u.cmds with
      | some c => sched { u with cmds := tset p.1 { c with passed := p.2 } u.cmds } u.cycle (.cpysRingWrite p.1)
      | none => u) s1
    match getT s2 tid with
    | none => s2
    | some u =>
      let v := l.curs.foldl (fun x p => if h : p.1 < 32 then x.wr ⟨p.1, h⟩ p.2 else x) u
      addEvc (setT s2 tid { v with m := l.m, amax := l.amax, pc := l.pc, status := .ready, nextIssue := turnAfter s.cycle (tid % 16), held := 0
                                   arrived := false, latch := none, late := none }) (tid / 16) l.incs

/-- A bundle that has neither parked nor faulted retires in its cycle, or later when it has met bank collisions; no bundle is executing
afterwards. -/
def endTurn (before s : State) (tid : Nat) : State :=
  let lost := match s.cur with
    | some i => lostTurns i
    | none => 0
  let s1 := if !issuing s tid then s else if lost = 0 then retire s tid else collide before s tid lost
  { s1 with cur := none }

def endOutcome (before : State) (tid : Nat) : Host.Outcome State Fault Refusal → Host.Outcome State Fault Refusal
  | .next s => .next (endTurn before s tid)
  | .fault r => .fault r
  | .refused r => .refused r

/-- The thread as its bundle issues: a replay writes FLT_CAUSE, FLT_ADDR and FLT_PC in this cycle (21 R320). -/
def Thread.issue (t : Thread) (cycle : Nat) : Thread :=
  let u := { t with status := .issuing, issueAt := cycle, bundle := none, replay := none, latch := none }
  match t.replay with
  | none => u
  | some (c, a, pc) => u.flt c a pc

/-- The state as a thread's bundle issues. -/
def issueState (s : State) (tid : Nat) (t : Thread) : State :=
  { setT s tid (t.issue s.cycle) with cur := some (Issue.begin tid) }

/-- The state with the fetched bundle, of so many words, in its thread. -/
def withBundle (s : State) (tid : Nat) (b : Bundle) (words : Nat) : State :=
  match getT s tid with
  | none => s
  | some t => setT s tid { t with bundle := some b, size := 4 * words }

/-- A TURN: the thread's bundle is fetched whole, then decoded, then executed. A missing page parks the thread until the walk is
over (21 R337); a page without Execute, a soft error and words that are no bundle fault before any part of it executes. -/
def runTurn (s : State) (tid : Nat) (t : Thread) : Host.Outcome State Fault Refusal :=
  let s1 := issueState s tid t
  match fetchBundle s1 tid t.ctx t.pc with
  | .error (.miss va) => .next (endTurn s1 (parkAs (addMiss s1 (tid / 256) t.ctx va (tid / 16)) tid (.fetchWalk va)) tid)
  | .error (.wait w) => .next (endTurn s1 (parkAs s1 tid w) tid)
  | .error (.fault c a) =>
    if c = .perm then endOutcome s1 tid (execFetchFault true a s1) else .next (endTurn s1 (takeFault s1 tid c a) tid)
  | .ok ws =>
    match decodeBundle ws with
    | none => endOutcome s1 tid (execIllegalEncoding s1)
    | some b =>
      let s2 := withBundle s1 tid b ws.length
      if Bundle.wf t.nregs b then endOutcome s2 tid (runBundle s2 tid b) else endOutcome s1 tid (execIllegalEncoding s1)

/-! ## After a park (02 R35, 08 R151) -/

/-- A woken bundle goes on: it is executed again as it was issued, a pair with what it read in its turn. -/
def resumeBundle (s : State) (tid : Nat) (t : Thread) : Host.Outcome State Fault Refusal :=
  match t.bundle with
  | none => .next (setT s tid { t with status := .ready, nextIssue := turnAfter s.cycle (tid % 16) })
  | some b =>
    let s1 := setT s tid { t with status := .issuing }
    endOutcome s1 tid (runBundle s1 tid b)

/-- The thread waits again for the elements or the room its vector half waited for. -/
def waitsForVector (s : State) (tid : Nat) : Bool :=
  match waitOf s tid with
  | some .stream => true
  | some .postRoom => true
  | _ => false

/-- A save stops a vector half that still waits (08 R151, 21 R326): the elements it has processed are committed, the first half
has no effect, the PC stays on the bundle, and the thread is saved. One that need not wait any more completes. -/
def stopVector (s : State) (tid : Nat) (t : Thread) : Host.Outcome State Fault Refusal :=
  match resumeBundle s tid t, t.bundle with
  | .next s1, some b =>
    if waitsForVector s1 tid then
      match b.vec with
      | none => .next s1
      | some v =>
        let s0 := { setT s tid { t with status := .issuing } with
          cur := some { Issue.begin tid with paired := true, commit := true, latch := pairLatch s tid } }
        match exec v s0 with
        | .next s2 => .next { (if issuing s2 tid then saveThread s2 tid (allRegs t) else s2) with cur := none }
        | .fault r => .fault r
        | .refused r => .refused r
    else .next s1
  | o, _ => o

/-! ## What happens next in a cycle -/

/-- The first entry of a table that passes a test. -/
def firstThread (p : Nat → Thread → Bool) : List (Nat × Thread) → Option (Nat × Thread)
  | [] => none
  | (k, t) :: rest => if p k t then some (k, t) else firstThread p rest

/-- A thread whose bundle goes on in this cycle. -/
def goesOn (_ : Nat) (t : Thread) : Bool := decide (t.status = .wake) || decide (t.status = .stopVector)

/-- The task of a thread has passed its PDIST: a thread that has not been saved issues nothing more (21 R327). -/
def heldByForce (s : State) (t : Thread) : Bool :=
  t.preempt && (match tget t.owner s.owners with
    | none => false
    | some o => o.forced)

/-- A thread has its turn when it comes: it is ready, or its collided bundle retires. -/
def takesTurns (s : State) (t : Thread) : Bool := decide (t.status = .ready) && !heldByForce s t || decide (t.status = .collided)

/-- A thread has its turn in this cycle: it is its slot's and no earlier than its next issue (04 R53). -/
def mayIssue (s : State) (tid : Nat) (t : Thread) : Bool :=
  takesTurns s t && decide (t.nextIssue ≤ s.cycle) && s.cycle % 16 == tid % 16

/-- The first turn of a thread after this cycle. -/
def nextTurn (s : State) (tid : Nat) (t : Thread) : Nat := turnFrom (max (s.cycle + 1) t.nextIssue) (tid % 16)

/-- The earliest cycle after this one in which something is due, or in which a time can have come; the next cycle when nothing is. -/
def nextDue (s : State) : Nat :=
  let turns := s.threads.filterMap (fun e => if takesTurns s e.2 then some (nextTurn s e.1 e.2) else none)
  let events := match s.agenda with
    | [] => []
    | (c, _) :: _ => [max (s.cycle + 1) c]
  let times := match s.timed with
    | [] => []
    | (ns, _) :: _ => [s.cycle + max 1 (ceilDiv ((ns - s.time) * 18000000 - s.timeFrac) 5000500)]
  match turns ++ events ++ times with
  | [] => s.cycle + 1
  | c :: rest => rest.foldl Nat.min c

/-- The counter advances over n cycles (01 R18): nominally 5/18 ns a cycle, off by a free amount of at most 100 parts in a
million, in units of 1/18000000 ns. One counter serves every die and unit, so of the ±2 ns by which they may differ nothing is
modelled (DESIGN CHOICE, log entry 2). -/
def passTime (s : State) (n : Nat) : State :=
  let f := s.timeFrac + n * (5000000 - 500 + Config.freeNat s.free % 1001)
  bump { s with time := s.time + f / 18000000, timeFrac := f % 18000000 }

/-- Nothing more happens in this cycle: WAIT packets whose conditions are met now complete (DESIGN CHOICE, log entry 56: each reads
its counter once a cycle); otherwise the next cycle in which something is due begins. -/
def nextCycle (s : State) : State :=
  match metWaits s with
  | [] =>
    let c := nextDue s
    { passTime (settleChanges s) (c - s.cycle) with cycle := c }
  | ids => ids.foldl (fun u id => sched u u.cycle (.packetComplete id)) s

/-- An event in its cycle, or when its time has come: it leaves the list and has its effect. -/
def runEvents (s : State) : Host.Outcome State Fault Refusal :=
  match s.agenda with
  | (c, i) :: rest => if c ≤ s.cycle then exec i { s with agenda := rest } else timedEvents s
  | [] => timedEvents s
where
  timedEvents (s : State) : Host.Outcome State Fault Refusal :=
    match s.timed with
    | (ns, i) :: rest => if ns ≤ s.time then exec i { s with timed := rest } else .next (nextCycle s)
    | [] => .next (nextCycle s)

/-- WHAT THE MACHINE DOES NEXT, one thing a step: a bundle that goes on after a park, then a bundle that issues, or that has collided and
retires, in core order, then an event that is due, the decisions of the dispatch stations last, then the next cycle (log entry 5). -/
def stepOnce (s : State) : Host.Outcome State Fault Refusal :=
  match firstThread goesOn s.threads with
  | some (tid, t) => if t.status = .stopVector then stopVector s tid t else resumeBundle s tid t
  | none =>
    match firstThread (mayIssue s) s.threads with
    | some (tid, t) => if t.status = .collided then .next (retireLate s tid t) else runTurn s tid t
    | none => runEvents s

/-! ## A word placed where the next turn fetches (log entry 5) -/

/-- A context with nothing but a backing partition: what a program of one thread runs in. -/
def bareCtx : Ctx :=
  newCtx { root := 0x200000, tables := 0x400000, f4Base := 0, f4Count := 0, b16Base := 0, b16Count := 0, grant := 0, reserve := 0
           logCap := 64, statusCap := 64, saves := 0, exported := [], backing := [] }

/-- A population of one thread with all 32 registers and one page of local store. -/
def bareOwner : Owner :=
  { ctx := 0, isPop := true, ovf := false, serial := 0, typ := 0, record := 0, arg := 0, pool := 0, cls := 0, threads := 1
    nregs := 32, units := 1, nbars := 1, entry := 0, image := 0, imageLen := 0, pdist := 0, prio := 0, order := 0, placed := 0
    late := false, resumed := false, donegDone := false, phase := .running, requested := none, forced := false, forcedPc := none
    saved := [], record_ := none, waiting := [], notBefore := 0, pkt := 0, launched := 1 }

/-- Bytes at their physical addresses. -/
def placeBytes (m : List Host.Cell) : Nat → List Byte → List Host.Cell
  | _, [] => m
  | pa, b :: rest => placeBytes (memPut pa b m) (pa + 1) rest

/-- A translation of a gigabyte page with Read, Write and Execute, to the first gigabyte of stacked DRAM. -/
def bareTlb (ctx va : Nat) : TlbEntry := ⟨ctx, va / 2 ^ 30 * 2 ^ 30, 30, 0x1F⟩

/-- Thread 0 as it issues next: the one there is, or a new one of the bare owner. -/
def placedThread (s : State) : Thread :=
  match getT s 0 with
  | some t => { t with status := .ready, nextIssue := 0, preempt := false }
  | none => newThread 0 0 32 0 0 0 GReg.zero GReg.zero GReg.zero GReg.zero

/-- The machine with nothing pending and one thread, whose next bundle is some words. -/
def placeWords (s : State) (ws : List Nat) : State :=
  let t := placedThread s
  let pc := t.pc.toNat
  let cl := clusterSt s 0
  let fresh_ : Bool := (getT s 0).isNone
  { s with
    cycle := (s.cycle + 15) / 16 * 16
    agenda := []
    timed := []
    poison := []
    threads := [(0, { t with status := .ready, nextIssue := 0 })]
    owners := if fresh_ then tset 0 bareOwner s.owners else s.owners
    ctxs := if fresh_ ∧ (tget 0 s.ctxs).isNone then tset 0 bareCtx s.ctxs else s.ctxs
    places := if fresh_ then tset (placeKeyOf 0 0) ⟨0, 0, 0, 1, [Barrier.reset], 64, 0, 0⟩ s.places else s.places
    clusters := tset 0 { cl with tlb := bareTlb t.ctx pc :: bareTlb t.ctx (pc + 16) :: cl.tlb } s.clusters
    mem := placeBytes s.mem (pc % 2 ^ 30) (ws.flatMap (toBytes 4)) }

end Sys2Proof.Machine
end

