-- ==== Sys2Proof/Machine/Step.lean ====
section
/-!
DEFINITION. One step of the machine, and an instruction word placed where the next step fetches.
-/

namespace Sys2Proof.Machine

/-- One step: a bundle that goes on, a bundle that issues, an event, or the next cycle. -/
def step (s : State) : Host.Outcome State Fault Refusal := stepOnce s

/-- s with an opcode-table row's words where its next step fetches (log entry 5). -/
def State.withFetchWord (s : State) (nbits w : Nat) : State := placeWords s (tableWords (w % 2 ^ nbits))

end Sys2Proof.Machine
end

