-- ==== Sys2Proof/Safety.lean ====
section
/-!
DEFINITION. The terms in which statements speak: a step that goes on, the canonical form of memory, the shape of a state, the
operands of an issuing bundle, and what an instruction leaves alone.
-/

namespace Sys2Proof.Machine

/-! ## Runs and states -/

/-- The machine goes on from a state. -/
def Goes (s : State) : Prop := ∃ s', step s = .next s'

/-- Memory has its canonical form. -/
def MemOk (s : State) : Prop := Memory.wf s.mem = true

/-- The keys of a table rise. -/
def risingFrom {α : Type} : Nat → List (Nat × α) → Bool
  | _, [] => true
  | lo, (k, _) :: rest => decide (lo ≤ k) && risingFrom (k + 1) rest

/-- The threads stand in the order of their names, as the order of issue in a cycle asks (04 R53). -/
def ThreadsOk (s : State) : Prop := risingFrom 0 s.threads = true

/-! ## Operands -/

/-- What an instruction that reads some registers finds when all of them are at hand: the issuing bundle, its thread as the
instruction reads it (every PORT operand standing for the message it pops), and the message that is popped. None of its
registers awaits a relaxed load (05 R88); a PORT is read alone, with no relaxed access outstanding and a message there (10 R194). -/
def reading (s : State) (regs reads : List Reg) : Option (Issue × Thread × Option InboxEntry) :=
  match issuer s with
  | none => none
  | some (i, t) =>
    if (firstPending t regs).isSome then none
    else if (firstPort t reads).isNone then some (i, t, none)
    else if i.paired ∨ !quiet s i.tid then none
    else (portHead s i.tid).map (fun e => (i, substPort t reads e.payload, some e))

/-- The pop that a read of a PORT commits with its instruction (10 R194). -/
def finish (pop : Option InboxEntry) (tid : Nat) (s : State) : State :=
  match pop with
  | some e => popWhenDone s tid e
  | none => s

/-- Bits [63:0] of a register. -/
def low (t : Thread) (r : Reg) : BitVec 64 := (t.rd r).bits.setWidth 64

/-- DATA with 64 bits of value and bits [127:64] zero (05 R90). -/
def word (v : BitVec 64) : GReg := ⟨.data, v.setWidth 128⟩

/-- A register holds DATA. -/
def IsData (t : Thread) (r : Reg) : Prop := (t.rd r).kind = .data

/-- A register may be overwritten: it holds no handle (05 R86). -/
def Free (t : Thread) (r : Reg) : Prop := (t.rd r).kind ≠ .coc

/-- Registers whose whole value may be copied (05 R83). -/
def Copyable (t : Thread) (r : Reg) : Prop := (t.rd r).kind ∈ [Kind.data, .cap, .strm, .tens]

/-- A register takes a value and the bundle goes on to the next one. -/
def result (s : State) (tid : Nat) (d : Reg) (v : GReg) : State := advance (setReg s tid d v) tid

/-! ## Memory accesses -/

/-- No full/empty access is parked at a word of some places, so a change of their state serves none (06 R110). -/
def NoneParked (s : State) (ps : List Place) : Prop := ∀ p ∈ ps, feParked s (placeKey p / 4 * 4) = []

/-- After an access in the core's own store: its register has the result, an .INC cursor has moved, and the bundle has gone on. -/
def accessed (s : State) (tid : Nat) (t : Thread) (op : AccOp) (d : Reg) (inc : Option Nat) (v : GReg) (c : Counts) : State :=
  countAt (advance (applyInc (writeResult s tid t op d.val v) tid inc) tid) tid c

/-- Between s and u an access of a thread has left the core: it is recorded as in flight, it will be performed at its home by the
cycle of its reply (11 R209), nothing in memory has changed, and the thread is parked until the reply or, relaxed, has gone on. -/
structure Leaves (s u : State) (tid : Nat) (op : AccOp) (ps : List Place) (lat : Nat) (d : Reg) (relaxed : Bool) : Prop where
  inFlight : ∃ r, tget s.nextId u.reqs = some r ∧ r.tid = tid ∧ r.op = op ∧ r.at_ = ps ∧ r.dest = d.val ∧ r.relaxed = relaxed ∧
    r.performed = false ∧ r.dropped = false
  performed : ∃ c, s.cycle < c ∧ c ≤ s.cycle + lat ∧ ((c, Instr.accessPerformed s.nextId) ∈ u.agenda ∨ (c, Instr.windowWrite s.nextId) ∈ u.agenda)
  mem : u.mem = s.mem
  parked : relaxed = false → waitOf u tid = some (.reply s.nextId) ∧ (s.cycle + lat, Instr.farAccessReply s.nextId) ∈ u.agenda
  gone : relaxed = true → ∃ v w, getT s tid = some v ∧ getT u tid = some w ∧ w.pc = v.nextPc ∧ w.status = v.status

/-! ## Vector words -/

/-- A register holds a stream of a direction and a format (08 R146). -/
def StreamOf (t : Thread) (r : Reg) (write : Bool) (fmt : Nat) : Prop :=
  (t.rd r).kind = .strm ∧ strmWrite (t.rd r).bits = write ∧ strmFmt (t.rd r).bits = fmt

/-- The enabled ones of the next n elements of an operand are at hand with some values: a scalar's low w bits, or elements that
have arrived (08 R148, R150). -/
def AtHand (s : State) (tid : Nat) (t : Thread) (r : Reg) (w n : Nat) (on : Nat → Bool) (x : Nat → Nat) : Prop :=
  ∀ k < n, on k = true → operand s tid t r w k = .ok (x k)

/-- The enabled ones of the next n elements of a destination stream have a place. -/
def Placeable (s : State) (tid : Nat) (t : Thread) (r : Reg) (n : Nat) (on : Nat → Bool) : Prop :=
  ∀ k < n, on k = true → ∃ p, elemPlace s tid (t.rd r).bits (idxOf t r k) = .ok p

/-- The state after a vector half all of whose elements were processed with some outcomes: they are committed in element order,
the result register and the counters are written, every stream's cursor has moved past its elements, and the program counter has
not moved, since the pair retires as one bundle (02 R33, 08 R147). -/
def vectorDone (s : State) (tid : Nat) (t : Thread) (p : Plan) (os : List Outcome1) : State :=
  (planBanks s tid t p ++ p.tableBanks).foldl (fun u k => bankHit u (tid / 16) (k * 0x20000)) (commitPlan (readAhead s tid t p) tid t p os)

/-- The state after an element-wise instruction that gives the k-th enabled element f k; a disabled element of the destination
keeps its value (08 R147). -/
def elementwise (s : State) (tid : Nat) (t : Thread) (msk : MReg) (vd : Reg) (srcs : List Reg) (w wd : Nat) (dRead : Bool)
    (f : Nat → Nat × Counts × Option FVal) : State :=
  let rs := streamsOf t (vd :: srcs)
  vectorDone s tid t (mapPlan s tid t msk vd srcs w wd dRead (fun _ _ => (0, Counts.zero, none)))
    ((List.range (vecCount t rs)).map (fun k =>
      if laneOn t msk rs k then ⟨[(vd, idxOf t vd k, (f k).1 % 2 ^ wd)], none, (f k).2.1, (f k).2.2, 0⟩ else Outcome1.skip 0))

/-- A plan by what it commits: its streams, those read, its elements and the cursors' step, the indices it needs, its result
register, the banks of its table and the width of a table's element. -/
def committed (streams reads : List Reg) (n unit_ : Nat) (idx : Reg → List Nat) (result : Option (Reg × Nat × Counts)) (banks : List Nat)
    (w : Nat) : Plan :=
  { streams := streams, reads := reads, n := n, unit_ := unit_, idx := idx, step := fun _ _ => .ok (Outcome1.skip 0), carry0 := 0
    result := result.map (fun r => (r.1, fun _ _ => r.2)), tableBanks := banks, width := w }

/-! ## Commands of engines -/

/-- Between s and u a command of a thread has gone to the queue of an engine of its cluster, the thread is parked, and nothing in memory
has changed. With no command of a higher core or slot issued in the same cycle, which it would go before, it takes the engine chosen
for it, last in the queue, and an idle engine accepts it 4 cycles later (01 R15). -/
structure Submitted (s u : State) (tid : Nat) (c : Cmd) (w : Nat → Wait) : Prop where
  queued : ∃ x, tget s.nextId u.cmds = some x ∧ x.op = c.op ∧ x.tid = tid ∧ x.eng / 8 = c.eng / 8 ∧ x.a = c.a ∧ x.b = c.b ∧ x.d = c.d ∧ x.m = c.m ∧
    x.total = c.total ∧ x.bar = c.bar ∧ x.notBefore = c.notBefore ∧ x.phase = .queued ∧ x.issued = s.cycle ∧
    (issuedBehind s c = [] → x.eng = c.eng)
  last : issuedBehind s c = [] → c.eng % 8 < (clusterSt s (c.eng / 8)).engines.length →
    (engOf u c.eng).queue = (engOf s c.eng).queue ++ [s.nextId]
  idle : issuedBehind s c = [] → (engOf s c.eng).exec = none → (s.cycle + 4, Instr.engineAccept s.nextId) ∈ u.agenda
  parked : waitOf u tid = some (w s.nextId)
  mem : u.mem = s.mem

/-! ## Numbers -/

/-- A number's value, exact; a NaN or an infinity has none and counts as 0. -/
def FVal.rat : FVal → Rat
  | .fin n m e => (if n then -1 else 1) * (m : Rat) * (2 : Rat) ^ e
  | _ => 0

/-! ## Groups -/

/-- The state after the last member of a group has issued a collective (09 R169): every entry's thread has its result and goes on, the
counters are counted once, and the group is free for another. -/
def answered (s : State) (core : Nat) (c : Coll) (vs : List Nat) (n : Counts) : State :=
  let s1 := count (dropColl (putColl s core c) core c.g) core n
  wakeJoiners ((c.entries.zip vs).foldl (fun u p => finishMember u core p.1 p.2) s1) core c.g

/-! ## Barriers -/

/-- The state after a thread has arrived at a barrier of its core and parked in the phase (09 R181), before the phase is checked. -/
def arrivedAndParked (s : State) (tid : Nat) (v : Thread) (owner n : Nat) (b : Barrier) (cs : List (Nat × List Place)) (d : Reg) (w : Wait) :
    State :=
  setT (startClock (setBar s owner (tid / 16) n { b with arrived := b.arrived + 1, cstat := b.cstat ++ cs }) owner (tid / 16) n) tid
    { v with arrivals := tset n b.phase v.arrivals, arrived := true, barD := d.val, status := .parked w }

/-! ## Operations that park for a reply -/

/-- Between s and u a lineage operation of a thread has gone to Chrysalis with its operands (15 R256): it takes effect within its park,
the thread is parked, and nothing in memory has changed. -/
structure LineageSent (s u : State) (tid ctx : Nat) (op : Instr) (a b d : GReg) : Prop where
  sent : ∃ o, tget s.nextId u.lins = some o ∧ o.tid = tid ∧ o.ctx = ctx ∧ o.op = op ∧ o.a = a ∧ o.b = b ∧ o.d = d ∧ o.done = false
  due : ∃ c, s.cycle ≤ c ∧ c < s.cycle + 180 ∧ (c, Instr.lineageOperation s.nextId) ∈ u.agenda
  parked : waitOf u tid = some (.lineage s.nextId)
  mem : u.mem = s.mem

/-- Between s and u an operation of a thread has gone to its cluster's handle-lineage table (17 R280), and the thread is parked. -/
structure TableAsked (s u : State) (tid : Nat) (op : Instr) (due : Option Nat) : Prop where
  asked : ∃ o, tget s.nextId u.cocs = some o ∧ o.tid = tid ∧ o.op = op ∧ o.due = due
  serve : (due.getD s.cycle, Instr.cocoonTableServe (tid / 256)) ∈ u.agenda
  parked : waitOf u tid = some (.cocoon s.nextId)
  mem : u.mem = s.mem

/-- Between s and u a gate operation of a thread has left for the scheduler (20 R304): it takes its place in gate order half-way, the
thread is parked, and nothing in memory has changed. -/
structure GateSent (s u : State) (tid : Nat) (t : Thread) (op : Instr) (g v : Nat) (rs : List (BitVec 256)) (w : Wait) : Prop where
  sent : ∃ o, tget s.nextId u.gates = some o ∧ o.tid = tid ∧ o.ctx = t.ctx ∧ o.owner = t.owner ∧ o.op = op ∧ o.g = g ∧ o.v = v ∧
    o.records = rs ∧ o.applied = false ∧ o.sent = true
  due : (s.cycle + gateTime (tid / 256) / 2, Instr.gateApply s.nextId) ∈ u.agenda
  parked : waitOf u tid = some w
  mem : u.mem = s.mem

/-! ## Frames -/

/-- Between two states every byte of memory, every tag, every full/empty state, every other thread and every register of one
thread outside some are the same, and so are its masks and its private control registers (04 R62) but AMAX. -/
structure RegisterFrame (s t : State) (tid : Nat) (rs : List Reg) : Prop where
  mem : ∀ a, memGet a t.mem = memGet a s.mem
  tags : t.tags = s.tags
  full : t.empties = s.empties
  others : ∀ k, k ≠ tid → getT t k = getT s k
  regs : ∀ u v, getT s tid = some u → getT t tid = some v → ∀ r, r ∉ rs → v.rd r = u.rd r
  masks : ∀ u v, getT s tid = some u → getT t tid = some v → v.m = u.m
  control : ∀ u v, getT s tid = some u → getT t tid = some v → v.rmode = u.rmode ∧ v.feLimit = u.feLimit ∧ v.groups = u.groups ∧
    v.fltCause = u.fltCause ∧ v.fltAddr = u.fltAddr ∧ v.fltPc = u.fltPc ∧ v.preempt = u.preempt ∧ v.ctx = u.ctx ∧ v.owner = u.owner

/-- A thread's AMAX is the same. -/
def SameAmax (s t : State) (tid : Nat) : Prop := ∀ u v, getT s tid = some u → getT t tid = some v → v.amax = u.amax

end Sys2Proof.Machine
end

