-- ==== Sys2Proof/Certificates/Slice0/Obligations.lean ====
section
/-!
DEFINITION. The statements for the provers, one definition each. A statement about an instruction says of every state and operands
that meet its hypotheses what exec answers; reading (in Safety) names the issuing thread as the instruction reads it, with the
message popped where an operand is a PORT, and finish commits that pop.
-/

section

open Sys2Proof Sys2Proof.Machine

/-! ## Integer instructions -/

/-- 05 R90-R92: the two-operand integer instructions write the result of their row to G[d] as DATA with bits [127:64] zero, and the bundle goes on. A
shift or rotate counts modulo 64. A PORT operand stands for the message it pops; G0 takes no value. 05 R92: DIV and REM truncate toward zero, DIVN
and REMN are unsigned. A zero divisor gives all ones or the dividend, counts EVC_DIV0 once and does not fault; the most negative number divided by
-1 gives itself and remainder zero. -/
def Obligations.IntegerResults : Prop :=
  (∀ row ∈ ([
     (.add, fun a b => a + b), (.sub, fun a b => a - b), (.and, fun a b => a &&& b), (.or, fun a b => a ||| b),
     (.xor, fun a b => a ^^^ b), (.andn, fun a b => a &&& ~~~b),
     (.shl, fun a b => a <<< (b.toNat % 64)), (.shr, fun a b => a >>> (b.toNat % 64)),
     (.sra, fun a b => a.sshiftRight (b.toNat % 64)), (.rol, fun a b => a.rotateLeft (b.toNat % 64)),
     (.min, fun a b => if a.sle b then a else b), (.max, fun a b => if b.sle a then a else b),
     (.minn, fun a b => if a.ule b then a else b), (.maxn, fun a b => if b.ule a then a else b),
     (.slt, fun a b => if a.slt b then 1 else 0), (.sltn, fun a b => if a.ult b then 1 else 0),
     (.mul, fun a b => a * b), (.mulh, fun a b => BitVec.ofInt 64 (a.toInt * b.toInt / 2 ^ 64)),
     (.mulhn, fun a b => BitVec.ofNat 64 (a.toNat * b.toNat / 2 ^ 64))]
       : List ((Reg → Reg → Reg → Instr) × (BitVec 64 → BitVec 64 → BitVec 64))),
     ∀ (d a b : Reg) (s : State) (i : Issue) (t : Thread) (pop : Option InboxEntry), reading s [d, a, b] [a, b] = some (i, t, pop) →
       IsData t a → IsData t b → Free t d →
       exec (row.1 d a b) s = .next (finish pop i.tid (result s i.tid d (word (row.2 (low t a) (low t b)))))) ∧
  (∀ row ∈ ([
     (.div, fun a b => if b = 0 then BitVec.allOnes 64 else BitVec.ofInt 64 (Int.tdiv a.toInt b.toInt)),
     (.divn, fun a b => if b = 0 then BitVec.allOnes 64 else a / b),
     (.rem, fun a b => if b = 0 then a else BitVec.ofInt 64 (Int.tmod a.toInt b.toInt)),
     (.remn, fun a b => if b = 0 then a else a % b)] : List ((Reg → Reg → Reg → Instr) × (BitVec 64 → BitVec 64 → BitVec 64))),
     ∀ (d a b : Reg) (s : State) (i : Issue) (t : Thread) (pop : Option InboxEntry), reading s [d, a, b] [a, b] = some (i, t, pop) →
       IsData t a → IsData t b → Free t d →
       let r := result s i.tid d (word (row.2 (low t a) (low t b)))
       exec (row.1 d a b) s = .next (finish pop i.tid
         (if low t b = 0 then addEvc r (i.tid / 16) [0, 0, 0, 0, 1, 0, 0, 0] else r)))

/-- 05 R92, R94: the one-operand counts and the immediate forms. ADDI and SLTI extend their immediate by its sign; ANDI, ORI and XORI extend it with
zeros. 05 R95: LI writes its constant, IMM19 extended by its sign or a whole 64-bit literal. 05 R83, R93, R96: SEL and MOV copy a whole value with
its kind, and a copied TENS adds a pin on its node; MOVE takes the value out of its source, which becomes MOVED; a register moved to itself is
unchanged, a PORT too, and nothing is popped; KIND reads the kind code of any register and pops nothing. -/
def Obligations.ImmediateAndMoveResults : Prop :=
  (∀ (d a : Reg) (imm : BitVec 14) (sh : BitVec 6) (s : State) (i : Issue) (t : Thread) (pop : Option InboxEntry),
     reading s [d, a] [a] = some (i, t, pop) → IsData t a → Free t d →
     let x := low t a
     let gives := fun (j : Instr) (v : BitVec 64) => exec j s = .next (finish pop i.tid (result s i.tid d (word v)))
     gives (.addi d a imm) (x + imm.signExtend 64) ∧ gives (.andi d a imm) (x &&& imm.setWidth 64) ∧
     gives (.ori d a imm) (x ||| imm.setWidth 64) ∧ gives (.xori d a imm) (x ^^^ imm.setWidth 64) ∧
     gives (.slti d a imm) (if x.slt (imm.signExtend 64) then 1 else 0) ∧
     gives (.shli d a sh) (x <<< sh.toNat) ∧ gives (.shri d a sh) (x >>> sh.toNat) ∧
     gives (.srai d a sh) (x.sshiftRight sh.toNat) ∧
     gives (.clz d a) (BitVec.ofNat 64 ((List.range 64).takeWhile (fun k => !x.getMsbD k)).length) ∧
     gives (.ctz d a) (BitVec.ofNat 64 ((List.range 64).takeWhile (fun k => !x.getLsbD k)).length) ∧
     gives (.popc d a) (BitVec.ofNat 64 ((List.range 64).countP (fun k => x.getLsbD k)))) ∧
  (∀ (d : Reg) (imm : BitVec 19) (lit : BitVec 64) (s : State) (i : Issue) (t : Thread),
     reading s [d] [] = some (i, t, none) → Free t d →
     exec (.li d imm) s = .next (result s i.tid d (word (imm.signExtend 64))) ∧
     exec (.liX d lit) s = .next (result s i.tid d (word lit))) ∧
  ((∀ (d a b c : Reg) (s : State) (i : Issue) (t : Thread) (pop : Option InboxEntry), reading s [d, a, b, c] [a, b, c] = some (i, t, pop) →
     Copyable t a → Copyable t b → IsData t c → Free t d →
     let v := if low t c = 0 then t.rd b else t.rd a
     exec (.sel d a b c) s = .next (finish pop i.tid (result (pinCopy s t d v) i.tid d v))) ∧
   (∀ (d a : Reg) (s : State) (i : Issue) (t : Thread) (pop : Option InboxEntry), reading s [d, a] [a] = some (i, t, pop) → d ≠ a →
     Copyable t a → Free t d →
     exec (.mov d a) s = .next (finish pop i.tid (result (pinCopy s t d (t.rd a)) i.tid d (t.rd a)))) ∧
   (∀ (d : Reg) (s : State) (i : Issue) (t : Thread), reading s [d, d] [] = some (i, t, none) →
     Copyable t d ∨ ((t.rd d).kind = .port ∧ i.paired = false) → exec (.mov d d) s = .next (advance s i.tid)) ∧
   (∀ (d a : Reg) (s : State) (i : Issue) (t : Thread) (pop : Option InboxEntry), reading s [d, a] [a] = some (i, t, pop) → d ≠ a →
     (t.rd a).kind ∈ [Kind.data, .cap, .strm, .tens, .coc] → Free t d → ¬ (d = 0 ∧ (t.rd a).kind = .coc) →
     let put := setReg (pinCopy s t d (t.rd a)) i.tid d (t.rd a)
     let rings := if d = 0 then [] else ((getT s i.tid).map Thread.rings).getD []
     exec (.move d a) s = .next (finish pop i.tid
       (if pop.isSome ∨ a = 0 then advance put i.tid
        else advance (moveRing (setMoved put i.tid a) i.tid rings d a) i.tid))) ∧
   (∀ (d : Reg) (s : State) (i : Issue) (t : Thread), reading s [d, d] [] = some (i, t, none) →
     ((t.rd d).kind ∈ [Kind.data, .cap, .strm, .tens, .coc] ∧ ¬ (d = 0 ∧ (t.rd d).kind = .coc)) ∨ ((t.rd d).kind = .port ∧ i.paired = false) →
     exec (.move d d) s = .next (advance s i.tid)) ∧
   (∀ (d a : Reg) (s : State) (i : Issue) (t : Thread), reading s [d, a] [] = some (i, t, none) → Free t d →
     exec (.kind d a) s = .next (result s i.tid d (word (BitVec.ofNat 64 (t.rd a).kind.code)))))

/-! ## Kinds, moves and capabilities -/

/-- 05 R97, R98: CGET reads a field; CSETB cuts the bounds at the cursor when Derive is set and the cut fits, CSETP clears permissions and keeps
Onchip, CSETC sets the cursor and the step, CINC moves the cursor modulo 2^32. -/
def Obligations.CapabilityResults : Prop :=
  (∀ (f : CapField) (d a : Reg) (s : State) (i : Issue) (t : Thread) (pop : Option InboxEntry), reading s [d, a] [a] = some (i, t, pop) →
    (t.rd a).kind = .cap → Free t d →
    let c := (t.rd a).bits
    exec (.cget f d a) s = .next (finish pop i.tid (result s i.tid d (word (match f with
      | .base => (c.extractLsb' 0 48).setWidth 64
      | .len => (c.extractLsb' 48 32).setWidth 64
      | .cur => (c.extractLsb' 80 32).setWidth 64
      | .perm => (c.extractLsb' 112 8).setWidth 64
      | .step => (c.extractLsb' 120 8).signExtend 64))))) ∧
  (∀ (d a b : Reg) (s : State) (i : Issue) (t : Thread) (pop : Option InboxEntry), reading s [d, a, b] [a, b] = some (i, t, pop) →
    (t.rd a).kind = .cap → IsData t b → Free t d →
    let c := (t.rd a).bits
    let v := (low t b).toNat
    let gives := fun (j : Instr) (r : QWord) => exec j s = .next (finish pop i.tid (result s i.tid d ⟨.cap, r⟩))
    (capDerive c = true → capCur c ≤ capLen c → v ≤ capLen c - capCur c →
      gives (.csetb d a b) (mkCap (capBase c + capCur c) v 0 (bits c.toNat 112 8) (capStep c))) ∧
    gives (.csetp d a b) (c &&& ((BitVec.ofNat 128 (v % 256 ||| 64)) <<< 112 ||| ~~~ (BitVec.ofNat 128 255 <<< 112))) ∧
    gives (.csetc d a b) (mkCap (capBase c) (capLen c) (v % 2 ^ 32) (bits c.toNat 112 8) (v / 2 ^ 32 % 2 ^ 8)) ∧
    gives (.cinc d a b) (mkCap (capBase c) (capLen c) ((capCur c + v) % 2 ^ 32) (bits c.toNat 112 8) (capStep c)))

/-- 05 R82: no derivation grants more than its operand. CSETB, CSETP, CSETC and CINC stop the bundle, or leave in G[d] a capability whose range lies
within the operand's, whose permissions are among the operand's and whose Onchip bit is the operand's. -/
def Obligations.DerivationNeverWidens : Prop :=
  ∀ (d a b : Reg) (s s' : State) (i : Issue) (t : Thread) (pop : Option InboxEntry), reading s [d, a, b] [a, b] = some (i, t, pop) →
    ∀ j ∈ [Instr.csetb d a b, .csetp d a b, .csetc d a b, .cinc d a b], exec j s = .next s' →
      (∃ st, s' = stopAt s i.tid st) ∨
      ∃ e : QWord, s' = finish pop i.tid (result s i.tid d ⟨.cap, e⟩) ∧ (t.rd a).kind = .cap ∧
        (let c := (t.rd a).bits
         (if j = .csetb d a b then capBase e = (capBase c + capCur c) % 2 ^ 48 ∧ capCur c + capLen e ≤ capLen c ∧ capDerive c = true
          else capBase e = capBase c ∧ capLen e = capLen c) ∧
         capOnchip e = capOnchip c ∧ ∀ k < 8, capPerm e k = true → capPerm c k = true)

/-! ## Slot control -/

/-- 04 R63, R64, R67 and 02 R30, R31: a branch goes to its target when its condition holds and to the next bundle otherwise; J, JAL and JALR jump, the
last two with the next-bundle address as the link. 04 R67: JALR to an address that is not a multiple of 4 or not below 2^57 faults ALIGN with that
address, and nothing is written. -/
def Obligations.BranchResults : Prop :=
  ((∀ (c : Cmp) (a b : Reg) (off : BitVec 9) (offX : Word) (s : State) (i : Issue) (t : Thread) (pop : Option InboxEntry),
     reading s [a, b] [a, b] = some (i, t, pop) → IsData t a → IsData t b →
     let taken := match c with
       | .eq => low t a == low t b | .ne => low t a != low t b
       | .lt => (low t a).slt (low t b) | .ge => (low t b).sle (low t a)
       | .ltn => (low t a).ult (low t b) | .gen => (low t b).ule (low t a)
     exec (.bCc (.cmp c) a b off) s = .next (finish pop i.tid
       (setPc s i.tid (if taken then t.pc + off.signExtend 57 * 4 else t.nextPc))) ∧
     exec (.bCcX (.cmp c) a b offX) s = .next (finish pop i.tid
       (setPc s i.tid (if taken then t.pc + offX.signExtend 57 * 4 else t.nextPc)))) ∧
   (∀ (a b : Reg) (off : BitVec 9) (offX : Word) (s : State) (i : Issue) (t : Thread) (pop : Option InboxEntry), reading s [a] [a] = some (i, t, pop) →
     (t.rd a).kind = .strm →
     let left := strmCount (t.rd a).bits - strmCur (t.rd a).bits
     let goes := fun (j : Instr) (taken : Bool) (o : BitVec 57) => exec j s = .next (finish pop i.tid
       (setPc s i.tid (if taken then t.pc + o * 4 else t.nextPc)))
     goes (.bCc .smore a b off) (vecElems (codeWidth (strmFmt (t.rd a).bits)) < left) (off.signExtend 57) ∧
     goes (.bCcX .smore a b offX) (vecElems (codeWidth (strmFmt (t.rd a).bits)) < left) (offX.signExtend 57) ∧
     goes (.bCc .sdone a b off) (left == 0) (off.signExtend 57) ∧
     goes (.bCcX .sdone a b offX) (left == 0) (offX.signExtend 57)) ∧
   (∀ (c : Cmp) (a : Reg) (imm : BitVec 5) (immX : Word) (off : BitVec 9) (offX : Word) (s : State) (i : Issue) (t : Thread) (pop : Option InboxEntry),
     reading s [a] [a] = some (i, t, pop) → IsData t a →
     let taken := fun (y : BitVec 64) => match c with
       | .eq => low t a == y | .ne => low t a != y
       | .lt => (low t a).slt y | .ge => y.sle (low t a) | .ltn => (low t a).ult y | .gen => y.ule (low t a)
     exec (.biCc c a imm off) s = .next (finish pop i.tid
       (setPc s i.tid (if taken (imm.signExtend 64) then t.pc + off.signExtend 57 * 4 else t.nextPc))) ∧
     exec (.biCcX c a immX offX) s = .next (finish pop i.tid
       (setPc s i.tid (if taken (immX.signExtend 64) then t.pc + offX.signExtend 57 * 4 else t.nextPc)))) ∧
   (∀ (off : BitVec 24) (s : State) (i : Issue) (t : Thread), reading s [] [] = some (i, t, none) →
     exec (.j off) s = .next (setPc s i.tid (t.pc + off.signExtend 57 * 4))) ∧
   (∀ (d : Reg) (off : BitVec 19) (s : State) (i : Issue) (t : Thread), reading s [d] [] = some (i, t, none) → Free t d →
     exec (.jal d off) s = .next (setPc (setReg s i.tid d (word (t.nextPc.setWidth 64))) i.tid (t.pc + off.signExtend 57 * 4))) ∧
   (∀ (d a : Reg) (s : State) (i : Issue) (t : Thread) (pop : Option InboxEntry), reading s [d, a] [a] = some (i, t, pop) → IsData t a → Free t d →
     (low t a).toNat % 4 = 0 → (low t a).toNat < 2 ^ 57 →
     exec (.jalr d a) s = .next (finish pop i.tid
       (setPc (setReg s i.tid d (word (t.nextPc.setWidth 64))) i.tid ((low t a).setWidth 57))))) ∧
  (∀ (d a : Reg) (s : State) (i : Issue) (t : Thread) (pop : Option InboxEntry), reading s [d, a] [a] = some (i, t, pop) → IsData t a →
     (low t a).toNat % 4 ≠ 0 ∨ 2 ^ 57 ≤ (low t a).toNat →
     exec (.jalr d a) s = .next (takeFault s i.tid .align (low t a).toNat))

/-- 04 R66, R70, R72: NOP only goes on. WAITT goes on at once when its time has come and otherwise sleeps until the counter reaches it; SLEEP of at
most 16 cycles goes on, a longer one wakes in the cycle before the slot's first turn at or after t + N, where t is the turn in which it issued.
CRR reads a control register by its number, TIME and the event counters as the bundle's turn has them; CRW writes one that is not read-only:
RMODE, AMAX, FE_LIMIT (0 is held as 1), or an event counter, the increments of the cycle added after. 04 R72: CRW to a read-only control register
faults PRIV and writes nothing. -/
def Obligations.WaitsAndControlRegisters : Prop :=
  ((∀ (s : State) (i : Issue) (t : Thread), reading s [] [] = some (i, t, none) → exec .nop s = .next (advance s i.tid)) ∧
   (∀ (a : Reg) (s : State) (i : Issue) (t : Thread) (pop : Option InboxEntry), reading s [a] [a] = some (i, t, pop) → IsData t a →
     let v := (low t a).toNat
     exec (.waitt a) s = .next (finish pop i.tid
       (if v ≤ s.time then advance s i.tid else schedAt (parkAs s i.tid (.until_ v)) v (.waittWake i.tid))) ∧
     exec (.sleep a) s = .next (finish pop i.tid
       (if v ≤ 16 ∨ turnFrom (t.issueAt + v) (i.tid % 16) - 1 ≤ s.cycle then advance s i.tid
        else sched (parkAs s i.tid (.asleep (turnFrom (t.issueAt + v) (i.tid % 16) - 1))) (turnFrom (t.issueAt + v) (i.tid % 16) - 1)
          (.sleepWake i.tid)))) ∧
   (∀ (tid w : Nat) (s : State),
     (waitOf s tid = some (.until_ w) → exec (.waittWake tid) s = .next (if w ≤ s.time then retirePast s tid else s)) ∧
     (waitOf s tid = some (.asleep w) → exec (.sleepWake tid) s = .next (if w ≤ s.cycle then retirePast s tid else s))) ∧
   (∀ (n : BitVec 9) (d : Reg) (s : State) (i : Issue) (t : Thread), reading s [d] [] = some (i, t, none) → Free t d →
     let core := i.tid / 16
     let turn := match i.latch with
       | some l => (l.time, l.evc)
       | none => (s.time, (coreSt s core).evc)
     let named : List (Nat × Nat) := [(0x000, i.tid % 16), (0x001, core), (0x002, core / 16), (0x003, t.ctx), (0x004, (taskidOf s t.owner).toNat),
       (0x005, turn.1), (0x006, t.groups.toNat), (0x007, if t.preempt then 1 else 0), (0x010, t.rmode.toNat), (0x011, t.amax.toNat),
       (0x012, t.feLimit.toNat), (0x018, t.fltCause.toNat), (0x019, t.fltAddr.toNat), (0x01A, t.fltPc.toNat)]
     let counters := (List.range 8).map (fun k => (0x020 + k, (nth (0 : Word) k turn.2).toNat))
     ∀ e ∈ named ++ counters, n.toNat = e.1 → exec (.crr n d) s = .next (result s i.tid d (word (BitVec.ofNat 64 e.2)))) ∧
   (∀ (n : BitVec 9) (a : Reg) (s : State) (i : Issue) (t v : Thread) (pop : Option InboxEntry), reading s [a] [a] = some (i, t, pop) →
     getT s i.tid = some v → IsData t a →
     let x := (low t a).setWidth 32
     let sets := fun (w : Thread) => exec (.crw n a) s = .next (finish pop i.tid (advance (setT s i.tid w) i.tid))
     (n.toNat = 0x010 → sets { v with rmode := x.setWidth 2 }) ∧
     (n.toNat = 0x011 → sets { v with amax := x }) ∧
     (n.toNat = 0x012 → sets { v with feLimit := if x = 0 then 1 else x }) ∧
     (∀ k < 8, n.toNat = 0x020 + k → (coreSt s (i.tid / 16)).evc.length = 8 → ∃ u, exec (.crw n a) s = .next (finish pop i.tid (advance u i.tid)) ∧
       u.threads = s.threads ∧ u.mem = s.mem ∧
       let c := coreSt s (i.tid / 16)
       ∀ j < 8, nth 0 j (coreSt u (i.tid / 16)).evc =
         if j = k then satWord (x.toNat + (if c.evcAt = s.cycle then nth 0 k c.evcAdded else 0)) else nth 0 j c.evc))) ∧
  (∀ (n : BitVec 9) (a : Reg) (s : State) (i : Issue) (t : Thread) (pop : Option InboxEntry), reading s [a] [a] = some (i, t, pop) → IsData t a →
     n.toNat ∈ [0x000, 0x001, 0x002, 0x003, 0x004, 0x005, 0x006, 0x007, 0x018, 0x019, 0x01A] →
     exec (.crw n a) s = .next (takeFault s i.tid .priv n.toNat))

/-- 04 R60, R68, R69, R71, R73: SPAWN starts a thread in the lowest free slot and answers it, or -1 when the quota, the slots or the granules are used
up; the new thread has the spawner's owner, context and register count, its G1, G3 and G4 as at launch, the argument in G2 and every other
register zero, and becomes ready 2 cycles a granule and 4 more after the clear engine takes it; EXIT of a thread that has no access outstanding
and holds no handle ends it; PPT costs its turn when no pre-emption is pending and saves the thread behind it otherwise; TRAP puts its entry, with
G2, in the status queue, and goes on or, from code 256, ends the task. -/
def Obligations.ThreadsStartEndAndTrap : Prop :=
  (∀ (d a b : Reg) (s : State) (i : Issue) (t : Thread) (pop : Option InboxEntry), reading s [d, a, b] [a, b] = some (i, t, pop) → IsData t a →
    Copyable t b → Free t d → (low t a).toNat % 4 = 0 → (low t a).toNat < 2 ^ 57 →
    let core := i.tid / 16
    let g := t.nregs / 8
    let room := liveOn s t.owner core < ((getP s t.owner core).map Placement.quota).getD 0 ∧ g ≤ 48 - ((threadsOn s core).map (fun p => p.2.nregs / 8)).sum
    let free := fun k => getT s (core * 16 + k) = none
    (¬ room ∨ (∀ k < 16, ¬ free k) → exec (.spawn d a b) s = .next (finish pop i.tid (result s i.tid d (word (BitVec.allOnes 64))))) ∧
    (∀ slot < 16, room → free slot → (∀ k < slot, ¬ free k) → ∃ u w, exec (.spawn d a b) s = .next (finish pop i.tid (result u i.tid d (dataOf slot))) ∧
      getT u (core * 16 + slot) = some w ∧ w.pc = (low t a).setWidth 57 ∧ w.ctx = t.ctx ∧ w.owner = t.owner ∧ w.nregs = t.nregs ∧
      w.g = [GReg.zero, t.seed1, t.rd b, t.seed3, t.seed4] ++ List.replicate (t.nregs - 5) GReg.zero ∧
      w.m = List.replicate 8 0 ∧ w.groups = 0 ∧ w.rmode = 0 ∧ w.amax = 0 ∧ w.feLimit = 1024 ∧ w.fltCause = 0 ∧ w.fltAddr = 0 ∧ w.fltPc = 0 ∧
      w.status = .launching ∧ w.nextIssue = max s.cycle (coreSt s core).clearBusy + 2 * g + 4 ∧
      (w.nextIssue, Instr.threadReady (core * 16 + slot)) ∈ u.agenda ∧ u.mem = s.mem)) ∧
  (∀ (s : State) (i : Issue) (t : Thread), reading s [] [] = some (i, t, none) → quiet s i.tid = true →
    (∀ k < t.nregs, (nth GReg.zero k t.g).kind ≠ .coc) →
    (∀ e ∈ (coreSt s (i.tid / 16)).inbox, e.dslot = i.tid % 16 → e.payload.kind ≠ .coc) →
    exec .exit s = .next (endThread (countParked s i.tid t) i.tid)) ∧
  (∀ (mask : Word) (s : State) (i : Issue) (t : Thread), reading s [] [] = some (i, t, none) →
    (t.preempt = false → exec (.ppt mask) s = .next (advance s i.tid)) ∧
    (t.preempt = true → (∀ k, 0 < k → k < t.nregs → mask.getLsbD k = false → (nth GReg.zero k t.g).kind ∈ [Kind.data, .cap, .strm, .moved]) →
      exec (.ppt mask) s = .next (saveThread (advance s i.tid) i.tid (mask.toNat / 2 * 2)))) ∧
  (∀ (code : BitVec 9) (s : State) (i : Issue) (t : Thread) (pop : Option InboxEntry), reading s [2] [2] = some (i, t, pop) →
    (t.rd 2).kind ≠ .moved → statusRoom s t.ctx = true →
    let s1 := addStatus s t.ctx (trapEntry s i.tid t code.toNat) (some i.tid)
    exec (.trap code) s = .next (finish pop i.tid (if code.toNat < 256 then advance s1 i.tid else endOwner s1 t.owner)))

/-! ## Float, conversion and masks -/

/-- 07 R131-R138: the scalar float instructions take the low 32 bits of their operands as F32 and write their result with the bits above it zero; CVT
takes and gives its formats and adds its source to AMAX; IMG and IMGI count nothing. The exceptional events are counted as the bundle retires. The
rounding is the instruction's own or, where it names none, RMODE. 07 R123: m / 2^sh rounded to an integer. RNE gives a nearest one, the even one
of two; RZ the one toward zero; RD and RU the one below and above, which for a magnitude depends on its sign. An exact quotient is kept. 07 R130:
IMGI undoes IMG on every pattern of an integer format, and IMG carries the numeric order of the patterns of an I format to the unsigned order. -/
def Obligations.FloatResults : Prop :=
  ((∀ (rm : Rm) (p : FPred) (d a b : Reg) (s : State) (i : Issue) (t : Thread) (pop : Option InboxEntry),
     reading s [d, a, b] [a, b] = some (i, t, pop) → IsData t a → IsData t b → Free t d →
     let md := rmMode rm t.rmode
     let x := ((t.rd a).bits.extractLsb' 0 32).toNat
     let y := ((t.rd b).bits.extractLsb' 0 32).toNat
     let gives := fun (j : Instr) (r : Nat × Counts) =>
       exec j s = .next (finish pop i.tid (countAt (result s i.tid d (dataOf r.1)) i.tid r.2))
     gives (.fadd rm d a b) (addF f32L md (decodeF f32L x) (decodeF f32L y)) ∧
     gives (.fsub rm d a b) (addF f32L md (decodeF f32L x) (decodeF f32L y).neg) ∧
     gives (.fmul rm d a b) (mulF f32L md (decodeF f32L x) (decodeF f32L y)) ∧
     gives (.fdiv rm d a b) (divF f32L md (decodeF f32L x) (decodeF f32L y)) ∧
     gives (.fmin d a b) (minMaxF f32L false x y) ∧ gives (.fmax d a b) (minMaxF f32L true x y) ∧
     gives (.fcmp p d a b) (if (predF f32L p x y).1 then 1 else 0, (predF f32L p x y).2)) ∧
   (∀ (rm : Rm) (d a b c : Reg) (s : State) (i : Issue) (t : Thread) (pop : Option InboxEntry),
     reading s [d, a, b, c] [a, b, c] = some (i, t, pop) → IsData t a → IsData t b → IsData t c → Free t d →
     let v := fun r => decodeF f32L ((t.rd r).bits.extractLsb' 0 32).toNat
     let r := fmaF f32L (rmMode rm t.rmode) (v a) (v b) (v c)
     exec (.ffma rm d a b c) s = .next (finish pop i.tid (countAt (result s i.tid d (dataOf r.1)) i.tid r.2))) ∧
   (∀ (rm : Rm) (src dst f : Fmt) (d a : Reg) (s : State) (i : Issue) (t : Thread) (pop : Option InboxEntry),
     reading s [d, a] [a] = some (i, t, pop) → IsData t a → Free t d →
     let n := (t.rd a).bits.toNat
     let x := n % 2 ^ 32
     let q := sqrtF f32L (rmMode rm t.rmode) (decodeF f32L x)
     let r := convert dst (rmMode rm t.rmode) (valueOf src n)
     exec (.fsqrt rm d a) s = .next (finish pop i.tid (countAt (result s i.tid d (dataOf q.1)) i.tid q.2)) ∧
     exec (.fclass d a) s = .next (finish pop i.tid (result s i.tid d (dataOf (2 ^ classBit x)))) ∧
     exec (.cvt rm src dst d a) s = .next (finish pop i.tid
       (amaxAll (countAt (result s i.tid d (resultData dst r.1)) i.tid r.2) i.tid [valueOf src n])) ∧
     exec (.img f d a) s = .next (finish pop i.tid (result s i.tid d (dataOf (image f n)))) ∧
     exec (.imgi f d a) s = .next (finish pop i.tid (result s i.tid d (dataOf (imageInv f n)))))) ∧
  (∀ (neg : Bool) (m sh : Nat),
     let u := 2 ^ sh
     let near := roundShift .rne neg m sh
     (2 * (near * u) ≤ 2 * m + u ∧ 2 * m ≤ 2 * (near * u) + u) ∧
     (2 * (m % u) = u → near % 2 = 0) ∧
     roundShift .rz neg m sh = m / u ∧
     roundShift .rd neg m sh = (if neg then (m + u - 1) / u else m / u) ∧
     roundShift .ru neg m sh = (if neg then m / u else (m + u - 1) / u) ∧
     ∀ md, m % u = 0 → roundShift md neg m sh * u = m) ∧
  ((∀ f ∈ [Fmt.i8, .i16, .i32, .i64, .n8, .n16, .n32, .n64], ∀ x < 2 ^ widthOf f, imageInv f (image f x) = x) ∧
   (∀ f ∈ [Fmt.i8, .i16, .i32, .i64], ∀ x < 2 ^ widthOf f, ∀ y < 2 ^ widthOf f,
     (sextZ (widthOf f) x < sextZ (widthOf f) y ↔ image f x < image f y)))

/-- 08 R165, R166: the mask registers. MPOP counts the bits of a mask, MFF gives its first set bit or 16. -/
def Obligations.MaskResults : Prop :=
  (∀ (d : Reg) (a : MReg) (s : State) (i : Issue) (t : Thread), reading s [d] [] = some (i, t, none) → Free t d →
    let m := t.mask a
    exec (.movmMg d a) s = .next (result s i.tid d (dataOf m.toNat)) ∧
    exec (.mpop d a) s = .next (result s i.tid d (dataOf ((List.range 16).countP (fun k => m.getLsbD k)))) ∧
    exec (.mff d a) s = .next (result s i.tid d (dataOf ((List.range 16).takeWhile (fun k => !m.getLsbD k)).length))) ∧
  (∀ (d : MReg) (a : Reg) (s : State) (i : Issue) (t : Thread) (pop : Option InboxEntry), reading s [a] [a] = some (i, t, pop) → IsData t a →
    exec (.movmGm d a) s = .next (finish pop i.tid (advance (setMask s i.tid d ((low t a).setWidth 16)) i.tid))) ∧
  (∀ (d a b : MReg) (s : State) (i : Issue) (t : Thread), reading s [] [] = some (i, t, none) →
    exec (.mand d a b) s = .next (advance (setMask s i.tid d (t.mask a &&& t.mask b)) i.tid) ∧
    exec (.mor d a b) s = .next (advance (setMask s i.tid d (t.mask a ||| t.mask b)) i.tid) ∧
    exec (.mxor d a b) s = .next (advance (setMask s i.tid d (t.mask a ^^^ t.mask b)) i.tid) ∧
    exec (.mnot d a) s = .next (advance (setMask s i.tid d (~~~ t.mask a)) i.tid))

/-! ## Memory -/

/-- 05 R80, 06 R105: the checks of an address through a capability, in order: Read or Execute for a load and Write for a store, else PERM; the whole
access within [0, LEN) of the base, else BOUNDS; alignment to its size, else ALIGN. The address is BASE + CUR plus the offset in units of the
size. 06 R104-R106, 17 R272: a load through a capability or a handle whose checks pass, of no stream in another core's store. In the core's own
store the bundle goes on with the value at the address, of the stored kind where a whole tagged granule is read; elsewhere the access leaves the
core. .INC moves the capability's cursor. 02 R33, R35: a pair that has parked goes on with the value it loaded in its turn, its checks complete.
05 R84, 06 R104-R106, R108: a store whose checks pass. In the core's own store it is performed as the bundle goes on: with nothing parked at its
words, its bytes are in memory and no other byte has changed; a DATA value leaves its words FULL and its granules untagged; a tagged value tags
its granule, and the granule loads as that value; no other tag and no other word's state has changed. Elsewhere the access leaves the core. 02
R33, R35: the store of a pair that has parked is performed as the pair goes on, with what the bundle read in its turn. -/
def Obligations.LoadsAndStores : Prop :=
  (∀ (s : State) (tid : Nat) (t : Thread) (op : MemOp) (a : Reg) (write : Bool), (t.rd a).kind = .cap →
     let n := szBytes op.sz
     let c := (t.rd a).bits
     let o : Int := capCur c + op.off.toInt * n
     let addr := ((capBase c + o) % 2 ^ 64).toNat
     memAddress s tid t op a n write =
       if (if write then capWrite c else capRead c || capExec c) = false then .error (.fault .perm addr)
       else if o < 0 ∨ capLen c < o + n then .error (.fault .bounds addr)
       else if addr % n ≠ 0 then .error (.fault .align addr)
       else .ok (.cap c addr)) ∧
  ((∀ (op : MemOp) (d a : Reg) (s : State) (i : Issue) (t v : Thread) (pop : Option InboxEntry) (p : Place) (x : GReg),
     reading s [d, a] [a] = some (i, t, pop) → getT s i.tid = some v → v.g.length = 32 → i.latch.bind Latch.held = some (p, x) →
     ∃ u w, exec (.ld op d a) s = .next (finish pop i.tid u) ∧ getT u i.tid = some w ∧ u.mem = s.mem ∧ w.pc = v.nextPc ∧
       (op.inc = false → d ≠ 0 → w.rd d = x) ∧ (op.inc = true → a ≠ 0 → w.rd a = ⟨.cap, capStepped (t.rd a).bits⟩) ∧
       (∀ r, r ≠ d → r ≠ a → w.rd r = v.rd r)) ∧
   (∀ (op : MemOp) (d a : Reg) (s : State) (i : Issue) (t v : Thread) (pop : Option InboxEntry) (x : Addressed) (acc : Access),
     reading s [d, a] [a] = some (i, t, pop) → getT s i.tid = some v → Free t d → i.latch.bind Latch.held = none →
     let n := szBytes op.sz
     let ps := placeRun acc.place n
     let lat := parkTime (i.tid / 16) acc.place
     let inc := if op.inc then some a.val else none
     memAddress s i.tid t op a n false = .ok x → memPlace s i t op.am false x = .ok acc →
     ¬ (n = 16 ∧ isOwnLs (i.tid / 16) acc.place = false ∧ (loadValue s ps).kind = .strm) →
     (lat = 0 → poisoned s ps = none →
       let s1 := match acc.place with
         | .ls _ off => bankHit s (i.tid / 16) off
         | _ => s
       exec (.ld op d a) s = .next (finish pop i.tid (accessed s1 i.tid t (.load n) d inc (loadValue s ps) Counts.zero))) ∧
     (0 < lat → op.rx = false → ∃ u, exec (.ld op d a) s = .next (finish pop i.tid u) ∧ Leaves s u i.tid (.load n) ps lat d false) ∧
     (0 < lat → op.rx = true → relaxedCount s i.tid < 8 →
       ∃ u, exec (.ld op d a) s = .next (finish pop i.tid u) ∧ Leaves s u i.tid (.load n) ps lat d true))) ∧
  ((∀ (op : MemOp) (d a : Reg) (s : State) (i : Issue) (t v : Thread) (pop : Option InboxEntry) (off : Nat) (x : GReg),
     reading s [d, a] [a] = some (i, t, pop) → getT s i.tid = some v → i.latch.bind Latch.held = some (.ls (i.tid / 16) off, x) → MemOk s →
     let n := szBytes op.sz
     let ps := placeRun (.ls (i.tid / 16) off) n
     let u := heldStore s i.tid t n d (.ls (i.tid / 16) off) (if op.inc then some a else none)
     exec (.st op d a) s = .next (finish pop i.tid u) ∧ (getT u i.tid).map Thread.pc = some v.nextPc ∧
     (NoneParked s ps → (t.rd d).kind = .data →
       (∀ k < n, memGet (placeKey (.ls (i.tid / 16) off) + k) u.mem = BitVec.ofNat 8 ((t.rd d).bits.toNat / 256 ^ k)) ∧
       (∀ k, (k < placeKey (.ls (i.tid / 16) off) ∨ placeKey (.ls (i.tid / 16) off) + n ≤ k) → memGet k u.mem = memGet k s.mem))) ∧
   (∀ (op : MemOp) (d a : Reg) (s : State) (i : Issue) (t v : Thread) (pop : Option InboxEntry) (x : Addressed) (acc : Access),
     reading s [d, a] [a] = some (i, t, pop) → getT s i.tid = some v → i.latch.bind Latch.held = none →
     let n := szBytes op.sz
     let ps := placeRun acc.place n
     let lat := parkTime (i.tid / 16) acc.place
     let data := AccOp.store n (t.rd d)
     let inc := if op.inc then some a.val else none
     memAddress s i.tid t op a n true = .ok x → storeData (unpopped s i.tid t d) i.tid op d x = .ok () → memPlace s i t op.am true x = .ok acc →
     (lat = 0 →
       let e := perform s (threadWriter s i.tid) data ps
       let s1 := match acc.place with
         | .ls _ off => bankHit e.1 (i.tid / 16) off
         | _ => e.1
       let u := accessed s1 i.tid t data d inc GReg.zero Counts.zero
       exec (.st op d a) s = .next (finish pop i.tid u) ∧
       (∀ off, acc.place = .ls (i.tid / 16) off → MemOk s → NoneParked s ps →
         (∀ k < n, memGet (placeKey acc.place + k) u.mem = BitVec.ofNat 8 ((t.rd d).bits.toNat / 256 ^ k)) ∧
         (∀ k, (k < placeKey acc.place ∨ placeKey acc.place + n ≤ k) → memGet k u.mem = memGet k s.mem) ∧
         (if (t.rd d).kind = .data then ∀ k < n, isFull u (placeAdd acc.place k) = true ∧ tagged u (placeAdd acc.place k) = false
          else tagged u acc.place = true ∧ loadValue u ps = t.rd d) ∧
         (∀ g, (∀ k < n, granuleOf (placeAdd acc.place k) ≠ g / 16 * 16) →
           smem g u.tags = smem g s.tags ∧ smem g u.empties = smem g s.empties) ∧
         (getT u i.tid).map Thread.pc = some v.nextPc)) ∧
     (0 < lat → op.rx = false → ∃ u, exec (.st op d a) s = .next (finish pop i.tid u) ∧ Leaves s u i.tid data ps lat d false) ∧
     (0 < lat → op.rx = true → relaxedCount s i.tid < 8 →
       ∃ u, exec (.st op d a) s = .next (finish pop i.tid u) ∧ Leaves s u i.tid data ps lat d true)))

/-- 06 R108-R110: LDS takes a FULL word and leaves it EMPTY, STS fills an EMPTY word; in another state, or at another core, the access is parked at
the word or on its way there. FEST sets a word's state and FEGET reads it with the data. 06 R111-R114: an atomic whose checks pass answers the old
word and leaves the new one, in one access; ATM.CAS writes only when the old word is the expected one; ATMF counts its events. In the core's own
store it is done as the bundle goes on, elsewhere it leaves the core. -/
def Obligations.SynchronisingAccesses : Prop :=
  ((∀ (op : FewOp) (d a : Reg) (s : State) (i : Issue) (t v : Thread) (pop : Option InboxEntry) (acc : Access),
     reading s [d, a] [a] = some (i, t, pop) → getT s i.tid = some v → feChecks s i.tid t op d a false = .ok acc →
     let ps := placeRun acc.place 4
     let inc := if op.inc then some a.val else none
     let lat := parkTime (i.tid / 16) acc.place
     (quiet s i.tid = true → lat = 0 → isFull s acc.place = true → NoneParked s ps → poisoned s ps = none →
       ∃ s1, exec (.lds op d a) s = .next (finish pop i.tid
           (dropAhead (accessed s1 i.tid t .lds d inc (dataOf (getNat s ps)) Counts.zero) i.tid)) ∧
         s1.empties = sadd (placeKey acc.place / 4 * 4) s.empties ∧ s1.mem = s.mem ∧ s1.threads = s.threads) ∧
     (quiet s i.tid = true → ¬ (lat = 0 ∧ isFull s acc.place = true) →
       ∃ u r, exec (.lds op d a) s = .next (finish pop i.tid u) ∧ waitOf u i.tid = some (.fullEmpty s.nextId) ∧
         tget s.nextId u.reqs = some r ∧ r.op = .lds ∧ r.at_ = ps ∧ r.dest = d.val ∧ r.retries = 0 ∧ u.empties = s.empties) ∧
     (lat = 0 → poisoned s ps = none →
       ∃ s1, exec (.feget op d a) s = .next (finish pop i.tid (accessed s1 i.tid t .feget d inc
           (dataOf (getNat s ps + (if isFull s acc.place then 2 ^ 32 else 0))) Counts.zero)) ∧ s1.mem = s.mem ∧ s1.threads = s.threads) ∧
     (0 < lat → ∃ u, exec (.feget op d a) s = .next (finish pop i.tid u) ∧ Leaves s u i.tid .feget ps lat d false)) ∧
   (∀ (op : FewOp) (d a : Reg) (s : State) (i : Issue) (t v : Thread) (pop : Option InboxEntry) (acc : Access),
     reading s [d, a] [a, d] = some (i, t, pop) → getT s i.tid = some v → feChecks s i.tid t op d a true = .ok acc →
     let ps := placeRun acc.place 4
     let inc := if op.inc then some a.val else none
     let lat := parkTime (i.tid / 16) acc.place
     let w := (t.rd d).bits.extractLsb' 0 32
     (quiet s i.tid = true → lat = 0 → isFull s acc.place = false → NoneParked s ps → MemOk s →
       ∃ s1, exec (.sts op d a) s = .next (finish pop i.tid (accessed s1 i.tid t (.sts w) d inc GReg.zero Counts.zero)) ∧
         isFull s1 acc.place = true ∧ getNat s1 ps = w.toNat ∧ s1.threads = s.threads) ∧
     (quiet s i.tid = true → ¬ (lat = 0 ∧ isFull s acc.place = false) →
       ∃ u r, exec (.sts op d a) s = .next (finish pop i.tid u) ∧ waitOf u i.tid = some (.fullEmpty s.nextId) ∧
         tget s.nextId u.reqs = some r ∧ r.op = .sts w ∧ r.at_ = ps ∧ r.retries = 0 ∧ u.mem = s.mem) ∧
     (lat = 0 → NoneParked s ps →
       ∃ s1, exec (.fest op d a) s = .next (finish pop i.tid
           (accessed s1 i.tid t (.fest ((low t d).getLsbD 0)) d inc GReg.zero Counts.zero)) ∧
         (setFull s (placeKey acc.place) ((low t d).getLsbD 0)).empties = s1.empties ∧ s1.mem = s.mem ∧ s1.threads = s.threads) ∧
     (0 < lat → ∃ u, exec (.fest op d a) s = .next (finish pop i.tid u) ∧
       Leaves s u i.tid (.fest ((low t d).getLsbD 0)) ps lat d false))) ∧
  (let within := fun (j : Instr) (s : State) (i : Issue) (t : Thread) (pop : Option InboxEntry) (acc : Access) (n : Nat) (op : AccOp) (d : Reg) (rx : Bool)
       (new : Nat → Nat × Counts) =>
     let ps := placeRun acc.place n
     let lat := parkTime (i.tid / 16) acc.place
     let old := getNat s ps
     (lat = 0 → NoneParked s ps → MemOk s → poisoned s ps = none →
       ∃ s1, exec j s = .next (finish pop i.tid (accessed s1 i.tid t op d none (dataOf old) (new old).2)) ∧
         getNat s1 ps = (new old).1 % 2 ^ (8 * n) ∧ s1.threads = s.threads ∧
         ∀ k, (k < placeKey acc.place ∨ placeKey acc.place + n ≤ k) → memGet k s1.mem = memGet k s.mem) ∧
     (0 < lat → rx = false → ∃ u, exec j s = .next (finish pop i.tid u) ∧ Leaves s u i.tid op ps lat d false) ∧
     (0 < lat → rx = true → relaxedCount s i.tid < 8 → ∃ u, exec j s = .next (finish pop i.tid u) ∧ Leaves s u i.tid op ps lat d true)
   (∀ (op : AtmOp) (f : AtmFlags) (d a b : Reg) (s : State) (i : Issue) (t v : Thread) (pop : Option InboxEntry) (acc : Access),
     reading s [d, a, b] [a, b] = some (i, t, pop) → getT s i.tid = some v →
     let n := if f.w then 8 else 4
     let x := (low t b).toNat % 2 ^ (8 * n)
     atmPlace s i.tid t a n f.am [b] d = .ok acc →
     within (.atm op f d a b) s i t pop acc n (.atm op n x) d f.rx (fun old => (match op with
       | .add => (old + x) % 2 ^ (8 * n) | .and => old &&& x | .or => old ||| x | .xor => old ^^^ x
       | .min => if sextZ (8 * n) old ≤ sextZ (8 * n) x then old else x
       | .max => if sextZ (8 * n) x ≤ sextZ (8 * n) old then old else x
       | .minn => Nat.min old x | .maxn => Nat.max old x | .swap => x, Counts.zero))) ∧
   (∀ (f : AtmFlags) (d a b c : Reg) (s : State) (i : Issue) (t v : Thread) (pop : Option InboxEntry) (acc : Access),
     reading s [d, a, b, c] [a, b, c] = some (i, t, pop) → getT s i.tid = some v →
     let n := if f.w then 8 else 4
     let e := (low t b).toNat % 2 ^ (8 * n)
     let w := (low t c).toNat % 2 ^ (8 * n)
     atmPlace s i.tid t a n f.am [b, c] d = .ok acc →
     within (.atmCas f d a b c) s i t pop acc n (.cas n e w) d f.rx (fun old => (if old = e then w else old, Counts.zero))) ∧
   (∀ (op : AtmfOp) (am rx : Bool) (d a b : Reg) (s : State) (i : Issue) (t v : Thread) (pop : Option InboxEntry) (acc : Access),
     reading s [d, a, b] [a, b] = some (i, t, pop) → getT s i.tid = some v → atmPlace s i.tid t a 4 am [b] d = .ok acc →
     let x := (low t b).toNat % 2 ^ 32
     within (.atmf op am rx d a b) s i t pop acc 4 (.atmf op x) d rx (fun old => match op with
       | .fadd => addF f32L .rne (decodeF f32L old) (decodeF f32L x)
       | .fmin => minMaxF f32L false old x
       | .fmax => minMaxF f32L true old x)))

/-- 06 R104, R106, R108, R110, 05 R83, R84, R86, R88, R89, 08 R148, 11 R209, 21 R325: what becomes of an access in flight. Where nothing is amiss at
its home it is performed there. One that reads a poisoned word faults its thread SOFT_ERR with the word's address (log entry 20), a full/empty
access at a tagged granule and a load of another core's stream fault KIND, one whose place another context has got PERM (log entry 57, DESIGN
CHOICE), and nothing is written. A reply writes the register and the parked bundle retires; a relaxed load's reply writes the pending register; a
full/empty access is tested at its word, parked there and tested again every 4,096 cycles; the test that reaches FE_LIMIT faults FE_RETRY, in its
cycle (log entry 37, DESIGN CHOICE), and leaves the word as it is. A change of a word's state serves the oldest parked access that it satisfies;
those it does not satisfy count a retry. Writes to a register window, posted stream writes and elements read ahead arrive. An engine's write that
is discarded leaves its command with error status PERM (the command goes on: log entry 53, DEDUCED). -/
def Obligations.AccessesAreCarriedOut : Prop :=
  (∀ (id : Nat) (s : State) (r : Req) (t : Thread), tget id s.reqs = some r → getT s r.tid = some t → r.dropped = false →
    let done := accessDone s id r
    let test := Instr.feFirstTest id
    let tick := Instr.feRetryTick id
    (r.performed = false → accFault s r = none →
      let e := perform s (threadWriter s r.tid) r.op r.at_
      let vals := match r.op with
        | .ahead _ _ w es => es.map (fun x => (x.1, elemAt s x.2.1 x.2.2 w))
        | _ => []
      let r1 := { r with performed := true, result := e.2.1, counts := e.2.2, vals := vals }
      let u := { e.1 with reqs := tset id r1 e.1.reqs }
      exec (.accessPerformed id) s = .next (if completeAt 0 r1 then relaxedWake u r.tid else u)) ∧
    (r.performed = false → reqReaches s r = false → ∀ j ∈ [Instr.accessPerformed id, test, tick], exec j s = .next (takeFault done r.tid .perm r.addr)) ∧
    (r.performed = false → reqReaches s r = true → ∀ k, accReads r.op = true → poisoned s r.at_ = some k → (isFullEmpty r.op && r.at_.any (tagged s)) = false →
      foreignStream s r = false → ∀ j ∈ [Instr.accessPerformed id, test, tick], exec j s = .next (takeFault done r.tid .softErr (wordAddr k))) ∧
    (r.performed = false → reqReaches s r = true → (isFullEmpty r.op && r.at_.any (tagged s)) = true ∨ foreignStream s r = true →
      ∀ j ∈ [Instr.accessPerformed id, test, tick], exec j s = .next (takeFault done r.tid .kind r.addr)) ∧
    (waitOf s r.tid = some (.reply id) →
      exec (.farAccessReply id) s = .next (countAt (retirePast (applyInc (writeResult done r.tid t r.op r.dest r.result) r.tid r.inc)
        r.tid) r.tid r.counts)) ∧
    (waitOf s r.tid = some (.fullEmpty id) →
      let u := retirePast (applyInc (writeResult done r.tid t r.op r.dest r.result) r.tid r.inc) r.tid
      exec (.farAccessReply id) s = .next (if r.op = .lds then dropAhead u r.tid else u)) ∧
    (r.performed = false → accFault s r = none → feReady s r.op r.at_ = true →
      let e := perform s (threadWriter s r.tid) r.op r.at_
      exec test s = .next (sched { e.1 with reqs := tset id { r with performed := true, result := e.2.1 } e.1.reqs }
        (r.issued + r.lat) (.farAccessReply id)) ∧
      let e1 := applyAcc s (threadWriter s r.tid) r.op r.at_
      exec tick s = .next (sched { e1.1 with reqs := tset id { r with performed := true, result := e1.2.1 } e1.1.reqs }
        (s.cycle + ceilDiv r.lat 2) (.farAccessReply id))) ∧
    (r.performed = false → accFault s r = none → feReady s r.op r.at_ = false →
      exec test s = .next (sched { s with reqs := tset id { r with atWord := true } s.reqs } (s.cycle + 4096) tick) ∧
      (r.retries + 1 < t.feLimit.toNat →
        exec tick s = .next (sched { s with reqs := tset id { r with retries := r.retries + 1 } s.reqs } (s.cycle + 4096) tick)) ∧
      (t.feLimit.toNat ≤ r.retries + 1 →
        let u := takeFault { s with reqs := tdel id s.reqs } r.tid .feRetry r.addr
        exec tick s = .next (sched u (s.cycle + 4096) tick) ∧ u.mem = s.mem ∧ u.empties = s.empties ∧ u.tags = s.tags)) ∧
    (∀ n, r.op = .load n →
      let u := writeResult (setT done r.tid { t with pend := t.pend.filter (fun p => p.2 != id) }) r.tid t r.op r.dest r.result
      ((∀ w, waitOf s r.tid ≠ some w) → exec (.relaxedLoadReply id) s = .next u) ∧
      (waitOf s r.tid = some (.pending r.dest) → exec (.relaxedLoadReply id) s = .next (wake u r.tid))) ∧
    exec (.relaxedAccessComplete id) s = .next (relaxedWake (countAt done r.tid r.counts) r.tid) ∧
    (∀ n v, r.op = .store n v → r.performed = false → reqReaches s r = true →
      let e := perform s (threadWriter s r.tid) r.op r.at_
      let r1 := { r with performed := true, result := e.2.1, counts := e.2.2, vals := [] }
      let u := { e.1 with reqs := tset id r1 e.1.reqs }
      exec (.windowWrite id) s = .next (if completeAt 0 r1 then relaxedWake u r.tid else u)) ∧
    (∀ bs w k o tid off ps c, r.op = .window bs w k o → r.at_ = .reg tid off :: ps → tget k s.cmds = some c →
      let u := windowWrite { s with reqs := tdel id s.reqs } tid off bs w
      tget k u.cmds = some c ∧ exec (.windowWrite id) s = .next (if (windowTarget s w.ctx tid off).isSome then creditRun u c c.d o bs.length
        else { u with cmds := tset k { c with err := some (.perm, windowAddr tid off) } u.cmds })) ∧
    exec (.streamWriteAck id) s = .next (relaxedWake done r.tid) ∧
    (∀ k b w es, r.op = .ahead k b w es → (∀ w, waitOf s r.tid ≠ some w) → t.latch = none → (h : k < 32) →
      (t.rd ⟨k, h⟩).kind = .strm → strmAt (t.rd ⟨k, h⟩).bits 0 = b →
      ∃ t1, getT done r.tid = some t1 ∧
        exec (.streamReadaheadArrival id) s = .next (setT done r.tid { t1 with ahead := t1.ahead ++ [⟨k, r.vals⟩] }))) ∧
  (∀ (s : State) (w : Writer) (op : AccOp) (p : Place) (id : Nat) (r : Req),
    let e := applyAcc s w op (placeRun p 4)
    let key := placeKey p
    let parked := feParked e.1 key
    key % 4 = 0 → wordState s key ≠ wordState e.1 key → s.reqs = e.1.reqs → risingFrom 0 s.reqs = true →
    (∀ q ∈ parked, accFault e.1 q.2 = none) →
    (∀ q ∈ parked, feReady e.1 q.2.op q.2.at_ = false → ∃ t, getT e.1 q.2.tid = some t ∧ q.2.retries + 1 < t.feLimit.toNat) →
    (id, r) ∈ parked → feReady e.1 r.op r.at_ = true → (∀ q ∈ parked, feReady e.1 q.2.op q.2.at_ = true → q = (id, r) ∨ feOlder r q.2 = true) →
    ∃ n u v, (perform s w op (placeRun p 4)).1 = feServe key n u ∧ tget id u.reqs = some { r with performed := true, result := v } ∧
      (e.1.cycle + ceilDiv r.lat 2, Instr.farAccessReply id) ∈ u.agenda ∧
      ∀ q ∈ parked, feReady e.1 q.2.op q.2.at_ = false → tget q.1 u.reqs = some { q.2 with retries := q.2.retries + 1 })

/-! ## Vector words -/

/-- 08 R146, R147, R153-R157: a binary vector instruction whose operands have the word's format and whose elements are at hand gives each enabled
element of VD the result of its row, in the rounding mode of RMODE, and moves every cursor. Float rows hold of float formats. 08 R155, R156: VSEL
gives a where the destination's element is nonzero, else b; VCMP gives all ones where the comparison holds, else zero, in the N format of the
word's width. 08 R154, R158, R159, R164: a unary vector instruction gives each enabled element of VD the function of its row; VSPLAT repeats a
scalar and VCVT converts into VD's format in RMODE, its source values entering AMAX in element order. -/
def Obligations.VectorElementResults : Prop :=
  (∀ row ∈ ([
     (.vadd, false, fun f md a b _ => addF (vlay f) md (decodeF (vlay f) a) (decodeF (vlay f) b)),
     (.vsub, false, fun f md a b _ => addF (vlay f) md (decodeF (vlay f) a) (decodeF (vlay f) b).neg),
     (.vmul, false, fun f md a b _ => mulF (vlay f) md (decodeF (vlay f) a) (decodeF (vlay f) b)),
     (.vfma, true, fun f md a b d => fmaF (vlay f) md (decodeF (vlay f) a) (decodeF (vlay f) b) (decodeF (vlay f) d)),
     (.vmin, false, fun f _ a b _ => vecMinMax f false a b), (.vmax, false, fun f _ a b _ => vecMinMax f true a b),
     (.vand, false, fun _ _ a b _ => (a &&& b, Counts.zero)), (.vor, false, fun _ _ a b _ => (a ||| b, Counts.zero)),
     (.vxor, false, fun _ _ a b _ => (a ^^^ b, Counts.zero)),
     (.vshl, false, fun f _ a b _ => (if fmtWidth f ≤ b then 0 else a * 2 ^ b % 2 ^ fmtWidth f, Counts.zero)),
     (.vshr, false, fun f _ a b _ => (vshrElem f a b, Counts.zero)),
     (.viadd, false, fun f _ a b _ => saturate f (intVal f a + intVal f b)),
     (.visub, false, fun f _ a b _ => saturate f (intVal f a - intVal f b)),
     (.vimul, false, fun f _ a b _ => saturate f (intVal f a * intVal f b))]
       : List ((VWord → Instr) × Bool × (Fmt → RMode → Nat → Nat → Nat → Nat × Counts))),
     ∀ (v : VWord) (s : State) (i : Issue) (t : Thread) (x y z : Nat → Nat), reading s [v.va, v.vb, v.vd] [] = some (i, t, none) →
       StreamOf t v.va false v.fmt.code → (IsData t v.vb ∨ StreamOf t v.vb false v.fmt.code) → StreamOf t v.vd true v.fmt.code →
       let w := fmtWidth v.fmt
       let rs := streamsOf t [v.vd, v.va, v.vb]
       let n := vecCount t rs
       let on := laneOn t v.msk rs
       AtHand s i.tid t v.va w n on x → AtHand s i.tid t v.vb w n on y → (row.2.1 = true → AtHand s i.tid t v.vd w n on z) →
       Placeable s i.tid t v.vd n on → postRoom s i.tid t (mapPlan s i.tid t v.msk v.vd [v.va, v.vb]
         w w row.2.1 (fun _ _ => (0, Counts.zero, none))) = true →
       exec (row.1 v) s = .next (elementwise s i.tid t v.msk v.vd [v.va, v.vb] w w row.2.1 (fun k =>
         let r := row.2.2 v.fmt (modeOf t.rmode) (x k) (y k) (z k)
         (r.1, r.2, none)))) ∧
  (∀ (p : VPred) (v : VWord) (s : State) (i : Issue) (t : Thread) (x y z : Nat → Nat), reading s [v.va, v.vb, v.vd] [] = some (i, t, none) →
     StreamOf t v.va false v.fmt.code → (IsData t v.vb ∨ StreamOf t v.vb false v.fmt.code) →
     let w := fmtWidth v.fmt
     let rs := streamsOf t [v.vd, v.va, v.vb]
     let n := vecCount t rs
     let on := laneOn t v.msk rs
     AtHand s i.tid t v.va w n on x → AtHand s i.tid t v.vb w n on y → Placeable s i.tid t v.vd n on →
     (∀ dRead, postRoom s i.tid t (mapPlan s i.tid t v.msk v.vd [v.va, v.vb] w w dRead (fun _ _ => (0, Counts.zero, none))) = true) →
     (∀ c, StreamOf t v.vd true c → codeWidth c = w → AtHand s i.tid t v.vd w n on z →
       exec (.vsel v) s = .next (elementwise s i.tid t v.msk v.vd [v.va, v.vb] w w true (fun k =>
         (if z k ≠ 0 then x k else y k, Counts.zero, none)))) ∧
     (StreamOf t v.vd true (if w = 32 then Fmt.n32 else if w = 16 then Fmt.n16 else Fmt.n8).code →
       exec (.vcmp p v) s = .next (elementwise s i.tid t v.msk v.vd [v.va, v.vb] w w false (fun k =>
         let r := vcmpElem v.fmt p (x k) (y k)
         (if r.1 then 2 ^ w - 1 else 0, r.2, none))))) ∧
  ((∀ row ∈ ([(.vabs, false, vabsElem), (.vneg, false, vnegElem), (.vexp2, false, fun _ a => exp2F (decodeF f32L a)),
       (.vlog2, false, fun _ a => log2F (decodeF f32L a)), (.vrcp, false, fun _ a => rcpF (decodeF f32L a)),
       (.vrsq, false, fun _ a => rsqF (decodeF f32L a)), (.vtanh, false, fun _ a => tanhF (decodeF f32L a)),
       (.vmov, false, fun _ a => (a, Counts.zero)), (.vsplat, true, fun _ a => (a, Counts.zero))]
         : List ((VUnary → Instr) × Bool × (Fmt → Nat → Nat × Counts))),
     ∀ (v : VUnary) (s : State) (i : Issue) (t : Thread) (x : Nat → Nat), reading s [v.va, v.vd] [] = some (i, t, none) →
       (if row.2.1 then IsData t v.va else StreamOf t v.va false v.fmt.code) → StreamOf t v.vd true v.fmt.code →
       let w := fmtWidth v.fmt
       let rs := streamsOf t [v.vd, v.va]
       let n := vecCount t rs
       let on := laneOn t v.msk rs
       AtHand s i.tid t v.va w n on x → Placeable s i.tid t v.vd n on →
       postRoom s i.tid t (mapPlan s i.tid t v.msk v.vd [v.va] w w false (fun _ _ => (0, Counts.zero, none))) = true →
       exec (row.1 v) s = .next (elementwise s i.tid t v.msk v.vd [v.va] w w false (fun k =>
         let r := row.2.2 v.fmt (x k)
         (r.1, r.2, none)))) ∧
   (∀ (v : VUnary) (s : State) (i : Issue) (t : Thread) (x : Nat → Nat) (dst : Fmt), reading s [v.va, v.vd] [] = some (i, t, none) →
     StreamOf t v.va false v.fmt.code → StreamOf t v.vd true dst.code →
     let rs := streamsOf t [v.vd, v.va]
     let n := vecCount t rs
     let on := laneOn t v.msk rs
     AtHand s i.tid t v.va (fmtWidth v.fmt) n on x → Placeable s i.tid t v.vd n on →
     postRoom s i.tid t (mapPlan s i.tid t v.msk v.vd [v.va] (fmtWidth v.fmt) (fmtWidth dst) false (fun _ _ => (0, Counts.zero, none))) = true →
     exec (.vcvt v) s = .next (elementwise s i.tid t v.msk v.vd [v.va] (fmtWidth v.fmt) (fmtWidth dst) false (fun k =>
       let r := convert dst (modeOf t.rmode) (valueOf v.fmt (x k))
       (r.1, r.2, some (valueOf v.fmt (x k)))))))

/-- 08 R160, R161: VRED reduces the enabled elements by the tree and adds the root to the accumulator; VSCAN's elements are the running sums from
G[b], which takes the last one. -/
def Obligations.VectorReductionAndScan : Prop :=
  (∀ (v : VUnary) (s : State) (i : Issue) (t : Thread) (x : Nat → Nat), reading s [v.va, v.vd] [] = some (i, t, none) →
    StreamOf t v.va false v.fmt.code → IsData t v.vd →
    let n := vecCount t [v.va]
    let on := laneOn t v.msk [v.va]
    AtHand s i.tid t v.va (fmtWidth v.fmt) n on x →
    let acc := (t.rd v.vd).bits.toNat % (if v.fmt.isFloat16 then 2 ^ 32 else 2 ^ 64)
    let add := vredAdd v.fmt (modeOf t.rmode)
    let root := treeOpt add 10 ((List.range n).map (fun k => if on k then some (vredLeaf v.fmt (x k)).1 else none)) Counts.zero
    let out := match root.1 with
      | none => ((t.rd v.vd).bits.toNat, Counts.zero)
      | some y => ((add acc y).1, root.2.add (add acc y).2)
    exec (.vred v) s = .next (vectorDone s i.tid t
      (committed [v.va] [v.va] n 1 (activeIdx t v.msk [v.va] n) (some (v.vd, out)) [] 32)
      ((List.range n).map (fun k => if on k then ⟨[], none, (vredLeaf v.fmt (x k)).2, none, 0⟩ else Outcome1.skip 0)))) ∧
  (∀ (v : VWord) (s : State) (i : Issue) (t : Thread) (x c : Nat → Nat), reading s [v.va, v.vb, v.vd] [] = some (i, t, none) →
    StreamOf t v.va false v.fmt.code → IsData t v.vb → StreamOf t v.vd true v.fmt.code →
    let rs := [v.vd, v.va]
    let n := vecCount t rs
    let on := laneOn t v.msk rs
    let step := fun k => vscanStep v.fmt (modeOf t.rmode) (c k) (x k)
    AtHand s i.tid t v.va (fmtWidth v.fmt) n on x → Placeable s i.tid t v.vd n on →
    c 0 = (t.rd v.vb).bits.toNat % (if v.fmt = .f32 then 2 ^ 32 else 2 ^ 64) → (∀ k, c (k + 1) = if on k then (step k).1 else c k) →
    let p := committed rs [v.va] n 1 (activeIdx t v.msk rs n) (some (v.vb, c n, Counts.zero)) [] 32
    postRoom s i.tid t p = true →
    exec (.vscan v) s = .next (vectorDone s i.tid t p ((List.range n).map (fun k =>
      if on k then ⟨[(v.vd, idxOf t v.vd k, (step k).2.1)], none, (step k).2.2, none, 0⟩ else Outcome1.skip 0))))

/-- 08 R162, R163: VGATH reads the table at each enabled index, VSCAT writes it, and VCX orders each enabled pair of keys, with its payload, by the
direction of its block. 08 R163: VCX with its fields in range exchanges the two keys of each enabled pair, and their payloads, when they stand
against the direction of their block: rising where index / K is even. -/
def Obligations.VectorTablesAndExchange : Prop :=
  ((∀ (v : VWord) (s : State) (i : Issue) (t : Thread) (j : Nat → Nat) (p : Nat → Place), reading s [v.va, v.vb, v.vd] [] = some (i, t, none) →
     StreamOf t v.va false Fmt.n32.code → needTable i.tid t v.vb false = .ok () → StreamOf t v.vd true v.fmt.code →
     let w := fmtWidth v.fmt
     let rs := [v.vd, v.va]
     let n := vecCount t rs
     let on := laneOn t v.msk rs
     let tb := (t.rd v.vb).bits
     AtHand s i.tid t v.va 32 n on j → Placeable s i.tid t v.vd n on →
     (∀ k < n, on k = true → tablePlace s t.ctx tb w (j k) = .ok (p k) ∧ poisoned s (placeRun (p k) (w / 8)) = none) →
     let plan := committed rs [v.va] n 1 (activeIdx t v.msk rs n) none (tableBanks i.tid tb) w
     postRoom s i.tid t plan = true →
     exec (.vgath v) s = .next (vectorDone s i.tid t plan ((List.range n).map (fun k =>
       if on k then ⟨[(v.vd, idxOf t v.vd k, getNat s (placeRun (p k) (w / 8)))], none, Counts.zero, none, 0⟩ else Outcome1.skip 0)))) ∧
   (∀ (v : VWord) (s : State) (i : Issue) (t : Thread) (x j : Nat → Nat) (p : Nat → Place),
     reading s [v.va, v.vb, v.vd] [] = some (i, t, none) →
     StreamOf t v.va false v.fmt.code → StreamOf t v.vb false Fmt.n32.code → needTable i.tid t v.vd true = .ok () →
     let w := fmtWidth v.fmt
     let rs := [v.va, v.vb]
     let n := vecCount t rs
     let on := laneOn t v.msk rs
     let tb := (t.rd v.vd).bits
     AtHand s i.tid t v.va w n on x → AtHand s i.tid t v.vb 32 n on j → (∀ k < n, on k = true → tablePlace s t.ctx tb w (j k) = .ok (p k)) →
     exec (.vscat v) s = .next (vectorDone s i.tid t (committed rs rs n 1 (activeIdx t v.msk rs n) none (tableBanks i.tid tb) w)
       ((List.range n).map (fun k => if on k then ⟨[], some (p k, x k), Counts.zero, none, 0⟩ else Outcome1.skip 0))))) ∧
  (∀ (v : VWord) (s : State) (i : Issue) (t : Thread) (key pay : Nat → Nat) (a b : Nat), reading s [v.va, v.vb, v.vd] [] = some (i, t, none) →
     (∃ c, StreamOf t v.va true c ∧ codeWidth c = fmtWidth v.fmt) → IsData t v.vb → StreamOf t v.vd true v.fmt.code → v.va ≠ v.vd →
     let ks := (t.rd v.vd).bits
     let ps := (t.rd v.va).bits
     let c := strmCur ks
     strmCount ks = strmCount ps → c = strmCur ps → c % 2 = 0 → a < 10 → a < b → b ≤ 10 →
     (low t v.vb).toNat % 2 ^ 16 = 2 ^ a → (low t v.vb).toNat / 2 ^ 16 % 2 ^ 16 = 2 ^ b → strmCount ks % 2 ^ (a + 1) = 0 →
     let n := min (vecElems (fmtWidth v.fmt) / 2) ((strmCount ks - c) / 2)
     let l := fun p => (c / 2 + p) / 2 ^ a * 2 ^ (a + 1) + (c / 2 + p) % 2 ^ a
     let h := fun p => l p + 2 ^ a
     let on := fun p => v.msk == 0 || (t.mask v.msk).getLsbD (laneOf ks (l p))
     (∀ p < n, on p = true → ∀ m, m = l p ∨ m = h p →
       readElem s i.tid v.vd ks m = .ok (key m) ∧ readElem s i.tid v.va ps m = .ok (pay m)) →
     let swap := fun p => if l p / 2 ^ b % 2 = 0 then decide (image v.fmt (key (h p)) < image v.fmt (key (l p)))
       else decide (image v.fmt (key (l p)) < image v.fmt (key (h p)))
     let plan := { committed [v.vd, v.va] [v.vd, v.va] n 2 (fun _ => ((List.range n).filter on).flatMap (fun p => [l p, h p])) none []
       (fmtWidth v.fmt) with touch := fun _ => (List.range n).flatMap (fun p => [l p, h p]) }
     postRoom s i.tid t plan = true →
     exec (.vcx v) s = .next (vectorDone s i.tid t plan ((List.range n).map (fun p => if on p && swap p then
       ⟨[(v.vd, l p, key (h p)), (v.vd, h p, key (l p)), (v.va, l p, pay (h p)), (v.va, h p, pay (l p))], none, Counts.zero, none, 0⟩
       else Outcome1.skip 0))))

/-! ## Streams and copies -/

/-- 08 R144, R145: SBIND binds a stream over a capability or a handle that passes the checks, its cursor at 0; SCNT reads the elements that remain. 06
R116, R118, R119, 01 R15: a copy or a copy-fed ring whose checks pass goes to the queue of the lowest idle copy engine, else of the shortest
queue; .AT carries its not-before time. -/
def Obligations.StreamsAndCopiesIssue : Prop :=
  ((∀ (write : Bool) (fmt : Fmt) (d a b : Reg) (s : State) (i : Issue) (t : Thread) (pop : Option InboxEntry),
     reading s [d, a, b] [a, b] = some (i, t, pop) → IsData t b → Free t d →
     let n := (low t b).toNat
     let c := (t.rd a).bits
     let bytes := ceilDiv (n * fmtWidth fmt) 8
     let v := (capBase c + capCur c) % 2 ^ 64
     n < 2 ^ 32 → ¬ (fmt = .e2m1 ∧ n % 2 = 1) →
     ((t.rd a).kind = .cap → capOnchip c = true → capRead c = true → (write = true → capWrite c = true) → capCur c + bytes ≤ capLen c →
       v % max (fmtWidth fmt / 8) 1 = 0 → inLocalRegion v bytes = true →
       exec (.sbind write fmt d a b) s = .next (finish pop i.tid (result s i.tid d ⟨.strm, mkStrm v n 0 fmt.code write 0 false 0⟩))) ∧
     ((t.rd a).kind = .coc → cocFmt c = fmt.code → cocR c = true → (write = true → cocW c = true) → n ≤ cocRcount c * cocCcount c →
       exec (.sbind write fmt d a b) s = .next (finish pop i.tid (result s i.tid d ⟨.strm, mkStrm (i.tid / 256 * 0x800000 + cocTbase c) n 0
         fmt.code write 1 true (cocHlt c + cocGen c % 64 * 2 ^ 10)⟩)))) ∧
   (∀ (d a : Reg) (s : State) (i : Issue) (t : Thread) (pop : Option InboxEntry), reading s [d, a] [a] = some (i, t, pop) →
     (t.rd a).kind = .strm → Free t d →
     exec (.scnt d a) s = .next (finish pop i.tid (result s i.tid d (dataOf (strmCount (t.rd a).bits - strmCur (t.rd a).bits)))))) ∧
  ((∀ (x : CpyX) (d a b : Reg) (time : DWord) (s : State) (i : Issue) (t v : Thread) (pop : Option InboxEntry) (bar : Option Nat),
     reading s [d, a, b] [a, b, d] = some (i, t, pop) → getT s i.tid = some v → (t.rd a).kind ∈ [Kind.cap, .coc, .tens] → IsData t b →
     (t.rd d).kind ∈ [Kind.cap, .coc] →
     let n := (low t b).toNat
     n < 2 ^ 32 → copySource s i.tid t a n = .ok () → copyDest s i.tid t d n = .ok () → copyBar s i.tid t x.bv x.bar = .ok bar →
     let cmd := fun (op : Instr) (at_ : Nat) => { newCmd op i.tid t (chooseCopy s (i.tid / 256)) (t.rd a) (t.rd b) (t.rd d) GReg.zero s.cycle with
       total := n, bar := bar, notBefore := at_ }
     (∃ u, exec (.cpy x d a b) s = .next (finish pop i.tid u) ∧ Submitted s u i.tid (cmd (.cpy x d a b) 0) .accept) ∧
     (∃ u, exec (.cpyAt x d a b time) s = .next (finish pop i.tid u) ∧ Submitted s u i.tid (cmd (.cpyAt x d a b time) time.toNat) .accept)) ∧
   (∀ (x : CpysX) (d a b : Reg) (time : DWord) (s : State) (i : Issue) (t v : Thread) (pop : Option InboxEntry) (bar : Option Nat),
     reading s [d, a, b] [a, b] = some (i, t, pop) → getT s i.tid = some v →
     ((t.rd a).kind = .cap ∨ ((t.rd a).kind = .coc ∧ cocFmt (t.rd a).bits = x.fmt.code) ∨ ((t.rd a).kind = .tens ∧ ∀ c k,
       getC s t.ctx = some c → tget (tensTid (t.rd a).bits) c.nodes = some k → k.fmt ≠ Fmt.e2m1.code)) → (t.rd b).kind = .cap → Free t d →
     let n := x.count.toNat
     let eng := chooseCopy s (i.tid / 256)
     capWrite (t.rd b).bits = true → ringOk i.tid (t.rd b).bits = true → ¬ (x.fmt = .e2m1 ∧ n % 2 = 1) →
     copySource s i.tid t a (ceilDiv (n * fmtWidth x.fmt) 8) = .ok () → copyBar s i.tid t x.bv x.bar = .ok bar →
     let cmd := fun (op : Instr) (at_ : Nat) => { newCmd op i.tid t eng (t.rd a) (t.rd b) GReg.zero GReg.zero s.cycle with
       total := n, bar := bar, notBefore := at_, ring := freeRing s eng s.nextId }
     (∃ u, exec (.cpys x d a b) s = .next (finish pop i.tid u) ∧ Submitted s u i.tid (cmd (.cpys x d a b) 0) .accept) ∧
     (∃ u, exec (.cpysAt x d a b time) s = .next (finish pop i.tid u) ∧ Submitted s u i.tid (cmd (.cpysAt x d a b time) time.toNat) .accept)))

/-- 01 R15, 06 R115, R117, R119, 09 R180: an idle engine takes the next command of its queue, at once or at its not-before time; a copy moves and
credits its next chunk, the last one in its last cycle, and a FENCEX that waits for its reads looks again; then it ends. A copy that meets a
violation, or whose error is reported, ends with its address logged, and its task goes on (log entry 22). A chunk is at most 64 bytes, ended at a
whole word of a capability's destination; the first is read L(src) after the start, the last written in the copy's last cycle, and their order is
rotated by a free value (log entry 14, DESIGN CHOICE). 06 R118, 09 R180: a ring's engine delivers up to 64 bytes of the next elements where the
cursor has passed: they are in the ring, every byte is credited to the command's barrier, the elements are readable by the ring's streams, and no
vector half of the core still waits for elements. With every element delivered it completes. Elements that would end inside a word wait for the
rest of it, and a delivery takes a cycle (log entries 14 and 48, DESIGN CHOICE). -/
def Obligations.CopyEngineWork : Prop :=
  (∀ (id : Nat) (s : State) (c : Cmd), tget id s.cmds = some c →
     (c.phase = .queued → (engOf s c.eng).exec = none → nextCmd s (engOf s c.eng) = some id →
       ∃ u, exec (.engineAccept id) s = .next u ∧ tget id u.cmds = some { c with phase := .starting, accepted := s.cycle } ∧ u.mem = s.mem ∧
         (if s.time < c.notBefore then (c.notBefore, Instr.engineAtStart id) ∈ u.timed else (s.cycle, Instr.engineAtStart id) ∈ u.agenda)) ∧
     (c.total ≠ 0 → let u := startCopy s id c
       let ls := operandTime s (c.eng / 8) c.ctx c.a (copyModes c).1 c.total
       let ld := operandTime s (c.eng / 8) c.ctx c.d (copyModes c).2 c.total
       (s.cycle + ls, Instr.copyWrite id) ∈ u.agenda ∧ ∃ c1, tget id u.cmds = some c1 ∧ c1.phase = .running ∧ c1.passed < copyChunks c ∧
         c1.due = s.cycle + ls + ceilDiv c.total 64 + ld) ∧
     (chunkAt c 0 = 0 ∧ chunkAt c (copyChunks c) = c.total ∧ ∀ k < copyChunks c, chunkAt c k < chunkAt c (k + 1) ∧
       chunkAt c (k + 1) ≤ chunkAt c k + 64 ∧ (c.d.kind = .cap → chunkAt c (k + 1) < c.total → capAddr c.d.bits (chunkAt c (k + 1)) % 4 = 0)) ∧
     (let n := copyChunks c
      let k := (c.passed + c.dataAt) % max n 1
      let o := chunkAt c k
      let len := chunkAt c (k + 1) - o
      c.phase = .running →
      (c.data = [] → c.mixed = false → ∀ c1, holdLines s c c.a o len = .ok c1 →
       (∀ r, cmdRead s c1 c.a (copyModes c).1 Need.rd o len = .ok r →
         (c.dataAt + 1 = n → exec (.copyWrite id) s = .next (sched { bump r.1 with cmds := tset id { c1 with data := r.2 } r.1.cmds }
           (max (s.cycle + 1) (lastWrite s c o len)) (.copyWrite id))) ∧
         (c.dataAt + 1 ≠ n → ∀ u, writeChunk (bump r.1) id c1 o r.2 = .ok u → exec (.copyWrite id) s =
           .next (sched { u with cmds := tset id { c1 with dataAt := c.dataAt + 1 } u.cmds } (s.cycle + 1) (.copyWrite id)))) ∧
       (∀ x a, cmdRead s c1 c.a (copyModes c).1 Need.rd o len = .error (.fault x a) → exec (.copyWrite id) s =
         .next (endCmd (logCmd { s with cmds := tset id { c1 with err := some (x, a) } s.cmds } c1 1 x a) id (isRing c1)))) ∧
      (c.data ≠ [] → ∀ u, writeChunk s id c o c.data = .ok u →
       let w := sched { u with cmds := tset id { c with data := [], next := c.total } u.cmds } (max s.cycle c.due) (.copyComplete id)
       exec (.copyWrite id) s = .next (if c.live then wakeFences w c.tid else w)) ∧
      exec (.copyComplete id) s = .next (endCmd s id (isRing c))) ∧
     (∀ k a, c.err = some (k, a) → exec (.copyError id) s = .next (endCmd (logCmd s c 1 k a) id (isRing c)))) ∧
  (∀ (id : Nat) (s : State) (c : Cmd) (x : CpysX) (d : Reg), tget id s.cmds = some c → ringFields c = some (x, d) → c.phase = .running →
     c.dataAt ≤ s.cycle →
     let w := fmtWidth x.fmt
     let len := ringLen c
     let base := capBase c.b.bits + capCur c.b.bits
     let k0 := min (512 / w) (min (c.total - c.next) (len * 8 / w - (c.next - c.passed)))
     let k := if c.next + k0 = c.total then k0 else k0 - k0 % (32 / w)
     let o := c.next * w / 8
     let n := k * w / 8
     (c.total ≤ c.next → exec (.cpysRingWrite id) s = .next (sched s s.cycle (.copyComplete id))) ∧
     (c.next < c.total → k = 0 → exec (.cpysRingWrite id) s = .next s) ∧
     (c.next < c.total → k ≠ 0 → ∀ c1 r, holdLines s c c.a o n = .ok c1 → cmdRead s c1 c.a x.sam Need.rd o n = .ok r →
       let put := cmdWrite r.1 id c 1 o ((List.range n).filterMap (fun j => reach r.1 c.ctx (base + (o + j) % len) false)) r.2
       let credited := match c.bar with
         | some b => (List.range n).foldl (fun u j => credit u c.owner (c.tid / 16) b 1 (base + (o + j) % len)) put
         | none => put
       let c2 := { c1 with next := c.next + k, dataAt := s.cycle + 1 }
       ∃ u, exec (.cpysRingWrite id) s = .next u ∧
         u = sched (wakeStreams { credited with cmds := tset id c2 credited.cmds } (c.tid / 16)) (s.cycle + 1) (.cpysRingWrite id) ∧
         tget id u.cmds = some c2 ∧
         (∀ tid b i, ringCmd u tid b = some (id, c2) → i < c.next + k → ringReady u tid b i = true) ∧
         (∀ tid v, getT u tid = some v → tid / 16 = c.tid / 16 → v.status ≠ .parked .stream)))

/-! ## Groups and collectives -/

/-- 09 R167, R168: GJOIN adds the thread to a group that is empty or its own owner's, with no collective pending, and GLEAVE takes it out; either goes
on. 09 R169, R171-R173: when the last member issues, GSHFL gives each member the value of the member it names, or its own; GVOTE and GMATCH
compare the members' 64-bit values; GRED reduces them over the tree, a NaN as the canonical one (07 R121). Every member then has its result. 09
R174: GXLD over a readable, aligned on-chip tile gives each member its column when the last member has issued: at once from the core's own store,
else when the rows have arrived. -/
def Obligations.GroupResults : Prop :=
  (∀ (g : Fin 16) (s : State) (i : Issue) (t v : Thread), reading s [] [] = some (i, t, none) → getT s i.tid = some v → v.groups = t.groups →
     (t.groups.getLsbD g.val = true → exec (.gjoin g) s = .next (advance s i.tid)) ∧
     (t.groups.getLsbD g.val = false → (∀ o, groupOwner s (i.tid / 16) g = some o → o = t.owner ∧ pendingColl s (i.tid / 16) g.val = none) →
       exec (.gjoin g) s = .next (setT s i.tid { v.next with groups := v.groups ||| BitVec.ofNat 16 (2 ^ g.val) })) ∧
     (t.groups.getLsbD g.val = false → exec (.gleave g) s = .next (advance s i.tid)) ∧
     (t.groups.getLsbD g.val = true → pendingColl s (i.tid / 16) g.val = none →
       exec (.gleave g) s = .next (setT s i.tid { v.next with groups := v.groups &&& ~~~ BitVec.ofNat 16 (2 ^ g.val) }))) ∧
  (∀ (g : Fin 16) (d a b : Reg) (m : VoteMode) (op : RedOp) (s : State) (i : Issue) (t : Thread) (pop : Option InboxEntry) (prior : List CollEntry),
     let core := i.tid / 16
     let last := fun (j sel : Instr) (e : CollEntry) (vs : List CollEntry → List Nat) (n : List CollEntry → Counts) =>
       (pendingColl s core g.val = some ⟨g.val, sel, prior, false⟩ ∨ (prior = [] ∧ pendingColl s core g.val = none)) →
       let es := insertEntry e prior
       (∀ k ∈ members s core g, ∃ x ∈ es, x.slot = k) →
       exec j s = .next (finish pop i.tid (answered s core ⟨g.val, sel, es, false⟩ (vs es) (n es)))
     let whole := fun (es : List CollEntry) => es.map (fun e => e.a.toNat % 2 ^ 64)
     t.groups.getLsbD g.val = true → IsData t a → Free t d →
     (reading s [d, a, b] [a, b] = some (i, t, pop) → IsData t b →
       last (.gshfl g d a b) (.gshfl g 0 0 b) ⟨i.tid % 16, d.val, (t.rd a).bits, (t.rd b).bits, []⟩
         (fun es => es.map (fun e => if e.b.toNat % 16 < es.length then (nth e (e.b.toNat % 16) es).a.toNat else e.a.toNat))
         (fun _ => Counts.zero)) ∧
     (reading s [d, a] [a] = some (i, t, pop) →
       let e : CollEntry := ⟨i.tid % 16, d.val, (t.rd a).bits, 0, []⟩
       last (.gvote g m d a) (.gvote g m 0 0) e (fun es => es.map (fun _ => match m with
         | .any => if (whole es).any (fun v => v != 0) then 1 else 0
         | .all => if (whole es).all (fun v => v != 0) then 1 else 0
         | .ballot => ballot ((whole es).map (fun v => v != 0)))) (fun _ => Counts.zero) ∧
       last (.gmatch g d a) (.gmatch g 0 0) e (fun es => (whole es).map (fun v => ballot ((whole es).map (fun u => u == v))))
         (fun _ => Counts.zero) ∧
       let tree := fun es : List CollEntry => reduceTree (redFn op) 4 (es.map (fun e => redElem op e.a))
         (nanCount op (es.map (fun e => redElem op e.a)))
       last (.gred g op d a) (.gred g op 0 0) e (fun es => es.map (fun _ => (tree es).1)) (fun es => (tree es).2)) ∧
     (∀ x : QWord, op = .fmin ∨ op = .fmax → decodeF f32L (x.toNat % 2 ^ 32) = .nan → redElem op x = 0x7FC00000)) ∧
  (∀ (g : Fin 16) (wide am : Bool) (d a : Reg) (s : State) (i : Issue) (t : Thread) (pop : Option InboxEntry) (prior : List CollEntry)
     (rows : List (List Place)) (v : Nat), reading s [d, a] [a] = some (i, t, pop) → t.groups.getLsbD g.val = true →
     (t.rd a).kind = .cap → Free t d → capCheck (t.rd a).bits Need.rd 0 256 = .ok v → v % (if wide then 32 else 16) = 0 →
     capOnchip (t.rd a).bits = true → gxldRows s t.ctx v wide am = some rows →
     let core := i.tid / 16
     let es := insertEntry ⟨i.tid % 16, d.val, 0, 0, rows⟩ prior
     let c : Coll := ⟨g.val, .gxld g wide am 0 0, es, false⟩
     let tile := fun (u : State) => (es.headD ⟨0, 0, 0, 0, []⟩).rows.map (fun r => r.map (getByte u))
     (pendingColl s core g.val = some ⟨g.val, .gxld g wide am 0 0, prior, false⟩ ∨ (prior = [] ∧ pendingColl s core g.val = none)) → (∀ k ∈ members s core g, ∃ x ∈ es, x.slot = k) →
     rowsFault s core (es.headD ⟨0, 0, 0, 0, []⟩) = none →
     let far := ((es.headD ⟨0, 0, 0, 0, []⟩).rows.map (fun r => match r with
       | [] => 0
       | p :: _ => parkTime core p)).foldl Nat.max 0
     (far = 0 → exec (.gxld g wide am d a) s = .next (finish pop i.tid
       (answered s core c ((List.range es.length).map (gxldColumn wide (tile s))) Counts.zero))) ∧
     (far ≠ 0 → ∃ u, exec (.gxld g wide am d a) s = .next (finish pop i.tid u) ∧ u.mem = s.mem ∧
       (s.cycle + far, Instr.gxldRowsArrive core g.val) ∈ u.agenda ∧ pendingColl u core g.val = some { c with rowsComing := true }) ∧
     (∀ u : State, pendingColl u core g.val = some { c with rowsComing := true } → rowsFault u core (es.headD ⟨0, 0, 0, 0, []⟩) = none →
       exec (.gxldRowsArrive core g.val) u = .next (finishColl u core { c with rowsComing := true })))

/-! ## Barriers -/

/-- 09 R175, R177, R179-R181: BINIT sets up an idle barrier at its home, or its scope elsewhere; BARR counts an arrival of a thread that has not
arrived in the phase, or waits for the phase to complete first, which starts the phase's clock too (09 R183), and faults at a barrier in ERROR;
BEXP raises the expectation, each at the home or by a forward to it. -/
def Obligations.BarrierSetupAndArrival : Prop :=
  ∀ (n : Fin 512) (a : Reg) (s : State) (i : Issue) (t : Thread) (pop : Option InboxEntry) (b : Barrier),
    let core := i.tid / 16
    let x := low t a
    let scope := (x.extractLsb' 16 3).toNat
    let home := barHome s t.owner core n.val
    getBar s t.owner core n.val = some b →
    (reading s [a] [a] = some (i, t, pop) → IsData t a → x.extractLsb' 48 16 = 0 → x.extractLsb' 19 13 = 0 → x.extractLsb' 0 16 ≠ 0 →
      scope < 4 → (scope ≠ 0 → ∃ o, getO s t.owner = some o ∧ o.isPop = true) →
      (b.err.isSome = true ∨ (b.arrived = 0 ∧ b.expect = 0 ∧ b.delivered = 0 ∧ parkedOn s t.owner core n.val = false)) →
      exec (.binit n a) s = .next (finish pop i.tid (advance (setBar s t.owner core n.val
        (if homeCore s t.owner core scope = core then
          ⟨none, scope, (x.extractLsb' 0 16).toNat, (x.extractLsb' 32 16).toNat, b.phase, 0, 0, 0, none, []⟩
        else { b with scope := scope })) i.tid))) ∧
    (∀ v, reading s [] [] = some (i, t, none) → getT s i.tid = some v → quietAt b.scope s i.tid = true →
      (home ≠ core → exec (.barr n) s = .next (advance (sendFwd s t.owner n.val core home (.arrive i.tid)) i.tid)) ∧
      (home = core → b.err = none → tget n.val v.arrivals ≠ some b.phase → b.arrived ≠ b.count →
        exec (.barr n) s = .next (checkPhase (advance (startClock (setBar (setT s i.tid { v with arrivals := tset n.val b.phase v.arrivals })
          t.owner core n.val { b with arrived := b.arrived + 1 }) t.owner core n.val) i.tid) t.owner core n.val)) ∧
      (home = core → b.err = none → (tget n.val v.arrivals = some b.phase ∨ b.arrived = b.count) →
        exec (.barr n) s = .next (parkAs (startClock s t.owner core n.val) i.tid (.phaseFirst n.val b.phase))) ∧
      (∀ c w, home = core → b.err = some (c, w) → exec (.barr n) s = .next (takeFault s i.tid c w))) ∧
    (reading s [a] [a] = some (i, t, pop) → IsData t a → getBar s t.owner home n.val = none → x.toNat ≤ 2 ^ 48 - 1 →
      exec (.bexp n a) s = .next (finish pop i.tid (advance (sendFwd s t.owner n.val core home (.bexp x.toNat)) i.tid))) ∧
    (∀ h, reading s [a] [a] = some (i, t, pop) → IsData t a → getBar s t.owner home n.val = some h →
      h.expect + x.toNat ≤ 2 ^ 48 - 1 →
      (home ≠ core → exec (.bexp n a) s = .next (finish pop i.tid (advance (sendFwd s t.owner n.val core home (.bexp x.toNat)) i.tid))) ∧
      (home = core → h.err = none → exec (.bexp n a) s = .next (finish pop i.tid (advance (checkPhase (setBar s t.owner core n.val
        { b with expect := b.expect + x.toNat }) t.owner core n.val) i.tid))))

/-- 09 R181, R185: BWAIT on a phase that has completed retires with its number, and on the current phase parks; BSYNC and CSTAT arrive and park in the
phase, which is then checked, or wait to be counted in the next phase; a CSTAT keeps the places of its record. At another core than the home each
goes there. Re-issued after its arrival was saved, BSYNC only waits. A barrier in ERROR at its home faults BWAIT, BSYNC and CSTAT with the error's
cause and address. 09 R181, R185: a phase completes when its arrivals and its bytes meet: the barrier stands in the next phase with nothing
counted, modulo 2^32; at the home every thread that waits in BWAIT or BSYNC for the phase goes on past its bundle with the phase's number in its
register, and one that waits to be counted in the next goes on in its slot's next turn; a notice leaves for every other core with waiters; a
record leaves for every CSTAT arriver, with the sums of the eight counters of the contributing cores and their number. -/
def Obligations.BarrierWaits : Prop :=
  (∀ (n : Fin 512) (d a : Reg) (s : State) (i : Issue) (t v : Thread) (pop : Option InboxEntry) (b : Barrier),
     let core := i.tid / 16
     let home := barHome s t.owner core n.val
     let sent := fun (op : FwdOp) (d : Reg) => parkAs (sendFwd (setBarDest s i.tid d.val) t.owner n.val core home op) i.tid (.home n.val)
     let fresh := t.arrived = false ∧ quietAt b.scope s i.tid = true
     let here := home = core ∧ b.err = none ∧ tget n.val v.arrivals ≠ some b.phase ∧ b.arrived ≠ b.count
     getBar s t.owner core n.val = some b → getT s i.tid = some v →
     (reading s [d] [] = some (i, t, none) → Free t d →
       (∀ c x, home = core → b.err = some (c, x) → exec (.bwait n d) s = .next (takeFault s i.tid c x) ∧
         exec (.bsync n d) s = .next (takeFault s i.tid c x)) ∧
       (∀ w, home = core → b.err = none → tget n.val t.arrivals = some w → w ≠ b.phase →
         exec (.bwait n d) s = .next (advance (dropAhead (setReg s i.tid d (dataOf w)) i.tid) i.tid)) ∧
       (home = core → b.err = none → (∀ w, tget n.val t.arrivals = some w → w = b.phase) →
         exec (.bwait n d) s = .next (parkAs (startClock (setBarDest s i.tid d.val) t.owner core n.val) i.tid (.phase n.val b.phase))) ∧
       (home ≠ core → exec (.bwait n d) s = .next (sent (.wait i.tid none none) d)) ∧
       (fresh → here → exec (.bsync n d) s =
         .next (checkPhase (arrivedAndParked s i.tid v t.owner n.val b [] d (.phase n.val b.phase)) t.owner core n.val)) ∧
       (fresh → home = core → b.err = none → (tget n.val v.arrivals = some b.phase ∨ b.arrived = b.count) →
         exec (.bsync n d) s = .next (parkAs (startClock s t.owner core n.val) i.tid (.phaseFirst n.val b.phase))) ∧
       (t.arrived = false → (home = core → b.err = none) → quietAt b.scope s i.tid = false →
         exec (.bsync n d) s = .next (parkAs s i.tid (.relaxedPoint b.scope))) ∧
       (t.arrived = true → exec (.bsync n d) s = exec (.bwait n d) s) ∧
       (fresh → home ≠ core → exec (.bsync n d) s = .next (sent (.arriveWait i.tid none) d))) ∧
     (∀ (ps : List Place) (x : Nat), reading s [a] [a] = some (i, t, pop) →
       (if a = 0 then ps = [] else (t.rd a).kind = .cap ∧ capCheck (t.rd a).bits Need.st 0 80 = .ok x ∧ x % 16 = 0 ∧
         rangePlaces s core t.ctx (t.rd a).bits false Need.st x 5 = .ok ps ∧ ps.all ownMemory = true) →
       (∀ c w, home = core → b.err = some (c, w) → exec (.cstat n a) s = .next (takeFault s i.tid c w)) ∧
       (fresh → here → exec (.cstat n a) s = .next (finish pop i.tid
         (checkPhase (arrivedAndParked s i.tid v t.owner n.val b [(i.tid, ps)] 0 (.cstat n.val b.phase)) t.owner core n.val))) ∧
       (fresh → home = core → b.err = none → (tget n.val v.arrivals = some b.phase ∨ b.arrived = b.count) → exec (.cstat n a) s =
         .next (finish pop i.tid (parkAs (startClock s t.owner core n.val) i.tid (.phaseFirst n.val b.phase)))) ∧
       (fresh → home ≠ core → exec (.cstat n a) s = .next (finish pop i.tid (sent (.arriveWait i.tid (some ps)) 0))))) ∧
  ((∀ (s : State) (owner home n : Nat) (b : Barrier), getBar s owner home n = some b → b.err = none → b.arrived = b.count →
     b.delivered = b.expect →
     let u := checkPhase s owner home n
     getBar u owner home n = some { b with phase := (b.phase + 1) % 2 ^ 32, arrived := 0, expect := 0, delivered := 0, clock := none, cstat := [] } ∧
     u.mem = s.mem ∧
     (∀ tid v, tid ∈ waitersOn s owner home n → getT s tid = some v → v.status = .parked (.phase n b.phase) → (barDest v).val < v.g.length →
       ∃ x, getT u tid = some x ∧ x.status = .ready ∧ x.pc = v.nextPc ∧ (barDest v ≠ 0 → x.rd (barDest v) = dataOf b.phase)) ∧
     (∀ tid v, tid ∈ waitersOn s owner home n → getT s tid = some v → v.status = .parked (.phaseFirst n b.phase) →
       (turnAfter s.cycle (tid % 16), Instr.arrivalCounted tid) ∈ u.agenda) ∧
     (∀ c ∈ placedCores s owner, c ≠ home → barHome s owner c n = home → waitersOn s owner c n ≠ [] → ∃ k f, tget k u.fwds = some f ∧
       f.owner = owner ∧ f.bar = n ∧ f.home = c ∧ f.op = .notice b.phase ∧
       (s.cycle + fwdTime home c, Instr.barrierCompletionNotice k) ∈ u.agenda) ∧
     (∀ e ∈ b.cstat, ∃ k r, tget k u.cstats = some r ∧ r.tid = e.1 ∧ r.bar = n ∧ r.at_ = e.2 ∧ r.phase = b.phase ∧
       (let cores := (b.cstat.map (fun e => e.1 / 16)).eraseDups
        r.cores = cores.length ∧ r.sums = (List.range 8).map (fun j => (cores.map (fun c => (nth 0 j (coreSt s c).evc).toNat)).sum)))) ∧
   (∀ (s : State) (owner core n p tid : Nat) (v : Thread), tid ∈ waitersOn s owner core n → getT s tid = some v →
     v.status = .parked (.phase n p) → (barDest v).val < v.g.length →
     ∃ x, getT (wakePhase s owner core n p) tid = some x ∧ x.status = .ready ∧ x.pc = v.nextPc ∧ (barDest v ≠ 0 → x.rd (barDest v) = dataOf p)))

/-- 09 R177, R180, R181: an operation forwarded to a barrier's home counts or waits there, is held until the next phase where it cannot be counted
yet, and meets the barrier's ERROR as a fault that goes back; an arrival of a thread that has ended since is counted; an answer or a completion
notice that comes back lets the forwarding thread go on. Bytes credited up to the expectation are delivered, and the first beyond it puts the
barrier in ERROR. Of the operations that reach a core in one cycle the oldest acts first, and at equal age that of the lower core. 09 R183, R185,
11 R222: a phase whose clock reaches its limit is an error; a barrier in ERROR keeps its cause and address, and every thread parked on it at its
home faults with them; the arriver whose accesses are done goes on to be counted; a CSTAT's record is the eight sums, the number of cores, the
phase and the largest AMAX, little-endian, and its arriver then retires. -/
def Obligations.BarrierTraffic : Prop :=
  (∀ (id : Nat) (s : State) (f : Fwd) (b : Barrier), tget id s.fwds = some f → firstFwd s id = id →
     let s1 := { s with fwds := tdel id s.fwds }
     (getBar s f.owner f.home f.bar = some b → b.err = none →
       (∀ tid, f.op = .arrive tid → (∀ v, getT s tid = some v → v.owner ≠ f.owner) → b.arrived ≠ b.count → exec (.barrierForward id) s =
         .next (checkPhase (startClock (setBar s1 f.owner f.home f.bar { b with arrived := b.arrived + 1 }) f.owner f.home f.bar)
           f.owner f.home f.bar)) ∧
       (∀ tid v, f.op = .arrive tid → getT s tid = some v → v.owner = f.owner → tget f.bar v.arrivals ≠ some b.phase → b.arrived ≠ b.count →
         exec (.barrierForward id) s = .next (checkPhase (startClock (setBar (setT s1 tid { v with arrivals := tset f.bar b.phase v.arrivals })
           f.owner f.home f.bar { b with arrived := b.arrived + 1 }) f.owner f.home f.bar) f.owner f.home f.bar)) ∧
       (∀ tid p q v, f.op = .wait tid p q → getT s tid = some v → v.owner = f.owner → (∃ w, tget f.bar v.arrivals = some w ∧ w ≠ b.phase) →
         exec (.barrierForward id) s = .next (sendFwd s1 f.owner f.bar f.home f.from_ (.answerPhase tid ((tget f.bar v.arrivals).getD 0)))) ∧
       (∀ tid v, f.op = .arrive tid → getT s tid = some v → v.owner = f.owner → (tget f.bar v.arrivals = some b.phase ∨ b.arrived = b.count) →
         exec (.barrierForward id) s = .next { s with fwds := tset id { f with held := true } s.fwds }) ∧
       (∀ tid cs v, f.op = .arriveWait tid cs → getT s tid = some v → v.owner = f.owner → tget f.bar v.arrivals ≠ some b.phase → b.arrived ≠ b.count →
         let v1 := { v with arrivals := tset f.bar b.phase v.arrivals }
         let b1 := { b with arrived := b.arrived + 1, cstat := b.cstat ++ (cs.map (fun p => (tid, p))).toList }
         let s2 := startClock (setBar (setT s1 tid v1) f.owner f.home f.bar b1) f.owner f.home f.bar
         exec (.barrierForward id) s = .next (checkPhase (setT s2 tid { v1 with
           arrived := true, status := .parked (if cs.isSome then .cstat f.bar b.phase else .phase f.bar b.phase) }) f.owner f.home f.bar)) ∧
       (∀ tid cs v, f.op = .arriveWait tid cs → getT s tid = some v → v.owner = f.owner →
         (tget f.bar v.arrivals = some b.phase ∨ b.arrived = b.count) → exec (.barrierForward id) s =
           .next (startClock { s with fwds := tset id { f with held := true } s.fwds } f.owner f.home f.bar)) ∧
       (∀ tid p q v, f.op = .wait tid p q → getT s tid = some v → v.owner = f.owner → (∀ w, tget f.bar v.arrivals = some w → w = b.phase) →
         exec (.barrierForward id) s =
           .next (startClock (setT s1 tid { v with status := .parked (.phase f.bar b.phase) }) f.owner f.home f.bar)) ∧
       (∀ k, f.op = .bexp k → b.expect + k ≤ 2 ^ 48 - 1 →
         exec (.barrierForward id) s = .next (setBar s1 f.owner f.home f.bar { b with expect := b.expect + k })) ∧
       (∀ k x, f.op = .credit k x → exec (.barrierForward id) s = .next (creditBytes f.owner f.home f.bar (k + 1) s1 k x))) ∧
     (∀ c x tid v, getBar s f.owner f.home f.bar = some b → b.err = some (c, x) → getT s tid = some v → v.owner = f.owner →
       ((∃ cs, f.op = .arriveWait tid cs) ∨ ∃ p q, f.op = .wait tid p q) →
       exec (.barrierForward id) s = .next (sendFwd s1 f.owner f.bar f.home f.from_ (.answerFault tid c x))) ∧
     (∀ k x, getBar s f.owner f.home f.bar = some b → b.err = none → 0 < k →
       (b.delivered + k ≤ b.expect → creditBytes f.owner f.home f.bar (k + 1) s k x =
         checkPhase (setBar s f.owner f.home f.bar { b with delivered := b.delivered + k }) f.owner f.home f.bar) ∧
       (b.expect ≤ b.delivered → creditBytes f.owner f.home f.bar (k + 1) s k x = barError s f.owner f.home f.bar .barOverrun x)) ∧
     (∀ tid p v, f.op = .answerPhase tid p → getT s tid = some v → v.owner = f.owner → v.status = .parked (.home f.bar) →
       exec (.barrierForward id) s = .next (retirePast (dropAhead (setReg s1 tid (barDest v) (dataOf p)) tid) tid)) ∧
     (∀ tid c a p v, f.op = .answerFault tid c a → getT s tid = some v → v.owner = f.owner →
       waitOf s tid ∈ [some (.home f.bar), some (.phase f.bar p), some (.phaseFirst f.bar p), some (.cstat f.bar p)] →
       exec (.barrierForward id) s = .next (takeFault s1 tid c a)) ∧
     (∀ j g, (j, g) ∈ s.fwds → g.home = f.home → g.held = false → g.due ≤ s.cycle → g.isNotice = false →
       ∃ h, (id, h) ∈ s.fwds ∧ h.home = f.home ∧ h.held = false ∧ h.due ≤ s.cycle ∧ h.sent ≤ g.sent ∧ (h.sent = g.sent → h.from_ ≤ g.from_)) ∧
     (∀ p, f.op = .notice p → exec (.barrierCompletionNotice id) s = .next (wakePhase s1 f.owner f.home f.bar p))) ∧
  ((∀ (core owner n : Nat) (s : State) (b : Barrier) (c : Nat), n < 512 → getBar s owner core n = some b → b.err = none → b.clock = some c →
     c + b.timeout * 4096 = s.cycle →
     exec (.barTimeout core (owner * 512 + n) b.phase) s = .next (barError s owner core n .barTimeout n)) ∧
   (∀ (s : State) (owner home n x : Nat) (c : Cause) (b : Barrier), getBar s owner home n = some b → barHome s owner home n = home →
     home ∈ placedCores s owner →
     let u := barError s owner home n c x
     getBar u owner home n = some { b with err := some (c, x), clock := none } ∧ u.mem = s.mem ∧
     ∀ tid v, tid ∈ waitersOn s owner home n → getT s tid = some v → ∃ k f, tget k u.faults = some f ∧ f.tid = tid ∧ f.cause = c ∧
       f.addr = BitVec.ofNat 64 x ∧ getT u tid = some { v with status := .parked (.faultRec k), popDue := none, latch := none, late := none }) ∧
   (∀ (tid sc n p : Nat) (s : State),
     ((waitOf s tid = some (.relaxedDone sc) ∨ waitOf s tid = some (.relaxedPoint sc)) ∧ quietAt sc s tid = true) ∨
       waitOf s tid ∈ [some (.phaseFirst n p), some (.walk p), some .port, some .overflowPort] →
     exec (.arrivalCounted tid) s = .next (wake s tid)) ∧
   (∀ (id : Nat) (s : State) (r : CstatRec) (v : Thread), tget id s.cstats = some r → getT s r.tid = some v → v.owner = r.owner →
     v.status = .parked (.cstat r.bar r.phase) → NoneParked s r.at_ → ownerReaches s r.owner r.at_ = true →
     let bs := (r.sums.map (toBytes 8)).flatten ++ toBytes 8 r.cores ++ toBytes 4 r.phase ++ toBytes 4 r.amax.toNat
     let s1 := clearPoison (putBytes { s with cstats := tdel id s.cstats } (r.at_.zip bs)) ((r.at_.zip bs).map Prod.fst)
     exec (.cstatRecordWrite id) s = .next (retirePast (dropAhead s1 r.tid) r.tid)))

/-! ## Messages and the combining fabric -/

/-- 10 R191, R193: SEND and SENDH with an allowed payload, and a thread number that names a slot, send the message, which arrives 12 + 4h + 70x cycles
later; SEND goes on while the core's outbound buffer has room, SENDH parks until the answer. -/
def Obligations.SendingResults : Prop :=
  ∀ (tag : BitVec 8) (a b : Reg) (s : State) (i : Issue) (t v : Thread) (pop : Option InboxEntry), reading s [a, b] [a] = some (i, t, pop) →
    getT s i.tid = some v → IsData t a → quiet s i.tid = true →
    let n := (low t a).toNat
    let g := unpopped s i.tid t b
    let free := g.kind = .data ∨ (g.kind = .cap ∧ capSend g.bits = true) ∨ (g.kind = .tens ∧ bits g.bits.toNat 23 1 = 1)
    let msg : Bool → Msg := fun h => ⟨i.tid, t.ctx, t.owner, n, tag, t.rd b, h, b.val, s.cycle, false, none⟩
    let due := s.cycle + fabricTime (i.tid / 256) (n / 256)
    n < 49152 →
    (free → outboundCount s (i.tid / 16) < 8 → ∃ u, exec (.send tag a b) s = .next (finish pop i.tid u) ∧
      tget s.nextId u.msgs = some (msg false) ∧ (due, Instr.messageArrival s.nextId) ∈ u.agenda ∧ u.mem = s.mem ∧ getT u i.tid = some v.next) ∧
    (free ∨ (g.kind = .coc ∧ n / 256 = i.tid / 256) → ∃ u, exec (.sendh tag a b) s = .next (finish pop i.tid u) ∧
      tget s.nextId u.msgs = some (msg true) ∧ (due, Instr.messageArrival s.nextId) ∈ u.agenda ∧ u.mem = s.mem ∧
      waitOf u i.tid = some (.sendh s.nextId))

/-- 10 R188-R191, 17 R271, 01 R13: messages that reach an inbox in a cycle are offered with those held back for it, oldest first and at equal age by
the lower core. One that may be accepted takes the slot's next number as the inbox's last entry; one that finds no room, or an older one of its
sender held back, is held back; one that may not is rejected. The answer to a SENDH retires it with its register MOVED (the bits are free: log
entry 36), or faults it. 10 R194-R196, R198: PBIND makes a port; PEEK reads the header of the next message and takes none; BTAG branches by the
table's word for the tag's low four bits; LOOPB gives an entry back to a slot's queue, or answers 1 when the number is not outstanding. -/
def Obligations.MessagesAndPorts : Prop :=
  ((∀ (s : State) (core : Nat), (heldFor s core).Pairwise (fun x y => x.2.sent < y.2.sent ∨ (x.2.sent = y.2.sent ∧ x.2.src ≤ y.2.src))) ∧
   (∀ (id : Nat) (s : State) (m : Msg), tget id s.msgs = some m →
     let core := m.dst / 16
     let here := { s with msgs := s.msgs.map (fun p => if atInbox s core p.2 then (p.1, { p.2 with heldBack := true }) else p) }
     exec (.messageArrival id) s = .next (offerHeld here core) ∧
     (∀ x, heldFor here core = [(id, x)] → tget id here.msgs = some x → x.heldBack = true →
       exec (.messageArrival id) s = .next (offerMsg here id x))) ∧
   (∀ (id : Nat) (s : State) (m : Msg), tget id s.msgs = some m → m.answer = none →
     let core := m.dst / 16
     let slot := m.dst % 16
     let c := coreSt s core
     let u := offerMsg s id m
     (addressed s m = true → hasRoom s m = true → behindHeld s id m = false →
       (coreSt u core).inbox = c.inbox ++ [⟨m.ctx, (nth 0 slot c.nextIn).toNat, m.src % 16, m.src / 16, slot, m.tag, m.payload⟩] ∧
       (coreSt u core).nextIn = setNth (nth 0 slot c.nextIn + 1) slot c.nextIn ∧
       u.msgs = if m.handle then tset id { m with answer := some true, heldBack := false } s.msgs else tdel id s.msgs) ∧
     (addressed s m = true → (hasRoom s m = false ∨ behindHeld s id m = true) →
       u = { s with msgs := tset id { m with heldBack := true } s.msgs }) ∧
     (addressed s m = false → u = rejectMsg s id m)) ∧
   (∀ (core slot : Nat) (s : State),
     let u := offerHeld s core
     (heldFor s core = [] → u = s) ∧
     exec (.messageReoffer core slot) s = .next (if (coreSt u core).inbox.length < 64 then
       wakeAll (fun tid _ w => tid / 16 == core && w == .inboxRoom) u else u)) ∧
   (∀ (id : Nat) (s : State) (m : Msg) (v : Thread) (o : Owner), tget id s.msgs = some m → waitOf s m.src = some (.sendh id) →
     getT s m.src = some v → getO s v.owner = some o → o.phase ≠ .ending → (h : m.reg < 32) →
     let s1 := { s with msgs := tdel id s.msgs }
     (m.answer = some true → exec (.sendhAnswer id) s = .next (retirePast (moveSent s1 m.src m.reg) m.src) ∧
       ∃ w, getT (moveSent s1 m.src m.reg) m.src = some w ∧ (m.reg ≠ 0 → m.reg < v.g.length → (w.rd ⟨m.reg, h⟩).kind = .moved)) ∧
     (m.answer = some false → exec (.sendhAnswer id) s = .next (takeFault s1 m.src .msgDest m.dst)))) ∧
  ((∀ (d : Reg) (s : State) (i : Issue) (t : Thread), reading s [d] [] = some (i, t, none) → Free t d →
     exec (.pbind d) s = .next (result s i.tid d ⟨.port, BitVec.ofNat 128 (i.tid % 16)⟩)) ∧
   (∀ (d a : Reg) (s : State) (i : Issue) (t : Thread), reading s [d, a] [] = some (i, t, none) → (t.rd a).kind = .port → Free t d →
     exec (.peek d a) s =
       .next (result s i.tid d (dataOf (headerOf (coreSt s (i.tid / 16)).inbox.length (peekHead s i.tid))))) ∧
   (∀ (a b : Reg) (s : State) (i : Issue) (t : Thread) (pop : Option InboxEntry) (v off : Nat) (e : InboxEntry),
     reading s [a, b] [b] = some (i, t, pop) → (unpopped s i.tid t a).kind = .port → (t.rd b).kind = .cap → capCheck (t.rd b).bits Need.rd 0 64 = .ok v → v % 4 = 0 →
     capOnchip (t.rd b).bits = true → onchip v false = some (.ls (i.tid / 16) off) → portHead s i.tid = some e →
     let w := off + 4 * (e.tag.toNat % 16)
     let p := placeRun (.ls (i.tid / 16) w) 4
     poisoned s p = none →
     exec (.btag a b) s = .next (finish pop i.tid (setPc (bankHit s (i.tid / 16) w) i.tid (branchTarget t.pc (sextZ 32 (getNat s p)))))) ∧
   (∀ (d a b : Reg) (s : State) (i : Issue) (t : Thread) (pop : Option InboxEntry), reading s [d, a, b] [a] = some (i, t, pop) → isOverflow s i.tid = true →
     IsData t a →
     let g := unpopped s i.tid t b
     g.kind = .data ∨ (g.kind = .cap ∧ capSend g.bits = true) ∨ (g.kind = .tens ∧ bits g.bits.toNat 23 1 = 1) → Free t d →
     let core := i.tid / 16
     let c := coreSt s core
     let h := (low t a).toNat
     let slot := bits h 8 4
     let seq := bits h 32 16
     let pinned := if (t.rd b).kind = .tens then addPin s t.ctx ((t.rd b).bits.toNat % 2 ^ 20) else s
     c.inbox.length < 64 →
     let taken : Bool := c.inbox.any (fun e => e.dslot == slot && e.seq == seq)
     ((inRange c slot seq = false ∨ taken = true) → exec (.loopb d a b) s = .next (finish pop i.tid (result s i.tid d (dataOf 1)))) ∧
     (inRange c slot seq = true → taken = false → exec (.loopb d a b) s = .next (finish pop i.tid (wakeReader (result
       (setCore pinned core { c with inbox := c.inbox ++ [⟨t.ctx, seq, bits h 28 4, bits h 16 12, slot, BitVec.ofNat 8 h, t.rd b⟩] })
       i.tid d (dataOf 0)) (core * 16 + slot))))))

/-- 10 R199-R202, 01 R13: a CRED adds its value to what its core gathers; the last of the core's sends the fold, in slot order, towards the owner's
router, and all of the core's but the owner go on. Of the folds that have come, the oldest for which every router on the way has the reduction in
progress or fewer than 64 others is taken, and then the next of those that are left; the last fold makes the root, which the owner's register
takes as its CRED retires. 11 R210, R217-R220: FENCE orders a thread's accesses and goes on once they are complete at its scope, its read-ahead
discarded; FENCEX also waits for the thread's commands on its paths, and empties the operand windows of their engines in its scope. Until then
each parks. Every access and posted write of the thread that is not complete at the scope holds a fence back. -/
def Obligations.ReductionsAndFences : Prop :=
  ((∀ (op : CredOp) (d a b : Reg) (s : State) (i : Issue) (t v : Thread) (pop : Option InboxEntry) (old : Option (Nat × Red)),
     reading s [d, a, b] [a, b] = some (i, t, pop) → getT s i.tid = some v → IsData t a → IsData t b →
     let core := i.tid / 16
     let x := low t b
     let first := descFirst x
     let last := descLast x
     (i.tid = descOcore x * 16 + descOslot x → Free t d) →
     x.extractLsb' 52 12 = 0 → last < 3072 → first ≤ core → core ≤ last → first ≤ descOcore x → descOcore x ≤ last →
     ((∃ r, gatheringOn s core (descName x) = some r ∧ r.2.op = op ∧ r.2.desc = x ∧ old = some r) ∨
       (gatheringOn s core (descName x) = none ∧ gatherings s core < 4 ∧ old = redFor s t.owner op x core)) →
     let id := (old.map Prod.fst).getD s.nextId
     let r := (old.map Prod.snd).getD ⟨t.ctx, t.owner, op, x, [], [], [], Counts.zero, 0⟩
     let me := decide (i.tid = descOcore x * 16 + descOslot x)
     let r1 : Red := { r with
       gathered := r.gathered ++ [(core, i.tid % 16, BitVec.ofNat 64 (credValue op (low t a).toNat))]
       dest := if me then d.val else r.dest }
     let s1 := if old.isNone then fresh s else s
     let s2 := { s1 with reds := tset id r1 s1.reds }
     let mine := (r1.gathered.filter (fun g => g.1 == core)).length
     (mine < descKm1 x + 1 → exec (.cred op d a b) s = .next (finish pop i.tid (parkAs s2 i.tid (.fold id)))) ∧
     (descKm1 x + 1 ≤ mine → exec (.cred op d a b) s = .next (finish pop i.tid (sendFold s2 id r1 core i.tid))) ∧
     (descKm1 x + 1 ≤ mine → (∀ g ∈ r.gathered, g.1 = core → g.2.1 ≠ i.tid % 16) →
       let u := sendFold s2 id r1 core i.tid
       ∃ f r2, foldLeft op ((bySlot (r1.gathered.filter (fun g => g.1 == core))).map (fun g => g.2.2.toNat)) = some f ∧
         tget id u.reds = some r2 ∧ r2.folds = r1.folds ++ [(core, BitVec.ofNat 64 f.1, s.cycle)] ∧ (∀ g ∈ r2.gathered, g.1 ≠ core) ∧
         (s.cycle + fabricTime (core / 16) (descOcore x / 16), Instr.combinePacket id) ∈ u.agenda ∧
         (me = true → waitOf u i.tid = some (.root id)) ∧
         (me = false → ∃ w, getT u i.tid = some w ∧ w.pc = v.nextPc ∧ (v.status = .issuing → w.status = .issuing)) ∧
         ∀ g ∈ r.gathered, g.1 = core → core * 16 + g.2.1 ≠ descOcore x * 16 + descOslot x → waitOf s (core * 16 + g.2.1) = some (.fold id) →
           ∀ y, getT s (core * 16 + g.2.1) = some y → ∃ w, getT u (core * 16 + g.2.1) = some w ∧ w.status = .ready ∧ w.pc = y.nextPc)) ∧
   (∀ (tok : Nat) (s : State),
     (duePackets s).Pairwise (fun x y => x.1 < y.1 ∨ (x.1 = y.1 ∧ x.2.1 ≤ y.2.1)) ∧
     (∀ (id core : Nat) (r : Red), tget id s.reds = some r → (routersTake s id r core = true ↔ ∀ c ∈ routersOf r core, inProgress r c = true ∨
       (s.reds.filter (fun p => p.1 != id && inProgress p.2 c)).length < 64)) ∧
     let full := fun (x : Nat × Nat × Nat) => ∀ r, tget x.2.2 s.reds = some r → routersTake s x.2.2 r x.2.1 = false
     ((∀ x ∈ duePackets s, full x) → exec (.combinePacket tok) s = .next s) ∧
     ∀ (before after : List (Nat × Nat × Nat)) (sent core id : Nat) (r : Red), (s.reds.map Prod.fst).Nodup →
       duePackets s = before ++ (sent, core, id) :: after → (∀ x ∈ before, full x) → tget id s.reds = some r → routersTake s id r core = true →
       let r1 := { r with arrived := r.arrived ++ [core] }
       let s1 := { s with reds := tset id r1 s.reds }
       exec (.combinePacket tok) s = exec (.combinePacket tok)
         (if r1.arrived.length = descLast r.desc + 1 - descFirst r.desc then sched s1 s.cycle (.credRootDelivery id) else s1)) ∧
   (∀ (id : Nat) (s : State) (r : Red), tget id s.reds = some r →
     let tid := descOcore r.desc * 16 + descOslot r.desc
     let s0 := { s with reds := tdel id s.reds }
     let s1 := if (duePackets s0).isEmpty then s0 else sched s0 s.cycle (.combinePacket id)
     waitOf s tid = some (.root id) → (h : r.dest < 32) →
     exec (.credRootDelivery id) s = .next (countAt (retirePast (setReg s1 tid ⟨r.dest, h⟩ (credResult r.op (rootOf r).1)) tid) tid (rootOf r).2))) ∧
  (∀ (sc : Scope) (p : PathSet) (s : State) (i : Issue) (t : Thread), reading s [] [] = some (i, t, none) →
     let done := quietAt sc.code s i.tid = true
     (done → exec (.fence sc) s = .next (advance (dropAhead s i.tid) i.tid)) ∧
     (¬ done → exec (.fence sc) s = .next (parkAs s i.tid (.relaxedPoint sc.code))) ∧
     ((p.thread = true → done) → cmdsOut s i.tid sc.code p = false →
       exec (.fencex sc p) s = .next (advance (discardWindows (if p.thread then dropAhead s i.tid else s) sc.code (i.tid / 16) (pathEngine p)) i.tid)) ∧
     ((p.thread = true → done) → cmdsOut s i.tid sc.code p = true → exec (.fencex sc p) s = .next (parkAs s i.tid .fenceCmds)) ∧
     (p.thread = true → ¬ done → exec (.fencex sc p) s = .next (parkAs s i.tid (.relaxedPoint sc.code))) ∧
     (∀ id r, tget id s.reqs = some r → awaited i.tid r = true → completeAt sc.code r = false → quietAt sc.code s i.tid = false) ∧
     (∀ e ∈ (discardWindows s sc.code (i.tid / 16) (pathEngine p)).clusters, ∃ c, (e.1, c) ∈ s.clusters ∧ e.2.engines.length = c.engines.length ∧
       ∀ k < c.engines.length, (nth Engine.reset k e.2.engines).window =
         (if pathEngine p k = true ∧ (sc.code ≤ 1 → e.1 = i.tid / 16 / 16) ∧ (sc.code = 2 → e.1 / 24 = i.tid / 16 / 384) then [] else (nth Engine.reset k c.engines).window)))

/-! ## Matrix arrays -/

/-- 13 R229, R231, R233, R234, R237, R239: a matrix command whose operands pass their checks goes to the queue of its cluster's array and its thread
parks until it completes. 13 R229, R233, 01 R15: MINIT on tiles its task owns joins the array's queue; on tiles of which it owns none it joins the
claims, behind those before it and those of its cycle from lower cores and slots, and a claim whose tiles are free, with no earlier claim, gets
them and joins the queue. MSTAT reads a tile's state in its own turn. -/
def Obligations.MatrixCommandsIssue : Prop :=
  (∀ (s : State) (i : Issue) (t v : Thread) (pop : Option InboxEntry), getT s i.tid = some v →
     let cl := i.tid / 256
     let dim := tileDim cl
     let queued := fun (j : Instr) (a d : GReg) (at_ : Nat) => ∃ u, exec j s = .next (finish pop i.tid u) ∧
       Submitted s u i.tid { newCmd j i.tid t (arrayOf i.tid) a GReg.zero d GReg.zero s.cycle with notBefore := at_ } .command
     let rowsOk := fun (row0 rows : BitVec 9) => 1 ≤ rows.toNat ∧ row0.toNat + rows.toNat ≤ dim
     let mine := fun (k : Fin 4) => (tileOf s cl k.val).owner = some t.owner
     let memory := fun (r : Reg) (pitch : Nat) => (t.rd r).kind = .cap ∨ ((t.rd r).kind ∈ [Kind.coc, .tens] ∧ pitch = 0)
     let product := fun (x : MmaX) => arrayTakes cl x.fa = true ∧ arrayTakes cl x.fb = true ∧ formatsMeet x.fa x.fb = true ∧
       rowsOk x.row0 x.m ∧ 1 ≤ x.k.toNat ∧ x.k.toNat ≤ 16 * panelRows x.fa ∧ (x.fa = .e2m1 → x.k.toNat % 2 = 0) ∧
       x.p0.toNat + panelCount x ≤ (partition s cl t.ctx).2 ∧ mine x.t
     (∀ (x : BloadX) (a : Reg), reading s [a] [] = some (i, t, pop) → arrayTakes cl x.fmt = true → memory a x.pitch.toNat →
       x.p.toNat < (partition s cl t.ctx).2 → 1 ≤ x.k.toNat → x.k.toNat ≤ panelRows x.fmt → (x.fmt = .e2m1 → x.k.toNat % 2 = 0) →
       1 ≤ x.n.toNat → x.n.toNat ≤ dim → matOperand s cl t a false x.fmt x.n.toNat x.k.toNat x.pitch.toNat = .ok () →
       queued (.bload x a) (t.rd a) GReg.zero 0) ∧
     (∀ (x : MploadX) (a : Reg), reading s [a] [] = some (i, t, pop) → memory a 0 → rowsOk x.row0 x.rows →
       matPacked s cl t a (8 * x.rows.toNat) = .ok () → mine x.t → queued (.mpload x a) (t.rd a) GReg.zero 0) ∧
     (∀ (x : MmaX) (a : Reg), reading s [a] [] = some (i, t, pop) → product x → memory a x.pitch.toNat →
       matOperand s cl t a false x.fa x.m.toNat x.k.toNat x.pitch.toNat = .ok () → queued (.mma x a) (t.rd a) GReg.zero 0) ∧
     (∀ (x : MmaX) (d a : Reg), reading s [d, a] (if d = a then [] else [d]) = some (i, t, pop) → product x → x.pitch = 0 → (t.rd a).kind = .tens →
       (t.rd d).kind = .tens → matOperand s cl t a false x.fa x.m.toNat x.k.toNat 0 = .ok () →
       isAncestor s t.ctx (tensTid (t.rd a).bits) (tensTid (t.rd d).bits) = true → queued (.mmad x d a) (t.rd a) (t.rd d) 0) ∧
     (∀ (x : DrainX) (y : MdrainX) (d : Reg) (time : DWord), reading s [d] [] = some (i, t, pop) → drainTakes y.fmt = true →
       memory d y.pitch.toNat → rowsOk x.row0 x.rows → 1 ≤ x.ncols.toNat → x.ncols.toNat ≤ dim →
       ((t.rd d).kind = .cap → x.ncols.toNat * fmtWidth y.fmt / 8 ≤ y.pitch.toNat) →
       matOperand s cl t d true y.fmt x.rows.toNat x.ncols.toNat y.pitch.toNat = .ok () → mine x.t →
       queued (.mdrain x y d) GReg.zero (t.rd d) 0 ∧ queued (.mdrainAt x y d time) GReg.zero (t.rd d) time.toNat) ∧
     (∀ (x : DrainX) (y : MdrainaX) (a : Reg) (time : DWord), reading s [a] [a] = some (i, t, pop) → IsData t a → rowsOk x.row0 x.rows →
       1 ≤ x.ncols.toNat → x.ncols.toNat ≤ dim →
       let p := (t.rd a).bits.toNat % 256
       p < 192 → y.prow0.toNat + x.rows.toNat ≤ tileDim p → y.pcol0.toNat + x.ncols.toNat ≤ tileDim p → mine x.t →
       queued (.mdraina x y a) (t.rd a) GReg.zero 0 ∧ queued (.mdrainaAt x y a time) (t.rd a) GReg.zero time.toNat)) ∧
  ((∀ (x : MinitX) (a : Reg) (s : State) (i : Issue) (t v : Thread) (pop : Option InboxEntry), reading s [a] [a] = some (i, t, pop) →
     getT s i.tid = some v → IsData t a → x.tiles ≠ 0 → 1 ≤ x.rows.toNat → x.row0.toNat + x.rows.toNat ≤ tileDim (i.tid / 256) →
     let cl := i.tid / 256
     ((∀ k < 4, x.tiles.getLsbD k = true → (tileOf s cl k).owner = some t.owner) → ∃ u, exec (.minit x a) s = .next (finish pop i.tid u) ∧
       Submitted s u i.tid (newCmd (.minit x a) i.tid t (arrayOf i.tid) (t.rd a) GReg.zero GReg.zero GReg.zero s.cycle) .command) ∧
     let later := fun (j : Nat) => ∃ y, tget j s.cmds = some y ∧ y.issued = s.cycle ∧ i.tid < y.tid
     ((∀ k < 4, (tileOf s cl k).owner ≠ some t.owner) → tget s.nextId s.cmds = none → ∃ u c before after, exec (.minit x a) s = .next (finish pop i.tid u) ∧
       tget s.nextId u.cmds = some c ∧ c.op = .minit x a ∧ c.a = t.rd a ∧ c.phase = .claiming ∧ waitOf u i.tid = some (.claim s.nextId) ∧
       (clusterSt s cl).claims = before ++ after ∧ (clusterSt u cl).claims = before ++ s.nextId :: after ∧ (∀ j ∈ before, ¬later j) ∧
       (∀ j ∈ after.head?, later j) ∧ (s.cycle, Instr.minitClaimGrant cl) ∈ u.agenda)) ∧
   (∀ (cl id : Nat) (s : State) (c : Cmd) (x : MinitX) (a : Reg), (clusterSt s cl).claims = [id] → tget id s.cmds = some c → c.op = .minit x a →
     (∀ k < 4, x.tiles.getLsbD k = true → (tileOf s cl k).owner = none ∨ (tileOf s cl k).owner = some c.owner) →
     c.eng = cl * 8 + 4 → c.issued < s.cycle → (clusterSt s cl).tiles.length = 4 → (clusterSt s cl).engines.length = 6 →
     ∃ u, exec (.minitClaimGrant cl) s = .next u ∧ (∀ k < 4, (tileOf u cl k).owner = if x.tiles.getLsbD k = true then some c.owner else (tileOf s cl k).owner) ∧
       tget id u.cmds = some { c with phase := .queued } ∧ (clusterSt u cl).claims = [] ∧ (engOf u c.eng).queue = (engOf s c.eng).queue ++ [id] ∧
       ((getT s c.tid).isSome = true → waitOf u c.tid = some (.command id)) ∧
       ((engOf s c.eng).exec = none → (s.cycle + 4, Instr.engineAccept id) ∈ u.agenda)) ∧
   (∀ (k : Fin 4) (d : Reg) (s : State) (i : Issue) (t : Thread), reading s [d] [] = some (i, t, none) → Free t d →
     let x := tileOf s (i.tid / 256) k.val
     let e := engOf s (arrayOf i.tid)
     let own : Nat := match x.owner with
       | none => 0
       | some o => if o = t.owner then 1 else if (getO s o).any (fun w => w.ctx == t.ctx) then 2 else 3
     exec (.mstat k d) s = .next (result s i.tid d (dataOf ((if own = 1 then x.init.toNat else 0) + (if e.exec.isSome then 2 ^ 32 else 0) +
       own * 2 ^ 33 + (if own = 1 then x.drows * 2 ^ 35 else 0) + min e.queue.length 255 * 2 ^ 44)))))

/-- 13 R232, R233, R235-R240: in the cycle in which a command completes its writes are performed: a panel, initial values, mask parameters, a
product's rows or a drain's; its counters rise and its thread goes on. 11 R213: a drain into register windows completes when they are written. 13
R228, R233: a panel's slice holds the source's rows at the panel's pitch and zeros elsewhere. 13 R235: an element of a product is the exact sum of
its row's and column's products added to the tile's element, or to INIT, and rounded once; it is the canonical NaN where an input is NaN or a
product or the sum is invalid; no other row changes. 13 R238: a drained element is converted, or masked out where its column is not visible. 13
R239: an added element is the sum with the peer's, rounded once. 13 R239, R231: an MDRAINA asks its peer, which holds its tile when a task of the
same context owns it; the sent elements are added there and the command completes; a refused command ends its task. A question whose answer waits
leaves its array, and a drain with .REL whose tile other additions have been confirmed into waits for them (log entry 54, DESIGN CHOICE). -/
def Obligations.MatrixCompletion : Prop :=
  (∀ (id : Nat) (s : State) (c : Cmd), tget id s.cmds = some c → c.phase = .running → c.due = s.cycle → s.poison = [] →
     let cl := c.eng / 8
     let completes := fun (u : State) (n : Counts) (vs : List FVal) => exec (.matrixComplete id) s = .next (finishCmd u id c n vs)
     (∀ x a, c.op = .bload x a → completes (bloadWrite s c x) Counts.zero []) ∧
     (∀ x a, c.op = .minit x a →
       let v := c.a.bits.toNat % 2 ^ 32
       completes ((minitTiles x).foldl (fun u k =>
         let u1 := (List.range x.rows.toNat).foldl (fun w r => putElems w cl k (x.row0.toNat + r) 0 (List.replicate (tileDim cl) v)) u
         setTile u1 cl k { tileOf u1 cl k with init := BitVec.ofNat 32 v }) s) Counts.zero []) ∧
     (∀ x a, c.op = .mpload x a →
       let es := (List.range x.rows.toNat).map (fun r => leNat ((c.data.drop (8 * r)).take 8))
       let tl := tileOf s cl x.t.val
       let mp := es.zipIdx.foldl (fun u e => tset (x.row0.toNat + e.2) e.1 u) tl.maskp
       (∀ e ∈ es, e < 2 ^ 49) → completes (setTile s cl x.t.val { tl with maskp := mp }) Counts.zero []) ∧
     (∀ x a, c.op = .mma x a →
       let r := mmaRows s cl x ((partition s cl c.ctx).1 + x.p0.toNat) c.data (List.range x.m.toNat) none
       completes r.1 r.2 []) ∧
     (∀ x d a, c.op = .mmad x d a →
       let which := (List.range x.m.toNat).filter (fun q => c.total.testBit q)
       let r := mmaRows s cl x ((partition s cl c.ctx).1 + x.p0.toNat) c.data which (some (tileOf s cl x.t.val).init.toNat)
       completes (setTile r.1 cl x.t.val { tileOf r.1 cl x.t.val with drows := which.length }) r.2 []) ∧
     (∀ x y ps, drainFields c.op = some (x, y) → c.d.kind ≠ .tens →
       destRows s c y.am (rowStride s c.ctx c.d y.pitch.toNat) (x.ncols.toNat * fmtWidth y.fmt / 8) (List.range x.rows.toNat) = .ok ps →
       let out := (List.range x.rows.toNat).map (drainRow s cl x y)
       let n := (out.map (fun o => o.2.1)).foldl Counts.add Counts.zero
       let vs := (out.map (fun o => o.2.2)).flatten
       let u := cmdWrite s id c 2 0 ps (out.map Prod.fst).flatten
       (c.passed ≠ 1 → ps.any isRegPlace = false → completes (drainEnd u cl x y.clr y.rel) n vs) ∧
       (c.passed ≠ 1 → ps.any isRegPlace = true → exec (.matrixComplete id) s =
         .next (sched { u with cmds := tset id { c with passed := 1 } u.cmds } s.cycle (.matrixComplete id))) ∧
       (c.passed = 1 → completes (drainEnd s cl x y.clr y.rel) n vs)) ∧
     (∀ x y z k r, drainFields c.op = some (x, y) → c.d.kind = .tens → getC s c.ctx = some z → tget (tensTid c.d.bits) z.nodes = some k →
       k.state ≠ .dead → k.state ≠ .retired →
       let out := (List.range x.rows.toNat).map (drainRow s cl x y)
       let bytes := ((List.range x.rows.toNat).map (fun j => (nth ([], Counts.zero, []) j out).1.zipIdx.map (fun p =>
         (j * rowStride s c.ctx c.d y.pitch.toNat + p.2, p.1)))).flatten
       linWriteAt z false k c.d.bits 0 bytes = .ok r →
       completes (drainEnd (setC s c.ctx r.ctx) cl x y.clr y.rel) ((out.map (fun o => o.2.1)).foldl Counts.add Counts.zero)
         ((out.map (fun o => o.2.2)).flatten))) ∧
  ((∀ (s : State) (c : Cmd) (x : BloadX), MemOk s →
     let cl := c.eng / 8
     let slice := (partition s cl c.ctx).1 + x.p.toNat
     let rb := ceilDiv (x.k.toNat * fmtWidth x.fmt) 8
     let pitch := if x.fmt = .e2m1 then 128 else 256
     arrayTakes cl x.fmt = true → x.k.toNat ≤ panelRows x.fmt → x.n.toNat ≤ tileDim cl → slice < 240 →
     ∀ j < tileDim cl, ∀ o < pitch, memGet (sliceKey cl slice (j * pitch + o)) (bloadWrite s c x).mem =
       if j < x.n.toNat ∧ o < rb then nth 0 (j * rb + o) c.data else 0) ∧
   (∀ (s : State) (cl slice : Nat) (x : MmaX) (data : List Byte) (which : List Nat) (init : Option Nat), MemOk s → s.poison = [] → which.Nodup →
     (∀ q ∈ which, x.row0.toNat + q < tileDim cl) → ∀ i < tileDim cl, ∀ j < tileDim cl,
     let old := tileElem s cl x.t.val i j
     tileElem (mmaRows s cl x slice data which init).1 cl x.t.val i j =
       match which.findIdx? (fun q => x.row0.toNat + q == i) with
       | none => old
       | some r => (macElem (aRow x.fa data which.length x.k.toNat r) (bColumn s cl x.fb slice x.k.toNat j) (init.getD old)).1 % 2 ^ 32) ∧
   (∀ (as bs : List FVal) (c : Nat),
     let sum := dot as bs (.fin false 0 0)
     ((∃ v ∈ as ++ bs ++ [decodeF f32L c], v = .nan) → macElem as bs c = (0x7FC00000, cNan)) ∧
     ((∀ v ∈ as ++ bs ++ [decodeF f32L c], v ≠ .nan) →
       (sum = none → macElem as bs c = (0x7FC00000, cInv)) ∧
       (∀ v, sum = some v → (∀ n e, v ≠ .fin n 0 e) → macElem as bs c = addF f32L .rne (decodeF f32L c) v) ∧
       (∀ n e, sum = some (.fin n 0 e) → macElem as bs c = addF f32L .rne (decodeF f32L c) (.fin false 0 0)) ∧
       ((∃ p ∈ as.zip bs, mulExact p.1 p.2 = none) → sum = none) ∧
       ((∀ p ∈ as.zip bs, ∃ n m e, mulExact p.1 p.2 = some (.fin n m e)) → ∃ n m e, sum = some (.fin n m e) ∧
         (FVal.fin n m e).rat = ((as.zip bs).map (fun p => p.1.rat * p.2.rat)).sum))) ∧
   (∀ (s : State) (cl : Nat) (x : DrainX) (y : MdrainX) (r : Nat),
     let i := x.row0.toNat + r
     let hidden := fun j => y.mask && !visible (maskEntry (tileOf s cl x.t.val) i) j
     let value := fun j => decodeF f32L (tileElem s cl x.t.val i j)
     let cols := List.range x.ncols.toNat
     drainRow s cl x y r = (cols.flatMap (fun j => toBytes (fmtWidth y.fmt / 8) (if hidden j then maskedOut y.fmt else (convert y.fmt .rne (value j)).1)),
       cols.foldl (fun n j => Counts.add n (if hidden j then Counts.zero else (convert y.fmt .rne (value j)).2)) Counts.zero,
       (cols.filter (fun j => !hidden j)).map value)) ∧
   (∀ (s : State) (p : Nat) (x : DrainX) (y : MdrainaX) (data : List Byte), MemOk s → s.poison = [] →
     y.prow0.toNat + x.rows.toNat ≤ tileDim p → y.pcol0.toNat + x.ncols.toNat ≤ tileDim p →
     ∀ r < x.rows.toNat, ∀ j < x.ncols.toNat,
     let sent := leNat ((data.drop (4 * (r * x.ncols.toNat + j))).take 4)
     tileElem (addElems s p x y data).1 p y.u.val (y.prow0.toNat + r) (y.pcol0.toNat + j) =
       (addF f32L .rne (decodeF f32L (tileElem s p y.u.val (y.prow0.toNat + r) (y.pcol0.toNat + j))) (decodeF f32L sent)).1 % 2 ^ 32) ∧
   (∀ (s : State) (cl : Nat) (x : DrainX), ∀ r < x.rows.toNat, ∀ j < x.ncols.toNat,
     leNat (((sentElems s cl x).drop (4 * (r * x.ncols.toNat + j))).take 4) = tileElem s cl x.t.val (x.row0.toNat + r) j)) ∧
  (∀ (id : Nat) (s : State) (c : Cmd) (x : DrainX) (y : MdrainaX), tget id s.cmds = some c → addFields c.op = some (x, y) →
     let q := c.eng / 8
     let p := peerOf c.a
     let tl := tileOf s p y.u.val
     let back := s.cycle + fabricTime q p
     let waits := answerWaits s id q p y.u.val
     let ours := ∃ o w, tl.owner = some o ∧ getO s o = some w ∧ w.ctx = c.ctx
     let asked := fun (ph : CmdPhase) (next : Instr) =>
       let answer := fun (err : Option (Cause × Nat)) => { s with cmds := tset id { c with passed := 1, due := back, phase := ph, err := err } s.cmds }
       (ours → exec (.mdrainaConfirm id) s =
         .next (sched (setTile (answer none) p y.u.val { tl with confirmed := tl.confirmed + 1 }) back next)) ∧
       (¬ ours → exec (.mdrainaConfirm id) s = .next (sched (answer (some (.perm, y.u.val))) back next))
     (c.adds = none → c.phase = .confirming → c.passed = 0 → if waits then
       exec (.mdrainaConfirm id) s = .next (sched (putBack s id { c with passed := 2 }) (s.cycle + 1) (.mdrainaConfirm id))
       else asked .adding (.mdrainaPeerAdd id)) ∧
     (c.adds = none → c.phase = .queued → c.passed = 2 → if waits then
       exec (.mdrainaConfirm id) s = .next (sched s (s.cycle + 1) (.mdrainaConfirm id)) else asked .queued (.engineAccept id)) ∧
     (c.adds = none → c.err = none → c.phase = .adding → c.passed = 1 → s.poison = [] → exec (.mdrainaPeerAdd id) s = .next (
       if additionsDue s c then putBack s id c
       else
         let due := s.cycle + ceilDiv (x.rows.toNat * x.ncols.toNat) 16
         let sent : Cmd := { c with adds := some id, accepted := s.cycle, data := sentElems s q x }
         let add : Cmd := { sent with eng := p * 8 + 4, phase := .queued, live := false, pins := [], handles := [], notBefore := 0 }
         sched (queueAddition (fresh { s with cmds := tset s.nextId add (tset id { c with due := due, passed := 4 } s.cmds) }) s.nextId add) due
           (.matrixComplete id))) ∧
     (∀ main m, c.adds = some main → c.phase = .running → tget main s.cmds = some m → s.poison = [] →
       let r := addElems s q x y c.data
       exec (.mdrainaPeerAdd id) s = .next (finishCmd (endAdditions r.1 id c y) main m r.2 [])) ∧
     (c.phase = .adding → c.passed = 4 → c.due = s.cycle →
       exec (.matrixComplete id) s = .next (freeEngine (drainEnd s q x y.clr (y.rel && !ownPeer c)) c.eng id)) ∧
     (∀ k a, c.err = some (k, a) → c.adds = none → c.eng % 8 = 4 → exec (.matrixViolation id) s = .next (violate s id c 2 k a)))

/-! ## Tensors -/

/-- 15 R256-R262: a lineage instruction whose issue checks pass sends its operation to Chrysalis, where it takes effect within the park, and its
thread waits for the reply. -/
def Obligations.LineageOperationsSent : Prop :=
  ∀ (s : State) (i : Issue) (t v : Thread) (pop : Option InboxEntry), getT s i.tid = some v →
    let sent := fun (j : Instr) (a b d : GReg) => ∃ u, exec j s = .next (finish pop i.tid u) ∧ LineageSent s u i.tid t.ctx j a b d
    let live := fun (r : Reg) => (t.rd r).kind = .tens ∧ ∃ x, needNode s t.ctx (t.rd r).bits = .ok x
    let named := fun (r : Reg) => (t.rd r).kind ∈ [Kind.data, .tens]
    let z := GReg.zero
    (∀ (rows cols : BitVec 24) (fmt : Fmt) (maxd : BitVec 4) (d a b : Reg),
      reading s [d, a, b] (if fmt = .e2m1 then [a, b] else [b]) = some (i, t, pop) → IsData t b → Free t d → rows ≠ 0 → cols ≠ 0 → maxd ≠ 0 →
      let g := (low t b).toNat
      let p := newPitch cols.toNat fmt g
      let cap := (t.rd a).bits
      g < 2 ^ 16 → minPitch cols.toNat fmt ≤ p → rows.toNat * p ≤ 2 ^ 28 →
      (if fmt = .e2m1 then cols.toNat % 2 = 0 ∧ (t.rd a).kind = .cap ∧ capOnchip cap = false ∧ capRead cap = true ∧ capMatrix cap = true ∧
          capCur cap + rows.toNat * ceilDiv cols.toNat 32 ≤ capLen cap else a = 0) →
      sent (.tnew rows cols fmt maxd d a b) (t.rd a) (t.rd b) z) ∧
    (∀ (colb coln : BitVec 24) (keep : BitVec 4) (d a b : Reg), reading s [d, a, b] [a, b] = some (i, t, pop) → named a → IsData t b → Free t d →
      (low t b).toNat < 2 ^ 48 → sent (.topen colb coln keep d a b) (t.rd a) (t.rd b) z) ∧
    (∀ (ft nf : Bool) (d a st : Reg), reading s [d, a, st] [a] = some (i, t, pop) → live a → tensPerm (t.rd a).bits 0 = true → Free t d → Free t st →
      sent (.fork ft nf d a st) (t.rd a) z z) ∧
    (∀ (ft : Bool) (a b st : Reg), reading s [a, b, st] [a, b] = some (i, t, pop) → live a → named b → tensPerm (t.rd a).bits 0 = true → Free t st →
      sent (.rebase ft a b st) (t.rd a) (t.rd b) z) ∧
    (∀ (ft : Bool) (a st : Reg), reading s [a, st] [a] = some (i, t, pop) → live a → Free t st →
      (tensPerm (t.rd a).bits 0 = true → sent (.flat ft a st) (t.rd a) z z) ∧ (tensPerm (t.rd a).bits 1 = true → sent (.tfree ft a st) (t.rd a) z z)) ∧
    (∀ (q : Fin 4) (d a : Reg), reading s [d, a] [a] = some (i, t, pop) → named a → Free t d → sent (.tinfo q d a) (t.rd a) z z) ∧
    (∀ (d a : Reg) (x : Ctx × Node) (w : Nat) (ps : List Place), reading s [d, a] [a, d] = some (i, t, pop) → (t.rd a).kind = .tens →
      (t.rd d).kind = .cap → tensPerm (t.rd a).bits 0 = true → needNode s t.ctx (t.rd a).bits = .ok x →
      let n := viewBytes x.2 (t.rd a).bits
      capCheck (t.rd d).bits Need.st 0 n = .ok w → capRun s (i.tid / 16) t.ctx (t.rd d).bits false Need.st (runFuel n) w n = .ok ps →
      ps.all ownMemory = true → sent (.trd d a) (t.rd a) z (t.rd d)) ∧
    (∀ (ft : Bool) (a b st : Reg) (x : Ctx × Node) (w : Nat) (ps : List Place), reading s [a, b, st] [a, b] = some (i, t, pop) →
      (t.rd a).kind = .tens → (t.rd b).kind = .cap → Free t st → tensPerm (t.rd a).bits 1 = true → needNode s t.ctx (t.rd a).bits = .ok x →
      let n := viewBytes x.2 (t.rd a).bits
      x.2.state ≠ .frozen → capCheck (t.rd b).bits Need.rd 0 n = .ok w →
      capRun s (i.tid / 16) t.ctx (t.rd b).bits false Need.rd (runFuel n) w n = .ok ps → sent (.twr ft a b st) (t.rd a) (t.rd b) z) ∧
    (∀ (sz : TSz) (d a x : Reg) (off : Word), reading s [d, a, x] [a, x] = some (i, t, pop) → live a → IsData t x → Free t d →
      tensPerm (t.rd a).bits 0 = true → sent (.tld sz d a x off) (t.rd a) (t.rd x) z) ∧
    (∀ (ft : Bool) (sz : TSz) (d a x st : Reg) (off : Word), reading s [d, a, x, st] [a, x, d] = some (i, t, pop) → live a → IsData t x →
      IsData t d → Free t st → tensPerm (t.rd a).bits 1 = true → sent (.tst ft sz d a x st off) (t.rd a) (t.rd x) (t.rd d))

/-- 11 R214, 15 R251, R256: a lineage operation takes effect or finds its fault, and its reply follows; the reply drops the operation's pins, writes
every result and the bundle goes on, or it faults; a view that reaches no register drops its pin. One whose thread is gone has no effect. A
dropped pin is counted, and one dropped from a DEAD root that has no other frees it; the host's free is a TFREE. 15 R250-R262, 16 R265: what each
lineage operation does at its point of order, when no error is met: its results, its status and the table after it. Of a .T or .NF form the status
is 0 when it is performed, and a refusal changes nothing. The content a node resolves to (byteAt) is as before a detached fork, a flattening, a
rebasing and a splice into a root, and after a write it is the bytes written and elsewhere as before. -/
def Obligations.LineageEvents : Prop :=
  ((∀ (id : Nat) (s : State) (o : LinOp) (c : Ctx), tget id s.lins = some o → getC s o.ctx = some c → waitOf s o.tid = some (.lineage id) →
     let s1 := o.pins.foldl (fun u m => sched u u.cycle (.pinDrop o.ctx m)) { s with lins := tdel id s.lins }
     (o.done = false → ∀ r, linPerform s o c = .ok r → exec (.lineageOperation id) s =
       .next (sched { r.st with lins := tset id { o with done := true, out := r.out } r.st.lins } (o.issued + r.time) (.lineageReply id))) ∧
     (o.done = false → ∀ f, linPerform s o c = .error f → ∃ u, exec (.lineageOperation id) s = .next u ∧ u.ctxs = s.ctxs ∧ u.mem = s.mem ∧
       tget id u.lins = some { o with done := true, fault := some f }) ∧
     (o.fault = none → ∀ rs : List (Reg × GReg), o.out = rs.map (fun e => (e.1.val, e.2)) → exec (.lineageReply id) s =
       .next (retirePast (rs.foldl (fun u e => if e.1 ≠ 0 then setReg u o.tid e.1 e.2 else if e.2.kind = .tens then
         sched u u.cycle (.pinDrop o.ctx (tensTid e.2.bits)) else u) s1) o.tid)) ∧
     (∀ k a, o.fault = some (k, a) → exec (.lineageReply id) s = .next (takeFault s1 o.tid k a))) ∧
   (∀ (id : Nat) (s : State) (o : LinOp) (c : Ctx), tget id s.lins = some o → getC s o.ctx = some c → waitOf s o.tid ≠ some (.lineage id) →
     let s1 := o.pins.foldl (fun u m => sched u u.cycle (.pinDrop o.ctx m)) { s with lins := tdel id s.lins }
     (o.done = false → exec (.lineageOperation id) s = .next s1) ∧
     exec (.lineageReply id) s =
       .next (o.out.foldl (fun u e => if e.2.kind = .tens then sched u u.cycle (.pinDrop o.ctx (tensTid e.2.bits)) else u) s1)) ∧
   (∀ (ctx m : Nat) (s : State) (c : Ctx) (n : Node), getC s ctx = some c → tget m c.nodes = some n →
     ∃ w, exec (.pinDrop ctx m) s = .next (setC s ctx w) ∧
       (n.state ≠ .dead ∨ n.pins ≠ 1 → n.pins ≠ 0 → tget m w.nodes = some { n with pins := n.pins - 1 } ∧ ∀ j ≠ m, tget j w.nodes = tget j c.nodes) ∧
       (n.state = .dead → n.pins = 1 → n.parent ≠ m → tget n.parent c.nodes = none →
         tget m w.nodes = none ∧ w.freed = c.freed ++ [m] ∧ w.pool = c.pool + n.sectors)) ∧
   (∀ (ctx m : Nat) (s : State) (c : Ctx) (n : Node) (r : LinResult), getC s ctx = some c → tget m c.nodes = some n → n.state ≠ .retired →
     n.state ≠ .dead → descPoisoned s ctx c m = false → splicePoisoned s ctx c (freeSplice c m) = false → linFree c false m n = .ok r → exec (.hostTensorFree ctx m) s = .next (setC s ctx r.ctx))) ∧
  (∀ (s : State) (o : LinOp) (c : Ctx), getC s o.ctx = some c →
     let cl := o.tid / 256
     let b := o.a.bits
     let m := tensTid b
     let done := fun (x : LinDone) (c' : Ctx) (rs : List (Nat × GReg)) => linPerform s o c = .ok x ∧ x.st = setC s o.ctx c' ∧ x.out = rs
     let gave := fun (f : Bool) (st : Reg) (k : Nat) => if f = true then [(st.val, dataOf k)] else []
     let view := fun (k perm rb rn cb cn : Nat) => (⟨.tens, mkTens k perm rb rn cb cn⟩ : GReg)
     let rest := fun (c' : Ctx) (ks : List Nat) => ∀ j, j ∉ ks → tget j c'.nodes = tget j c.nodes
     let words := fun (k : Nat) => ∀ l, (resolve c k l).1.length = 32 ∧ ∀ w ∈ (resolve c k l).1, w < 2 ^ 32
     let same := fun (c' : Ctx) (k j : Nat) => ∀ l, (resolve c' k l).1 = (resolve c j l).1
     let chain := fun (k : Nat) => k ≠ 0 ∧ k ∉ ancestors c.nodes chainFuel k ∧ (ancestors c.nodes chainFuel k).length < 32
     (∀ (rows cols : BitVec 24) (fmt : Fmt) (maxd : BitVec 4) (d ra rb : Reg), o.op = .tnew rows cols fmt maxd d ra rb →
       (freeTid c = none → linPerform s o c = .error (.pool, 2 ^ 63)) ∧
       (c.nextTid < 2 ^ 20 → freeTid c = some c.nextTid) ∧ (2 ^ 20 ≤ c.nextTid → freeTid c = c.freed.head?) ∧
       ∀ k, freeTid c = some k → ∃ x c', done x c' [(d.val, view k 15 0 rows.toNat 0 cols.toNat)] ∧ x.time = descTime cl (o.tid / 6144) [k] + 8 ∧
         tget k c'.nodes = some ⟨c.serials + 1, 0, if fmt = .e2m1 then capBase b + capCur b else 0,
           if lo64 o.b % 2 ^ 16 = 0 then ceilDiv (cols.toNat * fmtWidth fmt) 1024 else lo64 o.b % 2 ^ 16, cols.toNat, rows.toNat, 1, 0, false,
           fmt.code, .live, maxd.toNat, 0, 0, o.tid / 6144, []⟩ ∧ rest c' [k] ∧ c'.serials = c.serials + 1 ∧ k ∉ c'.freed ∧ c'.pool = c.pool) ∧
     (∀ (q : Fin 4) (d ra : Reg), o.op = .tinfo q d ra →
       (tget m c.nodes = none ∨ o.a.kind = .data ∧ 2 ^ 20 ≤ lo64 o.a → ∃ x, linPerform s o c = .ok x ∧ x.st = s ∧ x.out = [(d.val, GReg.zero)]) ∧
       ∀ n, tget m c.nodes = some n → ¬(o.a.kind = .data ∧ 2 ^ 20 ≤ lo64 o.a) → descPoisoned s o.ctx c m = false →
         n.parent < 2 ^ 20 → n.rows < 2 ^ 24 → n.cols < 2 ^ 24 → ∃ x v, linPerform s o c = .ok x ∧ x.st = s ∧
           x.out = [(d.val, dataOf (bits v (128 * q.val) 128))] ∧ bits v 0 20 = m ∧ bits v 20 20 = n.parent ∧ bits v 40 4 = n.depth % 16 ∧
           bits v 44 4 = n.maxd % 16 ∧ bits v 48 4 = [NodeState.live, .frozen, .retired, .dead].idxOf n.state ∧ bits v 52 4 = n.fmt % 16 ∧
           bits v 56 8 = n.detached.toNat ∧ bits v 64 32 = n.children % 2 ^ 32 ∧ bits v 96 32 = n.pins % 2 ^ 32 ∧ bits v 128 24 = n.rows ∧
           bits v 152 24 = n.cols ∧ bits v 176 16 = n.pitch % 2 ^ 16 ∧ bits v 192 64 = n.scale % 2 ^ 64 ∧ bits v 256 64 = 0 ∧
           bits v 320 32 = n.sectors % 2 ^ 32 ∧ bits v 352 32 = 0 ∧ bits v 384 64 = n.serial % 2 ^ 64 ∧ v < 2 ^ 448) ∧
     (∀ n, tget m c.nodes = some n → n.state = .live ∨ n.state = .frozen → descPoisoned s o.ctx c m = false →
       (∀ (cb cn : BitVec 24) (keep : BitVec 4) (d ra rb : Reg), o.op = .topen cb cn keep d ra rb → o.a.kind = .data ∨ o.a.kind = .tens →
         (o.a.kind = .data → lo64 o.a < 2 ^ 20) →
         let src : QWord := if o.a.kind = .data then mkTens m 15 0 n.rows 0 n.cols else b
         let r0 := lo64 o.b % 2 ^ 24
         let rn := if lo64 o.b / 2 ^ 24 % 2 ^ 24 = 0 then tensRown src - r0 else lo64 o.b / 2 ^ 24 % 2 ^ 24
         let n' := if cn = 0 then tensColn src - cb.toNat else cn.toNat
         (1 ≤ rn → r0 + rn ≤ tensRown src → 1 ≤ n' → cb.toNat + n' ≤ tensColn src → (n.fmt = 5 → cb.toNat % 2 = 0 ∧ n' % 2 = 0) →
           ∃ x c', done x c' [(d.val, view (tensTid src) (Nat.land (bits src.toNat 20 4) keep.toNat) (tensRowb src + r0) rn
             (tensColb src + cb.toNat) n')] ∧ tget m c'.nodes = some { n with pins := n.pins + 1 } ∧ rest c' [m] ∧
             x.time = descTime cl n.die [m] + 8) ∧
         (rn = 0 ∨ tensRown src < r0 + rn → linPerform s o c = .error (.bounds, lo64 o.b))) ∧
       (∀ (ft nf : Bool) (d ra st : Reg), o.op = .fork ft nf d ra st →
         (n.depth + 1 ≤ n.maxd → ∀ k, freeTid c = some k → ∃ r x, linFork c ft nf m n = .ok r ∧
           done x r.ctx ((d.val, view k 15 0 n.rows 0 n.cols) :: gave (ft || nf) st 0)) ∧
         (n.depth + 1 ≤ n.maxd → freeTid c = none → (ft = true → ∃ x, done x c (gave true st 3)) ∧
           (ft = false → linPerform s o c = .error (.pool, 2 ^ 63 + m))) ∧
         (n.maxd < n.depth + 1 → nf = true → reencodePoisoned s o.ctx c m 0 = false → ∃ x, done x c (gave true st 2)) ∧
         (n.maxd < n.depth + 1 → nf = false → reencodePoisoned s o.ctx c m 0 = false → ∀ k r, freeTid c = some k → linFork c ft nf m n = .ok r →
           r.code = 0 → words m → m ≠ 0 → ∃ x child, done x r.ctx ((d.val, view k 15 0 n.rows 0 n.cols) :: gave ft st 0) ∧
             tget k r.ctx.nodes = some child ∧ child.parent = 0 ∧ child.depth = 0 ∧ child.state = .live ∧ child.detached = true ∧ child.pins = 1 ∧
             child.maxd = n.maxd ∧ rest r.ctx [k] ∧ same r.ctx k m)) ∧
       (∀ (ft : Bool) (ra st : Reg), o.op = .flat ft ra st → reencodePoisoned s o.ctx c m 0 = false → splicePoisoned s o.ctx c (removalSplice c m) = false →
         (n.parent = 0 → ∃ x, done x c (gave ft st 0)) ∧
         (n.parent ≠ 0 → removalSplice c m = none → chain m →
           (c.pool < growth c (reencode c m 0) → (ft = true → ∃ x, done x c (gave true st 1)) ∧
             (ft = false → linPerform s o c = .error (.pool, m))) ∧
           (growth c (reencode c m 0) ≤ c.pool → words m → ∃ x c' y, done x c' (gave ft st 0) ∧ tget m c'.nodes = some y ∧ y.parent = 0 ∧ y.depth = 0 ∧
             y.state = n.state ∧ y.detached = n.detached ∧ same c' m m ∧ ∀ p, tget n.parent c.nodes = some p → p.state ≠ .frozen ∨ 1 < p.children →
               (ancestors c.nodes chainFuel n.parent).contains m = false → ∃ p', tget n.parent c'.nodes = some p' ∧ p'.children = p.children - 1 ∧
                 p'.state = p.state ∧ p'.lines = p.lines))) ∧
       (∀ (ft : Bool) (ra rb st : Reg), o.op = .rebase ft ra rb st → o.b.kind = .tens ∨ lo64 o.b < 2 ^ 20 →
         let a := tensTid o.b.bits
         (tget a c.nodes = none ∨ a ∉ ancestors c.nodes chainFuel m → linPerform s o c = .error (.bounds, a)) ∧
         ∀ p, tget a c.nodes = some p → a ∈ ancestors c.nodes chainFuel m →
           (p.state = .retired → linPerform s o c = .error (.dead, a)) ∧
           (p.state ≠ .retired → reencodePoisoned s o.ctx c m a = false → removalSplice c m = none → chain m → chain a →
             m ∉ ancestors c.nodes chainFuel a → growth c (reencode c m a) ≤ c.pool → words m → words a →
             ∃ x c' y, done x c' (gave ft st 0) ∧ tget m c'.nodes = some y ∧ y.parent = a ∧ y.depth = p.depth + 1 ∧ y.state = n.state ∧
               same c' m m ∧ same c' a a ∧ (n.parent ≠ a → n.parent ≠ m → ∃ p', tget a c'.nodes = some p' ∧ p'.children = p.children + 1))) ∧
       (∀ (ft : Bool) (ra st : Reg), o.op = .tfree ft ra st → splicePoisoned s o.ctx c (freeSplice c m) = false →
         (2 ≤ (childrenOf c m).length → ∃ x c', done x c' (gave ft st 0) ∧ tget m c'.nodes = some { n with state := .retired } ∧ rest c' [m]) ∧
         (childrenOf c m = [] → freeSplice c m = none → n.pins ≠ 0 → n.parent ≠ m → ∃ x c', done x c' (gave ft st 0) ∧
           tget m c'.nodes = some { n with state := .dead, children := 0 } ∧ rest c' [m, n.parent] ∧
           ∀ p, tget n.parent c.nodes = some p → tget n.parent c'.nodes = some { p with
             pins := p.pins + 1, children := p.children - 1, state := if p.state = .frozen ∧ p.children - 1 = 0 then .live else p.state }) ∧
         (∀ k w, childrenOf c m = [k] → tget k c.nodes = some w → k ≠ m → k ≠ 0 → n.pins ≠ 0 → n.parent = 0 → tget 0 c.nodes = none →
           chain k → words k → growth c (reencode c k 0) ≤ c.pool → ∃ x c' y, done x c' (gave ft st 0) ∧ tget k c'.nodes = some y ∧
             y.parent = 0 ∧ y.depth = n.depth ∧ y.state = w.state ∧ same c' k k ∧
             ∃ z, tget m c'.nodes = some z ∧ z.state = .dead ∧ z.children = 0 ∧ z.lines = n.lines))) ∧
     (∀ n, tget m c.nodes = some n →
       let row := tensColn b * codeWidth n.fmt / 8
       let at_ := fun (i : Nat) => let y := tensColb b * codeWidth n.fmt / 8 + i % row
         ((tensRowb b + i / row) * n.pitch + y / 128, y % 128)
       let byteAt := fun (c' : Ctx) (p : Nat × Nat) => BitVec.ofNat 8 (wordByte (resolve c' m p.1).1 p.2)
       let fits := 0 < row ∧ tensColb b * codeWidth n.fmt / 8 + row ≤ n.pitch * 128
       let off := fun (off : Word) => s64 (lo64 o.b) + off.toInt
       let inRow := fun (x : Int) (k : Nat) => x % k = 0 ∧ 0 ≤ x ∧ x + k ≤ tensRown b * row ∧ x.toNat / row = (x.toNat + k - 1) / row
       let wrote := fun (c' : Ctx) (lo : Nat) (data : List Byte) => rest c' [m] ∧
         (∀ i (h : i < data.length), byteAt c' (at_ (lo + i)) = data[i]) ∧
         ∀ l j, j < 128 → (∀ i < data.length, at_ (lo + i) ≠ (l, j)) → byteAt c' (l, j) = byteAt c (l, j)
       let span := fun (x k : Nat) => ((List.range k).map (fun i => (at_ (x + i)).1)).eraseDups
       let count := fun (ls : List Nat) => (ls.map (fun l => (resolve c m l).2)).foldl Nat.max 1
       let short := fun (lo : Nat) (data : List Byte) => c.pool < growth c (viewWrite c n b (data.zipIdx.map (fun p => (lo + p.2, p.1)))).1
       fits →
       (∀ d ra : Reg, o.op = .trd d ra → (∀ p ∈ o.at_, reaches s o.ctx p = true) → linPoisoned s o.ctx c m (viewLines n b) = false → ∃ x,
         linPerform s o c = .ok x ∧ x.out = [] ∧ x.st = (perform s ⟨o.ctx, 0, 4, o.tid / 16, o.tid % 16, 0⟩
           (.post (o.at_.zip ((List.range (tensRown b * row)).map (fun i => byteAt c (at_ i))))) o.at_).1) ∧
       (∀ (sz : TSz) (d ra rx : Reg) (f : Word), o.op = .tld sz d ra rx f →
         (off f % tszBytes sz ≠ 0 → linPerform s o c = .error (.align, (off f % 2 ^ 64).toNat)) ∧
         (off f % tszBytes sz = 0 → ¬inRow (off f) (tszBytes sz) → linPerform s o c = .error (.bounds, (off f % 2 ^ 64).toNat)) ∧
         (inRow (off f) (tszBytes sz) → linPoisoned s o.ctx c m (span (off f).toNat (tszBytes sz)) = false → ∃ x, linPerform s o c = .ok x ∧ x.st = s ∧
           x.out = [(d.val, dataOf (leNat ((List.range (tszBytes sz)).map (fun i => byteAt c (at_ ((off f).toNat + i))))))] ∧
           x.time = linesTime cl n.die (span (off f).toNat (tszBytes sz)) + 8 * (count (span (off f).toNat (tszBytes sz)) - 1))) ∧
       (n.state = .live → chain m → words m → (n.parent ≠ 0 → words n.parent) →
         (∀ (ft : Bool) (sz : TSz) (d ra rx st : Reg) (f : Word), o.op = .tst ft sz d ra rx st f → inRow (off f) (tszBytes sz) →
           linPoisoned s o.ctx c m (span (off f).toNat (tszBytes sz)) = false →
           let data := toBytes (tszBytes sz) o.d.bits.toNat
           let lo := (off f).toNat
           (short lo data → (ft = true → ∃ x, done x c (gave true st 1)) ∧ (ft = false → linPerform s o c = .error (.pool, m))) ∧
           (¬short lo data → ∃ x c', done x c' (gave ft st 0) ∧ wrote c' lo data)) ∧
         (∀ (ft : Bool) (ra rb st : Reg), o.op = .twr ft ra rb st → (∀ p ∈ o.at_, reaches s o.ctx p = true) → poisoned s o.at_ = none →
           linPoisoned s o.ctx c m (viewLines n b) = false → o.at_.length = tensRown b * row →
           let data := o.at_.map (getByte s)
           (short 0 data → (ft = true → ∃ x, done x c (gave true st 1)) ∧ (ft = false → linPerform s o c = .error (.pool, m))) ∧
           (¬short 0 data → ∃ x c', done x c' (gave ft st 0) ∧ wrote c' 0 data))) ∧
       (n.state = .frozen →
         (∀ (ft : Bool) (sz : TSz) (d ra rx st : Reg) (f : Word), o.op = .tst ft sz d ra rx st f → inRow (off f) (tszBytes sz) →
           linPerform s o c = .error (.frozen, m + (at_ (off f).toNat).1 * 2 ^ 20)))))

/-- 15 R249, R252: a fork within its depth bound makes a child of one more depth that stores no line, so that every line of it resolves to the
parent's words; the parent becomes FROZEN with one child more. -/
def Obligations.ForkInheritsEveryLine : Prop :=
  ∀ (c : Ctx) (ft nf : Bool) (m k : Nat) (n : Node), tget m c.nodes = some n → n.depth + 1 ≤ n.maxd → freeTid c = some k → m ≠ 0 → k ≠ m →
    (∀ j x, tget j c.nodes = some x → x.parent ≠ k) →
    ∃ r child, linFork c ft nf m n = .ok r ∧ r.made = some k ∧ r.code = 0 ∧ r.lines = 0 ∧ tget k r.ctx.nodes = some child ∧
      child.parent = m ∧ child.depth = n.depth + 1 ∧ child.lines = [] ∧ child.state = .live ∧
      tget m r.ctx.nodes = some { n with children := n.children + 1, state := .frozen } ∧
      ∀ f l, (resolveLine r.ctx.nodes (f + 1) k l).1 = (resolveLine c.nodes f m l).1

/-- 15 R248: a line is stored so that it can be resolved: the encoder's words, XORed with the parent's when the tag says so, are the line's words; an
equal line is INHERIT. 15 R247: the stored form is the encoding's number of 32-byte sectors and decodes to the encoder's words; the encodings 101
and 110 decode to nothing. -/
def Obligations.LineEncodingIsFaithful : Prop :=
  ∀ (v q : List Nat) (root : Bool), v.length = 32 → q.length = 32 →
    let e := encodeLine v q root
    (e.1 = 0 → v = q) ∧ (e.1 ≠ 0 → e.1 < 8 → e.2 = v) ∧ (8 ≤ e.1 → root = false ∧ List.zipWith Nat.xor e.2 q = v) ∧
    ((∀ w ∈ v ++ q, w < 2 ^ 32) → e.1 ≠ 0 → let bs := storedForm (e.1 % 8) e.2
      bs.length = 32 * tagSectors e.1 ∧ ∀ l, (Line.mk l e.1 bs).words = some e.2) ∧
    ∀ l k bs, k % 8 = 5 ∨ k % 8 = 6 → (Line.mk l k bs).words = none

/-! ## Cocoons and Hawkmoth -/

/-- 17 R275-R280: CALLOC and CSHAPE reach their cluster's table 40 cycles on; CSPLIT reserves two entries, and it, CJOIN and CFREE wait until no
access through their handles is in flight. 17 R270, R275-R279: an operation alone at its table is served: CALLOC within the quota takes the lowest
free entry and the first fit of granules, or answers 2 or 1; CSPLIT gives the two halves of its tile in two handles and leaves its entry SPLIT;
CJOIN frees the halves and gives back the whole; CFREE frees the entry and has the granules scrubbed; CSHAPE reads the handle's shape; a consumed
handle is MOVED and each generation rises by one. A scrubbed run of granules reads zero and is free; the region is set only while there is no
context. -/
def Obligations.Cocoons : Prop :=
  (∀ (s : State) (i : Issue) (t v : Thread) (pop : Option InboxEntry), getT s i.tid = some v →
     let cl := i.tid / 256
     let asked := fun (j : Instr) (due : Option Nat) => ∃ u, exec j s = .next (finish pop i.tid u) ∧ TableAsked s u i.tid j due
     let live := fun (r : Reg) => (t.rd r).kind = .coc ∧ cocLive s cl (t.rd r).bits = true
     let entry := fun (r : Reg) => hltEntry s cl (cocHlt (t.rd r).bits)
     (∀ (d a : Reg), reading s [d, a] [a] = some (i, t, pop) → IsData t a → Free t d → badShape (low t a).toNat = false →
       asked (.calloc d a) (some (s.cycle + 40))) ∧
     (∀ (col : Bool) (d a b : Reg) (x y : Nat), reading s [d, nextReg d, a, b] [a, b] = some (i, t, pop) → live a → IsData t b →
       (d = a ∨ Free t d) → (nextReg d = a ∨ Free t (nextReg d)) → low t b ≠ 0 →
       (low t b).toNat < (if col then (entry a).ccount else (entry a).rcount) → freeHlt s cl 0 = some x → freeHlt s cl (x + 1) = some y →
       ∃ u, exec (.csplit col d a b) s = .next (finish pop i.tid u) ∧ TableAsked s u i.tid (.csplit col d a b) none ∧
         (hltEntry u cl x).state = .resv ∧ (hltEntry u cl y).state = .resv) ∧
     (∀ (d a b : Reg), reading s [d, a, b] [a, b] = some (i, t, pop) → live a → live b → (d = a ∨ d = b ∨ Free t d) → a ≠ b →
       (splitOf s cl (cocHlt (t.rd a).bits) (cocHlt (t.rd b).bits)).isSome = true → asked (.cjoin d a b) none) ∧
     (∀ (a : Reg), reading s [a] [a] = some (i, t, pop) → live a → (entry a).root = true → asked (.cfree a) none) ∧
     (∀ (d a : Reg), reading s [d, a] [a] = some (i, t, pop) → (t.rd a).kind = .coc → Free t d → asked (.cshape d a) (some (s.cycle + 40)))) ∧
  ((∀ (cl id : Nat) (s : State) (o : CocOp) (v : Thread), s.cocs = [(id, o)] → o.tid / 256 = cl → getT s o.tid = some v →
     waitOf s o.tid = some (.cocoon id) → (∀ k x, getO s k = some x → x.phase ≠ .ending) →
     let s1 := { s with cocs := [] }
     let served := fun (u : State) => exec (.cocoonTableServe cl) s = .next u
     (o.due = none → cocReady s o = true → served (cocStart s id o)) ∧
     (o.due = none → cocReady s o = false → served s) ∧
     (∀ c, o.due = some c → c ≤ s.cycle → ordersAccesses o = true → quiet s o.tid = false → served s) ∧
     (∀ c, o.due = some c → c ≤ s.cycle → (ordersAccesses o = true → quiet s o.tid = true) →
       (∀ d a, o.op = .calloc d a → served (serveCalloc s1 o v d)) ∧
       (∀ col d a b, o.op = .csplit col d a b → served (serveCsplit s1 o col d a)) ∧
       (∀ d a b, o.op = .cjoin d a b → served (serveCjoin s1 o d a b)) ∧
       (∀ a, o.op = .cfree a → served (serveCfree s1 o a)) ∧
       (∀ d a, o.op = .cshape d a → served (serveCshape s1 o d)))) ∧
   (∀ (s : State) (o : CocOp) (t v : Thread) (d : Reg) (w : Owner) (k g : Nat), getT s o.tid = some v → getO s t.owner = some w → v.popDue = none →
     let cl := o.tid / 256
     let x := lo64 o.a
     let p := ceilDiv (bits x 16 16 * codeWidth (bits x 32 4)) 1024
     let n := ceilDiv (bits x 0 16 * p) 16
     (2 * w.units < ownerGranules s t.owner + n → serveCalloc s o t d = takeFault s o.tid .bounds x) ∧
     (ownerGranules s t.owner + n ≤ 2 * w.units → freeHlt s cl 0 = none → serveCalloc s o t d = retirePast (setReg s o.tid d (dataOf 2)) o.tid) ∧
     (ownerGranules s t.owner + n ≤ 2 * w.units → freeHlt s cl 0 = some k → findGranules s cl n = none →
       serveCalloc s o t d = retirePast (setReg s o.tid d (dataOf 1)) o.tid) ∧
     (ownerGranules s t.owner + n ≤ 2 * w.units → freeHlt s cl 0 = some k → findGranules s cl n = some g →
     ∃ e s2, serveCalloc s o t d = retirePast (setReg s2 o.tid d ⟨.coc, cocOf k e⟩) o.tid ∧ s2.threads = s.threads ∧ e.state = HltState.leaf ∧ e.gen = (hltEntry s cl k).gen + 1 ∧ e.holder = some o.tid ∧ e.rcount = bits x 0 16 ∧ e.ccount = bits x 16 16 ∧
       e.tbase = g * 2048 ∧ e.pitch = p ∧ e.fmt = bits x 32 4 ∧ hltEntry (serveCalloc s o t d) cl k = e ∧
       (g, n) ∈ (clusterSt (serveCalloc s o t d) cl).granules)) ∧
   (∀ (s : State) (o : CocOp) (v : Thread) (d a b : Reg) (col : Bool), getT s o.tid = some v →
     let cl := o.tid / 256
     let j := cocHlt o.a.bits
     let k := cocHlt o.b.bits
     let e := hltEntry s cl j
     let n := lo64 o.b
     let moved := fun (u : State) (r : Reg) (ds : List Reg) => (v.rd r).kind = .coc → r ∉ ds → ∀ w, getT u o.tid = some w → (w.rd r).kind = .moved
     (o.x ≠ o.y → o.x ≠ j → o.y ≠ j → ∃ s2 x y,
       serveCsplit s o col d a = retirePast (setReg (setReg s2 o.tid d ⟨.coc, cocOf o.x x⟩) o.tid (nextReg d) ⟨.coc, cocOf o.y y⟩) o.tid ∧
       hltEntry s2 cl o.x = x ∧ hltEntry s2 cl o.y = y ∧
       (∀ q ∈ [x, y], q.state = .leaf ∧ q.root = false ∧ q.parent = j ∧ q.holder = some o.tid ∧ q.active = 0 ∧ q.tbase = e.tbase ∧
         q.pitch = e.pitch ∧ q.fmt = e.fmt ∧ q.owner = e.owner) ∧
       x.gen = (hltEntry s cl o.x).gen + 1 ∧ y.gen = (hltEntry s cl o.y).gen + 1 ∧
       (x.rstart, x.rcount, x.cstart, x.ccount) = (if col then (e.rstart, e.rcount, e.cstart, n) else (e.rstart, n, e.cstart, e.ccount)) ∧
       (y.rstart, y.rcount, y.cstart, y.ccount) =
         (if col then (e.rstart, e.rcount, e.cstart + n, e.ccount - n) else (e.rstart + n, e.rcount - n, e.cstart, e.ccount)) ∧
       (hltEntry s2 cl j).state = .split ∧ (hltEntry s2 cl j).child0 = o.x ∧ (hltEntry s2 cl j).child1 = o.y ∧ moved s2 a [d, nextReg d]) ∧
     (∀ p, splitOf s cl j k = some p → j ≠ k → p ≠ j → p ≠ k → ∃ s2,
       serveCjoin s o d a b = retirePast (dropAhead (setReg s2 o.tid d ⟨.coc, cocOf p (hltEntry s2 cl p)⟩) o.tid) o.tid ∧
       hltEntry s2 cl p = { hltEntry s cl p with state := .leaf, gen := (hltEntry s cl p).gen + 1, holder := some o.tid, active := 0 } ∧
       (hltEntry s2 cl j).state = .free ∧ (hltEntry s2 cl k).state = .free ∧ moved s2 a [d] ∧ moved s2 b [d]) ∧
     (∃ s2, serveCfree s o a = retirePast s2 o.tid ∧ (hltEntry s2 cl j).state = .free ∧ (hltEntry s2 cl j).gen = e.gen ∧
       (e.tbase / 2048, tileGranules e) ∈ (clusterSt s2 cl).scrubbing ∧ moved s2 a []) ∧
     (let h := o.a.bits
      serveCshape s o d = retirePast (setReg s o.tid d (dataOf (cocRstart h + cocRcount h * 2 ^ 16 + cocCstart h * 2 ^ 32 + cocCcount h * 2 ^ 48 +
        cocFmt h * 2 ^ 64 + (if cocR h then 2 ^ 68 else 0) + (if cocW h then 2 ^ 69 else 0) +
        (if cocLive s cl h = true ∧ e.root = true then 2 ^ 70 else 0) + cocPitch h * 2 ^ 72 + cocHlt h * 2 ^ 96))) o.tid)) ∧
   (∀ (s : State) (id : Nat) (o : CocOp), tget id (cocStart s id o).cocs = some { o with due := some (s.cycle + 40) } ∧
     (s.cycle + 40, Instr.cocoonTableServe (o.tid / 256)) ∈ (cocStart s id o).agenda ∧ (cocStart s id o).threads = s.threads ∧
     (cocStart s id o).mem = s.mem) ∧
   (∀ (cl first n : Nat) (s : State), first < 2 ^ 20 → (first, n) ∈ (clusterSt s cl).scrubbing →
     ∃ u, exec (.granuleScrubDone cl (first + n * 2 ^ 20)) s = .next u ∧
       (clusterSt u cl).scrubbing = (clusterSt s cl).scrubbing.erase (first, n) ∧ u.threads = s.threads ∧
       ∀ k < 16, ∀ o < n * 128, memGet (onchipBase + lsAddr (cl * 16 + k) (first * 128) + o) u.mem = 0) ∧
   (∀ (c : Nat) (s : State), s.dev.ready = true → s.ctxs = [] → c ≤ 32 →
     ∃ u, exec (.cocoonRegionSet c) s = .next u ∧ u.cocoonUnits = c ∧ u.mem = s.mem) ∧
   (∀ (c : Nat) (s : State), (s.dev.ready = false ∨ s.ctxs ≠ [] ∨ 32 < c) → exec (.cocoonRegionSet c) s = .next s))

/-- 18 R284, R289-R293: HSEL and HSELW whose checks pass go to their cluster's engine; HMASK without a held result answers 1, with one it joins the
queue; HSTAT reads the engine in its own turn (64 planes to pass read as 63: log entry 55, DESIGN CHOICE). 06 R119, 13 R229, R231, R239, 18
R286-R291: an engine begins its command by its kind; an array ends the task of one whose tile has been released (its MINIT claims again: log entry
21), keeps a drain with .REL back while other additions are due, asks the peer of an MDRAINA, and runs any other; a selection that completes
writes its value and counts, its engine is free, and its thread goes on, a selection with .HOLD leaving its survivors held; HMASK writes the held
mask and 0. -/
def Obligations.Selections : Prop :=
  (∀ (s : State) (i : Issue) (t v : Thread) (pop : Option InboxEntry), getT s i.tid = some v →
     let cl := i.tid / 256
     let shape := fun (x : HselX) (d : Reg) => x.kf ≠ .e2m1 ∧ x.kf ≠ .s8 ∧ d ≠ 0 ∧ d.val + 1 < t.nregs ∧ Free t d ∧ Free t (nextReg d) ∧
       1 ≤ x.n.toNat ∧ x.n.toNat ≤ 65536 ∧
       (if x.mv then (t.rd x.mr).kind = .cap ∧ (∃ w, capCheck (t.rd x.mr).bits Need.rd 0 (ceilDiv x.n.toNat 8) = .ok w) else x.mr = 0)
     let queued := fun (j : Instr) (x : HselX) (a b : Reg) => ∃ u, exec j s = .next (finish pop i.tid u) ∧ Submitted s u i.tid
       (newCmd j i.tid t (hawkOf i.tid) (t.rd a) (t.rd b) GReg.zero (if x.mv then t.rd x.mr else GReg.zero) s.cycle) .command
     let memory := fun (r : Reg) => (unpopped s i.tid t r).kind ∈ [Kind.cap, .coc, .tens]
     (∀ (asc : Bool) (x : HselX) (d a b : Reg), reading s [d, nextReg d, a, b, x.mr] (([b] ++ if x.mv then [x.mr] else []).filter (fun r => r != a)) =
       some (i, t, pop) →
       shape x d → memory a → IsData t b → x.n.toNat * (fmtWidth x.kf / 8) ≤ 524288 → needColumn s cl t a x.kf x.n.toNat = .ok () →
       queued (.hsel asc x d a b) x a b) ∧
     (∀ (wn : Bool) (x : HselX) (p : Word) (d a b : Reg),
       reading s [d, nextReg d, a, b, x.mr] ((if x.mv then [x.mr] else []).filter (fun r => r != a && r != b)) = some (i, t, pop) → shape x d → memory a → memory b →
       0 < p.toNat → p.toNat ≤ 0x3F800000 → x.n.toNat * (fmtWidth x.kf / 8 + 4) ≤ 524288 → needColumn s cl t a x.kf x.n.toNat = .ok () →
       needColumn s cl t b (if wn then .n32 else .f32) x.n.toNat = .ok () → queued (.hselw wn x p d a b) x a b) ∧
     (∀ (d a : Reg), reading s [d, a] [a] = some (i, t, pop) → (t.rd a).kind = .cap → Free t d →
       (heldBy s i.tid = none → exec (.hmask d a) s = .next (finish pop i.tid (result s i.tid d (dataOf 1)))) ∧
       (∀ h w ps, heldBy s i.tid = some h → capCheck (t.rd a).bits Need.st 0 (ceilDiv h.n 8) = .ok w →
         capRun s (i.tid / 16) t.ctx (t.rd a).bits false Need.st (runFuel (ceilDiv h.n 8)) w (ceilDiv h.n 8) = .ok ps → ps.all ownMemory = true →
         ∃ u, exec (.hmask d a) s = .next (finish pop i.tid u) ∧ Submitted s u i.tid
           (newCmd (.hmask d a) i.tid t (hawkOf i.tid) GReg.zero GReg.zero (t.rd a) GReg.zero s.cycle) .command)) ∧
     (∀ (d : Reg), reading s [d] [] = some (i, t, none) → Free t d →
       let e := engOf s (hawkOf i.tid)
       let plane := match e.exec with
         | some id => ((tget id s.cmds).map (planesLeft s)).getD 0
         | none => 0
       let h := match (clusterSt s cl).held with
         | some h => if h.tid = i.tid then 2 ^ 32 + h.n else 2 * 2 ^ 32
         | none => 0
       exec (.hstat d) s = .next (result s i.tid d (dataOf (h + min plane 63 * 2 ^ 34 + min e.queue.length 255 * 2 ^ 44))))) ∧
  (∀ (id : Nat) (s : State) (c : Cmd), tget id s.cmds = some c →
     (c.phase = .starting →
       (c.eng % 8 = 4 →
         let lost := fun (k : Nat) => k ∈ tilesNamed c.op ∧ (tileOf s (c.eng / 8) k).owner ≠ some c.owner
         let begins := c.adds.isSome = true ∨ (∀ k, ¬lost k) ∧ (c.err.isSome = true ∨ additionsDue s c = false)
         (c.adds = none → (∃ k, lost k) → (∀ x a, c.op ≠ .minit x a) → ∃ k, lost k ∧ exec (.engineAtStart id) s = .next (giveUp s id c 2 .perm k)) ∧
         (c.adds = none → (∃ k, lost k) → ∀ x a, c.op = .minit x a → exec (.engineAtStart id) s = .next (claimAgain s id c)) ∧
         (c.adds = none → (∀ k, ¬lost k) → c.err = none → additionsDue s c = true → exec (.engineAtStart id) s = .next (putBack s id c)) ∧
         (begins → addFields c.op = none → ∀ s1 data n mask, matStart s c = .ok (s1, data, n, mask) →
           exec (.engineAtStart id) s = .next (runFor s1 id { c with total := mask } data n)) ∧
         (begins → ∀ x y, addFields c.op = some (x, y) → c.adds = none → c.passed = 0 → exec (.engineAtStart id) s =
           .next (sched { s with cmds := tset id { c with phase := .confirming } s.cmds } (s.cycle + fabricTime (c.eng / 8) (peerOf c.a)) (.mdrainaConfirm id)))) ∧
       (c.eng % 8 = 5 → exec (.engineAtStart id) s = .next (startHawk s id c)) ∧
       (c.eng % 8 < 4 ∨ 5 < c.eng % 8 → exec (.engineAtStart id) s = .next (if isRing c then startRing s id c else startCopy s id c))) ∧
     (c.phase = .running → c.due = s.cycle →
       (∀ q r, selectionOf c.op = some q → c.run = some r → waitOf s c.tid = some (.command id) → r.poisoned = false →
         let v := selected q (passes q r.planes r)
         let k := clusterSt s (c.eng / 8)
         let s1 := if q.x.hold then setCluster s (c.eng / 8) { k with held := some ⟨c.tid, c.owner, q.x.n.toNat, v.2.2, false⟩ } else s
         exec (.hawkComplete id) s = .next (retirePast (countAt (setReg (setReg (endCmd s1 id false) c.tid q.d v.1) c.tid (nextReg q.d) v.2.1) c.tid
           c.counts) c.tid)) ∧
       (∀ d a, c.op = .hmask d a → exec (.hawkComplete id) s = .next (finishMask s id c d))))

/-- 18 R287: with k at least 1 and at most the number of candidates, the plane passes leave a selection of at least k elements: those above the value,
fewer than k, and those equal to it; no element left out is above the value. -/
def Obligations.PlanePassesSelectTheLargest : Prop :=
  ∀ (q : Selection) (r : HawkRun), q.weighted = false → r.none_ = false → r.aboveN = 0 → 1 ≤ r.total → r.total ≤ (maskMembers r.cand q.x.n.toNat).length →
    (∀ i < q.x.n.toNat, nth 0 i r.imgs < 2 ^ r.planes) →
    let u := passes q r.planes r
    let cs := maskMembers r.cand q.x.n.toNat
    let best := maskMembers u.cand q.x.n.toNat
    ∃ v, best ≠ [] ∧ u.aboveN = (cs.filter (fun i => v < nth 0 i r.imgs)).length ∧ best = cs.filter (fun i => nth 0 i r.imgs = v) ∧
      u.aboveN < r.total ∧ r.total ≤ u.aboveN + best.length

/-! ## Tasks, gates and completion signals -/

/-- 20 R305-R309: TSUB of 1 to 256 valid records with room for them, TDONE, GATE and QPOST go to the scheduler and park their thread; a TSUB without
room keeps the records it has read and parks for room; a TDONE with nothing to do goes on; TREC reads the task's record and placement; a gate
outside 1 to 65535 or an unregistered signal faults BOUNDS. -/
def Obligations.TaskInstructions : Prop :=
  ∀ (s : State) (i : Issue) (t v : Thread) (pop : Option InboxEntry), getT s i.tid = some v →
    let sent := fun (j : Instr) (g x : Nat) (rs : List (BitVec 256)) =>
      ∃ u, exec j s = .next (finish pop i.tid u) ∧ GateSent s u i.tid t j g x rs (.gate s.nextId)
    (∀ (a b : Reg) (time : DWord) (w : Nat) (ps : List Place) (c : Ctx), reading s [a, b] [a, b] = some (i, t, pop) →
      let n := (low t b).toNat
      let rs := readRecords s ps n
      (t.rd a).kind = .cap → IsData t b → 1 ≤ n → n ≤ 256 → capCheck (t.rd a).bits Need.rd 0 (32 * n) = .ok w → w % 32 = 0 →
      capRun s (i.tid / 16) t.ctx (t.rd a).bits false Need.rd (runFuel (32 * n)) w (32 * n) = .ok ps → ps.all ownMemory = true →
      quiet s i.tid = true → poisoned s ps = none → getC s t.ctx = some c → (∀ r ∈ rs, recValid c r = true) →
      (pendingRecords s t.ctx + n ≤ 65536 → sent (.tsub a b) 0 0 rs ∧ sent (.tsubAt a b time) 0 0 rs) ∧
      (65536 < pendingRecords s t.ctx + n → ∀ j ∈ [Instr.tsub a b, .tsubAt a b time], ∃ u o, exec j s = .next (finish pop i.tid u) ∧
        waitOf u i.tid = some .recordRoom ∧ tget s.nextId u.gates = some o ∧ o.op = j ∧ o.tid = i.tid ∧ o.records = rs ∧ o.sent = false ∧
        u.mem = s.mem)) ∧
    (∀ (o : Owner), reading s [] [] = some (i, t, pop) → getO s t.owner = some o →
      (o.isPop = true → exec .tdone s = .next (takeFault s i.tid .perm 0)) ∧
      (o.isPop = false → (o.donegDone = true ∨ recDoneg o.record = 0) → exec .tdone s = .next (advance s i.tid)) ∧
      (o.isPop = false → o.donegDone = false → recDoneg o.record ≠ 0 → quiet s i.tid = true → sent .tdone (recDoneg o.record) 0 [])) ∧
    (∀ (op : Sys2Proof.GateOp) (d a b : Reg), reading s [d, a, b] [a, b] = some (i, t, pop) → IsData t a → IsData t b → Free t d →
      let g := (low t a).toNat
      (1 ≤ g → g ≤ 65535 → sent (.gate op d a b) g ((low t b).toNat % 2 ^ 32) []) ∧
      ((g = 0 ∨ 65535 < g) → exec (.gate op d a b) s = .next (takeFault s i.tid .bounds g))) ∧
    (∀ (d : Reg) (o : Owner), reading s [d] [] = some (i, t, pop) → Free t d → getO s t.owner = some o →
      let gives := fun (q : Fin 3) (x : Nat) => exec (.trec q d) s = .next (result s i.tid d ⟨.data, BitVec.ofNat 128 x⟩)
      gives 0 (o.record.toNat % 2 ^ 128) ∧ gives 1 (o.record.toNat / 2 ^ 128) ∧
      gives 2 ((match getP s t.owner (i.tid / 16) with
        | some p => p.placed
        | none => o.placed) % 2 ^ 64 + (if o.isPop then 0 else o.prio) * 2 ^ 64 + o.pool * 2 ^ 72 + (if o.late then 2 ^ 76 else 0)
        + (if o.resumed then 2 ^ 77 else 0))) ∧
    (∀ (op : PostOp) (a b : Reg), reading s [a, b] [a, b] = some (i, t, pop) → IsData t a → IsData t b →
      let k := (low t a).toNat
      ((65535 < k ∨ sigEntry s t.ctx k = none) → exec (.qpost op a b) s = .next (takeFault s i.tid .bounds k)) ∧
      (∀ e, k ≤ 65535 → sigEntry s t.ctx k = some e → quiet s i.tid = true → ∃ u, exec (.qpost op a b) s = .next (finish pop i.tid u) ∧
        GateSent s u i.tid t (.qpost op a b) k (low t b).toNat [] (.qpost s.nextId)))

/-- 20 R302-R305: at its place in gate order a GATE sets, adds to (held in range, with a GATE_RANGE entry when it is) or reads the count of its gate;
a count that becomes zero makes the records that wait on the gate ready in their order; inserted records wait or are ready by their gates;
TSUB.AT's records wait for their time; the reply ends the park, and a save that waited for it is taken then. A TSUB that waits for room leaves
with the records it has kept as soon as there is room. -/
def Obligations.GateOperations : Prop :=
  ∀ (id : Nat) (s : State) (o : Machine.GateOp) (c : Ctx), tget id s.gates = some o → getC s o.ctx = some c →
    (o.sent = false → waitOf s o.tid = some .recordRoom →
      (65536 < pendingRecords s o.ctx + o.records.length → exec (.gateApply id) s = .next s) ∧
      (pendingRecords s o.ctx + o.records.length ≤ 65536 → ∃ u, exec (.gateApply id) s = .next u ∧ waitOf u o.tid = some (.gate id) ∧
        tget id u.gates = some { o with sent := true } ∧
        (s.cycle + gateTime (o.tid / 256) / 2, Instr.gateApply id) ∈ u.agenda ∧
        (s.cycle + gateTime (o.tid / 256), Instr.gateReply id) ∈ u.agenda ∧ u.mem = s.mem)) ∧
    (o.sent = true → o.applied = false →
    let old := gateCount c o.g
    let released := fun (n : Nat) => if old ≠ 0 ∧ n = 0 then (c.waiting.filter (fun w => w.1 == o.g)).map Prod.snd else []
    let becomes := fun (n : Nat) (held : Bool) => ∃ u c' p, exec (.gateApply id) s = .next u ∧ getC u o.ctx = some c' ∧ gateCount c' o.g = n ∧
      (∀ g, g ≠ o.g → gateCount c' g = gateCount c g) ∧
      c'.waiting = (if old ≠ 0 ∧ n = 0 then c.waiting.filter (fun w => w.1 != o.g) else c.waiting) ∧
      tget id u.gates = some p ∧ p.applied = true ∧ p.records = released n ∧ u.ready = s.ready ∧
      (held = false → c'.status = c.status) ∧
      (held = true → c.status.length < c.statusCap → ∃ e, c'.status = c.status ++ [e] ∧ bits e.toNat 0 8 = kGateRange)
    (∀ (d a b : Reg), o.op = .gate .set d a b → becomes o.v false) ∧
    (∀ (d a b : Reg), o.op = .gate .add d a b →
      let n : Int := (old : Int) + sextZ 32 o.v
      becomes (if n < 0 then 0 else if 2 ^ 32 - 1 < n then 2 ^ 32 - 1 else n.toNat) (n < 0 ∨ 2 ^ 32 - 1 < n)) ∧
    (∀ (d a b : Reg), o.op = .gate .read d a b → exec (.gateApply id) s = .next (gateDid s id o c [] old)) ∧
    (∀ (w : Owner), o.op = .tdone → getO s o.owner = some w → w.donegDone = false → 0 < old → old < 2 ^ 32 → becomes (old - 1) false) ∧
    (∀ (a b : Reg), o.op = .tsub a b → ∃ u c' p, exec (.gateApply id) s = .next u ∧ getC u o.ctx = some c' ∧ tget id u.gates = some p ∧
      p.records = o.records.filter (fun r => recWaitg r == 0 || gateCount c (recWaitg r) == 0) ∧
      c'.waiting = c.waiting ++ (o.records.filter (fun r => recWaitg r != 0 && gateCount c (recWaitg r) != 0)).map (fun r => (recWaitg r, r))) ∧
    (∀ (a b : Reg) (time : DWord), o.op = .tsubAt a b time → ∃ u, exec (.gateApply id) s = .next u ∧
      (time.toNat, Instr.tsubAtInsert id) ∈ u.timed ∧ getC u o.ctx = some { c with later := c.later + o.records.length }) ∧
    (∀ (k : PostOp) (a b : Reg), o.op = .qpost k a b → exec (.gateApply id) s =
      .next (sched { s with gates := tset id { o with applied := true } s.gates } s.cycle (.signalUpdate id)))) ∧
    (∀ (k : Sys2Proof.GateOp) (d a b : Reg), o.op = .gate k d a b → waitOf s o.tid = some (.gate id) →
      let s1 := setReg { s with gates := tdel id s.gates } o.tid d ⟨.data, BitVec.ofNat 128 o.result⟩
      exec (.gateReply id) s = .next (addReady (retireAnswered (if k = .read then dropAhead s1 o.tid else s1) o.tid) o.ctx o.records)) ∧
    (∀ (a b : Reg), o.op = .tdone ∨ o.op = .tsub a b → waitOf s o.tid = some (.gate id) →
      exec (.gateReply id) s = .next (addReady (retireAnswered { s with gates := tdel id s.gates } o.tid) o.ctx o.records)) ∧
    (∀ (a b : Reg) (time : DWord), o.op = .tsubAt a b time → waitOf s o.tid = some (.gate id) → exec (.gateReply id) s = .next
      (if o.v = 1 then addReady (retireAnswered { s with gates := tdel id s.gates } o.tid) o.ctx o.records
       else retireAnswered { s with gates := tset id { o with g := 1 } s.gates } o.tid)) ∧
    (∀ v, getT (retirePast s o.tid) o.tid = some v → retireAnswered s o.tid =
      (if v.preempt then saveThread (retirePast s o.tid) o.tid (allRegs v) else retirePast s o.tid)) ∧
    (let q := insertRecords { c with later := c.later - o.records.length } o.records
     (∀ p, o.pkt = some p → exec (.tsubAtInsert id) s = .next (sched (addReady { setC s o.ctx q.1 with gates := tdel id s.gates } o.ctx q.2)
       s.cycle (.packetComplete p))) ∧
     (o.pkt = none → o.g = 1 → exec (.tsubAtInsert id) s = .next (addReady { setC s o.ctx q.1 with gates := tdel id s.gates } o.ctx q.2)))

/-- 23 R347-R349: an update of an unarmed signal writes its 64-bit counter, to the value or to the sum modulo 2^64, and nothing is notified; an armed
entry whose condition holds is disarmed and notifies (there are 2,048 MSI-X vectors, 0 to 2047); the host writes an entry; QPOST's acknowledgement
retires it. -/
def Obligations.SignalUpdates : Prop :=
  (∀ (s : State) (ctx k v : Nat) (set_ : Bool) (e : BitVec 256), MemOk s → sigEntry s ctx k = some e → physExists (sigAddr e) = true → sigArmed e = false →
    leNat ((List.range 8).map (fun j => memGet (sigAddr e + j) (updateSignal s ctx k set_ v).mem)) =
      (if set_ then v else counterOf s e + v) % 2 ^ 64 ∧
    (∀ a, (a < sigAddr e ∨ sigAddr e + 8 ≤ a) → memGet a (updateSignal s ctx k set_ v).mem = memGet a s.mem) ∧
    (updateSignal s ctx k set_ v).dev = s.dev) ∧
  (∀ (id : Nat) (s : State) (o : Machine.GateOp) (k : PostOp) (a b : Reg), tget id s.gates = some o → o.op = .qpost k a b →
    exec (.signalUpdate id) s = .next (updateSignal s o.ctx o.g (k == .set) o.v) ∧
    (waitOf s o.tid = some (.qpost id) → exec (.qpostAcknowledgement id) s = .next (retireAnswered { s with gates := tdel id s.gates } o.tid))) ∧
  (∀ (s : State) (ctx k : Nat) (e : BitVec 256) (c : Ctx), sigEntry s ctx k = some e → getC s ctx = some c → sigArmed e = true →
    (if sigCond e then sigTarget e ≤ counterOf s e else counterOf s e ≤ sigTarget e) → sigNdesc e = 0 →
    ((tget (sigVec e * 16 + 12) s.dev.msix).getD 0).toNat % 2 = 0 →
    ∃ c' e', getC (notify s ctx k) ctx = some c' ∧ tget k c'.signals = some e' ∧ sigArmed e' = false ∧ sigValid e' = true ∧
      (notify s ctx k).dev.sent = s.dev.sent ++ (if sigVec e < 2048 then [(2 ^ 64 + sigVec e, 0)] else []) ∧ (notify s ctx k).mem = s.mem) ∧
  (∀ (ctx k : Nat) (e : BitVec 256) (s : State) (c : Ctx), s.dev.ready = true → k < 65536 → getC s ctx = some c → e.getLsbD 205 = false →
    exec (.signalEntryWrite ctx k e) s = .next (setC s ctx { c with signals := tset k (BitVec.ofNat 256 (e.toNat % 2 ^ 207)) c.signals }))

/-! ## Faults, translation, status entries -/

/-- 02 R36, R37, 21 R319-R321: an illegal encoding, a fetch without Execute or translation, and every fault of an instruction are taken alike: the
bundle has no effect, the pc stays on it, the thread parks, and a record with thread, context, cause, address and bundle goes to the error core; a
resolved fault has its bundle issued again at the first turn after the wake, and that issue writes FLT_CAUSE, FLT_ADDR and FLT_PC; a fault that is
not resolved writes them too. -/
def Obligations.FaultsAreTakenAndReplayed : Prop :=
  (∀ (s : State) (i : Issue) (t : Thread), issuer s = some (i, t) →
    exec .illegalEncoding s = .next (takeFault s i.tid .illegal t.pc.toNat) ∧
    ∀ (perm : Bool) (addr : Nat), exec (.fetchFault perm addr) s = .next (takeFault s i.tid (if perm then .perm else .xlate) addr)) ∧
  (∀ (s : State) (tid : Nat) (t : Thread) (c : Cause) (addr : Nat), getT s tid = some t →
    let u := takeFault s tid c addr
    (∃ f, tget s.nextId u.faults = some f ∧ f.tid = tid ∧ f.ctx = t.ctx ∧ f.owner = t.owner ∧ f.cause = c ∧ f.addr = BitVec.ofNat 64 addr ∧
      f.pc = t.pc ∧ f.taskid = taskidOf s t.owner) ∧
    getT u tid = some { t with status := .parked (.faultRec s.nextId), popDue := none, latch := none, late := none } ∧ (∀ k, k ≠ tid → getT u k = getT s k) ∧
    u.mem = s.mem ∧ u.tags = s.tags ∧ u.empties = s.empties ∧ (∃ d, s.cycle < d ∧ (d, Instr.faultDecision s.nextId) ∈ u.agenda)) ∧
  (∀ (s : State) (tid : Nat) (t : Thread) (f : FaultRec), getT s tid = some t → ∃ w, getT (replayThread s tid f) tid = some w ∧ w.status = .ready ∧
    w.pc = t.pc ∧ w.g = t.g ∧ s.cycle < w.nextIssue ∧ w.nextIssue ≤ s.cycle + 16 ∧ w.nextIssue % 16 = tid % 16 ∧
    ∀ c, (w.issue c).fltCause = BitVec.ofNat 8 f.cause.code ∧ (w.issue c).fltAddr = f.addr ∧ (w.issue c).fltPc = f.pc ∧ (w.issue c).pc = t.pc) ∧
  (∀ (s : State) (t : Thread) (f : FaultRec), getT s f.tid = some t → t.owner = f.owner →
    getT (writeFlt s f) f.tid = some { t with fltCause := BitVec.ofNat 8 f.cause.code, fltAddr := f.addr, fltPc := f.pc })

/-- 21 R321-R325, 01 R20: the memory core resolves a missing translation it can give and a sector shortage that the reserve meets, and the thread
replays; any other fault writes the thread's fault registers and ends the task or population; a soft error poisons its word, or a Hawkmoth's held
result, or faults its thread; a corrected error is only logged. 21 R335-R338: a free walker takes the oldest missing page; at the end of a walk
with a valid leaf the cluster holds the translation and the threads that waited for the page go on, a barrier's arriver in its next turn (11
R222), with none they fault XLATE, and an entry with an uncorrectable error gives SOFT_ERR; after a change of an entry no cluster holds a
translation of the page, and the change is reported done when the accesses translated through the old entry have been performed. -/
def Obligations.FaultDecisionsAndWalks : Prop :=
  ((∀ (r : Nat) (s : State) (f : FaultRec) (o : Owner), tget r s.faults = some f → f.tid < 2 ^ 32 → getO s f.owner = some o →
     let s1 := { s with faults := tdel r s.faults }
     (o.phase = .ending → exec (.faultDecision r) s = .next s1) ∧
     (o.phase ≠ .ending → resolvable s f = true → ∃ u d, exec (.faultDecision r) s = .next u ∧ s.cycle < d ∧
       (d, if f.cause = Cause.xlate then Instr.xlateResolve r else .poolResolve r) ∈ u.agenda ∧ u.threads = s.threads ∧ u.faults = s.faults) ∧
     (o.phase ≠ .ending → resolvable s f = false → exec (.faultDecision r) s = .next (endByFault
       (logError (writeFlt s1 f) f.ctx ⟨f.addr, f.taskid, 0, f.tid % 16, f.tid / 16, 0, f.cause.code, if f.cause = .softErr then 5 else 1⟩)
       f.tid f.ctx f.owner f.cause f.pc.toNat))) ∧
   (∀ (r : Nat) (s : State) (f : FaultRec) (c : Ctx), tget r s.faults = some f → f.tid < 2 ^ 32 → getC s f.ctx = some c →
     waitOf s f.tid = some (.faultRec r) →
     let va := f.addr.toNat
     let s1 := { s with faults := tdel r s.faults }
     ((pageWalk s f.ctx va).leaf.isSome = true → exec (.xlateResolve r) s = .next (replayThread s1 f.tid f)) ∧
     (∀ b, (pageWalk s f.ctx va).leaf = none → backingOf c va = some b →
       ∃ u w v, exec (.xlateResolve r) s = .next u ∧ getT s f.tid = some v ∧ getT u f.tid = some w ∧ w.status = .ready ∧ w.pc = v.pc ∧
         u.mem = (installEntry s f.ctx b.1.toNat b.2.1 b.2.2).mem) ∧
     exec (.poolResolve r) s = .next (replayThread (setC s1 f.ctx { c with pool := c.pool + min 65536 c.reserve,
                                                                           reserve := c.reserve - min 65536 c.reserve }) f.tid f)) ∧
   (∀ (key tid n : Nat) (s : State),
     exec (.softErr (.word key)) s = .next { s with poison := sadd (key / 4 * 4) s.poison } ∧
     exec (.softErr (.thread tid)) s = .next (takeFault (abandonOps s tid) tid .softErr 0) ∧
     (∃ u, exec (.softErr (.hawk n true)) s = .next u ∧ u.threads = s.threads ∧ u.mem = s.mem ∧
       (clusterSt u n).held = (clusterSt s n).held.map (fun h => { h with poisoned := true })) ∧
     (∀ id c, (engOf s (n * 8 + 5)).exec = some id → tget id s.cmds = some c → exec (.softErr (.hawk n false)) s =
       .next { s with cmds := tset id { c with run := c.run.map (fun r => { r with poisoned := true }) } s.cmds }) ∧
     exec (.eccCorrected n) s = .next { s with dev := { s.dev with corrected := s.dev.corrected ++ [n] } })) ∧
  ((∀ (cl : Nat) (s : State),
     let c := clusterSt s cl
     (4 ≤ (c.misses.filter Miss.walking).length → exec (.pageWalkStart cl) s = .next s) ∧
     (∀ m, (c.misses.filter Miss.walking).length < 4 → ((sortBy missOlder c.misses).take 256).find? (fun m => !m.walking) = some m →
       ∃ u, exec (.pageWalkStart cl) s = .next u ∧
         (s.cycle + walkTime s cl m.ctx m.va, Instr.walkComplete (walkName cl m.ctx m.va)) ∈ u.agenda ∧ u.threads = s.threads ∧
         (clusterSt u cl).misses = c.misses.map (fun x => if x.ctx = m.ctx ∧ x.va = m.va then { x with walking := true } else x))) ∧
   (∀ (cl ctx va : Nat) (s : State), ThreadsOk s → ctx < 64 → va < 2 ^ 57 →
     (clusterSt s cl).misses.any (fun m => m.ctx == ctx && m.va == va && m.walking) = true →
     (walkPoison s ctx va = none ∨ ∀ e ∈ s.cmds, e.2.phase ≠ .faulted) →
     ∃ u, exec (.walkComplete (walkName cl ctx va)) s = .next u ∧ u.mem = s.mem ∧
       (∀ e pb, walkPoison s ctx va = none → (pageWalk s ctx va).leaf = some (e, pb) → (clusterSt u cl).tlb = (⟨ctx, va / 2 ^ pb * 2 ^ pb, pb, e⟩ :: (clusterSt s cl).tlb).take 4096) ∧
       ∀ k t x, getT s k = some t → k / 256 = cl → t.ctx = ctx → t.status = .parked (.walk x) → pageOf x = va →
         ∃ w, getT u k = some w ∧ w.pc = t.pc ∧ w.g = t.g ∧
           (walkPoison s ctx va = none → (pageWalk s ctx va).leaf.isSome = true → if t.bundle.any (fun b => arrives b.first)
             then w.status = t.status ∧ (turnAfter s.cycle (k % 16), Instr.arrivalCounted k) ∈ u.agenda else w.status = .wake) ∧
           ((walkPoison s ctx va).isSome = true ∨ (pageWalk s ctx va).leaf = none → ∃ r f, w.status = .parked (.faultRec r) ∧
             tget r u.faults = some f ∧ f.tid = k ∧ f.cause = (if (walkPoison s ctx va).isSome then .softErr else .xlate))) ∧
   (∀ (ctx : Nat) (va : VAddr) (x : EntryChange) (level : Nat) (s : State), 1 ≤ level → level ≤ 4 →
     ∃ u c, exec (.translationChange ctx va x level) s = .next u ∧ u.threads = s.threads ∧ u.dev.changes = s.dev.changes ++ [c] ∧
       c.ctx = ctx ∧ c.va = va ∧ c.reply = x.reply ∧
       (∀ cl k e, (cl, k) ∈ u.clusters → e ∈ k.tlb → e.ctx = ctx →
         va.toNat / 2 ^ max (12 + 9 * (level - 1)) e.pbits ≠ e.va / 2 ^ max (12 + 9 * (level - 1)) e.pbits) ∧
       (∀ e pb, (pageWalk s ctx va.toNat).leaf = some (e, pb) → (entryPa e, 2 ^ pb) ∈ c.leaves) ∧
       (∀ z, getC s ctx = some z → c.leaves = oldLeaves s va.toNat level 4 z.root) ∧
       (∀ id r, tget id s.reqs = some r → r.performed = false → reqOf s ctx r = true → r.at_.any (underLeaf c.leaves) = true → id ∈ c.reqs) ∧
       (∀ id o, tget id s.lins = some o → o.ctx = ctx → o.at_.any (underLeaf c.leaves) = true → id ∈ c.lins) ∧
       (∀ k t, getT s k = some t → t.ctx = ctx → holdsPlace s c.leaves k = true → k ∈ c.tids)) ∧
   (∀ (s : State) (c : XlateChange), c ∈ s.dev.changes →
     let open_ := (∃ id ∈ c.reqs, ∃ r, tget id s.reqs = some r ∧ r.performed = false) ∨ (∃ id ∈ c.lins, ∃ o, tget id s.lins = some o) ∨
       ∃ k ∈ c.tids, holdsPlace s c.leaves k = true
     (open_ → c ∈ (settleChanges s).dev.changes) ∧
     (¬ open_ → (c.ctx, c.va) ∈ (settleChanges s).dev.changed ∧ toBytes 8 c.va.toNat ∈ (settleChanges s).dev.replies)))

/-- 04 R59, R60, R73, 20 R315, R317: threads of a placement become ready in the cycle it was given, or stay held until their release time, when they
issue at their first turn; with room the oldest waiting status entry is written, and the TRAP that waited for it goes on, or ends its task from
code 256 on. -/
def Obligations.ReadyThreadsAndStatusEntries : Prop :=
  (∀ (r : Nat) (s : State), ∃ u, exec (.threadReady r) s = .next u ∧ u.mem = s.mem ∧ ∀ k, getT u k = (getT s k).map (fun t =>
    if t.status = .launching ∧ t.nextIssue = s.cycle ∧ (if r < 49152 then k = r else readyName t.owner (k / 16) = r) then
      { t with
        status := if ((getO s t.owner).map (fun o => decide (s.time < o.notBefore))).getD false then .heldLaunch else .ready
        nextIssue := turnAfter s.cycle (k % 16) }
    else t)) ∧
  (∀ (owner core : Nat) (s : State), ∃ u, exec (.launchAtRelease owner core) s = .next u ∧ u.mem = s.mem ∧
    ∀ k, getT u k = (getT s k).map (fun t => if t.owner = owner ∧ k / 16 = core ∧ t.status = .heldLaunch then
      { t with status := .ready, nextIssue := turnFrom s.cycle (k % 16) } else t)) ∧
  (∀ (ctx : Nat) (s : State) (c : Ctx) (e : BitVec 256) (w : Option Nat) (rest : List (BitVec 256 × Option Nat)), getC s ctx = some c →
    c.statusWait = (e, w) :: rest → c.status.length < c.statusCap →
    let s1 := setC s ctx { c with status := c.status ++ [e], statusWait := rest }
    (w = none → exec (.statusEntryWrite ctx) s = .next s1) ∧
    (∀ tid t, w = some tid → getT s tid = some t → t.status = .parked .statusRoom → exec (.statusEntryWrite ctx) s =
      .next (if bits e.toNat 16 9 < 256 then retirePast s1 tid else endOwner s1 t.owner)))

/-! ## Dispatch, saves, Bridle -/

/-- 20 R310, R313: a pool's station decides nothing while dispatch is stopped, no task is ready or the pool has no core on the die; otherwise, of the
tasks that became ready before this cycle, the best that a core of the die takes is placed there when no better one is stuck. The best has the
highest priority, then the earliest key, then ready order, and the core has the most free slots, then the lowest number. 20 R299, R314: the host's
one assignment names every core's pool before any core has left pool 0 and any task is ready or placed; parameters in their ranges are set; a pool
that settles, is short of no core, or is full or fixed takes none at an evaluation, and evaluations come at the multiples of 1,000 ns (log entry
7, DESIGN CHOICE). -/
def Obligations.DispatchAndPools : Prop :=
  ((∀ (die pool : Nat) (s : State),
     let cs := (candsOf s pool).filter (fun c => c.ready.since < s.cycle)
     let can := cs.filter (fun c => !(takers s c die).isEmpty)
     let top := (can.map Cand.prio).foldl Nat.max 0
     let stuck := cs.filter (fun u => (can.isEmpty || decide (top < u.prio)) && unplaceable s u)
     let here := ∃ k < 384, poolOf s (die * 384 + k) = pool
     ((s.dev.activation.isSome = true ∨ candsOf s pool = [] ∨ ¬here) → exec (.dispatchDecision die pool) s = .next s) ∧
     (∀ c t, s.dev.activation = none → here → best can = some c → chooseCore s (takers s c die) = some t → best stuck = none →
       let s1 := placeCand s c t.1 t.2
       exec (.dispatchDecision die pool) s =
         .next (if (candsOf s1 pool).isEmpty then s1 else schedOnce s1 ((s.cycle / 4 + 1) * 4) (.dispatchDecision die pool)))) ∧
   (∀ (cs : List Cand) (c : Cand), best cs = some c → c ∈ cs ∧ ∀ x ∈ cs, x.prio ≤ c.prio ∧
     (x.prio = c.prio → keyBefore x.key c.key = false ∧ (keyBefore c.key x.key = false → c.ready.order ≤ x.ready.order))) ∧
   (∀ (s : State) (c : Cand) (die : Nat) (t : Nat × Nat), chooseCore s (takers s c die) = some t → t ∈ takers s c die ∧
     ∀ x ∈ takers s c die, (freeSlots s x.1).length ≤ (freeSlots s t.1).length ∧
       ((freeSlots s x.1).length = (freeSlots s t.1).length → t.1 ≤ x.1))) ∧
  ((∀ (pools : List Nat) (s : State),
     (s.dev.ready = true → s.assigned = false → s.pools = [] → s.owners = [] → s.ready = [] → pools.length = 3072 → (∀ p ∈ pools, p < 16) →
       ∃ u, exec (.poolAssign pools) s = .next u ∧ u.mem = s.mem ∧ u.assigned = true ∧ ∀ c < 3072, poolOf u c = nth 0 c pools) ∧
     ((s.assigned = true ∨ s.pools ≠ [] ∨ s.owners ≠ [] ∨ s.ready ≠ []) → exec (.poolAssign pools) s = .next s)) ∧
   (∀ (pool : Nat) (p : BridleParams) (s : State),
     let ok := s.dev.ready = true ∧ pool < 16 ∧ p.low < 65536 ∧ p.high < 65536 ∧ p.minc ≤ p.maxc ∧ p.maxc ≤ 3072 ∧ 1 ≤ p.step ∧ p.step ≤ 64
     (ok → exec (.bridleSet pool p) s =
       .next { s with bridle := tset pool ⟨p, ((tget pool s.bridle).map PoolSt.settling).getD false⟩ s.bridle }) ∧
     (¬ ok → exec (.bridleSet pool p) s = .next s)) ∧
   (∀ (pool : Nat) (s : State) (b : PoolSt), tget pool s.bridle = some b →
     exec (.settleExpire pool) s = .next { s with bridle := tset pool { b with settling := false } s.bridle } ∧
     ((b.settling = true ∨ occupancy s pool ≤ b.par.high ∨ b.par.maxc ≤ (poolCores s pool).length ∨ b.par.minc = b.par.maxc) →
       evaluatePool s pool = s)) ∧
   (∀ (s : State),
     (s.dev.ready = false → exec .bridleEvaluate s = .next s) ∧
     (s.dev.ready = true → exec .bridleEvaluate s =
       .next (schedAt ((List.range 16).foldl evaluatePool s) ((s.time / 1000 + 1) * 1000) .bridleEvaluate))))

/-- 04 R60, 20 R313: a placement launches its threads in the lowest free slots, each with its entry point, its record, argument and allocation in G1,
G2 and G4, and everything else cleared; a population takes a core as soon as the core can, before the tasks whose reservations on it have come
due; a scrubbed unit reads zero. -/
def Obligations.PlacementsLaunchThreads : Prop :=
  let noneParkedIn := fun (s : State) (core off n : Nat) => ∀ p ∈ s.reqs, p.2.atWord = true → ∀ x, p.2.at_.head? = some x →
    placeKey x < onchipBase + lsAddr core off ∨ onchipBase + lsAddr core off + n ≤ placeKey x
  (∀ (s : State) (owner core unit0 slot : Nat) (o : Owner), getO s owner = some o → o.ovf = false → 5 ≤ o.nregs →
    s.poison = [] ∨ o.imageLen = 0 → noneParkedIn s core (unit0 * 4096) (max (o.units * 4096) o.imageLen) →
    slot ∈ (freeSlots s core).take o.threads → ∃ t, getT (placeOn s owner core unit0) (core * 16 + slot) = some t ∧ t.ctx = o.ctx ∧
      t.owner = owner ∧ t.nregs = o.nregs ∧ t.pc = o.entry ∧ t.status = .launching ∧ t.rd 0 = GReg.zero ∧
      t.rd 1 = capReg (recAddr (core * 16 + slot)) 32 0x41 ∧ t.rd 2 = word o.arg ∧ t.rd 4 = allocCap core unit0 o.units ∧
      (∀ r : Reg, 5 ≤ r.val → t.rd r = GReg.zero) ∧ t.m = List.replicate 8 0 ∧ t.groups = 0 ∧ t.rmode = 0 ∧ t.amax = 0 ∧ t.feLimit = 1024) ∧
  (∀ (owner core : Nat) (s : State) (o : Owner), getO s owner = some o →
    let can := canTake { s with reserved := [] } core (ownerShape o) none
    ((o.waiting.contains core = false ∨ can = none) → exec (.populationDeferredPlace owner core) s = .next (settleReservations s core)) ∧
    (∀ u, o.waiting.contains core = true → can = some u →
      let s1 := placeOn (setO s owner { o with waiting := o.waiting.erase core }) owner core u
      exec (.populationDeferredPlace owner core) s =
        .next (settleReservations (if s.time < o.notBefore then schedAt s1 o.notBefore (.launchAtRelease owner core) else s1) core))) ∧
  (∀ (core : Nat) (s : State), (∀ r ∈ s.reserved, r.core ≠ core) → settleReservations s core = s) ∧
  (∀ (core u : Nat) (s : State), noneParkedIn s core (u * 4096) 4096 → ∃ w, exec (.unitScrubDone core u) s = .next w ∧ w.threads = s.threads ∧
    (coreSt w core).scrubbing = (coreSt s core).scrubbing.filter (fun p => p.1 != u) ∧
    ∀ o < 4096, memGet (onchipBase + lsAddr core (u * 4096) + o) w.mem = 0)

/-- 04 R61: a task whose threads are gone and whose commands are complete ends, and so does a population on its last core; one with threads, commands,
stores on their way or accesses through its handles outstanding does not yet. -/
def Obligations.TasksEnd : Prop :=
  ∀ (owner core : Nat) (s0 : State),
    let s := pokeCore s0 core
    (getO s0 owner = none → exec (.taskEnd owner core) s0 = .next s) ∧
    (∀ o, getO s0 owner = some o → o.isPop = false →
      (liveThreads s0 owner ≠ [] → exec (.taskEnd owner core) s0 = .next s) ∧
      (liveThreads s0 owner = [] → (o.phase = .running ∨ o.phase = .ending) → ownerBusy s0 owner none = true →
        exec (.taskEnd owner core) s0 = .next s) ∧
      (liveThreads s0 owner = [] → (o.phase = .running ∨ o.phase = .ending) → ownerBusy s0 owner none = false → endWaits s0 owner = true →
        exec (.taskEnd owner core) s0 = .next (schedOnce s (s.cycle + 1) (.taskEnd owner core))) ∧
      (liveThreads s0 owner = [] → (o.phase = .running ∨ o.phase = .ending) → ownerBusy s0 owner none = false → endWaits s0 owner = false →
        exec (.taskEnd owner core) s0 = .next (endTask s owner o))) ∧
    (∀ o, getO s0 owner = some o → o.isPop = true → o.waiting = [] → liveThreads s0 owner = [] → ownerBusy s0 owner none = false →
      endWaits s0 owner = false → s0.places.any (fun p => p.2.owner == owner) = false → getP s0 owner core = none →
      exec (.taskEnd owner core) s0 = .next (activationStep (sched (releaseOwned s owner) s.cycle (.packetComplete o.pkt))))

/-- 21 R326-R328, R331, 18 R284: a thread of a pre-empted task is looked at each cycle until its save point, where it is saved once nothing it has
issued is outstanding; after PDIST every thread is; with all of them saved the shared state is written to the save record (a word of it with an
uncorrectable error ends the task), whose bytes stand in memory from then on, and the task is ready again; a held result returns to its engine
with its thread. -/
def Obligations.PreemptedTasksAreSaved : Prop :=
  (∀ (tid : Nat) (s : State) (t : Thread), getT s tid = some t →
    (t.preempt = false → exec (.threadSave tid) s = .next s) ∧
    (∀ live, t.preempt = true → t.status = .parked (.saving live) → exec (.threadSave tid) s =
      .next (if saveReady s tid then saveNow s tid live else schedOnce s (s.cycle + 1) (.threadSave tid))) ∧
    (∀ o, t.preempt = true → t.status = .ready → getO s t.owner = some o →
      (o.forced = false → exec (.threadSave tid) s = .next (schedOnce s (s.cycle + 1) (.threadSave tid))) ∧
      (o.forced = true → exec (.threadSave tid) s = .next
        (if saveReady (hold s tid t) tid then saveNow (hold s tid t) tid (allRegs t)
         else schedOnce (hold s tid t) (s.cycle + 1) (.threadSave tid))))) ∧
  (∀ (owner : Nat) (s : State) (o : Owner), getO s owner = some o →
    (∀ r, o.requested = some r → o.phase = .saving → r + o.pdist = s.cycle → o.record_ = none → exec (.forcedSave owner) s =
      .next ((liveThreads s owner).foldl (fun u tid => schedOnce u u.cycle (.threadSave tid)) (setO s owner { o with forced := true }))) ∧
    (o.requested = none → exec (.forcedSave owner) s = .next s) ∧
    (∀ p, placeOf s owner = some p → o.phase = .saving → o.saved ≠ [] → liveThreads s owner = [] → o.record_ = none →
      (saveWaits s owner p = true → exec (.taskSave owner) s = .next (schedOnce s (s.cycle + 1) (.taskSave owner))) ∧
      (saveWaits s owner p = false → savePoison s owner p = none → ∃ u, exec (.taskSave owner) s = .next u ∧
        getO u owner = some { o with record_ := some (buildRecord s owner o p) } ∧ u.mem = s.mem ∧ u.threads = s.threads ∧
        (s.cycle + ceilDiv (recordSize (buildRecord s owner o p)) 64 +
          placeTime (p.core / 16) (.phys (freeArea s o.ctx)), Instr.taskSaveComplete owner) ∈ u.agenda) ∧
      (∀ w v rest, saveWaits s owner p = false → savePoison s owner p = some w → o.saved = v :: rest → exec (.taskSave owner) s =
        .next (endThreadFault s ⟨p.core * 16 + v.slot, o.ctx, owner, .softErr, BitVec.ofNat 64 (w % onchipBase), v.t.pc, taskidOf s owner⟩))) ∧
    (∀ r, o.record_ = some r → o.phase = .saving →
      let s1 := setO (releaseWritten (writeRecordBytes s owner o r) owner r) owner { o with phase := .saved }
      let s2 := if r.toCore then s1 else releasePlace s1 owner r.home
      exec (.taskSaveComplete owner) s =
        .next (kickPool (coreFreed { s2 with ready := s2.ready ++ [⟨o.order, s.cycle, o.ctx, o.record, some owner⟩] } r.home) o.pool))) ∧
  (∀ (cl : Nat) (s : State), (∀ c ∈ s.cmds, c.2.phase ≠ .stopped) →
    ((clusterSt s cl).restoring = [] → exec (.heldResultRestore cl) s = .next s) ∧
    (∀ h t p, (clusterSt s cl).restoring = [h] → (engOf s (cl * 8 + 5)).exec = none → (clusterSt s cl).held = none → getT s h.tid = some t →
      t.status = .launching → getP s t.owner (h.tid / 16) = some p → p.ready ≤ s.cycle →
      ∃ u, exec (.heldResultRestore cl) s = .next u ∧ (clusterSt u cl).held = some h ∧ (clusterSt u cl).restoring = [] ∧
        getT u h.tid = some { t with status := .ready, nextIssue := turnAfter s.cycle (h.tid % 16) }))

/-! ## Host queues and packets -/

/-- 23 R344, 20 R315: a queue is created once, with 16 to 65,536 packets; WPTR takes its value, and one that overruns the ring stops the queue in
ERROR with a QUEUE_ERROR entry; RESET makes RPTR equal to WPTR and the queue run, packets already begun apart. 20 R315: the fetcher takes the next
queue's packet; a packet that has arrived begins when the order rules and its time allow, and runs by its type, or puts its queue in ERROR, as one
with an uncorrectable error does (log entry 58, DESIGN CHOICE); at completion its signal loses 1 and packets behind it are looked at. -/
def Obligations.QueuesAndPackets : Prop :=
  (∀ (ctx q : Nat) (s : State) (c : Ctx), getC s ctx = some c → s.dev.ready = true →
     (∀ base k, tget q c.queues = none → q < 16 → 4 ≤ k → k ≤ 16 →
       exec (.queueCreate ctx q base k) s = .next (setC s ctx { c with queues := tset q ⟨1, 0, 0, base, k, []⟩ c.queues })) ∧
     (∀ base k, (tget q c.queues).isSome = true ∨ 16 ≤ q ∨ k < 4 ∨ 16 < k → exec (.queueCreate ctx q base k) s = .next s) ∧
     (∀ v w, tget q c.queues = some v → v.state = 1 ∨ v.state = 2 →
       ((v.state = 2 ∨ (w - v.rptr).toNat ≤ 2 ^ v.k) → ∃ u, exec (.wptr ctx q w) s = .next u ∧ queueOf u ctx q = some { v with wptr := w } ∧
         ((∃ d, d ≤ s.cycle + 16 ∧ (d, Instr.packetFetch) ∈ u.agenda) ∨ ∃ e ∈ u.agenda, e.2 = Instr.packetFetch)) ∧
       (v.state = 1 → 2 ^ v.k < (w - v.rptr).toNat → c.status.length < c.statusCap → ∃ u x e, exec (.wptr ctx q w) s = .next u ∧
         queueOf u ctx q = some { v with wptr := w, state := 2 } ∧ getC u ctx = some x ∧ x.status = c.status ++ [e] ∧
         bits e.toNat 0 8 = kQueueError ∧ bits e.toNat 128 64 = (v.base + 64 * (v.rptr.toNat % 2 ^ v.k)) % 2 ^ 64)) ∧
     (∀ v, tget q c.queues = some v → v.state = 1 ∨ v.state = 2 → ∃ u r, exec (.reset ctx q) s = .next u ∧ queueOf u ctx q = some r ∧
       r.rptr = v.wptr ∧ r.wptr = v.wptr ∧ r.state = 1 ∧ (∀ p ∈ u.pkts, p.2.ctx = ctx → p.2.q = q → p.2.phase = .begun) ∧
       ∀ p ∈ s.pkts, p.2.phase = .begun → p ∈ u.pkts)) ∧
  ((∀ (s : State) (ctx q : Nat) (v : Queue), nextQueue s = some (ctx, q, v) → ∀ c, getC s ctx = some c →
     let va := packetAddr v v.rptr.toNat
     let mapped := walkPoison s ctx va = none ∧ ∃ e pb, (pageWalk s ctx va).leaf = some (e, pb) ∧ leafAllows e false = true
     ∃ u p, exec .packetFetch s = .next u ∧ tget s.nextId u.pkts = some p ∧ p.ctx = ctx ∧ p.q = q ∧ p.va = va ∧
       queueOf u ctx q = some { v with rptr := v.rptr + 1, open_ := v.open_ ++ [s.nextId] } ∧
       (mapped → p.phase = .fetching ∧ (s.cycle + frontTime s ctx va, Instr.packetBegin s.nextId) ∈ u.agenda) ∧
       (¬ mapped → p.phase = .stalled ∧ ∃ d, s.cycle < d ∧ (d, Instr.packetBegin s.nextId) ∈ u.agenda)) ∧
   (∀ (s : State), nextQueue s = none → exec .packetFetch s = .next s) ∧
   (∀ (id : Nat) (s : State) (p : Pkt) (v : Queue), tget id s.pkts = some p → queueOf s p.ctx p.q = some v →
     let arrived := BitVec.ofNat 512 (leNat (virtBytes s p.ctx p.va 64))
     (p.phase = .fetching → (virtPoison s p.ctx p.va 64).isSome = true → exec (.packetBegin id) s = .next (queueError s p.ctx p.q p.va)) ∧
     (p.phase = .fetching → virtPoison s p.ctx p.va 64 = none →
       exec (.packetBegin id) s = tryBegin { s with pkts := tset id { p with phase := .fetched, bits := arrived } s.pkts } id
         { p with phase := .fetched, bits := arrived } v) ∧
     (p.phase = .stalled →
       (mapFor s p.ctx p.va false = none → exec (.packetBegin id) s = .next (queueError s p.ctx p.q p.va)) ∧
       (∀ s1, mapFor s p.ctx p.va false = some s1 →
         let s2 := { s1 with pkts := tset id { p with phase := .fetching } s1.pkts }
         exec (.packetBegin id) s = .next (wakeFetcher (sched s2 (s.cycle + frontTime s2 p.ctx p.va) (.packetBegin id))))) ∧
     (p.phase = .fetched →
       ((v.state ≠ 1 ∨ mayBegin s v id p = false) → exec (.packetBegin id) s = .next s) ∧
       (v.state = 1 → mayBegin s v id p = true → pktValid s p = false → exec (.packetBegin id) s = .next (queueError s p.ctx p.q p.va)) ∧
       (v.state = 1 → mayBegin s v id p = true → pktValid s p = true → pktAt p = true → 2 < pktType p → s.time < pktNbt p →
         exec (.packetBegin id) s = .next (schedAt s (pktNbt p) (.packetBegin id))) ∧
       (v.state = 1 → mayBegin s v id p = true → pktValid s p = true → (pktType p = 1 → s.dev.activation = none) →
         (pktAt p = false ∨ pktType p ≤ 2 ∨ pktNbt p ≤ s.time) →
         exec (.packetBegin id) s = runPacket (lookAgain { s with pkts := tset id { p with phase := .begun } s.pkts } v) id (pktType p))) ∧
     (p.phase = .begun →
       let w := { v with open_ := v.open_.filter (fun j => j != id) }
       let s1 := { s with pkts := tdel id s.pkts }
       let s2 := lookAgain (setQueue s1 p.ctx p.q w) w
       exec (.packetComplete id) s =
         .next (if pktSig p then issueSignal s2 p.ctx 0 (pktField p 2 2) false (2 ^ 64 - 1) none else s2))))

/-- 20 R315, R316, 23 R351: each type of packet that has begun: LAUNCH makes a population that waits for every core of its pool and class, TASKS reads
its records once and inserts them or waits, SIGNAL updates its signal, WAIT completes on its condition, TIMER writes TIME, COPY goes to a copy
engine or over Otain in flits of at most 232 bytes, FENCE completes. One whose memory cannot be read or written, or with an invalid record, is
over, and its queue is in ERROR, with one entry. -/
def Obligations.PacketResults : Prop :=
  ∀ (id : Nat) (s : State) (p : Pkt),
    let kind := fun (n : Nat) => begunPkt s id n = some p
    (∀ s0 block, kind 1 → frontRead s p.ctx (pktField p 32 8) 32 = some (s0, block) →
      let cores := popCores s (launchField p 0 4) (launchField p 28 2)
      let sn := takeSerial s0 p.ctx
      ∃ o, o.isPop = true ∧ o.ctx = p.ctx ∧ o.pkt = id ∧ o.entry = BitVec.ofNat 57 (pktField p 16 8) ∧ o.threads = launchField p 4 5 ∧
        o.nregs = 8 * (launchField p 9 2 + 1) ∧ o.units = launchField p 11 7 ∧ o.nbars = launchField p 18 10 ∧ o.ovf = (launchField p 30 1 == 1) ∧
        o.arg = BitVec.ofNat 64 (pktField p 24 8) ∧ o.record = BitVec.ofNat 256 (leNat block) ∧ o.image = BitVec.ofNat 57 (pktField p 40 8) ∧
        o.imageLen = launchField p 31 19 ∧ o.waiting = cores ∧ o.serial = sn.1 ∧ o.notBefore = (if pktAt p then pktNbt p else 0) ∧
        exec (.launchPacket id) s = .next (sched (cores.foldl (fun u c => popPlace u sn.2.nextId c) (setO (fresh sn.2) sn.2.nextId o)) s.cycle
          (.taskEnd sn.2.nextId 0))) ∧
    (kind 1 → frontRead s p.ctx (pktField p 32 8) 32 = none → exec (.launchPacket id) s = .next (failPacket s id p)) ∧
    (kind 2 → p.records = none → frontRead s p.ctx (pktField p 16 8) (32 * pktField p 24 4) = none →
      exec (.tasksPacket id) s = .next (failPacket s id p)) ∧
    (∀ s0 rs c, kind 2 → (p.records = some rs ∧ s0 = s ∨ p.records = none ∧ ∃ bs,
        frontRead s p.ctx (pktField p 16 8) (32 * pktField p 24 4) = some (s0, bs) ∧ rs = pktRecords bs (pktField p 24 4)) → getC s0 p.ctx = some c →
      let valid := p.records = some rs ∨ ∀ r ∈ rs, recValid c r = true
      let room := pendingRecords s0 p.ctx + pktField p 24 4 ≤ 65536
      (¬valid → exec (.tasksPacket id) s = .next (failPacket s id p)) ∧
      (valid → ¬room → exec (.tasksPacket id) s =
        .next (sched { s0 with pkts := tset id { p with records := some rs } s0.pkts } (s.cycle + 1) (.packetBegin id))) ∧
      (valid → room → pktAt p = true → s.time < pktNbt p →
        ∃ u, exec (.tasksPacket id) s = .next u ∧ (pktNbt p, Instr.tsubAtInsert s0.nextId) ∈ u.timed ∧ u.ready = s0.ready) ∧
      (valid → room → (pktAt p = false ∨ pktNbt p ≤ s.time) →
        exec (.tasksPacket id) s = .next (pktDone (addReady (setC s0 p.ctx (insertRecords c rs).1) p.ctx (insertRecords c rs).2) id))) ∧
    (kind 3 → ∃ u o, exec (.signalPacket id) s = .next u ∧ tget s.nextId u.gates = some o ∧ o.ctx = p.ctx ∧ o.g = pktField p 16 2 ∧
      o.v = pktField p 24 8 ∧ o.pkt = some id ∧ (s.cycle, Instr.signalUpdate s.nextId) ∈ u.agenda) ∧
    (kind 4 → exec (.waitPacket id) s = .next (if waitMet s p then sched s s.cycle (.packetComplete id) else s)) ∧
    (∀ s1, kind 5 → mapRange s p.ctx (pktField p 16 8) true (pagesOf (pktField p 16 8) 8) = some s1 →
      let s2 := putVirt s1 p.ctx ((List.range 8).map (fun k => (pktField p 16 8 + k, BitVec.ofNat 8 (s.time / 256 ^ k))))
      exec (.timerPacket id) s = .next (sched s2 (s.cycle + frontTime s2 p.ctx (pktField p 16 8)) (.packetComplete id))) ∧
    (kind 5 → mapRange s p.ctx (pktField p 16 8) true (pagesOf (pktField p 16 8) 8) = none → exec (.timerPacket id) s = .next (failPacket s id p)) ∧
    (kind 6 →
      let a := pktField p 16 8
      let b := pktField p 24 8
      (domainAddr a = none → domainAddr b = none → ∃ u x, exec (.copyPacket id) s = .next u ∧ tget s.nextId u.cmds = some x ∧
        lo64 x.a = a ∧ lo64 x.d = b ∧ x.total = pktField p 32 8 ∧ x.adds = some id ∧ 8192 ≤ x.eng) ∧
      let n := pktField p 32 8
      let awaits := fun (u : State) => if n = 0 then sched u u.cycle (.packetComplete id) else { u with pkts := tset id { p with left := n } u.pkts }
      (∀ peer pa, domainAddr a = some (peer, pa) → exec (.copyPacket id) s =
        .next (if n = 0 then awaits s else sendOut (awaits s) peer (.read p.ctx pa n id))) ∧
      (∀ peer pa, domainAddr a = none → domainAddr b = some (peer, pa) → frontRead s p.ctx a n = none →
        exec (.copyPacket id) s = .next (failPacket s id p)) ∧
      (∀ peer pa s1 bs, domainAddr a = none → domainAddr b = some (peer, pa) → frontRead s p.ctx a n = some (s1, bs) →
        exec (.copyPacket id) s = .next (sendPieces (awaits s1) peer n bs (fun o x => .write p.ctx (pa + o) id x)))) ∧
    (kind 7 → exec (.fencePacket id) s = .next (sched s s.cycle (.packetComplete id))) ∧
    (∀ v c, queueOf s p.ctx p.q = some v → getC s p.ctx = some c → c.status.length < c.statusCap → ∃ w x e,
      queueOf (failPacket s id p) p.ctx p.q = some w ∧ w.state = 2 ∧ id ∉ w.open_ ∧ tget id (failPacket s id p).pkts = none ∧
      getC (failPacket s id p) p.ctx = some x ∧ bits e.toNat 0 8 = kQueueError ∧ x.status = if v.state = 2 then c.status else c.status ++ [e])

/-! ## Gondola and the host -/

/-- 23 R353-R355, 01 R18: a cold reset with an image the security core accepts leaves the module running it, with MEAS0 and MEAS1 (over the image's
header and body) extended, nothing alive and nothing in memory but what the host's memory held; it is ready at once only with no port up. With a
port up it is ready when it has joined a domain, once, which steps the counter forward and extends MEAS3. A refused image leaves it not ready. -/
def Obligations.BringUpAndDomains : Prop :=
  (∀ (s : State),
    let d := coldDevice s.dev
    let extended := fun (x : Nat) => BitVec.ofNat 384 (Config.sha384 (toBytes 48 0 ++ toBytes 48 x))
    let host := s.mem.filter (fun c => isHost c.1 && decide (c.1 < onchipBase))
    (imageOk d d.stored = true → ∃ u, exec .coldReset s = .next u ∧ u.dev.ready = !u.dev.ports.any Port.up ∧
      u.dev.running = some s.dev.stored ∧ u.dev.fwver = BitVec.ofNat 32 (fwVersion s.dev.stored) ∧
      nth 0 0 u.dev.meas = extended (Config.sha384 s.dev.rom) ∧
      nth 0 1 u.dev.meas = extended (Config.sha384 (s.dev.stored.bytes.take 0x100 ++ fwBody s.dev.stored)) ∧ u.dev.domain = none ∧
      u.time = 0 ∧ u.mem = host ∧ u.tags = [] ∧ u.empties = [] ∧ u.threads = [] ∧ u.ctxs = [] ∧ u.owners = [] ∧
      (u.dev.ready = true → (1000, Instr.bridleEvaluate) ∈ u.timed)) ∧
    (imageOk d d.stored = false → ∃ u, exec .coldReset s = .next u ∧ u.dev.ready = false ∧ u.dev.running = none ∧ u.threads = [] ∧
      u.mem = host)) ∧
  (∀ (domain time : Nat) (s : State),
    let ok := s.dev.ready = false ∧ s.dev.running.isSome = true ∧ (∃ p ∈ s.dev.ports, p.up = true) ∧ domain < 288 ∧ s.dev.domain = none ∧
      s.time ≤ time
    (ok → ∃ u, exec (.domainJoin domain time) s = .next u ∧ u.dev.ready = true ∧ u.time = time ∧ u.dev.domain = some domain ∧
      u.dev.meas = setNth (BitVec.ofNat 384 (Config.sha384 (toBytes 48 (nth 0 3 s.dev.meas).toNat ++
        toBytes 48 (Config.sha384 (toBytes 2 domain))))) 3 s.dev.meas ∧ ((time / 1000 + 1) * 1000, Instr.bridleEvaluate) ∈ u.timed ∧
      u.mem = s.mem ∧ u.threads = s.threads ∧ u.ctxs = s.ctxs) ∧
    (¬ ok → exec (.domainJoin domain time) s = .next s))

/-- 21 R333, 23 R352-R354: an image the security core refuses leaves the running one in place; with no task and no population an accepted one runs at
once; SVN_RAISE raises the fused minimum; an attestation answers nonce, measurements and versions in their order with the signature, in the host
memory its request names; MEAS4 to MEAS7 take the host's digests. -/
def Obligations.FirmwareAndMeasurements : Prop :=
  (∀ (img : FwImage) (reply : Nat) (s : State),
    ((s.dev.ready = false ∨ s.dev.activation.isSome = true ∨ imageOk s.dev img = false) → exec (.firmwareActivation ⟨img, reply⟩) s = .next s) ∧
    (s.dev.ready = true → s.dev.activation = none → imageOk s.dev img = true →
      exec (.firmwareActivation ⟨img, reply⟩) s = .next (activationStep ((s.owners.map Prod.fst).foldl requestPreempt
        { s with dev := { s.dev with activation := some ⟨img, false, reply⟩, activating := true } })) ∧
      (s.owners = [] → ∃ u, exec (.firmwareActivation ⟨img, reply⟩) s = .next u ∧ u.dev.running = some img ∧
        u.dev.fwver = BitVec.ofNat 32 (fwVersion img) ∧ u.dev.activation = none ∧ u.dev.activating = false))) ∧
  (∀ (s : State),
    (s.dev.activation = none → exec .forcedActivation s = .next s) ∧
    (∀ a, s.dev.activation = some a →
      exec .forcedActivation s = .next (activationStep { s with dev := { s.dev with activation := some { a with forced := true } } })) ∧
    (s.dev.running = none → exec .svnRaise s = .next s) ∧
    (∀ i, s.dev.running = some i → exec .svnRaise s = .next { s with dev := { s.dev with svnMin := max s.dev.svnMin (fwSvn i) } })) ∧
  (∀ (nonce : List Byte) (reply : Nat) (s : State) (i : FwImage), s.dev.running = some i → nonce.length = 32 → s.dev.meas.length = 8 →
    ∃ body u, exec (.attestationRequest ⟨nonce, reply⟩) s = .next u ∧
      (let bs := body ++ Config.ecdsaSign s.dev.deviceKey (Config.sha384 body)
       u.dev.replies = s.dev.replies ++ [bs] ∧ (physExists reply = true → isHost reply = true → u.mem = (putKeys s reply bs).mem)) ∧
      body.length = 436 ∧ body.take 32 = nonce ∧ (∀ k < 8, (body.drop (32 + 48 * k)).take 48 = toBytes 48 (nth 0 k s.dev.meas).toNat) ∧
      body.drop 416 = toBytes 4 (fwVersion i) ++ toBytes 4 (fwSvn i) ++ toBytes 2 (fwLayout i) ++ toBytes 2 (fwPrevLayout i) ++
        toBytes 8 s.dev.serialNo) ∧
  (∀ (k digest : Nat) (s : State),
    (s.dev.running.isSome = true → 4 ≤ k → k < 8 → digest < 2 ^ 384 → exec (.measurementExtend k digest) s = .next { s with dev := { s.dev with
      meas := setNth (BitVec.ofNat 384 (Config.sha384 (toBytes 48 (nth 0 k s.dev.meas).toNat ++ toBytes 48 digest))) k s.dev.meas } }) ∧
    ((k < 4 ∨ 8 ≤ k) → exec (.measurementExtend k digest) s = .next s))

/-- 23 R342-R344, R346, R350-R352: a 64-byte message enters a mailbox that has room; the host's write to a full MB7 is discarded and counted, a core's
message waits; a mailbox's oldest messages are taken, and those that waited move in. An access of a BAR reaches the register its offset names, and
one that no row names reads zero and ignores writes, as all but DEVSTATUS and the mailbox does while READY is 0; the host's AtomicOps are
performed at the counter, or at the BAR (DEDUCED, log entry 8). Flits are taken in order, once each; a bad CRC is replayed and 16 failed replays
retrain the port; what is sent stays in the port's retry buffer until it is acknowledged; a peer's transfer outside exported memory is refused. -/
def Obligations.MailboxesAndPorts : Prop :=
  (∀ (k : Nat) (bytes : List Byte) (s : State), k < 8 → s.dev.mailboxes.length = 8 → bytes.length = 64 →
    (mailboxFull s k = false → exec (.mailboxMessage k bytes) s = .next (drainMailbox (fileMessage s k bytes) k)) ∧
    (mailboxFull s k = true → exec (.mailboxMessage k bytes) s =
      .next (drainMailbox { s with dev := { s.dev with mailWait := s.dev.mailWait ++ [(k, bytes)] } } k)) ∧
    (mailboxFull s 7 = false → exec (.hostMailboxWrite bytes) s = .next (drainMailbox (fileMessage s 7 bytes) 7)) ∧
    (mailboxFull s 7 = true → exec (.hostMailboxWrite bytes) s =
      .next (drainMailbox { s with dev := { s.dev with mblost := if s.dev.mblost = 0xFFFF then 0xFFFF else s.dev.mblost + 1 } } 7)) ∧
    nth [] k (fileMessage s k bytes).dev.mailboxes = nth [] k s.dev.mailboxes ++ [bytes] ∧
    (let u := drainMailbox s k
     let waiting := fun (v : State) => (v.dev.mailWait.filter (fun m => m.1 == k)).map Prod.snd
     ∃ n moved, nth [] k u.dev.mailboxes = (nth [] k s.dev.mailboxes).drop n ++ moved ∧ waiting s = moved ++ waiting u ∧
       (moved ≠ [] → (nth [] k u.dev.mailboxes).length ≤ 32) ∧ (∀ j, j ≠ k → nth [] j u.dev.mailboxes = nth [] j s.dev.mailboxes) ∧
       u.dev.mblost = s.dev.mblost)) ∧
  (∀ (bar off n : Nat) (s : State),
    (exec (.barWrite (some bar) off (.read n)) s =
      .next { s with dev := { s.dev with completions := s.dev.completions ++ [(List.range n).map (fun k => barReads s bar (off + k))] } }) ∧
    (∀ k < 8, barReads s 0 (0xC0000 + k) = BitVec.ofNat 8 ((devStatus s).toNat / 2 ^ (8 * k))) ∧
    (barByte bar off = none → barReads s bar off = 0) ∧
    (s.dev.ready = false → (bar ≠ 0 ∨ off < 0xC0000 ∨ 0xC0008 ≤ off) → barReads s bar off = 0) ∧
    (∀ ctx q v k, s.dev.ready = true → ctx < 64 → q < 16 → queueOf s ctx q = some v → k < 4 →
      barReads s 0 (ctx * 0x1000 + q * 0x40 + k) = BitVec.ofNat 8 (v.wptr.toNat / 2 ^ (8 * k)) ∧
      barReads s 0 (ctx * 0x1000 + q * 0x40 + 8 + k) = BitVec.ofNat 8 (v.rptr.toNat / 2 ^ (8 * k)))) ∧
  (∀ (bar off : Nat) (bytes : List Byte) (s : State), bytes ≠ [] →
    ((∀ k < bytes.length, barByte bar (off + k) = none) → exec (.barWrite (some bar) off (.write bytes)) s = .next s) ∧
    (s.dev.ready = false → (∀ k < bytes.length, barByte bar (off + k) ≠ some (.mailbox 0)) → exec (.barWrite (some bar) off (.write bytes)) s = .next s) ∧
    (s.dev.ready = true → bar = 0 → 0xE0000 ≤ off → off + bytes.length ≤ 0xE0000 + 32768 → ∃ u,
      exec (.barWrite (some bar) off (.write bytes)) s = .next u ∧ (∀ k < bytes.length, tget (off - 0xE0000 + k) u.dev.msix = some (nth 0 k bytes)) ∧
      ∀ k, (k < off - 0xE0000 ∨ off - 0xE0000 + bytes.length ≤ k) → tget k u.dev.msix = tget k s.dev.msix)) ∧
  (∀ (ctx q i : Nat) (w : Word) (e : BitVec 256) (bytes : List Byte) (s : State), ctx < 64 → q < 16 → i < 65536 → bytes.length = 64 →
    exec (.barWrite (some 0) 0xC1000 (.write bytes)) s = exec (.hostMailboxWrite bytes) s ∧
    (s.dev.ready = true →
      exec (.barWrite (some 0) (ctx * 0x1000 + q * 0x40) (.write (toBytes 4 w.toNat))) s = exec (.wptr ctx q w) s ∧
      exec (.barWrite (some 0) (ctx * 0x1000 + q * 0x40 + 24) (.write [1])) s = exec (.reset ctx q) s ∧
      exec (.barWrite (some 2) (ctx * 0x200000 + i * 32) (.write (toBytes 32 e.toNat))) s = exec (.signalEntryWrite ctx i e) s)) ∧
  (∀ (bar off v expect new : Nat) (s : State), off % 8 = 0 →
    let old := (List.range 8).map (fun k => barReads s bar (off + k))
    let answered := fun (w : Option Nat) (u : State) => ∃ x,
      (if let some y := w then exec (.barWrite (some bar) off (.write (toBytes 8 (y % 2 ^ 64)))) s = .next x else x = s) ∧
      u = { x with dev := { x.dev with completions := x.dev.completions ++ [old] } }
    (∃ u, exec (.barWrite (some bar) off (.fetchAdd v)) s = .next u ∧ answered (some (leNat old + v)) u) ∧
    ∃ u, exec (.barWrite (some bar) off (.cas expect new)) s = .next u ∧ answered (if leNat old = expect then some new else none) u) ∧
  (∀ (addr v expect new : Nat) (s : State), MemOk s → addr % 8 = 0 → physExists addr = true →
    let counter := fun (u : State) => leNat ((List.range 8).map (fun k => memGet (addr + k) u.mem))
    (∃ u, exec (.barWrite none addr (.fetchAdd v)) s = .next u ∧ counter u = (counter s + v) % 2 ^ 64 ∧
      u.dev.completions = s.dev.completions ++ [toBytes 8 (counter s)]) ∧
    (∃ u, exec (.barWrite none addr (.cas expect new)) s = .next u ∧ counter u = (if counter s = expect then new % 2 ^ 64 else counter s) ∧
      u.dev.completions = s.dev.completions ++ [toBytes 8 (counter s)])) ∧
  (∀ (port : Nat) (f : Flit) (s : State), port < 18 → s.dev.ports.length = 18 →
    let p := portOf s port
    (p.up = false → exec (.portRetrain port) s = .next s ∧ exec (.flitReceive port f) s = .next s) ∧
    (p.up = true →
      (∃ u, exec (.portRetrain port) s = .next u ∧ ((portOf u port = { p with replays := 0 } ∧ ∀ q, q ≠ port → portOf u q = portOf s q) ∨
        ((portOf u port).up = false ∧ (portOf u port).retry = [] ∧
          (s.dev.running.isSome = true → s.dev.domain = none → (∀ q < 18, q ≠ port → (portOf s q).up = false) → u.dev.ready = true) ∧
          ∀ x ∈ p.retry, x.2 ∈ u.dev.unsent ∨ ∃ q n, (n, x.2) ∈ (portOf u q).retry))) ∧
      (f.crcOk = false → p.replays < 16 → exec (.flitReceive port f) s = .next (setPort s port { p with replays := p.replays + 1 })) ∧
      (f.crcOk = false → 16 ≤ p.replays → exec (.flitReceive port f) s = exec (.portRetrain port) s) ∧
      (f.crcOk = true →
        let p1 := { p with replays := 0, retry := p.retry.filter (fun x => decide (f.ack ≤ x.1)) }
        ((f.seq ≠ p.next ∨ bodyFits f.body = false) → exec (.flitReceive port f) s = .next (setPort s port p1)) ∧
        (f.seq = p.next → bodyFits f.body = true →
          let s1 := setPort s port { p1 with next := p.next + 1 }
          (∀ k bytes, f.body = .message k bytes → exec (.flitReceive port f) s = exec (.mailboxMessage k bytes) s1) ∧
          (∀ ns, f.body = .time ns → exec (.flitReceive port f) s = .next s1) ∧
          (∀ pkt n, f.body = .ack pkt n → exec (.flitReceive port f) s = .next (peerAnswered s1 pkt n)) ∧
          (∀ pkt, f.body = .refuse pkt → exec (.flitReceive port f) s = .next (refusedBy s1 pkt)) ∧
          (∀ pkt o bytes, f.body = .data pkt o bytes → exec (.flitReceive port f) s = .next (takeData s1 pkt o bytes)) ∧
          (∀ ctx addr pkt bytes, f.body = .write ctx addr pkt bytes → ∃ u, exec (.flitReceive port f) s = .next u ∧
            (admits s ctx addr bytes.length = false → u.mem = s.mem ∧ u.dev.outbound = s.dev.outbound ++ [⟨f.src, .refuse pkt⟩]) ∧
            (admits s ctx addr bytes.length = true → u.mem = (putKeys s addr bytes).mem ∧
              u.dev.outbound = s.dev.outbound ++ [⟨f.src, .ack pkt bytes.length⟩])) ∧
          (∀ ctx addr n pkt, f.body = .read ctx addr n pkt → ∃ u, exec (.flitReceive port f) s = .next u ∧ u.mem = s.mem ∧
            let bs := (List.range n).map (fun k => memGet (addr + k) s.mem)
            u.dev.outbound = s.dev.outbound ++ (if admits s ctx addr n = true ∧ poisonIn s addr n = none then
              (List.range ((n + 231) / 232)).map (fun k => ⟨f.src, .data pkt (232 * k) ((bs.drop (232 * k)).take 232)⟩)
              else [⟨f.src, .refuse pkt⟩])))))) ∧
  (∀ (peer : Nat) (b : FlitBody) (s : State), s.dev.ports.length = 18 →
    let u := sendOut s peer b
    u.dev.outbound = s.dev.outbound ++ [⟨peer, b⟩] ∧ u.mem = s.mem ∧
    ((∀ q < 18, (portOf s q).up = false) → u.dev.unsent = s.dev.unsent ++ [⟨peer, b⟩]) ∧
    ((∃ q < 18, (portOf s q).up = true) → ∃ q < 18, (portOf s q).up = true ∧
      (portOf u q).retry = (portOf s q).retry ++ [((portOf s q).seq, ⟨peer, b⟩)] ∧ (portOf u q).seq = (portOf s q).seq + 1)) ∧
  (∀ (id n : Nat) (s : State) (p : Pkt), begunPkt s id 6 = some p →
    refusedBy s id = failPacket s id p ∧
    (n < p.left → peerAnswered s id n = { s with pkts := tset id { p with left := p.left - n } s.pkts }) ∧
    (p.left ≤ n → (s.cycle, Instr.packetComplete id) ∈ (peerAnswered s id n).agenda))

/-- 13 R227, 05 R81, 03 R49-R51: a context is created once, with a partition in bounds and apart from every other's, which reads zero; a root is
Onchip where its BASE lies in the on-chip map and not otherwise (DEDUCED, log entry 57), and is registered where the rules allow it and refused
elsewhere; an image is loaded whole, or not at all and the host is told the address of the field or byte that stops it (log entry 63). -/
def Obligations.ContextsRootsAndImages : Prop :=
  (∀ (ctx : Nat) (p : CtxParams) (s : State),
    let ok := s.dev.ready = true ∧ ctx < 64 ∧ getC s ctx = none ∧ partitionOk s p = true ∧ p.root % 2 ^ 21 = 0 ∧ physExists p.root = true
    (¬ ok → exec (.contextCreate ctx p) s = .next s) ∧
    (ok → ∃ u, exec (.contextCreate ctx p) s = .next u ∧ getC u ctx = some (newCtx p) ∧ (∀ k, k ≠ ctx → getC u k = getC s k) ∧
      u.threads = s.threads ∧ ∀ cl < 192, ∀ o < 32768, ∀ k,
        (if isF4 cl then p.f4Base ≤ k ∧ k < p.f4Base + p.f4Count else p.b16Base ≤ k ∧ k < p.b16Base + p.b16Count) →
        memGet (placeKey (.bstore cl 0) + k * 32768 + o) u.mem = 0)) ∧
  (∀ (ctx k : Nat) (cap : QWord) (s : State) (c : Ctx), getC s ctx = some c → s.dev.ready = true → k < 16 →
    let r := mintedRoot cap
    let ok := if capOnchip r then rootPlaceOk s ctx (capBase r) (capLen r) else decide (capBase r + capLen r < 2 ^ 48)
    capOnchip r = (onchip (capBase cap) false).isSome ∧ (∀ j, j ≠ 118 → r.getLsbD j = cap.getLsbD j) ∧
    exec (.rootRegister ctx k cap) s = .next (if ok then setC s ctx { c with roots := tset k r c.roots } else s)) ∧
  (∀ (ctx : Nat) (img : Image) (s : State) (c : Ctx), getC s ctx = some c → s.dev.ready = true →
    (∀ u, loadImage ctx img c s = .ok u → exec (.imageLoad ctx img) s = .next u) ∧
    (∀ e, loadImage ctx img c s = .error e →
      let bs := toBytes 8 (e.getD 0)
      ∃ u, exec (.imageLoad ctx img) s = .next u ∧ u.dev.loadErrors = s.dev.loadErrors ++ [(ctx, e)] ∧ u.dev.replies = s.dev.replies ++ [bs] ∧
        u.mem = (if physExists img.reply = true ∧ isHost img.reply = true then (putKeys s img.reply bs).mem else s.mem) ∧ u.ctxs = s.ctxs ∧
        u.threads = s.threads) ∧
    (∀ b, img.bytes.find? (fun b => (physOf s ctx b.1).isNone) = some b → loadImage ctx img c s = .error (some b.1)) ∧
    (∀ f v rest, img.bytes.all (fun b => (physOf s ctx b.1).isSome) = true → img.relocs = (f, v) :: rest → fieldFits f v = false →
      loadImage ctx img c s = .error (some f.addr)))

/-! ## The machine as a whole -/

/-- 04 R66: NOP advances the pc past its bundle and changes nothing else. -/
def Obligations.NopOnlyAdvances : Prop :=
  ∀ (s : State) (i : Issue) (t v : Thread), reading s [] [] = some (i, t, none) → getT s i.tid = some v →
    exec .nop s = .next { s with threads := tset i.tid { v with pc := v.pc + BitVec.ofNat 57 v.size } s.threads }

/-- 05 R75: G0 reads as DATA zero, and so meets every check for DATA; a write to it is discarded; MOVE of G0 writes DATA zero to its destination and
leaves G0 as it is. -/
def Obligations.RegisterZero : Prop :=
  (∀ (t : Thread), t.rd 0 = ⟨.data, 0⟩ ∧ ∀ ks, Kind.data ∈ ks → needKinds ks 0 (t.rd 0) = .ok () ∧ needKind .data 0 (t.rd 0) = .ok ()) ∧
  (∀ (s : State) (tid : Nat) (v : GReg), setReg s tid 0 v = s) ∧
  (∀ (d : Reg) (s : State) (i : Issue) (t : Thread) (pop : Option InboxEntry), reading s [d, 0] [0] = some (i, t, pop) → Free t d →
    pop = none ∧ exec (.move d 0) s = .next (result s i.tid d ⟨.data, 0⟩) ∧ ∀ r, getT (result s i.tid d ⟨.data, 0⟩) i.tid = some r → r.rd 0 = ⟨.data, 0⟩)

/-- 04 R55: the turn that follows a wake in a cycle is the slot's first after it; a bundle issued in turn t and woken P cycles later has its next turn
at t + 16 x ceil((P + 1) / 16), at most 16 cycles after the wake; the bundle that is woken and retires takes that turn. -/
def Obligations.WakeTurns : Prop :=
  (∀ c slot : Nat, slot < 16 → c < turnAfter c slot ∧ turnAfter c slot ≤ c + 16 ∧ turnAfter c slot % 16 = slot ∧
    ∀ d, c < d → d % 16 = slot → turnAfter c slot ≤ d) ∧
  (∀ t p slot : Nat, slot < 16 → t % 16 = slot → turnAfter (t + p) slot = t + 16 * ((p + 1 + 15) / 16)) ∧
  (∀ (s : State) (tid : Nat) (v : Thread), getT s tid = some v → v.popDue = none → ∃ w, getT (retirePast s tid) tid = some w ∧
    w.status = .ready ∧ w.nextIssue = turnAfter s.cycle (tid % 16) ∧ w.pc = v.nextPc)

/-- 05 R85, R86, R90, 21 R318: an integer instruction with a MOVED operand faults MOVED and with one of another kind KIND, the fault naming the
register, in field order, a PORT in a pair too; one that would overwrite a handle faults KIND. (The fault address of a register is DEDUCED, log
entry 18.) -/
def Obligations.OperandKindFaults : Prop :=
  ∀ (d a b : Reg) (s : State) (i : Issue) (t : Thread) (pop : Option InboxEntry), reading s [d, a, b] [a, b] = some (i, t, pop) →
    ∀ j ∈ [Instr.add d a b, .sub d a b, .and d a b, .or d a b, .xor d a b, .andn d a b, .shl d a b, .shr d a b, .sra d a b, .rol d a b,
        .min d a b, .max d a b, .minn d a b, .maxn d a b, .slt d a b, .sltn d a b, .mul d a b, .mulh d a b, .mulhn d a b, .div d a b,
        .divn d a b, .rem d a b, .remn d a b],
      ((t.rd a).kind = .moved → exec j s = .next (takeFault s i.tid .moved a.val)) ∧
      ((t.rd a).kind ≠ .data → (t.rd a).kind ≠ .moved → exec j s = .next (takeFault s i.tid .kind a.val)) ∧
      (IsData t a → (t.rd b).kind = .moved → exec j s = .next (takeFault s i.tid .moved b.val)) ∧
      (IsData t a → (t.rd b).kind ≠ .data → (t.rd b).kind ≠ .moved → exec j s = .next (takeFault s i.tid .kind b.val)) ∧
      (IsData t a → IsData t b → (t.rd d).kind = .coc → exec j s = .next (takeFault s i.tid .kind d.val)) ∧
      ∀ (s2 : State) (k : Issue) (v : Thread), issuer s2 = some (k, v) → k.paired = true → firstPending v [d, a, b] = none →
        ((v.rd a).kind = .moved → exec j s2 = .next (takeFault s2 k.tid .moved a.val)) ∧
        ((v.rd a).kind = .port → exec j s2 = .next (takeFault s2 k.tid .kind a.val)) ∧
        (IsData v a → (v.rd b).kind = .port → exec j s2 = .next (takeFault s2 k.tid .kind b.val))

/-- 05 R85, R90, 07 R134: an instruction that computes a register from registers changes that register alone, whether it retires, waits or faults:
every other register, mask, group and private control register of the thread, every other thread, and every byte, tag and full/empty state of
memory is as before. MOVE also empties its source, and CVT may raise AMAX (07 R138). -/
def Obligations.RegisterInstructionsTouchNothingElse : Prop :=
  ∀ (d a b c : Reg) (k14 : BitVec 14) (sh : BitVec 6) (k19 : BitVec 19) (lit : DWord) (f : CapField) (rm : Rm) (p : FPred) (x y : Fmt)
    (crn : BitVec 9) (m : MReg) (s u : State) (i : Issue) (t : Thread), issuer s = some (i, t) →
    (∀ j ∈ [Instr.add d a b, .sub d a b, .and d a b, .or d a b, .xor d a b, .andn d a b, .shl d a b, .shr d a b, .sra d a b, .rol d a b,
        .min d a b, .max d a b, .minn d a b, .maxn d a b, .slt d a b, .sltn d a b, .mul d a b, .mulh d a b, .mulhn d a b, .div d a b,
        .divn d a b, .rem d a b, .remn d a b, .clz d a, .ctz d a, .popc d a, .sel d a b c, .addi d a k14, .andi d a k14, .ori d a k14,
        .xori d a k14, .slti d a k14, .shli d a sh, .shri d a sh, .srai d a sh, .li d k19, .liX d lit, .mov d a, .kind d a, .cget f d a,
        .csetb d a b, .csetp d a b, .csetc d a b, .cinc d a b, .fadd rm d a b, .fsub rm d a b, .fmul rm d a b, .fdiv rm d a b, .fsqrt rm d a,
        .fmin d a b, .fmax d a b, .fcmp p d a b, .fclass d a, .ffma rm d a b c, .img x d a, .imgi x d a, .crr crn d,
        .movmMg d m, .mpop d m, .mff d m],
      exec j s = .next u → RegisterFrame s u i.tid [d] ∧ SameAmax s u i.tid) ∧
    (exec (.cvt rm x y d a) s = .next u → RegisterFrame s u i.tid [d]) ∧
    (exec (.move d a) s = .next u → RegisterFrame s u i.tid [d, a] ∧ SameAmax s u i.tid)

/-- 23 R354, R355, 09 R176: right after reset nothing runs and no context exists, the measurement registers are zero, the device is not ready and its
bring-up is pending (log entry 5, DESIGN CHOICE); memory reads zero (log entry 4, DESIGN CHOICE), no word is EMPTY and none tagged; a barrier
never used has its reset values. -/
def Obligations.ResetState : Prop :=
  let s := State.reset
  MemOk s ∧ (∀ a, memGet a s.mem = 0) ∧ s.empties = [] ∧ s.tags = [] ∧ s.threads = [] ∧ s.ctxs = [] ∧ s.owners = [] ∧ s.time = 0 ∧
    s.dev.ready = false ∧ s.dev.running = none ∧ (∀ k < 8, nth 0 k s.dev.meas = (0 : BitVec 384)) ∧ s.dev.meas.length = 8 ∧
    s.agenda = [(0, .coldReset)] ∧ (∀ c, coreSt s c = CoreSt.reset) ∧ (∀ c, clusterSt s c = ClusterSt.reset) ∧ ThreadsOk s ∧
    Barrier.reset.count = 1 ∧ Barrier.reset.phase = 0 ∧ Barrier.reset.arrived = 0 ∧ Barrier.reset.err = none

/-- Every step keeps memory in the canonical form in which this model lists it, whatever the machine does in the step: addresses rise, and no byte is
listed that reads as an unlisted one (log entry 4). -/
def Obligations.MemoryStaysCanonical : Prop := ∀ (s u : State), MemOk s → step s = .next u → MemOk u

/-- 02 R21-R29: decoding the words of any well-formed bundle, single or pair, with every operand at every value its fields admit, gives the bundle
back. An event has no words and stands in no bundle. -/
def Obligations.DecodingUndoesEncoding : Prop :=  ∀ (n : Nat) (b : Bundle), Bundle.wf n b = true → b.first.enc ≠ .none → decodeBundle b.encode = some b

/-- 02 R22-R29: some words written out from the spec's templates stand for the instructions they encode: L, major opcode, D, A, B and FN each in its
place. -/
def Obligations.DecodedWords : Prop :=
  decodeBundle [0x0000003C] = some ⟨.nop, none⟩ ∧
  decodeBundle [0x00000004 + 3 * 0x100 + 4 * 0x2000 + 5 * 0x40000] = some ⟨.add 3 4 5, none⟩ ∧
  decodeBundle [0x00800004 + 31 * 0x100 + 30 * 0x2000 + 29 * 0x40000] = some ⟨.sub 31 30 29, none⟩ ∧
  decodeBundle [0x00000028 + 7 * 0x100 + 0x7FFFF * 0x2000] = some ⟨.li 7 0x7FFFF, none⟩ ∧
  decodeBundle [0x0000002A + 2 * 0x100, 0x89ABCDEF, 0x01234567] = some ⟨.liX 2 0x0123456789ABCDEF, none⟩ ∧
  decodeBundle [0x010000DC + 9 * 0x100 + 8 * 0x2000] = some ⟨.hmask 9 8, none⟩ ∧
  decodeBundle [0x018000DC + 9 * 0x100] = some ⟨.hstat 9, none⟩ ∧
  decodeBundle [0x0000003D] = none ∧ decodeBundle [0x0000003F] = none

/-- 02 R33, R35, R36, 04 R53, R55: when no woken bundle goes on, the first ready thread in its turn issues: the words at its pc, decoded and well-
formed, run as exec of their instruction, and the turn ends; a pair runs both halves; words that are no bundle fault ILLEGAL; a missing page parks
the thread. 05 R88, 06 R103: a bundle with no collision retires in its turn; one with collisions loses the turns and retires in the last of them
(DESIGN CHOICE, log entry 60). -/
def Obligations.StepRunsDecoded : Prop :=
  ∀ (s : State) (tid : Nat) (t : Thread), firstThread goesOn s.threads = none →
    firstThread (mayIssue s) s.threads = some (tid, t) →
    let s1 := issueState s tid t
    (t.status ≠ .collided → (∀ ws, fetchBundle s1 tid t.ctx t.pc = .ok ws →
      (∀ i, decodeBundle ws = some ⟨i, none⟩ → Bundle.wf t.nregs ⟨i, none⟩ = true →
        let b := withBundle s1 tid ⟨i, none⟩ ws.length
        step s = endOutcome b tid (exec i { b with cur := some (Issue.begin tid) })) ∧
      (∀ i v, decodeBundle ws = some ⟨i, some v⟩ → Bundle.wf t.nregs ⟨i, some v⟩ = true →
        let b := withBundle s1 tid ⟨i, some v⟩ ws.length
        step s = endOutcome b tid (runPair b tid i v)) ∧
      ((decodeBundle ws = none ∨ ∃ b, decodeBundle ws = some b ∧ Bundle.wf t.nregs b = false) →
        step s = endOutcome s1 tid (exec .illegalEncoding s1))) ∧
    (∀ va, fetchBundle s1 tid t.ctx t.pc = .error (.miss va) →
      step s = .next (endTurn s1 (parkAs (addMiss s1 (tid / 256) t.ctx va (tid / 16)) tid (.fetchWalk va)) tid)) ∧
    (∀ va, fetchBundle s1 tid t.ctx t.pc = .error (.fault .perm va) → step s = endOutcome s1 tid (exec (.fetchFault true va) s1))) ∧
    (∀ l, t.status = .collided → t.late = some l → getT s tid = some t → ∃ u w, step s = .next u ∧ getT u tid = some w ∧ w.status = .ready ∧
      w.pc = l.pc ∧ w.m = l.m ∧ w.late = none ∧ w.nextIssue = turnAfter s.cycle (tid % 16)) ∧
    (∀ b u, (∀ v, getT u tid = some v → v.status = .issuing →
      let lost := match u.cur with
        | some i => lostTurns i
        | none => 0
      (lost = 0 → v.popDue = none → ∃ w, getT (endTurn b u tid) tid = some w ∧ w.status = .ready ∧ w.pc = v.pc ∧ w.g = v.g ∧
        w.nextIssue = turnAfter u.cycle (tid % 16)) ∧
      (0 < lost → ∀ o, getT b tid = some o → ∃ w l, getT (endTurn b u tid) tid = some w ∧ w.status = .collided ∧ w.pc = o.pc ∧ w.g = o.g ∧
        w.late = some l ∧ l.pc = v.pc ∧ l.m = v.m ∧ w.nextIssue = turnAfter u.cycle (tid % 16) + 16 * (lost - 1))) ∧
      (endTurn b u tid).cur = none)

/-- With a thread issuing every instruction answers a next state: no instruction of the table stops the machine, and none is refused. -/
def Obligations.EveryInstructionAnswers : Prop :=  ∀ (j : Instr) (s : State), (issuer s).isSome = true → ∃ u, exec j s = .next u

end
end

