-- ==== Sys2Proof/Laws/Issue.lean ====
section
/-!
SUPPORT. What the shape of a meaning answers when its operands are at hand, and the checks it is built from.
-/

namespace Sys2Proof.Machine

/-- No fault of an operand comes before the read of a PORT: with no PORT among the operands nothing is asked. -/
def NoneBefore (s : State) (reads : List Reg) (body : Issue → Thread → Except Stop State) : Prop :=
  ∀ i t, issuer s = some (i, t) → firstPort t reads ≠ none → faultBefore t reads (body i t) = none

/-- With the operands at hand a meaning answers its body's result, the pop committed, or the body's stop. -/
theorem issueWith_reading {s : State} {regs reads : List Reg} {body : Issue → Thread → Except Stop State} {i : Issue} {t : Thread}
    {pop : Option InboxEntry} (h : reading s regs reads = some (i, t, pop)) (hf : NoneBefore s reads body) :
    issueWith s regs reads body = match body i t with
      | .ok s' => .next (finish pop i.tid s')
      | .error st => .next (stopAt s i.tid st) := by
  unfold reading at h
  unfold issueWith
  cases hi : issuer s with
  | none => simp [hi] at h
  | some p =>
    obtain ⟨j, u⟩ := p
    simp only [hi] at h ⊢
    cases hp : firstPending u regs with
    | some r => simp [hp] at h
    | none =>
      simp only [hp] at h ⊢
      cases hq : firstPort u reads with
      | none =>
        simp [hq] at h
        obtain ⟨rfl, rfl, rfl⟩ := h
        cases body j u <;> rfl
      | some r =>
        rw [hf j u hi (by simp [hq])]
        cases hm : portHead s j.tid with
        | none => simp [hq, hm] at h
        | some e =>
          simp [hq, hm] at h
          obtain ⟨⟨h1, h2⟩, rfl, rfl, rfl⟩ := h
          simp only [h1, h2, Bool.false_eq_true, if_false, Bool.not_true]
          cases body j (substPort u reads e.payload) <;> rfl

/-- A body that succeeds is the instruction's outcome. -/
theorem issueWith_ok {s : State} {regs reads : List Reg} {body : Issue → Thread → Except Stop State} {i : Issue} {t : Thread}
    {pop : Option InboxEntry} {s' : State} (h : reading s regs reads = some (i, t, pop)) (hf : NoneBefore s reads body)
    (hb : body i t = .ok s') : issueWith s regs reads body = .next (finish pop i.tid s') := by
  rw [issueWith_reading h hf, hb]

/-- A body that stops stops the bundle. -/
theorem issueWith_stop {s : State} {regs reads : List Reg} {body : Issue → Thread → Except Stop State} {i : Issue} {t : Thread}
    {pop : Option InboxEntry} {st : Stop} (h : reading s regs reads = some (i, t, pop)) (hf : NoneBefore s reads body)
    (hb : body i t = .error st) : issueWith s regs reads body = .next (stopAt s i.tid st) := by
  rw [issueWith_reading h hf, hb]

/-- An instruction that reads no operand through a PORT has nothing before it. -/
theorem noneBefore_nil {s : State} {body : Issue → Thread → Except Stop State} : NoneBefore s [] body := by
  intro i t _ h
  exact absurd rfl h

/-- A body that goes on, or parks, faults before nothing. -/
@[simp] theorem faultBefore_ok {t : Thread} {reads : List Reg} {s : State} : faultBefore t reads (.ok s) = none := rfl

@[simp] theorem faultBefore_wait {t : Thread} {reads : List Reg} {w : Wait} : faultBefore t reads (.error (.wait w)) = none := rfl

@[simp] theorem faultBefore_miss {t : Thread} {reads : List Reg} {va : Nat} : faultBefore t reads (.error (.miss va)) = none := rfl

/-- The check of an operand of the right kind is passed over. -/
theorem faultBefore_kind {t : Thread} {reads : List Reg} {k : Kind} {r : Reg} {f : Unit → Except Stop State} (h : (t.rd r).kind = k) :
    faultBefore t reads (needKind k r (t.rd r) >>= f) = faultBefore t reads (f ()) := by
  simp [needKind, h, bind, Except.bind]

/-- The check of a PORT operand ends the search. -/
theorem faultBefore_port {t : Thread} {reads : List Reg} {k : Kind} {r : Reg} {f : Unit → Except Stop State} (hr : r ∈ reads)
    (h : (t.rd r).kind = .port) (hk : k ≠ .port) : faultBefore t reads (needKind k r (t.rd r) >>= f) = none := by
  have : (Kind.port = k) = False := by simp [hk.symm]
  simp only [needKind, h, this, if_false, bind, Except.bind]
  simp only [reduceCtorEq, if_false, faultBefore]
  simp
  exact ⟨r, hr, rfl, h⟩

theorem needKind_ok {k : Kind} {r : Reg} {g : GReg} (h : g.kind = k) : needKind k r g = .ok () := by simp [needKind, h]

theorem needKinds_ok {ks : List Kind} {r : Reg} {g : GReg} (h : g.kind ∈ ks) : needKinds ks r g = .ok () := by
  simp [needKinds, h]

theorem destOk_ok {t : Thread} {d : Reg} {rs : List Reg} (h : (t.rd d).kind ≠ .coc) : destOk t d rs = .ok () := by
  simp [destOk, h]

/-- A write of one element leaves every other. -/
theorem nth_setNth_ne {α : Type} (d v : α) (l : List α) (j k : Nat) (h : j ≠ k) : nth d j (setNth v k l) = nth d j l := by
  induction l generalizing j k with
  | nil => cases k <;> rfl
  | cons x xs ih =>
    cases k with
    | zero =>
      cases j with
      | zero => exact absurd rfl h
      | succ j => rfl
    | succ k =>
      cases j with
      | zero => rfl
      | succ j => exact ih j k (by omega)

/-- Writing one register of a thread leaves every other. -/
theorem Thread.rd_wr_ne {t : Thread} {v : GReg} {r a : Reg} (h : r ≠ a) : (t.wr a v).rd r = t.rd r := by
  unfold Thread.rd Thread.wr
  by_cases ha : a = 0
  · simp [ha]
  · simp only [ha, if_false]
    rw [nth_setNth_ne]
    exact fun e => h (Fin.ext e)

/-- The thread as an instruction reads it agrees with the thread itself but at PORT operands, which stand for a message. -/
def ReadsAs (reads : List Reg) (u t : Thread) : Prop := ∀ r, t.rd r = u.rd r ∨ (r ∈ reads ∧ (u.rd r).kind = .port)

theorem readsAs_substPort (reads : List Reg) (u : Thread) (v : GReg) : ReadsAs reads u (substPort u reads v) := by
  have key : ∀ (l : List Reg) (w : Thread), (∀ r ∈ l, r ∈ reads) → ReadsAs reads u w →
      ReadsAs reads u (l.foldl (fun x r => if (u.rd r).kind = .port then x.wr r v else x) w) := by
    intro l
    induction l with
    | nil => intro w _ h; exact h
    | cons a l ih =>
      intro w hl h
      refine ih _ (fun r hr => hl r (by simp [hr])) ?_
      intro r
      by_cases hp : (u.rd a).kind = .port
      · by_cases hr : r = a
        · subst hr
          exact .inr ⟨hl r (by simp), hp⟩
        · simpa [hp, Thread.rd_wr_ne hr] using h r
      · simpa [hp] using h r
  exact key reads u (fun _ h => h) (fun r => .inl rfl)

/-- The faults before a PORT's read, found on the thread itself, from the operands as the instruction reads them. -/
theorem noneBefore_of {s : State} {regs reads : List Reg} {body : Issue → Thread → Except Stop State} {i : Issue} {t : Thread}
    {pop : Option InboxEntry} (h : reading s regs reads = some (i, t, pop))
    (hf : ∀ u, ReadsAs reads u t → (∃ r ∈ reads, (u.rd r).kind = .port) → faultBefore u reads (body i u) = none) :
    NoneBefore s reads body := by
  intro j u hi hq
  have hp : ∃ r ∈ reads, (u.rd r).kind = .port := by
    cases hc : firstPort u reads with
    | none => exact absurd hc hq
    | some r => exact ⟨r, List.mem_of_find?_eq_some hc, by simpa using List.find?_some hc⟩
  unfold reading at h
  simp only [hi] at h
  cases hc : firstPort u reads with
  | none => exact absurd hc hq
  | some r =>
    cases hm : portHead s j.tid with
    | none => simp [hc, hm] at h
    | some e =>
      simp [hc, hm] at h
      obtain ⟨-, -, rfl, rfl, -⟩ := h
      exact hf u (readsAs_substPort reads u e.payload) hp

/-- The check of an operand that is of the right kind as the instruction reads it: a PORT ends the search, and else it is passed over. -/
theorem faultBefore_kinds {t u : Thread} {reads : List Reg} {ks : List Kind} {r : Reg} {f : Unit → Except Stop State}
    (hu : ReadsAs reads u t) (hk : (t.rd r).kind ∈ ks) (hp : Kind.port ∉ ks)
    (hf : (u.rd r).kind ≠ .port → faultBefore u reads (f ()) = none) : faultBefore u reads (needKinds ks r (u.rd r) >>= f) = none := by
  by_cases hq : (u.rd r).kind = .port
  · have hr : r ∈ reads := by
      rcases hu r with h | h
      · rw [h, hq] at hk
        exact absurd hk hp
      · exact h.1
    have : (if (Kind.port : Kind) ∈ ks then (Except.ok () : Except Stop Unit) else .error (.fault .kind r.val)) = .error (.fault .kind r.val) := by
      simp [hp]
    simp only [needKinds, hq, List.contains_eq_mem, decide_eq_true_eq, reduceCtorEq, if_false, this, bind, Except.bind, faultBefore]
    simp
    exact ⟨r, hr, rfl, hq⟩
  · have hk' : (u.rd r).kind ∈ ks := by
      rcases hu r with h | h
      · rwa [← h]
      · exact absurd h.2 hq
    simpa [needKinds, hk', bind, Except.bind] using hf hq

/-- The same of an operand of one kind. -/
theorem faultBefore_needKind {t u : Thread} {reads : List Reg} {k : Kind} {r : Reg} {f : Unit → Except Stop State}
    (hu : ReadsAs reads u t) (hk : (t.rd r).kind = k) (hp : k ≠ .port)
    (hf : (u.rd r).kind ≠ .port → faultBefore u reads (f ()) = none) : faultBefore u reads (needKind k r (u.rd r) >>= f) = none := by
  have : needKind k r (u.rd r) = needKinds [k] r (u.rd r) := by simp [needKind, needKinds]
  rw [this]
  exact faultBefore_kinds hu (by simp [hk]) (by simp [Ne.symm hp]) hf

/-- The check of a destination that holds no handle as the instruction reads it is passed over. -/
theorem faultBefore_destOk {t u : Thread} {reads rs : List Reg} {d : Reg} {f : Unit → Except Stop State} (hu : ReadsAs reads u t)
    (hd : (t.rd d).kind ≠ .coc) (hf : faultBefore u reads (f ()) = none) : faultBefore u reads (destOk u d rs >>= f) = none := by
  have : (u.rd d).kind ≠ .coc := by
    rcases hu d with h | h
    · rwa [← h]
    · rw [h.2]
      decide
  simpa [destOk, this, bind, Except.bind] using hf

end Sys2Proof.Machine
end

