-- ==== Sys2Proof/Laws/State.lean ====
section
/-!
SUPPORT. One lemma for each field of State and each plain update, so that no proof unfolds a record update.
-/

namespace Sys2Proof.Machine

/-! ## setT -/

@[simp] theorem setT_cycle (s : State) (k : Nat) (t : Thread) : (setT s k t).cycle = s.cycle := rfl
@[simp] theorem setT_time (s : State) (k : Nat) (t : Thread) : (setT s k t).time = s.time := rfl
@[simp] theorem setT_timeFrac (s : State) (k : Nat) (t : Thread) : (setT s k t).timeFrac = s.timeFrac := rfl
@[simp] theorem setT_free (s : State) (k : Nat) (t : Thread) : (setT s k t).free = s.free := rfl
@[simp] theorem setT_mem (s : State) (k : Nat) (t : Thread) : (setT s k t).mem = s.mem := rfl
@[simp] theorem setT_empties (s : State) (k : Nat) (t : Thread) : (setT s k t).empties = s.empties := rfl
@[simp] theorem setT_tags (s : State) (k : Nat) (t : Thread) : (setT s k t).tags = s.tags := rfl
@[simp] theorem setT_poison (s : State) (k : Nat) (t : Thread) : (setT s k t).poison = s.poison := rfl
@[simp] theorem setT_agenda (s : State) (k : Nat) (t : Thread) : (setT s k t).agenda = s.agenda := rfl
@[simp] theorem setT_timed (s : State) (k : Nat) (t : Thread) : (setT s k t).timed = s.timed := rfl
@[simp] theorem setT_nextId (s : State) (k : Nat) (t : Thread) : (setT s k t).nextId = s.nextId := rfl
@[simp] theorem setT_cur (s : State) (k : Nat) (t : Thread) : (setT s k t).cur = s.cur := rfl
@[simp] theorem setT_threads (s : State) (k : Nat) (t : Thread) : (setT s k t).threads = tset k t s.threads := rfl
@[simp] theorem setT_cores (s : State) (k : Nat) (t : Thread) : (setT s k t).cores = s.cores := rfl
@[simp] theorem setT_clusters (s : State) (k : Nat) (t : Thread) : (setT s k t).clusters = s.clusters := rfl
@[simp] theorem setT_owners (s : State) (k : Nat) (t : Thread) : (setT s k t).owners = s.owners := rfl
@[simp] theorem setT_places (s : State) (k : Nat) (t : Thread) : (setT s k t).places = s.places := rfl
@[simp] theorem setT_ctxs (s : State) (k : Nat) (t : Thread) : (setT s k t).ctxs = s.ctxs := rfl
@[simp] theorem setT_reqs (s : State) (k : Nat) (t : Thread) : (setT s k t).reqs = s.reqs := rfl
@[simp] theorem setT_cmds (s : State) (k : Nat) (t : Thread) : (setT s k t).cmds = s.cmds := rfl
@[simp] theorem setT_cocs (s : State) (k : Nat) (t : Thread) : (setT s k t).cocs = s.cocs := rfl
@[simp] theorem setT_lins (s : State) (k : Nat) (t : Thread) : (setT s k t).lins = s.lins := rfl
@[simp] theorem setT_gates (s : State) (k : Nat) (t : Thread) : (setT s k t).gates = s.gates := rfl
@[simp] theorem setT_fwds (s : State) (k : Nat) (t : Thread) : (setT s k t).fwds = s.fwds := rfl
@[simp] theorem setT_cstats (s : State) (k : Nat) (t : Thread) : (setT s k t).cstats = s.cstats := rfl
@[simp] theorem setT_msgs (s : State) (k : Nat) (t : Thread) : (setT s k t).msgs = s.msgs := rfl
@[simp] theorem setT_reds (s : State) (k : Nat) (t : Thread) : (setT s k t).reds = s.reds := rfl
@[simp] theorem setT_faults (s : State) (k : Nat) (t : Thread) : (setT s k t).faults = s.faults := rfl
@[simp] theorem setT_pkts (s : State) (k : Nat) (t : Thread) : (setT s k t).pkts = s.pkts := rfl
@[simp] theorem setT_ready (s : State) (k : Nat) (t : Thread) : (setT s k t).ready = s.ready := rfl
@[simp] theorem setT_reserved (s : State) (k : Nat) (t : Thread) : (setT s k t).reserved = s.reserved := rfl
@[simp] theorem setT_nextOrder (s : State) (k : Nat) (t : Thread) : (setT s k t).nextOrder = s.nextOrder := rfl
@[simp] theorem setT_pools (s : State) (k : Nat) (t : Thread) : (setT s k t).pools = s.pools := rfl
@[simp] theorem setT_assigned (s : State) (k : Nat) (t : Thread) : (setT s k t).assigned = s.assigned := rfl
@[simp] theorem setT_bridle (s : State) (k : Nat) (t : Thread) : (setT s k t).bridle = s.bridle := rfl
@[simp] theorem setT_lastQueue (s : State) (k : Nat) (t : Thread) : (setT s k t).lastQueue = s.lastQueue := rfl
@[simp] theorem setT_cocoonUnits (s : State) (k : Nat) (t : Thread) : (setT s k t).cocoonUnits = s.cocoonUnits := rfl
@[simp] theorem setT_dev (s : State) (k : Nat) (t : Thread) : (setT s k t).dev = s.dev := rfl

/-! ## setCore -/

@[simp] theorem setCore_cycle (s : State) (k : Nat) (v : CoreSt) : (setCore s k v).cycle = s.cycle := rfl
@[simp] theorem setCore_time (s : State) (k : Nat) (v : CoreSt) : (setCore s k v).time = s.time := rfl
@[simp] theorem setCore_timeFrac (s : State) (k : Nat) (v : CoreSt) : (setCore s k v).timeFrac = s.timeFrac := rfl
@[simp] theorem setCore_free (s : State) (k : Nat) (v : CoreSt) : (setCore s k v).free = s.free := rfl
@[simp] theorem setCore_mem (s : State) (k : Nat) (v : CoreSt) : (setCore s k v).mem = s.mem := rfl
@[simp] theorem setCore_empties (s : State) (k : Nat) (v : CoreSt) : (setCore s k v).empties = s.empties := rfl
@[simp] theorem setCore_tags (s : State) (k : Nat) (v : CoreSt) : (setCore s k v).tags = s.tags := rfl
@[simp] theorem setCore_poison (s : State) (k : Nat) (v : CoreSt) : (setCore s k v).poison = s.poison := rfl
@[simp] theorem setCore_agenda (s : State) (k : Nat) (v : CoreSt) : (setCore s k v).agenda = s.agenda := rfl
@[simp] theorem setCore_timed (s : State) (k : Nat) (v : CoreSt) : (setCore s k v).timed = s.timed := rfl
@[simp] theorem setCore_nextId (s : State) (k : Nat) (v : CoreSt) : (setCore s k v).nextId = s.nextId := rfl
@[simp] theorem setCore_cur (s : State) (k : Nat) (v : CoreSt) : (setCore s k v).cur = s.cur := rfl
@[simp] theorem setCore_threads (s : State) (k : Nat) (v : CoreSt) : (setCore s k v).threads = s.threads := rfl
@[simp] theorem setCore_cores (s : State) (k : Nat) (v : CoreSt) : (setCore s k v).cores = tset k v s.cores := rfl
@[simp] theorem setCore_clusters (s : State) (k : Nat) (v : CoreSt) : (setCore s k v).clusters = s.clusters := rfl
@[simp] theorem setCore_owners (s : State) (k : Nat) (v : CoreSt) : (setCore s k v).owners = s.owners := rfl
@[simp] theorem setCore_places (s : State) (k : Nat) (v : CoreSt) : (setCore s k v).places = s.places := rfl
@[simp] theorem setCore_ctxs (s : State) (k : Nat) (v : CoreSt) : (setCore s k v).ctxs = s.ctxs := rfl
@[simp] theorem setCore_reqs (s : State) (k : Nat) (v : CoreSt) : (setCore s k v).reqs = s.reqs := rfl
@[simp] theorem setCore_cmds (s : State) (k : Nat) (v : CoreSt) : (setCore s k v).cmds = s.cmds := rfl
@[simp] theorem setCore_cocs (s : State) (k : Nat) (v : CoreSt) : (setCore s k v).cocs = s.cocs := rfl
@[simp] theorem setCore_lins (s : State) (k : Nat) (v : CoreSt) : (setCore s k v).lins = s.lins := rfl
@[simp] theorem setCore_gates (s : State) (k : Nat) (v : CoreSt) : (setCore s k v).gates = s.gates := rfl
@[simp] theorem setCore_fwds (s : State) (k : Nat) (v : CoreSt) : (setCore s k v).fwds = s.fwds := rfl
@[simp] theorem setCore_cstats (s : State) (k : Nat) (v : CoreSt) : (setCore s k v).cstats = s.cstats := rfl
@[simp] theorem setCore_msgs (s : State) (k : Nat) (v : CoreSt) : (setCore s k v).msgs = s.msgs := rfl
@[simp] theorem setCore_reds (s : State) (k : Nat) (v : CoreSt) : (setCore s k v).reds = s.reds := rfl
@[simp] theorem setCore_faults (s : State) (k : Nat) (v : CoreSt) : (setCore s k v).faults = s.faults := rfl
@[simp] theorem setCore_pkts (s : State) (k : Nat) (v : CoreSt) : (setCore s k v).pkts = s.pkts := rfl
@[simp] theorem setCore_ready (s : State) (k : Nat) (v : CoreSt) : (setCore s k v).ready = s.ready := rfl
@[simp] theorem setCore_reserved (s : State) (k : Nat) (v : CoreSt) : (setCore s k v).reserved = s.reserved := rfl
@[simp] theorem setCore_nextOrder (s : State) (k : Nat) (v : CoreSt) : (setCore s k v).nextOrder = s.nextOrder := rfl
@[simp] theorem setCore_pools (s : State) (k : Nat) (v : CoreSt) : (setCore s k v).pools = s.pools := rfl
@[simp] theorem setCore_assigned (s : State) (k : Nat) (v : CoreSt) : (setCore s k v).assigned = s.assigned := rfl
@[simp] theorem setCore_bridle (s : State) (k : Nat) (v : CoreSt) : (setCore s k v).bridle = s.bridle := rfl
@[simp] theorem setCore_lastQueue (s : State) (k : Nat) (v : CoreSt) : (setCore s k v).lastQueue = s.lastQueue := rfl
@[simp] theorem setCore_cocoonUnits (s : State) (k : Nat) (v : CoreSt) : (setCore s k v).cocoonUnits = s.cocoonUnits := rfl
@[simp] theorem setCore_dev (s : State) (k : Nat) (v : CoreSt) : (setCore s k v).dev = s.dev := rfl

/-! ## setCluster -/

@[simp] theorem setCluster_cycle (s : State) (k : Nat) (v : ClusterSt) : (setCluster s k v).cycle = s.cycle := rfl
@[simp] theorem setCluster_time (s : State) (k : Nat) (v : ClusterSt) : (setCluster s k v).time = s.time := rfl
@[simp] theorem setCluster_timeFrac (s : State) (k : Nat) (v : ClusterSt) : (setCluster s k v).timeFrac = s.timeFrac := rfl
@[simp] theorem setCluster_free (s : State) (k : Nat) (v : ClusterSt) : (setCluster s k v).free = s.free := rfl
@[simp] theorem setCluster_mem (s : State) (k : Nat) (v : ClusterSt) : (setCluster s k v).mem = s.mem := rfl
@[simp] theorem setCluster_empties (s : State) (k : Nat) (v : ClusterSt) : (setCluster s k v).empties = s.empties := rfl
@[simp] theorem setCluster_tags (s : State) (k : Nat) (v : ClusterSt) : (setCluster s k v).tags = s.tags := rfl
@[simp] theorem setCluster_poison (s : State) (k : Nat) (v : ClusterSt) : (setCluster s k v).poison = s.poison := rfl
@[simp] theorem setCluster_agenda (s : State) (k : Nat) (v : ClusterSt) : (setCluster s k v).agenda = s.agenda := rfl
@[simp] theorem setCluster_timed (s : State) (k : Nat) (v : ClusterSt) : (setCluster s k v).timed = s.timed := rfl
@[simp] theorem setCluster_nextId (s : State) (k : Nat) (v : ClusterSt) : (setCluster s k v).nextId = s.nextId := rfl
@[simp] theorem setCluster_cur (s : State) (k : Nat) (v : ClusterSt) : (setCluster s k v).cur = s.cur := rfl
@[simp] theorem setCluster_threads (s : State) (k : Nat) (v : ClusterSt) : (setCluster s k v).threads = s.threads := rfl
@[simp] theorem setCluster_cores (s : State) (k : Nat) (v : ClusterSt) : (setCluster s k v).cores = s.cores := rfl
@[simp] theorem setCluster_clusters (s : State) (k : Nat) (v : ClusterSt) : (setCluster s k v).clusters = tset k v s.clusters := rfl
@[simp] theorem setCluster_owners (s : State) (k : Nat) (v : ClusterSt) : (setCluster s k v).owners = s.owners := rfl
@[simp] theorem setCluster_places (s : State) (k : Nat) (v : ClusterSt) : (setCluster s k v).places = s.places := rfl
@[simp] theorem setCluster_ctxs (s : State) (k : Nat) (v : ClusterSt) : (setCluster s k v).ctxs = s.ctxs := rfl
@[simp] theorem setCluster_reqs (s : State) (k : Nat) (v : ClusterSt) : (setCluster s k v).reqs = s.reqs := rfl
@[simp] theorem setCluster_cmds (s : State) (k : Nat) (v : ClusterSt) : (setCluster s k v).cmds = s.cmds := rfl
@[simp] theorem setCluster_cocs (s : State) (k : Nat) (v : ClusterSt) : (setCluster s k v).cocs = s.cocs := rfl
@[simp] theorem setCluster_lins (s : State) (k : Nat) (v : ClusterSt) : (setCluster s k v).lins = s.lins := rfl
@[simp] theorem setCluster_gates (s : State) (k : Nat) (v : ClusterSt) : (setCluster s k v).gates = s.gates := rfl
@[simp] theorem setCluster_fwds (s : State) (k : Nat) (v : ClusterSt) : (setCluster s k v).fwds = s.fwds := rfl
@[simp] theorem setCluster_cstats (s : State) (k : Nat) (v : ClusterSt) : (setCluster s k v).cstats = s.cstats := rfl
@[simp] theorem setCluster_msgs (s : State) (k : Nat) (v : ClusterSt) : (setCluster s k v).msgs = s.msgs := rfl
@[simp] theorem setCluster_reds (s : State) (k : Nat) (v : ClusterSt) : (setCluster s k v).reds = s.reds := rfl
@[simp] theorem setCluster_faults (s : State) (k : Nat) (v : ClusterSt) : (setCluster s k v).faults = s.faults := rfl
@[simp] theorem setCluster_pkts (s : State) (k : Nat) (v : ClusterSt) : (setCluster s k v).pkts = s.pkts := rfl
@[simp] theorem setCluster_ready (s : State) (k : Nat) (v : ClusterSt) : (setCluster s k v).ready = s.ready := rfl
@[simp] theorem setCluster_reserved (s : State) (k : Nat) (v : ClusterSt) : (setCluster s k v).reserved = s.reserved := rfl
@[simp] theorem setCluster_nextOrder (s : State) (k : Nat) (v : ClusterSt) : (setCluster s k v).nextOrder = s.nextOrder := rfl
@[simp] theorem setCluster_pools (s : State) (k : Nat) (v : ClusterSt) : (setCluster s k v).pools = s.pools := rfl
@[simp] theorem setCluster_assigned (s : State) (k : Nat) (v : ClusterSt) : (setCluster s k v).assigned = s.assigned := rfl
@[simp] theorem setCluster_bridle (s : State) (k : Nat) (v : ClusterSt) : (setCluster s k v).bridle = s.bridle := rfl
@[simp] theorem setCluster_lastQueue (s : State) (k : Nat) (v : ClusterSt) : (setCluster s k v).lastQueue = s.lastQueue := rfl
@[simp] theorem setCluster_cocoonUnits (s : State) (k : Nat) (v : ClusterSt) : (setCluster s k v).cocoonUnits = s.cocoonUnits := rfl
@[simp] theorem setCluster_dev (s : State) (k : Nat) (v : ClusterSt) : (setCluster s k v).dev = s.dev := rfl

/-! ## setC -/

@[simp] theorem setC_cycle (s : State) (k : Nat) (c : Ctx) : (setC s k c).cycle = s.cycle := rfl
@[simp] theorem setC_time (s : State) (k : Nat) (c : Ctx) : (setC s k c).time = s.time := rfl
@[simp] theorem setC_timeFrac (s : State) (k : Nat) (c : Ctx) : (setC s k c).timeFrac = s.timeFrac := rfl
@[simp] theorem setC_free (s : State) (k : Nat) (c : Ctx) : (setC s k c).free = s.free := rfl
@[simp] theorem setC_mem (s : State) (k : Nat) (c : Ctx) : (setC s k c).mem = s.mem := rfl
@[simp] theorem setC_empties (s : State) (k : Nat) (c : Ctx) : (setC s k c).empties = s.empties := rfl
@[simp] theorem setC_tags (s : State) (k : Nat) (c : Ctx) : (setC s k c).tags = s.tags := rfl
@[simp] theorem setC_poison (s : State) (k : Nat) (c : Ctx) : (setC s k c).poison = s.poison := rfl
@[simp] theorem setC_agenda (s : State) (k : Nat) (c : Ctx) : (setC s k c).agenda = s.agenda := rfl
@[simp] theorem setC_timed (s : State) (k : Nat) (c : Ctx) : (setC s k c).timed = s.timed := rfl
@[simp] theorem setC_nextId (s : State) (k : Nat) (c : Ctx) : (setC s k c).nextId = s.nextId := rfl
@[simp] theorem setC_cur (s : State) (k : Nat) (c : Ctx) : (setC s k c).cur = s.cur := rfl
@[simp] theorem setC_threads (s : State) (k : Nat) (c : Ctx) : (setC s k c).threads = s.threads := rfl
@[simp] theorem setC_cores (s : State) (k : Nat) (c : Ctx) : (setC s k c).cores = s.cores := rfl
@[simp] theorem setC_clusters (s : State) (k : Nat) (c : Ctx) : (setC s k c).clusters = s.clusters := rfl
@[simp] theorem setC_owners (s : State) (k : Nat) (c : Ctx) : (setC s k c).owners = s.owners := rfl
@[simp] theorem setC_places (s : State) (k : Nat) (c : Ctx) : (setC s k c).places = s.places := rfl
@[simp] theorem setC_ctxs (s : State) (k : Nat) (c : Ctx) : (setC s k c).ctxs = tset k c s.ctxs := rfl
@[simp] theorem setC_reqs (s : State) (k : Nat) (c : Ctx) : (setC s k c).reqs = s.reqs := rfl
@[simp] theorem setC_cmds (s : State) (k : Nat) (c : Ctx) : (setC s k c).cmds = s.cmds := rfl
@[simp] theorem setC_cocs (s : State) (k : Nat) (c : Ctx) : (setC s k c).cocs = s.cocs := rfl
@[simp] theorem setC_lins (s : State) (k : Nat) (c : Ctx) : (setC s k c).lins = s.lins := rfl
@[simp] theorem setC_gates (s : State) (k : Nat) (c : Ctx) : (setC s k c).gates = s.gates := rfl
@[simp] theorem setC_fwds (s : State) (k : Nat) (c : Ctx) : (setC s k c).fwds = s.fwds := rfl
@[simp] theorem setC_cstats (s : State) (k : Nat) (c : Ctx) : (setC s k c).cstats = s.cstats := rfl
@[simp] theorem setC_msgs (s : State) (k : Nat) (c : Ctx) : (setC s k c).msgs = s.msgs := rfl
@[simp] theorem setC_reds (s : State) (k : Nat) (c : Ctx) : (setC s k c).reds = s.reds := rfl
@[simp] theorem setC_faults (s : State) (k : Nat) (c : Ctx) : (setC s k c).faults = s.faults := rfl
@[simp] theorem setC_pkts (s : State) (k : Nat) (c : Ctx) : (setC s k c).pkts = s.pkts := rfl
@[simp] theorem setC_ready (s : State) (k : Nat) (c : Ctx) : (setC s k c).ready = s.ready := rfl
@[simp] theorem setC_reserved (s : State) (k : Nat) (c : Ctx) : (setC s k c).reserved = s.reserved := rfl
@[simp] theorem setC_nextOrder (s : State) (k : Nat) (c : Ctx) : (setC s k c).nextOrder = s.nextOrder := rfl
@[simp] theorem setC_pools (s : State) (k : Nat) (c : Ctx) : (setC s k c).pools = s.pools := rfl
@[simp] theorem setC_assigned (s : State) (k : Nat) (c : Ctx) : (setC s k c).assigned = s.assigned := rfl
@[simp] theorem setC_bridle (s : State) (k : Nat) (c : Ctx) : (setC s k c).bridle = s.bridle := rfl
@[simp] theorem setC_lastQueue (s : State) (k : Nat) (c : Ctx) : (setC s k c).lastQueue = s.lastQueue := rfl
@[simp] theorem setC_cocoonUnits (s : State) (k : Nat) (c : Ctx) : (setC s k c).cocoonUnits = s.cocoonUnits := rfl
@[simp] theorem setC_dev (s : State) (k : Nat) (c : Ctx) : (setC s k c).dev = s.dev := rfl

/-! ## setO -/

@[simp] theorem setO_cycle (s : State) (k : Nat) (o : Owner) : (setO s k o).cycle = s.cycle := rfl
@[simp] theorem setO_time (s : State) (k : Nat) (o : Owner) : (setO s k o).time = s.time := rfl
@[simp] theorem setO_timeFrac (s : State) (k : Nat) (o : Owner) : (setO s k o).timeFrac = s.timeFrac := rfl
@[simp] theorem setO_free (s : State) (k : Nat) (o : Owner) : (setO s k o).free = s.free := rfl
@[simp] theorem setO_mem (s : State) (k : Nat) (o : Owner) : (setO s k o).mem = s.mem := rfl
@[simp] theorem setO_empties (s : State) (k : Nat) (o : Owner) : (setO s k o).empties = s.empties := rfl
@[simp] theorem setO_tags (s : State) (k : Nat) (o : Owner) : (setO s k o).tags = s.tags := rfl
@[simp] theorem setO_poison (s : State) (k : Nat) (o : Owner) : (setO s k o).poison = s.poison := rfl
@[simp] theorem setO_agenda (s : State) (k : Nat) (o : Owner) : (setO s k o).agenda = s.agenda := rfl
@[simp] theorem setO_timed (s : State) (k : Nat) (o : Owner) : (setO s k o).timed = s.timed := rfl
@[simp] theorem setO_nextId (s : State) (k : Nat) (o : Owner) : (setO s k o).nextId = s.nextId := rfl
@[simp] theorem setO_cur (s : State) (k : Nat) (o : Owner) : (setO s k o).cur = s.cur := rfl
@[simp] theorem setO_threads (s : State) (k : Nat) (o : Owner) : (setO s k o).threads = s.threads := rfl
@[simp] theorem setO_cores (s : State) (k : Nat) (o : Owner) : (setO s k o).cores = s.cores := rfl
@[simp] theorem setO_clusters (s : State) (k : Nat) (o : Owner) : (setO s k o).clusters = s.clusters := rfl
@[simp] theorem setO_owners (s : State) (k : Nat) (o : Owner) : (setO s k o).owners = tset k o s.owners := rfl
@[simp] theorem setO_places (s : State) (k : Nat) (o : Owner) : (setO s k o).places = s.places := rfl
@[simp] theorem setO_ctxs (s : State) (k : Nat) (o : Owner) : (setO s k o).ctxs = s.ctxs := rfl
@[simp] theorem setO_reqs (s : State) (k : Nat) (o : Owner) : (setO s k o).reqs = s.reqs := rfl
@[simp] theorem setO_cmds (s : State) (k : Nat) (o : Owner) : (setO s k o).cmds = s.cmds := rfl
@[simp] theorem setO_cocs (s : State) (k : Nat) (o : Owner) : (setO s k o).cocs = s.cocs := rfl
@[simp] theorem setO_lins (s : State) (k : Nat) (o : Owner) : (setO s k o).lins = s.lins := rfl
@[simp] theorem setO_gates (s : State) (k : Nat) (o : Owner) : (setO s k o).gates = s.gates := rfl
@[simp] theorem setO_fwds (s : State) (k : Nat) (o : Owner) : (setO s k o).fwds = s.fwds := rfl
@[simp] theorem setO_cstats (s : State) (k : Nat) (o : Owner) : (setO s k o).cstats = s.cstats := rfl
@[simp] theorem setO_msgs (s : State) (k : Nat) (o : Owner) : (setO s k o).msgs = s.msgs := rfl
@[simp] theorem setO_reds (s : State) (k : Nat) (o : Owner) : (setO s k o).reds = s.reds := rfl
@[simp] theorem setO_faults (s : State) (k : Nat) (o : Owner) : (setO s k o).faults = s.faults := rfl
@[simp] theorem setO_pkts (s : State) (k : Nat) (o : Owner) : (setO s k o).pkts = s.pkts := rfl
@[simp] theorem setO_ready (s : State) (k : Nat) (o : Owner) : (setO s k o).ready = s.ready := rfl
@[simp] theorem setO_reserved (s : State) (k : Nat) (o : Owner) : (setO s k o).reserved = s.reserved := rfl
@[simp] theorem setO_nextOrder (s : State) (k : Nat) (o : Owner) : (setO s k o).nextOrder = s.nextOrder := rfl
@[simp] theorem setO_pools (s : State) (k : Nat) (o : Owner) : (setO s k o).pools = s.pools := rfl
@[simp] theorem setO_assigned (s : State) (k : Nat) (o : Owner) : (setO s k o).assigned = s.assigned := rfl
@[simp] theorem setO_bridle (s : State) (k : Nat) (o : Owner) : (setO s k o).bridle = s.bridle := rfl
@[simp] theorem setO_lastQueue (s : State) (k : Nat) (o : Owner) : (setO s k o).lastQueue = s.lastQueue := rfl
@[simp] theorem setO_cocoonUnits (s : State) (k : Nat) (o : Owner) : (setO s k o).cocoonUnits = s.cocoonUnits := rfl
@[simp] theorem setO_dev (s : State) (k : Nat) (o : Owner) : (setO s k o).dev = s.dev := rfl

/-! ## setP -/

@[simp] theorem setP_cycle (s : State) (p : Placement) : (setP s p).cycle = s.cycle := rfl
@[simp] theorem setP_time (s : State) (p : Placement) : (setP s p).time = s.time := rfl
@[simp] theorem setP_timeFrac (s : State) (p : Placement) : (setP s p).timeFrac = s.timeFrac := rfl
@[simp] theorem setP_free (s : State) (p : Placement) : (setP s p).free = s.free := rfl
@[simp] theorem setP_mem (s : State) (p : Placement) : (setP s p).mem = s.mem := rfl
@[simp] theorem setP_empties (s : State) (p : Placement) : (setP s p).empties = s.empties := rfl
@[simp] theorem setP_tags (s : State) (p : Placement) : (setP s p).tags = s.tags := rfl
@[simp] theorem setP_poison (s : State) (p : Placement) : (setP s p).poison = s.poison := rfl
@[simp] theorem setP_agenda (s : State) (p : Placement) : (setP s p).agenda = s.agenda := rfl
@[simp] theorem setP_timed (s : State) (p : Placement) : (setP s p).timed = s.timed := rfl
@[simp] theorem setP_nextId (s : State) (p : Placement) : (setP s p).nextId = s.nextId := rfl
@[simp] theorem setP_cur (s : State) (p : Placement) : (setP s p).cur = s.cur := rfl
@[simp] theorem setP_threads (s : State) (p : Placement) : (setP s p).threads = s.threads := rfl
@[simp] theorem setP_cores (s : State) (p : Placement) : (setP s p).cores = s.cores := rfl
@[simp] theorem setP_clusters (s : State) (p : Placement) : (setP s p).clusters = s.clusters := rfl
@[simp] theorem setP_owners (s : State) (p : Placement) : (setP s p).owners = s.owners := rfl
@[simp] theorem setP_places (s : State) (p : Placement) : (setP s p).places = tset (placeKeyOf p.owner p.core) p s.places := rfl
@[simp] theorem setP_ctxs (s : State) (p : Placement) : (setP s p).ctxs = s.ctxs := rfl
@[simp] theorem setP_reqs (s : State) (p : Placement) : (setP s p).reqs = s.reqs := rfl
@[simp] theorem setP_cmds (s : State) (p : Placement) : (setP s p).cmds = s.cmds := rfl
@[simp] theorem setP_cocs (s : State) (p : Placement) : (setP s p).cocs = s.cocs := rfl
@[simp] theorem setP_lins (s : State) (p : Placement) : (setP s p).lins = s.lins := rfl
@[simp] theorem setP_gates (s : State) (p : Placement) : (setP s p).gates = s.gates := rfl
@[simp] theorem setP_fwds (s : State) (p : Placement) : (setP s p).fwds = s.fwds := rfl
@[simp] theorem setP_cstats (s : State) (p : Placement) : (setP s p).cstats = s.cstats := rfl
@[simp] theorem setP_msgs (s : State) (p : Placement) : (setP s p).msgs = s.msgs := rfl
@[simp] theorem setP_reds (s : State) (p : Placement) : (setP s p).reds = s.reds := rfl
@[simp] theorem setP_faults (s : State) (p : Placement) : (setP s p).faults = s.faults := rfl
@[simp] theorem setP_pkts (s : State) (p : Placement) : (setP s p).pkts = s.pkts := rfl
@[simp] theorem setP_ready (s : State) (p : Placement) : (setP s p).ready = s.ready := rfl
@[simp] theorem setP_reserved (s : State) (p : Placement) : (setP s p).reserved = s.reserved := rfl
@[simp] theorem setP_nextOrder (s : State) (p : Placement) : (setP s p).nextOrder = s.nextOrder := rfl
@[simp] theorem setP_pools (s : State) (p : Placement) : (setP s p).pools = s.pools := rfl
@[simp] theorem setP_assigned (s : State) (p : Placement) : (setP s p).assigned = s.assigned := rfl
@[simp] theorem setP_bridle (s : State) (p : Placement) : (setP s p).bridle = s.bridle := rfl
@[simp] theorem setP_lastQueue (s : State) (p : Placement) : (setP s p).lastQueue = s.lastQueue := rfl
@[simp] theorem setP_cocoonUnits (s : State) (p : Placement) : (setP s p).cocoonUnits = s.cocoonUnits := rfl
@[simp] theorem setP_dev (s : State) (p : Placement) : (setP s p).dev = s.dev := rfl

/-! ## sched -/

@[simp] theorem sched_cycle (s : State) (c : Nat) (i : Instr) : (sched s c i).cycle = s.cycle := rfl
@[simp] theorem sched_time (s : State) (c : Nat) (i : Instr) : (sched s c i).time = s.time := rfl
@[simp] theorem sched_timeFrac (s : State) (c : Nat) (i : Instr) : (sched s c i).timeFrac = s.timeFrac := rfl
@[simp] theorem sched_free (s : State) (c : Nat) (i : Instr) : (sched s c i).free = s.free := rfl
@[simp] theorem sched_mem (s : State) (c : Nat) (i : Instr) : (sched s c i).mem = s.mem := rfl
@[simp] theorem sched_empties (s : State) (c : Nat) (i : Instr) : (sched s c i).empties = s.empties := rfl
@[simp] theorem sched_tags (s : State) (c : Nat) (i : Instr) : (sched s c i).tags = s.tags := rfl
@[simp] theorem sched_poison (s : State) (c : Nat) (i : Instr) : (sched s c i).poison = s.poison := rfl
@[simp] theorem sched_agenda (s : State) (c : Nat) (i : Instr) : (sched s c i).agenda = agendaAdd c i s.agenda := rfl
@[simp] theorem sched_timed (s : State) (c : Nat) (i : Instr) : (sched s c i).timed = s.timed := rfl
@[simp] theorem sched_nextId (s : State) (c : Nat) (i : Instr) : (sched s c i).nextId = s.nextId := rfl
@[simp] theorem sched_cur (s : State) (c : Nat) (i : Instr) : (sched s c i).cur = s.cur := rfl
@[simp] theorem sched_threads (s : State) (c : Nat) (i : Instr) : (sched s c i).threads = s.threads := rfl
@[simp] theorem sched_cores (s : State) (c : Nat) (i : Instr) : (sched s c i).cores = s.cores := rfl
@[simp] theorem sched_clusters (s : State) (c : Nat) (i : Instr) : (sched s c i).clusters = s.clusters := rfl
@[simp] theorem sched_owners (s : State) (c : Nat) (i : Instr) : (sched s c i).owners = s.owners := rfl
@[simp] theorem sched_places (s : State) (c : Nat) (i : Instr) : (sched s c i).places = s.places := rfl
@[simp] theorem sched_ctxs (s : State) (c : Nat) (i : Instr) : (sched s c i).ctxs = s.ctxs := rfl
@[simp] theorem sched_reqs (s : State) (c : Nat) (i : Instr) : (sched s c i).reqs = s.reqs := rfl
@[simp] theorem sched_cmds (s : State) (c : Nat) (i : Instr) : (sched s c i).cmds = s.cmds := rfl
@[simp] theorem sched_cocs (s : State) (c : Nat) (i : Instr) : (sched s c i).cocs = s.cocs := rfl
@[simp] theorem sched_lins (s : State) (c : Nat) (i : Instr) : (sched s c i).lins = s.lins := rfl
@[simp] theorem sched_gates (s : State) (c : Nat) (i : Instr) : (sched s c i).gates = s.gates := rfl
@[simp] theorem sched_fwds (s : State) (c : Nat) (i : Instr) : (sched s c i).fwds = s.fwds := rfl
@[simp] theorem sched_cstats (s : State) (c : Nat) (i : Instr) : (sched s c i).cstats = s.cstats := rfl
@[simp] theorem sched_msgs (s : State) (c : Nat) (i : Instr) : (sched s c i).msgs = s.msgs := rfl
@[simp] theorem sched_reds (s : State) (c : Nat) (i : Instr) : (sched s c i).reds = s.reds := rfl
@[simp] theorem sched_faults (s : State) (c : Nat) (i : Instr) : (sched s c i).faults = s.faults := rfl
@[simp] theorem sched_pkts (s : State) (c : Nat) (i : Instr) : (sched s c i).pkts = s.pkts := rfl
@[simp] theorem sched_ready (s : State) (c : Nat) (i : Instr) : (sched s c i).ready = s.ready := rfl
@[simp] theorem sched_reserved (s : State) (c : Nat) (i : Instr) : (sched s c i).reserved = s.reserved := rfl
@[simp] theorem sched_nextOrder (s : State) (c : Nat) (i : Instr) : (sched s c i).nextOrder = s.nextOrder := rfl
@[simp] theorem sched_pools (s : State) (c : Nat) (i : Instr) : (sched s c i).pools = s.pools := rfl
@[simp] theorem sched_assigned (s : State) (c : Nat) (i : Instr) : (sched s c i).assigned = s.assigned := rfl
@[simp] theorem sched_bridle (s : State) (c : Nat) (i : Instr) : (sched s c i).bridle = s.bridle := rfl
@[simp] theorem sched_lastQueue (s : State) (c : Nat) (i : Instr) : (sched s c i).lastQueue = s.lastQueue := rfl
@[simp] theorem sched_cocoonUnits (s : State) (c : Nat) (i : Instr) : (sched s c i).cocoonUnits = s.cocoonUnits := rfl
@[simp] theorem sched_dev (s : State) (c : Nat) (i : Instr) : (sched s c i).dev = s.dev := rfl

/-! ## schedArrival -/

@[simp] theorem schedArrival_cycle (s : State) (core c : Nat) (i : Instr) : (schedArrival s core c i).cycle = s.cycle := rfl
@[simp] theorem schedArrival_time (s : State) (core c : Nat) (i : Instr) : (schedArrival s core c i).time = s.time := rfl
@[simp] theorem schedArrival_timeFrac (s : State) (core c : Nat) (i : Instr) : (schedArrival s core c i).timeFrac = s.timeFrac := rfl
@[simp] theorem schedArrival_free (s : State) (core c : Nat) (i : Instr) : (schedArrival s core c i).free = s.free := rfl
@[simp] theorem schedArrival_mem (s : State) (core c : Nat) (i : Instr) : (schedArrival s core c i).mem = s.mem := rfl
@[simp] theorem schedArrival_empties (s : State) (core c : Nat) (i : Instr) : (schedArrival s core c i).empties = s.empties := rfl
@[simp] theorem schedArrival_tags (s : State) (core c : Nat) (i : Instr) : (schedArrival s core c i).tags = s.tags := rfl
@[simp] theorem schedArrival_poison (s : State) (core c : Nat) (i : Instr) : (schedArrival s core c i).poison = s.poison := rfl
@[simp] theorem schedArrival_agenda (s : State) (core c : Nat) (i : Instr) : (schedArrival s core c i).agenda = agendaPut (younger s core) c i s.agenda := rfl
@[simp] theorem schedArrival_timed (s : State) (core c : Nat) (i : Instr) : (schedArrival s core c i).timed = s.timed := rfl
@[simp] theorem schedArrival_nextId (s : State) (core c : Nat) (i : Instr) : (schedArrival s core c i).nextId = s.nextId := rfl
@[simp] theorem schedArrival_cur (s : State) (core c : Nat) (i : Instr) : (schedArrival s core c i).cur = s.cur := rfl
@[simp] theorem schedArrival_threads (s : State) (core c : Nat) (i : Instr) : (schedArrival s core c i).threads = s.threads := rfl
@[simp] theorem schedArrival_cores (s : State) (core c : Nat) (i : Instr) : (schedArrival s core c i).cores = s.cores := rfl
@[simp] theorem schedArrival_clusters (s : State) (core c : Nat) (i : Instr) : (schedArrival s core c i).clusters = s.clusters := rfl
@[simp] theorem schedArrival_owners (s : State) (core c : Nat) (i : Instr) : (schedArrival s core c i).owners = s.owners := rfl
@[simp] theorem schedArrival_places (s : State) (core c : Nat) (i : Instr) : (schedArrival s core c i).places = s.places := rfl
@[simp] theorem schedArrival_ctxs (s : State) (core c : Nat) (i : Instr) : (schedArrival s core c i).ctxs = s.ctxs := rfl
@[simp] theorem schedArrival_reqs (s : State) (core c : Nat) (i : Instr) : (schedArrival s core c i).reqs = s.reqs := rfl
@[simp] theorem schedArrival_cmds (s : State) (core c : Nat) (i : Instr) : (schedArrival s core c i).cmds = s.cmds := rfl
@[simp] theorem schedArrival_cocs (s : State) (core c : Nat) (i : Instr) : (schedArrival s core c i).cocs = s.cocs := rfl
@[simp] theorem schedArrival_lins (s : State) (core c : Nat) (i : Instr) : (schedArrival s core c i).lins = s.lins := rfl
@[simp] theorem schedArrival_gates (s : State) (core c : Nat) (i : Instr) : (schedArrival s core c i).gates = s.gates := rfl
@[simp] theorem schedArrival_fwds (s : State) (core c : Nat) (i : Instr) : (schedArrival s core c i).fwds = s.fwds := rfl
@[simp] theorem schedArrival_cstats (s : State) (core c : Nat) (i : Instr) : (schedArrival s core c i).cstats = s.cstats := rfl
@[simp] theorem schedArrival_msgs (s : State) (core c : Nat) (i : Instr) : (schedArrival s core c i).msgs = s.msgs := rfl
@[simp] theorem schedArrival_reds (s : State) (core c : Nat) (i : Instr) : (schedArrival s core c i).reds = s.reds := rfl
@[simp] theorem schedArrival_faults (s : State) (core c : Nat) (i : Instr) : (schedArrival s core c i).faults = s.faults := rfl
@[simp] theorem schedArrival_pkts (s : State) (core c : Nat) (i : Instr) : (schedArrival s core c i).pkts = s.pkts := rfl
@[simp] theorem schedArrival_ready (s : State) (core c : Nat) (i : Instr) : (schedArrival s core c i).ready = s.ready := rfl
@[simp] theorem schedArrival_reserved (s : State) (core c : Nat) (i : Instr) : (schedArrival s core c i).reserved = s.reserved := rfl
@[simp] theorem schedArrival_nextOrder (s : State) (core c : Nat) (i : Instr) : (schedArrival s core c i).nextOrder = s.nextOrder := rfl
@[simp] theorem schedArrival_pools (s : State) (core c : Nat) (i : Instr) : (schedArrival s core c i).pools = s.pools := rfl
@[simp] theorem schedArrival_assigned (s : State) (core c : Nat) (i : Instr) : (schedArrival s core c i).assigned = s.assigned := rfl
@[simp] theorem schedArrival_bridle (s : State) (core c : Nat) (i : Instr) : (schedArrival s core c i).bridle = s.bridle := rfl
@[simp] theorem schedArrival_lastQueue (s : State) (core c : Nat) (i : Instr) : (schedArrival s core c i).lastQueue = s.lastQueue := rfl
@[simp] theorem schedArrival_cocoonUnits (s : State) (core c : Nat) (i : Instr) : (schedArrival s core c i).cocoonUnits = s.cocoonUnits := rfl
@[simp] theorem schedArrival_dev (s : State) (core c : Nat) (i : Instr) : (schedArrival s core c i).dev = s.dev := rfl

/-! ## schedAt -/

@[simp] theorem schedAt_cycle (s : State) (c : Nat) (i : Instr) : (schedAt s c i).cycle = s.cycle := rfl
@[simp] theorem schedAt_time (s : State) (c : Nat) (i : Instr) : (schedAt s c i).time = s.time := rfl
@[simp] theorem schedAt_timeFrac (s : State) (c : Nat) (i : Instr) : (schedAt s c i).timeFrac = s.timeFrac := rfl
@[simp] theorem schedAt_free (s : State) (c : Nat) (i : Instr) : (schedAt s c i).free = s.free := rfl
@[simp] theorem schedAt_mem (s : State) (c : Nat) (i : Instr) : (schedAt s c i).mem = s.mem := rfl
@[simp] theorem schedAt_empties (s : State) (c : Nat) (i : Instr) : (schedAt s c i).empties = s.empties := rfl
@[simp] theorem schedAt_tags (s : State) (c : Nat) (i : Instr) : (schedAt s c i).tags = s.tags := rfl
@[simp] theorem schedAt_poison (s : State) (c : Nat) (i : Instr) : (schedAt s c i).poison = s.poison := rfl
@[simp] theorem schedAt_agenda (s : State) (c : Nat) (i : Instr) : (schedAt s c i).agenda = s.agenda := rfl
@[simp] theorem schedAt_timed (s : State) (c : Nat) (i : Instr) : (schedAt s c i).timed = agendaAdd c i s.timed := rfl
@[simp] theorem schedAt_nextId (s : State) (c : Nat) (i : Instr) : (schedAt s c i).nextId = s.nextId := rfl
@[simp] theorem schedAt_cur (s : State) (c : Nat) (i : Instr) : (schedAt s c i).cur = s.cur := rfl
@[simp] theorem schedAt_threads (s : State) (c : Nat) (i : Instr) : (schedAt s c i).threads = s.threads := rfl
@[simp] theorem schedAt_cores (s : State) (c : Nat) (i : Instr) : (schedAt s c i).cores = s.cores := rfl
@[simp] theorem schedAt_clusters (s : State) (c : Nat) (i : Instr) : (schedAt s c i).clusters = s.clusters := rfl
@[simp] theorem schedAt_owners (s : State) (c : Nat) (i : Instr) : (schedAt s c i).owners = s.owners := rfl
@[simp] theorem schedAt_places (s : State) (c : Nat) (i : Instr) : (schedAt s c i).places = s.places := rfl
@[simp] theorem schedAt_ctxs (s : State) (c : Nat) (i : Instr) : (schedAt s c i).ctxs = s.ctxs := rfl
@[simp] theorem schedAt_reqs (s : State) (c : Nat) (i : Instr) : (schedAt s c i).reqs = s.reqs := rfl
@[simp] theorem schedAt_cmds (s : State) (c : Nat) (i : Instr) : (schedAt s c i).cmds = s.cmds := rfl
@[simp] theorem schedAt_cocs (s : State) (c : Nat) (i : Instr) : (schedAt s c i).cocs = s.cocs := rfl
@[simp] theorem schedAt_lins (s : State) (c : Nat) (i : Instr) : (schedAt s c i).lins = s.lins := rfl
@[simp] theorem schedAt_gates (s : State) (c : Nat) (i : Instr) : (schedAt s c i).gates = s.gates := rfl
@[simp] theorem schedAt_fwds (s : State) (c : Nat) (i : Instr) : (schedAt s c i).fwds = s.fwds := rfl
@[simp] theorem schedAt_cstats (s : State) (c : Nat) (i : Instr) : (schedAt s c i).cstats = s.cstats := rfl
@[simp] theorem schedAt_msgs (s : State) (c : Nat) (i : Instr) : (schedAt s c i).msgs = s.msgs := rfl
@[simp] theorem schedAt_reds (s : State) (c : Nat) (i : Instr) : (schedAt s c i).reds = s.reds := rfl
@[simp] theorem schedAt_faults (s : State) (c : Nat) (i : Instr) : (schedAt s c i).faults = s.faults := rfl
@[simp] theorem schedAt_pkts (s : State) (c : Nat) (i : Instr) : (schedAt s c i).pkts = s.pkts := rfl
@[simp] theorem schedAt_ready (s : State) (c : Nat) (i : Instr) : (schedAt s c i).ready = s.ready := rfl
@[simp] theorem schedAt_reserved (s : State) (c : Nat) (i : Instr) : (schedAt s c i).reserved = s.reserved := rfl
@[simp] theorem schedAt_nextOrder (s : State) (c : Nat) (i : Instr) : (schedAt s c i).nextOrder = s.nextOrder := rfl
@[simp] theorem schedAt_pools (s : State) (c : Nat) (i : Instr) : (schedAt s c i).pools = s.pools := rfl
@[simp] theorem schedAt_assigned (s : State) (c : Nat) (i : Instr) : (schedAt s c i).assigned = s.assigned := rfl
@[simp] theorem schedAt_bridle (s : State) (c : Nat) (i : Instr) : (schedAt s c i).bridle = s.bridle := rfl
@[simp] theorem schedAt_lastQueue (s : State) (c : Nat) (i : Instr) : (schedAt s c i).lastQueue = s.lastQueue := rfl
@[simp] theorem schedAt_cocoonUnits (s : State) (c : Nat) (i : Instr) : (schedAt s c i).cocoonUnits = s.cocoonUnits := rfl
@[simp] theorem schedAt_dev (s : State) (c : Nat) (i : Instr) : (schedAt s c i).dev = s.dev := rfl

/-! ## bump -/

@[simp] theorem bump_cycle (s : State) : (bump s).cycle = s.cycle := rfl
@[simp] theorem bump_time (s : State) : (bump s).time = s.time := rfl
@[simp] theorem bump_timeFrac (s : State) : (bump s).timeFrac = s.timeFrac := rfl
@[simp] theorem bump_free (s : State) : (bump s).free = s.free + 1 := rfl
@[simp] theorem bump_mem (s : State) : (bump s).mem = s.mem := rfl
@[simp] theorem bump_empties (s : State) : (bump s).empties = s.empties := rfl
@[simp] theorem bump_tags (s : State) : (bump s).tags = s.tags := rfl
@[simp] theorem bump_poison (s : State) : (bump s).poison = s.poison := rfl
@[simp] theorem bump_agenda (s : State) : (bump s).agenda = s.agenda := rfl
@[simp] theorem bump_timed (s : State) : (bump s).timed = s.timed := rfl
@[simp] theorem bump_nextId (s : State) : (bump s).nextId = s.nextId := rfl
@[simp] theorem bump_cur (s : State) : (bump s).cur = s.cur := rfl
@[simp] theorem bump_threads (s : State) : (bump s).threads = s.threads := rfl
@[simp] theorem bump_cores (s : State) : (bump s).cores = s.cores := rfl
@[simp] theorem bump_clusters (s : State) : (bump s).clusters = s.clusters := rfl
@[simp] theorem bump_owners (s : State) : (bump s).owners = s.owners := rfl
@[simp] theorem bump_places (s : State) : (bump s).places = s.places := rfl
@[simp] theorem bump_ctxs (s : State) : (bump s).ctxs = s.ctxs := rfl
@[simp] theorem bump_reqs (s : State) : (bump s).reqs = s.reqs := rfl
@[simp] theorem bump_cmds (s : State) : (bump s).cmds = s.cmds := rfl
@[simp] theorem bump_cocs (s : State) : (bump s).cocs = s.cocs := rfl
@[simp] theorem bump_lins (s : State) : (bump s).lins = s.lins := rfl
@[simp] theorem bump_gates (s : State) : (bump s).gates = s.gates := rfl
@[simp] theorem bump_fwds (s : State) : (bump s).fwds = s.fwds := rfl
@[simp] theorem bump_cstats (s : State) : (bump s).cstats = s.cstats := rfl
@[simp] theorem bump_msgs (s : State) : (bump s).msgs = s.msgs := rfl
@[simp] theorem bump_reds (s : State) : (bump s).reds = s.reds := rfl
@[simp] theorem bump_faults (s : State) : (bump s).faults = s.faults := rfl
@[simp] theorem bump_pkts (s : State) : (bump s).pkts = s.pkts := rfl
@[simp] theorem bump_ready (s : State) : (bump s).ready = s.ready := rfl
@[simp] theorem bump_reserved (s : State) : (bump s).reserved = s.reserved := rfl
@[simp] theorem bump_nextOrder (s : State) : (bump s).nextOrder = s.nextOrder := rfl
@[simp] theorem bump_pools (s : State) : (bump s).pools = s.pools := rfl
@[simp] theorem bump_assigned (s : State) : (bump s).assigned = s.assigned := rfl
@[simp] theorem bump_bridle (s : State) : (bump s).bridle = s.bridle := rfl
@[simp] theorem bump_lastQueue (s : State) : (bump s).lastQueue = s.lastQueue := rfl
@[simp] theorem bump_cocoonUnits (s : State) : (bump s).cocoonUnits = s.cocoonUnits := rfl
@[simp] theorem bump_dev (s : State) : (bump s).dev = s.dev := rfl

/-! ## fresh -/

@[simp] theorem fresh_cycle (s : State) : (fresh s).cycle = s.cycle := rfl
@[simp] theorem fresh_time (s : State) : (fresh s).time = s.time := rfl
@[simp] theorem fresh_timeFrac (s : State) : (fresh s).timeFrac = s.timeFrac := rfl
@[simp] theorem fresh_free (s : State) : (fresh s).free = s.free := rfl
@[simp] theorem fresh_mem (s : State) : (fresh s).mem = s.mem := rfl
@[simp] theorem fresh_empties (s : State) : (fresh s).empties = s.empties := rfl
@[simp] theorem fresh_tags (s : State) : (fresh s).tags = s.tags := rfl
@[simp] theorem fresh_poison (s : State) : (fresh s).poison = s.poison := rfl
@[simp] theorem fresh_agenda (s : State) : (fresh s).agenda = s.agenda := rfl
@[simp] theorem fresh_timed (s : State) : (fresh s).timed = s.timed := rfl
@[simp] theorem fresh_nextId (s : State) : (fresh s).nextId = s.nextId + 1 := rfl
@[simp] theorem fresh_cur (s : State) : (fresh s).cur = s.cur := rfl
@[simp] theorem fresh_threads (s : State) : (fresh s).threads = s.threads := rfl
@[simp] theorem fresh_cores (s : State) : (fresh s).cores = s.cores := rfl
@[simp] theorem fresh_clusters (s : State) : (fresh s).clusters = s.clusters := rfl
@[simp] theorem fresh_owners (s : State) : (fresh s).owners = s.owners := rfl
@[simp] theorem fresh_places (s : State) : (fresh s).places = s.places := rfl
@[simp] theorem fresh_ctxs (s : State) : (fresh s).ctxs = s.ctxs := rfl
@[simp] theorem fresh_reqs (s : State) : (fresh s).reqs = s.reqs := rfl
@[simp] theorem fresh_cmds (s : State) : (fresh s).cmds = s.cmds := rfl
@[simp] theorem fresh_cocs (s : State) : (fresh s).cocs = s.cocs := rfl
@[simp] theorem fresh_lins (s : State) : (fresh s).lins = s.lins := rfl
@[simp] theorem fresh_gates (s : State) : (fresh s).gates = s.gates := rfl
@[simp] theorem fresh_fwds (s : State) : (fresh s).fwds = s.fwds := rfl
@[simp] theorem fresh_cstats (s : State) : (fresh s).cstats = s.cstats := rfl
@[simp] theorem fresh_msgs (s : State) : (fresh s).msgs = s.msgs := rfl
@[simp] theorem fresh_reds (s : State) : (fresh s).reds = s.reds := rfl
@[simp] theorem fresh_faults (s : State) : (fresh s).faults = s.faults := rfl
@[simp] theorem fresh_pkts (s : State) : (fresh s).pkts = s.pkts := rfl
@[simp] theorem fresh_ready (s : State) : (fresh s).ready = s.ready := rfl
@[simp] theorem fresh_reserved (s : State) : (fresh s).reserved = s.reserved := rfl
@[simp] theorem fresh_nextOrder (s : State) : (fresh s).nextOrder = s.nextOrder := rfl
@[simp] theorem fresh_pools (s : State) : (fresh s).pools = s.pools := rfl
@[simp] theorem fresh_assigned (s : State) : (fresh s).assigned = s.assigned := rfl
@[simp] theorem fresh_bridle (s : State) : (fresh s).bridle = s.bridle := rfl
@[simp] theorem fresh_lastQueue (s : State) : (fresh s).lastQueue = s.lastQueue := rfl
@[simp] theorem fresh_cocoonUnits (s : State) : (fresh s).cocoonUnits = s.cocoonUnits := rfl
@[simp] theorem fresh_dev (s : State) : (fresh s).dev = s.dev := rfl

/-! ## Updates of one thread -/

@[simp] theorem parkAs_cycle (s : State) (tid : Nat) (w : Wait) : (parkAs s tid w).cycle = s.cycle := by unfold parkAs; split <;> rfl
@[simp] theorem parkAs_time (s : State) (tid : Nat) (w : Wait) : (parkAs s tid w).time = s.time := by unfold parkAs; split <;> rfl
@[simp] theorem parkAs_timeFrac (s : State) (tid : Nat) (w : Wait) : (parkAs s tid w).timeFrac = s.timeFrac := by unfold parkAs; split <;> rfl
@[simp] theorem parkAs_free (s : State) (tid : Nat) (w : Wait) : (parkAs s tid w).free = s.free := by unfold parkAs; split <;> rfl
@[simp] theorem parkAs_mem (s : State) (tid : Nat) (w : Wait) : (parkAs s tid w).mem = s.mem := by unfold parkAs; split <;> rfl
@[simp] theorem parkAs_empties (s : State) (tid : Nat) (w : Wait) : (parkAs s tid w).empties = s.empties := by unfold parkAs; split <;> rfl
@[simp] theorem parkAs_tags (s : State) (tid : Nat) (w : Wait) : (parkAs s tid w).tags = s.tags := by unfold parkAs; split <;> rfl
@[simp] theorem parkAs_poison (s : State) (tid : Nat) (w : Wait) : (parkAs s tid w).poison = s.poison := by unfold parkAs; split <;> rfl
@[simp] theorem parkAs_agenda (s : State) (tid : Nat) (w : Wait) : (parkAs s tid w).agenda = s.agenda := by unfold parkAs; split <;> rfl
@[simp] theorem parkAs_timed (s : State) (tid : Nat) (w : Wait) : (parkAs s tid w).timed = s.timed := by unfold parkAs; split <;> rfl
@[simp] theorem parkAs_nextId (s : State) (tid : Nat) (w : Wait) : (parkAs s tid w).nextId = s.nextId := by unfold parkAs; split <;> rfl
@[simp] theorem parkAs_cur (s : State) (tid : Nat) (w : Wait) : (parkAs s tid w).cur = s.cur := by unfold parkAs; split <;> rfl
@[simp] theorem parkAs_cores (s : State) (tid : Nat) (w : Wait) : (parkAs s tid w).cores = s.cores := by unfold parkAs; split <;> rfl
@[simp] theorem parkAs_clusters (s : State) (tid : Nat) (w : Wait) : (parkAs s tid w).clusters = s.clusters := by unfold parkAs; split <;> rfl
@[simp] theorem parkAs_owners (s : State) (tid : Nat) (w : Wait) : (parkAs s tid w).owners = s.owners := by unfold parkAs; split <;> rfl
@[simp] theorem parkAs_places (s : State) (tid : Nat) (w : Wait) : (parkAs s tid w).places = s.places := by unfold parkAs; split <;> rfl
@[simp] theorem parkAs_ctxs (s : State) (tid : Nat) (w : Wait) : (parkAs s tid w).ctxs = s.ctxs := by unfold parkAs; split <;> rfl
@[simp] theorem parkAs_reqs (s : State) (tid : Nat) (w : Wait) : (parkAs s tid w).reqs = s.reqs := by unfold parkAs; split <;> rfl
@[simp] theorem parkAs_cmds (s : State) (tid : Nat) (w : Wait) : (parkAs s tid w).cmds = s.cmds := by unfold parkAs; split <;> rfl
@[simp] theorem parkAs_cocs (s : State) (tid : Nat) (w : Wait) : (parkAs s tid w).cocs = s.cocs := by unfold parkAs; split <;> rfl
@[simp] theorem parkAs_lins (s : State) (tid : Nat) (w : Wait) : (parkAs s tid w).lins = s.lins := by unfold parkAs; split <;> rfl
@[simp] theorem parkAs_gates (s : State) (tid : Nat) (w : Wait) : (parkAs s tid w).gates = s.gates := by unfold parkAs; split <;> rfl
@[simp] theorem parkAs_fwds (s : State) (tid : Nat) (w : Wait) : (parkAs s tid w).fwds = s.fwds := by unfold parkAs; split <;> rfl
@[simp] theorem parkAs_cstats (s : State) (tid : Nat) (w : Wait) : (parkAs s tid w).cstats = s.cstats := by unfold parkAs; split <;> rfl
@[simp] theorem parkAs_msgs (s : State) (tid : Nat) (w : Wait) : (parkAs s tid w).msgs = s.msgs := by unfold parkAs; split <;> rfl
@[simp] theorem parkAs_reds (s : State) (tid : Nat) (w : Wait) : (parkAs s tid w).reds = s.reds := by unfold parkAs; split <;> rfl
@[simp] theorem parkAs_faults (s : State) (tid : Nat) (w : Wait) : (parkAs s tid w).faults = s.faults := by unfold parkAs; split <;> rfl
@[simp] theorem parkAs_pkts (s : State) (tid : Nat) (w : Wait) : (parkAs s tid w).pkts = s.pkts := by unfold parkAs; split <;> rfl
@[simp] theorem parkAs_ready (s : State) (tid : Nat) (w : Wait) : (parkAs s tid w).ready = s.ready := by unfold parkAs; split <;> rfl
@[simp] theorem parkAs_reserved (s : State) (tid : Nat) (w : Wait) : (parkAs s tid w).reserved = s.reserved := by unfold parkAs; split <;> rfl
@[simp] theorem parkAs_nextOrder (s : State) (tid : Nat) (w : Wait) : (parkAs s tid w).nextOrder = s.nextOrder := by unfold parkAs; split <;> rfl
@[simp] theorem parkAs_pools (s : State) (tid : Nat) (w : Wait) : (parkAs s tid w).pools = s.pools := by unfold parkAs; split <;> rfl
@[simp] theorem parkAs_assigned (s : State) (tid : Nat) (w : Wait) : (parkAs s tid w).assigned = s.assigned := by unfold parkAs; split <;> rfl
@[simp] theorem parkAs_bridle (s : State) (tid : Nat) (w : Wait) : (parkAs s tid w).bridle = s.bridle := by unfold parkAs; split <;> rfl
@[simp] theorem parkAs_lastQueue (s : State) (tid : Nat) (w : Wait) : (parkAs s tid w).lastQueue = s.lastQueue := by unfold parkAs; split <;> rfl
@[simp] theorem parkAs_cocoonUnits (s : State) (tid : Nat) (w : Wait) : (parkAs s tid w).cocoonUnits = s.cocoonUnits := by unfold parkAs; split <;> rfl
@[simp] theorem parkAs_dev (s : State) (tid : Nat) (w : Wait) : (parkAs s tid w).dev = s.dev := by unfold parkAs; split <;> rfl

@[simp] theorem advance_cycle (s : State) (tid : Nat) : (advance s tid).cycle = s.cycle := by unfold advance; split <;> rfl
@[simp] theorem advance_time (s : State) (tid : Nat) : (advance s tid).time = s.time := by unfold advance; split <;> rfl
@[simp] theorem advance_timeFrac (s : State) (tid : Nat) : (advance s tid).timeFrac = s.timeFrac := by unfold advance; split <;> rfl
@[simp] theorem advance_free (s : State) (tid : Nat) : (advance s tid).free = s.free := by unfold advance; split <;> rfl
@[simp] theorem advance_mem (s : State) (tid : Nat) : (advance s tid).mem = s.mem := by unfold advance; split <;> rfl
@[simp] theorem advance_empties (s : State) (tid : Nat) : (advance s tid).empties = s.empties := by unfold advance; split <;> rfl
@[simp] theorem advance_tags (s : State) (tid : Nat) : (advance s tid).tags = s.tags := by unfold advance; split <;> rfl
@[simp] theorem advance_poison (s : State) (tid : Nat) : (advance s tid).poison = s.poison := by unfold advance; split <;> rfl
@[simp] theorem advance_agenda (s : State) (tid : Nat) : (advance s tid).agenda = s.agenda := by unfold advance; split <;> rfl
@[simp] theorem advance_timed (s : State) (tid : Nat) : (advance s tid).timed = s.timed := by unfold advance; split <;> rfl
@[simp] theorem advance_nextId (s : State) (tid : Nat) : (advance s tid).nextId = s.nextId := by unfold advance; split <;> rfl
@[simp] theorem advance_cur (s : State) (tid : Nat) : (advance s tid).cur = s.cur := by unfold advance; split <;> rfl
@[simp] theorem advance_cores (s : State) (tid : Nat) : (advance s tid).cores = s.cores := by unfold advance; split <;> rfl
@[simp] theorem advance_clusters (s : State) (tid : Nat) : (advance s tid).clusters = s.clusters := by unfold advance; split <;> rfl
@[simp] theorem advance_owners (s : State) (tid : Nat) : (advance s tid).owners = s.owners := by unfold advance; split <;> rfl
@[simp] theorem advance_places (s : State) (tid : Nat) : (advance s tid).places = s.places := by unfold advance; split <;> rfl
@[simp] theorem advance_ctxs (s : State) (tid : Nat) : (advance s tid).ctxs = s.ctxs := by unfold advance; split <;> rfl
@[simp] theorem advance_reqs (s : State) (tid : Nat) : (advance s tid).reqs = s.reqs := by unfold advance; split <;> rfl
@[simp] theorem advance_cmds (s : State) (tid : Nat) : (advance s tid).cmds = s.cmds := by unfold advance; split <;> rfl
@[simp] theorem advance_cocs (s : State) (tid : Nat) : (advance s tid).cocs = s.cocs := by unfold advance; split <;> rfl
@[simp] theorem advance_lins (s : State) (tid : Nat) : (advance s tid).lins = s.lins := by unfold advance; split <;> rfl
@[simp] theorem advance_gates (s : State) (tid : Nat) : (advance s tid).gates = s.gates := by unfold advance; split <;> rfl
@[simp] theorem advance_fwds (s : State) (tid : Nat) : (advance s tid).fwds = s.fwds := by unfold advance; split <;> rfl
@[simp] theorem advance_cstats (s : State) (tid : Nat) : (advance s tid).cstats = s.cstats := by unfold advance; split <;> rfl
@[simp] theorem advance_msgs (s : State) (tid : Nat) : (advance s tid).msgs = s.msgs := by unfold advance; split <;> rfl
@[simp] theorem advance_reds (s : State) (tid : Nat) : (advance s tid).reds = s.reds := by unfold advance; split <;> rfl
@[simp] theorem advance_faults (s : State) (tid : Nat) : (advance s tid).faults = s.faults := by unfold advance; split <;> rfl
@[simp] theorem advance_pkts (s : State) (tid : Nat) : (advance s tid).pkts = s.pkts := by unfold advance; split <;> rfl
@[simp] theorem advance_ready (s : State) (tid : Nat) : (advance s tid).ready = s.ready := by unfold advance; split <;> rfl
@[simp] theorem advance_reserved (s : State) (tid : Nat) : (advance s tid).reserved = s.reserved := by unfold advance; split <;> rfl
@[simp] theorem advance_nextOrder (s : State) (tid : Nat) : (advance s tid).nextOrder = s.nextOrder := by unfold advance; split <;> rfl
@[simp] theorem advance_pools (s : State) (tid : Nat) : (advance s tid).pools = s.pools := by unfold advance; split <;> rfl
@[simp] theorem advance_assigned (s : State) (tid : Nat) : (advance s tid).assigned = s.assigned := by unfold advance; split <;> rfl
@[simp] theorem advance_bridle (s : State) (tid : Nat) : (advance s tid).bridle = s.bridle := by unfold advance; split <;> rfl
@[simp] theorem advance_lastQueue (s : State) (tid : Nat) : (advance s tid).lastQueue = s.lastQueue := by unfold advance; split <;> rfl
@[simp] theorem advance_cocoonUnits (s : State) (tid : Nat) : (advance s tid).cocoonUnits = s.cocoonUnits := by unfold advance; split <;> rfl
@[simp] theorem advance_dev (s : State) (tid : Nat) : (advance s tid).dev = s.dev := by unfold advance; split <;> rfl

@[simp] theorem setPc_cycle (s : State) (tid : Nat) (pc : VAddr) : (setPc s tid pc).cycle = s.cycle := by unfold setPc; split <;> rfl
@[simp] theorem setPc_time (s : State) (tid : Nat) (pc : VAddr) : (setPc s tid pc).time = s.time := by unfold setPc; split <;> rfl
@[simp] theorem setPc_timeFrac (s : State) (tid : Nat) (pc : VAddr) : (setPc s tid pc).timeFrac = s.timeFrac := by unfold setPc; split <;> rfl
@[simp] theorem setPc_free (s : State) (tid : Nat) (pc : VAddr) : (setPc s tid pc).free = s.free := by unfold setPc; split <;> rfl
@[simp] theorem setPc_mem (s : State) (tid : Nat) (pc : VAddr) : (setPc s tid pc).mem = s.mem := by unfold setPc; split <;> rfl
@[simp] theorem setPc_empties (s : State) (tid : Nat) (pc : VAddr) : (setPc s tid pc).empties = s.empties := by unfold setPc; split <;> rfl
@[simp] theorem setPc_tags (s : State) (tid : Nat) (pc : VAddr) : (setPc s tid pc).tags = s.tags := by unfold setPc; split <;> rfl
@[simp] theorem setPc_poison (s : State) (tid : Nat) (pc : VAddr) : (setPc s tid pc).poison = s.poison := by unfold setPc; split <;> rfl
@[simp] theorem setPc_agenda (s : State) (tid : Nat) (pc : VAddr) : (setPc s tid pc).agenda = s.agenda := by unfold setPc; split <;> rfl
@[simp] theorem setPc_timed (s : State) (tid : Nat) (pc : VAddr) : (setPc s tid pc).timed = s.timed := by unfold setPc; split <;> rfl
@[simp] theorem setPc_nextId (s : State) (tid : Nat) (pc : VAddr) : (setPc s tid pc).nextId = s.nextId := by unfold setPc; split <;> rfl
@[simp] theorem setPc_cur (s : State) (tid : Nat) (pc : VAddr) : (setPc s tid pc).cur = s.cur := by unfold setPc; split <;> rfl
@[simp] theorem setPc_cores (s : State) (tid : Nat) (pc : VAddr) : (setPc s tid pc).cores = s.cores := by unfold setPc; split <;> rfl
@[simp] theorem setPc_clusters (s : State) (tid : Nat) (pc : VAddr) : (setPc s tid pc).clusters = s.clusters := by unfold setPc; split <;> rfl
@[simp] theorem setPc_owners (s : State) (tid : Nat) (pc : VAddr) : (setPc s tid pc).owners = s.owners := by unfold setPc; split <;> rfl
@[simp] theorem setPc_places (s : State) (tid : Nat) (pc : VAddr) : (setPc s tid pc).places = s.places := by unfold setPc; split <;> rfl
@[simp] theorem setPc_ctxs (s : State) (tid : Nat) (pc : VAddr) : (setPc s tid pc).ctxs = s.ctxs := by unfold setPc; split <;> rfl
@[simp] theorem setPc_reqs (s : State) (tid : Nat) (pc : VAddr) : (setPc s tid pc).reqs = s.reqs := by unfold setPc; split <;> rfl
@[simp] theorem setPc_cmds (s : State) (tid : Nat) (pc : VAddr) : (setPc s tid pc).cmds = s.cmds := by unfold setPc; split <;> rfl
@[simp] theorem setPc_cocs (s : State) (tid : Nat) (pc : VAddr) : (setPc s tid pc).cocs = s.cocs := by unfold setPc; split <;> rfl
@[simp] theorem setPc_lins (s : State) (tid : Nat) (pc : VAddr) : (setPc s tid pc).lins = s.lins := by unfold setPc; split <;> rfl
@[simp] theorem setPc_gates (s : State) (tid : Nat) (pc : VAddr) : (setPc s tid pc).gates = s.gates := by unfold setPc; split <;> rfl
@[simp] theorem setPc_fwds (s : State) (tid : Nat) (pc : VAddr) : (setPc s tid pc).fwds = s.fwds := by unfold setPc; split <;> rfl
@[simp] theorem setPc_cstats (s : State) (tid : Nat) (pc : VAddr) : (setPc s tid pc).cstats = s.cstats := by unfold setPc; split <;> rfl
@[simp] theorem setPc_msgs (s : State) (tid : Nat) (pc : VAddr) : (setPc s tid pc).msgs = s.msgs := by unfold setPc; split <;> rfl
@[simp] theorem setPc_reds (s : State) (tid : Nat) (pc : VAddr) : (setPc s tid pc).reds = s.reds := by unfold setPc; split <;> rfl
@[simp] theorem setPc_faults (s : State) (tid : Nat) (pc : VAddr) : (setPc s tid pc).faults = s.faults := by unfold setPc; split <;> rfl
@[simp] theorem setPc_pkts (s : State) (tid : Nat) (pc : VAddr) : (setPc s tid pc).pkts = s.pkts := by unfold setPc; split <;> rfl
@[simp] theorem setPc_ready (s : State) (tid : Nat) (pc : VAddr) : (setPc s tid pc).ready = s.ready := by unfold setPc; split <;> rfl
@[simp] theorem setPc_reserved (s : State) (tid : Nat) (pc : VAddr) : (setPc s tid pc).reserved = s.reserved := by unfold setPc; split <;> rfl
@[simp] theorem setPc_nextOrder (s : State) (tid : Nat) (pc : VAddr) : (setPc s tid pc).nextOrder = s.nextOrder := by unfold setPc; split <;> rfl
@[simp] theorem setPc_pools (s : State) (tid : Nat) (pc : VAddr) : (setPc s tid pc).pools = s.pools := by unfold setPc; split <;> rfl
@[simp] theorem setPc_assigned (s : State) (tid : Nat) (pc : VAddr) : (setPc s tid pc).assigned = s.assigned := by unfold setPc; split <;> rfl
@[simp] theorem setPc_bridle (s : State) (tid : Nat) (pc : VAddr) : (setPc s tid pc).bridle = s.bridle := by unfold setPc; split <;> rfl
@[simp] theorem setPc_lastQueue (s : State) (tid : Nat) (pc : VAddr) : (setPc s tid pc).lastQueue = s.lastQueue := by unfold setPc; split <;> rfl
@[simp] theorem setPc_cocoonUnits (s : State) (tid : Nat) (pc : VAddr) : (setPc s tid pc).cocoonUnits = s.cocoonUnits := by unfold setPc; split <;> rfl
@[simp] theorem setPc_dev (s : State) (tid : Nat) (pc : VAddr) : (setPc s tid pc).dev = s.dev := by unfold setPc; split <;> rfl

@[simp] theorem wake_cycle (s : State) (tid : Nat) : (wake s tid).cycle = s.cycle := by unfold wake; split <;> rfl
@[simp] theorem wake_time (s : State) (tid : Nat) : (wake s tid).time = s.time := by unfold wake; split <;> rfl
@[simp] theorem wake_timeFrac (s : State) (tid : Nat) : (wake s tid).timeFrac = s.timeFrac := by unfold wake; split <;> rfl
@[simp] theorem wake_free (s : State) (tid : Nat) : (wake s tid).free = s.free := by unfold wake; split <;> rfl
@[simp] theorem wake_mem (s : State) (tid : Nat) : (wake s tid).mem = s.mem := by unfold wake; split <;> rfl
@[simp] theorem wake_empties (s : State) (tid : Nat) : (wake s tid).empties = s.empties := by unfold wake; split <;> rfl
@[simp] theorem wake_tags (s : State) (tid : Nat) : (wake s tid).tags = s.tags := by unfold wake; split <;> rfl
@[simp] theorem wake_poison (s : State) (tid : Nat) : (wake s tid).poison = s.poison := by unfold wake; split <;> rfl
@[simp] theorem wake_agenda (s : State) (tid : Nat) : (wake s tid).agenda = s.agenda := by unfold wake; split <;> rfl
@[simp] theorem wake_timed (s : State) (tid : Nat) : (wake s tid).timed = s.timed := by unfold wake; split <;> rfl
@[simp] theorem wake_nextId (s : State) (tid : Nat) : (wake s tid).nextId = s.nextId := by unfold wake; split <;> rfl
@[simp] theorem wake_cur (s : State) (tid : Nat) : (wake s tid).cur = s.cur := by unfold wake; split <;> rfl
@[simp] theorem wake_cores (s : State) (tid : Nat) : (wake s tid).cores = s.cores := by unfold wake; split <;> rfl
@[simp] theorem wake_clusters (s : State) (tid : Nat) : (wake s tid).clusters = s.clusters := by unfold wake; split <;> rfl
@[simp] theorem wake_owners (s : State) (tid : Nat) : (wake s tid).owners = s.owners := by unfold wake; split <;> rfl
@[simp] theorem wake_places (s : State) (tid : Nat) : (wake s tid).places = s.places := by unfold wake; split <;> rfl
@[simp] theorem wake_ctxs (s : State) (tid : Nat) : (wake s tid).ctxs = s.ctxs := by unfold wake; split <;> rfl
@[simp] theorem wake_reqs (s : State) (tid : Nat) : (wake s tid).reqs = s.reqs := by unfold wake; split <;> rfl
@[simp] theorem wake_cmds (s : State) (tid : Nat) : (wake s tid).cmds = s.cmds := by unfold wake; split <;> rfl
@[simp] theorem wake_cocs (s : State) (tid : Nat) : (wake s tid).cocs = s.cocs := by unfold wake; split <;> rfl
@[simp] theorem wake_lins (s : State) (tid : Nat) : (wake s tid).lins = s.lins := by unfold wake; split <;> rfl
@[simp] theorem wake_gates (s : State) (tid : Nat) : (wake s tid).gates = s.gates := by unfold wake; split <;> rfl
@[simp] theorem wake_fwds (s : State) (tid : Nat) : (wake s tid).fwds = s.fwds := by unfold wake; split <;> rfl
@[simp] theorem wake_cstats (s : State) (tid : Nat) : (wake s tid).cstats = s.cstats := by unfold wake; split <;> rfl
@[simp] theorem wake_msgs (s : State) (tid : Nat) : (wake s tid).msgs = s.msgs := by unfold wake; split <;> rfl
@[simp] theorem wake_reds (s : State) (tid : Nat) : (wake s tid).reds = s.reds := by unfold wake; split <;> rfl
@[simp] theorem wake_faults (s : State) (tid : Nat) : (wake s tid).faults = s.faults := by unfold wake; split <;> rfl
@[simp] theorem wake_pkts (s : State) (tid : Nat) : (wake s tid).pkts = s.pkts := by unfold wake; split <;> rfl
@[simp] theorem wake_ready (s : State) (tid : Nat) : (wake s tid).ready = s.ready := by unfold wake; split <;> rfl
@[simp] theorem wake_reserved (s : State) (tid : Nat) : (wake s tid).reserved = s.reserved := by unfold wake; split <;> rfl
@[simp] theorem wake_nextOrder (s : State) (tid : Nat) : (wake s tid).nextOrder = s.nextOrder := by unfold wake; split <;> rfl
@[simp] theorem wake_pools (s : State) (tid : Nat) : (wake s tid).pools = s.pools := by unfold wake; split <;> rfl
@[simp] theorem wake_assigned (s : State) (tid : Nat) : (wake s tid).assigned = s.assigned := by unfold wake; split <;> rfl
@[simp] theorem wake_bridle (s : State) (tid : Nat) : (wake s tid).bridle = s.bridle := by unfold wake; split <;> rfl
@[simp] theorem wake_lastQueue (s : State) (tid : Nat) : (wake s tid).lastQueue = s.lastQueue := by unfold wake; split <;> rfl
@[simp] theorem wake_cocoonUnits (s : State) (tid : Nat) : (wake s tid).cocoonUnits = s.cocoonUnits := by unfold wake; split <;> rfl
@[simp] theorem wake_dev (s : State) (tid : Nat) : (wake s tid).dev = s.dev := by unfold wake; split <;> rfl

@[simp] theorem setBits_cycle (s : State) (tid : Nat) (r : Reg) (b : QWord) : (setBits s tid r b).cycle = s.cycle := by unfold setBits; split <;> rfl
@[simp] theorem setBits_time (s : State) (tid : Nat) (r : Reg) (b : QWord) : (setBits s tid r b).time = s.time := by unfold setBits; split <;> rfl
@[simp] theorem setBits_timeFrac (s : State) (tid : Nat) (r : Reg) (b : QWord) : (setBits s tid r b).timeFrac = s.timeFrac := by unfold setBits; split <;> rfl
@[simp] theorem setBits_free (s : State) (tid : Nat) (r : Reg) (b : QWord) : (setBits s tid r b).free = s.free := by unfold setBits; split <;> rfl
@[simp] theorem setBits_mem (s : State) (tid : Nat) (r : Reg) (b : QWord) : (setBits s tid r b).mem = s.mem := by unfold setBits; split <;> rfl
@[simp] theorem setBits_empties (s : State) (tid : Nat) (r : Reg) (b : QWord) : (setBits s tid r b).empties = s.empties := by unfold setBits; split <;> rfl
@[simp] theorem setBits_tags (s : State) (tid : Nat) (r : Reg) (b : QWord) : (setBits s tid r b).tags = s.tags := by unfold setBits; split <;> rfl
@[simp] theorem setBits_poison (s : State) (tid : Nat) (r : Reg) (b : QWord) : (setBits s tid r b).poison = s.poison := by unfold setBits; split <;> rfl
@[simp] theorem setBits_agenda (s : State) (tid : Nat) (r : Reg) (b : QWord) : (setBits s tid r b).agenda = s.agenda := by unfold setBits; split <;> rfl
@[simp] theorem setBits_timed (s : State) (tid : Nat) (r : Reg) (b : QWord) : (setBits s tid r b).timed = s.timed := by unfold setBits; split <;> rfl
@[simp] theorem setBits_nextId (s : State) (tid : Nat) (r : Reg) (b : QWord) : (setBits s tid r b).nextId = s.nextId := by unfold setBits; split <;> rfl
@[simp] theorem setBits_cur (s : State) (tid : Nat) (r : Reg) (b : QWord) : (setBits s tid r b).cur = s.cur := by unfold setBits; split <;> rfl
@[simp] theorem setBits_cores (s : State) (tid : Nat) (r : Reg) (b : QWord) : (setBits s tid r b).cores = s.cores := by unfold setBits; split <;> rfl
@[simp] theorem setBits_clusters (s : State) (tid : Nat) (r : Reg) (b : QWord) : (setBits s tid r b).clusters = s.clusters := by unfold setBits; split <;> rfl
@[simp] theorem setBits_owners (s : State) (tid : Nat) (r : Reg) (b : QWord) : (setBits s tid r b).owners = s.owners := by unfold setBits; split <;> rfl
@[simp] theorem setBits_places (s : State) (tid : Nat) (r : Reg) (b : QWord) : (setBits s tid r b).places = s.places := by unfold setBits; split <;> rfl
@[simp] theorem setBits_ctxs (s : State) (tid : Nat) (r : Reg) (b : QWord) : (setBits s tid r b).ctxs = s.ctxs := by unfold setBits; split <;> rfl
@[simp] theorem setBits_reqs (s : State) (tid : Nat) (r : Reg) (b : QWord) : (setBits s tid r b).reqs = s.reqs := by unfold setBits; split <;> rfl
@[simp] theorem setBits_cmds (s : State) (tid : Nat) (r : Reg) (b : QWord) : (setBits s tid r b).cmds = s.cmds := by unfold setBits; split <;> rfl
@[simp] theorem setBits_cocs (s : State) (tid : Nat) (r : Reg) (b : QWord) : (setBits s tid r b).cocs = s.cocs := by unfold setBits; split <;> rfl
@[simp] theorem setBits_lins (s : State) (tid : Nat) (r : Reg) (b : QWord) : (setBits s tid r b).lins = s.lins := by unfold setBits; split <;> rfl
@[simp] theorem setBits_gates (s : State) (tid : Nat) (r : Reg) (b : QWord) : (setBits s tid r b).gates = s.gates := by unfold setBits; split <;> rfl
@[simp] theorem setBits_fwds (s : State) (tid : Nat) (r : Reg) (b : QWord) : (setBits s tid r b).fwds = s.fwds := by unfold setBits; split <;> rfl
@[simp] theorem setBits_cstats (s : State) (tid : Nat) (r : Reg) (b : QWord) : (setBits s tid r b).cstats = s.cstats := by unfold setBits; split <;> rfl
@[simp] theorem setBits_msgs (s : State) (tid : Nat) (r : Reg) (b : QWord) : (setBits s tid r b).msgs = s.msgs := by unfold setBits; split <;> rfl
@[simp] theorem setBits_reds (s : State) (tid : Nat) (r : Reg) (b : QWord) : (setBits s tid r b).reds = s.reds := by unfold setBits; split <;> rfl
@[simp] theorem setBits_faults (s : State) (tid : Nat) (r : Reg) (b : QWord) : (setBits s tid r b).faults = s.faults := by unfold setBits; split <;> rfl
@[simp] theorem setBits_pkts (s : State) (tid : Nat) (r : Reg) (b : QWord) : (setBits s tid r b).pkts = s.pkts := by unfold setBits; split <;> rfl
@[simp] theorem setBits_ready (s : State) (tid : Nat) (r : Reg) (b : QWord) : (setBits s tid r b).ready = s.ready := by unfold setBits; split <;> rfl
@[simp] theorem setBits_reserved (s : State) (tid : Nat) (r : Reg) (b : QWord) : (setBits s tid r b).reserved = s.reserved := by unfold setBits; split <;> rfl
@[simp] theorem setBits_nextOrder (s : State) (tid : Nat) (r : Reg) (b : QWord) : (setBits s tid r b).nextOrder = s.nextOrder := by unfold setBits; split <;> rfl
@[simp] theorem setBits_pools (s : State) (tid : Nat) (r : Reg) (b : QWord) : (setBits s tid r b).pools = s.pools := by unfold setBits; split <;> rfl
@[simp] theorem setBits_assigned (s : State) (tid : Nat) (r : Reg) (b : QWord) : (setBits s tid r b).assigned = s.assigned := by unfold setBits; split <;> rfl
@[simp] theorem setBits_bridle (s : State) (tid : Nat) (r : Reg) (b : QWord) : (setBits s tid r b).bridle = s.bridle := by unfold setBits; split <;> rfl
@[simp] theorem setBits_lastQueue (s : State) (tid : Nat) (r : Reg) (b : QWord) : (setBits s tid r b).lastQueue = s.lastQueue := by unfold setBits; split <;> rfl
@[simp] theorem setBits_cocoonUnits (s : State) (tid : Nat) (r : Reg) (b : QWord) : (setBits s tid r b).cocoonUnits = s.cocoonUnits := by unfold setBits; split <;> rfl
@[simp] theorem setBits_dev (s : State) (tid : Nat) (r : Reg) (b : QWord) : (setBits s tid r b).dev = s.dev := by unfold setBits; split <;> rfl

@[simp] theorem setReg_cycle (s : State) (tid : Nat) (r : Reg) (v : GReg) : (setReg s tid r v).cycle = s.cycle := by
  unfold setReg; split
  · rfl
  · split
    · rfl
    · dsimp only; split <;> rfl
@[simp] theorem setReg_time (s : State) (tid : Nat) (r : Reg) (v : GReg) : (setReg s tid r v).time = s.time := by
  unfold setReg; split
  · rfl
  · split
    · rfl
    · dsimp only; split <;> rfl
@[simp] theorem setReg_timeFrac (s : State) (tid : Nat) (r : Reg) (v : GReg) : (setReg s tid r v).timeFrac = s.timeFrac := by
  unfold setReg; split
  · rfl
  · split
    · rfl
    · dsimp only; split <;> rfl
@[simp] theorem setReg_free (s : State) (tid : Nat) (r : Reg) (v : GReg) : (setReg s tid r v).free = s.free := by
  unfold setReg; split
  · rfl
  · split
    · rfl
    · dsimp only; split <;> rfl
@[simp] theorem setReg_mem (s : State) (tid : Nat) (r : Reg) (v : GReg) : (setReg s tid r v).mem = s.mem := by
  unfold setReg; split
  · rfl
  · split
    · rfl
    · dsimp only; split <;> rfl
@[simp] theorem setReg_empties (s : State) (tid : Nat) (r : Reg) (v : GReg) : (setReg s tid r v).empties = s.empties := by
  unfold setReg; split
  · rfl
  · split
    · rfl
    · dsimp only; split <;> rfl
@[simp] theorem setReg_tags (s : State) (tid : Nat) (r : Reg) (v : GReg) : (setReg s tid r v).tags = s.tags := by
  unfold setReg; split
  · rfl
  · split
    · rfl
    · dsimp only; split <;> rfl
@[simp] theorem setReg_poison (s : State) (tid : Nat) (r : Reg) (v : GReg) : (setReg s tid r v).poison = s.poison := by
  unfold setReg; split
  · rfl
  · split
    · rfl
    · dsimp only; split <;> rfl
@[simp] theorem setReg_timed (s : State) (tid : Nat) (r : Reg) (v : GReg) : (setReg s tid r v).timed = s.timed := by
  unfold setReg; split
  · rfl
  · split
    · rfl
    · dsimp only; split <;> rfl
@[simp] theorem setReg_nextId (s : State) (tid : Nat) (r : Reg) (v : GReg) : (setReg s tid r v).nextId = s.nextId := by
  unfold setReg; split
  · rfl
  · split
    · rfl
    · dsimp only; split <;> rfl
@[simp] theorem setReg_cur (s : State) (tid : Nat) (r : Reg) (v : GReg) : (setReg s tid r v).cur = s.cur := by
  unfold setReg; split
  · rfl
  · split
    · rfl
    · dsimp only; split <;> rfl
@[simp] theorem setReg_cores (s : State) (tid : Nat) (r : Reg) (v : GReg) : (setReg s tid r v).cores = s.cores := by
  unfold setReg; split
  · rfl
  · split
    · rfl
    · dsimp only; split <;> rfl
@[simp] theorem setReg_clusters (s : State) (tid : Nat) (r : Reg) (v : GReg) : (setReg s tid r v).clusters = s.clusters := by
  unfold setReg; split
  · rfl
  · split
    · rfl
    · dsimp only; split <;> rfl
@[simp] theorem setReg_owners (s : State) (tid : Nat) (r : Reg) (v : GReg) : (setReg s tid r v).owners = s.owners := by
  unfold setReg; split
  · rfl
  · split
    · rfl
    · dsimp only; split <;> rfl
@[simp] theorem setReg_places (s : State) (tid : Nat) (r : Reg) (v : GReg) : (setReg s tid r v).places = s.places := by
  unfold setReg; split
  · rfl
  · split
    · rfl
    · dsimp only; split <;> rfl
@[simp] theorem setReg_ctxs (s : State) (tid : Nat) (r : Reg) (v : GReg) : (setReg s tid r v).ctxs = s.ctxs := by
  unfold setReg; split
  · rfl
  · split
    · rfl
    · dsimp only; split <;> rfl
@[simp] theorem setReg_reqs (s : State) (tid : Nat) (r : Reg) (v : GReg) : (setReg s tid r v).reqs = s.reqs := by
  unfold setReg; split
  · rfl
  · split
    · rfl
    · dsimp only; split <;> rfl
@[simp] theorem setReg_cmds (s : State) (tid : Nat) (r : Reg) (v : GReg) : (setReg s tid r v).cmds = s.cmds := by
  unfold setReg; split
  · rfl
  · split
    · rfl
    · dsimp only; split <;> rfl
@[simp] theorem setReg_cocs (s : State) (tid : Nat) (r : Reg) (v : GReg) : (setReg s tid r v).cocs = s.cocs := by
  unfold setReg; split
  · rfl
  · split
    · rfl
    · dsimp only; split <;> rfl
@[simp] theorem setReg_lins (s : State) (tid : Nat) (r : Reg) (v : GReg) : (setReg s tid r v).lins = s.lins := by
  unfold setReg; split
  · rfl
  · split
    · rfl
    · dsimp only; split <;> rfl
@[simp] theorem setReg_gates (s : State) (tid : Nat) (r : Reg) (v : GReg) : (setReg s tid r v).gates = s.gates := by
  unfold setReg; split
  · rfl
  · split
    · rfl
    · dsimp only; split <;> rfl
@[simp] theorem setReg_fwds (s : State) (tid : Nat) (r : Reg) (v : GReg) : (setReg s tid r v).fwds = s.fwds := by
  unfold setReg; split
  · rfl
  · split
    · rfl
    · dsimp only; split <;> rfl
@[simp] theorem setReg_cstats (s : State) (tid : Nat) (r : Reg) (v : GReg) : (setReg s tid r v).cstats = s.cstats := by
  unfold setReg; split
  · rfl
  · split
    · rfl
    · dsimp only; split <;> rfl
@[simp] theorem setReg_msgs (s : State) (tid : Nat) (r : Reg) (v : GReg) : (setReg s tid r v).msgs = s.msgs := by
  unfold setReg; split
  · rfl
  · split
    · rfl
    · dsimp only; split <;> rfl
@[simp] theorem setReg_reds (s : State) (tid : Nat) (r : Reg) (v : GReg) : (setReg s tid r v).reds = s.reds := by
  unfold setReg; split
  · rfl
  · split
    · rfl
    · dsimp only; split <;> rfl
@[simp] theorem setReg_faults (s : State) (tid : Nat) (r : Reg) (v : GReg) : (setReg s tid r v).faults = s.faults := by
  unfold setReg; split
  · rfl
  · split
    · rfl
    · dsimp only; split <;> rfl
@[simp] theorem setReg_pkts (s : State) (tid : Nat) (r : Reg) (v : GReg) : (setReg s tid r v).pkts = s.pkts := by
  unfold setReg; split
  · rfl
  · split
    · rfl
    · dsimp only; split <;> rfl
@[simp] theorem setReg_ready (s : State) (tid : Nat) (r : Reg) (v : GReg) : (setReg s tid r v).ready = s.ready := by
  unfold setReg; split
  · rfl
  · split
    · rfl
    · dsimp only; split <;> rfl
@[simp] theorem setReg_reserved (s : State) (tid : Nat) (r : Reg) (v : GReg) : (setReg s tid r v).reserved = s.reserved := by
  unfold setReg; split
  · rfl
  · split
    · rfl
    · dsimp only; split <;> rfl
@[simp] theorem setReg_nextOrder (s : State) (tid : Nat) (r : Reg) (v : GReg) : (setReg s tid r v).nextOrder = s.nextOrder := by
  unfold setReg; split
  · rfl
  · split
    · rfl
    · dsimp only; split <;> rfl
@[simp] theorem setReg_pools (s : State) (tid : Nat) (r : Reg) (v : GReg) : (setReg s tid r v).pools = s.pools := by
  unfold setReg; split
  · rfl
  · split
    · rfl
    · dsimp only; split <;> rfl
@[simp] theorem setReg_assigned (s : State) (tid : Nat) (r : Reg) (v : GReg) : (setReg s tid r v).assigned = s.assigned := by
  unfold setReg; split
  · rfl
  · split
    · rfl
    · dsimp only; split <;> rfl
@[simp] theorem setReg_bridle (s : State) (tid : Nat) (r : Reg) (v : GReg) : (setReg s tid r v).bridle = s.bridle := by
  unfold setReg; split
  · rfl
  · split
    · rfl
    · dsimp only; split <;> rfl
@[simp] theorem setReg_lastQueue (s : State) (tid : Nat) (r : Reg) (v : GReg) : (setReg s tid r v).lastQueue = s.lastQueue := by
  unfold setReg; split
  · rfl
  · split
    · rfl
    · dsimp only; split <;> rfl
@[simp] theorem setReg_cocoonUnits (s : State) (tid : Nat) (r : Reg) (v : GReg) : (setReg s tid r v).cocoonUnits = s.cocoonUnits := by
  unfold setReg; split
  · rfl
  · split
    · rfl
    · dsimp only; split <;> rfl
@[simp] theorem setReg_dev (s : State) (tid : Nat) (r : Reg) (v : GReg) : (setReg s tid r v).dev = s.dev := by
  unfold setReg; split
  · rfl
  · split
    · rfl
    · dsimp only; split <;> rfl

end Sys2Proof.Machine
end

