-- ==== Sys2Proof/Laws/Tables.lean ====
section
/-!
SUPPORT. Keyed tables, memory and threads: what a read gives after a write, what a write leaves alone, and that every operation on
memory keeps its canonical form.
-/

namespace Sys2Proof.Machine

/-! ## Keyed tables -/

@[simp] theorem tget_tset_same {α : Type} (k : Nat) (v : α) (l : List (Nat × α)) : tget k (tset k v l) = some v := by
  induction l with
  | nil => simp [tset, tget]
  | cons p rest ih =>
    obtain ⟨j, u⟩ := p
    simp only [tset]
    split
    · simp [tget]
    · split
      · simp [tget]
      · simp [tget, *]

theorem tget_tset_ne {α : Type} {j k : Nat} (h : j ≠ k) (v : α) (l : List (Nat × α)) : tget j (tset k v l) = tget j l := by
  induction l with
  | nil => simp [tset, tget, Ne.symm h]
  | cons p rest ih =>
    obtain ⟨i, u⟩ := p
    simp only [tset]
    split
    · simp [tget, Ne.symm h]
    · split
      · next he => subst he; simp [tget, Ne.symm h]
      · simp [tget, ih]

theorem tget_tset {α : Type} (j k : Nat) (v : α) (l : List (Nat × α)) :
    tget j (tset k v l) = if j = k then some v else tget j l := by
  by_cases h : j = k
  · simp [h]
  · simp [h, tget_tset_ne h]

theorem tget_map {α β : Type} (f : Nat × α → β) (k : Nat) (l : List (Nat × α)) :
    tget k (l.map (fun p => (p.1, f p))) = (tget k l).map (fun v => f (k, v)) := by
  induction l with
  | nil => rfl
  | cons p rest ih =>
    obtain ⟨j, u⟩ := p
    by_cases h : j = k
    · subst h; simp [tget]
    · simp [tget, h, ih]

theorem tget_mem {α : Type} {k : Nat} {v : α} {l : List (Nat × α)} (h : tget k l = some v) : (k, v) ∈ l := by
  induction l with
  | nil => simp [tget] at h
  | cons p rest ih =>
    obtain ⟨j, u⟩ := p
    by_cases hj : j = k
    · subst hj; simp_all [tget]
    · simp only [tget, hj, if_false] at h; exact List.mem_cons_of_mem _ (ih h)

/-! ## Parts of the state -/

@[simp] theorem getT_setT_same (s : State) (k : Nat) (t : Thread) : getT (setT s k t) k = some t := tget_tset_same k t s.threads

theorem getT_setT_ne (s : State) {j k : Nat} (h : j ≠ k) (t : Thread) : getT (setT s k t) j = getT s j := tget_tset_ne h t s.threads

@[simp] theorem coreSt_setCore_same (s : State) (k : Nat) (v : CoreSt) : coreSt (setCore s k v) k = v := by simp [coreSt]

theorem coreSt_setCore_ne (s : State) {j k : Nat} (h : j ≠ k) (v : CoreSt) : coreSt (setCore s k v) j = coreSt s j := by
  simp [coreSt, tget_tset_ne h]

@[simp] theorem clusterSt_setCluster_same (s : State) (k : Nat) (v : ClusterSt) : clusterSt (setCluster s k v) k = v := by
  simp [clusterSt]

theorem clusterSt_setCluster_ne (s : State) {j k : Nat} (h : j ≠ k) (v : ClusterSt) :
    clusterSt (setCluster s k v) j = clusterSt s j := by simp [clusterSt, tget_tset_ne h]

@[simp] theorem getC_setC_same (s : State) (k : Nat) (c : Ctx) : getC (setC s k c) k = some c := tget_tset_same k c s.ctxs

theorem getC_setC_ne (s : State) {j k : Nat} (h : j ≠ k) (c : Ctx) : getC (setC s k c) j = getC s j := tget_tset_ne h c s.ctxs

@[simp] theorem getO_setO_same (s : State) (k : Nat) (o : Owner) : getO (setO s k o) k = some o := tget_tset_same k o s.owners

theorem getO_setO_ne (s : State) {j k : Nat} (h : j ≠ k) (o : Owner) : getO (setO s k o) j = getO s j := tget_tset_ne h o s.owners

theorem mem_agendaAdd {c : Nat} {i : Instr} {l : List (Nat × Instr)} {e : Nat × Instr} :
    e ∈ agendaAdd c i l ↔ e = (c, i) ∨ e ∈ l := by
  induction l with
  | nil => simp [agendaAdd]
  | cons p rest ih =>
    obtain ⟨d, j⟩ := p
    simp only [agendaAdd]
    split
    · simp
    · simp [ih]; tauto

theorem mem_agendaPut {f : Instr → Bool} {c : Nat} {i : Instr} {l : List (Nat × Instr)} {e : Nat × Instr} :
    e ∈ agendaPut f c i l ↔ e = (c, i) ∨ e ∈ l := by
  induction l with
  | nil => simp [agendaPut]
  | cons p rest ih =>
    obtain ⟨d, j⟩ := p
    simp only [agendaPut]
    split
    · simp
    · simp [ih]; tauto

/-! ## Memory -/

theorem memWfFrom_mono {m : List Host.Cell} {lo hi : Nat} (h : lo ≤ hi) (w : memWfFrom hi m = true) : memWfFrom lo m = true := by
  cases m with
  | nil => rfl
  | cons c rest =>
    obtain ⟨b, v⟩ := c
    simp only [memWfFrom, Bool.and_eq_true, decide_eq_true_eq] at w ⊢
    exact ⟨⟨by omega, w.1.2⟩, w.2⟩

/-- An address below the first entry reads the default. -/
theorem memGet_below {m : List Host.Cell} {lo a : Nat} (w : memWfFrom lo m = true) (h : a < lo) : memGet a m = memDefault := by
  cases m with
  | nil => rfl
  | cons c rest =>
    obtain ⟨b, v⟩ := c
    simp only [memWfFrom, Bool.and_eq_true, decide_eq_true_eq] at w
    have h1 : b ≠ a := by omega
    have h2 : a < b := by omega
    simp [memGet, h1, h2]

theorem memPut_wfFrom {m : List Host.Cell} {lo a : Nat} {v : Byte} (w : memWfFrom lo m = true) (h : lo ≤ a) :
    memWfFrom lo (memPut a v m) = true := by
  induction m generalizing lo with
  | nil =>
    by_cases hv : v = memDefault
    · simp [memPut, hv, memWfFrom]
    · simp [memPut, hv, memWfFrom, h]
  | cons c rest ih =>
    obtain ⟨b, u⟩ := c
    have w' := w
    simp only [memWfFrom, Bool.and_eq_true, decide_eq_true_eq, bne_iff_ne, ne_eq] at w
    obtain ⟨⟨h1, h2⟩, h3⟩ := w
    simp only [memPut]
    split
    · split
      · exact w'
      · simp [memWfFrom, *]
    · split
      · split
        · exact memWfFrom_mono (by omega) h3
        · subst_vars; simp [memWfFrom, *]
      · simp [memWfFrom, h1, h2, ih h3 (by omega)]

/-- A write keeps the canonical form. -/
theorem memPut_wf {m : List Host.Cell} (w : Memory.wf m = true) (a : Nat) (v : Byte) : Memory.wf (memPut a v m) = true :=
  memPut_wfFrom w (Nat.zero_le a)

theorem filter_wfFrom {m : List Host.Cell} {lo : Nat} (w : memWfFrom lo m = true) (p : Host.Cell → Bool) :
    memWfFrom lo (m.filter p) = true := by
  induction m generalizing lo with
  | nil => rfl
  | cons c rest ih =>
    obtain ⟨b, v⟩ := c
    simp only [memWfFrom, Bool.and_eq_true, decide_eq_true_eq, bne_iff_ne, ne_eq] at w
    obtain ⟨⟨h1, h2⟩, h3⟩ := w
    by_cases hp : p (b, v) = true
    · simp [hp, memWfFrom, h1, h2, ih h3]
    · simp only [List.filter_cons, hp]
      exact memWfFrom_mono (by omega) (ih h3)

/-- Clearing part of memory keeps the canonical form. -/
theorem filter_wf {m : List Host.Cell} (w : Memory.wf m = true) (p : Host.Cell → Bool) : Memory.wf (m.filter p) = true :=
  filter_wfFrom w p

theorem foldl_memPut_wf {β : Type} (f : β → Nat) (g : β → Byte) (l : List β) {m : List Host.Cell} (w : Memory.wf m = true) :
    Memory.wf (l.foldl (fun u x => memPut (f x) (g x) u) m) = true := by
  induction l generalizing m with
  | nil => exact w
  | cons x rest ih => exact ih (memPut_wf w _ _)

theorem placeBytes_wf (bs : List Byte) {m : List Host.Cell} (w : Memory.wf m = true) (pa : Nat) :
    Memory.wf (placeBytes m pa bs) = true := by
  induction bs generalizing m pa with
  | nil => exact w
  | cons b rest ih => exact ih (memPut_wf w _ _) _

theorem memGet_memPut_from {m : List Host.Cell} {lo : Nat} (w : memWfFrom lo m = true) (a b : Nat) (v : Byte) :
    memGet b (memPut a v m) = if b = a then v else memGet b m := by
  induction m generalizing lo with
  | nil =>
    by_cases hv : v = memDefault
    · simp [memPut, hv, memGet]
    · by_cases hb : b = a
      · subst hb; simp [memPut, hv, memGet]
      · simp [memPut, hv, memGet, hb, Ne.symm hb]
  | cons c rest ih =>
    obtain ⟨x, u⟩ := c
    simp only [memWfFrom, Bool.and_eq_true, decide_eq_true_eq, bne_iff_ne, ne_eq] at w
    obtain ⟨⟨h1, h2⟩, h3⟩ := w
    simp only [memPut]
    split
    · next hax =>
      split
      · next hv =>
        by_cases hb : b = a
        · subst hb
          have : x ≠ b := by omega
          simp [memGet, this, hax, hv]
        · simp [hb]
      · by_cases hb : b = a
        · subst hb; simp [memGet]
        · simp only [memGet, hb, if_false, Ne.symm hb]
          split
          · next hba =>
            have : x ≠ b := by omega
            simp [this, show b < x by omega]
          · rfl
    · next hax =>
      split
      · next hxa =>
        subst hxa
        split
        · next hv =>
          by_cases hb : b = x
          · subst hb; simp [memGet_below h3 (Nat.lt_succ_self b), hv]
          · simp only [hb, if_false, memGet, Ne.symm hb]
            split
            · next hbx => exact memGet_below h3 (by omega)
            · rfl
        · by_cases hb : b = x
          · subst hb; simp [memGet]
          · simp [memGet, hb, Ne.symm hb]
      · next hxa =>
        by_cases hb : x = b
        · subst hb; simp [memGet, hxa]
        · simp only [memGet, hb, if_false]
          split
          · next hbx =>
            have : b ≠ a := by omega
            simp [this]
          · rw [ih h3]

/-- A byte reads as written, and every other byte as before. -/
theorem memGet_memPut {m : List Host.Cell} (w : Memory.wf m = true) (a b : Nat) (v : Byte) :
    memGet b (memPut a v m) = if b = a then v else memGet b m := memGet_memPut_from w a b v

theorem reset_memOk : Memory.wf State.reset.mem = true := rfl

/-! ## Runs of bytes -/

theorem memWfFrom_append {xs ys : List Host.Cell} {lo hi : Nat} (hx : memWfFrom lo xs = true) (hl : lo ≤ hi) (hb : ∀ c ∈ xs, c.1 < hi)
    (hy : memWfFrom hi ys = true) : memWfFrom lo (xs ++ ys) = true := by
  induction xs generalizing lo with
  | nil =>
    cases ys with
    | nil => rfl
    | cons y rest => simp [memWfFrom] at hy ⊢; exact ⟨⟨by omega, hy.1.2⟩, hy.2⟩
  | cons x rest ih =>
    simp only [memWfFrom, List.cons_append, Bool.and_eq_true, decide_eq_true_eq] at hx ⊢
    exact ⟨hx.1, ih hx.2 (hb x (by simp)) (fun c h => hb c (by simp [h]))⟩

theorem memWfFrom_from {m : List Host.Cell} {lo hi : Nat} (h : memWfFrom lo m = true) (hb : ∀ c ∈ m, hi ≤ c.1) :
    memWfFrom hi m = true := by
  cases m with
  | nil => rfl
  | cons x rest =>
    have := hb x (by simp)
    simp [memWfFrom] at h ⊢
    exact ⟨⟨this, h.1.2⟩, h.2⟩

theorem memRun_wf (bs : List Byte) (a : Nat) : memWfFrom a (memRun a bs) = true ∧ ∀ c ∈ memRun a bs, c.1 < a + bs.length := by
  induction bs generalizing a with
  | nil => exact ⟨rfl, by simp [memRun]⟩
  | cons b rest ih =>
    obtain ⟨h1, h2⟩ := ih (a + 1)
    simp only [memRun, List.length_cons]
    split
    · exact ⟨memWfFrom_mono (by omega) h1, fun c hc => by have := h2 c hc; omega⟩
    · rename_i hb
      refine ⟨by simp [memWfFrom, h1, hb], fun c hc => ?_⟩
      rcases List.mem_cons.mp hc with rfl | hc
      · simp
      · have := h2 c hc; omega

/-- A run written at once keeps the canonical form. -/
theorem memSplice_wf {m : List Host.Cell} (h : Memory.wf m = true) (a : Nat) (bs : List Byte) : Memory.wf (memSplice a bs m) = true := by
  have hr := memRun_wf bs a
  unfold Memory.wf at h ⊢
  unfold memSplice
  refine memWfFrom_append (hi := a + bs.length) (memWfFrom_append (hi := a) (filter_wfFrom h _) (by omega) (by simp) hr.1) (by omega) ?_
    (memWfFrom_from (filter_wfFrom h _) (by simp))
  intro c hc
  rcases List.mem_append.mp hc with hc | hc
  · simp at hc; omega
  · exact hr.2 c hc

end Sys2Proof.Machine
end

