-- ==== Sys2Proof/Laws/Access.lean ====
section
/-!
SUPPORT. Accesses: what the register operations leave alone, what a bundle that issues an access in the core's own store or beyond it
answers, and what bytes written at their homes read as.
-/

namespace Sys2Proof.Machine

/-! ## Threads under the shared operations -/

theorem getT_setT (s : State) (j k : Nat) (t : Thread) : getT (setT s k t) j = if j = k then some t else getT s j := tget_tset j k t s.threads

@[simp] theorem getT_sched (s : State) (c : Nat) (i : Instr) (j : Nat) : getT (sched s c i) j = getT s j := rfl
@[simp] theorem getT_bump (s : State) (j : Nat) : getT (bump s) j = getT s j := rfl
@[simp] theorem getT_fresh (s : State) (j : Nat) : getT (fresh s) j = getT s j := rfl

theorem mem_sched {s : State} {c : Nat} {i : Instr} {e : Nat × Instr} : e ∈ (sched s c i).agenda ↔ e = (c, i) ∨ e ∈ s.agenda :=
  mem_agendaAdd

/-- Everything but the threads and the parts hung under them is the same. -/
structure SameStore (s u : State) : Prop where
  mem : u.mem = s.mem
  empties : u.empties = s.empties
  tags : u.tags = s.tags
  poison : u.poison = s.poison
  reqs : u.reqs = s.reqs
  agenda : u.agenda = s.agenda
  nextId : u.nextId = s.nextId
  cycle : u.cycle = s.cycle

theorem SameStore.refl (s : State) : SameStore s s := ⟨rfl, rfl, rfl, rfl, rfl, rfl, rfl, rfl⟩

theorem SameStore.trans {s u v : State} (a : SameStore s u) (b : SameStore u v) : SameStore s v :=
  ⟨b.mem.trans a.mem, b.empties.trans a.empties, b.tags.trans a.tags, b.poison.trans a.poison, b.reqs.trans a.reqs,
    b.agenda.trans a.agenda, b.nextId.trans a.nextId, b.cycle.trans a.cycle⟩

theorem setT_same (s : State) (k : Nat) (t : Thread) : SameStore s (setT s k t) := ⟨rfl, rfl, rfl, rfl, rfl, rfl, rfl, rfl⟩

theorem advance_same (s : State) (k : Nat) : SameStore s (advance s k) := by
  unfold advance; split
  · exact .refl s
  · exact setT_same ..

theorem getT_advance (s : State) (k : Nat) : getT (advance s k) k = (getT s k).map Thread.next := by
  unfold advance; split <;> simp [*]

theorem setBits_same (s : State) (k : Nat) (r : Reg) (b : QWord) : SameStore s (setBits s k r b) := by
  unfold setBits; split
  · exact .refl s
  · exact setT_same ..

theorem parkAs_same (s : State) (k : Nat) (w : Wait) : SameStore s (parkAs s k w) := by
  unfold parkAs; split
  · exact .refl s
  · exact setT_same ..

/-- A thread goes on where it was: its program counter, the size of its bundle and its status are the same. -/
def SamePlace (t v : Thread) : Prop := v.pc = t.pc ∧ v.size = t.size ∧ v.status = t.status

theorem getT_setBits {s : State} {k : Nat} {t : Thread} (h : getT s k = some t) (r : Reg) (b : QWord) :
    ∃ v, getT (setBits s k r b) k = some v ∧ SamePlace t v := by
  refine ⟨t.wr r ⟨(t.rd r).kind, b⟩, by simp [setBits, h], ?_⟩
  unfold Thread.wr SamePlace; split <;> simp

theorem applyInc_cases (s : State) (k : Nat) (inc : Option Nat) : applyInc s k inc = s ∨ ∃ r b, applyInc s k inc = setBits s k r b := by
  unfold applyInc
  split
  · exact .inl rfl
  · split
    · dsimp only
      split
      · split
        · exact .inr ⟨_, _, rfl⟩
        · exact .inl rfl
      · exact .inl rfl
    · exact .inl rfl

theorem applyInc_same (s : State) (k : Nat) (inc : Option Nat) : SameStore s (applyInc s k inc) := by
  rcases applyInc_cases s k inc with h | ⟨r, b, h⟩ <;> rw [h]
  · exact .refl s
  · exact setBits_same ..

theorem getT_applyInc {s : State} {k : Nat} {t : Thread} (h : getT s k = some t) (inc : Option Nat) :
    ∃ v, getT (applyInc s k inc) k = some v ∧ SamePlace t v := by
  rcases applyInc_cases s k inc with e | ⟨r, b, e⟩ <;> rw [e]
  · exact ⟨t, h, rfl, rfl, rfl⟩
  · exact getT_setBits h r b

theorem waitOf_parkAs {s : State} {k : Nat} {t : Thread} (h : getT s k = some t) (w : Wait) : waitOf (parkAs s k w) k = some w := by
  simp [waitOf, parkAs, h]

/-! ## Issuing an access -/

/-- An access whose park is zero is done as the bundle goes on (06 R104), unless it reads a word with a soft error. -/
theorem launchAccess_near {s : State} {tid : Nat} {t : Thread} {op : AccOp} {n : Nat} {a : Access} {d : Reg} {inc : Option Nat}
    {relaxed : Bool} (h : parkTime (tid / 16) a.place = 0) (hp : accReads op = true → poisoned s (placeRun a.place n) = none) :
    launchAccess s tid t op n a d.val inc relaxed = .ok (
      let e := perform s (threadWriter s tid) op (placeRun a.place n)
      let s1 := match a.place with
        | .ls _ off => bankHit e.1 (tid / 16) off
        | _ => e.1
      accessed s1 tid t op d inc e.2.1 e.2.2) := by
  have hs : softCheck s (if accReads op = true then placeRun a.place n else []) = .ok () := by
    unfold softCheck
    cases ha : accReads op
    · have : poisoned s [] = none := by unfold poisoned; split <;> simp
      simp [this]
    · simp [hp ha]
  unfold launchAccess
  simp only [h, if_true, hs, bind, Except.bind]
  rfl

/-- An access is performed by one of two events. -/
theorem arrival_cases (id : Nat) (r : Req) : arrival id r = .accessPerformed id ∨ arrival id r = .windowWrite id := by
  unfold arrival; split <;> simp

/-- An access arrives within its park. -/
theorem arriveWithin_le {lat : Nat} (r : Req) (h : 0 < lat) : 0 < arriveWithin lat r ∧ arriveWithin lat r ≤ lat := by
  unfold arriveWithin; split <;> omega

/-- What an access leaves behind as it leaves the core. -/
theorem sendAccess_spec (s : State) (tid : Nat) {lat : Nat} (hl : 0 < lat) (hd : Option Nat) (r : Req) :
    tget s.nextId (sendAccess s tid lat hd r).reqs = some r ∧ (sendAccess s tid lat hd r).mem = s.mem ∧
    (sendAccess s tid lat hd r).threads = s.threads ∧
    ∃ c, s.cycle < c ∧ c ≤ s.cycle + lat ∧ (c, arrival s.nextId r) ∈ (sendAccess s tid lat hd r).agenda := by
  have hw := arriveWithin_le r hl
  have hm := Nat.mod_lt (Config.freeNat s.free) hw.1
  have hc : ∃ c, c = s.cycle + 1 + Config.freeNat s.free % arriveWithin lat r := ⟨_, rfl⟩
  obtain ⟨c, hc⟩ := hc
  refine ⟨?_, ?_, ?_, c, by omega, by omega, ?_⟩ <;>
    (unfold sendAccess hltActive setHlt; cases hd <;> simp [mem_agendaPut, hc])

theorem launchAccess_far {s : State} {tid : Nat} {t v : Thread} {op : AccOp} {n : Nat} {a : Access} {d : Reg} {inc : Option Nat}
    (hv : getT s tid = some v) (h : 0 < parkTime (tid / 16) a.place) :
    ∃ u, launchAccess s tid t op n a d.val inc false = .ok u ∧
      Leaves s u tid op (placeRun a.place n) (parkTime (tid / 16) a.place) d false := by
  unfold launchAccess
  simp only [Nat.ne_of_gt h, if_false, Bool.false_eq_true, false_and]
  refine ⟨_, rfl, ?_⟩
  generalize hr : (Req.mk tid op _ a.addr false _ _ _ _ _ _ _ _ _ _ _ _ _ _) = r
  obtain ⟨h1, h2, h3, c, c1, c2, h4⟩ := sendAccess_spec s tid h a.handle r
  have hg : getT (sendAccess s tid (parkTime (tid / 16) a.place) a.handle r) tid = some v := by rw [← hv]; unfold getT; rw [h3]
  constructor
  · refine ⟨r, by simpa using h1, ?_⟩
    subst hr; exact ⟨rfl, rfl, rfl, rfl, rfl, rfl, rfl⟩
  · refine ⟨c, c1, c2, ?_⟩
    rw [parkAs_agenda, mem_sched, mem_sched]
    exact (arrival_cases s.nextId r).imp (fun e => .inr (by rw [← e]; exact h4)) (fun e => .inr (by rw [← e]; exact h4))
  · simpa using h2
  · exact fun _ => ⟨waitOf_parkAs (by simpa using hg) _, by rw [parkAs_agenda, mem_sched]; exact .inl rfl⟩
  · simp

theorem relaxedReplies_frame (s : State) (op : AccOp) (c id : Nat) : (relaxedReplies s op c id).mem = s.mem ∧
    (relaxedReplies s op c id).threads = s.threads ∧ (relaxedReplies s op c id).reqs = s.reqs ∧
    ∀ e ∈ s.agenda, e ∈ (relaxedReplies s op c id).agenda := by
  unfold relaxedReplies accWrites
  cases op <;> simp <;> intro a b h <;> simp only [mem_agendaAdd] <;> simp [h]

theorem relaxedPend_spec {s : State} {tid : Nat} {v : Thread} (h : getT s tid = some v) (op : AccOp) (d id : Nat) :
    SameStore s (relaxedPend s tid op d id) ∧ ∃ w, getT (relaxedPend s tid op d id) tid = some w ∧ SamePlace v w := by
  unfold relaxedPend
  simp only [h]
  split
  · exact ⟨setT_same .., _, getT_setT_same .., rfl, rfl, rfl⟩
  · exact ⟨.refl s, v, h, rfl, rfl, rfl⟩

theorem launchAccess_relaxed {s : State} {tid : Nat} {t v : Thread} {op : AccOp} {n : Nat} {a : Access} {d : Reg} {inc : Option Nat}
    (hv : getT s tid = some v) (h : 0 < parkTime (tid / 16) a.place) (hn : relaxedCount s tid < 8) :
    ∃ u, launchAccess s tid t op n a d.val inc true = .ok u ∧
      Leaves s u tid op (placeRun a.place n) (parkTime (tid / 16) a.place) d true := by
  have hn : ¬ 8 ≤ relaxedCount s tid := by omega
  unfold launchAccess
  simp only [Nat.ne_of_gt h, if_false, if_true, true_and, hn]
  refine ⟨_, rfl, ?_⟩
  generalize hr : (Req.mk tid op _ a.addr true _ _ _ _ _ _ _ _ _ _ _ _ _ _) = r
  obtain ⟨h1, h2, h3, c, c1, c2, h4⟩ := sendAccess_spec s tid h a.handle r
  generalize sendAccess s tid (parkTime (tid / 16) a.place) a.handle r = x at *
  obtain ⟨r1, r2, r3, r4⟩ := relaxedReplies_frame x op (s.cycle + parkTime (tid / 16) a.place) s.nextId
  generalize relaxedReplies x op (s.cycle + parkTime (tid / 16) a.place) s.nextId = y at *
  have hg : getT y tid = some v := by rw [← hv]; unfold getT; rw [r2, h3]
  obtain ⟨p1, w, p2, p3⟩ := relaxedPend_spec hg op d.val s.nextId
  obtain ⟨q, q2, q3⟩ := getT_applyInc p2 inc
  have same := p1.trans ((applyInc_same _ tid inc).trans (advance_same _ tid))
  constructor
  · refine ⟨r, by rw [same.reqs, r3, h1], ?_⟩
    subst hr; exact ⟨rfl, rfl, rfl, rfl, rfl, rfl, rfl⟩
  · exact ⟨c, c1, c2, by rw [same.agenda]; exact (arrival_cases s.nextId r).imp (fun e => r4 _ (by rw [← e]; exact h4)) (fun e => r4 _ (by rw [← e]; exact h4))⟩
  · rw [same.mem, r1, h2]
  · simp
  · refine fun _ => ⟨v, q.next, hv, by rw [getT_advance, q2]; rfl, ?_, ?_⟩
    · simp [Thread.next, Thread.nextPc, p3.1, p3.2.1, q3.1, q3.2.1]
    · simp [Thread.next, p3.2.2, q3.2.2]

/-! ## What an access does at its home -/

theorem logError_reqs (s : State) (k : Nat) (e : LogEntry) : (logError s k e).reqs = s.reqs := by
  unfold logError; repeat' split
  all_goals rfl

theorem windowWrite_reqs (s : State) (tid off : Nat) (bs : List (Nat × Byte)) (w : Writer) :
    (windowWrite s tid off bs w).reqs = s.reqs := by
  unfold windowWrite; repeat' split
  all_goals first | exact logError_reqs .. | exact setReg_reqs ..

theorem clearPoison_frame (s : State) (ps : List Place) : (clearPoison s ps).reqs = s.reqs ∧ (clearPoison s ps).mem = s.mem ∧
    (clearPoison s ps).threads = s.threads ∧ (clearPoison s ps).tags = s.tags ∧ (clearPoison s ps).empties = s.empties := by
  unfold clearPoison; split <;> exact ⟨rfl, rfl, rfl, rfl, rfl⟩

theorem putByte_frame (s : State) (p : Place) (b : Byte) : (putByte s p b).reqs = s.reqs ∧ (putByte s p b).threads = s.threads := by
  unfold putByte; split <;> exact ⟨rfl, rfl⟩

theorem putBytes_frame (l : List (Place × Byte)) (s : State) : (putBytes s l).reqs = s.reqs ∧ (putBytes s l).threads = s.threads := by
  induction l generalizing s with
  | nil => exact ⟨rfl, rfl⟩
  | cons x rest ih =>
    have h := putByte_frame s x.1 x.2
    exact ⟨(ih _).1.trans h.1, (ih _).2.trans h.2⟩

theorem storeBytes_reqs (s : State) (w : Writer) (ps : List Place) (bs : List Byte) : (storeBytes s w ps bs).reqs = s.reqs := by
  unfold storeBytes; split
  · exact windowWrite_reqs ..
  · rw [(clearPoison_frame ..).1, (putBytes_frame ..).1]

theorem storeTagged_reqs (s : State) (ps : List Place) (g : GReg) : (storeTagged s ps g).reqs = s.reqs := by
  unfold storeTagged; dsimp only; split
  · rfl
  · simp [setFull, (clearPoison_frame ..).1, (putBytes_frame ..).1]

theorem applyAcc_reqs (s : State) (w : Writer) (op : AccOp) (ps : List Place) : (applyAcc s w op ps).1.reqs = s.reqs := by
  unfold applyAcc
  cases op <;> dsimp only <;> (repeat' split) <;>
    simp [storeBytes_reqs, storeTagged_reqs, setFull, (clearPoison_frame ..).1, (putBytes_frame ..).1, windowWrite_reqs]

/-- With nothing parked at its words an access wakes nothing (06 R110). -/
theorem perform_none {s : State} {ps : List Place} (h : NoneParked s ps) (w : Writer) (op : AccOp) :
    perform s w op ps = applyAcc s w op ps := by
  have hr := applyAcc_reqs s w op ps
  unfold perform
  dsimp only
  split
  · rfl
  · suffices hs : serveWords s (applyAcc s w op ps).1 ps = (applyAcc s w op ps).1 by rw [hs]
    unfold serveWords
    have key : ∀ l : List Nat, (∀ k ∈ l, feParked s k = []) → ∀ u : State, u.reqs = s.reqs → l.foldl (fun u key =>
        if wordState s key == wordState u key then u else feServe key (u.reqs.length + 1) u) u = u := by
      intro l
      induction l with
      | nil => intros; rfl
      | cons k rest ih =>
        intro hl u hu
        rw [List.foldl_cons]
        have hk : feParked u k = [] := by
          have := hl k (List.mem_cons_self ..)
          unfold feParked at this ⊢; rw [hu]; exact this
        have : (if wordState s k == wordState u k then u else feServe k (u.reqs.length + 1) u) = u := by
          split
          · rfl
          · simp [feServe, hk, feOldest]
        rw [this]
        exact ih (fun j hj => hl j (List.mem_cons_of_mem _ hj)) u hu
    refine key _ ?_ _ hr
    intro k hk
    rw [List.mem_eraseDups, List.mem_map] at hk
    obtain ⟨p, hp, rfl⟩ := hk
    exact h p hp

/-- An access that changes nothing at its home wakes nothing. -/
theorem perform_still {s : State} {w : Writer} {op : AccOp} {ps : List Place} (h : (applyAcc s w op ps).1 = s) :
    perform s w op ps = applyAcc s w op ps := by
  unfold perform
  dsimp only
  split
  · rfl
  · suffices hs : serveWords s (applyAcc s w op ps).1 ps = (applyAcc s w op ps).1 by rw [hs]
    rw [h]
    unfold serveWords
    generalize (ps.map (fun p => placeKey p / 4 * 4)).eraseDups = l
    induction l with
    | nil => rfl
    | cons k rest ih => rw [List.foldl_cons]; simpa using ih

/-! ## Bytes at consecutive places -/

/-- A place whose bytes are in memory. -/
def inMem : Place → Bool
  | .reg _ _ => false
  | .recCopy _ _ => false
  | _ => true

theorem placeKey_add {p : Place} (k : Nat) : placeKey (placeAdd p k) = placeKey p + k := by
  cases p <;> simp [placeAdd, placeKey, lsAddr] <;> omega

theorem inMem_add {p : Place} (k : Nat) : inMem (placeAdd p k) = inMem p := by cases p <;> rfl

theorem putByte_mem {s : State} {p : Place} (h : inMem p = true) (b : Byte) : (putByte s p b).mem = memPut (placeKey p) b s.mem := by
  cases p <;> simp_all [inMem, putByte]

theorem putBytes_run (bs : List Byte) {p : Place} (h : inMem p = true) (s : State) :
    (putBytes s ((placeRun p bs.length).zip bs)).mem = placeBytes s.mem (placeKey p) bs := by
  induction bs generalizing p s with
  | nil => rfl
  | cons b rest ih =>
    simp only [List.length_cons, placeRun, List.zip_cons_cons, putBytes, placeBytes]
    rw [ih (by rw [inMem_add, h]), putByte_mem h, placeKey_add]

theorem memGet_placeBytes (bs : List Byte) {m : List Host.Cell} (w : Memory.wf m = true) (pa a : Nat) :
    memGet a (placeBytes m pa bs) = if pa ≤ a ∧ a < pa + bs.length then nth 0 (a - pa) bs else memGet a m := by
  induction bs generalizing m pa with
  | nil => simp [placeBytes]
  | cons b rest ih =>
    simp only [placeBytes]
    rw [ih (memPut_wf w _ _), memGet_memPut w, List.length_cons]
    by_cases h : a = pa
    · subst h; simp [nth]
    · by_cases h2 : pa < a
      · have e : a - pa = (a - (pa + 1)) + 1 := by omega
        rw [e]; simp only [nth]
        split <;> split <;> first | rfl | omega
      · have : ¬ (pa + 1 ≤ a ∧ a < pa + 1 + rest.length) := by omega
        have : ¬ (pa ≤ a ∧ a < pa + (rest.length + 1)) := by omega
        simp [*]

theorem length_toBytes (n v : Nat) : (toBytes n v).length = n := by
  induction n generalizing v with
  | zero => rfl
  | succ n ih => simp [toBytes, ih]

theorem length_placeRun (p : Place) (n : Nat) : (placeRun p n).length = n := by
  induction n generalizing p with
  | zero => rfl
  | succ n ih => simp [placeRun, ih]

theorem nth_toBytes (n v k : Nat) (h : k < n) : nth 0 k (toBytes n v) = BitVec.ofNat 8 (v / 256 ^ k) := by
  induction n generalizing v k with
  | zero => omega
  | succ n ih =>
    cases k with
    | zero => simp [toBytes, nth]
    | succ k => simp only [toBytes, nth]; rw [ih _ _ (by omega), Nat.div_div_eq_div_mul, Nat.pow_succ, Nat.mul_comm]

theorem getByte_mem {s : State} {p : Place} (h : inMem p = true) : getByte s p = memGet (placeKey p) s.mem := by
  cases p <;> simp_all [inMem, getByte]

/-- The number that n bytes at a place hold is the number whose bytes stand there. -/
theorem getNat_run {s : State} {p : Place} (h : inMem p = true) (n v : Nat)
    (hb : ∀ k < n, memGet (placeKey p + k) s.mem = BitVec.ofNat 8 (v / 256 ^ k)) : getNat s (placeRun p n) = v % 2 ^ (8 * n) := by
  unfold getNat
  induction n generalizing p v with
  | zero => simp [placeRun, leNat, Nat.mod_one]
  | succ n ih =>
    have h0 := hb 0 (by omega)
    simp only [placeRun, List.map_cons, leNat]
    rw [ih (p := placeAdd p 1) (by rw [inMem_add, h]) (v / 256)]
    · rw [getByte_mem h]
      simp only [Nat.add_zero, Nat.pow_zero, Nat.div_one] at h0
      rw [h0, BitVec.toNat_ofNat]
      have e : (2 : Nat) ^ (8 * (n + 1)) = 2 ^ 8 * 2 ^ (8 * n) := by rw [← Nat.pow_add]; congr 1; omega
      rw [e, Nat.mod_mul]
      norm_num
    · intro k hk
      rw [placeKey_add]
      have := hb (k + 1) (by omega)
      rw [Nat.div_div_eq_div_mul, ← Nat.pow_succ', ← this]; congr 1; omega

/-- A place of the memory is no register window: a store to it writes its bytes one by one. -/
theorem storeBytes_eq {p : Place} (h : inMem p = true) (s : State) (w : Writer) (n v : Nat) :
    storeBytes s w (placeRun p n) (toBytes n v) = clearPoison (putBytes s ((placeRun p n).zip (toBytes n v))) (placeRun p n) := by
  unfold storeBytes; split
  · rename_i tid off rest hq
    cases n with
    | zero => simp [placeRun] at hq
    | succ n => simp [placeRun] at hq; rw [hq.1] at h; simp [inMem] at h
  · rfl

/-- A store of bytes in memory: they read as written, every other byte as before, and no access and no thread has changed. -/
theorem storeBytes_spec {s : State} {p : Place} (hm : MemOk s) (h : inMem p = true) (w : Writer) (n v : Nat) :
    (∀ k < n, memGet (placeKey p + k) (storeBytes s w (placeRun p n) (toBytes n v)).mem = BitVec.ofNat 8 (v / 256 ^ k)) ∧
    (∀ a, (a < placeKey p ∨ placeKey p + n ≤ a) → memGet a (storeBytes s w (placeRun p n) (toBytes n v)).mem = memGet a s.mem) ∧
    (storeBytes s w (placeRun p n) (toBytes n v)).threads = s.threads := by
  have e := storeBytes_eq h s w n v
  have hl := length_toBytes n v
  have hr := putBytes_run (toBytes n v) h s
  rw [hl] at hr
  rw [e, (clearPoison_frame ..).2.1, (clearPoison_frame ..).2.2.1, hr, (putBytes_frame ..).2]
  refine ⟨?_, ?_, rfl⟩
  · intro k hk
    rw [memGet_placeBytes _ hm, hl, if_pos (by omega), Nat.add_sub_cancel_left, nth_toBytes _ _ _ hk]
  · intro a ha
    rw [memGet_placeBytes _ hm, hl, if_neg (by omega)]

/-- A store of a tagged value writes the same bytes (05 R84). -/
theorem storeTagged_frame (s : State) (p : Place) (n : Nat) (g : GReg) :
    (storeTagged s (placeRun p (n + 1)) g).mem = (clearPoison (putBytes s ((placeRun p (n + 1)).zip (toBytes 16 g.bits.toNat)))
      (placeRun p (n + 1))).mem ∧ (storeTagged s (placeRun p (n + 1)) g).threads = s.threads := by
  simp only [storeTagged, placeRun, setFull]
  exact ⟨trivial, by rw [(clearPoison_frame ..).2.2.1, (putBytes_frame ..).2]⟩

theorem bankHit_frame (s : State) (c o : Nat) : (bankHit s c o).mem = s.mem ∧ (bankHit s c o).threads = s.threads ∧
    (bankHit s c o).empties = s.empties ∧ (bankHit s c o).tags = s.tags := by
  unfold bankHit; repeat' split
  all_goals exact ⟨rfl, rfl, rfl, rfl⟩

theorem countAt_zero (s : State) (k : Nat) : countAt s k Counts.zero = s := by simp [countAt, count]

theorem getNat_lt (s : State) (p : Place) (n : Nat) : getNat s (placeRun p n) < 2 ^ (8 * n) := by
  induction n generalizing p with
  | zero => simp [getNat, placeRun, leNat]
  | succ n ih =>
    have := ih (placeAdd p 1)
    simp only [getNat, placeRun, List.map_cons, leNat] at this ⊢
    have hb := (getByte s p).isLt
    have e : (2 : Nat) ^ (8 * (n + 1)) = 256 * 2 ^ (8 * n) := by rw [show 8 * (n + 1) = 8 + 8 * n by omega, Nat.pow_add]
    omega

/-- States with the same bytes hold the same numbers. -/
theorem getNat_congr {s u : State} (e : u.mem = s.mem) {p : Place} (h : inMem p = true) (n : Nat) :
    getNat u (placeRun p n) = getNat s (placeRun p n) := by
  induction n generalizing p with
  | zero => rfl
  | succ n ih =>
    have := ih (p := placeAdd p 1) (by rw [inMem_add, h])
    simp only [getNat, placeRun, List.map_cons, leNat] at this ⊢
    rw [getByte_mem h, getByte_mem h, e, this]

/-! ## Full/empty instructions -/

/-- LDS and STS whose word is in the core's own store and in the state they need are done as the bundle goes on (06 R109). -/
theorem launchFe_near {s : State} {tid : Nat} {t : Thread} {op : AccOp} {a : Access} {d : Reg} {inc : Option Nat}
    (h : parkTime (tid / 16) a.place = 0) (hf : feReady s op (placeRun a.place 4) = true)
    (hp : accReads op = true → poisoned s (placeRun a.place 4) = none) :
    launchFe s tid t op a d.val inc = .ok (
      let e := perform s (threadWriter s tid) op (placeRun a.place 4)
      let s1 := match a.place with
        | .ls _ off => bankHit e.1 (tid / 16) off
        | _ => e.1
      let u := accessed s1 tid t op d inc e.2.1 Counts.zero
      if op = .lds then dropAhead u tid else u) := by
  have hs : softCheck s (if accReads op = true then placeRun a.place 4 else []) = .ok () := by
    unfold softCheck
    cases ha : accReads op
    · have : poisoned s [] = none := by unfold poisoned; split <;> simp
      simp [this]
    · simp [hp ha]
  unfold launchFe
  simp only [h, hf, and_self, if_true, hs, bind, Except.bind, accessed, countAt_zero]
  cases op <;> simp <;> rfl

/-- Otherwise they park at the word, or on the way to it (06 R110). -/
theorem launchFe_park {s : State} {tid : Nat} {v : Thread} (hv : getT s tid = some v) (t : Thread) (op : AccOp) (a : Access) (d : Reg)
    (inc : Option Nat) (h : ¬ (parkTime (tid / 16) a.place = 0 ∧ feReady s op (placeRun a.place 4) = true)) :
    ∃ u r, launchFe s tid t op a d.val inc = .ok u ∧ waitOf u tid = some (.fullEmpty s.nextId) ∧ tget s.nextId u.reqs = some r ∧
      r.op = op ∧ r.at_ = placeRun a.place 4 ∧ r.dest = d.val ∧ r.retries = 0 ∧ u.empties = s.empties ∧ u.mem = s.mem := by
  unfold launchFe
  simp only [h, if_false]
  generalize hr : (Req.mk tid op (placeRun a.place 4) a.addr false s.cycle (parkTime (tid / 16) a.place) d.val inc false GReg.zero
      Counts.zero 0 (s.cycle + parkTime (tid / 16) a.place / 2) (decide (parkTime (tid / 16) a.place = 0)) none false [] t.owner) = r
  refine ⟨_, r, rfl, ?_, ?_, ?_⟩
  · have : waitOf (parkAs (fresh { s with reqs := tset s.nextId r s.reqs }) tid (.fullEmpty s.nextId)) tid
        = some (.fullEmpty s.nextId) := waitOf_parkAs (t := v) (by exact hv) _
    split <;> exact this
  · split <;> simp
  · subst hr
    refine ⟨rfl, rfl, rfl, rfl, ?_, ?_⟩ <;> split <;> simp

end Sys2Proof.Machine
end

