-- ==== Sys2Proof/Laws/Engines.lean ====
section
/-!
SUPPORT. Commands of engines: what a submitted command leaves behind.
-/

namespace Sys2Proof.Machine

/-- An operation touches handles and pins only: engines, threads, memory, events and commands are the same. -/
structure SameEngines (s u : State) : Prop where
  engines : ∀ k, (clusterSt u k).engines = (clusterSt s k).engines
  threads : u.threads = s.threads
  mem : u.mem = s.mem
  cmds : u.cmds = s.cmds
  nextId : u.nextId = s.nextId
  agenda : u.agenda = s.agenda
  cycle : u.cycle = s.cycle

theorem SameEngines.refl (s : State) : SameEngines s s := ⟨fun _ => rfl, rfl, rfl, rfl, rfl, rfl, rfl⟩

theorem SameEngines.trans {s u v : State} (a : SameEngines s u) (b : SameEngines u v) : SameEngines s v :=
  ⟨fun k => (b.engines k).trans (a.engines k), b.threads.trans a.threads, b.mem.trans a.mem, b.cmds.trans a.cmds,
    b.nextId.trans a.nextId, b.agenda.trans a.agenda, b.cycle.trans a.cycle⟩

theorem hltActive_sameEngines (s : State) (cl k : Nat) (up : Bool) : SameEngines s (hltActive s cl k up) := by
  unfold hltActive setHlt
  refine ⟨?_, rfl, rfl, rfl, rfl, rfl, rfl⟩
  intro j
  by_cases h : j = cl
  · subst h; simp
  · rw [clusterSt_setCluster_ne _ h]

theorem addPin_sameEngines (s : State) (ctx m : Nat) : SameEngines s (addPin s ctx m) := by
  unfold addPin
  repeat' split
  all_goals exact ⟨fun _ => rfl, rfl, rfl, rfl, rfl, rfl, rfl⟩

theorem foldl_sameEngines {α : Type} {f : State → α → State} (h : ∀ u x, SameEngines u (f u x)) (l : List α) (s : State) :
    SameEngines s (l.foldl f s) := by
  induction l generalizing s with
  | nil => exact .refl s
  | cons x rest ih => exact (h s x).trans (ih _)

theorem holdOperands_sameEngines (s : State) (tid ctx : Nat) (gs : List GReg) : SameEngines s (holdOperands s tid ctx gs).1 := by
  unfold holdOperands
  exact (foldl_sameEngines (fun u k => hltActive_sameEngines ..) _ _).trans (foldl_sameEngines (fun u m => addPin_sameEngines ..) _ _)

theorem nth_setNth {α : Type} (d v : α) (l : List α) (k : Nat) (h : k < l.length) : nth d k (setNth v k l) = v := by
  induction l generalizing k with
  | nil => simp at h
  | cons x rest ih =>
    cases k with
    | zero => rfl
    | succ k => simp only [setNth, nth]; exact ih k (by simpa using h)

theorem getT_congr {s u : State} (h : u.threads = s.threads) (k : Nat) : getT u k = getT s k := by unfold getT; rw [h]

/-- A command as another, on an engine of the same cluster. -/
def SameCmd (x y : Cmd) : Prop :=
  y.op = x.op ∧ y.tid = x.tid ∧ y.eng / 8 = x.eng / 8 ∧ y.a = x.a ∧ y.b = x.b ∧ y.d = x.d ∧ y.m = x.m ∧ y.total = x.total ∧ y.bar = x.bar ∧
    y.notBefore = x.notBefore ∧ y.phase = x.phase ∧ y.issued = x.issued

/-- Commands may change engines of their cluster; threads and memory are the same. -/
structure Requeued (s u : State) : Prop where
  threads : u.threads = s.threads
  mem : u.mem = s.mem
  cmds : ∀ k x, tget k s.cmds = some x → ∃ y, tget k u.cmds = some y ∧ SameCmd x y

theorem Requeued.refl (s : State) : Requeued s s :=
  ⟨rfl, rfl, fun _ x h => ⟨x, h, rfl, rfl, rfl, rfl, rfl, rfl, rfl, rfl, rfl, rfl, rfl, rfl⟩⟩

theorem Requeued.trans {s u v : State} (a : Requeued s u) (b : Requeued u v) : Requeued s v := by
  refine ⟨b.threads.trans a.threads, b.mem.trans a.mem, fun k x h => ?_⟩
  obtain ⟨y, hy, e⟩ := a.cmds k x h
  obtain ⟨z, hz, e'⟩ := b.cmds k y hy
  refine ⟨z, hz, ?_⟩
  unfold SameCmd at *
  simp_all

theorem requeued_of_cmds {s u : State} (h1 : u.threads = s.threads) (h2 : u.mem = s.mem) (h3 : u.cmds = s.cmds) : Requeued s u :=
  ⟨h1, h2, fun _ x h => ⟨x, by rw [h3]; exact h, rfl, rfl, rfl, rfl, rfl, rfl, rfl, rfl, rfl, rfl, rfl, rfl⟩⟩

theorem unqueue_requeued (s : State) (k : Nat) : Requeued s (unqueue s k) := by
  unfold unqueue setEng; split
  · exact .refl s
  · exact requeued_of_cmds rfl rfl rfl

theorem enqueue_requeued (s : State) (k : Nat) : Requeued s (enqueue s k) := by
  unfold enqueue; split
  · exact .refl s
  · dsimp only; split <;> exact requeued_of_cmds rfl rfl rfl

theorem chooseCopy_cluster (s : State) (cl : Nat) : chooseCopy s cl / 8 = cl := by
  unfold chooseCopy
  dsimp only
  have : ∀ o : Option Nat, (∀ k, o = some k → k < 4) → (cl * 8 + o.getD 0) / 8 = cl := by
    intro o h; cases o with
    | none => simp
    | some k => have := h k rfl; simp only [Option.getD_some]; omega
  exact this _ (fun k h => by have := List.mem_of_find?_eq_some h; simpa using this)

theorem chooseAgain_requeued (s : State) (k : Nat) : Requeued s (chooseAgain s k) := by
  unfold chooseAgain
  split
  · exact .refl s
  · rename_i c hc
    split
    · exact .refl s
    · refine ⟨rfl, rfl, fun j x h => ?_⟩
      by_cases hj : j = k
      · subst hj
        rw [hc] at h; cases h
        exact ⟨_, tget_tset_same .., rfl, rfl, chooseCopy_cluster .., rfl, rfl, rfl, rfl, rfl, rfl, rfl, rfl, rfl⟩
      · refine ⟨x, ?_, rfl, rfl, rfl, rfl, rfl, rfl, rfl, rfl, rfl, rfl, rfl, rfl⟩
        dsimp only
        rw [tget_tset, if_neg hj]; exact h

theorem foldl_requeued {f : State → Nat → State} (h : ∀ u x, Requeued u (f u x)) (l : List Nat) (s : State) : Requeued s (l.foldl f s) := by
  induction l generalizing s with
  | nil => exact .refl s
  | cons x rest ih => exact (h s x).trans (ih _)

/-- A command that goes to an engine's queue is recorded there, an idle engine accepts it 4 cycles later, and its thread is parked
(01 R15, 06 R115). -/
theorem submit_spec {s : State} {c : Cmd} {v : Thread} (hv : getT s c.tid = some v) (hp : c.phase = .queued) (hi : c.issued = s.cycle)
    (w : Nat → Wait) : Submitted s (submit s c w) c.tid c w := by
  have h := holdOperands_sameEngines s c.tid c.ctx [c.a, c.b, c.d, c.m]
  unfold submit joinQueue
  generalize holdOperands s c.tid c.ctx [c.a, c.b, c.d, c.m] = q at *
  obtain ⟨q, hs, ps⟩ := q
  dsimp only at h ⊢
  generalize hc : ({ c with handles := hs, pins := ps } : Cmd) = x
  generalize hb : issuedBehind s c = l
  have hx : tget s.nextId (fresh { q with cmds := tset s.nextId x q.cmds }).cmds = some x := tget_tset_same ..
  have ht : (fresh { q with cmds := tset s.nextId x q.cmds }).threads = s.threads := h.threads
  have hm : (fresh { q with cmds := tset s.nextId x q.cmds }).mem = s.mem := h.mem
  have he : engOf (fresh { q with cmds := tset s.nextId x q.cmds }) x.eng = engOf s c.eng := by
    subst hc; exact congrArg (nth Engine.reset (c.eng % 8)) (h.engines _)
  have hl : (clusterSt (fresh { q with cmds := tset s.nextId x q.cmds }) (c.eng / 8)).engines = (clusterSt s (c.eng / 8)).engines := h.engines _
  have hcy : (fresh { q with cmds := tset s.nextId x q.cmds }).cycle = s.cycle := h.cycle
  generalize fresh { q with cmds := tset s.nextId x q.cmds } = y at *
  have hr : ∀ z, Requeued y z → ∃ e, tget s.nextId z.cmds = some e ∧ SameCmd x e ∧ getT z c.tid = some v ∧ z.mem = s.mem := by
    intro z r
    obtain ⟨e, h1, h2⟩ := r.cmds _ x hx
    exact ⟨e, h1, h2, by rw [← hv]; exact getT_congr (r.threads.trans ht) _, r.mem.trans hm⟩
  have hz : ∀ z, Requeued y z → (l = [] → z = enqueue y s.nextId) → Submitted s (parkAs z c.tid (w s.nextId)) c.tid c w := by
    intro z r hn
    obtain ⟨e, h1, h2, h3, h4⟩ := hr z r
    have hen : l = [] → z = (if (engOf s c.eng).exec.isNone then
        sched (setEng y c.eng { engOf s c.eng with queue := (engOf s c.eng).queue ++ [s.nextId] }) (s.cycle + 4) (.engineAccept s.nextId)
        else setEng y c.eng { engOf s c.eng with queue := (engOf s c.eng).queue ++ [s.nextId] }) := by
      intro hl0
      rw [hn hl0]
      unfold enqueue
      have hxe : x.eng = c.eng := by subst hc; rfl
      rw [hxe] at he
      simp only [hx, hxe, hcy, he]
    obtain ⟨e1, e2, e3, e4, e5, e6, e7, e8, e9, e10, e11, e12⟩ := h2
    constructor
    · refine ⟨e, by rw [parkAs_cmds]; exact h1, ?_⟩
      subst hc
      refine ⟨e1, e2, e3, e4, e5, e6, e7, e8, e9, e10, e11.trans hp, e12.trans hi, fun hl0 => ?_⟩
      have : tget s.nextId z.cmds = some { c with handles := hs, pins := ps } := by
        rw [hen (hb ▸ hl0)]
        split <;> simpa [setEng] using hx
      rw [this] at h1; cases h1; rfl
    · intro hl0 hlen
      have e : (tget (c.eng / 8) (setEng y c.eng
        { engOf s c.eng with queue := (engOf s c.eng).queue ++ [s.nextId] }).clusters) =
        some { clusterSt y (c.eng / 8) with engines := setNth { engOf s c.eng with queue := (engOf s c.eng).queue ++ [s.nextId] } (c.eng % 8) (clusterSt y (c.eng / 8)).engines } := by
        unfold setEng setCluster
        exact tget_tset_same ..
      have e2 : z.clusters = (setEng y c.eng { engOf s c.eng with queue := (engOf s c.eng).queue ++ [s.nextId] }).clusters := by
        rw [hen (hb ▸ hl0)]; split <;> rfl
      have hlen' : c.eng % 8 < (clusterSt y (c.eng / 8)).engines.length := by rw [hl]; exact hlen
      generalize engOf s c.eng = g at *
      have hg : clusterSt (parkAs z c.tid (w s.nextId)) (c.eng / 8) = { clusterSt y (c.eng / 8) with
          engines := setNth { g with queue := g.queue ++ [s.nextId] } (c.eng % 8) (clusterSt y (c.eng / 8)).engines } := by
        unfold clusterSt at e ⊢
        rw [parkAs_clusters, e2, e, Option.getD_some]
      unfold engOf
      rw [hg, nth_setNth _ _ _ _ hlen']
    · intro hl0 hx0
      rw [hen (hb ▸ hl0), hx0, Option.isNone_none, if_pos rfl, parkAs_agenda, mem_sched]
      exact .inl rfl
    · exact waitOf_parkAs h3 _
    · rw [parkAs_mem]; exact h4
  cases l with
  | nil => exact hz _ (enqueue_requeued _ _) (fun _ => rfl)
  | cons k rest =>
    refine hz _ ?_ (fun h0 => by cases h0)
    exact (foldl_requeued unqueue_requeued _ _).trans
      (foldl_requeued (fun u k => (chooseAgain_requeued u k).trans (enqueue_requeued _ _)) _ _)

end Sys2Proof.Machine
end

