-- ==== Sys2Proof/Laws/Exec.lean ====
section
/-!
SUPPORT. exec of each constructor is its meaning.
-/

namespace Sys2Proof.Machine

theorem exec_bCc x1 x2 x3 x4 (s : State) : exec (.bCc x1 x2 x3 x4) s = execBCc x1 x2 x3 x4 s := rfl
theorem exec_bCcX x1 x2 x3 x4 (s : State) : exec (.bCcX x1 x2 x3 x4) s = execBCcX x1 x2 x3 x4 s := rfl
theorem exec_biCc x1 x2 x3 x4 (s : State) : exec (.biCc x1 x2 x3 x4) s = execBiCc x1 x2 x3 x4 s := rfl
theorem exec_biCcX x1 x2 x3 x4 (s : State) : exec (.biCcX x1 x2 x3 x4) s = execBiCcX x1 x2 x3 x4 s := rfl
theorem exec_j x1 (s : State) : exec (.j x1) s = execJ x1 s := rfl
theorem exec_jal x1 x2 (s : State) : exec (.jal x1 x2) s = execJal x1 x2 s := rfl
theorem exec_jalr x1 x2 (s : State) : exec (.jalr x1 x2) s = execJalr x1 x2 s := rfl
theorem exec_spawn x1 x2 x3 (s : State) : exec (.spawn x1 x2 x3) s = execSpawn x1 x2 x3 s := rfl
theorem exec_exit (s : State) : exec (.exit) s = execExit s := rfl
theorem exec_waitt x1 (s : State) : exec (.waitt x1) s = execWaitt x1 s := rfl
theorem exec_sleep x1 (s : State) : exec (.sleep x1) s = execSleep x1 s := rfl
theorem exec_ppt x1 (s : State) : exec (.ppt x1) s = execPpt x1 s := rfl
theorem exec_crr x1 x2 (s : State) : exec (.crr x1 x2) s = execCrr x1 x2 s := rfl
theorem exec_crw x1 x2 (s : State) : exec (.crw x1 x2) s = execCrw x1 x2 s := rfl
theorem exec_trap x1 (s : State) : exec (.trap x1) s = execTrap x1 s := rfl
theorem exec_nop (s : State) : exec (.nop) s = execNop s := rfl
theorem exec_add x1 x2 x3 (s : State) : exec (.add x1 x2 x3) s = execAdd x1 x2 x3 s := rfl
theorem exec_sub x1 x2 x3 (s : State) : exec (.sub x1 x2 x3) s = execSub x1 x2 x3 s := rfl
theorem exec_and x1 x2 x3 (s : State) : exec (.and x1 x2 x3) s = execAnd x1 x2 x3 s := rfl
theorem exec_or x1 x2 x3 (s : State) : exec (.or x1 x2 x3) s = execOr x1 x2 x3 s := rfl
theorem exec_xor x1 x2 x3 (s : State) : exec (.xor x1 x2 x3) s = execXor x1 x2 x3 s := rfl
theorem exec_andn x1 x2 x3 (s : State) : exec (.andn x1 x2 x3) s = execAndn x1 x2 x3 s := rfl
theorem exec_shl x1 x2 x3 (s : State) : exec (.shl x1 x2 x3) s = execShl x1 x2 x3 s := rfl
theorem exec_shr x1 x2 x3 (s : State) : exec (.shr x1 x2 x3) s = execShr x1 x2 x3 s := rfl
theorem exec_sra x1 x2 x3 (s : State) : exec (.sra x1 x2 x3) s = execSra x1 x2 x3 s := rfl
theorem exec_rol x1 x2 x3 (s : State) : exec (.rol x1 x2 x3) s = execRol x1 x2 x3 s := rfl
theorem exec_min x1 x2 x3 (s : State) : exec (.min x1 x2 x3) s = execMin x1 x2 x3 s := rfl
theorem exec_max x1 x2 x3 (s : State) : exec (.max x1 x2 x3) s = execMax x1 x2 x3 s := rfl
theorem exec_minn x1 x2 x3 (s : State) : exec (.minn x1 x2 x3) s = execMinn x1 x2 x3 s := rfl
theorem exec_maxn x1 x2 x3 (s : State) : exec (.maxn x1 x2 x3) s = execMaxn x1 x2 x3 s := rfl
theorem exec_slt x1 x2 x3 (s : State) : exec (.slt x1 x2 x3) s = execSlt x1 x2 x3 s := rfl
theorem exec_sltn x1 x2 x3 (s : State) : exec (.sltn x1 x2 x3) s = execSltn x1 x2 x3 s := rfl
theorem exec_mul x1 x2 x3 (s : State) : exec (.mul x1 x2 x3) s = execMul x1 x2 x3 s := rfl
theorem exec_mulh x1 x2 x3 (s : State) : exec (.mulh x1 x2 x3) s = execMulh x1 x2 x3 s := rfl
theorem exec_mulhn x1 x2 x3 (s : State) : exec (.mulhn x1 x2 x3) s = execMulhn x1 x2 x3 s := rfl
theorem exec_div x1 x2 x3 (s : State) : exec (.div x1 x2 x3) s = execDiv x1 x2 x3 s := rfl
theorem exec_divn x1 x2 x3 (s : State) : exec (.divn x1 x2 x3) s = execDivn x1 x2 x3 s := rfl
theorem exec_rem x1 x2 x3 (s : State) : exec (.rem x1 x2 x3) s = execRem x1 x2 x3 s := rfl
theorem exec_remn x1 x2 x3 (s : State) : exec (.remn x1 x2 x3) s = execRemn x1 x2 x3 s := rfl
theorem exec_clz x1 x2 (s : State) : exec (.clz x1 x2) s = execClz x1 x2 s := rfl
theorem exec_ctz x1 x2 (s : State) : exec (.ctz x1 x2) s = execCtz x1 x2 s := rfl
theorem exec_popc x1 x2 (s : State) : exec (.popc x1 x2) s = execPopc x1 x2 s := rfl
theorem exec_sel x1 x2 x3 x4 (s : State) : exec (.sel x1 x2 x3 x4) s = execSel x1 x2 x3 x4 s := rfl
theorem exec_addi x1 x2 x3 (s : State) : exec (.addi x1 x2 x3) s = execAddi x1 x2 x3 s := rfl
theorem exec_andi x1 x2 x3 (s : State) : exec (.andi x1 x2 x3) s = execAndi x1 x2 x3 s := rfl
theorem exec_ori x1 x2 x3 (s : State) : exec (.ori x1 x2 x3) s = execOri x1 x2 x3 s := rfl
theorem exec_xori x1 x2 x3 (s : State) : exec (.xori x1 x2 x3) s = execXori x1 x2 x3 s := rfl
theorem exec_slti x1 x2 x3 (s : State) : exec (.slti x1 x2 x3) s = execSlti x1 x2 x3 s := rfl
theorem exec_shli x1 x2 x3 (s : State) : exec (.shli x1 x2 x3) s = execShli x1 x2 x3 s := rfl
theorem exec_shri x1 x2 x3 (s : State) : exec (.shri x1 x2 x3) s = execShri x1 x2 x3 s := rfl
theorem exec_srai x1 x2 x3 (s : State) : exec (.srai x1 x2 x3) s = execSrai x1 x2 x3 s := rfl
theorem exec_li x1 x2 (s : State) : exec (.li x1 x2) s = execLi x1 x2 s := rfl
theorem exec_liX x1 x2 (s : State) : exec (.liX x1 x2) s = execLiX x1 x2 s := rfl
theorem exec_mov x1 x2 (s : State) : exec (.mov x1 x2) s = execMov x1 x2 s := rfl
theorem exec_move x1 x2 (s : State) : exec (.move x1 x2) s = execMove x1 x2 s := rfl
theorem exec_kind x1 x2 (s : State) : exec (.kind x1 x2) s = execKind x1 x2 s := rfl
theorem exec_cget x1 x2 x3 (s : State) : exec (.cget x1 x2 x3) s = execCget x1 x2 x3 s := rfl
theorem exec_csetb x1 x2 x3 (s : State) : exec (.csetb x1 x2 x3) s = execCsetb x1 x2 x3 s := rfl
theorem exec_csetp x1 x2 x3 (s : State) : exec (.csetp x1 x2 x3) s = execCsetp x1 x2 x3 s := rfl
theorem exec_csetc x1 x2 x3 (s : State) : exec (.csetc x1 x2 x3) s = execCsetc x1 x2 x3 s := rfl
theorem exec_cinc x1 x2 x3 (s : State) : exec (.cinc x1 x2 x3) s = execCinc x1 x2 x3 s := rfl
theorem exec_ld x1 x2 x3 (s : State) : exec (.ld x1 x2 x3) s = execLd x1 x2 x3 s := rfl
theorem exec_st x1 x2 x3 (s : State) : exec (.st x1 x2 x3) s = execSt x1 x2 x3 s := rfl
theorem exec_lds x1 x2 x3 (s : State) : exec (.lds x1 x2 x3) s = execLds x1 x2 x3 s := rfl
theorem exec_sts x1 x2 x3 (s : State) : exec (.sts x1 x2 x3) s = execSts x1 x2 x3 s := rfl
theorem exec_fest x1 x2 x3 (s : State) : exec (.fest x1 x2 x3) s = execFest x1 x2 x3 s := rfl
theorem exec_feget x1 x2 x3 (s : State) : exec (.feget x1 x2 x3) s = execFeget x1 x2 x3 s := rfl
theorem exec_atm x1 x2 x3 x4 x5 (s : State) : exec (.atm x1 x2 x3 x4 x5) s = execAtm x1 x2 x3 x4 x5 s := rfl
theorem exec_atmCas x1 x2 x3 x4 x5 (s : State) : exec (.atmCas x1 x2 x3 x4 x5) s = execAtmCas x1 x2 x3 x4 x5 s := rfl
theorem exec_atmf x1 x2 x3 x4 x5 x6 (s : State) : exec (.atmf x1 x2 x3 x4 x5 x6) s = execAtmf x1 x2 x3 x4 x5 x6 s := rfl
theorem exec_cpy x1 x2 x3 x4 (s : State) : exec (.cpy x1 x2 x3 x4) s = execCpy x1 x2 x3 x4 s := rfl
theorem exec_cpyAt x1 x2 x3 x4 x5 (s : State) : exec (.cpyAt x1 x2 x3 x4 x5) s = execCpyAt x1 x2 x3 x4 x5 s := rfl
theorem exec_cpys x1 x2 x3 x4 (s : State) : exec (.cpys x1 x2 x3 x4) s = execCpys x1 x2 x3 x4 s := rfl
theorem exec_cpysAt x1 x2 x3 x4 x5 (s : State) : exec (.cpysAt x1 x2 x3 x4 x5) s = execCpysAt x1 x2 x3 x4 x5 s := rfl
theorem exec_fadd x1 x2 x3 x4 (s : State) : exec (.fadd x1 x2 x3 x4) s = execFadd x1 x2 x3 x4 s := rfl
theorem exec_fsub x1 x2 x3 x4 (s : State) : exec (.fsub x1 x2 x3 x4) s = execFsub x1 x2 x3 x4 s := rfl
theorem exec_fmul x1 x2 x3 x4 (s : State) : exec (.fmul x1 x2 x3 x4) s = execFmul x1 x2 x3 x4 s := rfl
theorem exec_fdiv x1 x2 x3 x4 (s : State) : exec (.fdiv x1 x2 x3 x4) s = execFdiv x1 x2 x3 x4 s := rfl
theorem exec_fsqrt x1 x2 x3 (s : State) : exec (.fsqrt x1 x2 x3) s = execFsqrt x1 x2 x3 s := rfl
theorem exec_fmin x1 x2 x3 (s : State) : exec (.fmin x1 x2 x3) s = execFmin x1 x2 x3 s := rfl
theorem exec_fmax x1 x2 x3 (s : State) : exec (.fmax x1 x2 x3) s = execFmax x1 x2 x3 s := rfl
theorem exec_fcmp x1 x2 x3 x4 (s : State) : exec (.fcmp x1 x2 x3 x4) s = execFcmp x1 x2 x3 x4 s := rfl
theorem exec_fclass x1 x2 (s : State) : exec (.fclass x1 x2) s = execFclass x1 x2 s := rfl
theorem exec_ffma x1 x2 x3 x4 x5 (s : State) : exec (.ffma x1 x2 x3 x4 x5) s = execFfma x1 x2 x3 x4 x5 s := rfl
theorem exec_cvt x1 x2 x3 x4 x5 (s : State) : exec (.cvt x1 x2 x3 x4 x5) s = execCvt x1 x2 x3 x4 x5 s := rfl
theorem exec_img x1 x2 x3 (s : State) : exec (.img x1 x2 x3) s = execImg x1 x2 x3 s := rfl
theorem exec_imgi x1 x2 x3 (s : State) : exec (.imgi x1 x2 x3) s = execImgi x1 x2 x3 s := rfl
theorem exec_sbind x1 x2 x3 x4 x5 (s : State) : exec (.sbind x1 x2 x3 x4 x5) s = execSbind x1 x2 x3 x4 x5 s := rfl
theorem exec_scnt x1 x2 (s : State) : exec (.scnt x1 x2) s = execScnt x1 x2 s := rfl
theorem exec_vadd x1 (s : State) : exec (.vadd x1) s = execVadd x1 s := rfl
theorem exec_vsub x1 (s : State) : exec (.vsub x1) s = execVsub x1 s := rfl
theorem exec_vmul x1 (s : State) : exec (.vmul x1) s = execVmul x1 s := rfl
theorem exec_vfma x1 (s : State) : exec (.vfma x1) s = execVfma x1 s := rfl
theorem exec_vmin x1 (s : State) : exec (.vmin x1) s = execVmin x1 s := rfl
theorem exec_vmax x1 (s : State) : exec (.vmax x1) s = execVmax x1 s := rfl
theorem exec_vsel x1 (s : State) : exec (.vsel x1) s = execVsel x1 s := rfl
theorem exec_vcx x1 (s : State) : exec (.vcx x1) s = execVcx x1 s := rfl
theorem exec_vcmp x1 x2 (s : State) : exec (.vcmp x1 x2) s = execVcmp x1 x2 s := rfl
theorem exec_vand x1 (s : State) : exec (.vand x1) s = execVand x1 s := rfl
theorem exec_vor x1 (s : State) : exec (.vor x1) s = execVor x1 s := rfl
theorem exec_vxor x1 (s : State) : exec (.vxor x1) s = execVxor x1 s := rfl
theorem exec_vshl x1 (s : State) : exec (.vshl x1) s = execVshl x1 s := rfl
theorem exec_vshr x1 (s : State) : exec (.vshr x1) s = execVshr x1 s := rfl
theorem exec_viadd x1 (s : State) : exec (.viadd x1) s = execViadd x1 s := rfl
theorem exec_visub x1 (s : State) : exec (.visub x1) s = execVisub x1 s := rfl
theorem exec_vimul x1 (s : State) : exec (.vimul x1) s = execVimul x1 s := rfl
theorem exec_vred x1 (s : State) : exec (.vred x1) s = execVred x1 s := rfl
theorem exec_vscan x1 (s : State) : exec (.vscan x1) s = execVscan x1 s := rfl
theorem exec_vabs x1 (s : State) : exec (.vabs x1) s = execVabs x1 s := rfl
theorem exec_vneg x1 (s : State) : exec (.vneg x1) s = execVneg x1 s := rfl
theorem exec_vexp2 x1 (s : State) : exec (.vexp2 x1) s = execVexp2 x1 s := rfl
theorem exec_vlog2 x1 (s : State) : exec (.vlog2 x1) s = execVlog2 x1 s := rfl
theorem exec_vrcp x1 (s : State) : exec (.vrcp x1) s = execVrcp x1 s := rfl
theorem exec_vrsq x1 (s : State) : exec (.vrsq x1) s = execVrsq x1 s := rfl
theorem exec_vtanh x1 (s : State) : exec (.vtanh x1) s = execVtanh x1 s := rfl
theorem exec_vmov x1 (s : State) : exec (.vmov x1) s = execVmov x1 s := rfl
theorem exec_vsplat x1 (s : State) : exec (.vsplat x1) s = execVsplat x1 s := rfl
theorem exec_vcvt x1 (s : State) : exec (.vcvt x1) s = execVcvt x1 s := rfl
theorem exec_vgath x1 (s : State) : exec (.vgath x1) s = execVgath x1 s := rfl
theorem exec_vscat x1 (s : State) : exec (.vscat x1) s = execVscat x1 s := rfl
theorem exec_movmMg x1 x2 (s : State) : exec (.movmMg x1 x2) s = execMovmMg x1 x2 s := rfl
theorem exec_movmGm x1 x2 (s : State) : exec (.movmGm x1 x2) s = execMovmGm x1 x2 s := rfl
theorem exec_mand x1 x2 x3 (s : State) : exec (.mand x1 x2 x3) s = execMand x1 x2 x3 s := rfl
theorem exec_mor x1 x2 x3 (s : State) : exec (.mor x1 x2 x3) s = execMor x1 x2 x3 s := rfl
theorem exec_mxor x1 x2 x3 (s : State) : exec (.mxor x1 x2 x3) s = execMxor x1 x2 x3 s := rfl
theorem exec_mnot x1 x2 (s : State) : exec (.mnot x1 x2) s = execMnot x1 x2 s := rfl
theorem exec_mpop x1 x2 (s : State) : exec (.mpop x1 x2) s = execMpop x1 x2 s := rfl
theorem exec_mff x1 x2 (s : State) : exec (.mff x1 x2) s = execMff x1 x2 s := rfl
theorem exec_gjoin x1 (s : State) : exec (.gjoin x1) s = execGjoin x1 s := rfl
theorem exec_gleave x1 (s : State) : exec (.gleave x1) s = execGleave x1 s := rfl
theorem exec_gshfl x1 x2 x3 x4 (s : State) : exec (.gshfl x1 x2 x3 x4) s = execGshfl x1 x2 x3 x4 s := rfl
theorem exec_gvote x1 x2 x3 x4 (s : State) : exec (.gvote x1 x2 x3 x4) s = execGvote x1 x2 x3 x4 s := rfl
theorem exec_gmatch x1 x2 x3 (s : State) : exec (.gmatch x1 x2 x3) s = execGmatch x1 x2 x3 s := rfl
theorem exec_gred x1 x2 x3 x4 (s : State) : exec (.gred x1 x2 x3 x4) s = execGred x1 x2 x3 x4 s := rfl
theorem exec_gxld x1 x2 x3 x4 x5 (s : State) : exec (.gxld x1 x2 x3 x4 x5) s = execGxld x1 x2 x3 x4 x5 s := rfl
theorem exec_binit x1 x2 (s : State) : exec (.binit x1 x2) s = execBinit x1 x2 s := rfl
theorem exec_barr x1 (s : State) : exec (.barr x1) s = execBarr x1 s := rfl
theorem exec_bwait x1 x2 (s : State) : exec (.bwait x1 x2) s = execBwait x1 x2 s := rfl
theorem exec_bsync x1 x2 (s : State) : exec (.bsync x1 x2) s = execBsync x1 x2 s := rfl
theorem exec_bexp x1 x2 (s : State) : exec (.bexp x1 x2) s = execBexp x1 x2 s := rfl
theorem exec_cstat x1 x2 (s : State) : exec (.cstat x1 x2) s = execCstat x1 x2 s := rfl
theorem exec_send x1 x2 x3 (s : State) : exec (.send x1 x2 x3) s = execSend x1 x2 x3 s := rfl
theorem exec_sendh x1 x2 x3 (s : State) : exec (.sendh x1 x2 x3) s = execSendh x1 x2 x3 s := rfl
theorem exec_pbind x1 (s : State) : exec (.pbind x1) s = execPbind x1 s := rfl
theorem exec_btag x1 x2 (s : State) : exec (.btag x1 x2) s = execBtag x1 x2 s := rfl
theorem exec_peek x1 x2 (s : State) : exec (.peek x1 x2) s = execPeek x1 x2 s := rfl
theorem exec_loopb x1 x2 x3 (s : State) : exec (.loopb x1 x2 x3) s = execLoopb x1 x2 x3 s := rfl
theorem exec_cred x1 x2 x3 x4 (s : State) : exec (.cred x1 x2 x3 x4) s = execCred x1 x2 x3 x4 s := rfl
theorem exec_fence x1 (s : State) : exec (.fence x1) s = execFence x1 s := rfl
theorem exec_fencex x1 x2 (s : State) : exec (.fencex x1 x2) s = execFencex x1 x2 s := rfl
theorem exec_bload x1 x2 (s : State) : exec (.bload x1 x2) s = execBload x1 x2 s := rfl
theorem exec_minit x1 x2 (s : State) : exec (.minit x1 x2) s = execMinit x1 x2 s := rfl
theorem exec_mpload x1 x2 (s : State) : exec (.mpload x1 x2) s = execMpload x1 x2 s := rfl
theorem exec_mstat x1 x2 (s : State) : exec (.mstat x1 x2) s = execMstat x1 x2 s := rfl
theorem exec_mma x1 x2 (s : State) : exec (.mma x1 x2) s = execMma x1 x2 s := rfl
theorem exec_mmad x1 x2 x3 (s : State) : exec (.mmad x1 x2 x3) s = execMmad x1 x2 x3 s := rfl
theorem exec_mdrain x1 x2 x3 (s : State) : exec (.mdrain x1 x2 x3) s = execMdrain x1 x2 x3 s := rfl
theorem exec_mdrainAt x1 x2 x3 x4 (s : State) : exec (.mdrainAt x1 x2 x3 x4) s = execMdrainAt x1 x2 x3 x4 s := rfl
theorem exec_mdraina x1 x2 x3 (s : State) : exec (.mdraina x1 x2 x3) s = execMdraina x1 x2 x3 s := rfl
theorem exec_mdrainaAt x1 x2 x3 x4 (s : State) : exec (.mdrainaAt x1 x2 x3 x4) s = execMdrainaAt x1 x2 x3 x4 s := rfl
theorem exec_tnew x1 x2 x3 x4 x5 x6 x7 (s : State) : exec (.tnew x1 x2 x3 x4 x5 x6 x7) s = execTnew x1 x2 x3 x4 x5 x6 x7 s := rfl
theorem exec_topen x1 x2 x3 x4 x5 x6 (s : State) : exec (.topen x1 x2 x3 x4 x5 x6) s = execTopen x1 x2 x3 x4 x5 x6 s := rfl
theorem exec_fork x1 x2 x3 x4 x5 (s : State) : exec (.fork x1 x2 x3 x4 x5) s = execFork x1 x2 x3 x4 x5 s := rfl
theorem exec_rebase x1 x2 x3 x4 (s : State) : exec (.rebase x1 x2 x3 x4) s = execRebase x1 x2 x3 x4 s := rfl
theorem exec_flat x1 x2 x3 (s : State) : exec (.flat x1 x2 x3) s = execFlat x1 x2 x3 s := rfl
theorem exec_tfree x1 x2 x3 (s : State) : exec (.tfree x1 x2 x3) s = execTfree x1 x2 x3 s := rfl
theorem exec_tinfo x1 x2 x3 (s : State) : exec (.tinfo x1 x2 x3) s = execTinfo x1 x2 x3 s := rfl
theorem exec_trd x1 x2 (s : State) : exec (.trd x1 x2) s = execTrd x1 x2 s := rfl
theorem exec_twr x1 x2 x3 x4 (s : State) : exec (.twr x1 x2 x3 x4) s = execTwr x1 x2 x3 x4 s := rfl
theorem exec_tld x1 x2 x3 x4 x5 (s : State) : exec (.tld x1 x2 x3 x4 x5) s = execTld x1 x2 x3 x4 x5 s := rfl
theorem exec_tst x1 x2 x3 x4 x5 x6 x7 (s : State) : exec (.tst x1 x2 x3 x4 x5 x6 x7) s = execTst x1 x2 x3 x4 x5 x6 x7 s := rfl
theorem exec_calloc x1 x2 (s : State) : exec (.calloc x1 x2) s = execCalloc x1 x2 s := rfl
theorem exec_csplit x1 x2 x3 x4 (s : State) : exec (.csplit x1 x2 x3 x4) s = execCsplit x1 x2 x3 x4 s := rfl
theorem exec_cjoin x1 x2 x3 (s : State) : exec (.cjoin x1 x2 x3) s = execCjoin x1 x2 x3 s := rfl
theorem exec_cfree x1 (s : State) : exec (.cfree x1) s = execCfree x1 s := rfl
theorem exec_cshape x1 x2 (s : State) : exec (.cshape x1 x2) s = execCshape x1 x2 s := rfl
theorem exec_hsel x1 x2 x3 x4 x5 (s : State) : exec (.hsel x1 x2 x3 x4 x5) s = execHsel x1 x2 x3 x4 x5 s := rfl
theorem exec_hselw x1 x2 x3 x4 x5 x6 (s : State) : exec (.hselw x1 x2 x3 x4 x5 x6) s = execHselw x1 x2 x3 x4 x5 x6 s := rfl
theorem exec_hmask x1 x2 (s : State) : exec (.hmask x1 x2) s = execHmask x1 x2 s := rfl
theorem exec_hstat x1 (s : State) : exec (.hstat x1) s = execHstat x1 s := rfl
theorem exec_tsub x1 x2 (s : State) : exec (.tsub x1 x2) s = execTsub x1 x2 s := rfl
theorem exec_tsubAt x1 x2 x3 (s : State) : exec (.tsubAt x1 x2 x3) s = execTsubAt x1 x2 x3 s := rfl
theorem exec_tdone (s : State) : exec (.tdone) s = execTdone s := rfl
theorem exec_gate x1 x2 x3 x4 (s : State) : exec (.gate x1 x2 x3 x4) s = execGate x1 x2 x3 x4 s := rfl
theorem exec_trec x1 x2 (s : State) : exec (.trec x1 x2) s = execTrec x1 x2 s := rfl
theorem exec_qpost x1 x2 x3 (s : State) : exec (.qpost x1 x2 x3) s = execQpost x1 x2 x3 s := rfl
theorem exec_relaxedLoadReply x1 (s : State) : exec (.relaxedLoadReply x1) s = execRelaxedLoadReply x1 s := rfl
theorem exec_relaxedAccessComplete x1 (s : State) : exec (.relaxedAccessComplete x1) s = execRelaxedAccessComplete x1 s := rfl
theorem exec_farAccessReply x1 (s : State) : exec (.farAccessReply x1) s = execFarAccessReply x1 s := rfl
theorem exec_accessPerformed x1 (s : State) : exec (.accessPerformed x1) s = execAccessPerformed x1 s := rfl
theorem exec_windowWrite x1 (s : State) : exec (.windowWrite x1) s = execWindowWrite x1 s := rfl
theorem exec_feFirstTest x1 (s : State) : exec (.feFirstTest x1) s = execFeFirstTest x1 s := rfl
theorem exec_feRetryTick x1 (s : State) : exec (.feRetryTick x1) s = execFeRetryTick x1 s := rfl
theorem exec_streamReadaheadArrival x1 (s : State) : exec (.streamReadaheadArrival x1) s = execStreamReadaheadArrival x1 s := rfl
theorem exec_streamWriteAck x1 (s : State) : exec (.streamWriteAck x1) s = execStreamWriteAck x1 s := rfl
theorem exec_engineAccept x1 (s : State) : exec (.engineAccept x1) s = execEngineAccept x1 s := rfl
theorem exec_engineAtStart x1 (s : State) : exec (.engineAtStart x1) s = execEngineAtStart x1 s := rfl
theorem exec_copyWrite x1 (s : State) : exec (.copyWrite x1) s = execCopyWrite x1 s := rfl
theorem exec_cpysRingWrite x1 (s : State) : exec (.cpysRingWrite x1) s = execCpysRingWrite x1 s := rfl
theorem exec_copyComplete x1 (s : State) : exec (.copyComplete x1) s = execCopyComplete x1 s := rfl
theorem exec_copyError x1 (s : State) : exec (.copyError x1) s = execCopyError x1 s := rfl
theorem exec_pageWalkStart x1 (s : State) : exec (.pageWalkStart x1) s = execPageWalkStart x1 s := rfl
theorem exec_walkComplete x1 (s : State) : exec (.walkComplete x1) s = execWalkComplete x1 s := rfl
theorem exec_faultDecision x1 (s : State) : exec (.faultDecision x1) s = execFaultDecision x1 s := rfl
theorem exec_xlateResolve x1 (s : State) : exec (.xlateResolve x1) s = execXlateResolve x1 s := rfl
theorem exec_poolResolve x1 (s : State) : exec (.poolResolve x1) s = execPoolResolve x1 s := rfl
theorem exec_arrivalCounted x1 (s : State) : exec (.arrivalCounted x1) s = execArrivalCounted x1 s := rfl
theorem exec_barrierForward x1 (s : State) : exec (.barrierForward x1) s = execBarrierForward x1 s := rfl
theorem exec_barrierCompletionNotice x1 (s : State) : exec (.barrierCompletionNotice x1) s = execBarrierCompletionNotice x1 s := rfl
theorem exec_barTimeout x1 x2 x3 (s : State) : exec (.barTimeout x1 x2 x3) s = execBarTimeout x1 x2 x3 s := rfl
theorem exec_cstatRecordWrite x1 (s : State) : exec (.cstatRecordWrite x1) s = execCstatRecordWrite x1 s := rfl
theorem exec_gxldRowsArrive x1 x2 (s : State) : exec (.gxldRowsArrive x1 x2) s = execGxldRowsArrive x1 x2 s := rfl
theorem exec_messageArrival x1 (s : State) : exec (.messageArrival x1) s = execMessageArrival x1 s := rfl
theorem exec_messageReoffer x1 x2 (s : State) : exec (.messageReoffer x1 x2) s = execMessageReoffer x1 x2 s := rfl
theorem exec_sendhAnswer x1 (s : State) : exec (.sendhAnswer x1) s = execSendhAnswer x1 s := rfl
theorem exec_combinePacket x1 (s : State) : exec (.combinePacket x1) s = execCombinePacket x1 s := rfl
theorem exec_credRootDelivery x1 (s : State) : exec (.credRootDelivery x1) s = execCredRootDelivery x1 s := rfl
theorem exec_minitClaimGrant x1 (s : State) : exec (.minitClaimGrant x1) s = execMinitClaimGrant x1 s := rfl
theorem exec_matrixComplete x1 (s : State) : exec (.matrixComplete x1) s = execMatrixComplete x1 s := rfl
theorem exec_matrixViolation x1 (s : State) : exec (.matrixViolation x1) s = execMatrixViolation x1 s := rfl
theorem exec_mdrainaConfirm x1 (s : State) : exec (.mdrainaConfirm x1) s = execMdrainaConfirm x1 s := rfl
theorem exec_mdrainaPeerAdd x1 (s : State) : exec (.mdrainaPeerAdd x1) s = execMdrainaPeerAdd x1 s := rfl
theorem exec_hawkComplete x1 (s : State) : exec (.hawkComplete x1) s = execHawkComplete x1 s := rfl
theorem exec_heldResultRestore x1 (s : State) : exec (.heldResultRestore x1) s = execHeldResultRestore x1 s := rfl
theorem exec_lineageOperation x1 (s : State) : exec (.lineageOperation x1) s = execLineageOperation x1 s := rfl
theorem exec_lineageReply x1 (s : State) : exec (.lineageReply x1) s = execLineageReply x1 s := rfl
theorem exec_pinDrop x1 x2 (s : State) : exec (.pinDrop x1 x2) s = execPinDrop x1 x2 s := rfl
theorem exec_cocoonTableServe x1 (s : State) : exec (.cocoonTableServe x1) s = execCocoonTableServe x1 s := rfl
theorem exec_granuleScrubDone x1 x2 (s : State) : exec (.granuleScrubDone x1 x2) s = execGranuleScrubDone x1 x2 s := rfl
theorem exec_unitScrubDone x1 x2 (s : State) : exec (.unitScrubDone x1 x2) s = execUnitScrubDone x1 x2 s := rfl
theorem exec_threadReady x1 (s : State) : exec (.threadReady x1) s = execThreadReady x1 s := rfl
theorem exec_dispatchDecision x1 x2 (s : State) : exec (.dispatchDecision x1 x2) s = execDispatchDecision x1 x2 s := rfl
theorem exec_threadSave x1 (s : State) : exec (.threadSave x1) s = execThreadSave x1 s := rfl
theorem exec_forcedSave x1 (s : State) : exec (.forcedSave x1) s = execForcedSave x1 s := rfl
theorem exec_taskSave x1 (s : State) : exec (.taskSave x1) s = execTaskSave x1 s := rfl
theorem exec_taskSaveComplete x1 (s : State) : exec (.taskSaveComplete x1) s = execTaskSaveComplete x1 s := rfl
theorem exec_taskEnd x1 x2 (s : State) : exec (.taskEnd x1 x2) s = execTaskEnd x1 x2 s := rfl
theorem exec_populationDeferredPlace x1 x2 (s : State) : exec (.populationDeferredPlace x1 x2) s = execPopulationDeferredPlace x1 x2 s := rfl
theorem exec_launchAtRelease x1 x2 (s : State) : exec (.launchAtRelease x1 x2) s = execLaunchAtRelease x1 x2 s := rfl
theorem exec_gateApply x1 (s : State) : exec (.gateApply x1) s = execGateApply x1 s := rfl
theorem exec_gateReply x1 (s : State) : exec (.gateReply x1) s = execGateReply x1 s := rfl
theorem exec_tsubAtInsert x1 (s : State) : exec (.tsubAtInsert x1) s = execTsubAtInsert x1 s := rfl
theorem exec_signalUpdate x1 (s : State) : exec (.signalUpdate x1) s = execSignalUpdate x1 s := rfl
theorem exec_signalEntryWrite x1 x2 x3 (s : State) : exec (.signalEntryWrite x1 x2 x3) s = execSignalEntryWrite x1 x2 x3 s := rfl
theorem exec_bridleEvaluate (s : State) : exec (.bridleEvaluate) s = execBridleEvaluate s := rfl
theorem exec_settleExpire x1 (s : State) : exec (.settleExpire x1) s = execSettleExpire x1 s := rfl
theorem exec_wptr x1 x2 x3 (s : State) : exec (.wptr x1 x2 x3) s = execWptr x1 x2 x3 s := rfl
theorem exec_reset x1 x2 (s : State) : exec (.reset x1 x2) s = execReset x1 x2 s := rfl
theorem exec_packetFetch (s : State) : exec (.packetFetch) s = execPacketFetch s := rfl
theorem exec_packetBegin x1 (s : State) : exec (.packetBegin x1) s = execPacketBegin x1 s := rfl
theorem exec_launchPacket x1 (s : State) : exec (.launchPacket x1) s = execLaunchPacket x1 s := rfl
theorem exec_tasksPacket x1 (s : State) : exec (.tasksPacket x1) s = execTasksPacket x1 s := rfl
theorem exec_signalPacket x1 (s : State) : exec (.signalPacket x1) s = execSignalPacket x1 s := rfl
theorem exec_waitPacket x1 (s : State) : exec (.waitPacket x1) s = execWaitPacket x1 s := rfl
theorem exec_timerPacket x1 (s : State) : exec (.timerPacket x1) s = execTimerPacket x1 s := rfl
theorem exec_copyPacket x1 (s : State) : exec (.copyPacket x1) s = execCopyPacket x1 s := rfl
theorem exec_fencePacket x1 (s : State) : exec (.fencePacket x1) s = execFencePacket x1 s := rfl
theorem exec_packetComplete x1 (s : State) : exec (.packetComplete x1) s = execPacketComplete x1 s := rfl
theorem exec_statusEntryWrite x1 (s : State) : exec (.statusEntryWrite x1) s = execStatusEntryWrite x1 s := rfl
theorem exec_eccCorrected x1 (s : State) : exec (.eccCorrected x1) s = execEccCorrected x1 s := rfl
theorem exec_softErr x1 (s : State) : exec (.softErr x1) s = execSoftErr x1 s := rfl
theorem exec_translationChange x1 x2 x3 x4 (s : State) : exec (.translationChange x1 x2 x3 x4) s = execTranslationChange x1 x2 x3 x4 s := rfl
theorem exec_hostMailboxWrite x1 (s : State) : exec (.hostMailboxWrite x1) s = execHostMailboxWrite x1 s := rfl
theorem exec_mailboxMessage x1 x2 (s : State) : exec (.mailboxMessage x1 x2) s = execMailboxMessage x1 x2 s := rfl
theorem exec_barWrite x1 x2 x3 (s : State) : exec (.barWrite x1 x2 x3) s = execBarWrite x1 x2 x3 s := rfl
theorem exec_firmwareActivation x1 (s : State) : exec (.firmwareActivation x1) s = execFirmwareActivation x1 s := rfl
theorem exec_forcedActivation (s : State) : exec (.forcedActivation) s = execForcedActivation s := rfl
theorem exec_attestationRequest x1 (s : State) : exec (.attestationRequest x1) s = execAttestationRequest x1 s := rfl
theorem exec_measurementExtend x1 x2 (s : State) : exec (.measurementExtend x1 x2) s = execMeasurementExtend x1 x2 s := rfl
theorem exec_svnRaise (s : State) : exec (.svnRaise) s = execSvnRaise s := rfl
theorem exec_coldReset (s : State) : exec (.coldReset) s = execColdReset s := rfl
theorem exec_domainJoin x1 x2 (s : State) : exec (.domainJoin x1 x2) s = execDomainJoin x1 x2 s := rfl
theorem exec_flitReceive x1 x2 (s : State) : exec (.flitReceive x1 x2) s = execFlitReceive x1 x2 s := rfl
theorem exec_portRetrain x1 (s : State) : exec (.portRetrain x1) s = execPortRetrain x1 s := rfl
theorem exec_contextCreate x1 x2 (s : State) : exec (.contextCreate x1 x2) s = execContextCreate x1 x2 s := rfl
theorem exec_rootRegister x1 x2 x3 (s : State) : exec (.rootRegister x1 x2 x3) s = execRootRegister x1 x2 x3 s := rfl
theorem exec_imageLoad x1 x2 (s : State) : exec (.imageLoad x1 x2) s = execImageLoad x1 x2 s := rfl
theorem exec_hostTensorFree x1 x2 (s : State) : exec (.hostTensorFree x1 x2) s = execHostTensorFree x1 x2 s := rfl
theorem exec_cocoonRegionSet x1 (s : State) : exec (.cocoonRegionSet x1) s = execCocoonRegionSet x1 s := rfl
theorem exec_poolAssign x1 (s : State) : exec (.poolAssign x1) s = execPoolAssign x1 s := rfl
theorem exec_bridleSet x1 x2 (s : State) : exec (.bridleSet x1 x2) s = execBridleSet x1 x2 s := rfl
theorem exec_waittWake x1 (s : State) : exec (.waittWake x1) s = execWaittWake x1 s := rfl
theorem exec_sleepWake x1 (s : State) : exec (.sleepWake x1) s = execSleepWake x1 s := rfl
theorem exec_illegalEncoding (s : State) : exec (.illegalEncoding) s = execIllegalEncoding s := rfl
theorem exec_fetchFault x1 x2 (s : State) : exec (.fetchFault x1 x2) s = execFetchFault x1 x2 s := rfl
theorem exec_queueCreate x1 x2 x3 x4 (s : State) : exec (.queueCreate x1 x2 x3 x4) s = execQueueCreate x1 x2 x3 x4 s := rfl
theorem exec_qpostAcknowledgement x1 (s : State) : exec (.qpostAcknowledgement x1) s = execQpostAcknowledgement x1 s := rfl

end Sys2Proof.Machine
end

