-- ==== Sys2Proof/Laws/Vector.lean ====
section
/-!
SUPPORT. What a vector half answers when every element it needs is at hand.
-/

namespace Sys2Proof.Machine

/-- Steps that all succeed process every element. -/
theorem runSteps_ok {f : Nat → Nat → Except Stop Outcome1} {o : Nat → Outcome1} {c : Nat → Nat} :
    ∀ (n k : Nat), (∀ j, k ≤ j → j < k + n → f j (c j) = .ok (o j) ∧ (o j).carry = c (j + 1)) →
      runSteps f n k (c k) = ((List.range' k n).map o, none)
  | 0, _, _ => rfl
  | n + 1, k, h => by
    have h0 := h k (Nat.le_refl _) (by omega)
    have ih := runSteps_ok (f := f) (o := o) (c := c) n (k + 1) (fun j h1 h2 => h j (by omega) (by omega))
    simp only [runSteps, h0.1, h0.2, ih, List.range'_succ, List.map_cons]

/-- Steps that all succeed process every element, from the first. -/
theorem runSteps_all {f : Nat → Nat → Except Stop Outcome1} {o : Nat → Outcome1} {c : Nat → Nat} {n : Nat}
    (h : ∀ j < n, f j (c j) = .ok (o j) ∧ (o j).carry = c (j + 1)) :
    runSteps f n 0 (c 0) = ((List.range n).map o, none) := by
  have := runSteps_ok (f := f) (o := o) (c := c) n 0 (fun j _ h2 => h j (by omega))
  rw [this, List.range_eq_range']

/-- Destination elements that have places pass their check. -/
theorem outsOk_ok {s : State} {tid : Nat} {t : Thread} : ∀ {es : List (Reg × Nat × Nat)},
    (∀ e ∈ es, ∃ p, elemPlace s tid (t.rd e.1).bits e.2.1 = .ok p) → outsOk s tid t es = .ok ()
  | [], _ => rfl
  | e :: rest, h => by
    obtain ⟨p, hp⟩ := h e (by simp)
    simp only [outsOk, hp]
    exact outsOk_ok (fun e' he => h e' (by simp [he]))

/-- A plan whose steps all succeed commits every element. -/
theorem runVector_all {s : State} {tid : Nat} {t : Thread} {p : Plan} {b : Bool} {o : Nat → Outcome1} {c : Nat → Nat}
    (hc : p.carry0 = c 0) (h : ∀ j < p.n, p.step j (c j) = .ok (o j) ∧ (o j).carry = c (j + 1))
    (ho : ∀ j < p.n, ∀ e ∈ (o j).out, ∃ q, elemPlace s tid (t.rd e.1).bits e.2.1 = .ok q) (hr : postRoom s tid t p = true) :
    runVector s tid t p b = .ok (vectorDone s tid t p ((List.range p.n).map o)) := by
  have hs : runSteps (checkedStep s tid t p.step) p.n 0 p.carry0 = ((List.range p.n).map o, none) := by
    rw [hc]
    refine runSteps_all (fun j hj => ⟨?_, (h j hj).2⟩)
    have h1 := outsOk_ok (ho j hj)
    simp only [checkedStep, (h j hj).1, bind, Except.bind, h1]
  simp only [runVector, hs, hr, Bool.not_true, Bool.and_false, Bool.false_eq_true, if_false]
  rfl

/-- A stream operand of the right direction and format passes its check. -/
theorem needStream_ok {t : Thread} {r : Reg} {write : Bool} {ok : Nat → Bool} {c : Nat} (h : StreamOf t r write c) (hc : ok c = true) :
    needStream t r write ok = .ok () := by
  obtain ⟨h1, h2, h3⟩ := h
  simp [needStream, needKind, h1, h2, h3, hc, bind, Except.bind]

/-- A scalar or a stream passes the check of an operand that may be either. -/
theorem needStreamOrData_ok {t : Thread} {r : Reg} {ok : Nat → Bool} {c : Nat} (h : IsData t r ∨ StreamOf t r false c) (hc : ok c = true) :
    needStreamOrData t r ok = .ok () := by
  unfold needStreamOrData
  by_cases hd : (t.rd r).kind = .data
  · simp [hd]
  · rcases h with h | h
    · exact absurd h hd
    · simp [hd, needStream_ok h hc]

/-- What a commit reads of a plan and of the outcomes. -/
theorem commitPlan_congr {s : State} {tid : Nat} {t : Thread} {p q : Plan} {n : Nat} {o o' : Nat → Outcome1}
    (h1 : p.streams = q.streams) (h2 : p.unit_ = q.unit_) (h3 : p.width = q.width)
    (hr : p.result.map (fun r => (r.1, r.2 (match ((List.range n).map o).getLast? with | some x => x.carry | none => p.carry0)
        ((List.range n).map o)))
      = q.result.map (fun r => (r.1, r.2 (match ((List.range n).map o').getLast? with | some x => x.carry | none => q.carry0)
        ((List.range n).map o'))))
    (ho : ∀ k, (o k).out = (o' k).out ∧ (o k).table = (o' k).table ∧ (o k).counts = (o' k).counts ∧ (o k).amax = (o' k).amax) :
    commitPlan s tid t p ((List.range n).map o) = commitPlan s tid t q ((List.range n).map o') := by
  have e1 : ∀ k, (o k).out = (o' k).out := fun k => (ho k).1
  have e2 : ∀ k, (o k).table = (o' k).table := fun k => (ho k).2.1
  have e3 : ∀ k, (o k).counts = (o' k).counts := fun k => (ho k).2.2.1
  have e4 : ∀ k, (o k).amax = (o' k).amax := fun k => (ho k).2.2.2
  have e5 : ∀ r, outsTo ((List.range n).map o) r = outsTo ((List.range n).map o') r := by
    intro r; simp [outsTo, List.flatMap_map, e1]
  have e6 : ((List.range n).map o).filterMap Outcome1.amax = ((List.range n).map o').filterMap Outcome1.amax := by
    simp [List.filterMap_map, e4]
  unfold commitPlan
  simp only [e5, e6, List.flatMap_map, List.foldl_map, e1, e2, e3, h1, h2, h3, List.length_map]
  cases hp : p.result <;> cases hq : q.result <;> cases hl : (List.range n).getLast? <;> simp_all

end Sys2Proof.Machine
end

