-- ==== Sys2Proof/Tests/Slice0.lean ====
section
/-!
SUPPORT. Tests: ill-formed terms that WellFormed refuses, words written out from the encoding tables of the spec, single
steps on small states, and for each statement with hypotheses a state and operands that meet them (witness_<statement>).
-/

set_option Elab.async false

namespace Sys2Proof.Tests

open Sys2Proof.Machine

/-! ## Small states -/

/-- Thread 0 with some registers, in the middle of the turn of a bundle of one word; it is the only thread of context 0. -/
def base (gs : List (Nat × GReg)) : State :=
  let s := State.reset.withFetchWord 32 0x3C
  match getT s 0 with
  | none => s
  | some t =>
    { setT s 0 { t with g := gs.foldl (fun g p => setNth p.2 p.1 g) t.g, status := .issuing, size := 4 } with cur := some (Issue.begin 0) }

/-- The same with a change to the thread. -/
def baseT (gs : List (Nat × GReg)) (f : Thread → Thread) : State :=
  let s := base gs
  match getT s 0 with
  | none => s
  | some t => setT s 0 (f t)

/-- Between steps: thread 0 is parked in a wait. -/
def parkedIn (w : Wait) : State := { baseT [] (fun t => { t with status := .parked w }) with cur := none }

/-- DATA. -/
def dat (n : Nat) : GReg := ⟨.data, BitVec.ofNat 128 n⟩

/-- A capability with every permission, on-chip: 4,096 bytes of the local store of core 0. -/
def store0 (cur : Nat) : GReg := ⟨.cap, mkCap 0 4096 cur 0xFF 0⟩

/-- The same of another core of the cluster. -/
def store1 (cur : Nat) : GReg := ⟨.cap, mkCap 0x60000 4096 cur 0xFF 0⟩

/-- Every operand is at hand and a test on what the instruction reads passes. -/
def finds (s : State) (regs reads : List Reg) (p : Issue → Thread → Option InboxEntry → Bool) : Bool :=
  match reading s regs reads with
  | none => false
  | some (i, t, pop) => p i t pop

/-- Every operand is at hand and the thread holds registers of some kinds. -/
def kinds (s : State) (regs reads : List Reg) (ks : List (Reg × Kind)) : Bool :=
  finds s regs reads (fun _ t _ => ks.all (fun p => decide ((t.rd p.1).kind = p.2)))

/-- An instruction answers a next state, and a test on it passes. -/
def gives (j : Instr) (s : State) (p : State → Bool) : Bool :=
  match exec j s with
  | .next u => p u
  | .fault _ => false
  | .refused _ => false

/-- An instruction answers one next state. -/
def runs (j : Instr) (s u : State) : Bool := gives j s (fun v => decide (v = u))

/-- A next state in which thread 0 has just faulted with a cause and an address, on the bundle at a pc. -/
def faults (j : Instr) (s : State) (c : Cause) (addr : Nat) : Bool := gives j s (fun u =>
  decide (u.faults.map (fun p => (p.2.tid, p.2.cause, p.2.addr.toNat, p.2.pc)) = [(0, c, addr, 0)]) &&
    decide (waitOf u 0 = some (.faultRec s.nextId)))

/-- A register of thread 0 afterwards. -/
def reg (u : State) (r : Reg) : GReg := ((getT u 0).map (fun t => t.rd r)).getD ⟨.moved, 0⟩

/-- The pc of thread 0 in bundles of four bytes past where it began. -/
def at_ (u : State) (n : Nat) : Bool := (getT u 0).any (fun t => t.pc.toNat == 4 * n)

/-! ## Integer instructions -/

theorem witness_IntegerResults :
    (kinds (base [(2, dat 7), (3, dat 0)]) [1, 2, 3] [2, 3] [(2, .data), (3, .data), (1, .data)] &&
      runs (.rem 1 2 3) (base [(2, dat 7), (3, dat 0)])
        (addEvc (result (base [(2, dat 7), (3, dat 0)]) 0 1 (word 7)) 0 [0, 0, 0, 0, 1, 0, 0, 0])) = true := by decide +kernel

theorem witness_IntegerResults_port :
    finds { baseT [(2, ⟨.port, 0⟩), (3, dat 2)] id with cores := [(0, { CoreSt.reset with inbox := [⟨0, 0, 0, 0, 0, 7, dat 5⟩] })] }
      [1, 2, 3] [2, 3] (fun _ t pop => pop.isSome && decide (t.rd 2 = dat 5)) = true := by decide +kernel

theorem witness_ImmediateAndMoveResults :
    (kinds (base [(2, dat (2 ^ 64 - 1))]) [1, 2] [2] [(2, .data), (1, .data)] &&
     kinds (base [(2, store0 0), (3, dat 1), (4, dat 0)]) [1, 2, 3, 4] [2, 3, 4] [(2, .cap), (3, .data), (4, .data), (1, .data)] &&
     kinds (base [(2, ⟨.coc, 0⟩)]) [1, 2] [2] [(2, .coc), (1, .data)] &&
     kinds (base [(2, ⟨.moved, 0⟩)]) [1, 2] [] [(2, .moved), (1, .data)]) = true := by decide +kernel

theorem test_addi_signed : gives (.addi 1 2 (-1)) (base [(2, dat 0)]) (fun u => decide (reg u 1 = dat (2 ^ 64 - 1))) = true := by decide +kernel
theorem test_ori_unsigned : gives (.ori 1 2 (-1)) (base [(2, dat 0)]) (fun u => decide (reg u 1 = dat 0x3FFF)) = true := by decide +kernel
theorem test_add_wraps : gives (.add 1 2 2) (base [(2, dat (2 ^ 63 + 1))]) (fun u => decide (reg u 1 = dat 2) && at_ u 1) = true := by decide +kernel
theorem test_div_overflow :
    gives (.div 1 2 3) (base [(2, dat (2 ^ 63)), (3, dat (2 ^ 64 - 1))]) (fun u => decide (reg u 1 = dat (2 ^ 63))) = true := by decide +kernel
theorem test_div_truncates :
    gives (.div 1 2 3) (base [(2, dat (2 ^ 64 - 7)), (3, dat 2)]) (fun u => decide (reg u 1 = dat (2 ^ 64 - 3))) = true := by decide +kernel
theorem test_sub_order : gives (.sub 1 2 3) (base [(2, dat 5), (3, dat 7)]) (fun u => decide (reg u 1 = dat (2 ^ 64 - 2))) = true := by decide +kernel
theorem test_shl_counts_modulo_64 : gives (.shl 1 2 3) (base [(2, dat 3), (3, dat 65)]) (fun u => decide (reg u 1 = dat 6)) = true := by decide +kernel
theorem test_sra_fills_with_sign :
    gives (.sra 1 2 3) (base [(2, dat (2 ^ 63)), (3, dat 63)]) (fun u => decide (reg u 1 = dat (2 ^ 64 - 1))) = true := by decide +kernel
theorem test_mulh_signed :
    gives (.mulh 1 2 3) (base [(2, dat (2 ^ 64 - 1)), (3, dat 1)]) (fun u => decide (reg u 1 = dat (2 ^ 64 - 1))) = true := by decide +kernel
theorem test_sel_of_zero_takes_b :
    gives (.sel 1 2 3 4) (base [(2, dat 8), (3, dat 9), (4, dat 0)]) (fun u => decide (reg u 1 = dat 9)) = true := by decide +kernel
theorem test_move_empties_its_source :
    gives (.move 1 2) (base [(2, ⟨.coc, 5⟩)]) (fun u => decide (reg u 1 = ⟨.coc, 5⟩) && decide ((reg u 2).kind = .moved)) = true := by decide +kernel

/-! ## Capabilities -/

theorem witness_CapabilityResults :
    (kinds (base [(2, store0 16), (3, dat 4080)]) [1, 2, 3] [2, 3] [(2, .cap), (3, .data), (1, .data)] &&
     finds (base [(2, store0 16), (3, dat 4080)]) [1, 2, 3] [2, 3] (fun _ t _ =>
       let c := (t.rd 2).bits
       capDerive c && decide (capCur c ≤ capLen c) && decide ((low t 3).toNat ≤ capLen c - capCur c))) = true := by decide +kernel

theorem witness_DerivationNeverWidens :
    (kinds (base [(2, store0 16), (3, dat 4080)]) [1, 2, 3] [2, 3] [] &&
     gives (.csetb 1 2 3) (base [(2, store0 16), (3, dat 4080)]) (fun u => decide ((reg u 1).bits = mkCap 16 4080 0 0xFF 0))) = true := by decide +kernel

theorem test_csetb_beyond_faults :
    faults (.csetb 1 2 3) (base [(2, store0 16), (3, dat 4081)]) .bounds 16 = true := by decide +kernel

/-! ## Slot control -/

theorem witness_BranchResults :
    (kinds (base [(2, dat (2 ^ 64 - 1)), (3, dat 1)]) [2, 3] [2, 3] [(2, .data), (3, .data)] &&
     kinds (base [(2, ⟨.strm, mkStrm 0 256 0 0 false 0 false 0⟩)]) [2] [2] [(2, .strm)] &&
     kinds (base []) [] [] [] && kinds (base []) [1] [] [(1, .data)] &&
     finds (base [(2, dat (2 ^ 57 - 4))]) [1, 2] [2] (fun _ t _ => decide ((low t 2).toNat % 4 = 0) && decide ((low t 2).toNat < 2 ^ 57)) &&
     finds (base [(2, dat (2 ^ 57))]) [1, 2] [2] (fun _ t _ => decide (2 ^ 57 ≤ (low t 2).toNat)) &&
     finds (base [(2, dat 2)]) [1, 2] [2] (fun _ t _ => decide ((low t 2).toNat % 4 ≠ 0))) = true := by decide +kernel

theorem test_blt_signed : gives (.bCc (.cmp .lt) 2 3 5) (base [(2, dat (2 ^ 64 - 1)), (3, dat 1)]) (fun u => at_ u 5) = true := by decide +kernel
theorem test_bltn_unsigned : gives (.bCc (.cmp .ltn) 2 3 5) (base [(2, dat (2 ^ 64 - 1)), (3, dat 1)]) (fun u => at_ u 1) = true := by decide +kernel
theorem test_jal_links : gives (.jal 1 3) (base []) (fun u => at_ u 3 && decide (reg u 1 = dat 4)) = true := by decide +kernel
theorem test_branch_back_wraps :
    gives (.j (-1)) (base []) (fun u => (getT u 0).any (fun t => t.pc.toNat == 2 ^ 57 - 4)) = true := by decide +kernel

theorem witness_WaitsAndControlRegisters :
    (kinds (base [(2, dat 0)]) [2] [2] [(2, .data)] && kinds (base [(2, dat 17)]) [2] [2] [(2, .data)] &&
     decide (waitOf (parkedIn (.until_ 9)) 0 = some (.until_ 9)) && decide (waitOf (parkedIn (.asleep 31)) 0 = some (.asleep 31)) &&
     kinds (base []) [1] [] [(1, .data)]) = true := by decide +kernel

theorem test_sleep_16_goes_on : gives (.sleep 2) (base [(2, dat 16)]) (fun u => at_ u 1) = true := by decide +kernel
theorem test_sleep_17_parks : gives (.sleep 2) (base [(2, dat 17)]) (fun u => decide (waitOf u 0 = some (.asleep 31)) && at_ u 0) = true := by decide +kernel
theorem test_crw_read_only : faults (.crw 0 2) (base []) .priv 0 = true := by decide +kernel

theorem witness_ThreadsStartEndAndTrap :
    (finds (base [(2, dat 64), (3, store0 0)]) [1, 2, 3] [2, 3] (fun i t _ =>
        decide ((low t 2).toNat % 4 = 0) && (spawnSlot (base [(2, dat 64), (3, store0 0)]) i.tid t).isSome) &&
     finds (base []) [] [] (fun i t _ => quiet (base []) i.tid && (List.range 32).all (fun k => decide ((nth GReg.zero k t.g).kind ≠ .coc))) &&
     finds (base []) [] [] (fun _ t _ => !t.preempt && statusRoom (base []) t.ctx) &&
     finds (baseT [(2, ⟨.coc, 0⟩)] (fun t => { t with preempt := true })) [] [] (fun _ t _ => t.preempt && (List.range 32).all (fun k =>
       k == 0 || (4 : Word).getLsbD k || decide ((nth GReg.zero k t.g).kind = .data)))) = true := by decide +kernel

theorem test_spawn_takes_the_lowest_slot : gives (.spawn 1 2 3) (base [(2, dat 64), (3, dat 5)]) (fun u =>
    decide (reg u 1 = dat 1) && (getT u 1).any (fun t => decide (t.rd 2 = dat 5) && t.pc.toNat == 64)) = true := by decide +kernel

/-! ## Float and masks -/

theorem witness_FloatResults :
    (kinds (base [(2, dat 0x3F800000), (3, dat 0x40000000)]) [1, 2, 3] [2, 3] [(2, .data), (3, .data), (1, .data)] &&
     kinds (base [(2, dat 0x3F800000), (3, dat 0x40000000)]) [1, 2, 3, 2] [2, 3, 2] [] &&
     kinds (base [(2, dat 0x7FC00000)]) [1, 2] [2] [(2, .data), (1, .data)]) = true := by decide +kernel

theorem test_fadd : gives (.fadd .rne 1 2 3) (base [(2, dat 0x3F800000), (3, dat 0x40000000)]) (fun u => decide (reg u 1 = dat 0x40400000)) = true := by
  decide +kernel
theorem test_fdiv_by_zero_counts : gives (.fdiv .rne 1 2 3) (base [(2, dat 0x3F800000)]) (fun u =>
    decide (reg u 1 = dat 0x7F800000) && decide ((coreSt u 0).evc = [0, 0, 0, 0, 1, 0, 0, 0])) = true := by decide +kernel

theorem witness_MaskResults :
    (kinds (base []) [1] [] [(1, .data)] && kinds (base [(2, dat 0xFFFF)]) [2] [2] [(2, .data)] && kinds (base []) [] [] []) = true := by decide +kernel

theorem test_mff_of_none_is_16 : gives (.mff 1 3) (base []) (fun u => decide (reg u 1 = dat 16)) = true := by decide +kernel

/-! ## Memory -/

/-- The place of a load or store of thread 0 whose checks pass. -/
def placed (s : State) (op : MemOp) (d a : Reg) (write : Bool) (p : Place → Bool) : Bool :=
  finds s [d, a] [a] (fun i t _ =>
    match memAddress s i.tid t op a (szBytes op.sz) write with
    | .error _ => false
    | .ok x => (!write || (decide ((storeData (unpopped s i.tid t d) i.tid op d x).toOption = some ()))) && (match memPlace s i t op.am write x with
      | .error _ => false
      | .ok acc => p acc.place))

/-- A word access with a signed offset. -/
def wordOp (off : BitVec 8) (rx inc : Bool) : MemOp := ⟨inc, off, rx, false, .w⟩

theorem witness_LoadsAndStores :
    (kinds (base [(2, store0 4092)]) [1, 2] [2] [(2, .cap), (1, .data)] &&
     placed (base [(2, store0 4092)]) (wordOp 0 false false) 1 2 false (fun p => decide (p = .ls 0 4092) && decide (parkTime 0 p = 0)) &&
     placed (base [(2, store1 0)]) (wordOp 0 true false) 1 2 false (fun p => decide (0 < parkTime 0 p) && decide (relaxedCount (base [(2, store1 0)]) 0 < 8)) &&
     placed (base [(2, store0 0)]) (wordOp 0 false false) 1 2 true (fun p => decide (p = .ls 0 0) && (feParked (base [(2, store0 0)]) (placeKey p)).isEmpty) &&
     placed (base [(2, store1 0)]) (wordOp 0 false false) 1 2 true (fun p => decide (parkTime 0 p = 40))) = true := by decide +kernel

theorem test_load_below_zero_faults : faults (.ld (wordOp (-1) false false) 1 2) (base [(2, store0 0)]) .bounds (2 ^ 64 - 4) = true := by decide +kernel
theorem test_load_past_the_end_faults : faults (.ld (wordOp 1 false false) 1 2) (base [(2, store0 4092)]) .bounds 4096 = true := by decide +kernel
theorem test_load_unaligned_faults : faults (.ld (wordOp 0 false false) 1 2) (base [(2, store0 2)]) .align 2 = true := by decide +kernel
theorem test_store_is_little_endian : gives (.st (wordOp 0 false false) 1 2) (base [(1, dat 0x04030201), (2, store0 8)]) (fun u =>
    decide ((List.range 4).map (fun k => memGet (onchipBase + 8 + k) u.mem) = [1, 2, 3, 4]) && at_ u 1) = true := by decide +kernel
theorem test_far_load_parks : gives (.ld (wordOp 0 false false) 1 2) (base [(2, store1 0)]) (fun u =>
    decide (waitOf u 0 = some (.reply 0)) && at_ u 0) = true := by decide +kernel

/-- A full/empty access of a word. -/
def few : FewOp := ⟨false, 0, false⟩

/-- The own store with its first word EMPTY. -/
def emptied (s : State) : State := { s with empties := [onchipBase] }

theorem witness_SynchronisingAccesses :
    (finds (base [(2, store0 0)]) [1, 2] [2] (fun i t _ => quiet (base [(2, store0 0)]) i.tid &&
       decide ((feChecks (base [(2, store0 0)]) i.tid t few 1 2 false).toOption = some ⟨.ls 0 0, 0, none⟩)) &&
     finds (emptied (base [(2, store0 0)])) [1, 2] [2, 1] (fun i t _ => decide (isFull (emptied (base [(2, store0 0)])) (.ls 0 0) = false) &&
       (feChecks (emptied (base [(2, store0 0)])) i.tid t few 1 2 true).toBool) &&
     finds (base [(2, store1 0)]) [1, 2] [2] (fun i t _ => decide (0 < parkTime 0 (.ls 1 0)) &&
       decide ((feChecks (base [(2, store1 0)]) i.tid t few 1 2 false).toOption = some ⟨.ls 1 0, 0x60000, none⟩)) &&
     finds (base [(2, store0 0)]) [1, 2, 3] [2, 3] (fun i t _ =>
       (atmPlace (base [(2, store0 0)]) i.tid t 2 8 false [3] 1).toBool && (atmPlace (base [(2, store0 0)]) i.tid t 2 4 false [3] 1).toBool) &&
     finds (base [(2, store1 0)]) [1, 2, 3, 4] [2, 3, 4] (fun i t _ => (atmPlace (base [(2, store1 0)]) i.tid t 2 4 false [3, 4] 1).toBool)) = true := by
  decide +kernel

theorem test_lds_empties : gives (.lds few 1 2) (base [(2, store0 0)]) (fun u => decide (u.empties = [onchipBase]) && at_ u 1) = true := by decide +kernel
theorem test_lds_of_empty_parks : gives (.lds few 1 2) (emptied (base [(2, store0 0)])) (fun u =>
    decide (waitOf u 0 = some (.fullEmpty 0)) && at_ u 0) = true := by decide +kernel
theorem test_cas_of_another_value_writes_nothing : gives (.atmCas ⟨false, false, false⟩ 1 2 3 4) (base [(2, store0 0), (3, dat 1), (4, dat 9)]) (fun u =>
    decide (u.mem = (base []).mem) && decide (reg u 1 = dat 0)) = true := by decide +kernel

/-- Thread 0 parked in a far load of a word of core 1, with register 1 as its destination. -/
def flight (op : AccOp) (w : Wait) (performed : Bool) : State :=
  { parkedIn w with reqs := [(7, ⟨0, op, placeRun (.ls 1 0) 4, 0x60000, false, 0, 40, 1, none, performed, dat 5, Counts.zero, 0, 20, false, none, false, [], 0⟩)] }

theorem witness_AccessesAreCarriedOut :
    (decide (waitOf (flight (.load 4) (.reply 7) true) 0 = some (.reply 7)) &&
     decide (waitOf (flight .lds (.fullEmpty 7) true) 0 = some (.fullEmpty 7)) &&
     feReady (flight .lds (.fullEmpty 7) false) .lds (placeRun (.ls 1 0) 4) &&
     !feReady (flight (.sts 1) (.fullEmpty 7) false) (.sts 1) (placeRun (.ls 1 0) 4) &&
     decide (waitOf (flight (.load 4) (.pending 1) true) 0 = some (.pending 1)) &&
     (tget 7 (flight (.load 4) (.reply 7) false).reqs).any (fun r => !r.performed && !r.dropped) &&
     decide (strmAt (mkStrm 0x60000 8 3 0 false 0 false 0) 0 = mkStrm 0x60000 8 0 0 false 0 false 0)) = true := by decide +kernel

theorem test_reply_retires : gives (.farAccessReply 7) (flight (.load 4) (.reply 7) true) (fun u => decide (reg u 1 = dat 5) && at_ u 1) = true := by decide +kernel

/-! ## Vector words -/

/-- A stream of 32-bit unsigned elements in the own store. -/
def words (base_ n cur : Nat) (write : Bool) : GReg := ⟨.strm, mkStrm base_ n cur Fmt.n32.code write 0 false 0⟩

/-- Two streams to read, one to write, and the three-operand word on them. -/
def vecState : State := base [(1, words 0 2 0 false), (2, words 64 2 0 false), (3, words 128 2 0 true), (4, dat 3), (5, store0 256), (6, words 0 4 0 true),
  (7, words 64 4 0 true), (8, dat (1 + 2 * 2 ^ 16))]

def vword : VWord := ⟨.n32, 0, 2, 1, 3⟩

/-- Every enabled element of an operand is at hand. -/
def hand (s : State) (t : Thread) (r : Reg) (n : Nat) : Bool := (List.range n).all (fun k => (operand s 0 t r 32 k).toBool)

/-- Every element of a destination has a place. -/
def has (s : State) (t : Thread) (r : Reg) (n : Nat) : Bool := (List.range n).all (fun k => (elemPlace s 0 (t.rd r).bits (idxOf t r k)).toBool)

def isStream (t : Thread) (r : Reg) (write : Bool) : Bool :=
  decide ((t.rd r).kind = .strm) && (strmWrite (t.rd r).bits == write) && strmFmt (t.rd r).bits == Fmt.n32.code

theorem witness_VectorElementResults :
    finds vecState [1, 2, 3] [] (fun _ t _ =>
      isStream t 1 false && isStream t 2 false && isStream t 3 true && vecCount t [3, 1, 2] == 2 && hand vecState t 1 2 && hand vecState t 2 2 &&
      hand vecState t 4 2 && has vecState t 3 2 && decide ((t.rd 4).kind = .data) &&
      postRoom vecState 0 t (mapPlan vecState 0 t 0 3 [1, 2] 32 32 false (fun _ _ => (0, Counts.zero, none))) &&
      postRoom vecState 0 t (mapPlan vecState 0 t 0 3 [1] 32 32 false (fun _ _ => (0, Counts.zero, none)))) = true := by decide +kernel

theorem test_viadd : gives (.viadd ⟨.n32, 0, 4, 1, 3⟩) vecState (fun u =>
    decide ((List.range 8).map (fun k => memGet (onchipBase + 128 + k) u.mem) = [3, 0, 0, 0, 3, 0, 0, 0]) &&
      decide (strmCur (reg u 3).bits = 2) && decide (strmCur (reg u 1).bits = 2)) = true := by decide +kernel

theorem witness_VectorReductionAndScan :
    finds vecState [1, 4, 3] [] (fun _ t _ =>
      isStream t 1 false && decide ((t.rd 4).kind = .data) && isStream t 3 true && hand vecState t 1 2 && has vecState t 3 2 &&
      postRoom vecState 0 t (committed [3, 1] [1] 2 1 (activeIdx t 0 [3, 1] 2) (some (4, 3, Counts.zero)) [] 32)) = true := by decide +kernel

theorem witness_VectorTablesAndExchange :
    finds vecState [1, 5, 3] [] (fun _ t _ =>
      isStream t 1 false && isStream t 3 true && isStream t 6 true && isStream t 7 true && (needTable 0 t 5 false).toBool && (needTable 0 t 5 true).toBool &&
      hand vecState t 1 2 && hand vecState t 2 2 && has vecState t 3 2 && decide ((low t 8).toNat % 2 ^ 16 = 2 ^ 0) &&
      decide ((low t 8).toNat / 2 ^ 16 % 2 ^ 16 = 2 ^ 1) && decide (strmCount (t.rd 6).bits % 2 = 0) &&
      (List.range 4).all (fun m => (readElem vecState 0 6 (t.rd 6).bits m).toBool && (readElem vecState 0 7 (t.rd 7).bits m).toBool) &&
      (tablePlace vecState t.ctx (t.rd 5).bits 32 0).toBool &&
      postRoom vecState 0 t (committed [3, 1] [1] 2 1 (activeIdx t 0 [3, 1] 2) none (tableBanks 0 (t.rd 5).bits) 32)) = true := by decide +kernel

/-! ## Streams and copies -/

/-- The state after an instruction, or the state itself. -/
def afterInstr (j : Instr) (s : State) : State :=
  match exec j s with
  | .next u => u
  | .fault _ => s
  | .refused _ => s

/-- A handle of entry 0, generation 0, over a covered block of 4 rows of 16 32-bit elements, readable and writable. -/
def handle0 (fmt : Nat) : GReg :=
  ⟨.coc, BitVec.ofNat 128 (4 * 2 ^ 42 + 16 * 2 ^ 74 + fmt * 2 ^ 90 + 2 ^ 94 + 2 ^ 95 + 1 * 2 ^ 119)⟩

/-- The same with its entry in cluster 0's table. -/
def withHandle (s : State) : State :=
  setHlt s 0 0 { HltEntry.reset with state := .leaf, root := true, rcount := 4, ccount := 16, pitch := 1, owner := some 0, holder := some 0 }

def cpy0 : CpyX := ⟨false, false, false, 0⟩
def cpys0 : CpysX := ⟨.n32, false, false, 0, 16⟩
def copyState : State := base [(1, store0 1024), (2, store0 0), (3, dat 64), (4, store0 0)]

theorem witness_StreamsAndCopiesIssue :
    (finds (base [(2, store0 0), (3, dat 1024)]) [1, 2, 3] [2, 3] (fun _ t _ =>
       let c := (t.rd 2).bits
       decide ((t.rd 2).kind = .cap) && capOnchip c && capRead c && capWrite c && decide (capCur c + 4096 ≤ capLen c) && inLocalRegion 0 4096) &&
     finds (base [(2, handle0 14), (3, dat 64)]) [1, 2, 3] [2, 3] (fun _ t _ =>
       let c := (t.rd 2).bits
       decide (cocFmt c = Fmt.n32.code) && cocR c && cocW c && decide (64 ≤ cocRcount c * cocCcount c)) &&
     kinds (base [(2, words 0 4 1 false)]) [1, 2] [2] [(2, .strm), (1, .data)] &&
     finds copyState [1, 2, 3] [2, 3, 1] (fun _ t _ => (copySource copyState 0 t 2 64).toBool && (copyDest copyState 0 t 1 64).toBool &&
       decide ((copyBar copyState 0 t false 0).toOption = some none)) &&
     finds copyState [5, 2, 4] [2, 4] (fun _ t _ => capWrite (t.rd 4).bits && ringOk 0 (t.rd 4).bits && (copySource copyState 0 t 2 64).toBool)) = true := by
  decide +kernel

/-- A copy in cluster 0's copy engine 0 with a change. -/
def copying (f : Cmd → Cmd) : State :=
  let s := { parkedIn (.accept 0) with clusters := tset 0 { clusterSt (base []) 0 with engines := setNth ⟨some 0, [], [], 0⟩ 0 ClusterSt.reset.engines } (base []).clusters }
  match getT s 0 with
  | none => s
  | some t =>
    { s with cmds := [(0, f { newCmd (.cpy cpy0 1 2 3) 0 t 0 (store0 0) (dat 64) (store0 1024) GReg.zero 0 with phase := .running, total := 64 })] }

/-- The same copy from thread 0's register window, which no operand window holds. -/
def window0 : Cmd → Cmd := fun c => { c with a := ⟨.cap, mkCap (windowAddr 0 0) 512 0 0xFF 0⟩ }

def ring0 : Cmd → Cmd := fun c => { c with op := .cpys cpys0 5 2 4, b := store0 0, total := 16 }

/-- The copy's next chunk is at hand: its lines are held, its bytes are read and its destination takes them. -/
def movesChunk (s : State) : Bool := (tget 0 s.cmds).any (fun c =>
  let o := chunkAt c 0
  let n := chunkAt c 1 - o
  c.phase == .running && c.data.isEmpty && !c.mixed && (match holdLines s c c.a o n with
    | .error _ => false
    | .ok c1 => match cmdRead s c1 c.a (copyModes c).1 Need.rd o n with
      | .error _ => false
      | .ok r => (writeChunk (bump r.1) 0 c1 o r.2).toBool))

theorem witness_CopyEngineWork :
    (decide (nextCmd (afterInstr (.cpy cpy0 1 2 3) copyState) (engOf (afterInstr (.cpy cpy0 1 2 3) copyState) 0) = some 0) &&
     decide ((engOf (afterInstr (.cpy cpy0 1 2 3) copyState) 0).exec = none) &&
     movesChunk (copying window0) && movesChunk (copying (fun c => { window0 c with total := 128 })) &&
     (tget 0 (copying id).cmds).any (fun c => decide (c.dataAt + 1 = copyChunks c)) &&
     (tget 0 (copying (fun c => { c with total := 128 })).cmds).any (fun c => decide (c.dataAt + 1 ≠ copyChunks c)) &&
     (tget 0 (copying (fun c => { c with a := ⟨.cap, mkCap 0 4096 0 0 0⟩ })).cmds).any (fun c =>
       match cmdRead (copying id) c c.a (copyModes c).1 Need.rd 0 64 with
       | .error (.fault .perm _) => true
       | _ => false) &&
     (tget 0 (copying (fun c => { c with data := [1] })).cmds).any (fun c => !c.data.isEmpty && (writeChunk (copying id) 0 c 0 c.data).toBool) &&
     (tget 0 (copying (fun c => { c with err := some (.perm, 3) })).cmds).any (fun c => c.err.isSome)) = true := by decide +kernel

theorem witness_CopyEngineWork_rings :
    ((tget 0 (copying ring0).cmds).any (fun c => decide (ringFields c = some (cpys0, 5)) && decide (c.dataAt ≤ 0) && decide (c.next < c.total) &&
       decide (ringLen c = 4096) && (match holdLines (copying ring0) c c.a 0 64 with
         | .ok c1 => (cmdRead (copying ring0) c1 c.a false Need.rd 0 64).toBool
         | .error _ => false)) &&
     (tget 0 (copying (fun c => { ring0 c with next := 16 })).cmds).any (fun c => decide (c.total ≤ c.next)) &&
     (tget 0 (copying (fun c => { ring0 c with next := 8, total := 64, b := ⟨.cap, mkCap 0 32 0 0xFF 0⟩ })).cmds).any (fun c =>
       decide (c.next < c.total) && decide (ringLen c * 8 / 32 - (c.next - c.passed) = 0))) = true := by decide +kernel

/-! ## Groups -/

def grouped (gs : List (Nat × GReg)) : State := baseT gs (fun t => { t with groups := 4 })

theorem witness_GroupResults :
    (finds (grouped []) [] [] (fun _ t _ => t.groups.getLsbD 2 && !t.groups.getLsbD 3) &&
     decide (groupOwner (grouped []) 0 3 = none) && decide (groupOwner (grouped []) 0 2 = some 0) && decide (pendingColl (grouped []) 0 2 = none) &&
     kinds (grouped [(2, dat 9), (3, dat 1)]) [1, 2, 3] [2, 3] [(2, .data), (3, .data), (1, .data)] &&
     decide (members (grouped []) 0 2 = [0]) &&
     finds (grouped [(2, store0 0)]) [1, 2] [2] (fun _ t _ => (capCheck (t.rd 2).bits Need.rd 0 256).toBool && capOnchip (t.rd 2).bits &&
       (gxldRows (base []) 0 0 true false).isSome && (gxldRows (base []) 0 0x1000 false false).isSome)) = true := by decide +kernel

theorem test_gvote_ballot_of_one : gives (.gvote 2 .ballot 1 2) (grouped [(2, dat 9)]) (fun u => decide (reg u 1 = dat 1) && at_ u 1) = true := by decide +kernel
theorem test_gred_of_a_nonmember_faults : faults (.gvote 3 .any 1 2) (grouped [(2, dat 9)]) .perm 0 = true := by decide +kernel

/-! ## Barriers -/

/-- Barrier 0 of the owner on core 0 with a change. -/
def barred (gs : List (Nat × GReg)) (f : Barrier → Barrier) : State := setBar (base gs) 0 0 0 (f Barrier.reset)

theorem witness_BarrierSetupAndArrival :
    (finds (barred [(2, dat (2 + 3 * 2 ^ 16 + 5 * 2 ^ 32))] id) [2] [2] (fun _ t _ =>
       let x := low t 2
       decide (x.extractLsb' 48 16 = 0) && decide (x.extractLsb' 19 13 = 0) && decide (x.extractLsb' 0 16 ≠ 0) && decide ((x.extractLsb' 16 3).toNat < 4)) &&
     (getO (base []) 0).any (fun o => o.isPop) && decide (getBar (barred [] id) 0 0 0 = some Barrier.reset) && (waitersOn (barred [] id) 0 0 0).isEmpty &&
     decide (homeCore (barred [] id) 0 0 3 = 0) && decide (barHome (barred [] id) 0 0 0 = 0) &&
     finds (barred [] id) [] [] (fun _ t _ => decide (tget 0 t.arrivals ≠ some 0) && decide (Barrier.reset.arrived ≠ Barrier.reset.count)) &&
     finds (barred [(2, dat (2 ^ 48 - 1))] id) [2] [2] (fun _ t _ => decide (0 + (low t 2).toNat ≤ 2 ^ 48 - 1)) &&
     decide (barHome (setP (setBar (afterInstr .nop { base [] with threads := [(16, (getT (base []) 0).getD (newThread 0 0 8 0 0 0 GReg.zero GReg.zero GReg.zero GReg.zero))] })
       0 0 0 Barrier.reset) ⟨0, 1, 0, 1, [{ Barrier.reset with scope := 1 }], 1, 0, 0⟩) 0 1 0 = 0)) = true := by decide +kernel

theorem test_bsync_alone_completes : gives (.bsync 0 1) (barred [] id) (fun u =>
    decide ((getBar u 0 0 0).map Barrier.phase = some 1) && decide (reg u 1 = dat 0) && at_ u 1) = true := by decide +kernel

theorem witness_BarrierWaits :
    (finds (baseT [] (fun t => { t with arrivals := [(0, 5)] })) [1] [] (fun _ t _ => decide (tget 0 t.arrivals = some 5)) &&
     finds (barred [] id) [1] [] (fun _ t _ => decide (tget 0 t.arrivals = none) && !t.arrived) &&
     finds (barred [(2, store0 0)] id) [2] [2] (fun _ t _ => (capCheck (t.rd 2).bits Need.st 0 80).toBool &&
       (match rangePlaces (barred [] id) 0 0 (t.rd 2).bits false Need.st 0 5 with
        | .ok ps => ps.all ownMemory
        | .error _ => false)) &&
     (getBar (barred [] (fun b => { b with arrived := 1 })) 0 0 0).any (fun b => b.err.isNone && b.arrived == b.count && b.delivered == b.expect) &&
     decide (waitersOn (setBar (parkedIn (.phase 0 0)) 0 0 0 { Barrier.reset with arrived := 1 }) 0 0 0 = [0])) = true := by decide +kernel

/-- An operation of thread 0 under way from core 0 to itself as a home. -/
def forwarded (op : FwdOp) (w : Wait) : State := { parkedIn w with fwds := [(0, ⟨0, 0, 0, 0, op, 0, 0, false⟩)] }

theorem witness_BarrierTraffic :
    (decide (getBar (forwarded (.arrive 0) (.home 0)) 0 0 0 = some Barrier.reset) &&
     (getT (forwarded (.arrive 0) (.home 0)) 0).any (fun v => decide (tget 0 v.arrivals ≠ some 0)) &&
     decide (Barrier.reset.arrived ≠ Barrier.reset.count) && decide (tget 0 (setT (parkedIn (.home 0)) 0 { newThread 0 0 8 0 0 0 GReg.zero GReg.zero
       GReg.zero GReg.zero with arrivals := [(0, 7)] }).threads ≠ none) &&
     decide (waitOf (forwarded (.answerPhase 0 3) (.home 0)) 0 = some (.home 0)) &&
     (getBar (setBar (parkedIn (.phase 0 0)) 0 0 0 { Barrier.reset with timeout := 2, clock := some 0 }) 0 0 0).any (fun b => b.err.isNone && b.clock == some 0) &&
     decide (waitOf (parkedIn (.relaxedDone 1)) 0 = some (.relaxedDone 1)) && quietAt 1 (parkedIn (.relaxedPoint 1)) 0 &&
     decide (waitOf { parkedIn (.cstat 0 0) with cstats := [(0, ⟨0, 0, 0, placeRun (.ls 0 0) 80, 0, [1, 2, 3, 4, 5, 6, 7, 8], 1, 0⟩)] } 0 = some (.cstat 0 0))) = true := by
  decide +kernel

theorem test_cstat_record_is_little_endian : gives (.cstatRecordWrite 0)
    { parkedIn (.cstat 0 0) with cstats := [(0, ⟨0, 0, 0, placeRun (.ls 0 0) 80, 0, [1, 2, 3, 4, 5, 6, 7, 0x102], 1, 0⟩)] }
    (fun u => decide (memGet onchipBase u.mem = 1) && decide (memGet (onchipBase + 57) u.mem = 1) && at_ u 1) = true := by decide +kernel

/-! ## Messages and reductions -/

theorem witness_SendingResults :
    (finds (base [(2, dat 0), (3, dat 5)]) [2, 3] [2] (fun i t _ => decide ((t.rd 2).kind = .data) && decide ((t.rd 3).kind = .data) &&
       quiet (base []) i.tid && decide ((low t 2).toNat < 49152) && decide (outboundCount (base []) 0 < 8)) &&
     finds (base [(2, dat 0), (3, handle0 14)]) [2, 3] [2] (fun i t _ => decide ((t.rd 3).kind = .coc) && decide ((low t 2).toNat / 256 = i.tid / 256)) &&
     finds (base [(2, dat 0), (3, store0 0)]) [2, 3] [2] (fun _ t _ => capSend (t.rd 3).bits)) = true := by decide +kernel

/-- A message from thread 0 to itself under way. -/
def message (h : Bool) (w : Wait) (answer : Option Bool) (dst : Nat) : State :=
  { parkedIn w with msgs := [(0, ⟨0, 0, 0, dst, 9, dat 77, h, 3, 0, false, answer⟩)] }

/-- Thread 0 with a message for its port. -/
def mail (gs : List (Nat × GReg)) : State := { base gs with cores := [(0, { CoreSt.reset with inbox := [⟨0, 0, 0, 0, 0, 9, dat 77⟩] })] }

/-- A state in which the issuing thread is the overflow thread of core 0. -/
def overflowing (gs : List (Nat × GReg)) : State :=
  let s := base gs
  match getT s 0, getO s 0 with
  | some t, some o => { setO s 0 { o with ovf := true } with
      threads := [(15, t)], cur := some (Issue.begin 15), cores := [(0, { CoreSt.reset with nextIn := setNth 1 2 CoreSt.reset.nextIn })] }
  | _, _ => s

theorem witness_MessagesAndPorts :
    ((tget 0 (message false .port none 0).msgs).any (fun m => addressed (message false .port none 0) m && hasRoom (message false .port none 0) m &&
       !behindHeld (message false .port none 0) 0 m) &&
     (tget 0 (message false .port none 5).msgs).any (fun m => !addressed (message false .port none 5) m) &&
     (heldFor (base []) 0).isEmpty && (heldFor { message false .port none 0 with msgs := [(0, ⟨0, 0, 0, 0, 9, dat 77, false, 3, 0, true, none⟩)] } 0).length == 1 &&
     decide (waitOf (message true (.sendh 0) (some true) 0) 0 = some (.sendh 0)) && (getO (message true (.sendh 0) (some true) 0) 0).any (fun o => o.phase != .ending) &&
     kinds (base []) [1] [] [(1, .data)] && kinds (mail [(2, ⟨.port, 0⟩)]) [1, 2] [] [(2, .port), (1, .data)] &&
     finds (mail [(2, ⟨.port, 0⟩), (3, store0 0)]) [2, 3] [] (fun _ t _ => (capCheck (t.rd 3).bits Need.rd 0 64).toBool &&
       decide (onchip 0 false = some (.ls 0 0)) && (portHead (mail []) 0).isSome) &&
     finds (overflowing [(2, dat (2 * 2 ^ 8)), (3, dat 1)]) [1, 2, 3] [2] (fun i t _ => isOverflow (overflowing []) i.tid && decide ((t.rd 3).kind = .data) &&
       inRange (coreSt (overflowing []) 0) 2 0 && !inRange (coreSt (overflowing []) 0) 2 1)) = true := by decide +kernel

theorem test_peek_takes_nothing : gives (.peek 1 2) (mail [(2, ⟨.port, 0⟩)]) (fun u => (coreSt u 0).inbox.length == 1 && at_ u 1) = true := by decide +kernel
theorem test_btag_adds_the_word_of_the_tag : gives (.btag 2 3) (let s := mail [(2, ⟨.port, 0⟩), (3, store0 0)]
    { s with mem := memPut (onchipBase + 36) 12 s.mem }) (fun u => at_ u 12) = true := by decide +kernel

/-- A descriptor: one core, one thread, thread 0 its owner, name 1 (10 R200). -/
def desc0 : GReg := dat 0

theorem witness_ReductionsAndFences :
    (finds (base [(2, dat 7), (3, desc0)]) [1, 2, 3] [2, 3] (fun _ t _ =>
       let x := low t 3
       decide (x.extractLsb' 52 12 = 0) && decide (descLast x < 3072) && decide (descFirst x ≤ 0) && decide (descOcore x ≤ descLast x)) &&
     decide ((gatheringOn (base []) 0 (descName 0)).isNone = true) && decide (gatherings (base []) 0 < 4) &&
     finds (base []) [] [] (fun i _ _ => quiet (base []) i.tid && !cmdsOut (base []) i.tid 1 ⟨true, true, true, true, true, true⟩) &&
     decide (waitOf { parkedIn (.root 4) with reds := [(4, ⟨0, 0, .sumI32, 0, [], [(0, 5, 0)], [0], Counts.zero, 1⟩)] } 0 = some (.root 4))) = true := by decide +kernel

/-! ## Matrix arrays -/

/-- A root node of 4 rows of 64 columns in a format, with one word per line. -/
def node0 (fmt : Nat) : Node := ⟨1, 0, 0, 1, 64, 4, 1, 0, false, fmt, .live, 4, 0, 0, 0, []⟩

/-- A view of the whole of node m. -/
def view (m : Nat) : GReg := ⟨.tens, mkTens m 15 0 4 0 64⟩

/-- Context 0 with 4 panels, nodes 1 and 2 (2 the child of 1) in a format. -/
def ctxNodes (fmt : Nat) : Ctx :=
  { bareCtx with f4Count := 4, nodes := [(1, { node0 fmt with children := 1, state := .frozen }), (2, { node0 fmt with depth := 1, parent := 1 })], nextTid := 3 }

/-- Tile 0 of cluster 0 belongs to the owner of thread 0. -/
def tiled (gs : List (Nat × GReg)) (fmt : Nat) : State :=
  setTile (setC (base gs) 0 (ctxNodes fmt)) 0 0 { Tile.reset with owner := some 0 }

/-- A capability with every permission but Onchip: 4,096 bytes of virtual memory. -/
def virtual0 : GReg := ⟨.cap, mkCap 0 4096 0 0xBF 0⟩

def bload0 : BloadX := ⟨.e2m1, 0, 32, 1, false, 16⟩
def mma0 : MmaX := ⟨.e2m1, .e2m1, 1, 0, 0, 0, 16, false, 32⟩
def drain0 : DrainX := ⟨0, 0, 1, 4⟩
def mdrain0 : MdrainX := ⟨.f32, false, false, false, false, 16⟩
def matState : State := tiled [(2, store0 0), (3, view 2), (4, view 1), (5, dat 0)] 5

theorem witness_MatrixCommandsIssue :
    (finds matState [2] [2] (fun i t _ =>
       arrayTakes 0 .e2m1 && decide (bload0.p.toNat < (partition matState 0 t.ctx).2) && decide (bload0.n.toNat ≤ tileDim 0) &&
       (matOperand matState 0 t 2 false .e2m1 1 32 16).toBool && (matPacked matState 0 t 2 8).toBool && formatsMeet .e2m1 .e2m1 &&
       decide (mma0.p0.toNat + panelCount mma0 ≤ (partition matState 0 t.ctx).2) && decide ((tileOf matState 0 0).owner = some t.owner) &&
       drainTakes .f32 && (matOperand matState 0 t 2 true .f32 1 4 16).toBool && decide (drain0.ncols.toNat * fmtWidth .f32 / 8 ≤ mdrain0.pitch.toNat) &&
       decide (i.tid / 256 = 0)) &&
     finds matState [4, 3] [3, 4] (fun _ t _ => decide ((t.rd 3).kind = .tens) && (matOperand matState 0 t 3 false .e2m1 1 32 0).toBool &&
       isAncestor matState 0 (tensTid (t.rd 3).bits) (tensTid (t.rd 4).bits)) &&
     finds matState [5] [5] (fun _ t _ => decide ((t.rd 5).bits.toNat % 256 < 192) && decide (0 + drain0.rows.toNat ≤ tileDim 0)) &&
     decide ((tileOf (base []) 0 1).owner ≠ some 0) &&
     decide ((clusterSt (afterInstr (.minit ⟨2, 0, 1⟩ 5) (base [])) 0).claims = [0]) && kinds matState [1] [] [(1, .data)]) = true := by decide +kernel

theorem test_minit_of_a_free_tile_claims : gives (.minit ⟨2, 0, 1⟩ 5) (base []) (fun u => decide (waitOf u 0 = some (.claim 0)) && at_ u 0) = true := by
  decide +kernel
theorem test_mma_on_another_tile_faults : faults (.mma { mma0 with t := 1 } 2) matState .perm 1 = true := by decide +kernel

/-- A command of thread 0 running in cluster 0's array, complete in this cycle. -/
def arrayRuns (op : Instr) (f : Cmd → Cmd) : State :=
  let s := { setTile (setC (parkedIn (.command 0)) 0 (ctxNodes 5)) 0 0 { Tile.reset with owner := some 0 } with cycle := 16 }
  match getT s 0 with
  | none => s
  | some t => { s with cmds := [(0, f { newCmd op 0 t 4 (store0 0) GReg.zero (store0 0) GReg.zero 0 with phase := .running, due := 16 })] }

/-- A command stands as its completion needs it. -/
def runsOut (s : State) (p : Cmd → Bool) : Bool :=
  s.poison.isEmpty && (tget 0 s.cmds).any (fun c => c.phase == .running && decide (c.due = s.cycle) && p c)

theorem witness_MatrixCompletion :
    (runsOut (arrayRuns (.bload bload0 2) id) (fun _ => true) && runsOut (arrayRuns (.minit ⟨1, 0, 1⟩ 5) id) (fun _ => true) &&
     runsOut (arrayRuns (.mpload ⟨0, 0, 1, false⟩ 2) (fun c => { c with data := List.replicate 8 1 })) (fun c => decide (leNat (c.data.take 6) < 2 ^ 49)) &&
     runsOut (arrayRuns (.mma mma0 2) id) (fun _ => true) && runsOut (arrayRuns (.mmad { mma0 with pitch := 0 } 4 3) id) (fun _ => true) &&
     runsOut (arrayRuns (.mdrain drain0 mdrain0 2) id) (fun c => decide (c.d.kind ≠ .tens) &&
       (destRows (arrayRuns (.mdrain drain0 mdrain0 2) id) c false 16 16 [0]).toBool) &&
     runsOut (arrayRuns (.mdrain drain0 { mdrain0 with pitch := 0 } 3) (fun c => { c with d := view 2 })) (fun c => decide (c.d.kind = .tens) &&
       (match linWriteAt { ctxNodes 5 with pool := 8 } false (node0 5) c.d.bits 0 [] with
        | .ok _ => true
        | .error _ => false)) &&
     (tget 0 (arrayRuns (.mdraina drain0 ⟨false, false, 0, 0, 0⟩ 5) (fun c => { c with phase := .confirming, a := dat 0 })).cmds).any (fun c =>
       decide ((addFields c.op).isSome = true) && c.err.isNone && decide ((tileOf (arrayRuns .nop id) (peerOf c.a) 0).owner = some 0) &&
       decide ((tileOf (arrayRuns .nop id) (peerOf c.a) 1).owner = none) && (getO (arrayRuns .nop id) 0).any (fun w => w.ctx == c.ctx)) &&
     (tget 0 (arrayRuns (.mdraina drain0 ⟨false, false, 0, 0, 0⟩ 5) (fun c => { c with phase := .adding, adds := none })).cmds).any (fun c => c.adds.isNone) &&
     (tget 0 (arrayRuns (.mdraina drain0 ⟨false, false, 0, 0, 0⟩ 5) (fun c => { c with adds := some 3 })).cmds).any (fun c => c.adds.isSome) &&
     (tget 0 (arrayRuns (.mma mma0 2) (fun c => { c with err := some (.perm, 0) })).cmds).any (fun c => c.eng % 8 == 4 && c.adds.isNone)) = true := by decide +kernel

/-! ## Tensors -/

/-- Context 0 with a live node 2 of 8-bit elements, the child of a frozen node 1. -/
def linState (gs : List (Nat × GReg)) : State := setC (base gs) 0 (ctxNodes 6)

theorem witness_LineageOperationsSent :
    (finds (linState [(2, virtual0)]) [1, 2, 0] [2, 0] (fun _ t _ => decide ((t.rd 2).kind = .cap) && !capOnchip (t.rd 2).bits && capRead (t.rd 2).bits &&
       capMatrix (t.rd 2).bits && decide (capCur (t.rd 2).bits + 4 * ceilDiv 64 32 ≤ capLen (t.rd 2).bits) && decide (minPitch 64 .e2m1 ≤ newPitch 64 .e2m1 0)) &&
     kinds (linState []) [1, 0, 3] [3] [(3, .data), (1, .data)] &&
     finds (linState [(2, view 2), (3, dat 2)]) [1, 2, 3] [2, 3] (fun _ t _ => (needNode (linState []) 0 (t.rd 2).bits).toBool && tensPerm (t.rd 2).bits 0 &&
       tensPerm (t.rd 2).bits 1 && decide ((t.rd 3).kind = .data)) &&
     finds (linState [(1, store0 0), (2, ⟨.tens, mkTens 2 15 0 1 0 16⟩)]) [1, 2] [2, 1] (fun i t _ =>
       (match needNode (linState []) 0 (t.rd 2).bits with
        | .ok x => (capCheck (t.rd 1).bits Need.st 0 (viewBytes x.2 (t.rd 2).bits)).toBool && decide (x.2.state ≠ .frozen) &&
          (capCheck (t.rd 1).bits Need.rd 0 (viewBytes x.2 (t.rd 2).bits)).toBool &&
          (match capRun (linState []) (i.tid / 16) 0 (t.rd 1).bits false Need.st (runFuel 16) 0 16 with
           | .ok ps => ps.all ownMemory
           | .error _ => false)
        | .error _ => false))) = true := by decide +kernel

/-- A lineage operation of thread 0 at Chrysalis. -/
def linAt (op : Instr) (a : GReg) (done : Bool) (out : List (Nat × GReg)) (f : Option (Cause × Nat)) : State :=
  { setC (parkedIn (.lineage 0)) 0 (ctxNodes 6) with lins := [(0, ⟨0, 0, op, a, dat 0, GReg.zero, 0, done, [], [], out, f⟩)] }

theorem witness_LineageEvents :
    (decide (waitOf (linAt (.tinfo 0 1 2) (view 2) false [] none) 0 = some (.lineage 0)) &&
     (match linPerform (linAt (.tinfo 0 1 2) (view 2) false [] none) ⟨0, 0, .tinfo 0 1 2, view 2, dat 0, GReg.zero, 0, false, [], [], [], none⟩ (ctxNodes 6) with
      | .ok _ => true
      | .error _ => false) &&
     (match linPerform (linAt (.tinfo 0 1 2) (view 9) false [] none) ⟨0, 0, .fork false false 1 2 0, view 9, dat 0, GReg.zero, 0, false, [], [], [], none⟩ (ctxNodes 6) with
      | .ok _ => false
      | .error _ => true) &&
     (tget 0 (linAt .nop (view 2) true [(1, dat 5)] none).lins).any (fun o => o.pins.isEmpty && o.fault.isNone) &&
     (tget 0 (linAt .nop (view 2) true [] (some (.dead, 2))).lins).any (fun o => o.fault.isSome) &&
     (match linFree (ctxNodes 6) false 2 (node0 6) with
      | .ok _ => true
      | .error _ => false)) = true := by decide +kernel

theorem witness_ForkInheritsEveryLine :
    ((tget 2 (ctxNodes 6).nodes).any (fun n => decide (n.depth + 1 ≤ n.maxd)) && decide (freeTid (ctxNodes 6) = some 3) &&
     (ctxNodes 6).nodes.all (fun e => decide (e.2.parent ≠ 3))) = true := by decide +kernel

theorem witness_LineEncodingIsFaithful :
    (decide ((encodeLine (List.replicate 32 5) (List.replicate 32 5) false).1 = 0) &&
     decide ((encodeLine (List.replicate 32 5) zeroLine true).1 ≠ 0) && decide ((List.replicate 32 5).length = 32)) = true := by decide +kernel

theorem test_equal_line_inherits : encodeLine (List.replicate 32 5) (List.replicate 32 5) true = (0, []) := by decide +kernel
theorem test_fork_freezes_the_parent : (match linFork (ctxNodes 6) false false 2 (node0 6) with
    | .ok r => (tget 2 r.ctx.nodes).any (fun n => n.state == .frozen && n.children == 1) && (tget 3 r.ctx.nodes).any (fun n => n.depth == 1 && n.parent == 2)
    | .error _ => false) = true := by decide +kernel

/-! ## Cocoons and Hawkmoth -/

/-- Two handles of one split: entry 0 the parent, 1 and 2 its halves. -/
def splitHandles (s : State) : State :=
  setHlt (setHlt (setHlt s 0 0 { HltEntry.reset with state := .split, root := true, child0 := 1, child1 := 2, rcount := 4, ccount := 16 }) 0 1
    { HltEntry.reset with state := .leaf, rcount := 2, ccount := 16, holder := some 0 }) 0 2
    { HltEntry.reset with state := .leaf, rcount := 2, ccount := 16, holder := some 0 }

/-- A handle of an entry, generation 0. -/
def handleOf (k : Nat) : GReg := ⟨.coc, BitVec.ofNat 128 k⟩

def shape0 : Nat := 4 + 16 * 2 ^ 16 + 14 * 2 ^ 32

/-- An operation of thread 0 at cluster 0's table. -/
def tableOp (op : Instr) (a : GReg) (due : Option Nat) : State := { withHandle (parkedIn (.cocoon 0)) with cocs := [(0, ⟨0, op, a, GReg.zero, 1, 2, due⟩)] }

theorem witness_Cocoons :
    (finds (base [(2, dat shape0)]) [1, 2] [2] (fun _ t _ => !badShape (low t 2).toNat && decide ((t.rd 1).kind = .data)) &&
     finds (withHandle (base [(2, handle0 14), (3, dat 3)])) [4, nextReg 4, 2, 3] [2, 3] (fun _ t _ => cocLive (withHandle (base [])) 0 (t.rd 2).bits &&
       decide ((low t 3).toNat < (hltEntry (withHandle (base [])) 0 0).rcount) && decide (freeHlt (withHandle (base [])) 0 0 = some 1) &&
       decide (freeHlt (withHandle (base [])) 0 2 = some 2) && (hltEntry (withHandle (base [])) 0 0).root) &&
     finds (splitHandles (base [(2, handleOf 1), (3, handleOf 2)])) [4, 2, 3] [2, 3] (fun _ t _ => cocLive (splitHandles (base [])) 0 (t.rd 2).bits &&
       cocLive (splitHandles (base [])) 0 (t.rd 3).bits && (splitOf (splitHandles (base [])) 0 1 2).isSome) &&
     decide (waitOf (tableOp (.cfree 2) (handle0 14) none) 0 = some (.cocoon 0)) &&
     (tget 0 (tableOp (.cfree 2) (handle0 14) none).cocs).any (fun o => cocReady (tableOp (.cfree 2) (handle0 14) none) o) &&
     (tableOp .nop GReg.zero none).owners.all (fun k => k.2.phase != .ending) &&
     decide (ownerGranules (base []) 0 + 1 ≤ 2 * bareOwner.units) && (findGranules (base []) 0 1).isSome) = true := by decide +kernel

theorem witness_Cocoons_region : (decide ((0, 1) ∈ (clusterSt (setCluster (base []) 0 { clusterSt (base []) 0 with scrubbing := [(0, 1)] }) 0).scrubbing) &&
    { State.reset with dev := { Device.reset with ready := true } }.dev.ready && State.reset.ctxs.isEmpty) = true := by decide +kernel

theorem test_calloc_needs_a_shape : faults (.calloc 1 2) (base [(2, dat 0)]) .bounds 0 = true := by decide +kernel

def hsel0 : HselX := ⟨.n32, false, false, false, 0, false, 4⟩

/-- A selection of thread 0 complete in cluster 0's engine. -/
def selecting (op : Instr) : State :=
  let s := { parkedIn (.command 0) with cycle := 16 }
  match getT s 0 with
  | none => s
  | some t => { s with cmds := [(0, { newCmd op 0 t 5 (store0 0) (dat 2) GReg.zero GReg.zero 0 with
      phase := .running, due := 16, run := some ⟨[3, 1, 4, 1], [], 15, 0, 0, 0, 3, false, 2, false⟩ })] }

theorem witness_Selections :
    (finds (base [(2, store0 0), (3, dat 2)]) [4, nextReg 4, 2, 3, 0] [2, 3] (fun _ t _ => decide ((4 : Reg).val + 1 < t.nregs) &&
       (needColumn (base []) 0 t 2 .n32 4).toBool && decide ((t.rd 3).kind = .data)) &&
     finds (base [(2, store0 0), (3, store0 0)]) [4, nextReg 4, 2, 3, 0] [2, 3] (fun _ t _ => (needColumn (base []) 0 t 3 .f32 4).toBool) &&
     decide (heldBy (base []) 0 = none) &&
     decide (heldBy (setCluster (base []) 0 { clusterSt (base []) 0 with held := some ⟨0, 0, 4, 5, false⟩ }) 0 = some ⟨0, 0, 4, 5, false⟩) &&
     finds (base [(2, store0 0)]) [1, 2] [2] (fun i t _ => (capCheck (t.rd 2).bits Need.st 0 1).toBool &&
       (match capRun (base []) (i.tid / 16) 0 (t.rd 2).bits false Need.st (runFuel 1) 0 1 with
        | .ok ps => ps.all ownMemory
        | .error _ => false)) &&
     (tget 0 (selecting (.hsel false hsel0 4 2 3)).cmds).any (fun c => (selectionOf c.op).isSome && c.run.isSome && decide (c.due = 16)) &&
     decide (waitOf (selecting (.hsel false hsel0 4 2 3)) 0 = some (.command 0)) && !hsel0.hold) = true := by decide +kernel

theorem test_hsel_second_largest : gives (.hawkComplete 0) (selecting (.hsel false hsel0 4 2 3)) (fun u =>
    decide ((reg u 4).bits.toNat % 2 ^ 32 = 3) && at_ u 1) = true := by decide +kernel

/-- Four elements 3, 1, 4, 1 of three planes, and the selection of the second largest. -/
def run0 : HawkRun := ⟨[3, 1, 4, 1], [], 15, 0, 0, 0, 3, false, 2, false⟩

theorem witness_PlanePassesSelectTheLargest :
    (decide (run0.total ≤ (maskMembers run0.cand 4).length) && run0.imgs.all (fun v => decide (v < 2 ^ run0.planes)) && decide (1 ≤ run0.total) &&
     (selectionOf (.hsel false hsel0 4 2 3)).any (fun q => !q.weighted)) = true := by decide +kernel

/-! ## Tasks, gates, signals -/

/-- A task type: entry 0, one thread of 8 registers, any class, valid (20 R300). -/
def type0 : BitVec 512 := BitVec.ofNat 512 (2 ^ 79)

/-- An armed or unarmed signal whose counter stands at physical address 0x1000: notify at 5 or more, vector 2 (23 R347). -/
def signal0 (armed : Bool) : BitVec 256 := BitVec.ofNat 256 (0x1000 + 5 * 2 ^ 64 + 2 * 2 ^ 192 + 2 ^ 204 + (if armed then 2 ^ 205 else 0) + 2 ^ 206)

/-- Context 0 with a task type, a signal and a record that waits on gate 3, whose count is 2. -/
def taskCtx : Ctx := { bareCtx with types := [(0, type0)], signals := [(4, signal0 false)], gates := [(3, 2)], waiting := [(3, 0)] }

def taskState (gs : List (Nat × GReg)) : State := setC (base gs) 0 taskCtx

/-- The issuing thread belongs to a task with a DONEG. -/
def inTask (s : State) (record : BitVec 256) : State := setO s 0 { bareOwner with isPop := false, record := record }

theorem witness_TaskInstructions :
    (finds (taskState [(2, store0 0), (3, dat 1)]) [2, 3] [2, 3] (fun i t _ => (capCheck (t.rd 2).bits Need.rd 0 32).toBool &&
       decide (1 ≤ (low t 3).toNat) && (match capRun (taskState []) (i.tid / 16) 0 (t.rd 2).bits false Need.rd (runFuel 32) 0 32 with
         | .ok ps => ps.all ownMemory && decide (poisoned (taskState []) ps = none) && (readRecords (taskState []) ps 1).all (recValid taskCtx)
         | .error _ => false) && decide (pendingRecords (taskState []) 0 + 1 ≤ 65536)) &&
     (getO (base []) 0).any (fun o => o.isPop) && (getO (inTask (base []) 0) 0).any (fun o => !o.isPop && recDoneg o.record == 0) &&
     (getO (inTask (base []) (BitVec.ofNat 256 (7 * 2 ^ 160))) 0).any (fun o => recDoneg o.record == 7 && !o.donegDone) &&
     kinds (base [(2, dat 1), (3, dat 9)]) [1, 2, 3] [2, 3] [(2, .data), (3, .data), (1, .data)] &&
     kinds (base [(2, dat 65536)]) [1, 2, 3] [2, 3] [(2, .data)] && kinds (base []) [1] [] [(1, .data)] &&
     finds (taskState [(2, dat 4)]) [2, 3] [2, 3] (fun _ t _ => (sigEntry (taskState []) t.ctx (low t 2).toNat).isSome) &&
     finds (taskState [(2, dat 5)]) [2, 3] [2, 3] (fun _ t _ => (sigEntry (taskState []) t.ctx (low t 2).toNat).isNone)) = true := by decide +kernel

theorem test_gate_zero_faults : faults (.gate .set 1 2 3) (base []) .bounds 0 = true := by decide +kernel
theorem test_tdone_of_a_population_faults : faults .tdone (base []) .perm 0 = true := by decide +kernel

/-- An operation of thread 0 at the scheduler. -/
def atGate (op : Instr) (g v : Nat) (rs : List (BitVec 256)) (applied : Bool) (w : Wait) : State :=
  { setC (parkedIn w) 0 taskCtx with gates := [(0, ⟨0, 0, 0, op, g, v, rs, applied, 0, none, true⟩)] }

theorem witness_GateOperations :
    ([atGate (.gate .set 1 2 3) 3 0 [] false (.gate 0), atGate (.gate .add 1 2 3) 3 (2 ^ 32 - 3) [] false (.gate 0), atGate (.gate .read 1 2 3) 3 0 [] true (.gate 0),
      atGate (.tsub 1 2) 0 0 [0] false (.gate 0), atGate (.tsubAt 1 2 50) 0 0 [0] false (.gate 0), atGate (.qpost .add 2 3) 4 1 [] false (.qpost 0),
      atGate .tdone 3 0 [] false (.gate 0), atGate (.tsubAt 1 2 50) 1 0 [0] true (.gate 0)].all (fun s =>
        (tget 0 s.gates).any (fun o => (getC s o.ctx).isSome && decide (waitOf s o.tid = some (.gate 0)) || decide (waitOf s o.tid = some (.qpost 0)))) &&
     decide (gateCount taskCtx 3 = 2) && (getO (inTask (atGate .tdone 3 0 [] false (.gate 0)) 0) 0).any (fun w => !w.donegDone) &&
     decide (taskCtx.status.length < taskCtx.statusCap)) = true := by decide +kernel

theorem test_gate_add_below_zero_is_held : gives (.gateApply 0) (atGate (.gate .add 1 2 3) 3 (2 ^ 32 - 3) [] false (.gate 0)) (fun u =>
    (getC u 0).any (fun c => gateCount c 3 == 0 && c.waiting.isEmpty && c.status.length == 1)) = true := by decide +kernel

theorem witness_SignalUpdates :
    (decide (sigEntry (taskState []) 0 4 = some (signal0 false)) && physExists (sigAddr (signal0 false)) && !sigArmed (signal0 false) &&
     Memory.wf (taskState []).mem && sigArmed (signal0 true) && sigCond (signal0 true) && decide (sigNdesc (signal0 true) = 0) &&
     decide (sigTarget (signal0 true) = 5) && decide (counterOf { base [] with mem := memPut 0x1000 5 [] } (signal0 true) = 5) &&
     decide (waitOf (atGate (.qpost .add 2 3) 4 1 [] true (.qpost 0)) 0 = some (.qpost 0)) && !(signal0 true).getLsbD 205 == false) = true := by decide +kernel

/-! ## Faults, translation, status entries -/

theorem witness_FaultsAreTakenAndReplayed : ((issuer (base [])).isSome && (getT (base []) 0).isSome) = true := by decide +kernel

/-- A fault record of thread 0 at the error core. -/
def faulted (cause : Cause) (phase : OwnerPhase) (c : Ctx) : State :=
  { setO (setC (parkedIn (.faultRec 0)) 0 c) 0 { bareOwner with phase := phase } with faults := [(0, ⟨0, 0, 0, cause, 0x5000, 0, 0⟩)] }

/-- Context 0 with a page that the memory core can give, and sectors in reserve. -/
def backed : Ctx := { bareCtx with backing := [(0x5000, 0x1F, 1)], reserve := 10 }

theorem witness_FaultDecisionsAndWalks :
    ((tget 0 (faulted .xlate .running backed).faults).any (fun f => resolvable (faulted .xlate .running backed) f && decide (f.tid < 2 ^ 32)) &&
     (tget 0 (faulted .bounds .running backed).faults).any (fun f => !resolvable (faulted .bounds .running backed) f) &&
     (getO (faulted .xlate .ending backed) 0).any (fun o => o.phase == .ending) &&
     decide ((pageWalk (faulted .xlate .running backed) 0 0x5000).leaf = none) && (backingOf backed 0x5000).isSome &&
     decide (waitOf (faulted .xlate .running backed) 0 = some (.faultRec 0)) &&
     decide ((sortBy missOlder (clusterSt (afterInstr (.ld ⟨false, 0, false, false, .w⟩ 1 2) (base [(2, ⟨.cap, mkCap 0x100000000 4096 0 3 0⟩)])) 0).misses).length = 1) &&
     risingFrom 0 (base []).threads) = true := by decide +kernel

theorem test_soft_error_poisons_its_word : gives (.softErr (.word 0x1003)) (base []) (fun u => decide (u.poison = [0x1000])) = true := by decide +kernel

theorem witness_ReadyThreadsAndStatusEntries :
    ((getC (setC (parkedIn .statusRoom) 0 { bareCtx with statusWait := [(1, none), (1, some 0)] }) 0).any (fun c =>
       decide (c.statusWait.length = 2) && decide (c.status.length < c.statusCap)) &&
     (getT (parkedIn .statusRoom) 0).any (fun t => t.status == .parked .statusRoom)) = true := by decide +kernel

/-! ## Dispatch, saves, Bridle -/

/-- A ready task of type 0 in context 0. -/
def readied : State := { taskState [] with ready := [⟨0, 0, 0, 0, none⟩], cur := none, cycle := 16 }

theorem witness_DispatchAndPools_choice :
    ((candsOf readied 0).length == 1 && (best (candsOf readied 0)).isSome && (candsOf (base []) 0).isEmpty && readied.dev.activation.isNone) = true := by decide +kernel

theorem witness_DispatchAndPools_core : (match best (candsOf readied 0) with
    | some c => (chooseCore readied (takers readied c 0)).isSome
    | none => false) = true := by decide +kernel

theorem witness_DispatchAndPools_pools :
    ({ State.reset with dev := { Device.reset with ready := true } }.owners.isEmpty && decide ((List.replicate 3072 3).length = 3072) &&
     !(base []).owners.isEmpty && (tget 2 { base [] with bridle := [(2, ⟨⟨0, 9, 1, 1, 1, 0⟩, true⟩)] }.bridle).any (fun b => b.settling && b.par.minc == b.par.maxc)) = true := by
  decide +kernel

theorem witness_PlacementsLaunchThreads :
    ((getO (base []) 0).any (fun o => !o.ovf && decide (5 ≤ o.nregs) && ((freeSlots (base []) 3).take o.threads).contains 0) &&
     (getO (setO (base []) 0 { bareOwner with waiting := [3] }) 0).any (fun o => o.waiting.contains 3 &&
       (canTake { base [] with reserved := [] } 3 (ownerShape o) none).isSome) && (base []).reserved.isEmpty) = true := by decide +kernel

/-- A task or population with no thread left. -/
def threadless (o : Owner) : State := { setO (base []) 0 o with threads := [], cur := none }

theorem witness_TasksEnd :
    (decide (getO (threadless bareOwner) 5 = none) && !(liveThreads (setO (base []) 0 { bareOwner with isPop := false }) 0).isEmpty &&
     (liveThreads (threadless { bareOwner with isPop := false }) 0).isEmpty && !ownerBusy (threadless { bareOwner with isPop := false }) 0 none &&
     !endWaits (threadless { bareOwner with isPop := false }) 0 && decide (getP { threadless bareOwner with places := [] } 0 0 = none) &&
     !({ threadless bareOwner with places := [] }.places.any (fun p => p.2.owner == 0)) && bareOwner.waiting.isEmpty &&
     ownerBusy { threadless { bareOwner with isPop := false } with cmds := (copying id).cmds } 0 none) = true := by decide +kernel

/-- A thread of a pre-empted task. -/
def preempting (st : Status) (forced : Bool) : State :=
  setO (baseT [] (fun t => { t with preempt := true, status := st })) 0 { bareOwner with isPop := false, phase := .saving, requested := some 0, forced := forced }

/-- Its task with every thread saved. -/
def allSaved : State :=
  threadless { bareOwner with isPop := false, phase := .saving, requested := some 0, saved := [⟨0, 2, newThread 0 0 8 0 0 0 GReg.zero GReg.zero GReg.zero GReg.zero, []⟩] }

theorem witness_PreemptedTasksAreSaved :
    ((getT (base []) 0).any (fun t => !t.preempt) && (getT (preempting (.parked (.saving 2)) false) 0).any (fun t => t.preempt) &&
     (getT (preempting .ready true) 0).any (fun t => t.status == .ready) && (getO (preempting .ready true) 0).any (fun o => o.forced) &&
     (getO (preempting .ready false) 0).any (fun o => decide (o.requested = some 0) && o.phase == .saving && o.record_.isNone && o.pdist == 0) &&
     (getO (base []) 0).any (fun o => o.requested.isNone) && (placeOf allSaved 0).any (fun p => !saveWaits allSaved 0 p && decide (savePoison allSaved 0 p = none)) &&
     (liveThreads allSaved 0).isEmpty && (base []).cmds.all (fun c => c.2.phase != .stopped) && (clusterSt (base []) 0).restoring.isEmpty &&
     decide ((engOf (base []) 5).exec = none)) = true := by decide +kernel

theorem test_ppt_without_preemption_goes_on : gives (.ppt 0) (base []) (fun u => at_ u 1) = true := by decide +kernel

/-! ## Host queues and packets -/

/-- Context 0 with queue 2: 16 packets from virtual address 0, which it may write to. -/
def queued (st : Nat) (rptr wptr : Word) (open_ : List Nat) : State :=
  let s := setC (base []) 0 { taskCtx with queues := [(2, ⟨st, rptr, wptr, 0, 4, open_⟩)] }
  { s with cur := none, dev := { s.dev with ready := true } }

/-- A packet of it. -/
def packet (bits_ : Nat) (ph : PktPhase) : State := { queued 1 1 1 [0] with pkts := [(0, ⟨0, 2, 0, BitVec.ofNat 512 bits_, ph, 0, 0, none⟩)] }

theorem witness_QueuesAndPackets :
    ((getC (queued 1 0 0 []) 0).any (fun c => (tget 3 c.queues).isNone && (tget 2 c.queues).any (fun v => v.state == 1 && decide (((16 : Word) - v.rptr).toNat ≤ 2 ^ v.k) &&
       decide (2 ^ v.k < ((17 : Word) - v.rptr).toNat)) && decide (c.status.length < c.statusCap)) && (queued 1 0 0 []).dev.ready &&
     decide ((nextQueue (queued 1 0 3 [])).map (fun x => (x.1, x.2.1)) = some (0, 2)) && (nextQueue (queued 1 0 0 [])).isNone &&
     (tget 0 (packet 0 .fetching).pkts).any (fun p => (queueOf (packet 0 .fetching) p.ctx p.q).isSome) &&
     decide (mapFor (packet 0 .stalled) 0 0 false = none) && (mapFor (setC (packet 0 .stalled) 0 { taskCtx with backing := [(0, 0x1F, 1)] }) 0 0 false).isSome &&
     (tget 0 (packet (7 + 3 * 2 ^ 128) .fetched).pkts).any (fun p => (queueOf (packet 0 .fetched) 0 2).any (fun v =>
       mayBegin (packet 0 .fetched) v 0 p && pktValid (packet 0 .fetched) p && !pktAt p && v.state == 1)) &&
     (tget 0 (packet 8 .fetched).pkts).any (fun p => !pktValid (packet 8 .fetched) p) &&
     (tget 0 (packet (3 + 2 ^ 8 + 5 * 2 ^ 64 + 4 * 2 ^ 128) .fetched).pkts).any (fun p => pktValid (packet 0 .fetched) p && pktAt p && decide (2 < pktType p) && decide (0 < pktNbt p))) = true := by
  decide +kernel

theorem test_wptr_past_the_ring_is_an_error : gives (.wptr 0 2 17) (queued 1 0 0 []) (fun u =>
    (queueOf u 0 2).any (fun v => v.state == 2) && (getC u 0).any (fun c => c.status.length == 1)) = true := by decide +kernel

/-- Page tables that map the first 2 MiB of context 0's addresses to itself, for reads and writes. -/
def mapped (s : State) : State :=
  let entry := fun (m : List Host.Cell) (pa e : Nat) => (toBytes 8 e).zipIdx.foldl (fun n b => memPut (pa + b.2) b.1 n) m
  { s with mem := entry (entry (entry s.mem 0x200000 0x201001) 0x201000 0x202001) 0x202000 0x1F }

theorem witness_PacketResults :
    ((begunPkt (packet 1 .begun) 0 1).isSome && (begunPkt (packet 3 .begun) 0 3).isSome && (begunPkt (packet 4 .begun) 0 4).isSome &&
     (begunPkt (packet 6 .begun) 0 6).any (fun p => decide (domainAddr (pktField p 16 8) = none) && decide (domainAddr (pktField p 24 8) = none)) &&
     (begunPkt (packet 7 .begun) 0 7).isSome &&
     (begunPkt (packet (6 + (2 ^ 63) * 2 ^ 128) .begun) 0 6).any (fun p => (domainAddr (pktField p 16 8)).isSome) &&
     (begunPkt (packet (6 + (2 ^ 63) * 2 ^ 192) .begun) 0 6).any (fun p => (domainAddr (pktField p 24 8)).isSome) &&
     (frontRead (mapped (packet 1 .begun)) 0 0 32).isSome && (frontRead (packet 1 .begun) 0 0 32).isNone &&
     (begunPkt (packet (2 + 2 ^ 192) .begun) 0 2).any (fun p => (frontRead (mapped (packet 2 .begun)) 0 0 (32 * pktField p 24 4)).any (fun r =>
       (pktRecords r.2 1).length == 1)) && (mapRange (mapped (packet 5 .begun)) 0 0 true (pagesOf 0 8)).isSome) = true := by decide +kernel

/-! ## Gondola and the host -/

/-- A module that runs an image. -/
def running : State := { State.reset with dev := { Device.reset with ready := true, running := some Device.reset.stored, ports := List.replicate 18 ⟨true, 0, 0, 0, []⟩ } }

/-- Which of the two cases of a bring-up holds is the security core's, which Config leaves open. -/
theorem witness_BringUpAndDomains :
    (imageOk (coldDevice State.reset.dev) (coldDevice State.reset.dev).stored = true ∨ imageOk (coldDevice State.reset.dev) (coldDevice State.reset.dev).stored = false) ∧
    (running.dev.running.isSome && running.dev.ports.any Port.up && decide (running.dev.domain = none) && running.ctxs.isEmpty) = true :=
  ⟨by cases imageOk (coldDevice State.reset.dev) (coldDevice State.reset.dev).stored <;> simp, by decide +kernel⟩

theorem witness_FirmwareAndMeasurements :
    (imageOk running.dev ⟨[]⟩ = false) ∧
    (imageOk running.dev Device.reset.stored = true ∨ imageOk running.dev Device.reset.stored = false) ∧
    (running.dev.activation.isNone && running.dev.running.isSome && running.owners.isEmpty && decide (running.dev.meas.length = 8) && State.reset.dev.running.isNone &&
      (some (⟨Device.reset.stored, false, 0⟩ : Activation)).isSome) = true :=
  ⟨by decide +kernel, by cases imageOk running.dev Device.reset.stored <;> simp, by decide +kernel⟩

theorem test_measurement_0_is_not_the_hosts : runs (.measurementExtend 3 7) running running = true := by decide +kernel

theorem witness_MailboxesAndPorts :
    (decide (running.dev.mailboxes.length = 8) && decide (running.dev.ports.length = 18) && (portOf running 17).up && !(portOf State.reset 0).up &&
     !exports_ running 0 0 8 && exports_ (setC running 0 { bareCtx with exported := [(0x1000, 64)] }) 0 0x1000 8 && physExists 0x1000 && physExists 0x1007 &&
     (begunPkt (packet 6 .begun) 0 6).isSome && running.dev.ready) = true := by decide +kernel

theorem test_bad_crc_is_replayed : gives (.flitReceive 0 ⟨1, 0, false, 0, .time 5⟩) running (fun u => (portOf u 0).replays == 1 && (portOf u 0).next == 0) = true := by
  decide +kernel

def params0 : CtxParams := ⟨0x200000, 0x400000, 0, 16, 0, 16, 0, 0, 64, 64, 0, [], []⟩

theorem witness_ContextsRootsAndImages :
    (partitionOk running params0 && decide (params0.root % 2 ^ 21 = 0) && physExists params0.root && (getC running 0).isNone &&
     (getC (queued 1 0 0 []) 0).isSome && (queued 1 0 0 []).dev.ready) = true := by decide +kernel

/-! ## The machine as a whole -/

theorem witness_NopOnlyAdvances : finds (base []) [] [] (fun i _ pop => pop.isNone && (getT (base []) i.tid).isSome) = true := by decide +kernel
theorem witness_RegisterZero : finds (base []) [1, 0] [0] (fun _ t _ => decide ((t.rd 1).kind ≠ .coc)) = true := by decide +kernel
theorem witness_WakeTurns : (getT (parkedIn (.reply 0)) 0).any (fun v => v.popDue.isNone) = true := by decide +kernel

theorem witness_OperandKindFaults :
    (kinds (base [(2, ⟨.moved, 0⟩)]) [1, 2, 3] [2, 3] [(2, .moved)] && kinds (base [(2, store0 0)]) [1, 2, 3] [2, 3] [(2, .cap)] &&
     kinds (base [(3, ⟨.moved, 0⟩)]) [1, 2, 3] [2, 3] [(2, .data), (3, .moved)] && kinds (base [(3, store0 0)]) [1, 2, 3] [2, 3] [(2, .data), (3, .cap)] &&
     kinds (base [(1, ⟨.coc, 0⟩)]) [1, 2, 3] [2, 3] [(2, .data), (3, .data), (1, .coc)]) = true := by decide +kernel

theorem witness_RegisterInstructionsTouchNothingElse : ((issuer (base [])).isSome && gives (.add 1 2 3) (base []) (fun _ => true)) = true := by decide +kernel
theorem witness_MemoryStaysCanonical : (Memory.wf State.reset.mem && (match step (State.reset.withFetchWord 32 0x3C) with
    | .next u => Memory.wf u.mem
    | _ => false)) = true := by decide +kernel
theorem witness_DecodingUndoesEncoding : (Bundle.wf 32 ⟨.add 31 30 29, none⟩ && Bundle.wf 32 ⟨.addi 5 2 (-1), some (.viadd vword)⟩ &&
    decide ((Instr.add 31 30 29).enc ≠ .none)) = true := by decide +kernel

theorem witness_StepRunsDecoded :
    (let s := State.reset.withFetchWord 32 0x3C
     (firstThread goesOn s.threads).isNone && (match firstThread (mayIssue s) s.threads with
       | some (tid, t) => decide ((fetchBundle (issueState s tid t) tid t.ctx t.pc).toOption = some [0x3C]) && Bundle.wf t.nregs ⟨.nop, none⟩
       | none => false)) = true := by decide +kernel
theorem witness_EveryInstructionAnswers : (issuer (base [])).isSome = true := by decide +kernel

/-! ## Clauses with hypotheses of their own -/

theorem witness_ImmediateAndMoveResults_ports :
    (kinds (base [(2, ⟨.port, 0⟩)]) [2, 2] [] [(2, .port)] && finds (base [(2, ⟨.port, 0⟩)]) [2, 2] [] (fun i _ _ => !i.paired) &&
     finds (base [(2, ⟨.coc, 0⟩)]) [3, 2] [2] (fun _ t _ => decide ((t.rd 2).kind = .coc))) = true := by decide +kernel

theorem witness_ThreadsStartEndAndTrap_trap : finds (base []) [2] [2] (fun i t _ => decide ((t.rd 2).kind ≠ .moved) && statusRoom (base []) t.ctx &&
    (coreSt (base []) (i.tid / 16)).inbox.isEmpty) = true := by decide +kernel

/-- Thread 0's pair goes on after its park with what its scalar half loaded in its turn. -/
def resumed : State :=
  let l : Latch := ⟨List.replicate 8 GReg.zero, [], 0, [], 0, false, 0, [], some (.ls 0 0, dat 6)⟩
  { base [(2, store0 0)] with cur := some { Issue.begin 0 with paired := true, latch := some { l with g := ((getT (base [(2, store0 0)]) 0).map Thread.g).getD [] } } }

theorem witness_LoadsAndStores_pairs : (placed resumed (wordOp 0 false false) 1 2 false (fun p => decide (p = .ls 0 0)) &&
    finds resumed [1, 2] [2] (fun i _ _ => decide (i.latch.bind Latch.held = some (.ls 0 0, dat 6)))) = true := by decide +kernel

theorem witness_LoadsAndStores_tags : placed (base [(1, store0 0), (2, store0 16)]) ⟨false, 0, false, false, .q⟩ 1 2 true (fun p =>
    decide (p = .ls 0 16) && Memory.wf (base []).mem && (feParked (base []) (placeKey p)).isEmpty) = true := by decide +kernel

theorem test_store_of_a_capability_tags : gives (.st ⟨false, 0, false, false, .q⟩ 1 2) (base [(1, store0 0), (2, store0 16)]) (fun u =>
    decide (u.tags = [onchipBase + 16]) && decide (loadValue u (placeRun (.ls 0 16) 16) = store0 0)) = true := by
  decide +kernel

/-- A flight whose word is poisoned, or whose granule is tagged. -/
def poisonedFlight (op : AccOp) (w : Wait) : State := { flight op w false with poison := [placeKey (.ls 1 0)] }
def taggedFlight (op : AccOp) (w : Wait) : State := { flight op w false with tags := [placeKey (.ls 1 0)] }

/-- A flight with a change of its access. -/
def flying (op : AccOp) (w : Wait) (f : Req → Req) : State :=
  let s := flight op w false
  { s with reqs := s.reqs.map (fun p => (p.1, f p.2)) }

theorem witness_AccessesAreCarriedOut_faults :
    ([AccOp.load 4, .lds, .feget].all (fun op => (tget 7 (poisonedFlight op (.reply 7)).reqs).any (fun r =>
        !r.performed && accReads r.op && (poisoned (poisonedFlight op (.reply 7)) r.at_).isSome && !(isFullEmpty r.op && r.at_.any (tagged (poisonedFlight op (.reply 7)))) &&
        !foreignStream (poisonedFlight op (.reply 7)) r)) &&
     [AccOp.lds, .sts 1, .fest true, .feget].all (fun op => (tget 7 (taggedFlight op (.reply 7)).reqs).any (fun r =>
        !r.performed && isFullEmpty r.op && r.at_.any (tagged (taggedFlight op (.reply 7))))) &&
     (tget 7 (flight (.load 4) (.reply 7) false).reqs).any (fun r => decide (accFault (flight (.load 4) (.reply 7) false) r = none))) = true := by decide +kernel

theorem witness_AccessesAreCarriedOut_windows :
    ((tget 7 (flying (.window [(0, 9)] ⟨0, 0, 1, 0, 0, 0⟩ 0 0) (.asleep 9) (fun r => { r with at_ := [.reg 0 16] })).reqs).any (fun r => decide (r.at_ = [.reg 0 16]) &&
       (tget 0 (copying id).cmds).isSome) &&
     (windowTarget (flying .feget (.asleep 9) id) 0 0 16).isSome && (windowTarget (flying .feget (.asleep 9) id) 0 0 0).isNone &&
     (tget 7 (flying (.store 4 (dat 5)) (.reply 7) id).reqs).any (fun r => !r.performed) &&
     (tget 7 (flying (.ahead 1 (strmAt (mkStrm 0 2 0 Fmt.n32.code false 0 false 0) 0) 32 []) .stream id).reqs).isSome &&
     (getT (base [(1, words 0 2 0 false)]) 0).any (fun t => decide ((t.rd 1).kind = .strm) &&
       decide (strmAt (t.rd 1).bits 0 = strmAt (mkStrm 0 2 0 Fmt.n32.code false 0 false 0) 0)) && decide (waitOf (base []) 0 = none)) = true := by decide +kernel

theorem test_far_load_of_a_poisoned_word_faults : faults (.accessPerformed 7) (poisonedFlight (.load 4) (.reply 7)) .softErr 0x60000 = true := by decide +kernel

/-! ### Barriers -/

theorem witness_BarrierSetupAndArrival_quiet : (!parkedOn (barred [] id) 0 0 0 && quietAt 0 (barred [] id) 0 && (barred [] (fun b => { b with err := some (.barOverrun, 3) })).owners.all
    (fun o => o.2.isPop)) = true := by decide +kernel

/-- Two cores of one population, barrier 0 of scope 1 with its home on core 0, and the thread issuing on core 16 or 0. -/
def twoCores (b : Barrier) : State :=
  setP (setBar (base []) 0 0 0 { b with scope := 1 }) ⟨0, 1, 0, 1, [{ Barrier.reset with scope := 1 }], 1, 0, 0⟩

theorem witness_BarrierWaits_clauses :
    ((getBar (barred [] (fun b => { b with err := some (.barTimeout, 0) })) 0 0 0).any (fun b => b.err.isSome) &&
     finds (baseT [] (fun t => { t with arrived := true })) [1] [] (fun _ t _ => t.arrived) &&
     finds (base []) [1] [] (fun _ t _ => !t.arrived) && quietAt 0 (base []) 0 &&
     !quietAt 0 { barred [] id with reqs := (flight (.store 4 (dat 0)) (.reply 7) false).reqs.map (fun r => (r.1, { r.2 with relaxed := true })) } 0 &&
     (getBar (barred [] (fun b => { b with arrived := 1 })) 0 0 0).any (fun b => decide (b.arrived = b.count)) &&
     decide (barHome (twoCores Barrier.reset) 0 1 0 = 0) && decide (homeCore (twoCores Barrier.reset) 0 1 1 ≠ 1)) = true := by decide +kernel

/-- The population's thread 16, on core 1, waits in the phase. -/
def waitingFar (w : Wait) : State :=
  let s := twoCores { Barrier.reset with arrived := 1 }
  match getT s 0 with
  | none => s
  | some t => { s with threads := s.threads ++ [(16, { t with status := .parked w })] }

theorem witness_BarrierWaits_completion :
    (decide (waitersOn (setBar (parkedIn (.phaseFirst 0 0)) 0 0 0 { Barrier.reset with arrived := 1 }) 0 0 0 = [0]) &&
     (getT (parkedIn (.phase 0 0)) 0).any (fun v => decide ((barDest v).val < v.g.length)) &&
     decide (1 ∈ placedCores (waitingFar (.phase 0 0)) 0) && decide (barHome (waitingFar (.phase 0 0)) 0 1 0 = 0) &&
     !(waitersOn (waitingFar (.phase 0 0)) 0 1 0).isEmpty && (getBar (waitingFar (.phase 0 0)) 0 0 0).any (fun b => b.err.isNone && b.arrived == b.count && b.delivered == b.expect) &&
     (getBar (barred [] (fun b => { b with arrived := 1, cstat := [(0, placeRun (.ls 0 0) 80)] })) 0 0 0).any (fun b => !b.cstat.isEmpty && b.arrived == b.count)) = true := by
  decide +kernel

theorem witness_BarrierTraffic_clauses :
    (decide (firstFwd (forwarded (.arrive 0) (.home 0)) 0 = 0) &&
     [FwdOp.arriveWait 0 none, .wait 0 none none, .bexp 5, .credit 4 0, .answerFault 0 .barOverrun 3, .answerPhase 0 3, .notice 0].all (fun op =>
       (tget 0 (forwarded op (.home 0)).fwds).any (fun f => decide (firstFwd (forwarded op (.home 0)) 0 = 0) && !f.held && decide (f.due ≤ 0))) &&
     (getBar (setBar (forwarded (.wait 0 none none) (.home 0)) 0 0 0 { Barrier.reset with err := some (.barTimeout, 0) }) 0 0 0).any (fun b => b.err.isSome) &&
     (getBar (setBar (forwarded (.credit 4 0) (.home 0)) 0 0 0 { Barrier.reset with expect := 4 }) 0 0 0).any (fun b => decide (b.delivered + 4 ≤ b.expect)) &&
     decide (Barrier.reset.expect ≤ Barrier.reset.delivered) && decide (0 ∈ placedCores (parkedIn (.phase 0 0)) 0) && decide (barHome (parkedIn (.phase 0 0)) 0 0 0 = 0) &&
     decide (waitersOn (setBar (parkedIn (.phase 0 0)) 0 0 0 Barrier.reset) 0 0 0 = [0]) && quietAt 1 (parkedIn (.relaxedDone 1)) 0 &&
     decide (waitOf (parkedIn (.phaseFirst 0 0)) 0 = some (.phaseFirst 0 0)) &&
     (getT (parkedIn (.cstat 0 0)) 0).any (fun v => decide (v.owner = 0) && v.status == .parked (.cstat 0 0))) = true := by decide +kernel

/-! ### Messages, reductions, fences -/

theorem witness_MessagesAndPorts_offers :
    (let s := { message false .port none 0 with cycle := 12 }
     let here := { s with msgs := s.msgs.map (fun p => if atInbox s 0 p.2 then (p.1, { p.2 with heldBack := true }) else p) }
     (heldFor here 0).length == 1 && (tget 0 here.msgs).any (fun x => x.heldBack) && (tget 0 s.msgs).any (fun m => m.answer.isNone) &&
     (getT s 0).any (fun v => decide (3 < v.g.length)) && (heldFor { s with msgs := [] } 0).isEmpty) = true := by decide +kernel

/-- A reduction of one core and its owner, thread 0, that has one of two threads' values. -/
def desc2 : GReg := dat (2 ^ 40)

theorem witness_ReductionsAndFences_reductions :
    (finds (base [(2, dat 7), (3, desc0)]) [1, 2, 3] [2, 3] (fun i t _ => let x := low t 3
       decide (i.tid = descOcore x * 16 + descOslot x) && decide (descKm1 x = 0) && (redFor (base []) t.owner .sumI32 x 0).isNone &&
         decide ((t.rd 1).kind ≠ .coc)) &&
     (let s := { parkedIn (.root 4) with reds := [(4, ⟨0, 0, .sumI32, 0, [], [(0, 5, 0)], [], Counts.zero, 1⟩)], cycle := 40 }
      decide (duePackets s = [(0, 0, 4)]) && (tget 4 s.reds).any (fun r => routersTake s 4 r 0 && decide (r.arrived.length + 1 = (redCores r).length) && decide (r.dest < 32))) &&
     (tget 7 (flight (.store 4 (dat 0)) (.reply 7) false).reqs).any (fun r => awaited 0 { r with relaxed := true } && !completeAt 1 r)) = true := by decide +kernel

theorem witness_ReductionsAndFences_gathering :
    (let s := { base [(2, dat 7), (3, desc0)] with reds := [(4, ⟨0, 0, .sumI32, 0, [(0, 5, 1)], [], [], Counts.zero, 0⟩)] }
     finds s [1, 2, 3] [2, 3] (fun _ t _ => let x := low t 3
       (gatheringOn s 0 (descName x)).any (fun r => decide (r.2.op = .sumI32) && decide (r.2.desc = x)))) = true := by decide +kernel

/-! ### Matrix, tensors, cocoons -/

theorem witness_MatrixCompletion_additions :
    (let add := Instr.mdraina drain0 ⟨false, false, 0, 0, 0⟩ 5
     let conf := arrayRuns add (fun c => { c with phase := .confirming, a := dat 0 })
     (tget 0 conf.cmds).any (fun c => !answerWaits conf 0 0 (peerOf c.a) 0 && (tileOf conf (peerOf c.a) 0).owner.isSome) &&
     answerWaits (setO conf 0 { bareOwner with record_ := some ⟨false, false, false, 0, 0, 0, [], [], [], none, none, [], [], [], 0, 0, 0, 0⟩ }) 0 0 0 0 &&
     (tget 0 (arrayRuns add (fun c => { c with phase := .adding })).cmds).any (fun c => c.adds.isNone && c.err.isNone && c.phase == .adding) &&
     (tget 0 (arrayRuns add (fun c => { c with adds := some 3 })).cmds).any (fun c => c.adds == some 3 && c.phase == .running)) = true := by decide +kernel

theorem witness_LineageEvents_free : (getC (linState []) 0).any (fun c => !descPoisoned (linState []) 0 c 2 && !splicePoisoned (linState []) 0 c (freeSplice c 2) &&
    (tget 2 c.nodes).any (fun n => n.state != .retired && n.state != .dead && (linFree c false 2 n).toBool)) = true := by decide +kernel

/-- An operation at the table with its time come. -/
def tableDue (op : Instr) (a b : GReg) (x y : Nat) (f : State → State) : State :=
  f { parkedIn (.cocoon 0) with cocs := [(0, ⟨0, op, a, b, x, y, some 0⟩)] }

theorem witness_Cocoons_service :
    (let s := tableDue (.csplit false 4 2 3) (handle0 14) (dat 2) 1 2 withHandle
     decide (waitOf s 0 = some (.cocoon 0)) && s.owners.all (fun k => k.2.phase != .ending) && quiet s 0 && (getT s 0).any (fun v => v.popDue.isNone) &&
     (let n := ceilDiv (bits shape0 0 16 * ceilDiv (bits shape0 16 16 * codeWidth (bits shape0 32 4)) 1024) 16
      (getO s 0).any (fun w => decide (ownerGranules s 0 + n ≤ 2 * w.units)) && (freeHlt s 0 0).isSome && (findGranules s 0 n).isSome &&
      (findGranules { s with cocoonUnits := 0 } 0 n).isNone && (getO (setO s 0 { bareOwner with units := 0 }) 0).any (fun w => decide (2 * w.units < 0 + n))) &&
     decide (splitOf (splitHandles (base [])) 0 1 2 = some 0) && (getT (base [(2, handle0 14)]) 0).any (fun v => decide ((v.rd 2).kind = .coc))) = true := by decide +kernel

theorem tget_of_range {α : Type} (e : α) : ∀ n m j, m ≤ j → j < m + n → tget j ((List.range' m n).map (fun k => (k, e))) = some e
  | 0, m, j, h1, h2 => absurd h2 (by omega)
  | n + 1, m, j, h1, h2 => by
    by_cases h : m = j
    · simp [List.range'_succ, tget, h]
    · simp [List.range'_succ, tget, h, tget_of_range e n (m + 1) j (by omega) (by omega)]

/-- Cluster 0's table with no entry free. -/
def fullTable : State :=
  { base [] with clusters := [(0, { ClusterSt.reset with hlt := (List.range' 0 1024).map (fun k => (k, { HltEntry.reset with state := .leaf })) })] }

theorem witness_Cocoons_full_table : freeHlt fullTable 0 0 = none := by
  refine List.find?_eq_none.2 fun j hj => ?_
  have h : hltEntry fullTable 0 j = { HltEntry.reset with state := .leaf } := by
    have hc : (clusterSt fullTable 0).hlt = (List.range' 0 1024).map (fun k => (k, { HltEntry.reset with state := .leaf })) := by
      simp [fullTable, clusterSt, tget]
    rw [hltEntry, hc, tget_of_range _ 1024 0 j (Nat.zero_le j) (by simpa using List.mem_range.1 (List.mem_of_mem_drop hj))]
    rfl
  rw [h]
  decide

theorem witness_Selections_clean : (tget 0 (selecting (.hsel false hsel0 4 2 3)).cmds).any (fun c => c.run.any (fun r => !r.poisoned)) = true := by decide +kernel
/-! ### Tasks, faults, translation -/

/-- Context 0 with room for no more records. -/
def fullCtx : Ctx := { taskCtx with later := 65536 }

theorem witness_TaskInstructions_no_room : finds (setC (base [(2, store0 0), (3, dat 1)]) 0 fullCtx) [2, 3] [2, 3] (fun i t _ =>
    let s := setC (base []) 0 fullCtx
    (capCheck (t.rd 2).bits Need.rd 0 32).toBool && (match capRun s (i.tid / 16) 0 (t.rd 2).bits false Need.rd (runFuel 32) 0 32 with
      | .ok ps => ps.all ownMemory && decide (poisoned s ps = none) && (readRecords s ps 1).all (recValid fullCtx)
      | .error _ => false) && decide (65536 < pendingRecords s 0 + 1) && quiet s i.tid) = true := by decide +kernel

/-- A TSUB that waits for room with the record it has read. -/
def unsentTsub (c : Ctx) : State := { setC (parkedIn .recordRoom) 0 c with gates := [(0, ⟨0, 0, 0, .tsub 1 2, 0, 0, [0], false, 0, none, false⟩)] }

theorem witness_GateOperations_unsent :
    ([unsentTsub fullCtx, unsentTsub taskCtx].all (fun s => (tget 0 s.gates).any (fun o => !o.sent && decide (waitOf s o.tid = some .recordRoom))) &&
     decide (65536 < pendingRecords (unsentTsub fullCtx) 0 + 1) && decide (pendingRecords (unsentTsub taskCtx) 0 + 1 ≤ 65536)) = true := by decide +kernel

theorem test_tsub_that_finds_room_goes_on : gives (.gateApply 0) (unsentTsub taskCtx) (fun u => decide (waitOf u 0 = some (.gate 0)) &&
    (tget 0 u.gates).any (fun o => o.sent)) = true := by decide +kernel

theorem witness_GateOperations_cases :
    ((getT (retirePast (preempting (.parked (.gate 0)) false) 0) 0).any (fun v => v.preempt) && (getT (retirePast (parkedIn (.gate 0)) 0) 0).any (fun v => !v.preempt) &&
     (tget 0 (atGate (.tsubAt 1 2 50) 1 0 [0] true (.gate 0)).gates).any (fun o => decide (o.pkt = none) && decide (o.g = 1)) &&
     (tget 0 { parkedIn (.gate 0) with gates := [(0, ⟨0, 0, 0, .tsubAt 1 2 50, 0, 0, [0], true, 0, some 4, true⟩)] }.gates).any (fun o => o.pkt == some 4)) = true := by
  decide +kernel

theorem witness_SignalUpdates_armed :
    (let c : Ctx := { taskCtx with signals := [(4, signal0 true)] }
     let s := { setC (base []) 0 c with mem := memPut 0x1000 5 (base []).mem }
     decide (sigEntry s 0 4 = some (signal0 true)) && sigArmed (signal0 true) && sigCond (signal0 true) && decide (sigTarget (signal0 true) ≤ counterOf s (signal0 true)) &&
     decide (sigNdesc (signal0 true) = 0) && decide (((tget (sigVec (signal0 true) * 16 + 12) s.dev.msix).getD 0).toNat % 2 = 0) && decide (sigVec (signal0 true) < 2048)) = true := by
  decide +kernel

theorem witness_FaultsAreTakenAndReplayed_registers : (getT (faulted .bounds .running bareCtx) 0).any (fun t =>
    (tget 0 (faulted .bounds .running bareCtx).faults).any (fun f => t.owner == f.owner && f.tid == 0)) = true := by decide +kernel

theorem test_unresolved_fault_writes_flt : (getT (writeFlt (faulted .bounds .running bareCtx) ⟨0, 0, 0, .bounds, 0x5000, 8, 0⟩) 0).any (fun t =>
    t.fltAddr == 0x5000 && t.fltPc == 8 && t.fltCause == BitVec.ofNat 8 Cause.bounds.code) = true := by decide +kernel

/-- A selection running in cluster 0's engine. -/
def hawkBusy : State :=
  let s := selecting (.hsel false hsel0 4 2 3)
  let c := clusterSt s 0
  setCluster s 0 { c with engines := setNth ⟨some 0, [], [], 0⟩ 5 c.engines, held := some ⟨0, 0, 4, 5, false⟩ }

theorem witness_FaultDecisionsAndWalks_hawk : (decide ((engOf hawkBusy 5).exec = some 0) && (tget 0 hawkBusy.cmds).any (fun c => c.run.isSome) &&
    (clusterSt hawkBusy 0).held.isSome) = true := by decide +kernel

theorem test_soft_error_of_a_held_result : gives (.softErr (.hawk 0 true)) hawkBusy (fun u => (clusterSt u 0).held.any (fun h => h.poisoned)) = true := by decide +kernel

/-- Thread 0 waits for a walk of the page of 0x5000. -/
def walking (s : State) : State :=
  setCluster s 0 { clusterSt s 0 with misses := [⟨0, 0x5000, 0, 0, true⟩] }

theorem witness_FaultDecisionsAndWalks_walks :
    (let s := walking (parkedIn (.walk 0x5004))
     (clusterSt s 0).misses.any (fun m => m.ctx == 0 && m.va == 0x5000 && m.walking) && decide (walkPoison s 0 0x5000 = none) &&
     decide ((pageWalk s 0 0x5000).leaf = none) && (walkPoison { s with poison := [0x200000] } 0 0x5000).isSome && s.cmds.all (fun e => e.2.phase != .faulted) &&
     (getT s 0).any (fun t => t.status == .parked (.walk 0x5004) && pageOf 0x5004 == 0x5000) && risingFrom 0 s.threads &&
     decide (((clusterSt s 0).misses.filter Miss.walking).length < 4)) = true := by decide +kernel

/-- A change of a page that waits for an access to it, and one whose accesses have been performed. -/
def changing (performed : Bool) : State :=
  let s := flight (.load 4) (.reply 7) performed
  { s with dev := { s.dev with changes := [⟨0, 0x5000, 0, [], [7], [], []⟩] } }

theorem witness_FaultDecisionsAndWalks_changes :
    ((changing false).dev.changes.any (fun c => c.reqs.any (fun id => (tget id (changing false).reqs).any (fun r => !r.performed))) &&
     (changing true).dev.changes.all (fun c => c.reqs.all (fun id => (tget id (changing true).reqs).all (fun r => r.performed))) &&
     ((settleChanges (changing true)).dev.changed == [(0, 0x5000)]) && (settleChanges (changing false)).dev.changes.length == 1) = true := by decide +kernel

/-! ### Dispatch, ends, saves -/

theorem witness_DispatchAndPools_decision :
    (let cs := (candsOf readied 0).filter (fun c => decide (c.ready.since < readied.cycle))
     let can := cs.filter (fun c => !(takers readied c 0).isEmpty)
     let top := (can.map Cand.prio).foldl Nat.max 0
     readied.dev.activation.isNone && (best can).any (fun c => (chooseCore readied (takers readied c 0)).isSome) &&
       (best (cs.filter (fun u => (can.isEmpty || decide (top < u.prio)) && unplaceable readied u))).isNone) = true := by decide +kernel

theorem witness_DispatchAndPools_assignment : (let s := { State.reset with dev := { Device.reset with ready := true } }
    s.dev.ready && s.pools.isEmpty && s.owners.isEmpty && s.ready.isEmpty && !({ s with pools := [(5, 1)] }.pools.isEmpty)) = true := by decide +kernel

theorem witness_PlacementsLaunchThreads_clean : ((base []).poison.isEmpty && (getO (base []) 0).any (fun o => o.imageLen == 0)) = true := by decide +kernel

theorem witness_TasksEnd_waits :
    (let s := { threadless { bareOwner with isPop := false } with reqs := (flight (.store 4 (dat 0)) (.reply 7) false).reqs }
     (liveThreads s 0).isEmpty && !ownerBusy s 0 none && endWaits s 0) = true := by decide +kernel

theorem witness_PreemptedTasksAreSaved_clauses :
    (let rec_ : SaveRec := ⟨false, false, false, 0, 0, 0, [], [], [], none, none, [], [], [], 0, 0, 0, 0⟩
     let s := threadless { bareOwner with isPop := false, phase := .saving, requested := some 0, record_ := some rec_ }
     (getO s 0).any (fun o => o.record_.isSome && o.phase == .saving) &&
     (placeOf allSaved 0).any (fun p => (savePoison { allSaved with poison := [onchipBase] } 0 p).isSome && !saveWaits allSaved 0 p) &&
     (let r := setCluster (baseT [] (fun t => { t with status := .launching })) 0 { clusterSt (base []) 0 with restoring := [⟨0, 0, 4, 5, false⟩] }
      (clusterSt r 0).restoring == [⟨0, 0, 4, 5, false⟩] && (clusterSt r 0).held.isNone && (getT r 0).any (fun t => t.status == .launching && t.owner == 0) &&
        (getP r 0 0).any (fun p => p.ready == 0) && r.cmds.all (fun c => c.2.phase != .stopped))) = true := by decide +kernel

/-! ### Packets, the host, Gondola -/

theorem witness_QueuesAndPackets_fetched :
    ((tget 0 { mapped (packet 0 .fetching) with poison := [0] }.pkts).any (fun p => (virtPoison { mapped (packet 0 .fetching) with poison := [0] } p.ctx p.va 64).isSome) &&
     decide (virtPoison (packet 0 .fetching) 0 0 64 = none) && (tget 0 (packet 7 .begun).pkts).any (fun p => p.phase == .begun)) = true := by decide +kernel

theorem witness_PacketResults_failures :
    ((frontRead (packet 2 .begun) 0 0 32).isNone && (queueOf (packet 2 .begun) 0 2).isSome && (getC (packet 2 .begun) 0).any (fun c => decide (c.status.length < c.statusCap)) &&
     decide (mapRange (packet 5 .begun) 0 0 true (pagesOf 0 8) = none) && (mapRange (mapped (packet 5 .begun)) 0 0 true (pagesOf 0 8)).isSome &&
     (begunPkt (packet (2 + 2 ^ 192) .begun) 0 2).any (fun p => decide (65536 < pendingRecords (setC (packet (2 + 2 ^ 192) .begun) 0 fullCtx) p.ctx + pktField p 24 4)) &&
     (frontRead (packet (6 + (2 ^ 63) * 2 ^ 192 + 2 ^ 256) .begun) 0 0 1).isNone) = true := by decide +kernel

/-- A module whose image runs and which has joined no domain yet. -/
def joining : State := { running with dev := { running.dev with ready := false } }

theorem witness_BringUpAndDomains_join : (!joining.dev.ready && joining.dev.running.isSome && joining.dev.ports.any Port.up && decide (joining.dev.domain = none) &&
    decide (joining.time ≤ 7)) = true := by decide +kernel

theorem test_domain_join_steps_time : gives (.domainJoin 3 7) joining (fun u => u.dev.ready && u.time == 7 && u.dev.domain == some 3) = true := by decide +kernel

theorem witness_MailboxesAndPorts_bars :
    (decide (barByte 0 0x50000 = none) && decide (barByte 0 0xC1000 = some (.mailbox 0)) && (queueOf (queued 1 0 0 []) 0 2).isSome && (queued 1 0 0 []).dev.ready &&
     !(State.reset.dev.ready) && Memory.wf running.mem && physExists 0x1000 && !mailboxFull running 7 &&
     mailboxFull { running with dev := { running.dev with mailboxes := List.replicate 8 (List.replicate 32 (List.replicate 64 0)) } } 7) = true := by decide +kernel

theorem witness_MailboxesAndPorts_flits :
    (let bad : Flit := ⟨1, 0, false, 0, .time 5⟩
     let up := { running with dev := { running.dev with ports := List.replicate 18 ⟨true, 0, 16, 0, [(0, ⟨1, .time 0⟩)]⟩ } }
     !bad.crcOk && decide ((portOf running 0).replays < 16) && decide (16 ≤ (portOf up 0).replays) && bodyFits (.time 5) && decide ((portOf running 0).next = 0) &&
     !bodyFits (.write 0 0 0 (List.replicate 300 0)) && admits (setC running 0 { bareCtx with exported := [(0x1000, 64)] }) 0 0x1000 8 && !admits running 0 0x1000 8 &&
     decide (poisonIn running 0x1000 8 = none) && (List.range 18).all (fun q => !(portOf State.reset q).up) && decide (State.reset.dev.ports.length = 18)) = true := by decide +kernel

theorem test_bar_reads_zero_until_ready : gives (.barWrite (some 0) 0 (.read 4)) State.reset (fun u => u.dev.completions == [[0, 0, 0, 0]]) = true := by decide +kernel

theorem test_host_fetch_add : gives (.barWrite none 0x1000 (.fetchAdd 7)) running (fun u => decide (memGet 0x1000 u.mem = 7) &&
    u.dev.completions == [[0, 0, 0, 0, 0, 0, 0, 0]]) = true := by decide +kernel

theorem witness_ContextsRootsAndImages_roots :
    (capOnchip (mintedRoot (mkCap 0 4096 0 0xFF 0)) && !capOnchip (mintedRoot (mkCap 0x40000000000 4096 0 0xFF 0)) &&
     (getC (queued 1 0 0 []) 0).isSome) = true := by decide +kernel
/-! ### What lineage operations do -/

/-- Nodes that store no line resolve to zeros. -/
theorem resolves_to_zero (ns : List (Nat × Node)) (h : ∀ k n, tget k ns = some n → n.lines = []) :
    ∀ f m l, (resolveLine ns f m l).1 = zeroLine
  | 0, _, _ => rfl
  | f + 1, m, l => by
    simp only [resolveLine]
    cases hn : tget m ns with
    | none => rfl
    | some n =>
      simp only [lineOf, h m n hn, List.find?_nil]
      split
      · rfl
      · exact resolves_to_zero ns h f n.parent l

theorem lines_of_ctxNodes (k : Nat) (n : Node) (h : tget k (ctxNodes 6).nodes = some n) : n.lines = [] := by
  simp only [ctxNodes, tget] at h
  split at h
  · cases h; rfl
  · split at h
    · cases h; rfl
    · cases h

theorem witness_LineageResults_words (m l : Nat) :
    (resolve (ctxNodes 6) m l).1.length = 32 ∧ ∀ w ∈ (resolve (ctxNodes 6) m l).1, w < 2 ^ 32 := by
  have h := resolves_to_zero (ctxNodes 6).nodes lines_of_ctxNodes chainFuel m l
  rw [resolve, h]
  decide

/-- An operation at Chrysalis on a context. -/
def linDo (op : Instr) (a b d : GReg) (at_ : List Place) (c : Ctx) : Except (Cause × Nat) LinDone :=
  linPerform (setC (parkedIn (.lineage 0)) 0 c) ⟨0, 0, op, a, b, d, 0, false, [], at_, [], none⟩ c

/-- Context 0 with sectors, and a node 3 under 2. -/
def threeNodes : Ctx :=
  { ctxNodes 6 with
    nodes := [(1, { node0 6 with children := 1, state := .frozen }), (2, { node0 6 with depth := 1, parent := 1, children := 1, state := .frozen }),
      (3, { node0 6 with depth := 2, parent := 2 })], nextTid := 4, pool := 100 }

def chained (c : Ctx) (m : Nat) : Bool := m != 0 && !(ancestors c.nodes chainFuel m).contains m && decide ((ancestors c.nodes chainFuel m).length < 32)

theorem witness_LineageResults :
    ((getC (setC (parkedIn (.lineage 0)) 0 (ctxNodes 6)) 0).isSome && decide (freeTid (ctxNodes 6) = some 3) &&
     decide (freeTid { ctxNodes 6 with nextTid := 2 ^ 20 } = none) && chained (ctxNodes 6) 2 && chained threeNodes 3 && chained threeNodes 1 &&
     (tget 2 (ctxNodes 6).nodes).any (fun n => n.state == .live && n.parent == 1 && decide (n.rows < 2 ^ 24) && decide (n.depth + 1 ≤ n.maxd)) &&
     (removalSplice (ctxNodes 6) 2).isNone && (removalSplice threeNodes 3).isNone && (ancestors threeNodes.nodes chainFuel 3).contains 1 &&
     !(ancestors threeNodes.nodes chainFuel 1).contains 3 && decide (growth threeNodes (reencode threeNodes 3 1) ≤ threeNodes.pool) &&
     decide (childrenOf (ctxNodes 6) 2 = []) && decide (freeSplice (ctxNodes 6) 2 = none) && decide (childrenOf (ctxNodes 6) 1 = [2]) &&
     (tget 0 (ctxNodes 6).nodes).isNone &&
     decide ((childrenOf { ctxNodes 6 with nodes := (ctxNodes 6).nodes ++ [(3, { node0 6 with parent := 1 })] } 1).length = 2) &&
     decide (tensColn (view 2).bits * codeWidth 6 / 8 = 64) &&
     (placeRun (.ls 0 0) 256).all (reaches (setC (parkedIn (.lineage 0)) 0 (ctxNodes 6)) 0) && decide ((placeRun (.ls 0 0) 256).length = 4 * 64) &&
     ((linFork { ctxNodes 6 with nodes := [(2, { node0 6 with maxd := 0 })] } false false 2 { node0 6 with maxd := 0 }).toOption.any (fun r => r.code == 0))) = true := by
  decide +kernel

/-- A word stored in a child is read back, and its parent keeps its zeros. -/
theorem test_tst_then_tld :
    (match linDo (.tst false .w 5 1 2 0 0) (view 3) (dat 64) (dat 0x1234) [] threeNodes with
     | .ok x => (getC x.st 0).any (fun c =>
         (match linDo (.tld .w 5 1 2 0) (view 3) (dat 64) GReg.zero [] c, linDo (.tld .w 5 1 2 0) (view 2) (dat 64) GReg.zero [] c with
          | .ok y, .ok z => y.out == [(5, dat 0x1234)] && z.out == [(5, dat 0)]
          | _, _ => false) && c.pool == 97)
     | .error _ => false) = true := by decide +kernel

/-- 15 R255: without a sector free the store answers status 1, or faults POOL. -/
theorem test_tst_without_a_sector :
    (match linDo (.tst true .w 5 1 2 6 0) (view 2) (dat 0) (dat 1) [] (ctxNodes 6), linDo (.tst false .w 5 1 2 6 0) (view 2) (dat 0) (dat 1) [] (ctxNodes 6) with
     | .ok x, .error e => x.out == [(6, dat 1)] && e == (.pool, 2)
     | _, _ => false) = true := by decide +kernel

/-- 15 R253: a flattened node is a root of depth 0; a rebased one hangs from the ancestor it named. -/
theorem test_flat_and_rebase :
    (match linDo (.flat false 1 0) (view 3) GReg.zero GReg.zero [] threeNodes, linDo (.rebase false 1 2 0) (view 3) (dat 1) GReg.zero [] threeNodes with
     | .ok x, .ok y => (getC x.st 0).any (fun c => (tget 3 c.nodes).any (fun n => n.parent == 0 && n.depth == 0)) &&
         (getC y.st 0).any (fun c => (tget 3 c.nodes).any (fun n => n.parent == 1 && n.depth == 1) && (tget 1 c.nodes).any (fun n => n.children == 2))
     | _, _ => false) = true := by decide +kernel

/-- 15 R254: the node with one child is spliced out, and the child takes its place. -/
theorem test_tfree_splices : (match linDo (.tfree false 1 0) (view 2) GReg.zero GReg.zero [] threeNodes with
    | .ok x => (getC x.st 0).any (fun c => (tget 3 c.nodes).any (fun n => n.parent == 1 && n.depth == 1) && (tget 2 c.nodes).any (fun n => n.state == .dead))
    | .error _ => false) = true := by decide +kernel

/-- 15 R259: FMT 6, ROWS 4 and COLS 64 in their places; TID and PARENT in the first quarter. -/
theorem test_tinfo_fields :
    (match linDo (.tinfo 0 5 1) (view 2) GReg.zero GReg.zero [] (ctxNodes 6), linDo (.tinfo 1 5 1) (view 2) GReg.zero GReg.zero [] (ctxNodes 6) with
     | .ok x, .ok y => x.out == [(5, dat (2 + 2 ^ 20 + 2 ^ 40 + 4 * 2 ^ 44 + 6 * 2 ^ 52 + 2 ^ 96))] && y.out == [(5, dat (4 + 64 * 2 ^ 24 + 2 ^ 48))]
     | _, _ => false) = true := by decide +kernel

theorem witness_LineageEvents_pins :
    ((tget 0 (linAt .nop (view 2) true [(0, view 2), (1, dat 5)] none).lins).any (fun o => decide (o.out = [((0 : Reg), view 2), ((1 : Reg), dat 5)].map (fun e => (e.1.val, e.2)))) &&
     decide (waitOf { linAt .nop (view 2) true [(1, view 2)] none with threads := [] } 0 ≠ some (.lineage 0)) &&
     (tget 2 (ctxNodes 6).nodes).any (fun n => n.state != .dead && n.pins != 0) &&
     (tget 2 { ctxNodes 6 with nodes := [(2, { node0 6 with state := .dead })] }.nodes).any (fun n => n.state == .dead && n.pins == 1 && n.parent == 0)) = true := by
  decide +kernel

/-! ### Clauses of the widened statements -/

/-- A flight to a place that another context has: core 1, unit 0, is owner 1's. -/
def foreignFlight : State :=
  let s := flight (.load 4) (.reply 7) false
  setO { s with places := s.places ++ [(placeKeyOf 1 1, ⟨1, 1, 0, 1, [], 1, 0, 0⟩)] } 1 { bareOwner with ctx := 1 }

/-- Word 0 of core 0's store is EMPTY, and a load that wants it FULL is parked there. -/
def waitingWord : State :=
  let s := parkedIn (.fullEmpty 7)
  { s with empties := [onchipBase], reqs := [(7, ⟨0, .lds, placeRun (.ls 0 0) 4, 0, false, 0, 40, 1, none, false, GReg.zero, Counts.zero, 0, 20, true, none, false, [], 0⟩)] }

theorem witness_AccessesAreCarriedOut_denied : (tget 7 foreignFlight.reqs).any (fun r => !r.performed && !reqReaches foreignFlight r &&
    reqReaches (flight (.load 4) (.reply 7) false) r) = true := by decide +kernel

/-- 17 R267, R272: an access in flight through a handle reaches the cocoon region, one without does not. -/
theorem test_access_through_a_handle_reaches_its_tile :
    (let s := flight (.load 4) (.reply 7) false
     (tget 7 s.reqs).any (fun r => (accFault s { r with at_ := placeRun (.ls 0 0x5F000) 4, handle := some (0, 1) }).isNone &&
       (accFault s { r with at_ := placeRun (.ls 0 0x5F000) 4, handle := none }).any (fun f => f.1 == .perm))) = true := by decide +kernel

theorem test_access_to_another_context_is_perm : faults (.accessPerformed 7) foreignFlight .perm 0x60000 = true := by decide +kernel

theorem witness_AccessesAreCarriedOut_served :
    (let e := applyAcc waitingWord ⟨0, 0, 0, 0, 0, 0⟩ (.store 4 (dat 9)) (placeRun (.ls 0 0) 4)
     let key := placeKey (.ls 0 0)
     decide (key % 4 = 0) && decide (wordState waitingWord key ≠ wordState e.1 key) && decide (waitingWord.reqs = e.1.reqs) && risingFrom 0 waitingWord.reqs &&
     (feParked e.1 key).all (fun q => decide (accFault e.1 q.2 = none) && feReady e.1 q.2.op q.2.at_) && (feParked e.1 key).length == 1) = true := by decide +kernel

/-- 06 R110: the store serves the parked load. -/
theorem test_store_serves_the_parked_load :
    (tget 7 (perform waitingWord ⟨0, 0, 0, 0, 0, 0⟩ (.store 4 (dat 9)) (placeRun (.ls 0 0) 4)).1.reqs).any (fun r => r.performed && r.result == dat 9) = true := by
  decide +kernel

theorem witness_ThreadsStartEndAndTrap_spawn :
    (let s := setP (base [(2, dat 8), (3, dat 1)]) ⟨0, 0, 0, 1, [], 4, 0, 0⟩
     finds s [1, 2, 3] [2, 3] (fun i t _ => decide (liveOn s t.owner (i.tid / 16) < ((getP s t.owner (i.tid / 16)).map Placement.quota).getD 0) &&
       decide (t.nregs / 8 ≤ 48 - ((threadsOn s (i.tid / 16)).map (fun p => p.2.nregs / 8)).sum) && decide (getT s 1 = none) && decide (getT s 0 ≠ none)) &&
     finds (setP s ⟨0, 0, 0, 1, [], 1, 0, 0⟩) [1, 2, 3] [2, 3] (fun _ t _ => decide (1 ≤ liveOn s t.owner 0))) = true := by decide +kernel

/-- Thread 0 between its turns with a collided bundle to retire. -/
def collidedState : State :=
  let l : Late := ⟨[(1, dat 5)], [], List.replicate 8 0, 0, 4, [], []⟩
  { baseT [] (fun t => { t with status := .collided, late := some l }) with cur := none }

theorem witness_StepRunsDecoded_collisions :
    ((firstThread goesOn collidedState.threads).isNone && (firstThread (mayIssue collidedState) collidedState.threads).any (fun p =>
       p.1 == 0 && p.2.status == .collided && p.2.late.isSome) &&
     (getT (base []) 0).any (fun v => v.status == .issuing && v.popDue.isNone) && (base []).cur.any (fun i => lostTurns i == 0) &&
     ({ base [] with cur := some { Issue.begin 0 with banks := [2] } }.cur).any (fun i => decide (0 < lostTurns i))) = true := by decide +kernel

/-- 05 R88: the collided bundle writes its register as it retires. -/
theorem test_collided_bundle_retires : (match step collidedState with
    | .next u => decide (reg u 1 = dat 5) && at_ u 1 && (getT u 0).any (fun t => t.status == .ready && t.late.isNone)
    | _ => false) = true := by decide +kernel

/-! #### Matrix -/

/-- A command at its array's start. -/
def arrayStarts (op : Instr) (f : Cmd → Cmd) : State := arrayRuns op (fun c => f { c with phase := .starting })

theorem witness_MatrixCommandsIssue_claims :
    (let s := setTile (base [(2, dat 1)]) 0 0 Tile.reset
     decide ((tileOf s 0 0).owner = none) && decide (tget s.nextId s.cmds = none) &&
     (let u := afterInstr (.minit ⟨1, 0, 1⟩ 2) s
      let v := { u with cycle := u.cycle + 1 }
      (match (clusterSt v 0).claims with
       | [id] => (tget id v.cmds).any (fun c => decide (c.eng = 4) && decide (c.issued < v.cycle))
       | _ => false) && decide ((clusterSt v 0).tiles.length = 4) && decide ((clusterSt v 0).engines.length = 6))) = true := by decide +kernel

/-- 13 R233: a granted claim owns its tile, and its command is queued. -/
theorem test_claim_of_a_free_tile_is_granted :
    (let s := afterInstr (.minit ⟨1, 0, 1⟩ 2) (base [(2, dat 1)])
     gives (.minitClaimGrant 0) s (fun u => decide ((tileOf u 0 0).owner = some 0) && (clusterSt u 0).claims.isEmpty && (engOf u 4).queue.length == 1)) = true := by
  decide +kernel

theorem witness_Selections_array_starts :
    ((tget 0 (arrayStarts (.mpload ⟨1, 0, 1, false⟩ 2) id).cmds).any (fun c => (tilesNamed c.op).any (fun k => (tileOf (arrayStarts (.mpload ⟨1, 0, 1, false⟩ 2) id) 0 k).owner != some c.owner)) &&
     (tget 0 (arrayStarts (.mpload ⟨0, 0, 1, false⟩ 2) (fun c => { c with a := store0 0 })).cmds).any (fun c =>
       (tilesNamed c.op).all (fun k => (tileOf (arrayStarts (.mpload ⟨0, 0, 1, false⟩ 2) id) 0 k).owner == some c.owner) && c.adds.isNone &&
       (matStart (arrayStarts (.mpload ⟨0, 0, 1, false⟩ 2) id) c).toBool) &&
     (let s := arrayStarts (.mdrain drain0 { mdrain0 with rel := true } 5) id
      let w := setTile s 0 0 { tileOf s 0 0 with confirmed := 1 }
      (tget 0 w.cmds).any (fun c => additionsDue w c && !additionsDue s c && c.err.isNone)) &&
     (tget 0 (arrayStarts (.mdraina drain0 ⟨false, false, 0, 0, 0⟩ 5) id).cmds).any (fun c => (addFields c.op).isSome && c.passed == 0)) = true := by decide +kernel

/-- 13 R229: a command whose tile its task does not own any more ends the task with PERM. -/
theorem test_command_without_its_tile_ends_its_task : gives (.engineAtStart 0) (arrayStarts (.mpload ⟨1, 0, 1, false⟩ 2) id) (fun u =>
    u.owners.any (fun o => o.2.phase == .ending)) = true := by decide +kernel

theorem witness_MatrixElements :
    (Memory.wf (base []).mem && arrayTakes 0 .e2m1 && decide (32 ≤ panelRows .e2m1) && decide ((partition (tiled [] 5) 0 0).1 < 240) && decide (1 ≤ tileDim 0) &&
     decide ([0, 1].Nodup) && (base []).poison.isEmpty &&
     (let v : FVal := .fin false 1 0
      (mulExact v v).any (fun x => match x with
        | .fin _ _ _ => true
        | _ => false)) && decide (dot [.nan] [.nan] (.fin false 0 0) ≠ some (.fin false 1 0)) &&
     decide (mulExact (.inf false) (.fin false 0 0) = none) && decide (mulExact (.inf false) (.fin false 1 0) = some (.inf false))) = true := by decide +kernel

/-- 13 R235, R121: 2 x 3 + 1 = 7 in F32; a NaN input gives the canonical NaN. -/
theorem test_mac_element : (macElem [.fin false 2 0] [.fin false 3 0] 0x3F800000).1 = 0x40E00000 ∧ (macElem [.nan] [.fin false 3 0] 0x3F800000).1 = 0x7FC00000 := by
  decide +kernel

theorem witness_CrossClusterAdditions_answers :
    (let add := Instr.mdraina drain0 ⟨false, false, 0, 0, 0⟩ 5
     (tget 0 (arrayRuns add (fun c => { c with phase := .confirming, a := dat 0 })).cmds).any (fun c => c.adds.isNone && c.passed == 0) &&
     (tget 0 (arrayRuns add (fun c => { c with phase := .queued, passed := 2, a := dat 0 })).cmds).any (fun c => c.phase == .queued && c.passed == 2) &&
     (tget 0 (arrayRuns add (fun c => { c with phase := .adding, passed := 1 })).cmds).any (fun c => c.phase == .adding && c.passed == 1) &&
     (tget 0 (arrayRuns add (fun c => { c with phase := .adding, passed := 4 })).cmds).any (fun c => c.phase == .adding && c.passed == 4 && c.due == 16)) = true := by
  decide +kernel

/-! #### Barriers, the fabric -/

theorem witness_BarrierSetupAndArrival_clauses :
    (finds (baseT [] (fun t => { t with arrivals := [(0, 0)] })) [] [] (fun _ t _ => decide (tget 0 t.arrivals = some Barrier.reset.phase)) &&
     (getBar (barred [] (fun b => { b with err := some (.barTimeout, 0) })) 0 0 0).any (fun b => b.err.isSome) &&
     (let s := { twoCores Barrier.reset with places := [(placeKeyOf 0 1, ⟨0, 1, 0, 1, [{ Barrier.reset with scope := 1 }], 1, 0, 0⟩)] }
      decide (getBar s 0 0 0 = none))) = true := by decide +kernel

theorem witness_BarrierTraffic_owners :
    ((getT (forwarded (.arrive 0) (.home 0)) 0).any (fun v => v.owner == 0) && decide (getT (forwarded (.arrive 1) (.home 0)) 1 = none) &&
     ownerReaches { parkedIn (.cstat 0 0) with cstats := [] } 0 (placeRun (.ls 0 0) 80) && decide (0 ∈ placedCores (parkedIn (.phase 0 0)) 0) &&
     [Wait.walk 8, .port, .overflowPort, .phaseFirst 0 0].all (fun w => decide (waitOf (parkedIn w) 0 = some w))) = true := by decide +kernel

/-- 09 R181: an arrival whose thread has ended since is counted: the barrier of one arrival completes. -/
theorem test_arrival_of_an_ended_thread_counts : gives (.barrierForward 0) (forwarded (.arrive 1) (.home 0)) (fun u =>
    (getBar u 0 0 0).any (fun b => b.phase == 1)) = true := by decide +kernel

theorem witness_ReductionsAndFences_order :
    (let s := { parkedIn (.root 4) with reds := [(4, ⟨0, 0, .sumI32, 0, [], [(0, 5, 0)], [], Counts.zero, 1⟩)], cycle := 40 }
     decide ((s.reds.map Prod.fst).Nodup) && decide (duePackets s = [] ++ (0, 0, 4) :: []) && (tget 4 s.reds).any (fun r => routersTake s 4 r 0)) = true := by decide +kernel

/-- 10 R201, R202: the last fold taken delivers the root. -/
theorem test_last_fold_is_taken : gives (.combinePacket 4) { parkedIn (.root 4) with reds := [(4, ⟨0, 0, .sumI32, 0, [], [(0, 5, 0)], [], Counts.zero, 1⟩)], cycle := 40 }
    (fun u => decide ((40, Instr.credRootDelivery 4) ∈ u.agenda)) = true := by decide +kernel

/-! #### Translations, dispatch, packets, Gondola -/

theorem witness_FaultDecisionsAndWalks_changed :
    ((pageWalk (mapped (base [])) 0 0).leaf.isSome && (getC (mapped (base [])) 0).isSome &&
     (let s := { mapped (flight (.load 4) (.reply 7) false) with reqs := (flight (.load 4) (.reply 7) false).reqs.map (fun r => (r.1, { r.2 with at_ := placeRun (.phys 16) 4 })) }
      gives (.translationChange 0 0 ⟨0, 0⟩ 2) s (fun u => u.dev.changes.any (fun c => c.reqs == [7] && decide ((0, 2 ^ 21) ∈ c.leaves))))) = true := by decide +kernel

theorem witness_DispatchAndPools_here :
    (decide (poolOf readied 0 = 0) && (List.range 384).all (fun k => decide (poolOf { readied with pools := (List.range 384).map (fun c => (c, 1)) } k ≠ 0)) &&
     !readied.assigned && { readied with assigned := true }.assigned) = true := by decide +kernel

theorem test_die_without_the_pool_decides_nothing :
    (let s := { readied with pools := (List.range 384).map (fun c => (c, 1)) }
     gives (.dispatchDecision 0 0) s (fun u => u.ready.length == 1 && u.agenda.length == s.agenda.length)) = true := by decide +kernel

theorem witness_PlacementsLaunchThreads_parked : ((base []).reqs.isEmpty && waitingWord.reqs.all (fun p => !p.2.atWord || p.2.at_.head?.all (fun x =>
    decide (placeKey x < onchipBase + lsAddr 0 4096 ∨ onchipBase + lsAddr 0 4096 + 4096 ≤ placeKey x)))) = true := by decide +kernel

theorem witness_PacketResults_kept :
    (let p := { packet (2 + 2 ^ 192) .begun with pkts := [(0, ⟨0, 2, 0, BitVec.ofNat 512 (2 + 2 ^ 192), .begun, 0, 0, some [0]⟩)] }
     (begunPkt p 0 2).any (fun x => x.records == some [0]) && (begunPkt (packet (2 + 2 ^ 192) .begun) 0 2).any (fun x => x.records.isNone) &&
     (queueOf (packet 2 .begun) 0 2).any (fun v => v.state != 2)) = true := by decide +kernel

/-- 20 R315: a second fault of a queue in ERROR writes no second entry. -/
theorem test_queue_in_error_has_one_entry :
    (let s := queueError (packet 2 .begun) 0 2 0
     (getC s 0).any (fun c => c.status.length == 1) && (getC (queueError s 0 2 64) 0).any (fun c => c.status.length == 1)) = true := by decide +kernel

theorem witness_MailboxesAndPorts_atomics : (decide (0x0 % 8 = 0) && decide ((leNat ((List.range 8).map (fun k => barReads (queued 1 0 5 []) 0 (2 * 0x40 + k)))) % 2 ^ 32 = 5)) = true := by
  decide +kernel

/-- 23 R342: a compare-and-swap on a BAR answers the old bytes. -/
theorem test_bar_atomic_answers : gives (.barWrite (some 0) (2 * 0x40) (.cas 9 7)) (queued 1 0 5 []) (fun u => decide (u.dev.completions.map leNat = [5])) = true := by
  decide +kernel

/-- 03 R51, 23 R352: a failed load reports the address it stopped at in a reply. -/
theorem test_failed_load_is_reported : gives (.imageLoad 0 { bytes := [(0x5000, 1)], relocs := [], types := [], tensors := [], reply := 0x1000 }) (queued 1 0 0 []) (fun u =>
    decide (u.dev.replies = [toBytes 8 0x5000]) && decide (u.dev.loadErrors = [(0, some 0x5000)])) = true := by decide +kernel

/-! ## Words of the spec, decoded

Each word stands in a listing or an example of the spec, or is added up from the base word and the field weights of its encoding table. -/

/-- What a bundle of one instruction decodes to. -/
def one (ws : List Nat) : Option Instr :=
  match decodeBundle ws with
  | some ⟨i, none⟩ => some i
  | _ => none

/-- Listings of 12 and 22. -/
theorem test_decode_integers :
    one [0x0031_4C04] = some (.add 12 10 12) ∧ one [0x00A1_AE04] = some (.sub 14 13 8) ∧ one [0x013D_8C04] = some (.and 12 12 15) ∧
      one [0x01B1_AD04] = some (.or 13 13 12) ∧ one [0x0549_CE04] = some (.min 14 14 18) ∧ one [0x001C_A808] = some (.mul 8 5 7) ∧
      one [0xFFFC_A510] = some (.addi 5 5 (-1)) ∧ one [0x03FC_2114] = some (.andi 1 1 255) ∧ one [0x0080_4720] = some (.shli 7 2 32) ∧
      one [0x01B4_E720] = some (.shri 7 7 45) ∧ one [0x2000_0C28] = some (.li 12 0x10000) ∧
      one [0x0000_072A, 0, 1] = some (.liX 7 0x1_0000_0000) := by decide +kernel

/-- Added up from 05 R91-R95. -/
theorem test_decode_more_integers :
    one [0x0480_0004 + 3 * 0x100 + 4 * 0x2000 + 5 * 0x40000] = some (.rol 3 4 5) ∧
      one [0x0300_0008 + 3 * 0x100 + 4 * 0x2000 + 5 * 0x40000] = some (.remn 3 4 5) ∧
      one [0x0480_0008 + 3 * 0x100 + 4 * 0x2000] = some (.ctz 3 4) ∧
      one [0x0000_000C + 3 * 0x100 + 4 * 0x2000 + 5 * 0x40000 + 6 * 0x800000] = some (.sel 3 4 5 6) ∧
      one [0x0000_001C + 3 * 0x100 + 4 * 0x2000 + 0x3FFF * 0x40000] = some (.xori 3 4 (-1)) ∧
      one [0x0200_0020 + 3 * 0x100 + 4 * 0x2000 + 63 * 0x40000] = some (.srai 3 4 63) := by decide +kernel

/-- Listings of 12, 16 and 22; 02 R39, 04 R65-R73. -/
theorem test_decode_control :
    one [0x02B9_402C] = some (.bCc (.cmp .eq) 10 14 5) ∧ one [0xFAA1_242C] = some (.bCc (.cmp .ltn) 9 8 (-11)) ∧
      one [0x0C09_A130] = some (.biCc .ne 13 2 24) ∧ one [0xF790_A430] = some (.biCc .ltn 5 4 (-17)) ∧ one [0x0000_0434] = some (.j 4) ∧
      one [0x0180_003C] = some .exit ∧ one [0x0281_403C] = some (.sleep 10) ∧ one [0x0300_003E, 0x0740, 0] = some (.ppt 0x0740) ∧
      one [0x0280_057C] = some (.crr 5 5) ∧ one [0x0080_057C] = some (.crr 1 5) ∧ one [0x8080_00E4] = some (.trap 257) ∧
      one [0x0000_003C] = some .nop := by decide +kernel

/-- Added up from 02 R23, R25 and 04 R64-R72. -/
theorem test_decode_more_control :
    one [0x0000_002E + 5 * 0x100 + 4 * 0x2000 + 9 * 0x40000, 0xFFFF_FFFE, 0] = some (.bCcX (.cmp .gen) 4 9 0xFFFF_FFFE) ∧
      one [0x0000_0032 + 3 * 0x100 + 4 * 0x2000, 1000, 7] = some (.biCcX .ge 4 1000 7) ∧
      one [0x0000_0038 + 3 * 0x100 + 0x7FFFF * 0x2000] = some (.jal 3 (-1)) ∧
      one [0x0080_003C + 3 * 0x100 + 4 * 0x2000] = some (.jalr 3 4) ∧
      one [0x0100_003C + 3 * 0x100 + 4 * 0x2000 + 5 * 0x40000] = some (.spawn 3 4 5) ∧ one [0x0200_003C + 4 * 0x2000] = some (.waitt 4) ∧
      one [0x0004_007C + 4 * 0x2000 + 0x010 * 0x800000] = some (.crw 0x010 4) := by decide +kernel

/-- 02 R35: the worked pair; listing of 19; 08: ADDI with a masked B16 sum. -/
theorem test_decode_pairs :
    decodeBundle [0x0000_862D, 0x0018_8580] = some ⟨.bCc .smore 4 0 0, some (.vadd ⟨.f32, 0, 6, 4, 5⟩)⟩ ∧
      decodeBundle [0x0000_003D, 0x4042_3280] = some ⟨.nop, some (.vsub ⟨.f32, 0, 16, 17, 18⟩)⟩ ∧
      decodeBundle [0x0000_003D, 0x000A_3298] = some ⟨.nop, some (.vexp2 ⟨.f32, 0, 17, 18⟩)⟩ ∧
      decodeBundle [0x0005_2911, 0x0998_8580] = some ⟨.addi 9 9 1, some (.vadd ⟨.f16, 3, 6, 4, 5⟩)⟩ := by decide +kernel

/-- Added up from 08 R152. -/
theorem test_decode_vectors :
    decodeBundle [0x3D, 0xC000_0084 + 13 * 0x4000000 + 7 * 0x800000 + 6 * 0x40000 + 5 * 0x2000 + 4 * 0x100] =
        some ⟨.nop, some (.vcx ⟨.n16, 7, 6, 5, 4⟩)⟩ ∧
      decodeBundle [0x3D, 0x8000_0088 + 6 * 0x40000 + 5 * 0x2000 + 4 * 0x100] = some ⟨.nop, some (.vcmp .le ⟨.f32, 0, 6, 5, 4⟩)⟩ ∧
      decodeBundle [0x3D, 0x4000_0094 + 5 * 0x2000 + 4 * 0x100] = some ⟨.nop, some (.vred ⟨.f32, 0, 5, 4⟩)⟩ ∧
      decodeBundle [0x3D, 0x0024_0098 + 4 * 0x4000000 + 5 * 0x2000 + 4 * 0x100] = some ⟨.nop, some (.vcvt ⟨.e5m2, 0, 5, 4⟩)⟩ ∧
      decodeBundle [0x3D, 0x4000_009C + 14 * 0x4000000 + 6 * 0x40000 + 5 * 0x2000 + 4 * 0x100] =
        some ⟨.nop, some (.vscat ⟨.n32, 0, 6, 5, 4⟩)⟩ := by decide +kernel

/-- 05, and listings of 12 and 19. -/
theorem test_decode_kinds :
    one [0x03A8_8960] = some (.cinc 9 4 10) ∧ one [0x022D_2960] = some (.csetb 9 9 11) ∧ one [0x02B1_2960] = some (.csetp 9 9 12) ∧
      one [0x0324_AB60] = some (.csetc 11 5 9) ∧ one [0x0000_6960] = some (.mov 9 3) ∧ one [0x0082_8A60] = some (.move 10 20) ∧
      one [0x0100_0060 + 3 * 0x100 + 4 * 0x2000] = some (.kind 3 4) ∧
      one [0x0180_0060 + 3 * 0x800_0000 + 3 * 0x100 + 4 * 0x2000] = some (.cget .perm 3 4) := by decide +kernel

/-- Listings of 12, 14 and 22; 06 R109. -/
theorem test_decode_memory :
    one [0x0090_8C40] = some (.ld ⟨false, 1, false, false, .q⟩ 12 4) ∧ one [0x8002_1640] = some (.ld ⟨true, 0, false, false, .b⟩ 22 16) ∧
      one [0x0106_5740] = some (.ld ⟨false, 2, false, false, .h⟩ 23 18) ∧ one [0x004D_6C44] = some (.st ⟨false, 0, true, false, .d⟩ 12 11) ∧
      one [0x804A_7644] = some (.st ⟨true, 0, true, false, .w⟩ 22 19) ∧ one [0x818E_2044] = some (.st ⟨true, 3, false, false, .d⟩ 0 17) ∧
      one [0x0004_6648] = some (.sts ⟨false, 0, false⟩ 6 3) ∧ one [0x0000_6748] = some (.lds ⟨false, 0, false⟩ 7 3) ∧
      one [0x000C_0048 + 0x8000_0000 + 0xFF * 0x80_0000 + 0x20_0000 + 3 * 0x100 + 4 * 0x2000] = some (.feget ⟨true, -1, true⟩ 3 4) ∧
      one [0x003D_CD4C] = some (.atm .add ⟨false, false, false⟩ 13 14 15) := by decide +kernel

/-- Added up from 06 R111-R113; R116, R118. -/
theorem test_decode_atomics_and_copies :
    one [0x0000_004C + 0x2000_0000 + 0x800_0000 + 8 * 0x80_0000 + 5 * 0x40000 + 4 * 0x2000 + 3 * 0x100] =
        some (.atm .swap ⟨true, false, true⟩ 3 4 5) ∧
      one [0x0000_0050 + 0x2000_0000 + 6 * 0x80_0000 + 5 * 0x40000 + 4 * 0x2000 + 3 * 0x100] =
        some (.atmCas ⟨false, true, false⟩ 3 4 5 6) ∧
      one [0x0000_0054 + 0x1000_0000 + 2 * 0x80_0000 + 5 * 0x40000 + 4 * 0x2000 + 3 * 0x100] = some (.atmf .fmax true false 3 4 5) ∧
      one [0x0059_6A5A, 0x0207, 0] = some (.cpy ⟨false, false, true, 7⟩ 10 11 22) ∧
      one [0x0059_6A5B, 0x0C00, 0, 0x89AB_CDEF, 0x0123_4567] = some (.cpyAt ⟨true, true, false, 0⟩ 10 11 22 0x0123_4567_89AB_CDEF) ∧
      one [0x0080_005A + 5 * 0x40000 + 4 * 0x2000 + 3 * 0x100, 0xE000 + 0x600 + 9, 100] = some (.cpys ⟨.n32, true, true, 9, 100⟩ 3 4 5) := by
  decide +kernel

/-- 07 R132, R133, R138; 08 R144, R145, R166; listing of 14. -/
theorem test_decode_floats_streams_and_masks :
    one [0x201C_C568] = some (.fadd .dyn 5 6 7) ∧ one [0x0351_D068] = some (.fmax 16 14 20) ∧
      one [0x0380_0068 + 3 * 0x800_0000 + 5 * 0x40000 + 4 * 0x2000 + 3 * 0x100] = some (.fcmp .un 3 4 5) ∧
      one [0x0000_006C + 2 * 0x1000_0000 + 6 * 0x80_0000 + 5 * 0x40000 + 4 * 0x2000 + 3 * 0x100] = some (.ffma .rd 3 4 5 6) ∧
      one [0x2004_C570] = some (.cvt .dyn .f32 .b16 5 6) ∧ one [0x000C_C770] = some (.cvt .rne .f32 .e4m3 7 6) ∧
      one [0x4001_2870] = some (.img .f32 8 9) ∧ one [0x0056_8464] = some (.sbind false .f32 4 20 21) ∧
      one [0x8022_B264] = some (.sbind true .f32 18 21 8) ∧ one [0x0080_0064 + 3 * 0x100 + 4 * 0x2000] = some (.scnt 3 4) ∧
      one [0x0802_E178] = some (.movmGm 1 23) ∧ one [0x0000_7778] = some (.movmMg 23 3) ∧ one [0x0108_2378] = some (.mor 3 1 2) ∧
      one [0x0280_7678] = some (.mpop 22 3) := by decide +kernel

/-- 09 R170-R185; listings of 12 and 19. -/
theorem test_decode_groups_and_barriers :
    one [0x1800_00A0] = some (.gjoin 3) ∧ one [0x1880_C8A4] = some (.gred 3 .fadd 8 6) ∧ one [0x0000_A6A4] = some (.gred 0 .iadd 6 5) ∧
      one [0x0188_00A0 + 2 * 0x800_0000 + 3 * 0x100 + 4 * 0x2000] = some (.gvote 2 .ballot 3 4) ∧
      one [0x0080_00A8 + 0x4_0000 + 2 * 0x800_0000 + 3 * 0x100 + 4 * 0x2000] = some (.gxld 2 true true 3 4) ∧
      one [0x0382_80AC] = some (.binit 7 20) ∧ one [0x0388_00AC] = some (.bwait 7 0) ∧ one [0x000C_00AC] = some (.bsync 0 0) ∧
      one [0x0010_00AC + 511 * 0x80_0000 + 4 * 0x2000] = some (.bexp 511 4) ∧
      one [0x0014_00AC + 4 * 0x2000] = some (.cstat 0 4) := by decide +kernel

/-- 10 R191-R199, 11 R217; listings of 14 and 19. -/
theorem test_decode_messages_and_fences :
    one [0x01A5_80B0] = some (.send 3 12 9) ∧ one [0x02A9_80B4] = some (.sendh 5 12 10) ∧ one [0x0000_14B8] = some (.pbind 20) ∧
      one [0x00D6_80B8] = some (.btag 20 21) ∧ one [0x0180_00B8 + 5 * 0x40000 + 4 * 0x2000 + 3 * 0x100] = some (.loopb 3 4 5) ∧
      one [0x011C_C8BC] = some (.cred .sumF32 8 6 7) ∧ one [0x2000_005C] = some (.fence .cluster) ∧ one [0x8000_005C] = some (.fence .system) ∧
      one [0x0300_015C] = some (.fencex .core ⟨false, true, true, false, false, false⟩) ∧
      one [0x2180_015C] = some (.fencex .cluster ⟨true, true, false, false, false, false⟩) ∧
      one [0x0480_015C] = some (.fencex .core ⟨true, false, false, true, false, false⟩) := by decide +kernel

/-- Listing of 14; 13 R233-R237. -/
theorem test_decode_matrix :
    one [0x0080_00C2, 0x0010_0001, 0] = some (.minit ⟨1, 0, 128⟩ 0) ∧ one [0x0100_60C2, 0x0000_6800, 0] = some (.mpload ⟨0, 0, 13, false⟩ 3) ∧
      one [0x0800_C0C2, 0x006A_4000, 0x80] = some (.bload ⟨.b16, 0, 64, 53, false, 128⟩ 6) ∧
      one [0x0804_A0C6, 0x0068_0000, 0x0020_0040] = some (.mma ⟨.b16, .b16, 13, 0, 0, 0, 128, false, 64⟩ 5) ∧
      one [0x0004_07CA, 0x0350_6800, 0x0100] = some (.mdrain ⟨0, 0, 13, 53⟩ ⟨.f32, true, false, false, false, 256⟩ 7) ∧
      one [0x0180_00C2 + 3 * 0x100, 2, 0] = some (.mstat 2 3) ∧
      one [0x0080_00CA + 0x8_0000 + 0x10_0000 + 4 * 0x2000, 3 + 5 * 4 + 6 * 0x800 + 7 * 0x10_0000 + 2 * 0x2000_0000, 8 + 9 * 0x200] =
        some (.mdraina ⟨3, 5, 6, 7⟩ ⟨true, true, 2, 8, 9⟩ 4) := by decide +kernel

/-- Listing of 16; 15 R256. -/
theorem test_decode_lineage :
    one [0x0000_05D2, 0x4100_0001, 8] = some (.tnew 1 8 .b16 4 5 0 0) ∧ one [0x0090_A0D6, 0, 0] = some (.twr false 5 4 0) ∧
      one [0x0101_AED2, 0, 0] = some (.fork false false 14 13 0) ∧ one [0x1101_2BD2, 0, 0x6800_0000] = some (.fork false true 11 9 13) ∧
      one [0x019D_20D2, 0, 0] = some (.rebase false 9 7 0) ∧ one [0x0201_00D2, 0, 0] = some (.flat false 8 0) ∧
      one [0x0280_C0D2, 0, 0] = some (.tfree false 6 0) ∧ one [0x0101_2ED6, 0, 3] = some (.tld .d 14 9 0 0) ∧
      one [0x0181_C7D6, 0x194, 2] = some (.tst false .w 7 14 0 0 0x194) ∧
      one [0x0080_00D2 + 5 * 0x40000 + 4 * 0x2000 + 3 * 0x100, 6, 0x200_0007] = some (.topen 6 7 2 3 4 5) ∧
      one [0x0300_00D2 + 4 * 0x2000 + 3 * 0x100, 2, 0] = some (.tinfo 2 3 4) ∧
      one [0x0000_00D6 + 4 * 0x2000 + 3 * 0x100, 0, 0] = some (.trd 3 4) := by decide +kernel

/-- 17 R273-R279, 18 R289-R293, 20 R304; listings of 19 and 22. -/
theorem test_decode_cocoon_selection_and_tasks :
    one [0x0002_88D8] = some (.calloc 8 20) ∧ one [0x00AD_09D8] = some (.csplit false 9 8 11) ∧ one [0x089D_4CD8] = some (.csplit true 12 10 7) ∧
      one [0x0135_28D8] = some (.cjoin 8 9 13) ∧ one [0x0181_40D8] = some (.cfree 10) ∧
      one [0x0200_00D8 + 4 * 0x2000 + 3 * 0x100] = some (.cshape 3 4) ∧
      one [0x001D_8EDE, 16, 0] = some (.hsel false ⟨.f32, false, false, false, 0, false, 16⟩ 14 12 7) ∧
      one [0x801C_C5DE, 0x0200_0008, 0] = some (.hsel false ⟨.i8, false, true, false, 0, false, 8⟩ 5 6 7) ∧
      one [0x00B5_8EDE, 0x0200_0020, 0x3F40_0000] = some (.hselw false ⟨.f32, false, true, false, 0, false, 32⟩ 0x3F40_0000 14 12 13) ∧
      one [0x0101_28DC] = some (.hmask 8 9) ∧ one [0x0025_00E0] = some (.tsub 8 9) ∧ one [0x111C_C5E0] = some (.gate .add 5 6 7) ∧
      one [0x0080_00E0] = some .tdone ∧ one [0x1180_03E0] = some (.trec 2 3) ∧ one [0x0A15_00E0] = some (.qpost .set 8 5) := by decide +kernel

/-- 02 R27, R36: majors and forms that are no instruction. -/
theorem test_no_instruction :
    [[0], [0xFFFF_FFFF, 0, 0, 0, 0], [0x74], [0xCC], [0xE8], [0xFC], [0x80], [0x3D], [0x003E, 0, 0], [0x5A], [0x003D, 0x003C], [0x005A + 1, 0x80]].all
        (fun ws => decodeBundle ws == none) = true := by decide +kernel

/-- 02 R28: reserved codes and bits that must be zero. -/
theorem test_reserved :
    [[0x0380_0008], [0x0404_0008], [0x1000_000C], [0x0300_0020], [0x0014_0040], [0x0010_0048], [0x0480_004C], [0x0000_005C + 0x80_0000],
      [0x5 * 0x2000_0000 + 0x5C], [0x0100_0064], [0x5 * 0x800_0000 + 0x68], [0xC000_0070], [0x0380_0078], [0x0280_00A0], [0x0018_00AC],
      [0x0300_00BC], [0x0280_00E0], [0x1980_00E0], [0x82C], [0x0000_002C + 0x600 + 0x2000_0000 + 0x4_0000]].map
        (fun ws => (decodeBundle ws).any (fun b => Bundle.wf 32 b)) = List.replicate 20 false := by decide +kernel

/-! ## Ill-formed terms -/

theorem test_wf_registers : [Instr.add 16 0 0, .add 0 16 0, .add 0 0 16, .sel 0 0 0 16, .tst true .w 0 0 0 16 0, .hsel false hsel0 15 0 0].map (Instr.wf 16) =
    [false, false, false, false, false, false] := by decide +kernel

theorem test_wf_branches_and_control : [Instr.bCc .smore 1 1 0, .bCcX .sdone 1 1 0, .ppt 0x10000, .crr 8 0, .crw 0x013 0, .crr 0x1FF 0].map (Instr.wf 16) =
    [false, false, false, false, false, false] := by decide +kernel

theorem test_wf_loads : [Instr.ld ⟨true, 0, false, false, .w⟩ 2 2, .lds ⟨true, 0, false⟩ 2 2, .feget ⟨true, 0, false⟩ 2 2].map (Instr.wf 16) =
    [false, false, false] := by decide +kernel

theorem test_wf_copies_and_streams : [Instr.cpy ⟨false, false, false, 1⟩ 0 0 0, .cpyAt ⟨false, false, false, 1⟩ 0 0 0 0, .cpys ⟨.f32, false, false, 1, 1⟩ 0 0 0,
      .cpys ⟨.i64, false, false, 0, 1⟩ 0 0 0, .cpysAt ⟨.n64, false, false, 0, 1⟩ 0 0 0 0, .sbind false .i64 0 0 0].map (Instr.wf 16) =
    [false, false, false, false, false, false] := by decide +kernel

theorem test_wf_matrix : [Instr.fencex .core ⟨false, false, false, false, false, false⟩, .bload ⟨.f32, 0, 1, 1, false, 0⟩ 0, .mma { mma0 with fb := .e4m3 } 0,
      .mmad { mma0 with pitch := 1 } 0 0, .mdrain ⟨0, 0, 1, 1⟩ ⟨.e2m1, false, false, false, false, 0⟩ 0,
      .mdrainAt ⟨0, 0, 1, 1⟩ ⟨.i8, false, false, false, false, 0⟩ 0 0].map (Instr.wf 16) = [false, false, false, false, false, false] := by decide +kernel

theorem test_wf_lineage : [Instr.fork false false 1 2 3, .rebase false 1 2 3, .twr false 1 2 3, .flat false 1 3, .tfree false 1 3,
      .tst false .w 1 2 3 4 0].map (Instr.wf 16) = [false, false, false, false, false, false] := by decide +kernel

theorem test_wf_cocoon_and_selection : [Instr.csplit false 0 1 2, .csplit false 15 1 2, .hsel false { hsel0 with kf := .e2m1 } 4 1 2, .hsel false hsel0 0 1 2,
      .hsel false hsel0 15 1 2, .hselw false { hsel0 with mr := 3 } 0 4 1 2].map (Instr.wf 16) = [false, false, false, false, false, false] := by decide +kernel

theorem test_wf_vector_formats : [Instr.vadd ⟨.i8, 0, 1, 2, 3⟩, .vmin ⟨.e4m3, 0, 1, 2, 3⟩, .vsel ⟨.e2m1, 0, 1, 2, 3⟩, .vand ⟨.f32, 0, 1, 2, 3⟩,
      .vred ⟨.e4m3, 0, 1, 2⟩, .vscan ⟨.i16, 0, 1, 2, 3⟩, .vabs ⟨.n8, 0, 1, 2⟩, .vexp2 ⟨.b16, 0, 1, 2⟩, .vmov ⟨.i64, 0, 1, 2⟩].map (Instr.wf 16) =
    [false, false, false, false, false, false, false, false, false] := by decide +kernel

theorem test_wf_bundles : [Bundle.mk (.vadd ⟨.f32, 0, 1, 2, 3⟩) none, .mk .exit (some (.vadd ⟨.f32, 0, 1, 2, 3⟩)), .mk .nop (some .nop),
      .mk (.addi 3 4 1) (some (.vadd ⟨.f32, 0, 1, 2, 3⟩)), .mk (.addi 1 4 1) (some (.vadd ⟨.f32, 0, 1, 2, 3⟩)),
      .mk (.move 4 2) (some (.vadd ⟨.f32, 0, 1, 2, 3⟩))].map (Bundle.wf 16) = [false, false, false, false, false, false] := by decide +kernel

theorem test_wf_accepts : [Bundle.mk .nop (some (.vadd ⟨.f32, 0, 1, 2, 3⟩)), .mk (.addi 0 4 1) (some (.vadd ⟨.f32, 0, 1, 2, 0⟩)),
      .mk (.csplit true 14 1 2) none, .mk (.ppt 0xFFFF) none].map (Bundle.wf 16) = [true, true, true, true] := by decide +kernel

end Sys2Proof.Tests
end

namespace Sys2Proof.Machine

/-! ## Operands at hand -/

/-- A check that passes is passed over. -/
@[simp] theorem ok_bind {α β : Type} (x : α) (f : α → Except Stop β) : (Except.ok x >>= f) = f x := rfl

/-- The pop that a PORT operand needs comes first once every operand has the kind it must have. -/
theorem no_port_left {u : Thread} {reads : List Reg} {P : Prop} (h : ∃ r ∈ reads, (u.rd r).kind = .port)
    (hn : ∀ r ∈ reads, (u.rd r).kind ≠ .port) : P := by
  obtain ⟨r, hr, hk⟩ := h
  exact absurd hk (hn r hr)

/-- The check of one operand that is of the right kind as the instruction reads it faults before no PORT's read. -/
theorem noneBefore_one {s : State} {regs : List Reg} {a : Reg} {ka : List Kind} {f : Issue → Thread → Unit → Except Stop State}
    {i : Issue} {t : Thread} {pop : Option InboxEntry} (h : reading s regs [a] = some (i, t, pop))
    (ha : (t.rd a).kind ∈ ka) (pa : Kind.port ∉ ka) : NoneBefore s [a] (fun i t => needKinds ka a (t.rd a) >>= f i t) :=
  noneBefore_of h (fun u hu hp => faultBefore_kinds hu ha pa (fun na => no_port_left hp (by simp [na])))

/-- The same of two operands. -/
theorem noneBefore_two {s : State} {regs : List Reg} {a b : Reg} {ka kb : List Kind} {f : Issue → Thread → Unit → Except Stop State}
    {i : Issue} {t : Thread} {pop : Option InboxEntry} (h : reading s regs [a, b] = some (i, t, pop))
    (ha : (t.rd a).kind ∈ ka) (hb : (t.rd b).kind ∈ kb) (pa : Kind.port ∉ ka) (pb : Kind.port ∉ kb) :
    NoneBefore s [a, b] (fun i t => needKinds ka a (t.rd a) >>= fun _ => needKinds kb b (t.rd b) >>= f i t) := by
  refine noneBefore_of h (fun u hu hp => faultBefore_kinds hu ha pa (fun na => faultBefore_kinds hu hb pb (fun nb => ?_)))
  exact no_port_left hp (by simp [na, nb])

/-- The same of three operands. -/
theorem noneBefore_three {s : State} {regs : List Reg} {a b d : Reg} {ka kb kd : List Kind} {f : Issue → Thread → Unit → Except Stop State}
    {i : Issue} {t : Thread} {pop : Option InboxEntry} (h : reading s regs [a, b, d] = some (i, t, pop))
    (ha : (t.rd a).kind ∈ ka) (hb : (t.rd b).kind ∈ kb) (hd : (t.rd d).kind ∈ kd)
    (pa : Kind.port ∉ ka) (pb : Kind.port ∉ kb) (pd : Kind.port ∉ kd) :
    NoneBefore s [a, b, d] (fun i t => needKinds ka a (t.rd a) >>= fun _ => needKinds kb b (t.rd b) >>= fun _ =>
      needKinds kd d (t.rd d) >>= f i t) := by
  refine noneBefore_of h (fun u hu hp => faultBefore_kinds hu ha pa (fun na => faultBefore_kinds hu hb pb (fun nb =>
    faultBefore_kinds hu hd pd (fun nd => ?_))))
  exact no_port_left hp (by simp [na, nb, nd])

theorem needKind_eq_kinds (k : Kind) (r : Reg) (g : GReg) : needKind k r g = needKinds [k] r g := by
  simp [needKind, needKinds]

/-! ## Lists and queues -/

theorem length_setNth {α : Type} (v : α) (k : Nat) (l : List α) : (setNth v k l).length = l.length := by
  induction l generalizing k with
  | nil => simp [setNth]
  | cons x xs ih => cases k <;> simp [setNth, ih]

/-- Where insertBy puts an element: behind those it does not precede, before the first that it does. -/
theorem insertBy_split {α : Type} (le : α → α → Bool) (x : α) (l : List α) : ∃ before after, l = before ++ after ∧
    insertBy le x l = before ++ x :: after ∧ (∀ y ∈ before, le x y = false) ∧ ∀ y ∈ after.head?, le x y = true := by
  induction l with
  | nil => exact ⟨[], [], rfl, rfl, by simp, by simp⟩
  | cons y rest ih =>
    by_cases h : le x y = true
    · exact ⟨[], y :: rest, rfl, by simp [insertBy, h], by simp, by simp [h]⟩
    · obtain ⟨before, after, h1, h2, h3, h4⟩ := ih
      exact ⟨y :: before, after, by simp [h1], by simp [insertBy, h, h2], by simpa [h] using h3, h4⟩

/-- What submitting a thread's command leaves behind, by the thread's name. -/
theorem submit_of_tid {s : State} {v : Thread} {c : Cmd} {tid : Nat} (ht : c.tid = tid) (hv : getT s tid = some v) (hp : c.phase = .queued) (hi : c.issued = s.cycle)
    (w : Nat → Wait) : Submitted s (submit s c w) tid c w := by
  subst ht
  exact submit_spec hv hp hi w

end Sys2Proof.Machine

namespace Sys2Proof.Machine

/-! ## Bring-up and domains (23 R353-R355, 01 R18) -/

/-- What the security core measures as it extends a register that reads zero (23 R354). -/
def firstMeas (digest : Nat) : BitVec 384 := BitVec.ofNat 384 (Config.sha384 (toBytes 48 0 ++ toBytes 48 digest))

/-- The state in which bring-up begins: nothing but what the host's memory held, and the fused and stored parts of the device. -/
def coldState (s : State) : State :=
  { State.reset with agenda := [], free := s.free + 1, dev := coldDevice s.dev, mem := hostCells s.mem }

/-- The state after steps 2 to 4 of an accepted image's bring-up: the image runs, both measurements are taken, and ports have trained
or not. -/
def broughtUp (s : State) : State :=
  let u := runImage (extendMeas (coldState s) 0 (Config.sha384 (coldDevice s.dev).rom)) (coldDevice s.dev).stored
  { u with dev := { u.dev with ports := (List.range 18).map (fun p => { Port.reset with up := freeBit s p }) } }

theorem coldReset_refused {s : State} (h : imageOk (coldDevice s.dev) (coldDevice s.dev).stored = false) :
    exec .coldReset s = .next (coldState s) := by
  rw [exec_coldReset]
  simp [execColdReset, coldState, h]

theorem coldReset_accepted {s : State} (h : imageOk (coldDevice s.dev) (coldDevice s.dev).stored = true) :
    exec .coldReset s = .next (if (broughtUp s).dev.ports.any Port.up then broughtUp s else setReady (broughtUp s)) := by
  rw [exec_coldReset]
  simp only [execColdReset, h, Bool.not_true, Bool.false_eq_true, if_false]
  rfl

/-- A measurement register that reads zero takes its first digest. -/
theorem nth_extendMeas_zero {s : State} {k : Nat} (hk : k < s.dev.meas.length) (h : nth (0 : BitVec 384) k s.dev.meas = 0) (digest : Nat) :
    nth 0 k (extendMeas s k digest).dev.meas = firstMeas digest := by
  have z : (0 : BitVec 384).toNat = 0 := BitVec.toNat_zero
  simp only [extendMeas, nth_setNth _ _ _ _ hk, h, firstMeas, z]

/-- Extending one measurement register leaves every other. -/
theorem nth_extendMeas_ne {s : State} {j k : Nat} (h : j ≠ k) (digest : Nat) :
    nth 0 j (extendMeas s k digest).dev.meas = nth 0 j s.dev.meas := nth_setNth_ne _ _ _ _ _ h

theorem coldState_meas (s : State) : (coldState s).dev.meas = List.replicate 8 0 := rfl

/-- Bring-up extends MEAS0 by the ROM and MEAS1 by the image, both over what a cold reset leaves. -/
theorem broughtUp_extended (s : State) : (broughtUp s).dev.meas = (extendMeas (extendMeas (coldState s) 0 (Config.sha384 s.dev.rom)) 1
    (Config.sha384 (s.dev.stored.bytes.take 0x100 ++ fwBody s.dev.stored))).dev.meas := rfl

theorem broughtUp_meas (s : State) : nth 0 0 (broughtUp s).dev.meas = firstMeas (Config.sha384 s.dev.rom) ∧
    nth 0 1 (broughtUp s).dev.meas = firstMeas (Config.sha384 (s.dev.stored.bytes.take 0x100 ++ fwBody s.dev.stored)) := by
  have h0 : 0 < (coldState s).dev.meas.length := by rw [coldState_meas, List.length_replicate]; decide
  have h1 : 1 < (extendMeas (coldState s) 0 (Config.sha384 s.dev.rom)).dev.meas.length := by
    simp only [extendMeas, length_setNth, coldState_meas, List.length_replicate]; decide
  rw [broughtUp_extended, nth_extendMeas_ne (by decide)]
  exact ⟨nth_extendMeas_zero h0 (by rw [coldState_meas]; rfl) _,
    nth_extendMeas_zero h1 (by rw [nth_extendMeas_ne (by decide), coldState_meas]; rfl) _⟩

theorem broughtUp_time (s : State) : (broughtUp s).time = 0 := rfl

/-- Bring-up with an accepted image ends in one of two states, told apart by whether a port is up. -/
theorem coldReset_accepted_spec {s : State} (h : imageOk (coldDevice s.dev) (coldDevice s.dev).stored = true) :
    ∃ u, exec .coldReset s = .next u ∧ u.dev = { (broughtUp s).dev with ready := !(broughtUp s).dev.ports.any Port.up } ∧
      u.time = 0 ∧ u.mem = hostCells s.mem ∧ u.tags = [] ∧ u.empties = [] ∧ u.threads = [] ∧ u.ctxs = [] ∧ u.owners = [] ∧
      (u.dev.ready = true → (1000, Instr.bridleEvaluate) ∈ u.timed) := by
  refine ⟨_, coldReset_accepted h, ?_⟩
  by_cases hp : (broughtUp s).dev.ports.any Port.up = true
  · rw [if_pos hp, hp]
    exact ⟨rfl, rfl, rfl, rfl, rfl, rfl, rfl, rfl, by intro hr; cases hr⟩
  · rw [if_neg hp, Bool.eq_false_iff.mpr hp]
    exact ⟨rfl, rfl, rfl, rfl, rfl, rfl, rfl, rfl, fun _ => mem_agendaAdd.mpr (.inl (by rw [broughtUp_time]))⟩

/-- Joining a domain steps the time, extends MEAS3 and makes the module ready (01 R18, 23 R355). -/
def joined (domain time : Nat) (s : State) : State :=
  setReady (extendMeas { s with time := time, timeFrac := 0, dev := { s.dev with domain := some domain } } 3
    (Config.sha384 (toBytes 2 domain)))

/-- What DOMAIN_JOIN asks of the state (23 R355). -/
def MayJoin (domain time : Nat) (s : State) : Prop :=
  s.dev.ready = false ∧ s.dev.running.isSome = true ∧ (∃ p ∈ s.dev.ports, p.up = true) ∧ domain < 288 ∧ s.dev.domain = none ∧ s.time ≤ time

theorem domainJoin_joins {domain time : Nat} {s : State} (h : MayJoin domain time s) :
    exec (.domainJoin domain time) s = .next (joined domain time s) := by
  obtain ⟨hr, hi, hp, hd, hn, ht⟩ := h
  rw [exec_domainJoin, execDomainJoin, if_pos]
  · rfl
  · simpa [hr, hi, hd, hn, ht] using hp

theorem domainJoin_refused {domain time : Nat} {s : State} (h : ¬ MayJoin domain time s) :
    exec (.domainJoin domain time) s = .next s := by
  rw [exec_domainJoin, execDomainJoin, if_neg]
  rintro ⟨hr, hi, hp, hd, hn, ht⟩
  exact h ⟨by simpa using hr, hi, by simpa using hp, hd, by simpa using hn, ht⟩

/-- Settles O46: COLD_RESET ends in the state of its step 2 or in that of its step 6, and DOMAIN_JOIN's guard is the statement's. -/
theorem bringUpAndDomains : Obligations.BringUpAndDomains := by
  refine ⟨fun s => ⟨fun h => ?_, fun h => ?_⟩, fun domain time s => ⟨fun h => ?_, domainJoin_refused⟩⟩
  · obtain ⟨u, hu, hdev, hrest⟩ := coldReset_accepted_spec h
    obtain ⟨hm0, hm1⟩ := broughtUp_meas s
    refine ⟨u, hu, ?_⟩
    simp only [hdev] at hrest ⊢
    exact ⟨trivial, rfl, rfl, hm0, hm1, rfl, hrest⟩
  · exact ⟨_, coldReset_refused h, rfl, rfl, rfl, rfl⟩
  · exact ⟨_, domainJoin_joins h, rfl, rfl, rfl, rfl, mem_agendaAdd.mpr (.inl rfl), rfl, rfl, rfl⟩
end Sys2Proof.Machine

namespace Sys2Proof.Machine

theorem lo64_eq_low (t : Thread) (r : Reg) : lo64 (t.rd r) = (low t r).toNat := by
  simp [lo64, low]

theorem capAddr_zero (b : QWord) : capAddr b 0 = (capBase b + capCur b) % 2 ^ 64 := by
  unfold capAddr
  omega

/-! ## SBIND and SCNT (08 R144, R145) -/

/-- An element count that a stream may have: below 2^32, and even for E2M1 (08 R144). -/
def StreamCount (fmt : Fmt) (n : Nat) : Prop := n < 2 ^ 32 ∧ ¬ (fmt = .e2m1 ∧ n % 2 = 1)

section Sbind
variable {write : Bool} {fmt : Fmt} {d a b : Reg} {s : State} {i : Issue} {t : Thread} {pop : Option InboxEntry}

/-- SBIND over a capability in the core's local store. -/
theorem sbind_cap (h : reading s [d, a, b] [a, b] = some (i, t, pop)) (hb : (t.rd b).kind = .data) (hd : Free t d)
    (hn : StreamCount fmt ((low t b).toNat)) (ha : (t.rd a).kind = .cap)
    (ho : capOnchip (t.rd a).bits = true) (hr : capRead (t.rd a).bits = true) (hw : write = true → capWrite (t.rd a).bits = true)
    (hl : capCur (t.rd a).bits + ceilDiv ((low t b).toNat * fmtWidth fmt) 8 ≤ capLen (t.rd a).bits)
    (hv : (capBase (t.rd a).bits + capCur (t.rd a).bits) % 2 ^ 64 % max (fmtWidth fmt / 8) 1 = 0)
    (hi : inLocalRegion ((capBase (t.rd a).bits + capCur (t.rd a).bits) % 2 ^ 64) (ceilDiv ((low t b).toNat * fmtWidth fmt) 8) = true) :
    exec (.sbind write fmt d a b) s = .next (finish pop i.tid (result s i.tid d
      ⟨.strm, mkStrm ((capBase (t.rd a).bits + capCur (t.rd a).bits) % 2 ^ 64) ((low t b).toNat) 0 fmt.code write 0 false 0⟩)) := by
  rw [exec_sbind, execSbind]
  simp only [needKind_eq_kinds, lo64_eq_low, capAddr_zero]
  refine issueWith_ok h (noneBefore_two h (by simp [ha]) (by simp [hb]) (by decide) (by decide)) ?_
  have hc : ¬ (2 ^ 32 ≤ (low t b).toNat ∨ (fmt = .e2m1 ∧ (low t b).toNat % 2 = 1)) := fun e => e.elim (by have := hn.1; omega) hn.2
  have hp : ¬ ((!capOnchip (t.rd a).bits) = true ∨ (!capRead (t.rd a).bits) = true ∨ write = true ∧ (!capWrite (t.rd a).bits) = true) := by
    simpa [ho, hr] using hw
  rw [needKinds_ok (by simp [ha]), needKinds_ok (by simp [hb])]
  simp only [ok_bind, if_neg hc, if_pos ha, if_neg hp, if_neg (Nat.not_lt.mpr hl), needAlign, if_pos hv, hi, Bool.not_true, Bool.false_eq_true,
    if_false, destOk_ok hd]
  rfl

/-- SBIND over a handle to a granule of its format. -/
theorem sbind_coc (h : reading s [d, a, b] [a, b] = some (i, t, pop)) (hb : (t.rd b).kind = .data) (hd : Free t d)
    (hn : StreamCount fmt ((low t b).toNat)) (ha : (t.rd a).kind = .coc) (hf : cocFmt (t.rd a).bits = fmt.code)
    (hr : cocR (t.rd a).bits = true) (hw : write = true → cocW (t.rd a).bits = true)
    (hl : (low t b).toNat ≤ cocRcount (t.rd a).bits * cocCcount (t.rd a).bits) :
    exec (.sbind write fmt d a b) s = .next (finish pop i.tid (result s i.tid d ⟨.strm,
      mkStrm (i.tid / 256 * 0x800000 + cocTbase (t.rd a).bits) ((low t b).toNat) 0 fmt.code write 1 true
        (cocHlt (t.rd a).bits + cocGen (t.rd a).bits % 64 * 2 ^ 10)⟩)) := by
  rw [exec_sbind, execSbind]
  simp only [needKind_eq_kinds, lo64_eq_low]
  refine issueWith_ok h (noneBefore_two h (by simp [ha]) (by simp [hb]) (by decide) (by decide)) ?_
  have hc : ¬ (2 ^ 32 ≤ (low t b).toNat ∨ (fmt = .e2m1 ∧ (low t b).toNat % 2 = 1)) := fun e => e.elim (by have := hn.1; omega) hn.2
  have hk : ¬ (t.rd a).kind = .cap := by simp [ha]
  have hp : ¬ ((!cocR (t.rd a).bits) = true ∨ write = true ∧ (!cocW (t.rd a).bits) = true) := by simpa [hr] using hw
  rw [needKinds_ok (by simp [ha]), needKinds_ok (by simp [hb])]
  simp only [ok_bind, if_neg hc, if_neg hk, if_neg (not_not.mpr hf), if_neg hp, if_neg (Nat.not_lt.mpr hl), destOk_ok hd]
  rfl

/-- SCNT gives the elements that remain. -/
theorem scnt_result (h : reading s [d, a] [a] = some (i, t, pop)) (ha : (t.rd a).kind = .strm) (hd : Free t d) :
    exec (.scnt d a) s = .next (finish pop i.tid (result s i.tid d (dataOf (strmRem (t.rd a).bits)))) := by
  rw [exec_scnt, execScnt]
  simp only [needKind_eq_kinds]
  refine issueWith_ok h (noneBefore_one h (by simp [ha]) (by decide)) ?_
  rw [needKinds_ok (by simp [ha])]
  simp only [ok_bind, destOk_ok hd]
  rfl
end Sbind

/-! ## CPY and CPYS (06 R116, R118, R119; 01 R15) -/

section Copies
variable {d a b : Reg} {s : State} {i : Issue} {t v : Thread} {pop : Option InboxEntry} {bar : Option Nat}

/-- A copy whose checks pass is submitted, whatever its not-before time. -/
theorem copyIssue_submits {x : CpyX} (op : Instr) (time : Nat) (h : reading s [d, a, b] [a, b, d] = some (i, t, pop))
    (hv : getT s i.tid = some v) (ha : (t.rd a).kind ∈ [Kind.cap, .coc, .tens]) (hb : (t.rd b).kind = .data)
    (hd : (t.rd d).kind ∈ [Kind.cap, .coc]) (hn : (low t b).toNat < 2 ^ 32) (h1 : copySource s i.tid t a ((low t b).toNat) = .ok ())
    (h2 : copyDest s i.tid t d ((low t b).toNat) = .ok ()) (h3 : copyBar s i.tid t x.bv x.bar = .ok bar) :
    ∃ u, copyIssue op x d a b time s = .next (finish pop i.tid u) ∧ Submitted s u i.tid
      { newCmd op i.tid t (chooseCopy s (i.tid / 256)) (t.rd a) (t.rd b) (t.rd d) GReg.zero s.cycle with
        total := (low t b).toNat, bar := bar, notBefore := time } .accept := by
  refine ⟨_, ?_, submit_of_tid (by rfl) hv (by rfl) (by rfl) Wait.accept⟩
  rw [copyIssue]
  simp only [needKind_eq_kinds, lo64_eq_low]
  refine issueWith_ok h (noneBefore_three h ha (by simp [hb]) hd (by decide) (by decide) (by decide)) ?_
  rw [needKinds_ok ha, needKinds_ok (by simp [hb]), needKinds_ok hd]
  simp only [ok_bind, if_neg (Nat.not_le.mpr hn), h1, h2, h3]

/-- The source of a ring: a capability, a handle to a granule of the ring's format, or a view that is not of E2M1 lines (06 R118). -/
def RingSource (s : State) (t : Thread) (a : Reg) (fmt : Fmt) : Prop :=
  (t.rd a).kind = .cap ∨ ((t.rd a).kind = .coc ∧ cocFmt (t.rd a).bits = fmt.code) ∨
    ((t.rd a).kind = .tens ∧ ∀ c k, getC s t.ctx = some c → tget (tensTid (t.rd a).bits) c.nodes = some k → k.fmt ≠ Fmt.e2m1.code)

theorem RingSource.kind {fmt : Fmt} (h : RingSource s t a fmt) : (t.rd a).kind ∈ [Kind.cap, .coc, .tens] := by
  rcases h with h | ⟨h, -⟩ | ⟨h, -⟩ <;> simp [h]

/-- A copy-fed ring whose checks pass is submitted, whatever its not-before time. -/
theorem ringIssue_submits {x : CpysX} (op : Instr) (time : Nat) (h : reading s [d, a, b] [a, b] = some (i, t, pop))
    (hv : getT s i.tid = some v) (ha : RingSource s t a x.fmt) (hb : (t.rd b).kind = .cap) (hd : Free t d)
    (hw : capWrite (t.rd b).bits = true) (hr : ringOk i.tid (t.rd b).bits = true) (hn : ¬ (x.fmt = .e2m1 ∧ x.count.toNat % 2 = 1))
    (h1 : copySource s i.tid t a (ceilDiv (x.count.toNat * fmtWidth x.fmt) 8) = .ok ()) (h3 : copyBar s i.tid t x.bv x.bar = .ok bar) :
    ∃ u, ringIssue op x d a b time s = .next (finish pop i.tid u) ∧ Submitted s u i.tid
      { newCmd op i.tid t (chooseCopy s (i.tid / 256)) (t.rd a) (t.rd b) GReg.zero GReg.zero s.cycle with
        total := x.count.toNat, bar := bar, notBefore := time, ring := freeRing s (chooseCopy s (i.tid / 256)) s.nextId } .accept := by
  refine ⟨_, ?_, submit_of_tid (by rfl) hv (by rfl) (by rfl) Wait.accept⟩
  rw [ringIssue]
  simp only [needKind_eq_kinds]
  refine issueWith_ok h (noneBefore_two h ha.kind (by simp [hb]) (by decide) (by decide)) ?_
  rw [needKinds_ok ha.kind, needKinds_ok (by simp [hb])]
  simp only [ok_bind]
  rw [if_neg]
  · simp only [destOk_ok hd, ok_bind, hw, hr, Bool.not_true, Bool.false_eq_true, if_false, if_neg hn, h1, h3]
  · rcases ha with ha | ⟨ha, hf⟩ | ⟨ha, hf⟩
    · simp [ha]
    · simp [ha, hf]
    · simp only [ha]
      cases hc : getC s t.ctx with
      | none => simp
      | some c =>
        cases hk : tget (tensTid (t.rd a).bits) c.nodes with
        | none => simp [hk]
        | some k =>
          have := hf c k hc hk
          simp_all [Fmt.code]
end Copies

/-- Settles O16: SBIND over a capability or a handle, SCNT, and the submission that CPY and CPYS share with their .AT forms. -/
theorem streamsAndCopiesIssue : Obligations.StreamsAndCopiesIssue := by
  refine ⟨⟨?_, ?_⟩, ?_, ?_⟩
  · intro write fmt d a b s i t pop h hb hd n c bytes v hn he
    exact ⟨fun ha ho hr hw hl hv hi => sbind_cap h hb hd ⟨hn, he⟩ ha ho hr hw hl hv hi,
      fun ha hf hr hw hl => sbind_coc h hb hd ⟨hn, he⟩ ha hf hr hw hl⟩
  · intro d a s i t pop h ha hd
    exact scnt_result h ha hd
  · intro x d a b time s i t v pop bar h hv ha hb hd n hn h1 h2 h3 cmd
    exact ⟨copyIssue_submits _ 0 h hv ha hb hd hn h1 h2 h3, copyIssue_submits _ time.toNat h hv ha hb hd hn h1 h2 h3⟩
  · intro x d a b time s i t v pop bar h hv ha hb hd n eng hw hr hn h1 h3 cmd
    exact ⟨ringIssue_submits _ 0 h hv ha hb hd hw hr hn h1 h3, ringIssue_submits _ time.toNat h hv ha hb hd hw hr hn h1 h3⟩
end Sys2Proof.Machine

namespace Sys2Proof.Machine

/-! ## Matrix commands issue (13 R229, R231, R233, R234, R237, R239) -/

/-- Rows that a tile of a cluster has (13 R233). -/
def RowsFit (cl : Nat) (row0 rows : BitVec 9) : Prop := 1 ≤ rows.toNat ∧ row0.toNat + rows.toNat ≤ tileDim cl

/-- An operand in a memory role, with no pitch beside a handle or a view. -/
def MemoryRole (t : Thread) (r : Reg) (pitch : Nat) : Prop :=
  (t.rd r).kind = .cap ∨ ((t.rd r).kind ∈ [Kind.coc, .tens] ∧ pitch = 0)

theorem needLegal_ok (t : Thread) {ok : Bool} (h : ok = true) : needLegal t ok = .ok () := by simp [needLegal, h]

theorem needRange_ok {ok : Bool} (v : Nat) (h : ok = true) : needRange ok v = .ok () := by simp [needRange, h]

theorem needRows_ok {cl : Nat} {row0 rows : BitVec 9} (h : RowsFit cl row0 rows) : needRows cl row0.toNat rows.toNat = .ok () := by
  obtain ⟨h1, h2⟩ := h
  rw [needRows, if_neg (by omega), if_neg (by omega)]

theorem needTile_ok {s : State} {cl k : Nat} {t : Thread} (h : (tileOf s cl k).owner = some t.owner) : needTile s cl t k = .ok () :=
  if_pos h

theorem needNoPitch_ok {t : Thread} {r : Reg} {pitch : Nat} (h : MemoryRole t r pitch) : needNoPitch t r pitch = .ok () := by
  rcases h with h | ⟨-, h⟩ <;> simp [needNoPitch, h]

theorem needMemory_ok {t : Thread} {r : Reg} {pitch : Nat} (h : MemoryRole t r pitch) : needMemory r (t.rd r) = .ok () := by
  refine needKinds_ok ?_
  rcases h with h | ⟨h, -⟩
  · simp [h]
  · exact List.mem_cons_of_mem _ h

/-- Rows along K: at least one, no more than there are, and even for E2M1 (13 R233, R234). -/
theorem kRange_ok {f : Fmt} {k most : Nat} (h1 : 1 ≤ k) (h2 : k ≤ most) (h3 : f = .e2m1 → k % 2 = 0) :
    (decide (1 ≤ k) && decide (k ≤ most) && (f != .e2m1 || k % 2 == 0)) = true := by
  by_cases hf : f = .e2m1
  · simp [h1, h2, h3 hf]
  · simp [h1, h2, hf]

/-- Columns of a tile: at least one, no more than there are. -/
theorem colRange_ok {n most : Nat} (h1 : 1 ≤ n) (h2 : n ≤ most) : (decide (1 ≤ n) && decide (n ≤ most)) = true := by simp [h1, h2]

/-- The limits of a product (13 R226, R234). -/
structure ProductFits (s : State) (cl : Nat) (t : Thread) (x : MmaX) : Prop where
  fa : arrayTakes cl x.fa = true
  fb : arrayTakes cl x.fb = true
  meet : formatsMeet x.fa x.fb = true
  rows : RowsFit cl x.row0 x.m
  k1 : 1 ≤ x.k.toNat
  kMost : x.k.toNat ≤ 16 * panelRows x.fa
  kEven : x.fa = .e2m1 → x.k.toNat % 2 = 0
  panels : x.p0.toNat + panelCount x ≤ (partition s cl t.ctx).2
  tile : (tileOf s cl x.t.val).owner = some t.owner

theorem ProductFits.legal {s : State} {cl : Nat} {t : Thread} {x : MmaX} (h : ProductFits s cl t x) :
    (arrayTakes cl x.fa && arrayTakes cl x.fb && formatsMeet x.fa x.fb) = true := by simp [h.fa, h.fb, h.meet]

theorem mmaLimits_ok {s : State} {cl : Nat} {t : Thread} {x : MmaX} (h : ProductFits s cl t x) : mmaLimits s cl t.ctx x = .ok () := by
  rw [mmaLimits, needRows_ok h.rows, ok_bind, needRange_ok _ (kRange_ok h.k1 h.kMost h.kEven), ok_bind, needRange_ok _ (by simp [h.panels])]

theorem drainLimits_ok {cl : Nat} {x : DrainX} (h : RowsFit cl x.row0 x.rows) (h1 : 1 ≤ x.ncols.toNat) (h2 : x.ncols.toNat ≤ tileDim cl) :
    drainLimits cl x = .ok () := by
  rw [drainLimits, needRows_ok h, ok_bind, needRange_ok _ (colRange_ok h1 h2)]

/-- A matrix command is in its array's queue after its bundle's turn, with some operands and a not-before time. -/
def QueuedAtArray (s : State) (i : Issue) (t : Thread) (pop : Option InboxEntry) (r : Host.Outcome State Fault Refusal) (j : Instr)
    (a d : GReg) (at_ : Nat) : Prop :=
  ∃ u, r = .next (finish pop i.tid u) ∧
    Submitted s u i.tid { newCmd j i.tid t (arrayOf i.tid) a GReg.zero d GReg.zero s.cycle with notBefore := at_ } .command

section
variable {s : State} {i : Issue} {t v : Thread} {pop : Option InboxEntry}

/-- A body that hands its command to the array leaves it in the queue. -/
theorem queuedAtArray_of_body {regs reads : List Reg} {body : Issue → Thread → Except Stop State} {j : Instr} {a d : GReg} {at_ : Nat}
    (h : reading s regs reads = some (i, t, pop)) (hf : NoneBefore s reads body) (hv : getT s i.tid = some v)
    (hb : body i t = .ok (submitArray s j i.tid t a d at_)) : QueuedAtArray s i t pop (issueWith s regs reads body) j a d at_ :=
  ⟨_, issueWith_ok h hf hb, submit_of_tid (by rfl) hv (by rfl) (by rfl) Wait.command⟩

theorem bload_queued {x : BloadX} {a : Reg} (h : reading s [a] [] = some (i, t, pop)) (hv : getT s i.tid = some v)
    (hf : arrayTakes (i.tid / 256) x.fmt = true) (hm : MemoryRole t a x.pitch.toNat) (hp : x.p.toNat < (partition s (i.tid / 256) t.ctx).2)
    (k1 : 1 ≤ x.k.toNat) (k2 : x.k.toNat ≤ panelRows x.fmt) (k3 : x.fmt = .e2m1 → x.k.toNat % 2 = 0)
    (n1 : 1 ≤ x.n.toNat) (n2 : x.n.toNat ≤ tileDim (i.tid / 256))
    (ho : matOperand s (i.tid / 256) t a false x.fmt x.n.toNat x.k.toNat x.pitch.toNat = .ok ()) :
    QueuedAtArray s i t pop (exec (.bload x a) s) (.bload x a) (t.rd a) GReg.zero 0 := by
  rw [exec_bload]
  refine queuedAtArray_of_body h noneBefore_nil hv ?_
  simp only [needLegal_ok t hf, needNoPitch_ok hm, needMemory_ok hm, needRange_ok x.p.toNat (decide_eq_true hp),
    needRange_ok x.k.toNat (kRange_ok k1 k2 k3), needRange_ok x.n.toNat (colRange_ok n1 n2), ho, ok_bind]

theorem mpload_queued {x : MploadX} {a : Reg} (h : reading s [a] [] = some (i, t, pop)) (hv : getT s i.tid = some v)
    (hm : MemoryRole t a 0) (hr : RowsFit (i.tid / 256) x.row0 x.rows) (ho : matPacked s (i.tid / 256) t a (8 * x.rows.toNat) = .ok ())
    (ht : (tileOf s (i.tid / 256) x.t.val).owner = some t.owner) :
    QueuedAtArray s i t pop (exec (.mpload x a) s) (.mpload x a) (t.rd a) GReg.zero 0 := by
  rw [exec_mpload]
  refine queuedAtArray_of_body h noneBefore_nil hv ?_
  simp only [needMemory_ok hm, needRows_ok hr, ho, needTile_ok ht, ok_bind]

theorem mma_queued {x : MmaX} {a : Reg} (h : reading s [a] [] = some (i, t, pop)) (hv : getT s i.tid = some v)
    (hx : ProductFits s (i.tid / 256) t x) (hm : MemoryRole t a x.pitch.toNat)
    (ho : matOperand s (i.tid / 256) t a false x.fa x.m.toNat x.k.toNat x.pitch.toNat = .ok ()) :
    QueuedAtArray s i t pop (exec (.mma x a) s) (.mma x a) (t.rd a) GReg.zero 0 := by
  rw [exec_mma]
  refine queuedAtArray_of_body h noneBefore_nil hv ?_
  simp only [needLegal_ok t hx.legal, needNoPitch_ok hm, needMemory_ok hm,
    mmaLimits_ok hx, ho, needTile_ok hx.tile, ok_bind]

/-- MMAD asks nothing before the read of a PORT in its destination: the source is no PORT, and the destination as read is a view. -/
theorem mmad_noneBefore {d a : Reg} {reads : List Reg} {ok : Issue → Bool} {f : Issue → Thread → Unit → Except Stop State}
    (hr : ∀ r ∈ reads, r = d) (h : reading s [d, a] reads = some (i, t, pop)) (hl : ok i = true)
    (ha : (t.rd a).kind = .tens) (hd : (t.rd d).kind = .tens) :
    NoneBefore s reads (fun i t =>
      needLegal t (ok i) >>= fun _ => needKind .tens a (t.rd a) >>= fun _ => needKind .tens d (t.rd d) >>= f i t) := by
  refine noneBefore_of h (fun u hu hp => ?_)
  rw [needLegal_ok u hl, ok_bind]
  exact faultBefore_needKind hu ha (by decide) (fun _ => faultBefore_needKind hu hd (by decide)
    (fun nd => no_port_left hp (fun r hm => hr r hm ▸ nd)))

theorem mmad_queued {x : MmaX} {d a : Reg} (h : reading s [d, a] (if d = a then [] else [d]) = some (i, t, pop)) (hv : getT s i.tid = some v)
    (hx : ProductFits s (i.tid / 256) t x) (hp : x.pitch = 0) (ha : (t.rd a).kind = .tens) (hd : (t.rd d).kind = .tens)
    (ho : matOperand s (i.tid / 256) t a false x.fa x.m.toNat x.k.toNat 0 = .ok ())
    (hc : isAncestor s t.ctx (tensTid (t.rd a).bits) (tensTid (t.rd d).bits) = true) :
    QueuedAtArray s i t pop (exec (.mmad x d a) s) (.mmad x d a) (t.rd a) (t.rd d) 0 := by
  have hl : (arrayTakes (i.tid / 256) x.fa && arrayTakes (i.tid / 256) x.fb && formatsMeet x.fa x.fb && x.pitch == 0) = true := by
    rw [hx.legal, hp]; rfl
  rw [exec_mmad]
  refine queuedAtArray_of_body h ?_ hv ?_
  · refine mmad_noneBefore (ok := fun i => arrayTakes (i.tid / 256) x.fa && arrayTakes (i.tid / 256) x.fb && formatsMeet x.fa x.fb && x.pitch == 0)
      (fun r hm => ?_) h hl ha hd
    split at hm
    · cases hm
    · exact List.mem_singleton.mp hm
  · simp only [needLegal_ok t hl, needKind_ok ha, needKind_ok hd, mmaLimits_ok hx, ho, hc, needTile_ok hx.tile, ok_bind, Bool.not_true,
      Bool.false_eq_true, if_false]

theorem drain_queued {op : Instr} {x : DrainX} {y : MdrainX} {d : Reg} (time : Nat) (h : reading s [d] [] = some (i, t, pop))
    (hv : getT s i.tid = some v) (hf : drainTakes y.fmt = true) (hm : MemoryRole t d y.pitch.toNat) (hr : RowsFit (i.tid / 256) x.row0 x.rows)
    (n1 : 1 ≤ x.ncols.toNat) (n2 : x.ncols.toNat ≤ tileDim (i.tid / 256))
    (hp : (t.rd d).kind = .cap → x.ncols.toNat * fmtWidth y.fmt / 8 ≤ y.pitch.toNat)
    (ho : matOperand s (i.tid / 256) t d true y.fmt x.rows.toNat x.ncols.toNat y.pitch.toNat = .ok ())
    (ht : (tileOf s (i.tid / 256) x.t.val).owner = some t.owner) :
    QueuedAtArray s i t pop (drainIssue op x y d time s) op GReg.zero (t.rd d) time := by
  refine queuedAtArray_of_body h noneBefore_nil hv ?_
  have hp' : ((t.rd d).kind != .cap || decide (x.ncols.toNat * fmtWidth y.fmt / 8 ≤ y.pitch.toNat)) = true := by
    by_cases hk : (t.rd d).kind = .cap
    · simp [hp hk]
    · simp [hk]
  simp only [needLegal_ok t hf, needNoPitch_ok hm, needMemory_ok hm, drainLimits_ok hr n1 n2, needRange_ok _ hp', ho, needTile_ok ht, ok_bind]

theorem peerOf_eq (g : GReg) : peerOf g = g.bits.toNat % 256 := by simp [peerOf, bits]

theorem add_queued {op : Instr} {x : DrainX} {y : MdrainaX} {a : Reg} (time : Nat) (h : reading s [a] [a] = some (i, t, pop))
    (hv : getT s i.tid = some v) (ha : IsData t a) (hr : RowsFit (i.tid / 256) x.row0 x.rows)
    (n1 : 1 ≤ x.ncols.toNat) (n2 : x.ncols.toNat ≤ tileDim (i.tid / 256)) (hp : peerOf (t.rd a) < 192)
    (r1 : y.prow0.toNat + x.rows.toNat ≤ tileDim (peerOf (t.rd a))) (r2 : y.pcol0.toNat + x.ncols.toNat ≤ tileDim (peerOf (t.rd a)))
    (ht : (tileOf s (i.tid / 256) x.t.val).owner = some t.owner) :
    QueuedAtArray s i t pop (addIssue op x y a time s) op (t.rd a) GReg.zero time := by
  refine queuedAtArray_of_body h ?_ hv ?_
  · simp only [needKind_eq_kinds]
    exact noneBefore_one h (List.mem_singleton.mpr ha) (by decide)
  · simp only [needKind_ok ha, drainLimits_ok hr n1 n2, if_neg (Nat.not_le.mpr hp), needRange_ok _ (decide_eq_true r1),
      needRange_ok _ (decide_eq_true r2), needTile_ok ht, ok_bind]

end

/-! ## Claims of tiles (13 R229, R233) -/

theorem mem_minitTiles {x : MinitX} {k : Nat} : k ∈ minitTiles x ↔ k < 4 ∧ x.tiles.getLsbD k = true := by
  simp [minitTiles]

section
variable {s : State} {i : Issue} {t v : Thread} {pop : Option InboxEntry} {x : MinitX} {a : Reg}

/-- MINIT on tiles its task owns joins the array's queue. -/
theorem minit_queued (h : reading s [a] [a] = some (i, t, pop)) (hv : getT s i.tid = some v) (ha : IsData t a) (hx : x.tiles ≠ 0)
    (hr : RowsFit (i.tid / 256) x.row0 x.rows)
    (ho : ∀ k < 4, x.tiles.getLsbD k = true → (tileOf s (i.tid / 256) k).owner = some t.owner) :
    QueuedAtArray s i t pop (exec (.minit x a) s) (.minit x a) (t.rd a) GReg.zero 0 := by
  have hall : (minitTiles x).all (fun k => (tileOf s (i.tid / 256) k).owner == some t.owner) = true :=
    List.all_eq_true.mpr (fun k hk => by simp [ho k (mem_minitTiles.mp hk).1 (mem_minitTiles.mp hk).2])
  rw [exec_minit]
  refine queuedAtArray_of_body h ?_ hv ?_
  · simp only [needKind_eq_kinds]
    exact noneBefore_one h (List.mem_singleton.mpr ha) (by decide)
  · simp only [needKind_ok ha, needRange_ok 0 (bne_iff_ne.mpr hx), needRows_ok hr, hall, if_true, ok_bind]

/-- A set of tiles that is not empty names one. -/
theorem minitTiles_ne_nil (hx : x.tiles ≠ 0) : minitTiles x ≠ [] := by
  intro h
  refine hx (BitVec.eq_of_getLsbD_eq (fun k hk => ?_))
  have : k ∉ minitTiles x := by simp [h]
  simpa [mem_minitTiles, hk] using this

/-- The state after a MINIT whose claim waits. -/
def claimed (s : State) (i : Issue) (t : Thread) (x : MinitX) (a : Reg) : State :=
  let c := newCmd (.minit x a) i.tid t (arrayOf i.tid) (t.rd a) GReg.zero GReg.zero GReg.zero s.cycle
  parkAs (awaitClaim (fresh { s with cmds := tset s.nextId { c with phase := .claiming } s.cmds }) (i.tid / 256) s.nextId c) i.tid
    (.claim s.nextId)

/-- MINIT on tiles of which its task owns none leaves a claim. -/
theorem minit_claims (h : reading s [a] [a] = some (i, t, pop)) (ha : IsData t a) (hx : x.tiles ≠ 0)
    (hr : RowsFit (i.tid / 256) x.row0 x.rows) (ho : ∀ k < 4, (tileOf s (i.tid / 256) k).owner ≠ some t.owner) :
    exec (.minit x a) s = .next (finish pop i.tid (claimed s i t x a)) := by
  have hall : (minitTiles x).all (fun k => (tileOf s (i.tid / 256) k).owner == some t.owner) = false := by
    obtain ⟨k, hk⟩ := List.exists_mem_of_ne_nil _ (minitTiles_ne_nil hx)
    exact List.all_eq_false.mpr ⟨k, hk, by simp [ho k (mem_minitTiles.mp hk).1]⟩
  have hany : (List.range 4).any (fun k => (tileOf s (i.tid / 256) k).owner == some t.owner) = false :=
    List.any_eq_false.mpr (fun k hk => by simp [ho k (List.mem_range.mp hk)])
  rw [exec_minit]
  refine issueWith_ok h ?_ ?_
  · simp only [needKind_eq_kinds]
    exact noneBefore_one h (List.mem_singleton.mpr ha) (by decide)
  · simp only [needKind_ok ha, needRange_ok 0 (bne_iff_ne.mpr hx), needRows_ok hr, hall, hany, Bool.false_eq_true, if_false, ok_bind]
    rfl

/-- A claim that waits is recorded, in its place among the claims, and is looked at in the same cycle. -/
theorem claimed_spec (hv : getT s i.tid = some v) (hn : tget s.nextId s.cmds = none) :
    let later := fun (j : Nat) => ∃ y, tget j s.cmds = some y ∧ y.issued = s.cycle ∧ i.tid < y.tid
    let u := claimed s i t x a
    ∃ c before after, tget s.nextId u.cmds = some c ∧ c.op = .minit x a ∧ c.a = t.rd a ∧ c.phase = .claiming ∧
      waitOf u i.tid = some (.claim s.nextId) ∧ (clusterSt s (i.tid / 256)).claims = before ++ after ∧
      (clusterSt u (i.tid / 256)).claims = before ++ s.nextId :: after ∧ (∀ j ∈ before, ¬later j) ∧ (∀ j ∈ after.head?, later j) ∧
      (s.cycle, Instr.minitClaimGrant (i.tid / 256)) ∈ u.agenda := by
  intro later u
  generalize hc : newCmd (.minit x a) i.tid t (arrayOf i.tid) (t.rd a) GReg.zero GReg.zero GReg.zero s.cycle = c
  generalize hs1 : fresh { s with cmds := tset s.nextId { c with phase := .claiming } s.cmds } = s1
  have hu : u = parkAs (awaitClaim s1 (i.tid / 256) s.nextId c) i.tid (.claim s.nextId) := by subst hs1 hc; rfl
  obtain ⟨hi, ht⟩ : c.issued = s.cycle ∧ c.tid = i.tid := by subst hc; exact ⟨rfl, rfl⟩
  have hcmd : ∀ j, tget j s1.cmds = if j = s.nextId then some { c with phase := .claiming } else tget j s.cmds := by
    intro j; subst hs1; exact tget_tset ..
  have hlater : ∀ j, (tget j s1.cmds).any (fun y => y.issued == c.issued && decide (c.tid < y.tid)) = true ↔ later j := by
    intro j
    rw [hcmd]
    by_cases hj : j = s.nextId
    · simp [hj, later, hn]
    · rw [if_neg hj, Option.any_eq_true]
      simp only [Bool.and_eq_true, beq_iff_eq, decide_eq_true_eq, later, hi, ht]
  obtain ⟨before, after, h1, h2, h3, h4⟩ := insertBy_split
    (fun i j => i == s.nextId && (tget j s1.cmds).any (fun y => y.issued == c.issued && decide (c.tid < y.tid))) s.nextId
    (clusterSt s (i.tid / 256)).claims
  refine ⟨{ c with phase := .claiming }, before, after, ?_, ?_, ?_, rfl, ?_, h1, ?_, ?_, ?_, ?_⟩
  · rw [hu, parkAs_cmds]
    exact (hcmd _).trans (if_pos rfl)
  · subst hc; rfl
  · subst hc; rfl
  · rw [hu]
    exact waitOf_parkAs (t := v) (by subst hs1; exact hv) _
  · rw [← h2, hu]
    subst hs1
    simp [clusterSt, awaitClaim, fresh]
  · intro j hj hl
    have := h3 j hj
    simp [(hlater j).mpr hl] at this
  · intro j hj
    have := h4 j hj
    rw [Bool.and_eq_true] at this
    exact (hlater j).mp this.2
  · rw [hu, parkAs_agenda]
    subst hs1
    exact mem_sched.mpr (.inl rfl)
end

/-! ## Claims that are granted -/

theorem tileOf_setTile {s : State} {cl k j : Nat} {x : Tile} (h : k < (clusterSt s cl).tiles.length) :
    tileOf (setTile s cl k x) cl j = if j = k then x else tileOf s cl j := by
  unfold tileOf setTile
  rw [clusterSt_setCluster_same]
  by_cases hj : j = k
  · subst hj
    rw [if_pos rfl, nth_setNth _ _ _ _ h]
  · rw [if_neg hj, nth_setNth_ne _ _ _ _ _ hj]

/-- Tiles that an owner takes: every other part of the cluster, the commands, the threads and the events are the same. -/
structure TilesTaken (s u : State) (cl : Nat) : Prop where
  tiles : (clusterSt u cl).tiles.length = (clusterSt s cl).tiles.length
  engines : (clusterSt u cl).engines = (clusterSt s cl).engines
  claims : (clusterSt u cl).claims = (clusterSt s cl).claims
  cmds : u.cmds = s.cmds
  threads : u.threads = s.threads
  cycle : u.cycle = s.cycle

theorem takeTile_taken (s : State) (cl k : Nat) (x : Tile) : TilesTaken s (setTile s cl k x) cl := by
  unfold setTile
  constructor <;> simp [length_setNth]

theorem TilesTaken.trans {s u v : State} {cl : Nat} (a : TilesTaken s u cl) (b : TilesTaken u v cl) : TilesTaken s v cl :=
  ⟨b.tiles.trans a.tiles, b.engines.trans a.engines, b.claims.trans a.claims, b.cmds.trans a.cmds, b.threads.trans a.threads,
    b.cycle.trans a.cycle⟩

/-- An owner takes some tiles of a cluster. -/
def takeTiles (s : State) (cl o : Nat) (ks : List Nat) : State :=
  ks.foldl (fun u k => setTile u cl k { tileOf u cl k with owner := some o }) s

theorem takeTiles_taken (s : State) (cl o : Nat) (ks : List Nat) : TilesTaken s (takeTiles s cl o ks) cl := by
  induction ks generalizing s with
  | nil => exact ⟨rfl, rfl, rfl, rfl, rfl, rfl⟩
  | cons k rest ih => exact (takeTile_taken s cl k _).trans (ih _)

theorem takeTiles_owner {s : State} {cl o : Nat} {ks : List Nat} (h : ∀ k ∈ ks, k < (clusterSt s cl).tiles.length) (j : Nat) :
    (tileOf (takeTiles s cl o ks) cl j).owner = if j ∈ ks then some o else (tileOf s cl j).owner := by
  induction ks generalizing s with
  | nil => simp [takeTiles]
  | cons k rest ih =>
    have hk := h k (List.mem_cons_self ..)
    have hl := (takeTile_taken s cl k { tileOf s cl k with owner := some o }).tiles
    refine (ih (s := setTile s cl k { tileOf s cl k with owner := some o })
      (fun m hm => hl ▸ h m (List.mem_cons_of_mem _ hm))).trans ?_
    rw [tileOf_setTile hk]
    by_cases hj : j = k <;> simp [hj]

/-- A command that joins its engine's queue comes last in it, and an idle engine accepts it 4 cycles later. -/
theorem enqueue_spec {s : State} {id : Nat} {c : Cmd} (hc : tget id s.cmds = some c)
    (hl : c.eng % 8 < (clusterSt s (c.eng / 8)).engines.length) :
    let u := enqueue s id
    u.cmds = s.cmds ∧ u.threads = s.threads ∧ (clusterSt u (c.eng / 8)).tiles = (clusterSt s (c.eng / 8)).tiles ∧
    (clusterSt u (c.eng / 8)).claims = (clusterSt s (c.eng / 8)).claims ∧
    (engOf u c.eng).queue = (engOf s c.eng).queue ++ [id] ∧
    ((engOf s c.eng).exec = none → (s.cycle + 4, Instr.engineAccept id) ∈ u.agenda) := by
  intro u
  have hq : ∀ e, engOf (setEng s c.eng e) c.eng = e := by
    intro e
    simp only [engOf, setEng, clusterSt_setCluster_same]
    exact nth_setNth _ _ _ _ hl
  have hcl : ∀ e, clusterSt (setEng s c.eng e) (c.eng / 8) =
      { clusterSt s (c.eng / 8) with engines := setNth e (c.eng % 8) (clusterSt s (c.eng / 8)).engines } :=
    fun e => clusterSt_setCluster_same ..
  have hu : u = if (engOf s c.eng).exec.isNone then
      sched (setEng s c.eng { engOf s c.eng with queue := (engOf s c.eng).queue ++ [id] }) (s.cycle + 4) (.engineAccept id)
      else setEng s c.eng { engOf s c.eng with queue := (engOf s c.eng).queue ++ [id] } := by
    simp only [u, enqueue, hc]
  have hu2 : u.cmds = s.cmds ∧ u.threads = s.threads ∧
      u.clusters = (setEng s c.eng { engOf s c.eng with queue := (engOf s c.eng).queue ++ [id] }).clusters := by
    rw [hu]
    split <;> exact ⟨rfl, rfl, rfl⟩
  obtain ⟨h1, h2, h3⟩ := hu2
  have hst : ∀ k, clusterSt u k = clusterSt (setEng s c.eng { engOf s c.eng with queue := (engOf s c.eng).queue ++ [id] }) k := by
    intro k
    rw [clusterSt, clusterSt, h3]
  refine ⟨h1, h2, by rw [hst, hcl], by rw [hst, hcl], ?_, fun hx => ?_⟩
  · have : engOf u c.eng = engOf (setEng s c.eng { engOf s c.eng with queue := (engOf s c.eng).queue ++ [id] }) c.eng := by
      rw [engOf, engOf, hst]
    rw [this, hq]
  · rw [hu, hx, Option.isNone_none, if_pos rfl]
    exact mem_sched.mpr (.inl rfl)

section
variable {s : State} {cl id : Nat} {c : Cmd} {x : MinitX} {a : Reg}

/-- A claim whose tiles are free, or its task's, and that no earlier claim blocks may be granted. -/
theorem claimReady_minit (hop : c.op = .minit x a)
    (hf : ∀ k < 4, x.tiles.getLsbD k = true → (tileOf s cl k).owner = none ∨ (tileOf s cl k).owner = some c.owner) :
    claimReady s cl c [] = true := by
  simp only [claimReady, hop]
  refine List.all_eq_true.mpr (fun k hk => ?_)
  obtain ⟨h4, hb⟩ := mem_minitTiles.mp hk
  rcases hf k h4 hb with h | h <;> simp [h]

/-- The only claim, once it may be granted, is. -/
theorem minitClaimGrant_single (hcl : (clusterSt s cl).claims = [id]) (hc : tget id s.cmds = some c) (hr : claimReady s cl c [] = true) :
    exec (.minitClaimGrant cl) s = .next (grantClaim s cl id c) := by
  rw [exec_minitClaimGrant, execMinitClaimGrant]
  simp only [hcl, List.foldl_cons, List.foldl_nil, hc, hr, if_true]

/-- The state in which a granted claim joins its array's queue: its tiles are its task's, and it has left the claims. -/
def claimTaken (s : State) (cl id : Nat) (c : Cmd) : State :=
  let s1 := takeTiles s cl c.owner (claimTiles c)
  setCluster { s1 with cmds := tset id { c with phase := .queued } s1.cmds } cl
    { clusterSt s1 cl with claims := (clusterSt s1 cl).claims.filter (fun j => j != id) }

theorem grantClaim_earlier (hi : c.issued < s.cycle) : grantClaim s cl id c = parkAs (enqueue (claimTaken s cl id c) id) c.tid (.command id) := by
  rw [grantClaim, if_neg (Nat.ne_of_lt hi)]
  rfl

theorem claimTaken_clusterSt : clusterSt (claimTaken s cl id c) cl = { clusterSt (takeTiles s cl c.owner (claimTiles c)) cl with
    claims := (clusterSt s cl).claims.filter (fun j => j != id) } := by
  rw [claimTaken, clusterSt_setCluster_same, (takeTiles_taken s cl c.owner (claimTiles c)).claims]

theorem claimTaken_engines : (clusterSt (claimTaken s cl id c) cl).engines = (clusterSt s cl).engines := by
  rw [claimTaken_clusterSt]
  exact (takeTiles_taken s cl c.owner (claimTiles c)).engines

theorem claimTaken_owner (hop : c.op = .minit x a) (ht : (clusterSt s cl).tiles.length = 4) (k : Nat) (hk : k < 4) :
    (tileOf (claimTaken s cl id c) cl k).owner = if x.tiles.getLsbD k = true then some c.owner else (tileOf s cl k).owner := by
  have e : tileOf (claimTaken s cl id c) cl k = tileOf (takeTiles s cl c.owner (minitTiles x)) cl k := by
    rw [tileOf, claimTaken_clusterSt, claimTiles, hop]
    rfl
  rw [e, takeTiles_owner (fun j hj => ht ▸ (mem_minitTiles.mp hj).1)]
  simp [mem_minitTiles, hk]

/-- A granted claim of an earlier cycle: its tiles are its task's, it has left the claims and joined the array's queue. -/
theorem grantClaim_spec (hcl : (clusterSt s cl).claims = [id]) (hop : c.op = .minit x a)
    (he : c.eng = cl * 8 + 4) (hi : c.issued < s.cycle) (ht : (clusterSt s cl).tiles.length = 4)
    (hn : (clusterSt s cl).engines.length = 6) :
    let u := grantClaim s cl id c
    (∀ k < 4, (tileOf u cl k).owner = if x.tiles.getLsbD k = true then some c.owner else (tileOf s cl k).owner) ∧
    tget id u.cmds = some { c with phase := .queued } ∧ (clusterSt u cl).claims = [] ∧
    (engOf u c.eng).queue = (engOf s c.eng).queue ++ [id] ∧ ((getT s c.tid).isSome = true → waitOf u c.tid = some (.command id)) ∧
    ((engOf s c.eng).exec = none → (s.cycle + 4, Instr.engineAccept id) ∈ u.agenda) := by
  intro u
  have hu : u = parkAs (enqueue (claimTaken s cl id c) id) c.tid (.command id) := grantClaim_earlier hi
  have hdiv : c.eng / 8 = cl := by omega
  have hmod : c.eng % 8 = 4 := by omega
  have hget : tget id (claimTaken s cl id c).cmds = some { c with phase := .queued } := tget_tset_same ..
  have heng : engOf (claimTaken s cl id c) c.eng = engOf s c.eng := by
    rw [engOf, engOf, hdiv, claimTaken_engines]
  have hlen : c.eng % 8 < (clusterSt (claimTaken s cl id c) (c.eng / 8)).engines.length := by
    rw [hdiv, hmod, claimTaken_engines, hn]
    decide
  have hthreads : (claimTaken s cl id c).threads = s.threads := (takeTiles_taken s cl c.owner (claimTiles c)).threads
  have hcycle : (claimTaken s cl id c).cycle = s.cycle := (takeTiles_taken s cl c.owner (claimTiles c)).cycle
  obtain ⟨e1, e2, e3, e4, e5, e6⟩ := enqueue_spec hget hlen
  have hst : ∀ k, clusterSt u k = clusterSt (enqueue (claimTaken s cl id c) id) k := by
    intro k
    rw [hu, clusterSt, clusterSt, parkAs_clusters]
  simp only [hdiv, heng, hcycle] at e3 e4 e5 e6
  refine ⟨fun k hk => ?_, ?_, ?_, ?_, fun hsome => ?_, fun hx => ?_⟩
  · rw [← claimTaken_owner (id := id) hop ht k hk, tileOf, tileOf, hst, e3]
  · rw [hu, parkAs_cmds, e1, hget]
  · rw [hst, e4, claimTaken_clusterSt, hcl]
    simp
  · rw [← e5, engOf, engOf, hst]
  · obtain ⟨v, hv⟩ := Option.isSome_iff_exists.mp hsome
    rw [hu]
    exact waitOf_parkAs (t := v) (by rw [getT, e2, hthreads]; exact hv) _
  · rw [hu, parkAs_agenda]
    exact e6 hx
end

/-! ## MSTAT (13 R233) -/

/-- OWN of MSTAT: nobody's, the task's, another's of the same context, or another context's. -/
theorem ownCode_eq (s : State) (t : Thread) (o : Option Nat) : ownCode s t o = (match o with
    | none => 0
    | some k => if k = t.owner then 1 else if (getO s k).any (fun w => w.ctx == t.ctx) then 2 else 3) := by
  cases o with
  | none => rfl
  | some k =>
    simp only [ownCode]
    cases getO s k with
    | none => simp
    | some w => by_cases hw : w.ctx = t.ctx <;> simp [hw]

/-- Settles O25: each command's checks pass one by one and submit_spec says the rest; a MINIT submits or leaves a claim, and a claim that
is alone is granted. -/
theorem matrixCommandsIssue : Obligations.MatrixCommandsIssue := by
  refine ⟨?_, ?_, ?_, ?_⟩
  · intro s i t v pop hv cl dim queued rowsOk mine memory product
    have hp : ∀ x, product x → ProductFits s cl t x :=
      fun x ⟨fa, fb, meet, rows, k1, k2, k3, panels, tile⟩ => ⟨fa, fb, meet, rows, k1, k2, k3, panels, tile⟩
    refine ⟨?_, ?_, ?_, ?_, ?_, ?_⟩
    · intro x a h hf hm hp k1 k2 k3 n1 n2 ho
      exact bload_queued h hv hf hm hp k1 k2 k3 n1 n2 ho
    · intro x a h hm hr ho ht
      exact mpload_queued h hv hm hr ho ht
    · intro x a h hx hm ho
      exact mma_queued h hv (hp x hx) hm ho
    · intro x d a h hx hp0 ha hd ho hc
      exact mmad_queued h hv (hp x hx) hp0 ha hd ho hc
    · intro x y d time h hf hm hr n1 n2 hk ho ht
      exact ⟨drain_queued 0 h hv hf hm hr n1 n2 hk ho ht, drain_queued time.toNat h hv hf hm hr n1 n2 hk ho ht⟩
    · intro x y a time h ha hr n1 n2 p hp192 r1 r2 ht
      have e : p = peerOf (t.rd a) := (peerOf_eq _).symm
      rw [e] at hp192 r1 r2
      exact ⟨add_queued 0 h hv ha hr n1 n2 hp192 r1 r2 ht, add_queued time.toNat h hv ha hr n1 n2 hp192 r1 r2 ht⟩
  · intro x a s i t v pop h hv ha hx h1 h2 cl
    refine ⟨fun ho => minit_queued h hv ha hx ⟨h1, h2⟩ ho, ?_⟩
    intro later ho hn
    obtain ⟨c, before, after, hc⟩ := claimed_spec (x := x) (a := a) (t := t) hv hn
    exact ⟨_, c, before, after, minit_claims h ha hx ⟨h1, h2⟩ ho, hc⟩
  · intro cl id s c x a hcl hc hop hf he hi ht hn
    exact ⟨_, minitClaimGrant_single hcl hc (claimReady_minit hop hf), grantClaim_spec hcl hop he hi ht hn⟩
  · intro k d s i t h hd x e own
    rw [exec_mstat]
    refine issueWith_ok (pop := none) h noneBefore_nil ?_
    simp only [destOk_ok hd, ok_bind, ownCode_eq]
    rfl
end Sys2Proof.Machine

namespace Sys2Proof.Machine

/-! ## BTAG over a table its context may not reach (10 R196, 06 R101, 17 R267) -/

/-- A register used for the PORT it holds is one before a message stands for the operands too. -/
theorem unpopped_of_readsAs {s : State} {tid : Nat} {reads : List Reg} {u t : Thread} {a : Reg} (hu : ReadsAs reads u t)
    (h : (unpopped s tid t a).kind = .port) : (unpopped s tid u a).kind = .port := by
  unfold unpopped at h ⊢
  split
  · rfl
  · next hn =>
    rw [if_neg hn] at h
    rcases hu a with e | e
    · rwa [← e]
    · exact e.2

/-- BTAG whose table lies where its context reaches nothing faults PERM. -/
theorem btag_unreached {a b : Reg} {s : State} {i : Issue} {t : Thread} {pop : Option InboxEntry} {v : Nat}
    (h : reading s [a, b] [b] = some (i, t, pop)) (ha : (unpopped s i.tid t a).kind = .port) (hb : (t.rd b).kind = .cap)
    (hc : capCheck (t.rd b).bits Need.rd 0 64 = .ok v) (hv : v % 4 = 0) (hr : reach s t.ctx v false = none) :
    exec (.btag a b) s = .next (takeFault s i.tid .perm v) := by
  rw [exec_btag]
  refine issueWith_stop (st := .fault .perm v) h (noneBefore_of h (fun u hu hp => ?_)) ?_
  · simp only [needKind_ok (unpopped_of_readsAs hu ha), ok_bind]
    exact faultBefore_needKind hu hb (by decide) (fun nb => no_port_left hp (by simpa using nb))
  · simp only [needKind_ok ha, needKind_ok hb, hc, needAlign, if_pos hv, hr, ite_self, ok_bind]

/-- A fault leaves a record. -/
theorem takeFault_faults_ne_nil {s : State} {tid : Nat} {t : Thread} (h : getT s tid = some t) (c : Cause) (addr : Nat) :
    (takeFault s tid c addr).faults ≠ [] := by
  intro e
  have : tget s.nextId (takeFault s tid c addr).faults = none := by rw [e]; rfl
  simp only [takeFault, h] at this
  simp [bump, sched, fresh] at this

/-- Thread 0, with a message for the port in its register 2, is about to branch through a table in the first unit of its core's cocoon
region, which its register 3 names. -/
def tableInCocoonRegion : State :=
  { State.reset with
    threads := [(0, { newThread 0 0 32 0 0 0 GReg.zero ⟨.port, 0⟩ ⟨.cap, mkCap 0x58000 4096 0 0xFF 0⟩ GReg.zero with
      status := .issuing, size := 4 })]
    owners := [(0, bareOwner)]
    cores := [(0, { CoreSt.reset with inbox := [⟨0, 0, 0, 0, 0, 9, dataOf 77⟩] })]
    cur := some (Issue.begin 0) }

/-- Refutes O23: the statement's BTAG clause asks of the table's place only that it is the core's own local store, and not that the
context reaches it. In a state whose table lies in the cocoon region the model faults PERM (06 R101, 17 R267) where the statement has
the branch taken. -/
theorem not_messagesAndPorts : ¬ Obligations.MessagesAndPorts := by
  rintro ⟨-, -, -, btag, -⟩
  let s := tableInCocoonRegion
  let t : Thread := { newThread 0 0 32 0 0 0 GReg.zero ⟨.port, 0⟩ ⟨.cap, mkCap 0x58000 4096 0 0xFF 0⟩ GReg.zero with
    status := .issuing, size := 4 }
  have hread : reading s [2, 3] [3] = some (Issue.begin 0, t, none) := by rfl
  have hport : (unpopped s 0 t 2).kind = .port := by rfl
  have hcheck : capCheck (t.rd 3).bits Need.rd 0 64 = .ok 0x58000 := by decide +kernel
  have htaken := btag 2 3 s (Issue.begin 0) t none 0x58000 0x58000 ⟨0, 0, 0, 0, 0, 9, dataOf 77⟩ hread hport rfl hcheck rfl (by decide +kernel)
    (by decide +kernel) rfl rfl
  have hfault : exec (.btag 2 3) s = .next (takeFault s 0 .perm 0x58000) := btag_unreached hread hport rfl hcheck rfl rfl
  rw [hfault] at htaken
  refine takeFault_faults_ne_nil (s := s) (tid := 0) (t := t) rfl .perm 0x58000 ?_
  rw [Host.Outcome.next.inj htaken]
  rw [finish, setPc_faults]
  rfl
end Sys2Proof.Machine

namespace Sys2Proof.Machine

/-! ## Packets of a reduction table that is out of order (10 R200, R201) -/

/-- A reduction of cores 0 and 1, owned by thread 0, whose core 0 has sent its fold in cycle 0. -/
def foldSent : Red := ⟨0, 0, .sumI32, 0x1000, [], [(0, 5, 0)], [], Counts.zero, 0⟩

/-- A reduction of core 0 in which nothing has been sent. -/
def nothingSent : Red := ⟨0, 0, .sumI32, 0, [], [], [], Counts.zero, 0⟩

/-- Two reductions stand in the table under distinct names, the higher name first; the fold of the lower one is due. -/
def redsOutOfOrder : State := { State.reset with cycle := 100, reds := [(5, nothingSent), (3, foldSent)] }

/-- The same after the packet of core 0 has been taken: tset lays the new entry before the higher name, and the old one stays behind it. -/
def redsAfterPacket : State :=
  { redsOutOfOrder with reds := [(3, { foldSent with arrived := [0] }), (5, nothingSent), (3, foldSent)] }

/-- The cores whose folds reduction 3 has taken, once due packets are taken in a state. -/
def takenFolds (o : Host.Outcome State Fault Refusal) : Option (List Nat) :=
  match o with
  | .next u => (tget 3 u.reds).map Red.arrived
  | _ => none

/-- The one packet that is due is taken once. -/
theorem takenFolds_outOfOrder : takenFolds (exec (.combinePacket 0) redsOutOfOrder) = some [0] := by rfl

/-- The old entry still shows the packet as due, and it is taken a second time. -/
theorem takenFolds_afterPacket : takenFolds (exec (.combinePacket 0) redsAfterPacket) = some [0, 0] := by rfl

/-- Refutes O24: for COMBINE_PACKET's clause "the oldest is taken, and then the next of those that are left" distinct names are not enough,
since tset finds an entry only in a table whose names rise. In a table out of order the taken packet is due again, so taking the packets of
the state and taking those of the state after the first packet end in different states. -/
theorem not_reductionsAndFences : ¬ Obligations.ReductionsAndFences := by
  rintro ⟨⟨-, packets, -⟩, -⟩
  obtain ⟨-, -, -, next⟩ := packets 0 redsOutOfOrder
  have heq : exec (.combinePacket 0) redsOutOfOrder = exec (.combinePacket 0) redsAfterPacket :=
    next [] [] 0 0 3 foldSent (by decide) rfl (by simp) rfl rfl
  have htaken : some [0] = some [0, 0] :=
    takenFolds_outOfOrder.symm.trans ((congrArg takenFolds heq).trans takenFolds_afterPacket)
  exact absurd htaken (by decide)
end Sys2Proof.Machine

namespace Sys2Proof.Machine

/-! ## What a retirement leaves alone -/

/-- Memory and the commands of engines are the same. -/
def SameWork (s u : State) : Prop := u.mem = s.mem ∧ u.cmds = s.cmds

theorem SameWork.trans {s u v : State} (a : SameWork s u) (b : SameWork u v) : SameWork s v := ⟨b.1.trans a.1, b.2.trans a.2⟩

theorem setHolder_sameWork (s : State) (tid : Nat) (b : QWord) : SameWork s (setHolder s tid b) := by
  unfold setHolder; dsimp only; split <;> exact ⟨rfl, rfl⟩

theorem dropAhead_sameWork (s : State) (tid : Nat) : SameWork s (dropAhead s tid) := by
  unfold dropAhead; split <;> exact ⟨rfl, rfl⟩

theorem popPort_sameWork (s : State) (tid : Nat) (e : InboxEntry) : SameWork s (popPort s tid e) := by
  have holder : ∀ u, SameWork u (if e.payload.kind = .coc then setHolder u tid e.payload.bits else u) := by
    intro u; split
    · exact setHolder_sameWork ..
    · exact ⟨rfl, rfl⟩
  have pin : ∀ u, SameWork u (if e.payload.kind = .tens then sched u s.cycle (.pinDrop e.ctx (e.payload.bits.toNat % 2 ^ 20)) else u) := by
    intro u; split <;> exact ⟨rfl, rfl⟩
  have taken : SameWork s (setCore s (tid / 16) { coreSt s (tid / 16) with
      inbox := (coreSt s (tid / 16)).inbox.erase e
      nextOut := if isOverflow s tid then (coreSt s (tid / 16)).nextOut
        else setNth (nth 0 (tid % 16) (coreSt s (tid / 16)).nextOut + 1) (tid % 16) (coreSt s (tid / 16)).nextOut }) := ⟨rfl, rfl⟩
  exact taken.trans ((holder _).trans ((pin _).trans (dropAhead_sameWork _ tid)))

theorem popRetiring_sameWork (s : State) (tid : Nat) : SameWork s (popRetiring s tid) := by
  unfold popRetiring
  split
  · exact ⟨rfl, rfl⟩
  · split
    · exact popPort_sameWork (setT s tid _) tid _
    · exact ⟨rfl, rfl⟩

theorem countParked_sameWork (s : State) (tid : Nat) (t : Thread) : SameWork s (countParked s tid t) := by
  unfold countParked; split <;> exact ⟨rfl, rfl⟩

theorem retire_sameWork (s : State) (tid : Nat) : SameWork s (retire s tid) := by
  refine (popRetiring_sameWork s tid).trans ?_
  unfold retire
  dsimp only
  split
  · exact ⟨rfl, rfl⟩
  · exact countParked_sameWork (setT _ tid _) tid _

theorem retirePast_sameWork (s : State) (tid : Nat) : SameWork s (retirePast s tid) :=
  SameWork.trans ⟨advance_mem s tid, advance_cmds s tid⟩ (retire_sameWork _ tid)

theorem acceptCopy_sameWork (s : State) (id : Nat) (c : Cmd) : SameWork s (acceptCopy s id c) := by
  unfold acceptCopy
  split
  · exact ⟨rfl, rfl⟩
  · refine SameWork.trans ?_ (retirePast_sameWork _ c.tid)
    split
    · exact ⟨rfl, rfl⟩
    · dsimp only
      split
      · split
        · exact ⟨setReg_mem .., setReg_cmds ..⟩
        · exact ⟨setReg_mem .., setReg_cmds ..⟩
      · exact ⟨setReg_mem .., setReg_cmds ..⟩

/-! ## Acceptance (01 R15, 06 R119) -/

/-- An idle engine takes the next command of its queue, which starts at once or at its not-before time. -/
theorem engineAccept_takes {id : Nat} {s : State} {c : Cmd} (hc : tget id s.cmds = some c) (hp : c.phase = .queued)
    (he : (engOf s c.eng).exec = none) (hn : nextCmd s (engOf s c.eng) = some id) :
    ∃ u, exec (.engineAccept id) s = .next u ∧ tget id u.cmds = some { c with phase := .starting, accepted := s.cycle } ∧ u.mem = s.mem ∧
      (if s.time < c.notBefore then (c.notBefore, Instr.engineAtStart id) ∈ u.timed else (s.cycle, Instr.engineAtStart id) ∈ u.agenda) := by
  rw [exec_engineAccept, execEngineAccept]
  have hg : ¬ (c.phase ≠ .queued ∨ (engOf s c.eng).exec.isSome = true ∨ nextCmd s (engOf s c.eng) ≠ some id) := by simp [hp, he, hn]
  simp only [hc, if_neg hg]
  generalize hs1 : setEng { s with cmds := tset id { c with phase := .starting, accepted := s.cycle } s.cmds } c.eng _ = s1
  have h1 : tget id s1.cmds = some { c with phase := .starting, accepted := s.cycle } ∧ s1.mem = s.mem := by
    subst hs1
    exact ⟨tget_tset_same .., rfl⟩
  have h2 : SameWork s1 (if c.eng % 8 < 4 then acceptCopy s1 id c else s1) := by
    split
    · exact acceptCopy_sameWork ..
    · exact ⟨rfl, rfl⟩
  generalize (if c.eng % 8 < 4 then acceptCopy s1 id c else s1) = s2 at h2
  obtain ⟨hmem, hcmds⟩ := h2
  split
  · refine ⟨_, rfl, ?_, ?_, mem_agendaAdd.mpr (.inl rfl)⟩
    · rw [schedAt_cmds, hcmds, h1.1]
    · rw [schedAt_mem, hmem, h1.2]
  · refine ⟨_, rfl, ?_, ?_, mem_sched.mpr (.inl rfl)⟩
    · rw [sched_cmds, hcmds, h1.1]
    · rw [sched_mem, hmem, h1.2]

/-! ## Chunks (06 R107, R115; log entry 14) -/

section Chunks
variable (c : Cmd)

/-- A chunk is short of 64 bytes by less than a word. -/
theorem chunkEnd_bounds {o : Nat} (h : o < c.total) :
    o < chunkEnd c o ∧ chunkEnd c o ≤ o + 64 ∧ chunkEnd c o ≤ c.total ∧ (chunkEnd c o < c.total → o + 61 ≤ chunkEnd c o) := by
  unfold chunkEnd
  dsimp only
  split <;> omega

/-- Within a capability's destination a chunk ends at a whole word. -/
theorem chunkEnd_aligned (hk : c.d.kind = .cap) {o : Nat} (h : chunkEnd c o < c.total) : capAddr c.d.bits (chunkEnd c o) % 4 = 0 := by
  unfold chunkEnd at h ⊢
  simp only [hk, operandAddr, reduceCtorEq, if_false] at h ⊢
  split
  · next hp => rw [if_pos hp] at h; omega
  · have : (capAddr c.d.bits ((o + 64 : Nat) : Int)) % 4 ≤ o + 64 := by omega
    rw [Nat.min_eq_left this]
    unfold capAddr at this ⊢
    omega

theorem chunkAt_le_total (k : Nat) : chunkAt c k ≤ c.total := by
  induction k with
  | zero => exact Nat.zero_le _
  | succ k ih =>
    rcases Nat.lt_or_eq_of_le ih with h | h
    · exact (chunkEnd_bounds c h).2.2.1
    · show chunkEnd c (chunkAt c k) ≤ c.total
      unfold chunkEnd
      dsimp only
      split <;> omega

/-- With fuel for chunks of 61 bytes the chunks that are counted from one on reach the end, and each of them begins before it. -/
theorem chunksFrom_reaches (f k : Nat) (hf : c.total ≤ chunkAt c k + 61 * f) :
    chunkAt c (k + chunksFrom c f (chunkAt c k)) = c.total ∧ ∀ j, k ≤ j → j < k + chunksFrom c f (chunkAt c k) → chunkAt c j < c.total := by
  have hk := chunkAt_le_total c k
  induction f generalizing k with
  | zero => exact ⟨by simp only [chunksFrom, Nat.add_zero]; omega, fun j h1 h2 => by simp only [chunksFrom] at h2; omega⟩
  | succ f ih =>
    by_cases ht : c.total ≤ chunkAt c k
    · simp only [chunksFrom, if_pos ht]
      exact ⟨by rw [Nat.add_zero]; omega, fun j h1 h2 => by omega⟩
    · obtain ⟨-, -, hle, hlong⟩ := chunkEnd_bounds c (Nat.lt_of_not_le ht)
      have hnext : chunkAt c (k + 1) = chunkEnd c (chunkAt c k) := rfl
      obtain ⟨h1, h2⟩ := ih (k + 1) (by rw [hnext]; omega) (by rw [hnext]; exact hle)
      simp only [chunksFrom, if_neg ht, ← hnext]
      rw [← Nat.add_assoc]
      refine ⟨h1, fun j hj hlt => ?_⟩
      rcases Nat.eq_or_lt_of_le hj with rfl | hj
      · exact Nat.lt_of_not_le ht
      · exact h2 j hj hlt

theorem chunkAt_copyChunks : chunkAt c (copyChunks c) = c.total ∧ ∀ k < copyChunks c, chunkAt c k < c.total := by
  obtain ⟨h1, h2⟩ := chunksFrom_reaches c (c.total / 61 + 1) 0 (by simp only [chunkAt]; omega)
  rw [Nat.zero_add] at h1 h2
  exact ⟨h1, fun k hk => h2 k (Nat.zero_le k) hk⟩

theorem copyChunks_pos (h : c.total ≠ 0) : 0 < copyChunks c := by
  unfold copyChunks chunksFrom
  rw [if_neg (by omega)]
  omega

end Chunks

/-- A copy of some bytes reads its first chunk L(src) after the start, in a free rotation, and is due as 06 R115 has it. -/
theorem startCopy_spec {id : Nat} {s : State} {c : Cmd} (h : c.total ≠ 0) :
    let u := startCopy s id c
    let ls := operandTime s (c.eng / 8) c.ctx c.a (copyModes c).1 c.total
    let ld := operandTime s (c.eng / 8) c.ctx c.d (copyModes c).2 c.total
    (s.cycle + ls, Instr.copyWrite id) ∈ u.agenda ∧ ∃ c1, tget id u.cmds = some c1 ∧ c1.phase = .running ∧ c1.passed < copyChunks c ∧
      c1.due = s.cycle + ls + ceilDiv c.total 64 + ld := by
  simp only [startCopy, if_neg h]
  exact ⟨mem_agendaAdd.mpr (.inl rfl), _, tget_tset_same .., rfl, Nat.mod_lt _ (copyChunks_pos c h), rfl⟩

/-! ## The engine of a copy (06 R115-R117) -/

section CopyWrite
variable {id : Nat} {s : State} {c : Cmd}

/-- The chunk a copy deals with, where it begins and its bytes. -/
def chunkNow (c : Cmd) : Nat := (c.passed + c.dataAt) % max (copyChunks c) 1
def chunkStart (c : Cmd) : Nat := chunkAt c (chunkNow c)
def chunkBytes (c : Cmd) : Nat := chunkAt c (chunkNow c + 1) - chunkStart c

/-- A chunk that has been read is written, the last of the copy, which then completes. -/
theorem copyWrite_last (hc : tget id s.cmds = some c) (hp : c.phase = .running) (hd : c.data ≠ []) {u : State}
    (hw : writeChunk s id c (chunkStart c) c.data = .ok u) :
    let w := sched { u with cmds := tset id { c with data := [], next := c.total } u.cmds } (max s.cycle c.due) (.copyComplete id)
    exec (.copyWrite id) s = .next (if c.live then wakeFences w c.tid else w) := by
  have he : (!c.data.isEmpty) = true := by simp [hd]
  rw [exec_copyWrite, execCopyWrite]
  simp only [hc, hp, ne_eq, not_true_eq_false, if_false, he, if_true]
  unfold chunkStart chunkNow at hw
  simp only [hw]

section Reads
variable (hc : tget id s.cmds = some c) (hp : c.phase = .running) (hd : c.data = []) {c1 : Cmd}
  (hl : holdLines s c c.a (chunkStart c) (chunkBytes c) = .ok c1)
include hc hp hd hl

/-- The last chunk read is held, to be written in the copy's last cycle. -/
theorem copyWrite_readsLast (hm : c.mixed = false) {r : State × List Byte}
    (hr : cmdRead s c1 c.a (copyModes c).1 Need.rd (chunkStart c) (chunkBytes c) = .ok r)
    (hlast : c.dataAt + 1 = copyChunks c) : exec (.copyWrite id) s = .next (sched
      { bump r.1 with cmds := tset id { c1 with data := r.2 } r.1.cmds }
      (max (s.cycle + 1) (lastWrite s c (chunkStart c) (chunkBytes c))) (.copyWrite id)) := by
  rw [exec_copyWrite, execCopyWrite]
  unfold chunkBytes chunkStart chunkNow at hl hr ⊢
  simp only [hc, hp, hd, hl, hr, hm, hlast, ne_eq, not_true_eq_false, List.isEmpty_nil, Bool.not_true, Bool.false_eq_true, if_false, if_true,
    bump_cmds]

/-- Any other chunk is written as it is read. -/
theorem copyWrite_readsMore (hm : c.mixed = false) {r : State × List Byte}
    (hr : cmdRead s c1 c.a (copyModes c).1 Need.rd (chunkStart c) (chunkBytes c) = .ok r)
    (hmore : c.dataAt + 1 ≠ copyChunks c) {u : State} (hw : writeChunk (bump r.1) id c1 (chunkStart c) r.2 = .ok u) :
    exec (.copyWrite id) s = .next (sched { u with cmds := tset id { c1 with dataAt := c.dataAt + 1 } u.cmds } (s.cycle + 1) (.copyWrite id)) := by
  rw [exec_copyWrite, execCopyWrite]
  unfold chunkBytes chunkStart chunkNow at hl hr
  unfold chunkStart chunkNow at hw
  simp only [hc, hp, hd, hl, hr, hm, hmore, hw, ne_eq, not_true_eq_false, List.isEmpty_nil, Bool.not_true, Bool.false_eq_true, if_false]

/-- A violation as a chunk is read ends the copy with its address logged. -/
theorem copyWrite_readFault {x : Cause} {a : Nat}
    (hr : cmdRead s c1 c.a (copyModes c).1 Need.rd (chunkStart c) (chunkBytes c) = .error (.fault x a)) :
    exec (.copyWrite id) s =
      .next (endCmd (logCmd { s with cmds := tset id { c1 with err := some (x, a) } s.cmds } c1 1 x a) id (isRing c1)) := by
  rw [exec_copyWrite, execCopyWrite]
  unfold chunkBytes chunkStart chunkNow at hl hr
  simp only [hc, hp, hd, hl, hr, ne_eq, not_true_eq_false, List.isEmpty_nil, Bool.not_true, Bool.false_eq_true, if_false, copyStop]

end Reads

theorem copyComplete_ends (hc : tget id s.cmds = some c) (hp : c.phase = .running) :
    exec (.copyComplete id) s = .next (endCmd s id (isRing c)) := by
  rw [exec_copyComplete, execCopyComplete]
  simp only [hc, if_pos hp]

theorem copyError_ends (hc : tget id s.cmds = some c) {k : Cause} {a : Nat} (he : c.err = some (k, a)) :
    exec (.copyError id) s = .next (endCmd (logCmd s c 1 k a) id (isRing c)) := by
  rw [exec_copyError, execCopyError]
  simp only [hc, he]

end CopyWrite

/-! ## The engine of a ring (06 R118; log entries 14 and 48) -/

/-- What waking does to a thread. -/
def wokenBy (p : Nat → Thread → Wait → Bool) (tid : Nat) (t : Thread) : Thread :=
  match t.status with
  | .parked w => if p tid t w then { t with status := .wake } else t
  | _ => t

theorem getT_wakeAll (p : Nat → Thread → Wait → Bool) (s : State) (tid : Nat) :
    getT (wakeAll p s) tid = (getT s tid).map (wokenBy p tid) := by
  have : (wakeAll p s).threads = s.threads.map (fun e => (e.1, wokenBy p e.1 e.2)) := by
    unfold wakeAll wokenBy
    refine List.map_congr_left (fun e _ => ?_)
    split
    · split <;> simp_all
    · next h => simp
  rw [getT, this, tget_map]
  rfl

/-- No vector half on the core still waits for elements. -/
theorem wakeStreams_status {s : State} {core tid : Nat} {v : Thread} (h : getT (wakeStreams s core) tid = some v) (hc : tid / 16 = core) :
    v.status ≠ .parked .stream := by
  rw [wakeStreams, getT_wakeAll, Option.map_eq_some_iff] at h
  obtain ⟨t, -, rfl⟩ := h
  unfold wokenBy
  split
  · next w hw =>
    split
    · simp
    · next hn =>
      rw [hw]
      rintro ⟨⟩
      simp [hc] at hn
  · next hn => exact fun e => hn _ e

section Ring
variable {id : Nat} {s : State} {c : Cmd} {x : CpysX} {d : Reg}

/-- The elements that a delivery may bring: a line of them, those that remain, and those that the ring has room for. -/
def ringMost (x : CpysX) (c : Cmd) : Nat :=
  min (512 / fmtWidth x.fmt) (min (c.total - c.next) (ringLen c * 8 / fmtWidth x.fmt - (c.next - c.passed)))

/-- The elements that it brings: whole words of them, but at the end. -/
def ringNow (x : CpysX) (c : Cmd) : Nat :=
  if c.next + ringMost x c = c.total then ringMost x c else ringMost x c - ringMost x c % (32 / fmtWidth x.fmt)

/-- The state after the bytes of a delivery are in the ring and credited. -/
def ringPut (s : State) (id : Nat) (c : Cmd) (x : CpysX) (bs : List Byte) : State :=
  let base := capBase c.b.bits + capCur c.b.bits
  let o := c.next * fmtWidth x.fmt / 8
  let n := ringNow x c * fmtWidth x.fmt / 8
  let put := cmdWrite s id c 1 o ((List.range n).filterMap (fun j => reach s c.ctx (base + (o + j) % ringLen c) false)) bs
  match c.bar with
  | some b => (List.range n).foldl (fun u j => credit u c.owner (c.tid / 16) b 1 (base + (o + j) % ringLen c)) put
  | none => put

theorem ringWrite_delivered (hc : tget id s.cmds = some c) (hx : ringFields c = some (x, d)) (hp : c.phase = .running)
    (ha : c.dataAt ≤ s.cycle) (ht : c.total ≤ c.next) : exec (.cpysRingWrite id) s = .next (sched s s.cycle (.copyComplete id)) := by
  rw [exec_cpysRingWrite, execCpysRingWrite]
  simp [hc, hx, hp, Nat.not_lt.mpr ha, ht]

theorem ringWrite_waits (hc : tget id s.cmds = some c) (hx : ringFields c = some (x, d)) (hp : c.phase = .running)
    (ha : c.dataAt ≤ s.cycle) (ht : c.next < c.total) (hk : ringNow x c = 0) : exec (.cpysRingWrite id) s = .next s := by
  rw [exec_cpysRingWrite, execCpysRingWrite]
  unfold ringNow ringMost at hk
  simp [hc, hx, hp, Nat.not_lt.mpr ha, Nat.not_le.mpr ht, hk]

theorem ringWrite_delivers (hc : tget id s.cmds = some c) (hx : ringFields c = some (x, d)) (hp : c.phase = .running)
    (ha : c.dataAt ≤ s.cycle) (ht : c.next < c.total) (hk : ringNow x c ≠ 0) {c1 : Cmd} {r : State × List Byte}
    (hl : holdLines s c c.a (c.next * fmtWidth x.fmt / 8) (ringNow x c * fmtWidth x.fmt / 8) = .ok c1)
    (hr : cmdRead s c1 c.a x.sam Need.rd (c.next * fmtWidth x.fmt / 8) (ringNow x c * fmtWidth x.fmt / 8) = .ok r) :
    let v := ringPut r.1 id c x r.2
    let c2 := { c1 with next := c.next + ringNow x c, dataAt := s.cycle + 1 }
    exec (.cpysRingWrite id) s =
      .next (sched (wakeStreams { v with cmds := tset id c2 v.cmds } (c.tid / 16)) (s.cycle + 1) (.cpysRingWrite id)) := by
  rw [exec_cpysRingWrite, execCpysRingWrite]
  have h1 : ¬ (c.phase = .starting ∧ (!c.live) = true) := by simp [hp]
  have h2 : ¬ (c.phase ≠ .running ∨ s.cycle < c.dataAt) := by simp [hp, ha]
  simp only [hc, hx, if_neg h1, if_neg h2, if_neg (Nat.not_le.mpr ht)]
  unfold ringNow ringMost at hk hl hr
  simp only [if_neg hk, hl, hr]
  rfl

/-- An element below those the engine has dealt with is readable. -/
theorem ringReady_of_next {u : State} {tid : Nat} {b : QWord} {e : Nat × Cmd} (h : ringCmd u tid b = some e) {i : Nat} (hi : i < e.2.next) :
    ringReady u tid b i = true := by
  simp only [ringReady, h, decide_eq_true hi]

end Ring

/-- Settles O17: what acceptance, start, copy write, completion, error and ring write each answer. -/
theorem copyEngineWork : Obligations.CopyEngineWork := by
  refine ⟨fun id s c hc => ⟨engineAccept_takes hc, startCopy_spec, ⟨rfl, (chunkAt_copyChunks c).1, fun k hk => ?_⟩, ?_, fun k a he => copyError_ends hc he⟩, ?_⟩
  · obtain ⟨h1, h2, -, -⟩ := chunkEnd_bounds c ((chunkAt_copyChunks c).2 k hk)
    exact ⟨h1, h2, fun hk => chunkEnd_aligned c hk⟩
  · intro n k o len hp
    refine ⟨fun hd hm c1 hl => ⟨fun r hr => ⟨copyWrite_readsLast hc hp hd hl hm hr, fun hmore u => copyWrite_readsMore hc hp hd hl hm hr hmore⟩,
      fun x a => copyWrite_readFault hc hp hd hl⟩, fun hd u => copyWrite_last hc hp hd, copyComplete_ends hc hp⟩
  · intro id s c x d hc hx hp ha w len base k0 k o n
    refine ⟨ringWrite_delivered hc hx hp ha, fun ht hk => ringWrite_waits hc hx hp ha ht hk, fun ht hk c1 r hl hr => ?_⟩
    intro put credited c2
    refine ⟨_, ringWrite_delivers hc hx hp ha ht hk hl hr, rfl, tget_tset_same .., fun tid b i hring hi => ringReady_of_next hring hi,
      fun tid v hv ht => wakeStreams_status hv ht⟩

end Sys2Proof.Machine

namespace Sys2Proof.Machine

/-! ## The decision of a fault (21 R321, R322) -/

section Decision
variable {r : Nat} {s : State} {f : FaultRec} {o : Owner}

/-- A thread's record is no engine's. -/
theorem cmdOfRec_thread (h : f.tid < 2 ^ 32) : cmdOfRec f = none := by
  rw [cmdOfRec, if_neg (by omega)]

theorem faultDecision_ending (hf : tget r s.faults = some f) (ht : f.tid < 2 ^ 32) (ho : getO s f.owner = some o) (hp : o.phase = .ending) :
    exec (.faultDecision r) s = .next { s with faults := tdel r s.faults } := by
  rw [exec_faultDecision, execFaultDecision]
  simp [hf, ho, hp, cmdOfRec_thread ht]

/-- A fault that can be resolved goes to the memory core. -/
theorem faultDecision_resolves (hf : tget r s.faults = some f) (ho : getO s f.owner = some o) (hp : o.phase ≠ .ending)
    (hr : resolvable s f = true) :
    exec (.faultDecision r) s = .next (bump (sched s (s.cycle + 1 + Config.freeNat s.free)
      (if f.cause = Cause.xlate then Instr.xlateResolve r else .poolResolve r))) := by
  rw [exec_faultDecision, execFaultDecision]
  simp [hf, ho, hp, hr]

/-- Any other ends the task or population. -/
theorem faultDecision_ends (hf : tget r s.faults = some f) (ht : f.tid < 2 ^ 32) (ho : getO s f.owner = some o) (hp : o.phase ≠ .ending)
    (hr : resolvable s f = false) :
    exec (.faultDecision r) s = .next (endThreadFault { s with faults := tdel r s.faults } f) := by
  rw [exec_faultDecision, execFaultDecision]
  simp [hf, ho, hp, hr, cmdOfRec_thread ht]

theorem endThreadFault_eq (s : State) (f : FaultRec) : endThreadFault s f = endByFault
    (logError (writeFlt s f) f.ctx ⟨f.addr, f.taskid, 0, f.tid % 16, f.tid / 16, 0, f.cause.code, if f.cause = .softErr then 5 else 1⟩)
    f.tid f.ctx f.owner f.cause f.pc.toNat := by
  by_cases h : f.cause = .softErr <;> simp [endThreadFault, h]

end Decision

/-! ## Entries of page tables (21 R334, R335) -/

/-- Threads, clusters and the device are the same. -/
structure OnlyMemory (s u : State) : Prop where
  threads : u.threads = s.threads
  dev : u.dev = s.dev

theorem OnlyMemory.refl (s : State) : OnlyMemory s s := ⟨rfl, rfl⟩

theorem OnlyMemory.trans {s u v : State} (a : OnlyMemory s u) (b : OnlyMemory u v) : OnlyMemory s v :=
  ⟨b.threads.trans a.threads, b.dev.trans a.dev⟩

theorem cleanKeys_onlyMemory (s : State) (k n : Nat) : OnlyMemory s (cleanKeys s k n) := by
  unfold cleanKeys; split <;> exact ⟨rfl, rfl⟩

theorem putEntry_onlyMemory (s : State) (pa e : Nat) : OnlyMemory s (putEntry s pa e) :=
  have h : OnlyMemory s (putKeys s pa (toBytes 8 e)) := ⟨rfl, rfl⟩
  h.trans (cleanKeys_onlyMemory ..)

theorem setC_onlyMemory (s : State) (ctx : Nat) (c : Ctx) : OnlyMemory s (setC s ctx c) := ⟨rfl, rfl⟩

theorem entryFor_onlyMemory (s : State) (ctx va level n table : Nat) : OnlyMemory s (entryFor s ctx va level n table).1 := by
  induction n generalizing s table with
  | zero => exact .refl s
  | succ n ih =>
    simp only [entryFor]
    generalize table + 8 * (if n = 3 then bits va 39 18 else bits va (12 + 9 * n) 9) = pa
    split
    · exact .refl s
    · split
      · exact ih _ _
      · split
        · exact .refl s
        · exact (putEntry_onlyMemory s _ _).trans ((setC_onlyMemory ..).trans (ih _ _))

theorem installEntry_onlyMemory (s : State) (ctx va leaf level : Nat) : OnlyMemory s (installEntry s ctx va leaf level) := by
  unfold installEntry
  split
  · exact .refl s
  · exact (entryFor_onlyMemory ..).trans (putEntry_onlyMemory ..)

/-! ## Resolution (21 R320, R321) -/

/-- A thread that replays is ready at its old place; memory is as it was. -/
theorem replayThread_spec {s : State} {tid : Nat} {v : Thread} (h : getT s tid = some v) (f : FaultRec) :
    (∃ w, getT (replayThread s tid f) tid = some w ∧ w.status = .ready ∧ w.pc = v.pc) ∧ (replayThread s tid f).mem = s.mem := by
  simp only [replayThread, h]
  exact ⟨⟨_, getT_setT_same .., rfl, rfl⟩, rfl⟩

theorem waitOf_congr {s u : State} (h : u.threads = s.threads) (tid : Nat) : waitOf u tid = waitOf s tid := by
  rw [waitOf, waitOf, getT_congr h]

theorem getT_of_waitOf {s : State} {tid : Nat} {w : Wait} (h : waitOf s tid = some w) : ∃ v, getT s tid = some v := by
  unfold waitOf at h
  cases hg : getT s tid with
  | none => simp [hg] at h
  | some v => exact ⟨v, rfl⟩

section Resolve
variable {r : Nat} {s : State} {f : FaultRec} {c : Ctx}

/-- A resolved fault has its thread replay. -/
theorem resolved_thread {u : State} (ht : f.tid < 2 ^ 32) (hw : waitOf u f.tid = some (.faultRec r)) :
    resolved u r f = replayThread { u with faults := tdel r u.faults } f.tid f := by
  have hw' : waitOf { u with faults := tdel r u.faults } f.tid = some (.faultRec r) := hw
  simp only [resolved, cmdOfRec_thread ht, if_pos hw']

theorem xlateResolve_mapped (hf : tget r s.faults = some f) (ht : f.tid < 2 ^ 32) (hc : getC s f.ctx = some c)
    (hw : waitOf s f.tid = some (.faultRec r)) (hl : (pageWalk s f.ctx f.addr.toNat).leaf.isSome = true) :
    exec (.xlateResolve r) s = .next (replayThread { s with faults := tdel r s.faults } f.tid f) := by
  rw [exec_xlateResolve, execXlateResolve]
  simp only [hf, hc, if_pos hl, resolved_thread ht hw]

theorem xlateResolve_installs (hf : tget r s.faults = some f) (ht : f.tid < 2 ^ 32) (hc : getC s f.ctx = some c)
    (hw : waitOf s f.tid = some (.faultRec r)) (hl : (pageWalk s f.ctx f.addr.toNat).leaf = none) {b : VAddr × Nat × Nat}
    (hb : backingOf c f.addr.toNat = some b) :
    ∃ u w v, exec (.xlateResolve r) s = .next u ∧ getT s f.tid = some v ∧ getT u f.tid = some w ∧ w.status = .ready ∧ w.pc = v.pc ∧
      u.mem = (installEntry s f.ctx b.1.toNat b.2.1 b.2.2).mem := by
  have hth := (installEntry_onlyMemory s f.ctx b.1.toNat b.2.1 b.2.2).threads
  generalize hu : installEntry s f.ctx b.1.toNat b.2.1 b.2.2 = u at hth
  obtain ⟨v, hv⟩ := getT_of_waitOf hw
  have hv' : getT { u with faults := tdel r u.faults } f.tid = some v := (getT_congr hth _).trans hv
  obtain ⟨⟨w, h1, h2, h3⟩, h4⟩ := replayThread_spec hv' f
  refine ⟨_, w, v, ?_, hv, h1, h2, h3, h4⟩
  rw [exec_xlateResolve, execXlateResolve]
  simp [hf, hc, hl, hb, hu, resolved_thread ht ((waitOf_congr hth _).trans hw)]

theorem poolResolve_refills (hf : tget r s.faults = some f) (ht : f.tid < 2 ^ 32) (hc : getC s f.ctx = some c)
    (hw : waitOf s f.tid = some (.faultRec r)) : exec (.poolResolve r) s = .next (replayThread (setC { s with faults := tdel r s.faults } f.ctx
      { c with pool := c.pool + min 65536 c.reserve, reserve := c.reserve - min 65536 c.reserve }) f.tid f) := by
  rw [exec_poolResolve, execPoolResolve]
  simp only [hf, hc]
  rw [resolved_thread ht (by exact hw)]
  rfl

end Resolve

/-! ## Soft errors in a Hawkmoth engine (01 R20, 21 R325) -/

theorem softErr_held (n : Nat) (s : State) : ∃ u, exec (.softErr (.hawk n true)) s = .next u ∧ u.threads = s.threads ∧ u.mem = s.mem ∧
    (clusterSt u n).held = (clusterSt s n).held.map (fun h => { h with poisoned := true }) := by
  refine ⟨_, rfl, rfl, rfl, ?_⟩
  simp only [poisonHawk, if_true, clusterSt_setCluster_same]

theorem softErr_running {n id : Nat} {s : State} {c : Cmd} (he : (engOf s (n * 8 + 5)).exec = some id) (hc : tget id s.cmds = some c) :
    exec (.softErr (.hawk n false)) s =
      .next { s with cmds := tset id { c with run := c.run.map (fun r => { r with poisoned := true }) } s.cmds } := by
  rw [exec_softErr]
  simp only [execSoftErr, poisonHawk, Bool.false_eq_true, if_false, he, hc]

/-! ## Starting a walk (21 R337) -/

section WalkStart
variable {cl : Nat} {s : State}

theorem pageWalkStart_busy (h : 4 ≤ ((clusterSt s cl).misses.filter Miss.walking).length) : exec (.pageWalkStart cl) s = .next s := by
  rw [exec_pageWalkStart, execPageWalkStart]
  simp only [if_pos h]

theorem pageWalkStart_takes {m : Miss} (h : ((clusterSt s cl).misses.filter Miss.walking).length < 4)
    (hm : ((sortBy missOlder (clusterSt s cl).misses).take 256).find? (fun m => !m.walking) = some m) :
    ∃ u, exec (.pageWalkStart cl) s = .next u ∧
      (s.cycle + walkTime s cl m.ctx m.va, Instr.walkComplete (walkName cl m.ctx m.va)) ∈ u.agenda ∧ u.threads = s.threads ∧
      (clusterSt u cl).misses = (clusterSt s cl).misses.map (fun x => if x.ctx = m.ctx ∧ x.va = m.va then { x with walking := true } else x) := by
  rw [exec_pageWalkStart, execPageWalkStart]
  simp only [if_neg (Nat.not_le.mpr h), hm]
  refine ⟨_, rfl, mem_sched.mpr (.inr (mem_sched.mpr (.inl rfl))), rfl, ?_⟩
  exact congrArg ClusterSt.misses (clusterSt_setCluster_same s cl _)

end WalkStart

/-! ## A change of a translation (21 R338) -/

/-- A walk that goes on from a table below the top finds a leaf that lies under the table's entries. -/
theorem walkFrom_leaf_under {s : State} {va n table : Nat} {rs : List Nat} {e pb : Nat} (hn : n < 4)
    (h : (walkFrom s va n table rs).leaf = some (e, pb)) :
    (entryPa e, 2 ^ pb) ∈ (List.range 512).flatMap (fun k => leavesUnder s n (tableEntry s (table + 8 * k))) := by
  induction n generalizing table rs with
  | zero => simp [walkFrom] at h
  | succ n ih =>
    have h3 : n ≠ 3 := by omega
    have hidx : bits va (12 + 9 * n) 9 < 512 := Nat.mod_lt _ (by decide)
    refine List.mem_flatMap.mpr ⟨bits va (12 + 9 * n) 9, List.mem_range.mpr hidx, ?_⟩
    simp only [walkFrom, if_neg h3] at h
    simp only [leavesUnder]
    split at h
    · simp at h
    · next hv =>
      rw [if_neg hv]
      split at h
      · next hl =>
        rw [if_pos hl]
        split at h
        · simp at h
        · simp only [Option.some.injEq, Prod.mk.injEq] at h
          obtain ⟨rfl, rfl⟩ := h
          exact List.mem_singleton.mpr rfl
      · next hl =>
        rw [if_neg hl]
        split at h
        · simp at h
        · exact ih (by omega) h

/-- The leaf that a walk finds is among those that a change of a level's entry takes away. -/
theorem walkFrom_leaf_old {s : State} {va level n table : Nat} {rs : List Nat} {e pb : Nat} (hn : n ≤ 4)
    (h : (walkFrom s va n table rs).leaf = some (e, pb)) : (entryPa e, 2 ^ pb) ∈ oldLeaves s va level n table := by
  induction n generalizing table rs with
  | zero => simp [walkFrom] at h
  | succ n ih =>
    simp only [walkFrom] at h
    simp only [oldLeaves]
    generalize tableEntry s (table + 8 * (if n = 3 then bits va 39 18 else bits va (12 + 9 * n) 9)) = x at h ⊢
    split at h
    · simp at h
    · next hv =>
      split at h
      · next hl =>
        rw [if_pos (by simp [hl])]
        split at h
        · simp at h
        · simp only [Option.some.injEq, Prod.mk.injEq] at h
          obtain ⟨rfl, rfl⟩ := h
          simp only [leavesUnder, if_neg hv, if_pos hl, List.mem_singleton]
      · next hl =>
        split at h
        · simp at h
        · split
          · simp only [leavesUnder, if_neg hv, if_neg hl]
            exact walkFrom_leaf_under (by omega) h
          · exact ih (by omega) h

theorem mem_keys_filter {α : Type} {k : Nat} {v : α} {l : List (Nat × α)} {p : Nat × α → Bool} (h : tget k l = some v) (hp : p (k, v) = true) :
    k ∈ (l.filter p).map Prod.fst :=
  List.mem_map.mpr ⟨(k, v), List.mem_filter.mpr ⟨tget_mem h, hp⟩, rfl⟩

/-- The record of a change, as it is made. -/
def changeOf (ctx : Nat) (va : VAddr) (x : EntryChange) (level : Nat) (s : State) : XlateChange :=
  let ls := match getC s ctx with
    | some c => oldLeaves s va.toNat level 4 c.root
    | none => []
  { ctx := ctx, va := va, reply := x.reply, leaves := ls
    reqs := (s.reqs.filter (fun r => !r.2.performed && reqOf s ctx r.2 && r.2.at_.any (underLeaf ls))).map Prod.fst
    lins := (s.lins.filter (fun o => o.2.ctx == ctx && o.2.at_.any (underLeaf ls))).map Prod.fst
    tids := ((s.threads.filter (fun t => t.2.ctx == ctx)).map Prod.fst ++ (cstatPlaces s).map Prod.fst).eraseDups.filter (holdsPlace s ls) }

/-- The state after a change, before the change is recorded. -/
def entryChanged (ctx : Nat) (va : VAddr) (x : EntryChange) (level : Nat) (s : State) : State :=
  invalidate (installEntry s ctx va.toNat x.leaf level) ctx va.toNat (12 + 9 * (level - 1))

theorem translationChange_eq {level : Nat} (h1 : 1 ≤ level) (h4 : level ≤ 4) (ctx : Nat) (va : VAddr) (x : EntryChange) (s : State) :
    exec (.translationChange ctx va x level) s = .next { entryChanged ctx va x level s with
      dev := { (entryChanged ctx va x level s).dev with changes := (entryChanged ctx va x level s).dev.changes ++ [changeOf ctx va x level s] } } := by
  rw [exec_translationChange, execTranslationChange, if_neg (by omega)]
  rfl

section Change
variable {ctx level : Nat} {va : VAddr} {x : EntryChange} {s : State}

theorem changeOf_leaves {z : Ctx} (hz : getC s ctx = some z) : (changeOf ctx va x level s).leaves = oldLeaves s va.toNat level 4 z.root := by
  simp only [changeOf, hz]

theorem changeOf_leaf {e pb : Nat} (h : (pageWalk s ctx va.toNat).leaf = some (e, pb)) :
    (entryPa e, 2 ^ pb) ∈ (changeOf ctx va x level s).leaves := by
  unfold pageWalk at h
  cases hz : getC s ctx with
  | none => simp [hz] at h
  | some z =>
    rw [changeOf_leaves hz]
    simp only [hz] at h
    exact walkFrom_leaf_old (Nat.le_refl 4) h

/-- After an invalidation no cluster holds a translation of the page. -/
theorem invalidate_tlb {va pbits cl : Nat} {k : ClusterSt} {e : TlbEntry} (hk : (cl, k) ∈ (invalidate s ctx va pbits).clusters)
    (he : e ∈ k.tlb) (hc : e.ctx = ctx) : va / 2 ^ max pbits e.pbits ≠ e.va / 2 ^ max pbits e.pbits := by
  obtain ⟨c, -, hck⟩ := List.mem_map.mp hk
  obtain ⟨-, rfl⟩ := Prod.mk.inj hck
  have := (List.mem_filter.mp he).2
  simpa [hc] using this

theorem mem_changeOf_tids {k : Nat} {t : Thread} (ht : getT s k = some t) (hc : t.ctx = ctx)
    (hh : holdsPlace s (changeOf ctx va x level s).leaves k = true) : k ∈ (changeOf ctx va x level s).tids := by
  refine List.mem_filter.mpr ⟨?_, hh⟩
  rw [List.mem_eraseDups, List.mem_append]
  exact .inl (mem_keys_filter ht (by simp [hc]))

end Change

/-! ## Reporting a change (21 R338, 23 R352) -/

/-- What a change still waits for. -/
def StillOpen (s : State) (c : XlateChange) : Prop :=
  (∃ id ∈ c.reqs, ∃ r, tget id s.reqs = some r ∧ r.performed = false) ∨ (∃ id ∈ c.lins, ∃ o, tget id s.lins = some o) ∨
    ∃ k ∈ c.tids, holdsPlace s c.leaves k = true

theorem changeOpen_iff (s : State) (c : XlateChange) : changeOpen s c = true ↔ StillOpen s c := by
  simp [changeOpen, StillOpen, Option.any_eq_true, Option.isSome_iff_exists, or_assoc]

theorem reportChange_dev (s : State) (c : XlateChange) : (reportChange s c).dev = { s.dev with
    replies := s.dev.replies ++ [toBytes 8 c.va.toNat], changed := s.dev.changed ++ [(c.ctx, c.va)] } := by
  unfold reportChange replyTo
  dsimp only
  split
  · rw [(cleanKeys_onlyMemory _ _ _).dev]; rfl
  · rfl

/-- Reports leave the changes that are open, and each change reported is among those done and among the replies. -/
theorem foldl_reportChange (l : List XlateChange) (s : State) :
    (l.foldl reportChange s).dev.changes = s.dev.changes ∧
    (∀ p ∈ s.dev.changed, p ∈ (l.foldl reportChange s).dev.changed) ∧ (∀ p ∈ s.dev.replies, p ∈ (l.foldl reportChange s).dev.replies) ∧
    ∀ c ∈ l, (c.ctx, c.va) ∈ (l.foldl reportChange s).dev.changed ∧ toBytes 8 c.va.toNat ∈ (l.foldl reportChange s).dev.replies := by
  induction l generalizing s with
  | nil => exact ⟨rfl, fun _ h => h, fun _ h => h, by simp⟩
  | cons c rest ih =>
    obtain ⟨h1, h2, h3, h4⟩ := ih (reportChange s c)
    rw [reportChange_dev] at h1 h2 h3
    refine ⟨h1, fun p hp => h2 p (List.mem_append_left _ hp), fun p hp => h3 p (List.mem_append_left _ hp), fun d hd => ?_⟩
    rcases List.mem_cons.mp hd with rfl | hd
    · exact ⟨h2 _ (List.mem_append_right _ (List.mem_singleton.mpr rfl)), h3 _ (List.mem_append_right _ (List.mem_singleton.mpr rfl))⟩
    · exact h4 d hd

/-- Settling reports the changes that wait for nothing, and keeps the others. -/
theorem settleChanges_eq (s : State) : settleChanges s = (s.dev.changes.filter (fun c => !changeOpen s c)).foldl reportChange
    { s with dev := { s.dev with changes := s.dev.changes.filter (changeOpen s) } } := by
  unfold settleChanges
  split
  · next h => simp only [h, List.filter_nil, List.foldl_nil]; rw [← h]
  · rfl

theorem settleChanges_keeps {s : State} {c : XlateChange} (hc : c ∈ s.dev.changes) (h : StillOpen s c) : c ∈ (settleChanges s).dev.changes := by
  rw [settleChanges_eq, (foldl_reportChange _ _).1]
  exact List.mem_filter.mpr ⟨hc, (changeOpen_iff s c).mpr h⟩

theorem settleChanges_reports {s : State} {c : XlateChange} (hc : c ∈ s.dev.changes) (h : ¬ StillOpen s c) :
    (c.ctx, c.va) ∈ (settleChanges s).dev.changed ∧ toBytes 8 c.va.toNat ∈ (settleChanges s).dev.replies := by
  rw [settleChanges_eq]
  refine (foldl_reportChange _ _).2.2.2 c (List.mem_filter.mpr ⟨hc, ?_⟩)
  rw [Bool.not_eq_true', ← Bool.not_eq_true, changeOpen_iff]
  exact h

end Sys2Proof.Machine

namespace Sys2Proof.Machine

/-! ## What the end of a walk leaves unchanged (21 R337) -/

/-- From s to u memory, the cycle and every translation are the same, and so are the threads for which P holds; no event and no fault record of
s is lost. -/
structure WalkFrame (P : Nat → Prop) (s u : State) : Prop where
  mem : u.mem = s.mem
  cycle : u.cycle = s.cycle
  threads : ∀ j, P j → getT u j = getT s j
  tlb : ∀ j, (clusterSt u j).tlb = (clusterSt s j).tlb
  agenda : ∀ e ∈ s.agenda, e ∈ u.agenda
  ids : s.nextId ≤ u.nextId
  faults : ∀ q < s.nextId, tget q u.faults = tget q s.faults

section WalkFrame
variable {P Q : Nat → Prop} {s u v : State}

theorem WalkFrame.refl (P : Nat → Prop) (s : State) : WalkFrame P s s :=
  ⟨rfl, rfl, fun _ _ => rfl, fun _ => rfl, fun _ h => h, Nat.le_refl _, fun _ _ => rfl⟩

theorem WalkFrame.trans (a : WalkFrame P s u) (b : WalkFrame P u v) : WalkFrame P s v where
  mem := b.mem.trans a.mem
  cycle := b.cycle.trans a.cycle
  threads j h := (b.threads j h).trans (a.threads j h)
  tlb j := (b.tlb j).trans (a.tlb j)
  agenda e h := b.agenda e (a.agenda e h)
  ids := Nat.le_trans a.ids b.ids
  faults q h := (b.faults q (Nat.lt_of_lt_of_le h a.ids)).trans (a.faults q h)

theorem WalkFrame.weaken (a : WalkFrame Q s u) (h : ∀ j, P j → Q j) : WalkFrame P s u :=
  { a with threads := fun j hj => a.threads j (h j hj) }

theorem WalkFrame.foldl {α : Type} {f : State → α → State} {l : List α} (h : ∀ a ∈ l, ∀ s, WalkFrame P s (f s a)) (s : State) :
    WalkFrame P s (l.foldl f s) := by
  induction l generalizing s with
  | nil => exact .refl P s
  | cons a rest ih =>
    exact (h a (List.mem_cons_self ..) s).trans (ih (fun b hb => h b (List.mem_cons_of_mem _ hb)) _)

theorem sched_walkFrame (P : Nat → Prop) (s : State) (d : Nat) (i : Instr) : WalkFrame P s (sched s d i) :=
  { WalkFrame.refl P s with agenda := fun _ h => mem_sched.mpr (.inr h) }

theorem setT_walkFrame (s : State) (k : Nat) (t : Thread) : WalkFrame (· ≠ k) s (setT s k t) :=
  { WalkFrame.refl (fun _ => False) s with threads := fun _ h => getT_setT_ne _ h _ }

theorem setHlt_walkFrame (P : Nat → Prop) (s : State) (cl k : Nat) (e : HltEntry) : WalkFrame P s (setHlt s cl k e) where
  tlb j := by
    unfold setHlt
    by_cases h : j = cl
    · subst h; rw [clusterSt_setCluster_same]
    · rw [clusterSt_setCluster_ne _ h]
  mem := rfl
  cycle := rfl
  threads _ _ := rfl
  agenda _ h := h
  ids := Nat.le_refl _
  faults _ _ := rfl

theorem unreserve_walkFrame (P : Nat → Prop) (s : State) (k : Nat) : WalkFrame P s (unreserve s k) := by
  have h : ∀ l : List (Nat × CocOp), WalkFrame P s (l.foldl (fun u p =>
      match p.2.op with
      | .csplit _ _ _ _ =>
        let u1 := setHlt u (k / 256) p.2.x { hltEntry u (k / 256) p.2.x with state := .free }
        setHlt u1 (k / 256) p.2.y { hltEntry u1 (k / 256) p.2.y with state := .free }
      | _ => u) s) := fun l => .foldl (fun p _ u => by
    split
    · exact (setHlt_walkFrame ..).trans (setHlt_walkFrame ..)
    · exact .refl P u) s
  exact { h _ with }

theorem dropLate_walkFrame (s : State) (k : Nat) : WalkFrame (· ≠ k) s (dropLate s k) := by
  unfold dropLate
  split
  · exact .refl _ s
  · split
    · exact .refl _ s
    · refine (setT_walkFrame s k _).trans (.foldl (fun p _ u => ?_) _)
      split
      · exact sched_walkFrame ..
      · exact .refl _ u

end WalkFrame

/-! ## A fault at the end of a walk -/

/-- A thread waits for the decision of its fault of a cause. -/
def FaultTaken (u : State) (w : Thread) (k : Nat) (c : Cause) : Prop :=
  ∃ q f, w.status = .parked (.faultRec q) ∧ q < u.nextId ∧ tget q u.faults = some f ∧ f.tid = k ∧ f.cause = c

theorem FaultTaken.mono {P : Nat → Prop} {u v : State} {w : Thread} {k : Nat} {c : Cause} (h : FaultTaken u w k c) (f : WalkFrame P u v) :
    FaultTaken v w k c := by
  obtain ⟨q, r, hw, hq, hr, hk, hc⟩ := h
  exact ⟨q, r, hw, Nat.lt_of_lt_of_le hq f.ids, (f.faults q hq).trans hr, hk, hc⟩

/-- A fault is recorded under the next free name, and touches no other thread. -/
theorem takeFault_walkFrame (s : State) (k : Nat) (c : Cause) (a : Nat) : WalkFrame (· ≠ k) s (takeFault s k c a) := by
  unfold takeFault
  split
  · exact .refl _ s
  · next t _ =>
    have h := ((dropLate_walkFrame s k).trans (unreserve_walkFrame _ _ k)).trans (setT_walkFrame _ k
      { t with status := .parked (.faultRec s.nextId), popDue := none, latch := none, late := none })
    exact {
      h with
      agenda := fun e he => mem_sched.mpr (.inr (h.agenda e he))
      ids := Nat.le_succ_of_le h.ids
      faults := fun q hq => tget_tset_ne (Nat.ne_of_lt hq) .. }

theorem takeFault_taken {s : State} {k : Nat} {t : Thread} (ht : getT s k = some t) (c : Cause) (a : Nat) :
    ∃ w, getT (takeFault s k c a) k = some w ∧ w.pc = t.pc ∧ w.g = t.g ∧ FaultTaken (takeFault s k c a) w k c := by
  have h := (dropLate_walkFrame s k).trans (unreserve_walkFrame _ _ k)
  simp only [takeFault, ht]
  exact ⟨_, getT_setT_same .., rfl, rfl, s.nextId, _, rfl, Nat.lt_succ_of_le h.ids, tget_tset_same .., rfl, rfl⟩

/-! ## The end of a walk for a thread and for a command -/

theorem wake_walkFrame (s : State) (k : Nat) : WalkFrame (· ≠ k) s (wake s k) := by
  unfold wake
  split
  · exact .refl _ s
  · exact setT_walkFrame ..

theorem wakeArriver_walkFrame (s : State) (k : Nat) : WalkFrame (· ≠ k) s (wakeArriver s k) := by
  unfold wakeArriver
  split
  · exact .refl _ s
  · split
    · exact sched_walkFrame ..
    · exact wake_walkFrame s k

theorem fetchAgain_walkFrame (s : State) (k : Nat) : WalkFrame (· ≠ k) s (fetchAgain s k) := by
  unfold fetchAgain
  split
  · exact .refl _ s
  · exact setT_walkFrame ..

theorem afterWalk_walkFrame {goOn : State → Nat → State} (h : ∀ s k, WalkFrame (· ≠ k) s (goOn s k)) (r : WalkEnd) (s : State) (k x : Nat) :
    WalkFrame (· ≠ k) s (afterWalk r s k x goOn) := by
  cases r with
  | found => exact h s k
  | nothing => exact takeFault_walkFrame ..
  | soft _ => exact takeFault_walkFrame ..

theorem walkDoneThread_walkFrame (r : WalkEnd) (cl ctx va : Nat) (s : State) (e : Nat × Thread) :
    WalkFrame (· ≠ e.1) s (walkDoneThread r cl ctx va s e) := by
  unfold walkDoneThread
  split
  · split
    · split
      · exact afterWalk_walkFrame wakeArriver_walkFrame ..
      · exact .refl _ s
    · split
      · exact afterWalk_walkFrame fetchAgain_walkFrame ..
      · exact .refl _ s
    · exact .refl _ s
  · exact .refl _ s

theorem resumeCmd_walkFrame (P : Nat → Prop) (s : State) (id : Nat) (c : Cmd) : WalkFrame P s (resumeCmd s id c) := by
  unfold resumeCmd
  split <;> exact { sched_walkFrame P s _ _ with }

theorem cmdFault_walkFrame (P : Nat → Prop) (s : State) (id : Nat) (c : Cmd) (x : Cause) (a : Nat) : WalkFrame P s (cmdFault s id c x a) :=
  { WalkFrame.refl P s with
    agenda := fun _ h => mem_sched.mpr (.inr h)
    ids := Nat.le_succ _
    faults := fun _ hq => tget_tset_ne (Nat.ne_of_lt hq) .. }

/-- A command that is not held for a walk is not touched, and one that is held goes on or faults, unless the walk read a word in error. -/
theorem walkDoneCmd_walkFrame (P : Nat → Prop) {r : WalkEnd} {cl ctx va : Nat} {e : Nat × Cmd} (h : ∀ w, r = .soft w → e.2.phase ≠ .faulted)
    (s : State) : WalkFrame P s (walkDoneCmd r cl ctx va s e) := by
  unfold walkDoneCmd
  split
  · next hp =>
    split
    · split
      · cases r with
        | found => exact resumeCmd_walkFrame ..
        | nothing => exact cmdFault_walkFrame ..
        | soft w => exact absurd hp.2.2 (h w rfl)
      · exact .refl P s
    · exact .refl P s
  · exact .refl P s

/-! ## What a thread that waited for the page finds -/

/-- A thread that waited goes on, an arriver in its next turn, or has faulted. -/
def WalkOutcome (r : WalkEnd) (c k : Nat) (t : Thread) (u : State) : Prop :=
  ∃ w, getT u k = some w ∧ w.pc = t.pc ∧ w.g = t.g ∧
    match r with
    | .found => if t.bundle.any (fun b => arrives b.first) then
        w.status = t.status ∧ (turnAfter c (k % 16), Instr.arrivalCounted k) ∈ u.agenda else w.status = .wake
    | .nothing => FaultTaken u w k .xlate
    | .soft _ => FaultTaken u w k .softErr

section Outcome
variable {r : WalkEnd} {cl ctx va k x : Nat} {t : Thread} {s u v : State}

theorem WalkOutcome.mono {P : Nat → Prop} {c : Nat} (h : WalkOutcome r c k t u) (f : WalkFrame P u v) (hk : P k) : WalkOutcome r c k t v := by
  obtain ⟨w, hw, hpc, hg, ho⟩ := h
  refine ⟨w, (f.threads k hk).trans hw, hpc, hg, ?_⟩
  cases r with
  | found =>
    dsimp only at ho ⊢
    by_cases ha : t.bundle.any (fun b => arrives b.first) = true
    · rw [if_pos ha] at ho ⊢
      exact ⟨ho.1, f.agenda _ ho.2⟩
    · rw [if_neg ha] at ho ⊢
      exact ho
  | nothing => exact ho.mono f
  | soft _ => exact ho.mono f

theorem wakeArriver_outcome (ht : getT s k = some t) : WalkOutcome .found s.cycle k t (wakeArriver s k) := by
  simp only [WalkOutcome, wakeArriver, ht]
  split
  · exact ⟨t, ht, rfl, rfl, rfl, mem_sched.mpr (.inl rfl)⟩
  · simp only [wake, ht]
    exact ⟨_, getT_setT_same .., rfl, rfl, rfl⟩

theorem afterWalk_outcome (r : WalkEnd) (ht : getT s k = some t) : WalkOutcome r s.cycle k t (afterWalk r s k x wakeArriver) := by
  cases r with
  | found => exact wakeArriver_outcome ht
  | nothing => exact takeFault_taken ht ..
  | soft _ => exact takeFault_taken ht ..

theorem walkDoneThread_outcome (r : WalkEnd) (ht : getT s k = some t) (hcl : k / 256 = cl) (hctx : t.ctx = ctx) (hs : t.status = .parked (.walk x))
    (hx : pageOf x = va) : WalkOutcome r s.cycle k t (walkDoneThread r cl ctx va s (k, t)) := by
  simp only [walkDoneThread, hcl, hctx, hs, hx, and_self, if_true]
  exact afterWalk_outcome r ht

end Outcome

/-! ## The walk's end as a whole -/

theorem risingFrom_le {α : Type} {lo : Nat} {l : List (Nat × α)} (h : risingFrom lo l = true) : ∀ e ∈ l, lo ≤ e.1 := by
  induction l generalizing lo with
  | nil => simp
  | cons a rest ih =>
    simp only [risingFrom, Bool.and_eq_true, decide_eq_true_eq] at h
    intro e he
    rcases List.mem_cons.mp he with rfl | he
    · exact h.1
    · exact Nat.le_trans h.1 (Nat.le_of_succ_le (ih h.2 e he))

/-- In a table whose keys rise every key stands once. -/
theorem pairwise_of_risingFrom {α : Type} {lo : Nat} {l : List (Nat × α)} (h : risingFrom lo l = true) : l.Pairwise (fun a b => a.1 < b.1) := by
  induction l generalizing lo with
  | nil => exact .nil
  | cons a rest ih =>
    simp only [risingFrom, Bool.and_eq_true, decide_eq_true_eq] at h
    exact .cons (fun e he => risingFrom_le h.2 e he) (ih h.2)

theorem exists_split_of_threadsOk {s : State} (h : ThreadsOk s) {k : Nat} {t : Thread} (ht : getT s k = some t) :
    ∃ l₁ l₂, s.threads = l₁ ++ (k, t) :: l₂ ∧ (∀ e ∈ l₁, e.1 ≠ k) ∧ ∀ e ∈ l₂, e.1 ≠ k := by
  obtain ⟨l₁, l₂, hl⟩ := List.append_of_mem (tget_mem ht)
  have hp := pairwise_of_risingFrom h
  rw [hl, List.pairwise_append, List.pairwise_cons] at hp
  obtain ⟨-, ⟨h2, -⟩, h1⟩ := hp
  exact ⟨l₁, l₂, hl, fun e he => Nat.ne_of_lt (h1 e he _ (List.mem_cons_self ..)), fun e he => Nat.ne_of_gt (h2 e he)⟩

theorem walkName_va (cl ctx : Nat) {va : Nat} (h : va < 2 ^ 57) : walkName cl ctx va % 2 ^ 57 = va := by unfold walkName; omega
theorem walkName_ctx (cl : Nat) {ctx va : Nat} (hc : ctx < 64) (h : va < 2 ^ 57) : walkName cl ctx va / 2 ^ 57 % 64 = ctx := by unfold walkName; omega
theorem walkName_cl (cl : Nat) {ctx va : Nat} (hc : ctx < 64) (h : va < 2 ^ 57) : walkName cl ctx va / 2 ^ 63 = cl := by unfold walkName; omega

section WalkEnds
variable {cl ctx va : Nat} {s : State}

/-- The translations of a cluster as a walk of its leaves them. -/
def tlbAfter (s : State) (cl ctx va : Nat) : List TlbEntry :=
  match (if walkEnd s ctx va = .found then (pageWalk s ctx va).leaf else none) with
  | some (e, pb) => (⟨ctx, va / 2 ^ pb * 2 ^ pb, pb, e⟩ :: (clusterSt s cl).tlb).take 4096
  | none => (clusterSt s cl).tlb

/-- The page is no longer missing, and the cluster holds what the walk found. -/
def walkHeld (s : State) (cl ctx va : Nat) : State :=
  setCluster s cl { clusterSt s cl with misses := (clusterSt s cl).misses.filter (fun m => m.ctx != ctx || m.va != va), tlb := tlbAfter s cl ctx va }

/-- A state when a walk has ended for the threads and commands that waited. -/
def walkEnded (s : State) (cl ctx va : Nat) : State :=
  sched (s.cmds.foldl (walkDoneCmd (walkEnd s ctx va) cl ctx va)
    (s.threads.foldl (walkDoneThread (walkEnd s ctx va) cl ctx va) (walkHeld s cl ctx va))) s.cycle (.pageWalkStart cl)

theorem walkComplete_eq (hc : ctx < 64) (hv : va < 2 ^ 57)
    (hm : (clusterSt s cl).misses.any (fun m => m.ctx == ctx && m.va == va && m.walking) = true) :
    exec (.walkComplete (walkName cl ctx va)) s = .next (walkEnded s cl ctx va) := by
  rw [exec_walkComplete, execWalkComplete]
  simp only [walkName_va _ _ hv, walkName_ctx _ hc hv, walkName_cl _ hc hv, if_pos hm]
  rfl

theorem walkEnd_soft_iff : (∃ w, walkEnd s ctx va = .soft w) ↔ (walkPoison s ctx va).isSome = true := by
  unfold walkEnd
  cases walkPoison s ctx va with
  | some w => simp
  | none => by_cases h : (pageWalk s ctx va).leaf.isSome = true <;> simp [h]

theorem walkEnd_found (hp : walkPoison s ctx va = none) (hl : (pageWalk s ctx va).leaf.isSome = true) : walkEnd s ctx va = .found := by
  simp only [walkEnd, hp, if_pos hl]

theorem walkEnd_nothing (hp : walkPoison s ctx va = none) (hl : (pageWalk s ctx va).leaf = none) : walkEnd s ctx va = .nothing := by
  simp [walkEnd, hp, hl]

theorem tlbAfter_found {e pb : Nat} (hp : walkPoison s ctx va = none) (hl : (pageWalk s ctx va).leaf = some (e, pb)) :
    tlbAfter s cl ctx va = (⟨ctx, va / 2 ^ pb * 2 ^ pb, pb, e⟩ :: (clusterSt s cl).tlb).take 4096 := by
  simp only [tlbAfter, walkEnd_found hp (by rw [hl]; rfl), if_true, hl]

/-- Commands are held for a walk only where it reads no word in error. -/
def NoSoftCommand (s : State) (ctx va : Nat) : Prop := walkPoison s ctx va = none ∨ ∀ e ∈ s.cmds, e.2.phase ≠ .faulted

theorem walkDoneCmds_walkFrame (P : Nat → Prop) (h : NoSoftCommand s ctx va) (u : State) :
    WalkFrame P u (sched (s.cmds.foldl (walkDoneCmd (walkEnd s ctx va) cl ctx va) u) s.cycle (.pageWalkStart cl)) := by
  refine (WalkFrame.foldl (fun e he u => walkDoneCmd_walkFrame P (fun w hw => ?_) u) u).trans (sched_walkFrame ..)
  refine h.elim (fun hn => ?_) (fun hf => hf e he)
  have := walkEnd_soft_iff.mp ⟨w, hw⟩
  simp [hn] at this

/-- The end of a walk changes nothing of memory, and no translation but the cluster's. -/
theorem walkEnded_walkFrame (h : NoSoftCommand s ctx va) : WalkFrame (fun _ => False) (walkHeld s cl ctx va) (walkEnded s cl ctx va) :=
  (WalkFrame.foldl (fun e _ u => (walkDoneThread_walkFrame _ cl ctx va u e).weaken (fun _ hj => hj.elim)) _).trans (walkDoneCmds_walkFrame _ h _)

theorem walkEnded_tlb (h : NoSoftCommand s ctx va) : (clusterSt (walkEnded s cl ctx va) cl).tlb = tlbAfter s cl ctx va := by
  rw [(walkEnded_walkFrame h).tlb, walkHeld, clusterSt_setCluster_same]

/-- A thread that waited for the page is reached once, and nothing later touches it. -/
theorem walkEnded_outcome (hs : ThreadsOk s) (h : NoSoftCommand s ctx va) {k x : Nat} {t : Thread} (ht : getT s k = some t) (hcl : k / 256 = cl)
    (hctx : t.ctx = ctx) (hst : t.status = .parked (.walk x)) (hx : pageOf x = va) :
    WalkOutcome (walkEnd s ctx va) s.cycle k t (walkEnded s cl ctx va) := by
  obtain ⟨l₁, l₂, hl, h1, h2⟩ := exists_split_of_threadsOk hs ht
  have frame : ∀ l : List (Nat × Thread), (∀ e ∈ l, e.1 ≠ k) → ∀ u,
      WalkFrame (· = k) u (l.foldl (walkDoneThread (walkEnd s ctx va) cl ctx va) u) := fun l hne =>
    .foldl (fun e he u => (walkDoneThread_walkFrame _ cl ctx va u e).weaken (fun _ hj => hj ▸ (hne e he).symm))
  have before := frame l₁ h1 (walkHeld s cl ctx va)
  have here := walkDoneThread_outcome (walkEnd s ctx va) ((before.threads k rfl).trans ht) hcl hctx hst hx
  rw [before.cycle] at here
  unfold walkEnded
  rw [hl, List.foldl_append, List.foldl_cons]
  exact (here.mono (frame l₂ h2 _) rfl).mono (walkDoneCmds_walkFrame (· = k) h _) rfl

end WalkEnds

/-! ## The obligation -/

/-- A page's walk ends as 21 R337 says: what it found is held, and each thread that waited goes on or faults. -/
theorem walkComplete_ends {cl ctx va : Nat} {s : State} (hs : ThreadsOk s) (hc : ctx < 64) (hv : va < 2 ^ 57)
    (hm : (clusterSt s cl).misses.any (fun m => m.ctx == ctx && m.va == va && m.walking) = true) (h : NoSoftCommand s ctx va) :
    ∃ u, exec (.walkComplete (walkName cl ctx va)) s = .next u ∧ u.mem = s.mem ∧
      (∀ e pb, walkPoison s ctx va = none → (pageWalk s ctx va).leaf = some (e, pb) →
        (clusterSt u cl).tlb = (⟨ctx, va / 2 ^ pb * 2 ^ pb, pb, e⟩ :: (clusterSt s cl).tlb).take 4096) ∧
      ∀ k t x, getT s k = some t → k / 256 = cl → t.ctx = ctx → t.status = .parked (.walk x) → pageOf x = va →
        WalkOutcome (walkEnd s ctx va) s.cycle k t u :=
  ⟨_, walkComplete_eq hc hv hm, (walkEnded_walkFrame h).mem, fun _ _ hp hl => (walkEnded_tlb h).trans (tlbAfter_found hp hl),
    fun _ _ _ ht hcl hctx hst hx => walkEnded_outcome hs h ht hcl hctx hst hx⟩

/-- What a thread finds, by what the walk read. -/
theorem WalkOutcome.cases {s u : State} {ctx va c k : Nat} {t : Thread} (h : WalkOutcome (walkEnd s ctx va) c k t u) :
    ∃ w, getT u k = some w ∧ w.pc = t.pc ∧ w.g = t.g ∧
      (walkPoison s ctx va = none → (pageWalk s ctx va).leaf.isSome = true → if t.bundle.any (fun b => arrives b.first)
        then w.status = t.status ∧ (turnAfter c (k % 16), Instr.arrivalCounted k) ∈ u.agenda else w.status = .wake) ∧
      ((walkPoison s ctx va).isSome = true ∨ (pageWalk s ctx va).leaf = none → ∃ r f, w.status = .parked (.faultRec r) ∧
        tget r u.faults = some f ∧ f.tid = k ∧ f.cause = (if (walkPoison s ctx va).isSome then .softErr else .xlate)) := by
  obtain ⟨w, hw, hpc, hg, ho⟩ := h
  refine ⟨w, hw, hpc, hg, fun hp hl => ?_, fun hno => ?_⟩
  · rwa [walkEnd_found hp hl] at ho
  · by_cases hp : (walkPoison s ctx va).isSome = true
    · obtain ⟨word, hword⟩ := walkEnd_soft_iff.mpr hp
      rw [hword] at ho
      obtain ⟨q, f, hst, -, hf, hk, hcause⟩ := ho
      exact ⟨q, f, hst, hf, hk, by rw [if_pos hp, hcause]⟩
    · rw [walkEnd_nothing (by simpa using hp) (hno.resolve_left hp)] at ho
      obtain ⟨q, f, hst, -, hf, hk, hcause⟩ := ho
      exact ⟨q, f, hst, hf, hk, by rw [if_neg hp, hcause]⟩

/-- Settles O38. A fault's decision and its resolution are settled branch by branch; the end of a walk keeps what it does not wake (`WalkFrame`) and
reaches each waiting thread once, as names rise; a change's record holds every leaf a walk could have found. -/
theorem faultDecisionsAndWalks : Obligations.FaultDecisionsAndWalks := by
  unfold Obligations.FaultDecisionsAndWalks
  refine ⟨⟨?decision, ?resolution, ?softErrors⟩, ?start, ?complete, ?change, ?report⟩
  case decision =>
    intro r s f o hf ht ho
    refine ⟨faultDecision_ending hf ht ho, fun hp hr => ?_, fun hp hr => ?_⟩
    · exact ⟨_, _, faultDecision_resolves hf ho hp hr, by omega, mem_sched.mpr (.inl rfl), rfl, rfl⟩
    · rw [faultDecision_ends hf ht ho hp hr, endThreadFault_eq]
  case resolution =>
    intro r s f c hf ht hc hw
    exact ⟨xlateResolve_mapped hf ht hc hw, fun b hl hb => xlateResolve_installs hf ht hc hw hl hb, poolResolve_refills hf ht hc hw⟩
  case softErrors =>
    intro key tid n s
    exact ⟨rfl, rfl, softErr_held n s, fun _ _ he hc => softErr_running he hc, rfl⟩
  case start =>
    intro cl s
    exact ⟨pageWalkStart_busy, fun _ => pageWalkStart_takes⟩
  case complete =>
    intro cl ctx va s hs hc hv hm h
    obtain ⟨u, hu, hmem, htlb, ho⟩ := walkComplete_ends hs hc hv hm h
    exact ⟨u, hu, hmem, htlb, fun k t x ht hcl hctx hst hx => (ho k t x ht hcl hctx hst hx).cases⟩
  case change =>
    intro ctx va x level s h1 h4
    refine ⟨_, changeOf ctx va x level s, translationChange_eq h1 h4 ctx va x s, (installEntry_onlyMemory ..).threads, ?_, rfl, rfl, rfl,
      fun _ _ _ => invalidate_tlb, fun _ _ => changeOf_leaf, fun _ => changeOf_leaves, ?_, ?_, fun _ _ => mem_changeOf_tids⟩
    · exact congrArg (fun d : Device => d.changes ++ [changeOf ctx va x level s]) (installEntry_onlyMemory ..).dev
    · intro id r hr hp hq ha
      exact mem_keys_filter hr (by simp only [hp, hq, Bool.not_false, Bool.true_and]; exact ha)
    · intro id o ho hc ha
      exact mem_keys_filter ho (by simp only [hc, beq_self_eq_true, Bool.true_and]; exact ha)
  case report =>
    intro s c hc
    exact ⟨settleChanges_keeps hc, settleChanges_reports hc⟩

end Sys2Proof.Machine

namespace Sys2Proof

/-! ## Fields of a word (02 R21-R26) -/

theorem bitOf_le (b : Bool) : bitOf b ≤ 1 := by cases b <;> decide

theorem bfld_of_mod {w k : Nat} {b : Bool} (h : w / 2 ^ k % 2 = bitOf b) : bfld w k = b := by
  rw [bfld, h]; cases b <;> rfl

theorem bfld_false_of_mod {w k : Nat} (h : w / 2 ^ k % 2 = 0) : bfld w k = false := by rw [bfld, h]; rfl

theorem vfld_of_mod {k w lo : Nat} {v : BitVec k} (h : w / 2 ^ lo % 2 ^ k = v.toNat) : vfld k w lo = v :=
  BitVec.eq_of_toNat_eq (by rw [vfld, BitVec.toNat_ofNat, h])

theorem ifld_of_mod {n w lo : Nat} {h0 : 0 < n} {v : Fin n} (h : w / 2 ^ lo % n = v.val) : ifld n h0 w lo = v := Fin.ext h

theorem rfld_of_mod {w lo : Nat} {r : Reg} (h : w / 2 ^ lo % 32 = r.val) : rfld w lo = r := Fin.ext h

theorem mfld_of_mod {w lo : Nat} {m : MReg} (h : w / 2 ^ lo % 8 = m.val) : mfld w lo = m := Fin.ext h

/-- A field that a word's low k bits fill. -/
@[simp] theorem fld_zero {x k : Nat} (h : x < 2 ^ k) : fld x 0 k = x := by
  rw [fld, Nat.pow_zero, Nat.div_one, Nat.mod_eq_of_lt h]

@[simp] theorem rfld_val (r : Reg) : rfld r.val 0 = r := rfld_of_mod (by omega)
@[simp] theorem vfld_toNat {k : Nat} (v : BitVec k) : vfld k v.toNat 0 = v := vfld_of_mod (by simp)
@[simp] theorem ifld_val {n : Nat} (h0 : 0 < n) (v : Fin n) : ifld n h0 v.val 0 = v := ifld_of_mod (by simp [Nat.mod_eq_of_lt])

section FirstWord
variable {f b a d maj l : Nat}

@[simp] theorem packF_length (hl : l < 4) : fld (packF f b a d maj + l) 0 2 = l := by
  simp only [fld, packF]; omega

@[simp] theorem packF_major (hl : l < 4) (hm : maj < 64) : fld (packF f b a d maj + l) 2 6 = maj := by
  simp only [fld, packF]; omega

@[simp] theorem packF_d (hl : l < 4) (hm : maj < 64) (hd : d < 32) : rfld (packF f b a d maj + l) 8 = ⟨d, hd⟩ :=
  rfld_of_mod (by simp only [packF]; omega)

@[simp] theorem packF_a (hl : l < 4) (hm : maj < 64) (hd : d < 32) (ha : a < 32) : rfld (packF f b a d maj + l) 13 = ⟨a, ha⟩ :=
  rfld_of_mod (by simp only [packF]; omega)

@[simp] theorem packF_b (hl : l < 4) (hm : maj < 64) (hd : d < 32) (ha : a < 32) (hb : b < 32) :
    rfld (packF f b a d maj + l) 18 = ⟨b, hb⟩ :=
  rfld_of_mod (by simp only [packF]; omega)

theorem packF_shift18 (hl : l < 4) (hm : maj < 64) (hd : d < 32) (ha : a < 32) {lo : Nat} (h18 : 18 ≤ lo) :
    (packF f b a d maj + l) / 2 ^ lo = (f * 32 + b) / 2 ^ (lo - 18) := by
  obtain ⟨j, rfl⟩ := Nat.exists_eq_add_of_le h18
  have h : (packF f b a d maj + l) / 2 ^ 18 = f * 32 + b := by simp only [packF]; omega
  rw [Nat.pow_add, ← Nat.div_div_eq_div_mul, h, Nat.add_sub_cancel_left]

/-- What stands above bit 23 is the word's F. -/
theorem packF_shift23 (hl : l < 4) (hm : maj < 64) (hd : d < 32) (ha : a < 32) (hb : b < 32) {lo : Nat} (h23 : 23 ≤ lo) :
    (packF f b a d maj + l) / 2 ^ lo = f / 2 ^ (lo - 23) := by
  obtain ⟨j, rfl⟩ := Nat.exists_eq_add_of_le h23
  have h : (packF f b a d maj + l) / 2 ^ 23 = f := by simp only [packF]; omega
  rw [Nat.pow_add, ← Nat.div_div_eq_div_mul, h, Nat.add_sub_cancel_left]

@[simp] theorem packF_fld (hl : l < 4) (hm : maj < 64) (hd : d < 32) (ha : a < 32) (hb : b < 32) {lo : Nat} (h23 : 23 ≤ lo) (k : Nat) :
    fld (packF f b a d maj + l) lo k = fld f (lo - 23) k := by
  simp only [fld, packF_shift23 hl hm hd ha hb h23]

@[simp] theorem packF_bfld (hl : l < 4) (hm : maj < 64) (hd : d < 32) (ha : a < 32) (hb : b < 32) {k : Nat} (h23 : 23 ≤ k) :
    bfld (packF f b a d maj + l) k = bfld f (k - 23) := by
  simp only [bfld, packF_shift23 hl hm hd ha hb h23]

@[simp] theorem packF_vfld (hl : l < 4) (hm : maj < 64) (hd : d < 32) (ha : a < 32) (hb : b < 32) {lo : Nat} (h23 : 23 ≤ lo) (k : Nat) :
    vfld k (packF f b a d maj + l) lo = vfld k f (lo - 23) := by
  simp only [vfld, packF_shift23 hl hm hd ha hb h23]

@[simp] theorem packF_ifld (hl : l < 4) (hm : maj < 64) (hd : d < 32) (ha : a < 32) (hb : b < 32) {lo : Nat} (h23 : 23 ≤ lo) (n : Nat) (h0 : 0 < n) :
    ifld n h0 (packF f b a d maj + l) lo = ifld n h0 f (lo - 23) := by
  simp only [ifld, packF_shift23 hl hm hd ha hb h23]

@[simp] theorem packF_rfld (hl : l < 4) (hm : maj < 64) (hd : d < 32) (ha : a < 32) (hb : b < 32) {lo : Nat} (h23 : 23 ≤ lo) :
    rfld (packF f b a d maj + l) lo = rfld f (lo - 23) := by
  simp only [rfld, packF_shift23 hl hm hd ha hb h23]

/-- A field within B. -/
@[simp] theorem packF_fld_b (hl : l < 4) (hm : maj < 64) (hd : d < 32) (ha : a < 32) {lo k : Nat} (h18 : 18 ≤ lo) (hk : lo + k ≤ 23) :
    fld (packF f b a d maj + l) lo k = fld b (lo - 18) k := by
  have e : f * 32 + b = b + 2 ^ (lo - 18) * (2 ^ k * (2 ^ (23 - lo - k) * f)) := by
    rw [← Nat.mul_assoc, ← Nat.mul_assoc, ← Nat.pow_add, ← Nat.pow_add, show lo - 18 + k + (23 - lo - k) = 5 by omega]; omega
  rw [fld, packF_shift18 hl hm hd ha h18, e, Nat.add_mul_div_left _ _ (by positivity), Nat.add_mul_mod_self_left, fld]

@[simp] theorem packF_bfld_b (hl : l < 4) (hm : maj < 64) (hd : d < 32) (ha : a < 32) {k : Nat} (h18 : 18 ≤ k) (hk : k < 23) :
    bfld (packF f b a d maj + l) k = bfld b (k - 18) := by
  have := packF_fld_b (f := f) (b := b) hl hm hd ha h18 (k := 1) (by omega)
  simp only [fld, Nat.pow_one] at this
  rw [bfld, this, bfld]

end FirstWord

@[simp] theorem fld_of_zero (lo k : Nat) : fld 0 lo k = 0 := by simp [fld]
@[simp] theorem bfld_of_zero (k : Nat) : bfld 0 k = false := by simp [bfld]

/-- Nothing stands above a value. -/
@[simp] theorem fld_above {x lo : Nat} (h : x < 2 ^ lo) (k : Nat) : fld x lo k = 0 := by rw [fld, Nat.div_eq_of_lt h, Nat.zero_mod]
@[simp] theorem bfld_above {x k : Nat} (h : x < 2 ^ k) : bfld x k = false := by rw [bfld, Nat.div_eq_of_lt h]; rfl
@[simp] theorem bfld_bitOf (b : Bool) : bfld (bitOf b) 0 = b := by cases b <;> rfl

section Reg
variable {md fn b a d maj l : Nat}

theorem fld_mod_fn (h : fn < 16) : fld (md * 16 + fn) 0 4 = fn := by simp only [fld]; omega

@[simp] theorem packReg_length (hl : l < 4) : fld (packReg md fn b a d maj + l) 0 2 = l := packF_length hl
@[simp] theorem packReg_major (hl : l < 4) (hm : maj < 64) : fld (packReg md fn b a d maj + l) 2 6 = maj := packF_major hl hm
@[simp] theorem packReg_d (hl : l < 4) (hm : maj < 64) (hd : d < 32) : rfld (packReg md fn b a d maj + l) 8 = ⟨d, hd⟩ := packF_d hl hm hd
@[simp] theorem packReg_a (hl : l < 4) (hm : maj < 64) (hd : d < 32) (ha : a < 32) : rfld (packReg md fn b a d maj + l) 13 = ⟨a, ha⟩ :=
  packF_a hl hm hd ha
@[simp] theorem packReg_b (hl : l < 4) (hm : maj < 64) (hd : d < 32) (ha : a < 32) (hb : b < 32) :
    rfld (packReg md fn b a d maj + l) 18 = ⟨b, hb⟩ := packF_b hl hm hd ha hb
@[simp] theorem packReg_fn (hl : l < 4) (hm : maj < 64) (hd : d < 32) (ha : a < 32) (hb : b < 32) (hf : fn < 16) :
    fld (packReg md fn b a d maj + l) 23 4 = fn := (packF_fld hl hm hd ha hb le_rfl 4).trans (fld_mod_fn hf)

@[simp] theorem packReg_fld_b (hl : l < 4) (hm : maj < 64) (hd : d < 32) (ha : a < 32) {lo k : Nat} (h18 : 18 ≤ lo) (hk : lo + k ≤ 23) :
    fld (packReg md fn b a d maj + l) lo k = fld b (lo - 18) k := packF_fld_b hl hm hd ha h18 hk
@[simp] theorem packReg_bfld_b (hl : l < 4) (hm : maj < 64) (hd : d < 32) (ha : a < 32) {k : Nat} (h18 : 18 ≤ k) (hk : k < 23) :
    bfld (packReg md fn b a d maj + l) k = bfld b (k - 18) := packF_bfld_b hl hm hd ha h18 hk
@[simp] theorem packReg_fld9 (hl : l < 4) (hm : maj < 64) (hd : d < 32) (ha : a < 32) (hb : b < 32) (hf : md * 16 + fn < 512) :
    fld (packReg md fn b a d maj + l) 23 9 = md * 16 + fn := (packF_fld hl hm hd ha hb le_rfl 9).trans (fld_zero hf)
@[simp] theorem packReg_mfldOk_d (hl : l < 4) (hm : maj < 64) (hd : d < 8) : mfldOk (packReg md fn b a d maj + l) 8 = true := by
  simp only [mfldOk, packReg, packF, beq_iff_eq]; omega
@[simp] theorem packReg_mfldOk_a (hl : l < 4) (hm : maj < 64) (hd : d < 32) (ha : a < 8) : mfldOk (packReg md fn b a d maj + l) 13 = true := by
  simp only [mfldOk, packReg, packF, beq_iff_eq]; omega
@[simp] theorem packReg_mfldOk_b (hl : l < 4) (hm : maj < 64) (hd : d < 32) (ha : a < 32) (hb : b < 8) :
    mfldOk (packReg md fn b a d maj + l) 18 = true := by
  simp only [mfldOk, packReg, packF, beq_iff_eq]; omega
@[simp] theorem packReg_mfld_d (hl : l < 4) (hm : maj < 64) (hd : d < 8) : mfld (packReg md fn b a d maj + l) 8 = ⟨d, hd⟩ :=
  mfld_of_mod (by simp only [packReg, packF]; omega)
@[simp] theorem packReg_mfld_a (hl : l < 4) (hm : maj < 64) (hd : d < 32) (ha : a < 8) : mfld (packReg md fn b a d maj + l) 13 = ⟨a, ha⟩ :=
  mfld_of_mod (by simp only [packReg, packF]; omega)
@[simp] theorem packReg_mfld_b (hl : l < 4) (hm : maj < 64) (hd : d < 32) (ha : a < 32) (hb : b < 8) :
    mfld (packReg md fn b a d maj + l) 18 = ⟨b, hb⟩ :=
  mfld_of_mod (by simp only [packReg, packF]; omega)

theorem packReg_shift27 (hl : l < 4) (hm : maj < 64) (hd : d < 32) (ha : a < 32) (hb : b < 32) (hf : fn < 16) {lo : Nat} (h27 : 27 ≤ lo) :
    (packReg md fn b a d maj + l) / 2 ^ lo = md / 2 ^ (lo - 27) := by
  rw [packReg, packF_shift23 hl hm hd ha hb (by omega), show lo - 23 = 4 + (lo - 27) by omega, Nat.pow_add, ← Nat.div_div_eq_div_mul,
    show (md * 16 + fn) / 2 ^ 4 = md by omega]
@[simp] theorem packReg_fld (hl : l < 4) (hm : maj < 64) (hd : d < 32) (ha : a < 32) (hb : b < 32) (hf : fn < 16) {lo : Nat} (h27 : 27 ≤ lo)
    (k : Nat) : fld (packReg md fn b a d maj + l) lo k = fld md (lo - 27) k := by simp only [fld, packReg_shift27 hl hm hd ha hb hf h27]
@[simp] theorem packReg_bfld (hl : l < 4) (hm : maj < 64) (hd : d < 32) (ha : a < 32) (hb : b < 32) (hf : fn < 16) {k : Nat} (h27 : 27 ≤ k) :
    bfld (packReg md fn b a d maj + l) k = bfld md (k - 27) := by simp only [bfld, packReg_shift27 hl hm hd ha hb hf h27]
@[simp] theorem packReg_ifld (hl : l < 4) (hm : maj < 64) (hd : d < 32) (ha : a < 32) (hb : b < 32) (hf : fn < 16) {lo : Nat} (h27 : 27 ≤ lo)
    (n : Nat) (h0 : 0 < n) : ifld n h0 (packReg md fn b a d maj + l) lo = ifld n h0 md (lo - 27) := by
  simp only [ifld, packReg_shift27 hl hm hd ha hb hf h27]
end Reg

/-! ## Codes -/

/-- A code stands for one value of its field, and fits the field. -/
@[simp] theorem Fmt.ofCode_code (x : Fmt) : Fmt.ofCode x.code = some x := by cases x <;> rfl
@[simp] theorem Rm.ofCode_code (x : Rm) : Rm.ofCode x.code = some x := by cases x <;> rfl
@[simp] theorem Cmp.ofCode_code (x : Cmp) : Cmp.ofCode x.code = some x := by cases x <;> rfl
@[simp] theorem Sz.ofCode_code (x : Sz) : Sz.ofCode x.code = some x := by cases x <;> rfl
@[simp] theorem TSz.ofCode_code (x : TSz) : TSz.ofCode x.code = some x := by cases x <;> rfl
@[simp] theorem AtmOp.ofCode_code (x : AtmOp) : AtmOp.ofCode x.code = some x := by cases x <;> rfl
@[simp] theorem AtmfOp.ofCode_code (x : AtmfOp) : AtmfOp.ofCode x.code = some x := by cases x <;> rfl
@[simp] theorem FPred.ofCode_code (x : FPred) : FPred.ofCode x.code = some x := by cases x <;> rfl
@[simp] theorem VPred.ofCode_code (x : VPred) : VPred.ofCode x.code = some x := by cases x <;> rfl
@[simp] theorem CapField.ofCode_code (x : CapField) : CapField.ofCode x.code = some x := by cases x <;> rfl
@[simp] theorem VoteMode.ofCode_code (x : VoteMode) : VoteMode.ofCode x.code = some x := by cases x <;> rfl
@[simp] theorem RedOp.ofCode_code (x : RedOp) : RedOp.ofCode x.code = some x := by cases x <;> rfl
@[simp] theorem CredOp.ofCode_code (x : CredOp) : CredOp.ofCode x.code = some x := by cases x <;> rfl
@[simp] theorem Scope.ofCode_code (x : Scope) : Scope.ofCode x.code = some x := by cases x <;> rfl
@[simp] theorem GateOp.ofCode_code (x : GateOp) : GateOp.ofCode x.code = some x := by cases x <;> rfl
@[simp] theorem PostOp.ofCode_code (x : PostOp) : PostOp.ofCode x.code = some x := by cases x <;> rfl
@[simp] theorem BCond.ofCode_code (x : BCond) : BCond.ofCode x.code = some x := by
  cases x with
  | cmp c => simp [BCond.ofCode, BCond.code]
  | smore | sdone => rfl

theorem Fmt.code_lt (x : Fmt) : x.code < 16 := by cases x <;> decide
theorem Rm.code_lt (x : Rm) : x.code < 8 := by cases x <;> decide
theorem Cmp.code_lt (x : Cmp) : x.code < 6 := by cases x <;> decide
theorem Sz.code_lt (x : Sz) : x.code < 8 := by cases x <;> decide
theorem TSz.code_lt (x : TSz) : x.code < 8 := by cases x <;> decide
theorem AtmOp.code_lt (x : AtmOp) : x.code < 16 := by cases x <;> decide
theorem AtmfOp.code_lt (x : AtmfOp) : x.code < 16 := by cases x <;> decide
theorem FPred.code_lt (x : FPred) : x.code < 8 := by cases x <;> decide
theorem VPred.code_lt (x : VPred) : x.code < 4 := by cases x <;> decide
theorem CapField.code_lt (x : CapField) : x.code < 32 := by cases x <;> decide
theorem VoteMode.code_lt (x : VoteMode) : x.code < 32 := by cases x <;> decide
theorem RedOp.code_lt (x : RedOp) : x.code < 16 := by cases x <;> decide
theorem CredOp.code_lt (x : CredOp) : x.code < 16 := by cases x <;> decide
theorem Scope.code_lt (x : Scope) : x.code < 8 := by cases x <;> decide
theorem GateOp.code_lt (x : GateOp) : x.code < 32 := by cases x <;> decide
theorem PostOp.code_lt (x : PostOp) : x.code < 32 := by cases x <;> decide
theorem BCond.code_lt (x : BCond) : x.code < 8 := by
  cases x with
  | cmp c => exact c.code_lt.trans (by decide)
  | smore | sdone => decide

/-- What an instruction's words are to the decoder, with L as the form has it (02 R21, R27). -/
def Instr.Decodes (i : Instr) : Prop :=
  match i.enc with
  | .short w => ∀ l < 4, fld (w + l) 0 2 = l ∧ decodeShort (w + l) = some i
  | .long w x1 x2 => fld (w + 2) 0 2 = 2 ∧ decodeLong (w + 2) x1 x2 = some i
  | .lit w x1 x2 t => fld (w + 3) 0 2 = 3 ∧ decodeLit (w + 3) x1 x2 t = some i
  | .vec w => decodeVec w = some i
  | .none => True

@[simp] theorem onlyIf_true (x : Option Instr) : onlyIf true x = x := rfl

theorem decodes_short {i : Instr} {w : Nat} (he : i.enc = .short w)
    (h : ∀ l < 4, fld (w + l) 0 2 = l ∧ decodeShort (w + l) = some i) : i.Decodes := by
  rw [Instr.Decodes, he]; exact h

section Short
variable {md fn f b a d l : Nat}

theorem decodeShort_alu (hl : l < 4) (hd : d < 32) (ha : a < 32) (hb : b < 32) (hf : fn < 16) :
    decodeShort (packReg 0 fn b a d 0x01 + l) = decodeAlu fn ⟨d, hd⟩ ⟨a, ha⟩ ⟨b, hb⟩ := by
  simp (disch := omega) [decodeShort]

theorem decodeShort_mul (hl : l < 4) (hd : d < 32) (ha : a < 32) (hb : b < 32) (hf : fn < 16) :
    decodeShort (packReg 0 fn b a d 0x02 + l) = decodeMul fn ⟨d, hd⟩ ⟨a, ha⟩ ⟨b, hb⟩ := by
  simp (disch := omega) [decodeShort]

theorem decodeShort_slot (hl : l < 4) (hd : d < 32) (ha : a < 32) (hb : b < 32) (hf : fn < 16) :
    decodeShort (packReg 0 fn b a d 0x0F + l) = decodeSlot fn ⟨d, hd⟩ ⟨a, ha⟩ ⟨b, hb⟩ := by
  simp (disch := omega) [decodeShort]

theorem decodeShort_kinds (hl : l < 4) (hd : d < 32) (ha : a < 32) (hb : b < 32) (hf : fn < 16) (hm : md < 32) :
    decodeShort (packReg md fn b a d 0x18 + l) = decodeKinds md fn ⟨d, hd⟩ ⟨a, ha⟩ ⟨b, hb⟩ := by
  simp (disch := omega) [decodeShort]

theorem decodeShort_float (hl : l < 4) (hd : d < 32) (ha : a < 32) (hb : b < 32) (hf : fn < 16) (hm : md < 8) :
    decodeShort (packReg md fn b a d 0x1A + l) = decodeFloat md fn ⟨d, hd⟩ ⟨a, ha⟩ ⟨b, hb⟩ := by
  simp (disch := omega) [decodeShort]

theorem decodeShort_mask (hl : l < 4) (hd : d < 32) (ha : a < 32) (hb : b < 32) (hf : fn < 16) (hm : md < 32) :
    decodeShort (packReg md fn b a d 0x1E + l) = decodeMask (packReg md fn b a d 0x1E + l) md fn ⟨d, hd⟩ ⟨a, ha⟩ ⟨b, hb⟩ := by
  simp (disch := omega) [decodeShort]

theorem decodeShort_port (hl : l < 4) (hd : d < 32) (ha : a < 32) (hb : b < 32) (hf : fn < 16) :
    decodeShort (packReg 0 fn b a d 0x2E + l) = decodePort fn ⟨d, hd⟩ ⟨a, ha⟩ ⟨b, hb⟩ := by
  simp (disch := omega) [decodeShort]

theorem decodeShort_cocoon (hl : l < 4) (hd : d < 32) (ha : a < 32) (hb : b < 32) (hf : fn < 16) (hm : md < 32) :
    decodeShort (packReg md fn b a d 0x36 + l) = decodeCocoon md fn ⟨d, hd⟩ ⟨a, ha⟩ ⟨b, hb⟩ := by
  simp (disch := omega) [decodeShort]

theorem decodeShort_task (hl : l < 4) (hd : d < 32) (ha : a < 32) (hb : b < 32) (hf : fn < 16) (hm : md < 32) :
    decodeShort (packReg md fn b a d 0x38 + l) = decodeTask md fn ⟨d, hd⟩ ⟨a, ha⟩ ⟨b, hb⟩ := by
  simp (disch := omega) [decodeShort]

theorem decodeShort_group (hl : l < 4) (hd : d < 32) (ha : a < 32) (hb : b < 32) (hf : fn < 16) :
    decodeShort (packReg md fn b a d 0x28 + l) = decodeGroup 0x28 (packReg md fn b a d 0x28 + l) fn ⟨d, hd⟩ ⟨a, ha⟩ ⟨b, hb⟩ := by
  simp (disch := omega) [decodeShort]

theorem decodeShort_bar (hl : l < 4) (hd : d < 32) (ha : a < 32) :
    decodeShort (packF f b a d 0x2B + l) = decodeBar (packF f b a d 0x2B + l) ⟨d, hd⟩ ⟨a, ha⟩ := by
  simp (disch := omega) [decodeShort]

theorem decodeShort_fence (hl : l < 4) (hd : d < 32) (ha : a < 32) (hb : b < 32) :
    decodeShort (packF f b a d 0x17 + l) = decodeFence (packF f b a d 0x17 + l) ⟨d, hd⟩ ⟨a, ha⟩ ⟨b, hb⟩ := by
  simp (disch := omega) [decodeShort]

theorem decodeShort_cvt {w : Nat} (h : fld w 2 6 = 0x1C) : decodeShort w = decodeCvt w (rfld w 8) (rfld w 13) := by
  simp only [decodeShort, h]
end Short

/-! ## The words with an offset or an immediate (02 R23) -/

/-- What a first word shows below bit 18: L, the major opcode, D and A. -/
structure FirstWord (w l maj : Nat) (d a : Reg) : Prop where
  length : fld w 0 2 = l
  major : fld w 2 6 = maj
  d : rfld w 8 = d
  a : rfld w 13 = a

theorem firstWord_of_eq {w y l maj : Nat} {d a : Reg} (hl : l < 4) (hm : maj < 64)
    (h : w = y * 2 ^ 18 + a.val * 2 ^ 13 + d.val * 2 ^ 8 + maj * 4 + l) : FirstWord w l maj d a := by
  refine ⟨?_, ?_, rfld_of_mod ?_, rfld_of_mod ?_⟩ <;> simp only [fld, h] <;> omega

theorem firstWord_packMem (op : MemOp) (d a : Reg) {maj l : Nat} (hl : l < 4) (hm : maj < 64) :
    FirstWord (packMem op d a maj + l) l maj d a :=
  firstWord_of_eq (y := bitOf op.inc * 2 ^ 13 + op.off.toNat * 2 ^ 5 + bitOf op.rx * 16 + bitOf op.am * 8 + op.sz.code) hl hm
    (by simp only [packMem]; omega)

theorem decodeMem_packMem (op : MemOp) (d a : Reg) {maj l : Nat} (hl : l < 4) (hm : maj < 64) :
    decodeMem (packMem op d a maj + l) = some op := by
  have hz := op.sz.code_lt
  have hr := bitOf_le op.rx
  have ha := bitOf_le op.am
  have hi := bitOf_le op.inc
  have sz : fld (packMem op d a maj + l) 18 3 = op.sz.code := by simp only [packMem, fld]; omega
  have am : bfld (packMem op d a maj + l) 21 = op.am := bfld_of_mod (by simp only [packMem]; omega)
  have rx : bfld (packMem op d a maj + l) 22 = op.rx := bfld_of_mod (by simp only [packMem]; omega)
  have off : vfld 8 (packMem op d a maj + l) 23 = op.off := vfld_of_mod (by simp only [packMem]; omega)
  have inc : bfld (packMem op d a maj + l) 31 = op.inc := bfld_of_mod (by simp only [packMem]; omega)
  generalize packMem op d a maj + l = w at sz am rx off inc
  rw [decodeMem, sz, Sz.ofCode_code, am, rx, off, inc]

theorem ld_decodes (op : MemOp) (d a : Reg) : (Instr.ld op d a).Decodes := by
  refine decodes_short rfl fun l hl => ?_
  have hw := firstWord_packMem op d a (maj := 0x10) hl (by decide)
  exact ⟨hw.length, by simp [decodeShort, hw.major, hw.d, hw.a, decodeMem_packMem op d a hl]⟩

theorem st_decodes (op : MemOp) (d a : Reg) : (Instr.st op d a).Decodes := by
  refine decodes_short rfl fun l hl => ?_
  have hw := firstWord_packMem op d a (maj := 0x11) hl (by decide)
  exact ⟨hw.length, by simp [decodeShort, hw.major, hw.d, hw.a, decodeMem_packMem op d a hl]⟩

/-- What a FEW word shows. -/
structure FewWord (w l fn : Nat) (op : FewOp) (d a : Reg) : Prop extends FirstWord w l 0x12 d a where
  zero : bfld w 22 = false
  fn : fld w 18 3 = fn
  am : bfld w 21 = op.am
  off : vfld 8 w 23 = op.off
  inc : bfld w 31 = op.inc

theorem fewWord_packFew (op : FewOp) (d a : Reg) {fn l : Nat} (hl : l < 4) (hf : fn < 8) : FewWord (packFew fn op d a + l) l fn op d a := by
  have ha := bitOf_le op.am
  have hi := bitOf_le op.inc
  refine ⟨firstWord_of_eq (y := bitOf op.inc * 2 ^ 13 + op.off.toNat * 2 ^ 5 + bitOf op.am * 8 + fn) hl (by decide) ?_,
    bfld_false_of_mod ?_, ?_, bfld_of_mod ?_, vfld_of_mod ?_, bfld_of_mod ?_⟩ <;> simp only [packFew, fld] <;> omega

theorem decodes_of_few {i : Instr} {fn : Nat} {op : FewOp} {d a : Reg} (he : i.enc = .short (packFew fn op d a)) (hf : fn < 8)
    (hi : ∀ w l, FewWord w l fn op d a → decodeFew w d a = some i) : i.Decodes := by
  refine decodes_short he fun l hl => ?_
  have hw := fewWord_packFew op d a hl hf
  exact ⟨hw.length, by simp only [decodeShort, hw.major, hw.d, hw.a, hi _ _ hw]⟩

/-- A word with an immediate of up to 14 bits decodes by its major opcode, D and A, and the immediate above bit 18. -/
theorem decodes_of_imm {i : Instr} {x maj : Nat} {d a : Reg}
    (he : i.enc = .short (x * 2 ^ 18 + a.val * 2 ^ 13 + d.val * 2 ^ 8 + maj * 4)) (hm : maj < 64)
    (hi : ∀ w l, FirstWord w l maj d a → w / 2 ^ 18 = x → decodeShort w = some i) : i.Decodes := by
  refine decodes_short he fun l hl => ?_
  have hw := firstWord_of_eq (y := x) (d := d) (a := a) hl hm rfl
  exact ⟨hw.length, hi _ _ hw (by omega)⟩

theorem vfld14_of_above {w : Nat} {imm : BitVec 14} (h : w / 2 ^ 18 = imm.toNat) : vfld 14 w 18 = imm :=
  vfld_of_mod (by rw [h, Nat.mod_eq_of_lt imm.isLt])

/-- The word of a shift by an immediate: its FN stands above SH. -/
structure ShiftWord (w l k : Nat) (sh : BitVec 6) (d a : Reg) : Prop extends FirstWord w l 0x08 d a where
  zero : fld w 26 6 = 0
  fn : fld w 24 2 = k
  sh : vfld 6 w 18 = sh

theorem decodes_of_shift {i : Instr} {k : Nat} {sh : BitVec 6} {d a : Reg}
    (he : i.enc = .short (k * 2 ^ 24 + sh.toNat * 2 ^ 18 + a.val * 2 ^ 13 + d.val * 2 ^ 8 + 0x08 * 4)) (hk : k < 4)
    (hi : ∀ w l, ShiftWord w l k sh d a → decodeShort w = some i) : i.Decodes := by
  refine decodes_short he fun l hl => ?_
  have hw : ShiftWord (k * 2 ^ 24 + sh.toNat * 2 ^ 18 + a.val * 2 ^ 13 + d.val * 2 ^ 8 + 0x08 * 4 + l) l k sh d a := by
    refine ⟨firstWord_of_eq (y := k * 64 + sh.toNat) hl (by decide) (by omega), ?_, ?_, vfld_of_mod ?_⟩
    · simp only [fld]; omega
    · simp only [fld]; omega
    · omega
  exact ⟨hw.length, hi _ _ hw⟩

/-- An instruction in a REG word decodes when every L its word may carry does. -/
theorem decodes_of_reg {i : Instr} {md fn b a d maj : Nat} (he : i.enc = .short (packReg md fn b a d maj))
    (h : ∀ l < 4, decodeShort (packReg md fn b a d maj + l) = some i) : i.Decodes :=
  decodes_short he fun l hl => ⟨packReg_length hl, h l hl⟩

theorem decodes_of_packF {i : Instr} {f b a d maj : Nat} (he : i.enc = .short (packF f b a d maj))
    (h : ∀ l < 4, decodeShort (packF f b a d maj + l) = some i) : i.Decodes :=
  decodes_short he fun l hl => ⟨packF_length hl, h l hl⟩

/-- Flags side by side (02 R28). -/
theorem flags3 (x y z : Bool) : bfld (bitOf x + bitOf y * 2 + bitOf z * 4) 0 = x ∧ bfld (bitOf x + bitOf y * 2 + bitOf z * 4) 1 = y ∧
    bfld (bitOf x + bitOf y * 2 + bitOf z * 4) 2 = z ∧ bitOf x + bitOf y * 2 + bitOf z * 4 < 8 := by
  cases x <;> cases y <;> cases z <;> decide

theorem bCc_decodes (cc : BCond) (a b : Reg) (off : BitVec 9) : (Instr.bCc cc a b off).Decodes := by
  have h := cc.code_lt
  exact decodes_of_packF rfl fun l hl => by simp (disch := omega) [decodeShort]

theorem biCc_decodes (c : Cmp) (a : Reg) (imm : BitVec 5) (off : BitVec 9) : (Instr.biCc c a imm off).Decodes := by
  have h := c.code_lt
  refine decodes_of_packF rfl fun l hl => ?_
  have hv : vfld 5 (packF off.toNat imm.toNat a.val c.code 0x0C + l) 18 = imm := vfld_of_mod (by simp only [packF]; omega)
  simp (disch := omega) [decodeShort, hv]

theorem j_decodes (off : BitVec 24) : (Instr.j off).Decodes := by
  refine decodes_short rfl fun l hl => ?_
  have hm : fld (off.toNat * 2 ^ 8 + 0x0D * 4 + l) 2 6 = 0x0D := by simp only [fld]; omega
  have hv : vfld 24 (off.toNat * 2 ^ 8 + 0x0D * 4 + l) 8 = off := vfld_of_mod (by omega)
  exact ⟨by simp only [fld]; omega, by simp only [decodeShort, hm, hv]⟩

/-- A word whose 19 bits above D are one field. -/
theorem wide_fields (d : Reg) (x : BitVec 19) {maj l : Nat} (hl : l < 4) (hm : maj < 64) :
    let w := x.toNat * 2 ^ 13 + d.val * 2 ^ 8 + maj * 4 + l
    fld w 0 2 = l ∧ fld w 2 6 = maj ∧ rfld w 8 = d ∧ vfld 19 w 13 = x := by
  exact ⟨by simp only [fld]; omega, by simp only [fld]; omega, rfld_of_mod (by omega), vfld_of_mod (by omega)⟩

theorem jal_decodes (d : Reg) (off : BitVec 19) : (Instr.jal d off).Decodes := by
  refine decodes_short rfl fun l hl => ?_
  obtain ⟨h0, hm, hd, hv⟩ := wide_fields d off (maj := 0x0E) hl (by decide)
  exact ⟨h0, by simp only [decodeShort, hm, hd, hv]⟩

theorem li_decodes (d : Reg) (imm : BitVec 19) : (Instr.li d imm).Decodes := by
  refine decodes_short rfl fun l hl => ?_
  obtain ⟨h0, hm, hd, hv⟩ := wide_fields d imm (maj := 0x0A) hl (by decide)
  exact ⟨h0, by simp only [decodeShort, hm, hd, hv]⟩

theorem crw_decodes (c : BitVec 9) (a : Reg) : (Instr.crw c a).Decodes := by
  have h1 : bfld 1 0 = true := by decide
  exact decodes_of_packF rfl fun l hl => by simp (disch := omega) [decodeShort, h1]

/-- A register beside a field above it. -/
theorem rfld_below (x : Nat) (c : Reg) : rfld (x * 32 + c.val) 0 = c := rfld_of_mod (by omega)

theorem shift_below (x : Nat) (c : Reg) {lo : Nat} (h : 5 ≤ lo) : (x * 32 + c.val) / 2 ^ lo = x / 2 ^ (lo - 5) := by
  obtain ⟨j, rfl⟩ := Nat.exists_eq_add_of_le h
  rw [Nat.pow_add, ← Nat.div_div_eq_div_mul, show (x * 32 + c.val) / 2 ^ 5 = x by omega, Nat.add_sub_cancel_left]

theorem ffma_decodes (rm : Rm) (d a b c : Reg) : (Instr.ffma rm d a b c).Decodes := by
  have h := rm.code_lt
  refine decodes_of_packF rfl fun l hl => ?_
  have h1 : fld (rm.code * 32 + c.val) 5 3 = rm.code := by simp only [fld]; omega
  simp (disch := omega) [decodeShort, rfld_below, h1]

theorem atm_decodes (op : AtmOp) (f : AtmFlags) (d a b : Reg) : (Instr.atm op f d a b).Decodes := by
  have h := op.code_lt
  obtain ⟨f0, f1, f2, flt⟩ := flags3 f.w f.am f.rx
  exact decodes_of_reg rfl fun l hl => by simp (disch := omega) [decodeShort, f0, f1, f2]

theorem atmCas_decodes (f : AtmFlags) (d a b c : Reg) : (Instr.atmCas f d a b c).Decodes := by
  obtain ⟨f0, f1, f2, flt⟩ := flags3 f.w f.am f.rx
  refine decodes_of_packF rfl fun l hl => ?_
  generalize bitOf f.w + bitOf f.am * 2 + bitOf f.rx * 4 = m at f0 f1 f2 flt
  have hb : ∀ k, 5 ≤ k → bfld (m * 32 + c.val) k = bfld m (k - 5) := fun k hk => by simp only [bfld, shift_below m c hk]
  simp (disch := omega) [decodeShort, rfld_below, hb, f0, f1, f2]

theorem atmf_decodes (op : AtmfOp) (am rx : Bool) (d a b : Reg) : (Instr.atmf op am rx d a b).Decodes := by
  have h := op.code_lt
  obtain ⟨f0, f1, f2, flt⟩ := flags3 false am rx
  rw [bitOf, if_neg (by decide), Nat.zero_add] at f0 f1 f2 flt
  exact decodes_of_reg rfl fun l hl => by simp (disch := omega) [decodeShort, f0, f1, f2]

theorem sbind_decodes (wr : Bool) (f : Fmt) (d a b : Reg) : (Instr.sbind wr f d a b).Decodes := by
  have h := f.code_lt
  have hb := bitOf_le wr
  have h0 : fld (bitOf wr * 16 + f.code) 0 4 = f.code := by simp only [fld]; omega
  have h4 : bfld (bitOf wr * 16 + f.code) 4 = wr := bfld_of_mod (by omega)
  exact decodes_of_reg rfl fun l hl => by simp (disch := omega) [decodeShort, h0, h4]

theorem cred_decodes (op : CredOp) (d a b : Reg) : (Instr.cred op d a b).Decodes := by
  have h := op.code_lt
  exact decodes_of_reg rfl fun l hl => by simp (disch := omega) [decodeShort]

/-- What a fence's word shows (11 R217): its scope, and each of its paths. -/
structure FenceWord (w : Nat) (s : Scope) (p : PathSet) : Prop where
  scope : fld w 29 3 = s.code
  thread : bfld w 23 = p.thread
  copy : bfld w 24 = p.copy
  matrix : bfld w 25 = p.matrix
  hawk : bfld w 26 = p.hawk
  lineage : bfld w 27 = p.lineage
  combine : bfld w 28 = p.combine

theorem fenceWord_packF (s : Scope) (p : PathSet) {d l : Nat} (hl : l < 4) (hd : d < 32) :
    FenceWord (packF (s.code * 64 + bitOf p.thread + bitOf p.copy * 2 + bitOf p.matrix * 4 + bitOf p.hawk * 8 + bitOf p.lineage * 16
      + bitOf p.combine * 32) 0 0 d 0x17 + l) s p := by
  have h := s.code_lt
  have h1 := bitOf_le p.thread
  have h2 := bitOf_le p.copy
  have h3 := bitOf_le p.matrix
  have h4 := bitOf_le p.hawk
  have h5 := bitOf_le p.lineage
  have h6 := bitOf_le p.combine
  refine ⟨?_, bfld_of_mod ?_, bfld_of_mod ?_, bfld_of_mod ?_, bfld_of_mod ?_, bfld_of_mod ?_, bfld_of_mod ?_⟩ <;>
    simp only [packF, fld] <;> omega

theorem FenceWord.decodeFencex {w : Nat} {s : Scope} {p : PathSet} (h : FenceWord w s p) : decodeFence w 1 0 0 = some (.fencex s p) := by
  simp [decodeFence, h.scope, h.thread, h.copy, h.matrix, h.hawk, h.lineage, h.combine]

theorem decodeFence_no_paths {w : Nat} {s : Scope} (hs : fld w 29 3 = s.code) (h6 : fld w 23 6 = 0) : decodeFence w 0 0 0 = some (.fence s) := by
  simp [decodeFence, hs, h6]

theorem fence_decodes (s : Scope) : (Instr.fence s).Decodes := by
  have h := s.code_lt
  exact decodes_of_packF rfl fun l hl => (decodeShort_fence hl (by decide) (by decide) (by decide)).trans
    (decodeFence_no_paths (by simp only [packF, fld]; omega) (by simp only [packF, fld]; omega))

theorem fencex_decodes (s : Scope) (p : PathSet) : (Instr.fencex s p).Decodes :=
  decodes_of_packF rfl fun l hl => (decodeShort_fence hl (by decide) (by decide) (by decide)).trans
    (fenceWord_packF s p hl (by decide)).decodeFencex

/-- What a word of major 0x1C shows (07 R138). -/
structure CvtWord (w md : Nat) (f : Fmt) (b : Nat) : Prop where
  src : fld w 23 4 = f.code
  form : fld w 30 2 = md / 8
  rm : fld w 27 3 = md % 8
  dst : fld w 18 4 = b % 16
  zero : b < 16 → bfld w 22 = false
  b : fld w 18 5 = b

theorem decodes_of_cvt {i : Instr} {md b : Nat} {f : Fmt} {d a : Reg} (he : i.enc = .short (packReg md f.code b a.val d.val 0x1C)) (hm : md < 32)
    (hb : b < 32) (hi : ∀ w, CvtWord w md f b → decodeCvt w d a = some i) : i.Decodes := by
  refine decodes_of_reg he fun l hl => ?_
  have hf := f.code_lt
  have hw : CvtWord (packReg md f.code b a.val d.val 0x1C + l) md f b := by
    refine ⟨?_, ?_, ?_, ?_, fun hb => bfld_false_of_mod ?_, ?_⟩ <;> simp only [packReg, packF, fld] <;> omega
  have hc := hi _ hw
  rw [decodeShort_cvt (packReg_major hl (by decide)), packReg_d hl (by decide) d.isLt, packReg_a hl (by decide) d.isLt a.isLt]
  exact hc

theorem cvt_decodes (rm : Rm) (f t : Fmt) (d a : Reg) : (Instr.cvt rm f t d a).Decodes := by
  have hr := rm.code_lt
  have ht := t.code_lt
  refine decodes_of_cvt rfl (by omega) (by omega) fun w h => ?_
  have h1 := h.form
  have h2 := h.rm
  have h3 := h.dst
  rw [Nat.div_eq_of_lt hr] at h1
  rw [Nat.mod_eq_of_lt hr] at h2
  rw [Nat.mod_eq_of_lt ht] at h3
  simp [decodeCvt, h.src, h1, h2, h3, h.zero ht]

theorem gxld_decodes (g : Fin 16) (wide am : Bool) (d a : Reg) : (Instr.gxld g wide am d a).Decodes := by
  have hb := bitOf_le am
  have hf := bitOf_le wide
  refine decodes_of_reg rfl fun l hl => ?_
  cases wide
  · have h0 : bitOf false = 0 := rfl
    simp (disch := omega) [decodeShort, decodeGroup, h0]
  · have h1 : bitOf true = 1 := rfl
    simp (disch := omega) [decodeShort, decodeGroup, h1]

theorem gred_decodes (g : Fin 16) (op : RedOp) (d a : Reg) : (Instr.gred g op d a).Decodes := by
  have h := op.code_lt
  exact decodes_of_reg rfl fun l hl => by simp (disch := omega) [decodeShort, decodeGroup]

theorem csplit_decodes (col : Bool) (d a b : Reg) : (Instr.csplit col d a b).Decodes := by
  refine decodes_of_reg rfl fun l hl => ?_
  have hb := bitOf_le col
  rw [decodeShort_cocoon hl d.isLt a.isLt b.isLt (by decide) (by omega)]
  cases col <;> rfl

theorem trec_decodes (q : Fin 3) (d : Reg) : (Instr.trec q d).Decodes := by
  refine decodes_of_reg rfl fun l hl => ?_
  rw [decodeShort_task hl d.isLt (by decide) (by decide) (by decide) (by omega)]
  match q with
  | 0 | 1 | 2 => rfl

/-! ## Vector words (02 R24, R29) -/

/-- What a vector word shows; VB is a register or, in the words of 08 R152 with one operand, the choice of the operation. -/
structure VecWord (w var vmaj : Nat) (f : Fmt) (k : MReg) (vb : Nat) (va vd : Reg) : Prop where
  zero : fld w 0 2 = 0
  major : fld w 2 6 = vmaj
  d : rfld w 8 = vd
  a : rfld w 13 = va
  b : ∀ r : Reg, r.val = vb → rfld w 18 = r
  op : fld w 18 5 = vb
  msk : mfld w 23 = k
  fmt : fld w 26 4 = f.code
  var : fld w 30 2 = var

theorem vecWord_packVec (f : Fmt) (k : MReg) (a d : Reg) {var vmaj vb : Nat} (hv : var < 4) (hm : vmaj < 64) (hb : vb < 32) :
    VecWord (packVec var vmaj f k vb a.val d.val) var vmaj f k vb a d := by
  have hf := f.code_lt
  refine ⟨?_, ?_, rfld_of_mod ?_, rfld_of_mod ?_, fun r hr => rfld_of_mod ?_, ?_, mfld_of_mod ?_, ?_, ?_⟩ <;>
    simp only [packVec, fld] <;> omega

theorem decodes_of_vec {i : Instr} {var vmaj : Nat} {f : Fmt} {k : MReg} {vb : Nat} {a d : Reg}
    (he : i.enc = .vec (packVec var vmaj f k vb a.val d.val)) (hv : var < 4) (hm : vmaj < 64) (hb : vb < 32)
    (hi : ∀ w, VecWord w var vmaj f k vb a d → decodeVec w = some i) : i.Decodes := by
  rw [Instr.Decodes, he]
  exact hi _ (vecWord_packVec f k a d hv hm hb)

theorem vector_decodes {i : Instr} (h : i.isVector = true) : i.Decodes := by
  cases i with
  | vadd v | vsub v | vmul v | vfma v | vmin v | vmax v | vsel v | vcx v | vand v | vor v | vxor v | vshl v | vshr v | viadd v | visub v | vimul v
  | vscan v | vgath v | vscat v =>
    refine decodes_of_vec rfl (by decide) (by decide) v.vb.isLt fun w h => ?_
    simp [decodeVec, h.zero, h.major, h.d, h.a, h.b v.vb rfl, h.msk, h.fmt, h.var]
  | vcmp p v =>
    refine decodes_of_vec rfl p.code_lt (by decide) v.vb.isLt fun w h => ?_
    simp [decodeVec, h.zero, h.major, h.d, h.a, h.b v.vb rfl, h.msk, h.fmt, h.var]
  | vred u | vabs u | vneg u | vexp2 u | vlog2 u | vrcp u | vrsq u | vtanh u | vmov u | vsplat u | vcvt u =>
    refine decodes_of_vec rfl (by decide) (by decide) (by decide) fun w h => ?_
    simp [decodeVec, h.zero, h.major, h.d, h.a, h.op, h.msk, h.fmt, h.var]
  | _ => cases h

/-! ## Extended words: X1 and X2 (02 R25) -/

theorem decodeCpyX_packCpyX (x : CpyX) : fld (packCpyX x) 12 20 = 0 ∧ decodeCpyX (packCpyX x) = x := by
  have h1 := bitOf_le x.dam
  have h2 := bitOf_le x.sam
  have h3 := bitOf_le x.bv
  have e1 : bfld (packCpyX x) 11 = x.dam := bfld_of_mod (by simp only [packCpyX]; omega)
  have e2 : bfld (packCpyX x) 10 = x.sam := bfld_of_mod (by simp only [packCpyX]; omega)
  have e3 : bfld (packCpyX x) 9 = x.bv := bfld_of_mod (by simp only [packCpyX]; omega)
  have e4 : ifld 512 (by decide) (packCpyX x) 0 = x.bar := ifld_of_mod (by simp only [packCpyX]; omega)
  exact ⟨by simp only [packCpyX, fld]; omega, by rw [decodeCpyX, e1, e2, e3, e4]⟩

theorem decodeCpysX_packCpysX (x : CpysX) : decodeCpysX (packCpysX x) x.count.toNat = some x := by
  have h1 := x.fmt.code_lt
  have h2 := bitOf_le x.sam
  have h3 := bitOf_le x.bv
  have e0 : fld (packCpysX x) 16 16 = 0 := by simp only [packCpysX, fld]; omega
  have e1 : bfld (packCpysX x) 11 = false := bfld_false_of_mod (by simp only [packCpysX]; omega)
  have e2 : fld (packCpysX x) 12 4 = x.fmt.code := by simp only [packCpysX, fld]; omega
  have e3 : bfld (packCpysX x) 10 = x.sam := bfld_of_mod (by simp only [packCpysX]; omega)
  have e4 : bfld (packCpysX x) 9 = x.bv := bfld_of_mod (by simp only [packCpysX]; omega)
  have e5 : ifld 512 (by decide) (packCpysX x) 0 = x.bar := ifld_of_mod (by simp only [packCpysX]; omega)
  rw [decodeCpysX, if_pos ⟨e0, e1⟩, e2, e3, e4, e5, vfld_toNat, Fmt.ofCode_code]
  rfl

/-- X1 of a drain; MDRAINA keeps its array above it. -/
theorem decodeDrainX_under (x : DrainX) (u : Nat) : decodeDrainX (packDrainX x + u * 2 ^ 29) = x := by
  have e1 : ifld 4 (by decide) (packDrainX x + u * 2 ^ 29) 0 = x.t := ifld_of_mod (by simp only [packDrainX]; omega)
  have e2 : vfld 9 (packDrainX x + u * 2 ^ 29) 2 = x.row0 := vfld_of_mod (by simp only [packDrainX]; omega)
  have e3 : vfld 9 (packDrainX x + u * 2 ^ 29) 11 = x.rows := vfld_of_mod (by simp only [packDrainX]; omega)
  have e4 : vfld 9 (packDrainX x + u * 2 ^ 29) 20 = x.ncols := vfld_of_mod (by simp only [packDrainX]; omega)
  rw [decodeDrainX, e1, e2, e3, e4]

theorem decodeDrainX_packDrainX (x : DrainX) : decodeDrainX (packDrainX x) = x := by simpa using decodeDrainX_under x 0

theorem packDrainX_lt (x : DrainX) : packDrainX x < 2 ^ 29 := by simp only [packDrainX]; omega

theorem decodeMdrain_packMdrain (x : DrainX) (y : MdrainX) (d : Reg) {l : Nat} (hl : l < 4) :
    decodeMdrain (packMdrain y d + l) (packDrainX x) y.pitch.toNat = some y := by
  have hf := y.fmt.code_lt
  have h1 := bitOf_le y.mask
  have h2 := bitOf_le y.clr
  have h3 := bitOf_le y.rel
  have h4 := bitOf_le y.am
  have hx := packDrainX_lt x
  have z1 : bfld (packMdrain y d + l) 31 = false := bfld_false_of_mod (by simp only [packMdrain, packReg, packF]; omega)
  have z2 : bfld (packMdrain y d + l) 22 = false := bfld_false_of_mod (by simp only [packMdrain, packReg, packF]; omega)
  have z3 : fld (packMdrain y d + l) 13 5 = 0 := by simp only [packMdrain, packReg, packF, fld]; omega
  have z4 : fld (packDrainX x) 29 3 = 0 := fld_above hx 3
  have z5 : fld y.pitch.toNat 20 12 = 0 := fld_above y.pitch.isLt 12
  have e1 : fld (packMdrain y d + l) 27 4 = y.fmt.code := by simp only [packMdrain, packReg, packF, fld]; omega
  have e2 : bfld (packMdrain y d + l) 18 = y.mask := bfld_of_mod (by simp only [packMdrain, packReg, packF]; omega)
  have e3 : bfld (packMdrain y d + l) 19 = y.clr := bfld_of_mod (by simp only [packMdrain, packReg, packF]; omega)
  have e4 : bfld (packMdrain y d + l) 20 = y.rel := bfld_of_mod (by simp only [packMdrain, packReg, packF]; omega)
  have e5 : bfld (packMdrain y d + l) 21 = y.am := bfld_of_mod (by simp only [packMdrain, packReg, packF]; omega)
  rw [decodeMdrain, if_pos ⟨z1, z2, z3, z4, z5⟩, e1, e2, e3, e4, e5, vfld_toNat, Fmt.ofCode_code]
  rfl

theorem decodeMdraina_packMdraina (x : DrainX) (y : MdrainaX) (a : Reg) {l : Nat} (hl : l < 4) :
    decodeMdraina (packMdraina y a + l) (packDrainX x + y.u.val * 2 ^ 29) (y.prow0.toNat + y.pcol0.toNat * 2 ^ 9) = some y := by
  have h2 := bitOf_le y.clr
  have h3 := bitOf_le y.rel
  have hx := packDrainX_lt x
  have z1 : fld (packMdraina y a + l) 27 5 = 0 := by simp only [packMdraina, packReg, packF, fld]; omega
  have z2 : bfld (packMdraina y a + l) 18 = false := bfld_false_of_mod (by simp only [packMdraina, packReg, packF]; omega)
  have z3 : fld (packMdraina y a + l) 21 2 = 0 := by simp only [packMdraina, packReg, packF, fld]; omega
  have z4 : fld (packMdraina y a + l) 8 5 = 0 := by simp only [packMdraina, packReg, packF, fld]; omega
  have z5 : bfld (packDrainX x + y.u.val * 2 ^ 29) 31 = false := bfld_false_of_mod (by omega)
  have z6 : fld (y.prow0.toNat + y.pcol0.toNat * 2 ^ 9) 18 14 = 0 := by simp only [fld]; omega
  have e1 : bfld (packMdraina y a + l) 19 = y.clr := bfld_of_mod (by simp only [packMdraina, packReg, packF]; omega)
  have e2 : bfld (packMdraina y a + l) 20 = y.rel := bfld_of_mod (by simp only [packMdraina, packReg, packF]; omega)
  have e3 : ifld 4 (by decide) (packDrainX x + y.u.val * 2 ^ 29) 29 = y.u := ifld_of_mod (by omega)
  have e4 : vfld 9 (y.prow0.toNat + y.pcol0.toNat * 2 ^ 9) 0 = y.prow0 := vfld_of_mod (by omega)
  have e5 : vfld 9 (y.prow0.toNat + y.pcol0.toNat * 2 ^ 9) 9 = y.pcol0 := vfld_of_mod (by omega)
  rw [decodeMdraina, if_pos ⟨z1, z2, z3, z4, z5, z6⟩, e1, e2, e3, e4, e5]

/-! ## Extended and literal instructions (02 R25, R27) -/

theorem decodes_of_long {i : Instr} {w x1 x2 : Nat} (he : i.enc = .long w x1 x2) (h2 : fld (w + 2) 0 2 = 2)
    (h : decodeLong (w + 2) x1 x2 = some i) : i.Decodes := by
  rw [Instr.Decodes, he]; exact ⟨h2, h⟩

theorem decodes_of_lit {i : Instr} {w x1 x2 t : Nat} (he : i.enc = .lit w x1 x2 t) (h3 : fld (w + 3) 0 2 = 3)
    (h : decodeLit (w + 3) x1 x2 t = some i) : i.Decodes := by
  rw [Instr.Decodes, he]; exact ⟨h3, h⟩

theorem bCcX_decodes (cc : BCond) (a b : Reg) (off : Word) : (Instr.bCcX cc a b off).Decodes := by
  have h := cc.code_lt
  exact decodes_of_long rfl (packF_length (by decide)) (by simp (disch := omega) [decodeLong])

theorem biCcX_decodes (c : Cmp) (a : Reg) (imm off : Word) : (Instr.biCcX c a imm off).Decodes := by
  have h := c.code_lt
  have h0 : fld (packF 0 0 a.val c.code 0x0C + 2) 18 14 = 0 := by simp only [packF, fld]; omega
  exact decodes_of_long rfl (packF_length (by decide)) (by simp (disch := omega) [decodeLong, h0])

theorem ppt_decodes (mask : Word) : (Instr.ppt mask).Decodes := by
  have h6 : fld (packReg 0 6 0 0 0 0x0F + 2) 23 9 = 6 := by decide
  refine decodes_of_long rfl (packReg_length (by decide)) ?_
  simp (disch := omega) [decodeLong, h6]

theorem liX_decodes (d : Reg) (imm : DWord) : (Instr.liX d imm).Decodes := by
  have hm : fld (d.val * 2 ^ 8 + 0x0A * 4 + 2) 2 6 = 0x0A := by simp only [fld]; omega
  have h0 : fld (d.val * 2 ^ 8 + 0x0A * 4 + 2) 13 19 = 0 := by simp only [fld]; omega
  have hd : rfld (d.val * 2 ^ 8 + 0x0A * 4 + 2) 8 = d := rfld_of_mod (by omega)
  have hi : BitVec.ofNat 64 (imm.toNat / 2 ^ 32 * 2 ^ 32 + imm.toNat % 2 ^ 32) = imm := by
    rw [Nat.div_add_mod']; simp
  refine decodes_of_long rfl (by simp only [fld]; omega) ?_
  simp only [decodeLong, hm, h0, hd, hi, beq_self_eq_true, onlyIf_true]

theorem cpy_decodes (x : CpyX) (d a b : Reg) : (Instr.cpy x d a b).Decodes := by
  obtain ⟨h0, hx⟩ := decodeCpyX_packCpyX x
  exact decodes_of_long rfl (packReg_length (by decide)) (by simp (disch := omega) [decodeLong, h0, hx])

theorem cpyAt_decodes (x : CpyX) (d a b : Reg) (t : DWord) : (Instr.cpyAt x d a b t).Decodes := by
  obtain ⟨h0, hx⟩ := decodeCpyX_packCpyX x
  exact decodes_of_lit rfl (packReg_length (by decide)) (by simp (disch := omega) [decodeLit, h0, hx])

theorem cpys_decodes (x : CpysX) (d a b : Reg) : (Instr.cpys x d a b).Decodes :=
  decodes_of_long rfl (packReg_length (by decide)) (by simp (disch := omega) [decodeLong, decodeCpysX_packCpysX x])

theorem cpysAt_decodes (x : CpysX) (d a b : Reg) (t : DWord) : (Instr.cpysAt x d a b t).Decodes :=
  decodes_of_lit rfl (packReg_length (by decide)) (by simp (disch := omega) [decodeLit, decodeCpysX_packCpysX x])

theorem tsubAt_decodes (a b : Reg) (t : DWord) : (Instr.tsubAt a b t).Decodes := by
  refine decodes_of_lit rfl (packReg_length (by decide)) ?_
  simp (disch := omega) [decodeLit]

/-- What a drain's first word shows (13 R237). -/
theorem packMdrain_fields (y : MdrainX) (d : Reg) {l : Nat} (hl : l < 4) : fld (packMdrain y d + l) 0 2 = l ∧
    fld (packMdrain y d + l) 2 6 = 0x32 ∧ rfld (packMdrain y d + l) 8 = d ∧ fld (packMdrain y d + l) 23 4 = 0 := by
  have h1 := bitOf_le y.mask
  have h2 := bitOf_le y.clr
  have h3 := bitOf_le y.rel
  have h4 := bitOf_le y.am
  exact ⟨packReg_length hl, packReg_major hl (by decide), packReg_d hl (by decide) d.isLt,
    packReg_fn hl (by decide) d.isLt (by decide) (by omega) (by decide)⟩

theorem packMdraina_fields (y : MdrainaX) (a : Reg) {l : Nat} (hl : l < 4) : fld (packMdraina y a + l) 0 2 = l ∧
    fld (packMdraina y a + l) 2 6 = 0x32 ∧ rfld (packMdraina y a + l) 13 = a ∧ fld (packMdraina y a + l) 23 4 = 1 := by
  have h2 := bitOf_le y.clr
  have h3 := bitOf_le y.rel
  exact ⟨packReg_length hl, packReg_major hl (by decide), packReg_a hl (by decide) (by decide) a.isLt,
    packReg_fn hl (by decide) (by decide) a.isLt (by omega) (by decide)⟩

theorem mdrain_decodes (x : DrainX) (y : MdrainX) (d : Reg) : (Instr.mdrain x y d).Decodes := by
  obtain ⟨h0, hm, hd, hf⟩ := packMdrain_fields y d (l := 2) (by decide)
  exact decodes_of_long rfl h0 (by
    simp only [decodeLong, hm, hd, hf, decodeDrainX_packDrainX x, decodeMdrain_packMdrain x y d (l := 2) (by decide), Option.map_some])

theorem mdrainAt_decodes (x : DrainX) (y : MdrainX) (d : Reg) (t : DWord) : (Instr.mdrainAt x y d t).Decodes := by
  obtain ⟨h0, hm, hd, hf⟩ := packMdrain_fields y d (l := 3) (by decide)
  exact decodes_of_lit rfl h0 (by
    simp only [decodeLit, hm, hd, hf, decodeDrainX_packDrainX x, decodeMdrain_packMdrain x y d (l := 3) (by decide), Option.map_some,
      BitVec.ofNat_toNat, BitVec.setWidth_eq])

theorem mdraina_decodes (x : DrainX) (y : MdrainaX) (a : Reg) : (Instr.mdraina x y a).Decodes := by
  obtain ⟨h0, hm, ha, hf⟩ := packMdraina_fields y a (l := 2) (by decide)
  exact decodes_of_long rfl h0 (by
    simp only [decodeLong, hm, ha, hf, decodeDrainX_under, decodeMdraina_packMdraina x y a (l := 2) (by decide), Option.map_some])

theorem mdrainaAt_decodes (x : DrainX) (y : MdrainaX) (a : Reg) (t : DWord) : (Instr.mdrainaAt x y a t).Decodes := by
  obtain ⟨h0, hm, ha, hf⟩ := packMdraina_fields y a (l := 3) (by decide)
  exact decodes_of_lit rfl h0 (by
    simp only [decodeLit, hm, ha, hf, decodeDrainX_under, decodeMdraina_packMdraina x y a (l := 3) (by decide), Option.map_some,
      BitVec.ofNat_toNat, BitVec.setWidth_eq])

theorem bload_decodes (x : BloadX) (a : Reg) : (Instr.bload x a).Decodes := by
  have hf := x.fmt.code_lt
  have hb := bitOf_le x.am
  refine decodes_of_long rfl (packReg_length (by decide)) ?_
  generalize h1 : (_ : Nat) + bitOf x.am * 2 ^ 26 = x1
  have e1 : vfld 8 x1 0 = x.p := vfld_of_mod (by omega)
  have e2 : vfld 9 x1 8 = x.k := vfld_of_mod (by omega)
  have e3 : vfld 9 x1 17 = x.n := vfld_of_mod (by omega)
  have e4 : bfld x1 26 = x.am := bfld_of_mod (by omega)
  simp (disch := omega) [decodeLong, decodeSetup, e1, e2, e3, e4]

theorem minit_decodes (x : MinitX) (a : Reg) : (Instr.minit x a).Decodes := by
  refine decodes_of_long rfl (packReg_length (by decide)) ?_
  generalize h1 : (_ : Nat) + x.rows.toNat * 2 ^ 13 = x1
  have e1 : vfld 4 x1 0 = x.tiles := vfld_of_mod (by omega)
  have e2 : vfld 9 x1 4 = x.row0 := vfld_of_mod (by omega)
  have e3 : vfld 9 x1 13 = x.rows := vfld_of_mod (by omega)
  simp (disch := omega) [decodeLong, decodeSetup, e1, e2, e3]

theorem mpload_decodes (x : MploadX) (a : Reg) : (Instr.mpload x a).Decodes := by
  have hb := bitOf_le x.am
  refine decodes_of_long rfl (packReg_length (by decide)) ?_
  generalize h1 : (_ : Nat) + bitOf x.am * 2 ^ 20 = x1
  have e1 : ifld 4 (by decide) x1 0 = x.t := ifld_of_mod (by omega)
  have e2 : vfld 9 x1 2 = x.row0 := vfld_of_mod (by omega)
  have e3 : vfld 9 x1 11 = x.rows := vfld_of_mod (by omega)
  have e4 : bfld x1 20 = x.am := bfld_of_mod (by omega)
  simp (disch := omega) [decodeLong, decodeSetup, e1, e2, e3, e4]

theorem mstat_decodes (t : Fin 4) (d : Reg) : (Instr.mstat t d).Decodes := by
  refine decodes_of_long rfl (packReg_length (by decide)) ?_
  simp (disch := omega) [decodeLong, decodeSetup]

/-- What the words of a product show (13 R234). -/
structure ProductWords (w x1 x2 fn : Nat) (x : MmaX) : Prop where
  fa : fld w 27 4 = x.fa.code
  fb : fld w 18 4 = x.fb.code
  fn : fld w 23 4 = fn
  top : bfld w 31 = false
  mid : bfld w 22 = false
  x1Top : fld x1 28 4 = 0
  m : vfld 9 x1 19 = x.m
  row0 : vfld 9 x1 10 = x.row0
  p0 : vfld 8 x1 2 = x.p0
  t : ifld 4 (by decide) x1 0 = x.t
  pitch : vfld 18 x2 14 = x.pitch
  am : bfld x2 13 = x.am
  k : vfld 13 x2 0 = x.k

theorem productWords_pack (x : MmaX) (d a : Reg) {fn : Nat} (hf : fn < 16) :
    ProductWords (packReg x.fa.code fn x.fb.code a.val d.val 0x31 + 2) (packMmaX1 x) (packMmaX2 x) fn x := by
  have h1 := x.fa.code_lt
  have h2 := x.fb.code_lt
  have h3 := bitOf_le x.am
  refine ⟨?_, ?_, ?_, bfld_false_of_mod ?_, bfld_false_of_mod ?_, ?_, vfld_of_mod ?_, vfld_of_mod ?_, vfld_of_mod ?_, ifld_of_mod ?_,
    vfld_of_mod ?_, bfld_of_mod ?_, vfld_of_mod ?_⟩ <;> simp only [packReg, packF, packMmaX1, packMmaX2, fld] <;> omega

theorem ProductWords.mma {w x1 x2 : Nat} {x : MmaX} (h : ProductWords w x1 x2 0 x) (a : Reg) : decodeProduct w x1 x2 0 a = some (.mma x a) := by
  simp [decodeProduct, h.fa, h.fb, h.top, h.mid, h.x1Top, h.fn, h.m, h.row0, h.p0, h.t, h.pitch, h.am, h.k]

theorem ProductWords.mmad {w x1 x2 : Nat} {x : MmaX} (h : ProductWords w x1 x2 1 x) (d a : Reg) :
    decodeProduct w x1 x2 d a = some (.mmad x d a) := by
  simp [decodeProduct, h.fa, h.fb, h.top, h.mid, h.x1Top, h.fn, h.m, h.row0, h.p0, h.t, h.pitch, h.am, h.k]

theorem decodeLong_product {md fn b x1 x2 : Nat} (d a : Reg) :
    decodeLong (packReg md fn b a.val d.val 0x31 + 2) x1 x2 = decodeProduct (packReg md fn b a.val d.val 0x31 + 2) x1 x2 d a := by
  simp (disch := omega) [decodeLong]

theorem mma_decodes (x : MmaX) (a : Reg) : (Instr.mma x a).Decodes :=
  decodes_of_long rfl (packReg_length (by decide)) ((decodeLong_product 0 a).trans ((productWords_pack x 0 a (by decide)).mma a))

theorem mmad_decodes (x : MmaX) (d a : Reg) : (Instr.mmad x d a).Decodes :=
  decodes_of_long rfl (packReg_length (by decide)) ((decodeLong_product d a).trans ((productWords_pack x d a (by decide)).mmad d a))

/-- The flags and the status register of a lineage instruction (15 R256). -/
theorem lineageFlags (t nf : Bool) : bfld (bitOf t + bitOf nf * 2) 0 = t ∧ bfld (bitOf t + bitOf nf * 2) 1 = nf ∧
    bitOf t + bitOf nf * 2 < 4 := by
  cases t <;> cases nf <;> decide

theorem statusField (s : Reg) : rfld (s.val * 2 ^ 27) 27 = s ∧ fld (s.val * 2 ^ 27) 0 27 = 0 :=
  ⟨rfld_of_mod (by omega), by simp only [fld]; omega⟩

theorem decodeLong_lineage {md fn b a d x1 x2 : Nat} (hd : d < 32) (ha : a < 32) (hb : b < 32) :
    decodeLong (packReg md fn b a d 0x34 + 2) x1 x2 = decodeLineage (packReg md fn b a d 0x34 + 2) x1 x2 ⟨d, hd⟩ ⟨a, ha⟩ ⟨b, hb⟩ := by
  simp (disch := omega) [decodeLong]

theorem fork_decodes (t nf : Bool) (d a s : Reg) : (Instr.fork t nf d a s).Decodes := by
  obtain ⟨f0, f1, flt⟩ := lineageFlags t nf
  obtain ⟨hs, h0⟩ := statusField s
  refine decodes_of_long rfl (packReg_length (by decide)) ?_
  generalize s.val * 2 ^ 27 = x2 at hs h0
  simp (disch := omega) [decodeLong_lineage, decodeLineage, f0, f1, hs, h0]

theorem rebase_decodes (t : Bool) (a b s : Reg) : (Instr.rebase t a b s).Decodes := by
  have ht := bitOf_le t
  obtain ⟨hs, h0⟩ := statusField s
  refine decodes_of_long rfl (packReg_length (by decide)) ?_
  generalize s.val * 2 ^ 27 = x2 at hs h0
  simp (disch := omega) [decodeLong_lineage, decodeLineage, hs, h0]

theorem flat_decodes (t : Bool) (a s : Reg) : (Instr.flat t a s).Decodes := by
  have ht := bitOf_le t
  obtain ⟨hs, h0⟩ := statusField s
  refine decodes_of_long rfl (packReg_length (by decide)) ?_
  generalize s.val * 2 ^ 27 = x2 at hs h0
  simp (disch := omega) [decodeLong_lineage, decodeLineage, hs, h0]

theorem tfree_decodes (t : Bool) (a s : Reg) : (Instr.tfree t a s).Decodes := by
  have ht := bitOf_le t
  obtain ⟨hs, h0⟩ := statusField s
  refine decodes_of_long rfl (packReg_length (by decide)) ?_
  generalize s.val * 2 ^ 27 = x2 at hs h0
  simp (disch := omega) [decodeLong_lineage, decodeLineage, hs, h0]

theorem tinfo_decodes (q : Fin 4) (d a : Reg) : (Instr.tinfo q d a).Decodes :=
  decodes_of_long rfl (packReg_length (by decide)) (by simp (disch := omega) [decodeLong_lineage, decodeLineage])

theorem tnew_decodes (rows cols : BitVec 24) (f : Fmt) (maxd : BitVec 4) (d a b : Reg) : (Instr.tnew rows cols f maxd d a b).Decodes := by
  have hf := f.code_lt
  refine decodes_of_long rfl (packReg_length (by decide)) ?_
  generalize h1 : (_ : Nat) + maxd.toNat * 2 ^ 28 = x1
  have e1 : vfld 24 x1 0 = rows := vfld_of_mod (by omega)
  have e2 : fld x1 24 4 = f.code := by simp only [fld]; omega
  have e3 : vfld 4 x1 28 = maxd := vfld_of_mod (by omega)
  simp (disch := omega) [decodeLong_lineage, decodeLineage, e1, e2, e3]

theorem topen_decodes (colb coln : BitVec 24) (keep : BitVec 4) (d a b : Reg) : (Instr.topen colb coln keep d a b).Decodes := by
  refine decodes_of_long rfl (packReg_length (by decide)) ?_
  generalize h2 : (_ : Nat) + keep.toNat * 2 ^ 24 = x2
  have e1 : vfld 24 x2 0 = coln := vfld_of_mod (by omega)
  have e2 : vfld 4 x2 24 = keep := vfld_of_mod (by omega)
  simp (disch := omega) [decodeLong_lineage, decodeLineage, e1, e2]

theorem twr_decodes (t : Bool) (a b s : Reg) : (Instr.twr t a b s).Decodes := by
  have ht := bitOf_le t
  obtain ⟨hs, h0⟩ := statusField s
  refine decodes_of_long rfl (packReg_length (by decide)) ?_
  generalize s.val * 2 ^ 27 = x2 at hs h0
  simp (disch := omega) [decodeLong, decodeTensor, hs, h0]

theorem tld_decodes (z : TSz) (d a i : Reg) (off : Word) : (Instr.tld z d a i off).Decodes := by
  have hz := z.code_lt
  have e1 : fld z.code 0 3 = z.code := fld_zero hz
  exact decodes_of_long rfl (packReg_length (by decide)) (by simp (disch := omega) [decodeLong, decodeTensor, e1])

theorem tst_decodes (t : Bool) (z : TSz) (d a i s : Reg) (off : Word) : (Instr.tst t z d a i s off).Decodes := by
  have hz := z.code_lt
  have ht := bitOf_le t
  refine decodes_of_long rfl (packReg_length (by decide)) ?_
  generalize h2 : z.code + s.val * 2 ^ 27 = x2
  have e1 : fld x2 0 3 = z.code := by simp only [fld]; omega
  have e2 : fld x2 3 24 = 0 := by simp only [fld]; omega
  have e3 : rfld x2 27 = s := rfld_of_mod (by omega)
  simp (disch := omega) [decodeLong, decodeTensor, e1, e2, e3]

/-- What the words of a selection show (18 R289). -/
structure HawkWords (w x1 fn : Nat) (low wn : Bool) (x : HselX) : Prop where
  kf : fld w 28 4 = x.kf.code
  low : bfld w 27 = low
  fn : fld w 23 4 = fn
  top : fld x1 27 5 = 0
  am : bfld x1 26 = x.am
  hold : bfld x1 25 = x.hold
  nanin : bfld x1 24 = x.nanin
  mr : rfld x1 19 = x.mr
  mv : bfld x1 18 = x.mv
  wn : bfld x1 17 = wn
  n : vfld 17 x1 0 = x.n

theorem hawkWords_pack (x : HselX) {low wn : Bool} (d a b : Reg) {fn md x1 : Nat} (hf : fn < 16) (hm : md = x.kf.code * 2 + bitOf low)
    (hx : x1 = packHselX x + bitOf wn * 2 ^ 17) : HawkWords (packReg md fn b.val a.val d.val 0x37 + 2) x1 fn low wn x := by
  have h1 := x.kf.code_lt
  have h2 := bitOf_le low
  have h3 := bitOf_le wn
  have h4 := bitOf_le x.am
  have h5 := bitOf_le x.hold
  have h6 := bitOf_le x.nanin
  have h7 := bitOf_le x.mv
  simp only [packHselX] at hx
  exact {
    kf := by simp only [packReg, packF, fld]; omega
    low := bfld_of_mod (by simp only [packReg, packF]; omega)
    fn := by simp only [packReg, packF, fld]; omega
    top := by simp only [fld]; omega
    am := bfld_of_mod (by omega)
    hold := bfld_of_mod (by omega)
    nanin := bfld_of_mod (by omega)
    mr := rfld_of_mod (by omega)
    mv := bfld_of_mod (by omega)
    wn := bfld_of_mod (by omega)
    n := vfld_of_mod (by omega) }

theorem HawkWords.hsel {w x1 : Nat} {asc : Bool} {x : HselX} (h : HawkWords w x1 0 asc false x) (d a b : Reg) :
    decodeHawk w x1 0 d a b = some (.hsel asc x d a b) := by
  simp [decodeHawk, h.kf, h.low, h.fn, h.top, h.am, h.hold, h.nanin, h.mr, h.mv, h.wn, h.n]

theorem HawkWords.hselw {w x1 : Nat} {wn : Bool} {x : HselX} (h : HawkWords w x1 1 false wn x) (p : Word) (d a b : Reg) :
    decodeHawk w x1 p.toNat d a b = some (.hselw wn x p d a b) := by
  simp [decodeHawk, h.kf, h.low, h.fn, h.top, h.am, h.hold, h.nanin, h.mr, h.mv, h.wn, h.n]

theorem decodeLong_hawk {md fn x1 x2 : Nat} (d a b : Reg) : decodeLong (packReg md fn b.val a.val d.val 0x37 + 2) x1 x2 =
    decodeHawk (packReg md fn b.val a.val d.val 0x37 + 2) x1 x2 d a b := by
  simp (disch := omega) [decodeLong]

theorem hsel_decodes (asc : Bool) (x : HselX) (d a b : Reg) : (Instr.hsel asc x d a b).Decodes :=
  decodes_of_long rfl (packReg_length (by decide))
    ((decodeLong_hawk d a b).trans ((hawkWords_pack x d a b (by decide) rfl (by simp [bitOf])).hsel d a b))

theorem hselw_decodes (wn : Bool) (x : HselX) (p : Word) (d a b : Reg) : (Instr.hselw wn x p d a b).Decodes :=
  decodes_of_long rfl (packReg_length (by decide))
    ((decodeLong_hawk d a b).trans ((hawkWords_pack x d a b (by decide) rfl rfl).hselw p d a b))

/-! ## Every instruction -/

/-- The decoder reads every instruction's words as that instruction, with any L its form may carry. -/
theorem instr_decodes (i : Instr) : i.Decodes := by
  cases i with
  | add d a b | sub d a b | and d a b | or d a b | xor d a b | andn d a b | shl d a b | shr d a b | sra d a b | rol d a b | min d a b
  | max d a b | minn d a b | maxn d a b | slt d a b | sltn d a b =>
    exact decodes_of_reg rfl fun l hl => decodeShort_alu hl d.isLt a.isLt b.isLt (by decide)
  | mul d a b | mulh d a b | mulhn d a b | div d a b | divn d a b | rem d a b | remn d a b =>
    exact decodes_of_reg rfl fun l hl => decodeShort_mul hl d.isLt a.isLt b.isLt (by decide)
  | clz d a | ctz d a | popc d a =>
    exact decodes_of_reg rfl fun l hl => decodeShort_mul hl d.isLt a.isLt (by decide : 0 < 32) (by decide)
  | nop | exit => exact decodes_of_reg rfl fun l hl => by simp (disch := omega) [decodeShort_slot, decodeSlot]
  | jalr d a => exact decodes_of_reg rfl fun l hl => by simp (disch := omega) [decodeShort_slot, decodeSlot]
  | spawn d a b => exact decodes_of_reg rfl fun l hl => by simp (disch := omega) [decodeShort_slot, decodeSlot]
  | waitt a | sleep a => exact decodes_of_reg rfl fun l hl => by simp (disch := omega) [decodeShort_slot, decodeSlot]
  | mov d a | move d a | kind d a => exact decodes_of_reg rfl fun l hl => by simp (disch := omega) [decodeShort_kinds, decodeKinds]
  | csetb d a b | csetp d a b | csetc d a b | cinc d a b =>
    exact decodes_of_reg rfl fun l hl => by simp (disch := omega) [decodeShort_kinds, decodeKinds]
  | cget f d a =>
    have h := f.code_lt
    exact decodes_of_reg rfl fun l hl => by simp (disch := omega) [decodeShort_kinds, decodeKinds]
  | fadd rm d a b | fsub rm d a b | fmul rm d a b | fdiv rm d a b | fcmp rm d a b =>
    have h := rm.code_lt
    exact decodes_of_reg rfl fun l hl => by simp (disch := omega) [decodeShort_float, decodeFloat]
  | fsqrt rm d a =>
    have h := rm.code_lt
    exact decodes_of_reg rfl fun l hl => by simp (disch := omega) [decodeShort_float, decodeFloat]
  | fmin d a b | fmax d a b => exact decodes_of_reg rfl fun l hl => by simp (disch := omega) [decodeShort_float, decodeFloat]
  | fclass d a => exact decodes_of_reg rfl fun l hl => by simp (disch := omega) [decodeShort_float, decodeFloat]
  | img f d a | imgi f d a => exact decodes_of_cvt rfl (by decide) (by decide) fun w h => by simp [decodeCvt, h.src, h.form, h.rm, h.b]
  | movmMg d m | mpop d m | mff d m => exact decodes_of_reg rfl fun l hl => by simp (disch := omega) [decodeShort_mask, decodeMask]
  | movmGm m a => exact decodes_of_reg rfl fun l hl => by simp (disch := omega) [decodeShort_mask, decodeMask]
  | mand d a b | mor d a b | mxor d a b => exact decodes_of_reg rfl fun l hl => by simp (disch := omega) [decodeShort_mask, decodeMask]
  | mnot d a => exact decodes_of_reg rfl fun l hl => by simp (disch := omega) [decodeShort_mask, decodeMask]
  | gjoin g | gleave g => exact decodes_of_reg rfl fun l hl => by simp (disch := omega) [decodeShort_group, decodeGroup]
  | gshfl g d a b => exact decodes_of_reg rfl fun l hl => by simp (disch := omega) [decodeShort_group, decodeGroup]
  | gvote g m d a =>
    have h := m.code_lt
    exact decodes_of_reg rfl fun l hl => by simp (disch := omega) [decodeShort_group, decodeGroup]
  | gmatch g d a => exact decodes_of_reg rfl fun l hl => by simp (disch := omega) [decodeShort_group, decodeGroup]
  | binit n r | bwait n r | bsync n r | bexp n r | cstat n r =>
    exact decodes_of_packF rfl fun l hl => by simp (disch := omega) [decodeShort_bar, decodeBar]
  | barr n => exact decodes_of_packF rfl fun l hl => by simp (disch := omega) [decodeShort_bar, decodeBar]
  | pbind d => exact decodes_of_reg rfl fun l hl => by simp (disch := omega) [decodeShort_port, decodePort]
  | btag a b => exact decodes_of_reg rfl fun l hl => by simp (disch := omega) [decodeShort_port, decodePort]
  | peek d a => exact decodes_of_reg rfl fun l hl => by simp (disch := omega) [decodeShort_port, decodePort]
  | loopb d a b => exact decodes_of_reg rfl fun l hl => by simp (disch := omega) [decodeShort_port, decodePort]
  | calloc d a | cshape d a => exact decodes_of_reg rfl fun l hl => by simp (disch := omega) [decodeShort_cocoon, decodeCocoon]
  | cjoin d a b => exact decodes_of_reg rfl fun l hl => by simp (disch := omega) [decodeShort_cocoon, decodeCocoon]
  | cfree a => exact decodes_of_reg rfl fun l hl => by simp (disch := omega) [decodeShort_cocoon, decodeCocoon]
  | tsub a b => exact decodes_of_reg rfl fun l hl => by simp (disch := omega) [decodeShort_task, decodeTask]
  | tdone => exact decodes_of_reg rfl fun l hl => by simp (disch := omega) [decodeShort_task, decodeTask]
  | gate op d a b =>
    have h := op.code_lt
    exact decodes_of_reg rfl fun l hl => by simp (disch := omega) [decodeShort_task, decodeTask]
  | qpost op a b =>
    have h := op.code_lt
    exact decodes_of_reg rfl fun l hl => by simp (disch := omega) [decodeShort_task, decodeTask]
  | lds op d a | sts op d a | fest op d a | feget op d a =>
    exact decodes_of_few rfl (by decide) fun w l h => by
      simp only [decodeFew, h.zero, h.fn, h.am, h.off, h.inc, Bool.not_false, onlyIf_true]
  | addi d a imm | andi d a imm | ori d a imm | xori d a imm | slti d a imm =>
    exact decodes_of_imm rfl (by decide) fun w l h hx => by simp only [decodeShort, h.major, h.d, h.a, vfld14_of_above hx]
  | shli d a sh | shri d a sh | srai d a sh =>
    exact decodes_of_shift rfl (by decide) fun w l h => by
      simp only [decodeShort, h.major, h.d, h.a, h.zero, h.fn, h.sh, beq_self_eq_true, onlyIf_true]
  | sel d a b c => exact decodes_of_packF rfl fun l hl => by simp (disch := omega) [decodeShort]
  | crr c d => exact decodes_of_packF rfl fun l hl => by simp (disch := omega) [decodeShort]
  | trap c => exact decodes_of_packF rfl fun l hl => by simp (disch := omega) [decodeShort]
  | send t a b | sendh t a b => exact decodes_of_packF rfl fun l hl => by simp (disch := omega) [decodeShort]
  | scnt d a | hmask d a => exact decodes_of_reg rfl fun l hl => by simp (disch := omega) [decodeShort]
  | hstat d => exact decodes_of_reg rfl fun l hl => by simp (disch := omega) [decodeShort]
  | trd d a => exact decodes_of_long rfl (packReg_length (by decide)) (by simp (disch := omega) [decodeLong, decodeTensor])
  | bCc cc a b off => exact bCc_decodes cc a b off
  | biCc cc a imm off => exact biCc_decodes cc a imm off
  | j off => exact j_decodes off
  | jal d off => exact jal_decodes d off
  | li d imm => exact li_decodes d imm
  | crw c a => exact crw_decodes c a
  | ld op d a => exact ld_decodes op d a
  | st op d a => exact st_decodes op d a
  | ffma rm d a b c => exact ffma_decodes rm d a b c
  | atm op f d a b => exact atm_decodes op f d a b
  | atmCas f d a b c => exact atmCas_decodes f d a b c
  | atmf op am rx d a b => exact atmf_decodes op am rx d a b
  | sbind wr f d a b => exact sbind_decodes wr f d a b
  | cred op d a b => exact cred_decodes op d a b
  | fence s => exact fence_decodes s
  | fencex s p => exact fencex_decodes s p
  | cvt rm f t d a => exact cvt_decodes rm f t d a
  | gxld g wide am d a => exact gxld_decodes g wide am d a
  | gred g op d a => exact gred_decodes g op d a
  | csplit col d a b => exact csplit_decodes col d a b
  | trec q d => exact trec_decodes q d
  | bCcX cc a b off => exact bCcX_decodes cc a b off
  | biCcX cc a imm off => exact biCcX_decodes cc a imm off
  | ppt mask => exact ppt_decodes mask
  | liX d imm => exact liX_decodes d imm
  | cpy x d a b => exact cpy_decodes x d a b
  | cpyAt x d a b t => exact cpyAt_decodes x d a b t
  | cpys x d a b => exact cpys_decodes x d a b
  | cpysAt x d a b t => exact cpysAt_decodes x d a b t
  | tsubAt a b t => exact tsubAt_decodes a b t
  | bload x a => exact bload_decodes x a
  | minit x a => exact minit_decodes x a
  | mpload x a => exact mpload_decodes x a
  | mstat t d => exact mstat_decodes t d
  | mma x a => exact mma_decodes x a
  | mmad x d a => exact mmad_decodes x d a
  | mdrain x y d => exact mdrain_decodes x y d
  | mdrainAt x y d t => exact mdrainAt_decodes x y d t
  | mdraina x y a => exact mdraina_decodes x y a
  | mdrainaAt x y a t => exact mdrainaAt_decodes x y a t
  | tnew rows cols f maxd d a b => exact tnew_decodes rows cols f maxd d a b
  | topen colb coln keep d a b => exact topen_decodes colb coln keep d a b
  | fork t nf d a s => exact fork_decodes t nf d a s
  | rebase t a b s => exact rebase_decodes t a b s
  | flat t a s => exact flat_decodes t a s
  | tfree t a s => exact tfree_decodes t a s
  | tinfo q d a => exact tinfo_decodes q d a
  | twr t a b s => exact twr_decodes t a b s
  | tld z d a i off => exact tld_decodes z d a i off
  | tst t z d a i s off => exact tst_decodes t z d a i s off
  | hsel asc x d a b => exact hsel_decodes asc x d a b
  | hselw wn x p d a b => exact hselw_decodes wn x p d a b
  | vadd v | vsub v | vmul v | vfma v | vmin v | vmax v | vsel v | vcx v | vand v | vor v | vxor v | vshl v | vshr v | viadd v | visub v | vimul v
  | vscan v | vgath v | vscat v | vred v | vabs v | vneg v | vexp2 v | vlog2 v | vrcp v | vrsq v | vtanh v | vmov v | vsplat v | vcvt v =>
    exact vector_decodes rfl
  | vcmp p v => exact vector_decodes rfl
  | _ => exact trivial

/-! ## Bundles -/

/-- Only the vector words have the form of a second word (02 R29). -/
theorem enc_vec_iff (i : Instr) : (∃ w, i.enc = .vec w) ↔ i.isVector = true := by
  cases i <;> simp [Instr.enc, Instr.isVector]

/-- What may stand first in a pair is one word (02 R32). -/
theorem enc_short_of_pairFirst {i : Instr} (h : i.pairFirst = true) : ∃ w, i.enc = .short w := by
  cases i with
  | bCc | biCc | j | jal | nop | crr | add | sub | and | or | xor | andn | shl | shr | sra | rol | min | max | minn | maxn | slt | sltn | mul | mulh
  | mulhn | div | divn | rem | remn | clz | ctz | popc | sel | addi | andi | ori | xori | slti | shli | shri | srai | li | mov | move | kind | cget
  | csetb | csetp | csetc | cinc | ld | st | fadd | fsub | fmul | fdiv | fsqrt | fmin | fmax | fcmp | fclass | ffma | cvt | img | imgi | sbind | scnt
  | movmMg | movmGm | mand | mor | mxor | mnot | mpop | mff => exact ⟨_, rfl⟩
  | _ => cases h

theorem decodeBundle_single {i : Instr} (hv : i.isVector = false) (hn : i.enc ≠ .none) : decodeBundle (Bundle.mk i none).encode = some ⟨i, none⟩ := by
  have hi := instr_decodes i
  unfold Instr.Decodes at hi
  cases he : i.enc with
  | short w =>
    rw [he] at hi
    obtain ⟨h0, hd⟩ := hi 0 (by decide)
    rw [Nat.add_zero] at h0 hd
    simp [Bundle.encode, he, decodeBundle, h0, hd]
  | long w x1 x2 =>
    rw [he] at hi
    obtain ⟨h2, hd⟩ := hi
    simp [Bundle.encode, he, decodeBundle, h2, hd]
  | lit w x1 x2 t =>
    rw [he] at hi
    obtain ⟨h3, hd⟩ := hi
    have ht : t / 2 ^ 32 * 2 ^ 32 + t % 2 ^ 32 = t := Nat.div_add_mod' t _
    simp only [Bundle.encode, he, decodeBundle, h3, if_true, ht, hd, Option.map_some]
  | vec w =>
    rw [(enc_vec_iff i).mp ⟨w, he⟩] at hv
    cases hv
  | none => exact absurd he hn

theorem decodeBundle_pair {i v : Instr} (hp : i.pairFirst = true) (hv : v.isVector = true) :
    decodeBundle (Bundle.mk i (some v)).encode = some ⟨i, some v⟩ := by
  obtain ⟨w, hw⟩ := enc_short_of_pairFirst hp
  obtain ⟨x, hx⟩ := (enc_vec_iff v).mpr hv
  have hi := instr_decodes i
  have hj := instr_decodes v
  unfold Instr.Decodes at hi hj
  rw [hw] at hi
  rw [hx] at hj
  obtain ⟨h1, hd⟩ := hi 1 (by decide)
  simp only [Bundle.encode, hw, hx, decodeBundle, h1, if_true, hd, hj]

/-- Settles O57, instruction by instruction (`instr_decodes`): a field of a word is read where its form packs it, and a first word's L stands in
two bits of its own. -/
theorem decodingUndoesEncoding : Obligations.DecodingUndoesEncoding := by
  rintro n ⟨i, v⟩ hwf hn
  cases v with
  | none =>
    simp only [Bundle.wf, Bool.and_eq_true, Bool.not_eq_true'] at hwf
    exact decodeBundle_single hwf.2 hn
  | some v =>
    simp only [Bundle.wf, Bool.and_eq_true] at hwf
    obtain ⟨⟨⟨-, hp⟩, hv⟩, -⟩ := hwf
    exact decodeBundle_pair hp hv

/-- Settles O58: the decoder run on each of the words. -/
theorem decodedWords : Obligations.DecodedWords := by
  unfold Obligations.DecodedWords
  decide

end Sys2Proof

namespace Sys2Proof.Machine

/-! ## A fault leaves the local stores' words alone (21 R319) -/

/-- Between two states every tag and every full/empty state is the same. -/
structure SameWords (s u : State) : Prop where
  tags : u.tags = s.tags
  empties : u.empties = s.empties

theorem SameWords.refl (s : State) : SameWords s s := ⟨rfl, rfl⟩

theorem SameWords.trans {s u v : State} (a : SameWords s u) (b : SameWords u v) : SameWords s v :=
  ⟨b.tags.trans a.tags, b.empties.trans a.empties⟩

theorem SameWords.foldl {α : Type} {f : State → α → State} (h : ∀ s a, SameWords s (f s a)) (l : List α) (s : State) :
    SameWords s (l.foldl f s) := by
  induction l generalizing s with
  | nil => exact .refl s
  | cons a rest ih => exact (h s a).trans (ih _)

theorem setT_sameWords (s : State) (tid : Nat) (t : Thread) : SameWords s (setT s tid t) := ⟨rfl, rfl⟩

theorem setHlt_sameWords (s : State) (cl k : Nat) (e : HltEntry) : SameWords s (setHlt s cl k e) := ⟨rfl, rfl⟩

theorem dropLate_sameWords (s : State) (tid : Nat) : SameWords s (dropLate s tid) := by
  unfold dropLate
  split
  · exact .refl s
  · split
    · exact .refl s
    · refine SameWords.trans (setT_sameWords s tid _) (SameWords.foldl (fun u p => ?_) _ _)
      split
      · exact ⟨rfl, rfl⟩
      · exact .refl u

theorem unreserve_sameWords (s : State) (tid : Nat) : SameWords s (unreserve s tid) := by
  have h := SameWords.foldl (f := fun u (p : Nat × CocOp) =>
      match p.2.op with
      | .csplit _ _ _ _ =>
        let u1 := setHlt u (tid / 256) p.2.x { hltEntry u (tid / 256) p.2.x with state := .free }
        setHlt u1 (tid / 256) p.2.y { hltEntry u1 (tid / 256) p.2.y with state := .free }
      | _ => u) (fun u p => by
    split
    · exact (setHlt_sameWords ..).trans (setHlt_sameWords ..)
    · exact .refl u) (s.cocs.filter (fun p => p.2.tid == tid)) s
  exact ⟨h.tags, h.empties⟩

theorem takeFault_sameWords (s : State) (tid : Nat) (c : Cause) (addr : Nat) : SameWords s (takeFault s tid c addr) := by
  unfold takeFault
  split
  · exact .refl s
  · have h := (dropLate_sameWords s tid).trans (unreserve_sameWords _ tid)
    generalize unreserve (dropLate s tid) tid = u at h
    exact ⟨h.tags, h.empties⟩

/-! ## The record of a fault, its thread and its decision -/

section Taken
variable {s : State} {tid : Nat} {t : Thread} (ht : getT s tid = some t) (c : Cause) (addr : Nat)
include ht

theorem takeFault_record : tget s.nextId (takeFault s tid c addr).faults =
    some ⟨tid, t.ctx, t.owner, c, BitVec.ofNat 64 addr, t.pc, taskidOf s t.owner⟩ := by
  simp only [takeFault, ht]
  exact tget_tset_same ..

theorem takeFault_getT : getT (takeFault s tid c addr) tid =
    some { t with status := .parked (.faultRec s.nextId), popDue := none, latch := none, late := none } := by
  simp only [takeFault, ht]
  exact getT_setT_same ..

theorem takeFault_decision : ∃ d, s.cycle < d ∧ (d, Instr.faultDecision s.nextId) ∈ (takeFault s tid c addr).agenda := by
  refine ⟨s.cycle + 1 + Config.freeNat s.free, by omega, ?_⟩
  simp only [takeFault, ht]
  exact mem_sched.mpr (.inl rfl)

end Taken

/-! ## The bundle again, and the fault registers (21 R320) -/

/-- A slot's first turn after a cycle is one of the 16 cycles after it. -/
theorem turnAfter_bounds (c slot : Nat) : c < turnAfter c slot ∧ turnAfter c slot ≤ c + 16 := by
  unfold turnAfter
  omega

theorem turnAfter_mod (c tid : Nat) : turnAfter c (tid % 16) % 16 = tid % 16 := by
  unfold turnAfter
  omega

/-- A thread that replays is ready in its next turn, and remembers the fault for that issue. -/
theorem replayThread_getT {s : State} {tid : Nat} {t : Thread} (ht : getT s tid = some t) (f : FaultRec) :
    ∃ n, getT (replayThread s tid f) tid =
      some { t with status := .ready, nextIssue := turnAfter s.cycle (tid % 16), held := n, replay := some (f.cause, f.addr, f.pc) } := by
  simp only [replayThread, ht]
  exact ⟨_, getT_setT_same ..⟩

theorem writeFlt_getT {s : State} {t : Thread} {f : FaultRec} (ht : getT s f.tid = some t) (ho : t.owner = f.owner) :
    getT (writeFlt s f) f.tid = some (t.flt f.cause f.addr f.pc) := by
  simp only [writeFlt, ht, ho, if_true]
  exact getT_setT_same ..

theorem bundleFault_eq {s : State} {i : Issue} {t : Thread} (h : issuer s = some (i, t)) (c : Cause) (addr : Thread → Nat) :
    bundleFault c addr s = .next (takeFault s i.tid c (addr t)) := by
  simp only [bundleFault, h]

/-- Settles O37: each part is what takeFault, replayThread or writeFlt does, the frame of a fault being that of the operations it withdraws. -/
theorem faultsAreTakenAndReplayed : Obligations.FaultsAreTakenAndReplayed := by
  refine ⟨fun s i t hi => ⟨bundleFault_eq hi .., fun perm addr => bundleFault_eq hi ..⟩, fun s tid t c addr ht => ?_,
    fun s tid t f ht => ?_, fun s t f ht ho => writeFlt_getT ht ho⟩
  · have frame := takeFault_walkFrame s tid c addr
    have words := takeFault_sameWords s tid c addr
    exact ⟨⟨_, takeFault_record ht c addr, rfl, rfl, rfl, rfl, rfl, rfl, rfl⟩, takeFault_getT ht c addr, frame.threads, frame.mem, words.tags,
      words.empties, takeFault_decision ht c addr⟩
  · obtain ⟨n, hw⟩ := replayThread_getT ht f
    have hturn := turnAfter_bounds s.cycle (tid % 16)
    exact ⟨_, hw, rfl, rfl, rfl, hturn.1, hturn.2, turnAfter_mod s.cycle tid, fun _ => ⟨rfl, rfl, rfl, rfl⟩⟩

end Sys2Proof.Machine

namespace Sys2Proof.Machine

/-! ## A turn runs the decoded bundle (02 R33-R36, 04 R53) -/

section Turn
variable {s : State} {tid : Nat} {t : Thread}

/-- With no woken bundle to go on, the thread whose turn it is issues, or retires what has collided. -/
theorem step_of_mayIssue (hw : firstThread goesOn s.threads = none) (hi : firstThread (mayIssue s) s.threads = some (tid, t)) :
    step s = if t.status = .collided then .next (retireLate s tid t) else runTurn s tid t := by
  simp only [step, stepOnce, hw, hi]

/-- Words that decode to a well-formed bundle run as that bundle. -/
theorem runTurn_bundle {ws : List Nat} {b : Bundle} (hf : fetchBundle (issueState s tid t) tid t.ctx t.pc = .ok ws)
    (hd : decodeBundle ws = some b) (hb : Bundle.wf t.nregs b = true) : runTurn s tid t =
      endOutcome (withBundle (issueState s tid t) tid b ws.length) tid (runBundle (withBundle (issueState s tid t) tid b ws.length) tid b) := by
  simp only [runTurn, hf, hd, hb, if_true]

/-- Words that are no bundle of the thread's registers fault. -/
theorem runTurn_illegal {ws : List Nat} (hf : fetchBundle (issueState s tid t) tid t.ctx t.pc = .ok ws)
    (hd : decodeBundle ws = none ∨ ∃ b, decodeBundle ws = some b ∧ Bundle.wf t.nregs b = false) :
    runTurn s tid t = endOutcome (issueState s tid t) tid (exec .illegalEncoding (issueState s tid t)) := by
  rcases hd with hd | ⟨b, hd, hb⟩
  · simp only [runTurn, hf, hd]
    rfl
  · simp only [runTurn, hf, hd, hb, Bool.false_eq_true, if_false]
    rfl

theorem runTurn_miss {va : Nat} (hf : fetchBundle (issueState s tid t) tid t.ctx t.pc = .error (.miss va)) : runTurn s tid t =
    .next (endTurn (issueState s tid t) (parkAs (addMiss (issueState s tid t) (tid / 256) t.ctx va (tid / 16)) tid (.fetchWalk va)) tid) := by
  simp only [runTurn, hf]

theorem runTurn_perm {va : Nat} (hf : fetchBundle (issueState s tid t) tid t.ctx t.pc = .error (.fault .perm va)) :
    runTurn s tid t = endOutcome (issueState s tid t) tid (exec (.fetchFault true va) (issueState s tid t)) := by
  simp only [runTurn, hf, if_true]
  rfl

end Turn

/-! ## A collided bundle retires (05 R88, log entry 60) -/

/-- A write of a register ends no thread. -/
theorem getT_setReg_isSome {s : State} {tid : Nat} (h : (getT s tid).isSome = true) (r : Reg) (v : GReg) :
    (getT (setReg s tid r v) tid).isSome = true := by
  unfold setReg
  split
  · exact h
  · split
    · exact h
    · dsimp only
      split <;> simp

theorem retireLate_getT {s : State} {tid : Nat} {t : Thread} {l : Late} (ht : getT s tid = some t) (hl : t.late = some l) :
    ∃ w, getT (retireLate s tid t) tid = some w ∧ w.status = .ready ∧ w.pc = l.pc ∧ w.m = l.m ∧ w.late = none ∧
      w.nextIssue = turnAfter s.cycle (tid % 16) := by
  simp only [retireLate, hl]
  generalize hregs : l.regs.foldl _ s = s1
  have written : (getT s1 tid).isSome = true := by
    subst hregs
    refine List.foldlRecOn (motive := fun u => (getT u tid).isSome = true) _ _ (by rw [ht]; rfl) (fun u hu p _ => ?_)
    split
    · exact getT_setReg_isSome hu ..
    · exact hu
  generalize hpassed : l.passed.foldl _ s1 = s2
  have passed : (getT s2 tid).isSome = true := by
    subst hpassed
    refine List.foldlRecOn (motive := fun u => (getT u tid).isSome = true) _ _ written (fun u hu p _ => ?_)
    split
    · exact hu
    · exact hu
  obtain ⟨u, hu⟩ := Option.isSome_iff_exists.mp passed
  simp only [hu]
  exact ⟨_, getT_setT_same .., rfl, rfl, rfl, rfl, rfl⟩

/-! ## The end of a turn (04 R55) -/

section EndTurn
variable {b u : State} {tid : Nat} {v : Thread}

/-- The turns that the executing bundle of a state loses to collisions. -/
def lostNow (u : State) : Nat :=
  match u.cur with
  | some i => lostTurns i
  | none => 0

theorem endTurn_retires (hv : getT u tid = some v) (hs : v.status = .issuing) (hl : lostNow u = 0) :
    getT (endTurn b u tid) tid = getT (retire u tid) tid := by
  have h : issuing u tid = true := by simp [issuing, hv, hs]
  simp only [endTurn, h, Bool.not_true, Bool.false_eq_true, if_false]
  change getT (if lostNow u = 0 then retire u tid else collide b u tid (lostNow u)) tid = _
  rw [if_pos hl]

theorem endTurn_collides (hv : getT u tid = some v) (hs : v.status = .issuing) (hl : 0 < lostNow u) :
    getT (endTurn b u tid) tid = getT (collide b u tid (lostNow u)) tid := by
  have h : issuing u tid = true := by simp [issuing, hv, hs]
  simp only [endTurn, h, Bool.not_true, Bool.false_eq_true, if_false]
  change getT (if lostNow u = 0 then retire u tid else collide b u tid (lostNow u)) tid = _
  rw [if_neg (Nat.ne_of_gt hl)]

theorem getT_countParked (s : State) (k : Nat) (t : Thread) (j : Nat) : getT (countParked s k t) j = getT s j := by
  unfold countParked
  split <;> rfl

/-- A bundle with no pop to commit retires in its thread alone. -/
theorem retire_getT (hv : getT u tid = some v) (hp : v.popDue = none) : getT (retire u tid) tid =
    some { v with status := .ready, nextIssue := turnAfter u.cycle (tid % 16), held := 0, arrived := false, latch := none } := by
  have h : popRetiring u tid = u := by simp only [popRetiring, hv, hp]
  simp only [retire, h, hv, getT_countParked, getT_setT_same]

/-- A bundle that has collided keeps what its thread had, and what it will write waits. -/
theorem collide_getT {o : Thread} (ho : getT b tid = some o) (hv : getT u tid = some v) (lost : Nat) :
    ∃ w l, getT (collide b u tid lost) tid = some w ∧ w.status = .collided ∧ w.pc = o.pc ∧ w.g = o.g ∧ w.late = some l ∧ l.pc = v.pc ∧
      l.m = v.m ∧ w.nextIssue = turnAfter u.cycle (tid % 16) + 16 * (lost - 1) := by
  simp only [collide, ho, hv]
  exact ⟨_, _, getT_setT_same .., rfl, rfl, rfl, rfl, rfl, rfl, rfl⟩

end EndTurn

/-- Settles O59: a step with a thread to issue is its turn, and a turn is the run of what its words decode to; the three ends of a turn follow. -/
theorem stepRunsDecoded : Obligations.StepRunsDecoded := by
  intro s tid t hw hi s1
  have hstep := step_of_mayIssue hw hi
  refine ⟨fun hc => ?_, fun l hc hl ht => ?_, fun b u => ⟨fun v hv hs => ⟨fun hlost hp => ?_, fun hlost o ho => ?_⟩, rfl⟩⟩
  · rw [if_neg hc] at hstep
    rw [hstep]
    exact ⟨fun ws hf => ⟨fun i hd hb => runTurn_bundle hf hd hb, fun i v hd hb => runTurn_bundle hf hd hb, runTurn_illegal hf⟩,
      fun va => runTurn_miss, fun va => runTurn_perm⟩
  · rw [if_pos hc] at hstep
    obtain ⟨w, h⟩ := retireLate_getT ht hl
    exact ⟨_, w, hstep, h⟩
  · rw [endTurn_retires hv hs hlost, retire_getT hv hp]
    exact ⟨_, rfl, rfl, rfl, rfl, rfl⟩
  · rw [endTurn_collides hv hs hlost]
    exact collide_getT ho hv _

end Sys2Proof.Machine

namespace Sys2Proof.Machine

/-! ## What an access leaves of the threads' bundles (06 R110) -/

/-- Every thread of one state is a thread of the other, at the same bundle. -/
structure SameBundles (s u : State) : Prop where
  bundle : ∀ k, (getT u k).map (fun t => (t.pc, t.size)) = (getT s k).map (fun t => (t.pc, t.size))

theorem SameBundles.refl (s : State) : SameBundles s s := ⟨fun _ => rfl⟩

theorem SameBundles.trans {s u v : State} (a : SameBundles s u) (b : SameBundles u v) : SameBundles s v :=
  ⟨fun k => (b.bundle k).trans (a.bundle k)⟩

theorem SameBundles.of_threads {s u : State} (h : u.threads = s.threads) : SameBundles s u := ⟨fun k => by rw [getT_congr h]⟩

theorem SameBundles.foldl {α : Type} {f : State → α → State} (h : ∀ s a, SameBundles s (f s a)) (l : List α) (s : State) :
    SameBundles s (l.foldl f s) := by
  induction l generalizing s with
  | nil => exact .refl s
  | cons a rest ih => exact (h s a).trans (ih _)

theorem setT_sameBundles {s : State} {k : Nat} {t w : Thread} (ht : getT s k = some t) (hpc : w.pc = t.pc) (hsize : w.size = t.size) :
    SameBundles s (setT s k w) := by
  refine ⟨fun j => ?_⟩
  by_cases h : j = k
  · subst h
    rw [getT_setT_same, ht]
    simp [hpc, hsize]
  · rw [getT_setT_ne _ h]

theorem Thread.wr_pc (t : Thread) (r : Reg) (v : GReg) : (t.wr r v).pc = t.pc := by
  unfold Thread.wr
  split <;> rfl

theorem Thread.wr_size (t : Thread) (r : Reg) (v : GReg) : (t.wr r v).size = t.size := by
  unfold Thread.wr
  split <;> rfl

theorem setReg_sameBundles (s : State) (k : Nat) (r : Reg) (v : GReg) : SameBundles s (setReg s k r v) := by
  unfold setReg
  split
  · exact .refl s
  · next t ht =>
    split
    · exact .refl s
    · dsimp only
      generalize hw : ({ t.wr r v with
        rings := (t.wr r v).rings.filter (fun p => p.1 != r.val)
        ahead := (t.wr r v).ahead.filter (fun a => a.reg != r.val) } : Thread) = w
      have written : SameBundles s (setT s k w) := by
        subst hw
        exact setT_sameBundles ht (Thread.wr_pc ..) (Thread.wr_size ..)
      split
      · exact written.trans (.of_threads rfl)
      · exact written

theorem logError_threads (s : State) (k : Nat) (e : LogEntry) : (logError s k e).threads = s.threads := by
  unfold logError
  split
  · rfl
  · split <;> rfl

theorem windowWrite_sameBundles (s : State) (k off : Nat) (bs : List (Nat × Byte)) (w : Writer) : SameBundles s (windowWrite s k off bs w) := by
  unfold windowWrite
  split
  · exact setReg_sameBundles ..
  · exact .of_threads (logError_threads ..)

theorem putBytes_clearPoison_threads (s : State) (l : List (Place × Byte)) (ps : List Place) :
    (clearPoison (putBytes s l) ps).threads = s.threads := by
  rw [(clearPoison_frame ..).2.2.1, (putBytes_frame ..).2]

theorem storeBytes_sameBundles (s : State) (w : Writer) (ps : List Place) (bs : List Byte) : SameBundles s (storeBytes s w ps bs) := by
  unfold storeBytes
  split
  · exact windowWrite_sameBundles ..
  · exact .of_threads (putBytes_clearPoison_threads ..)

theorem storeTagged_sameBundles (s : State) (ps : List Place) (g : GReg) : SameBundles s (storeTagged s ps g) := by
  unfold storeTagged
  dsimp only
  split
  · exact .refl s
  · exact .of_threads (putBytes_clearPoison_threads ..)

theorem applyAcc_sameBundles (s : State) (w : Writer) (op : AccOp) (ps : List Place) : SameBundles s (applyAcc s w op ps).1 := by
  cases op with
  | load n => exact .refl s
  | store n v =>
    unfold applyAcc
    dsimp only
    split
    · exact storeBytes_sameBundles ..
    · exact storeTagged_sameBundles ..
  | atm op n v => exact storeBytes_sameBundles ..
  | cas n e v =>
    unfold applyAcc
    dsimp only
    split
    · exact storeBytes_sameBundles ..
    · exact .refl s
  | atmf op v => exact storeBytes_sameBundles ..
  | lds => exact .of_threads rfl
  | sts v => exact storeBytes_sameBundles ..
  | fest full => exact .of_threads rfl
  | feget => exact .refl s
  | post bs => exact .of_threads (putBytes_clearPoison_threads ..)
  | ahead _ _ _ _ => exact .refl s
  | window bs v _ _ =>
    unfold applyAcc
    dsimp only
    split
    · exact windowWrite_sameBundles ..
    · exact .refl s

theorem takeFault_sameBundles (s : State) (k : Nat) (c : Cause) (a : Nat) : SameBundles s (takeFault s k c a) := by
  refine ⟨fun j => ?_⟩
  by_cases h : j = k
  · subst h
    cases ht : getT s j with
    | none => simp only [takeFault, ht]
    | some t => rw [takeFault_getT ht]; rfl
  · rw [(takeFault_walkFrame s k c a).threads j h]

theorem accFail_sameBundles (s : State) (id : Nat) (r : Req) (f : Cause × Nat) : SameBundles s (accFail s id r f) := by
  refine SameBundles.trans (.of_threads ?_) (takeFault_sameBundles ..)
  unfold accessDone
  dsimp only
  split
  · next cl n _ => exact (hltActive_sameEngines { s with reqs := tdel id s.reqs } cl n false).threads
  · rfl

theorem feRetry_sameBundles (s : State) (id : Nat) (r : Req) : SameBundles s (feRetry s id r) := by
  unfold feRetry
  extract_lets limit
  split
  · exact SameBundles.trans (u := { s with reqs := tdel id s.reqs }) (.of_threads rfl) (takeFault_sameBundles _ r.tid .feRetry r.addr)
  · exact .of_threads rfl

theorem feServe_sameBundles (key n : Nat) (s : State) : SameBundles s (feServe key n s) := by
  induction n generalizing s with
  | zero => exact .refl s
  | succ n ih =>
    have failed := SameBundles.foldl (f := fun u (p : Nat × Req) => match accFault s p.2 with
      | some f => accFail u p.1 p.2 f
      | none => u) (fun u p => by
        split
        · exact accFail_sameBundles ..
        · exact .refl u) (feParked s key) s
    have retried := fun l u => SameBundles.foldl (f := fun u (p : Nat × Req) => feRetry u p.1 p.2) (fun u p => feRetry_sameBundles u p.1 p.2) l u
    unfold feServe
    dsimp only
    split
    · exact failed.trans (retried ..)
    · next id r _ =>
      have served : ∀ u, SameBundles u (feServeOne u id r) := fun u => (applyAcc_sameBundles u _ r.op r.at_).trans (.of_threads rfl)
      exact ((failed.trans (retried ..)).trans (served _)).trans (ih _)

/-- An access, and whatever it wakes at its words, leaves every thread at its bundle. -/
theorem perform_sameBundles (s : State) (w : Writer) (op : AccOp) (ps : List Place) : SameBundles s (perform s w op ps).1 := by
  unfold perform
  dsimp only
  split
  · exact applyAcc_sameBundles ..
  · refine (applyAcc_sameBundles s w op ps).trans (.foldl (fun u key => ?_) _ _)
    split
    · exact .refl u
    · exact feServe_sameBundles ..

theorem applyInc_sameBundles (s : State) (k : Nat) (inc : Option Nat) : SameBundles s (applyInc s k inc) := by
  rcases applyInc_cases s k inc with e | ⟨r, b, e⟩ <;> rw [e]
  · exact .refl s
  · unfold setBits
    split
    · exact .refl s
    · next t ht => exact setT_sameBundles ht (Thread.wr_pc ..) (Thread.wr_size ..)

theorem heldInc_sameBundles (s : State) (k : Nat) (t : Thread) (inc : Option Reg) : SameBundles s (heldInc s k t inc) := by
  unfold heldInc
  split
  · exact .refl s
  · split
    · next u hu => exact setT_sameBundles hu (Thread.wr_pc ..) (Thread.wr_size ..)
    · exact .refl s

/-- A thread that is still at its bundle goes on to the next one. -/
theorem advance_pc {s u : State} {k : Nat} {v : Thread} (hv : getT s k = some v) (h : SameBundles s u) :
    (getT (advance u k) k).map Thread.pc = some v.nextPc := by
  have hk := h.bundle k
  rw [hv] at hk
  obtain ⟨w, hw, hpcsize⟩ := Option.map_eq_some_iff.mp hk
  obtain ⟨hpc, hsize⟩ := Prod.mk.inj hpcsize
  rw [getT_advance, hw]
  simp [Thread.next, Thread.nextPc, hpc, hsize]

/-! ## Tags and full/empty states as sets -/

theorem smem_sadd (j k : Nat) (l : List Nat) : smem j (sadd k l) = if j = k then true else smem j l := by
  induction l with
  | nil => simp [sadd, smem, eq_comm]
  | cons x rest ih =>
    simp only [sadd]
    split
    · simp [smem, eq_comm (a := k)]
    · split
      · next h => simp [smem, h, eq_comm (a := k)]
      · by_cases hx : x = j
        · simp [smem, hx]
        · simp [smem, hx, ih]

theorem smem_sdel (j k : Nat) (l : List Nat) : smem j (sdel k l) = if j = k then false else smem j l := by
  induction l with
  | nil => simp [sdel, smem]
  | cons x rest ih =>
    simp only [sdel]
    split
    · next h =>
      rw [ih, h]
      by_cases hj : j = k
      · simp [hj]
      · simp [hj, smem, Ne.symm hj]
    · next h =>
      simp only [smem, ih]
      by_cases hj : j = k
      · simp [hj, h]
      · simp [hj]

/-- A place of the local store of some core. -/
def inStore : Place → Bool
  | .ls _ _ => true
  | _ => false

theorem inStore_add (p : Place) (k : Nat) : inStore (placeAdd p k) = inStore p := by cases p <;> rfl

theorem inMem_of_inStore {p : Place} (h : inStore p = true) : inMem p = true := by
  cases p <;> simp_all [inStore, inMem]

theorem mem_placeRun {p q : Place} {n : Nat} : q ∈ placeRun p n ↔ ∃ k < n, q = placeAdd p k := by
  induction n generalizing p with
  | zero => simp [placeRun]
  | succ n ih =>
    have shift : ∀ k, placeAdd (placeAdd p 1) k = placeAdd p (k + 1) := by
      intro k
      cases p <;> simp [placeAdd] <;> omega
    have start : placeAdd p 0 = p := by cases p <;> rfl
    rw [placeRun, List.mem_cons, ih]
    constructor
    · rintro (rfl | ⟨k, hk, rfl⟩)
      · exact ⟨0, by omega, start.symm⟩
      · exact ⟨k + 1, by omega, shift k⟩
    · rintro ⟨k, hk, rfl⟩
      cases k with
      | zero => exact .inl start
      | succ k => exact .inr ⟨k, by omega, (shift k).symm⟩

/-- Bytes written in a local store leave their granules untagged and their words FULL, and no other (05 R84). -/
theorem putBytes_words (g : Nat) (l : List (Place × Byte)) (s : State) (hl : ∀ x ∈ l, inStore x.1 = true) :
    (smem g (putBytes s l).tags = true ↔ smem g s.tags = true ∧ ∀ x ∈ l, g ≠ granuleOf x.1) ∧
    (smem g (putBytes s l).empties = true ↔ smem g s.empties = true ∧ ∀ x ∈ l, g ≠ placeKey x.1 / 4 * 4) := by
  induction l generalizing s with
  | nil => simp [putBytes]
  | cons x rest ih =>
    obtain ⟨p, b⟩ := x
    have hp : inStore p = true := hl (p, b) (List.mem_cons_self ..)
    have written : (putByte s p b).tags = sdel (granuleOf p) s.tags ∧ (putByte s p b).empties = sdel (placeKey p / 4 * 4) s.empties := by
      cases p <;> simp_all [inStore, putByte]
    obtain ⟨htags, hempties⟩ := ih (putByte s p b) (fun y hy => hl y (List.mem_cons_of_mem _ hy))
    simp only [putBytes, htags, hempties, written, smem_sdel, List.forall_mem_cons]
    constructor <;> split <;> simp_all

end Sys2Proof.Machine

namespace Sys2Proof.Machine

/-! ## The kind code of a granule (05 R84) -/

theorem smem_setFull (s : State) (q key : Nat) (full : Bool) :
    smem q (setFull s key full).empties = if q = key / 4 * 4 then !full else smem q s.empties := by
  unfold setFull
  cases full
  · simp [smem_sadd]
  · simp [smem_sdel]

/-- The full/empty bits of a granule's four words become a kind code. -/
def setCode (s : State) (k c : Nat) : State :=
  setFull (setFull (setFull (setFull s k (c % 2 == 1)) (k + 4) (c / 2 % 2 == 1)) (k + 8) (c / 4 % 2 == 1)) (k + 12) (c / 8 % 2 == 1)

theorem setCode_other (s : State) {q k : Nat} (c : Nat) (hk : k % 16 = 0) (hq : q / 16 * 16 ≠ k) :
    smem q (setCode s k c).empties = smem q s.empties := by
  simp only [setCode, smem_setFull]
  rw [if_neg (by omega), if_neg (by omega), if_neg (by omega), if_neg (by omega)]

/-- A granule keeps the code it was given. -/
theorem storedCode_setCode (s : State) {k c : Nat} (hk : k % 16 = 0) (hc : c < 16) : storedCode (setCode s k c) k = c := by
  have h0 : smem k (setCode s k c).empties = !(c % 2 == 1) := by
    simp only [setCode, smem_setFull]
    rw [if_neg (by omega), if_neg (by omega), if_neg (by omega), if_pos (by omega)]
  have h4 : smem (k + 4) (setCode s k c).empties = !(c / 2 % 2 == 1) := by
    simp only [setCode, smem_setFull]
    rw [if_neg (by omega), if_neg (by omega), if_pos (by omega)]
  have h8 : smem (k + 8) (setCode s k c).empties = !(c / 4 % 2 == 1) := by
    simp only [setCode, smem_setFull]
    rw [if_neg (by omega), if_pos (by omega)]
  have h12 : smem (k + 12) (setCode s k c).empties = !(c / 8 % 2 == 1) := by
    simp only [setCode, smem_setFull]
    rw [if_pos (by omega)]
  simp only [storedCode, h0, h4, h8, h12, Bool.not_eq_true', beq_eq_false_iff_ne, ne_eq]
  split <;> split <;> split <;> split <;> omega

theorem storeTagged_eq (s : State) (p : Place) (n : Nat) (g : GReg) : storeTagged s (placeRun p (n + 1)) g =
    let w := clearPoison (putBytes s ((placeRun p (n + 1)).zip (toBytes 16 g.bits.toNat))) (placeRun p (n + 1))
    setCode { w with tags := sadd (granuleOf p) w.tags } (granuleOf p) g.kind.code := rfl

/-- The kinds a tagged granule holds, with their codes. -/
theorem kindOfCode_code {k : Kind} (h : k ∈ [Kind.cap, .strm, .tens]) : kindOfCode k.code = k ∧ k.code < 16 := by
  simp only [List.mem_cons, List.not_mem_nil, or_false] at h
  rcases h with rfl | rfl | rfl <;> exact ⟨rfl, by decide⟩

/-! ## What a store does in a local store (05 R84, 06 R105) -/

/-- A store of n bytes of a register at a place has been performed between s and u. -/
structure Stored (s u : State) (p : Place) (n : Nat) (g : GReg) : Prop where
  bytes : ∀ k < n, memGet (placeKey p + k) u.mem = BitVec.ofNat 8 (g.bits.toNat / 256 ^ k)
  others : ∀ k, (k < placeKey p ∨ placeKey p + n ≤ k) → memGet k u.mem = memGet k s.mem
  value : if g.kind = .data then ∀ k < n, isFull u (placeAdd p k) = true ∧ tagged u (placeAdd p k) = false
    else tagged u p = true ∧ loadValue u (placeRun p n) = g
  granules : ∀ q, (∀ k < n, granuleOf (placeAdd p k) ≠ q / 16 * 16) → smem q u.tags = smem q s.tags ∧ smem q u.empties = smem q s.empties

theorem tagged_congr {u v : State} (h : v.tags = u.tags) (p : Place) : tagged v p = tagged u p := by
  cases p <;> simp only [tagged, h]

theorem storedCode_congr {u v : State} (h : v.empties = u.empties) (k : Nat) : storedCode v k = storedCode u k := by
  simp only [storedCode, h]

/-- A load gives DATA, or from a tagged granule what it holds. -/
theorem loadValue_run (s : State) (p : Place) (n : Nat) : loadValue s (placeRun p (n + 1)) =
    if n + 1 = 16 ∧ tagged s p = true then ⟨kindOfCode (storedCode s (granuleOf p)), BitVec.ofNat 128 (getNat s (placeRun p (n + 1)))⟩
    else dataOf (getNat s (placeRun p (n + 1))) := by
  by_cases h : n + 1 = 16 ∧ tagged s p = true
  · rw [if_pos h]
    exact if_pos ⟨(length_placeRun p (n + 1)).trans h.1, h.2⟩
  · rw [if_neg h]
    exact if_neg fun hc => h ⟨(length_placeRun p (n + 1)).symm.trans hc.1, hc.2⟩

theorem loadValue_congr {u v : State} (hm : v.mem = u.mem) (ht : v.tags = u.tags) (he : v.empties = u.empties) {p : Place}
    (hp : inMem p = true) (n : Nat) : loadValue v (placeRun p n) = loadValue u (placeRun p n) := by
  cases n with
  | zero => rfl
  | succ n => rw [loadValue_run, loadValue_run, tagged_congr ht, storedCode_congr he, getNat_congr hm hp]

/-- What a store has done stays done where neither bytes nor words' states change. -/
theorem Stored.congr {s u v : State} {p : Place} {n : Nat} {g : GReg} (h : Stored s u p n g) (hp : inMem p = true) (hm : v.mem = u.mem)
    (ht : v.tags = u.tags) (he : v.empties = u.empties) : Stored s v p n g where
  bytes := by rw [hm]; exact h.bytes
  others := by rw [hm]; exact h.others
  value := by
    simp only [isFull, he, tagged_congr ht, loadValue_congr hm ht he hp]
    exact h.value
  granules := by rw [ht, he]; exact h.granules

section Store
variable {s : State} {p : Place} {n : Nat} (hm : MemOk s) (hp : inStore p = true)
include hp

theorem smem_putRun (bs : List Byte) (hl : bs.length = n) (q : Nat) :
    (smem q (putBytes s ((placeRun p n).zip bs)).tags = true ↔ smem q s.tags = true ∧ ∀ k < n, q ≠ granuleOf (placeAdd p k)) ∧
    (smem q (putBytes s ((placeRun p n).zip bs)).empties = true ↔
      smem q s.empties = true ∧ ∀ k < n, q ≠ placeKey (placeAdd p k) / 4 * 4) := by
  have places : ((placeRun p n).zip bs).map Prod.fst = placeRun p n := List.map_fst_zip (by rw [length_placeRun, hl])
  have runs : ∀ f : Place → Nat, (∀ x ∈ (placeRun p n).zip bs, q ≠ f x.1) ↔ ∀ k < n, q ≠ f (placeAdd p k) := by
    intro f
    have e : (∀ x ∈ (placeRun p n).zip bs, q ≠ f x.1) ↔ ∀ y ∈ ((placeRun p n).zip bs).map Prod.fst, q ≠ f y := by simp
    rw [e, places]
    constructor
    · exact fun h k hk => h _ (mem_placeRun.mpr ⟨k, hk, rfl⟩)
    · intro h y hy
      obtain ⟨k, hk, rfl⟩ := mem_placeRun.mp hy
      exact h k hk
  have store : ∀ x ∈ (placeRun p n).zip bs, inStore x.1 = true := by
    intro x hx
    obtain ⟨k, -, e⟩ := mem_placeRun.mp (List.of_mem_zip hx).1
    rw [e, inStore_add, hp]
  have h := putBytes_words q _ s store
  rw [runs granuleOf, runs (fun y => placeKey y / 4 * 4)] at h
  exact h

/-- A granule that no byte was written in keeps its tag, and its words their states. -/
theorem putRun_granules (bs : List Byte) (hl : bs.length = n) {q : Nat} (hq : ∀ k < n, granuleOf (placeAdd p k) ≠ q / 16 * 16) :
    smem q (putBytes s ((placeRun p n).zip bs)).tags = smem q s.tags ∧
    smem q (putBytes s ((placeRun p n).zip bs)).empties = smem q s.empties := by
  obtain ⟨tags, empties⟩ := smem_putRun (s := s) hp bs hl q
  constructor
  · rw [Bool.eq_iff_iff, tags]
    exact and_iff_left fun k hk e => hq k hk (by unfold granuleOf at e ⊢; omega)
  · rw [Bool.eq_iff_iff, empties]
    exact and_iff_left fun k hk e => hq k hk (by unfold granuleOf; omega)

include hm

/-- DATA leaves its words FULL and its granules untagged. -/
theorem store_data (w : Writer) {g : GReg} (hg : g.kind = .data) :
    Stored s (applyAcc s w (.store n g) (placeRun p n)).1 p n g := by
  have eq : (applyAcc s w (.store n g) (placeRun p n)).1 = storeBytes s w (placeRun p n) (toBytes n g.bits.toNat) := by
    simp only [applyAcc, hg, if_true]
  rw [eq]
  obtain ⟨bytes, others, -⟩ := storeBytes_spec hm (inMem_of_inStore hp) w n g.bits.toNat
  rw [storeBytes_eq (inMem_of_inStore hp)] at bytes others ⊢
  have hl := length_toBytes n g.bits.toNat
  have clear := clearPoison_frame (putBytes s ((placeRun p n).zip (toBytes n g.bits.toNat))) (placeRun p n)
  obtain ⟨-, -, -, htags, hempties⟩ := clear
  refine ⟨bytes, others, ?_, fun q hq => by rw [htags, hempties]; exact putRun_granules hp _ hl hq⟩
  rw [if_pos hg]
  intro k hk
  have word := (smem_putRun (s := s) hp _ hl (placeKey (placeAdd p k) / 4 * 4)).2
  have granule := (smem_putRun (s := s) hp _ hl (granuleOf (placeAdd p k))).1
  constructor
  · rw [isFull, hempties, Bool.not_eq_true', ← Bool.not_eq_true, word]
    exact fun h => h.2 k hk rfl
  · have store : inStore (placeAdd p k) = true := by rw [inStore_add, hp]
    rw [← Bool.not_eq_true]
    intro h
    rw [tagged_congr htags] at h
    have tag : smem (granuleOf (placeAdd p k)) (putBytes s ((placeRun p n).zip (toBytes n g.bits.toNat))).tags = true := by
      unfold tagged at h
      split at h
      · exact h
      · cases h
    exact (granule.mp tag).2 k hk rfl

/-- A tagged value tags its granule, which then loads as that value. -/
theorem store_tagged (w : Writer) {g : GReg} (hg : g.kind ∈ [Kind.cap, .strm, .tens]) :
    Stored s (applyAcc s w (.store 16 g) (placeRun p 16)).1 p 16 g := by
  have hdata : g.kind ≠ .data := by
    intro h
    rw [h] at hg
    revert hg
    decide
  have hmem := inMem_of_inStore hp
  have hl := length_toBytes 16 g.bits.toNat
  obtain ⟨hkind, hcode⟩ := kindOfCode_code hg
  have hgranule : granuleOf p % 16 = 0 := by unfold granuleOf; omega
  obtain ⟨bytes, others, -⟩ := storeBytes_spec hm hmem w 16 g.bits.toNat
  rw [storeBytes_eq hmem] at bytes others
  have eq : (applyAcc s w (.store 16 g) (placeRun p 16)).1 = storeTagged s (placeRun p 16) g := by
    simp only [applyAcc, hdata, if_false]
  rw [eq, storeTagged_eq s p 15 g]
  dsimp only
  generalize hz : clearPoison (putBytes s ((placeRun p 16).zip (toBytes 16 g.bits.toNat))) (placeRun p 16) = z at bytes others
  have words : z.tags = (putBytes s ((placeRun p 16).zip (toBytes 16 g.bits.toNat))).tags ∧
      z.empties = (putBytes s ((placeRun p 16).zip (toBytes 16 g.bits.toNat))).empties := by
    subst hz
    obtain ⟨-, -, -, htags, hempties⟩ := clearPoison_frame (putBytes s ((placeRun p 16).zip (toBytes 16 g.bits.toNat))) (placeRun p 16)
    exact ⟨htags, hempties⟩
  generalize hy : setCode { z with tags := sadd (granuleOf p) z.tags } (granuleOf p) g.kind.code = y
  have ymem : y.mem = z.mem := by subst hy; rfl
  have ytags : y.tags = sadd (granuleOf p) z.tags := by subst hy; rfl
  have hcoded : storedCode y (granuleOf p) = g.kind.code := by subst hy; exact storedCode_setCode _ hgranule hcode
  have htagged : tagged y p = true := by
    cases p <;> simp_all [inStore, tagged, smem_sadd]
  have hnat : getNat y (placeRun p 16) = g.bits.toNat := by
    rw [getNat_run hmem 16 g.bits.toNat (by rw [ymem]; exact bytes)]
    exact Nat.mod_eq_of_lt g.bits.isLt
  refine ⟨by rw [ymem]; exact bytes, by rw [ymem]; exact others, ?_, fun q hq => ?_⟩
  · rw [if_neg hdata]
    refine ⟨htagged, ?_⟩
    rw [loadValue_run, if_pos ⟨rfl, htagged⟩, hcoded, hkind, hnat, BitVec.ofNat_toNat, BitVec.setWidth_eq]
  · obtain ⟨tags, empties⟩ := putRun_granules (s := s) hp _ hl hq
    have start : placeAdd p 0 = p := by cases p <;> rfl
    have hne : q / 16 * 16 ≠ granuleOf p := by
      have := hq 0 (by omega)
      rw [start] at this
      exact Ne.symm this
    rw [ytags, smem_sadd, if_neg (by omega), words.1, tags]
    refine ⟨rfl, ?_⟩
    subst hy
    rw [setCode_other _ _ hgranule hne]
    exact (congrArg (smem q) words.2).trans empties

end Store

/-- A store that wakes nothing parked at its words leaves just what it writes (06 R110). -/
theorem perform_stored {s : State} {p : Place} {n : Nat} {g : GReg} (hm : MemOk s) (hp : inStore p = true) (hn : NoneParked s (placeRun p n))
    (hg : g.kind = .data ∨ n = 16 ∧ g.kind ∈ [Kind.cap, .strm, .tens]) (w : Writer) :
    Stored s (perform s w (.store n g) (placeRun p n)).1 p n g := by
  rw [perform_none hn]
  rcases hg with hg | ⟨rfl, hg⟩
  · exact store_data hm hp w hg
  · exact store_tagged hm hp w hg

end Sys2Proof.Machine

namespace Sys2Proof.Machine

/-! ## Addresses (05 R80, 06 R105) -/

/-- The permission that LD or ST needs of a capability. -/
def capPermits (c : QWord) (write : Bool) : Bool := if write then capWrite c else capRead c || capExec c

/-- The permission, and then the bounds of an access of LD or ST. -/
theorem capCheck_access (c : QWord) (write : Bool) (off : Int) (n : Nat) : capCheck c (if write then Need.st else Need.ld) off n =
    if capPermits c write = false then .error (.fault .perm (capAddr c off))
    else if (capCur c : Int) + off < 0 ∨ (capLen c : Int) < capCur c + off + n then .error (.fault .bounds (capAddr c off))
    else .ok (capAddr c off) := by
  have within : (0 ≤ (capCur c : Int) + off ∧ (capCur c : Int) + off + n ≤ capLen c) ↔
      ¬ ((capCur c : Int) + off < 0 ∨ (capLen c : Int) < capCur c + off + n) := by omega
  unfold capCheck capPermits
  simp only [within, ite_not]
  cases write with
  | true =>
    simp only [Need.st, if_true, Bool.false_and, Bool.true_and, Bool.false_or, Bool.or_false, Bool.not_eq_true']
  | false =>
    simp only [Need.ld, Bool.false_eq_true, if_false, Bool.false_and, Bool.true_and, Bool.or_false, Bool.not_eq_true']

/-- The checks of an address through a capability, in order. -/
theorem memAddress_cap (s : State) (tid : Nat) (t : Thread) (op : MemOp) (a : Reg) (write : Bool) (ha : (t.rd a).kind = .cap) :
    let n := szBytes op.sz
    let c := (t.rd a).bits
    let o : Int := capCur c + op.off.toInt * n
    let addr := ((capBase c + o) % 2 ^ 64).toNat
    memAddress s tid t op a n write =
      if capPermits c write = false then .error (.fault .perm addr)
      else if o < 0 ∨ capLen c < o + n then .error (.fault .bounds addr)
      else if addr % n ≠ 0 then .error (.fault .align addr)
      else .ok (.cap c addr) := by
  intro n c o addr
  have hcoc : (t.rd a).kind ≠ .coc := by
    rw [ha]
    decide
  have haddr : capAddr c (op.off.toInt * n) = addr := by
    unfold capAddr
    rw [Int.add_assoc]
  simp only [memAddress, if_neg hcoc, needKind_ok ha, ok_bind]
  rw [capCheck_access, haddr]
  by_cases hp : capPermits c write = false
  · rw [if_pos hp, if_pos hp]
    rfl
  · rw [if_neg hp, if_neg hp]
    by_cases hb : o < 0 ∨ capLen c < o + n
    · rw [if_pos hb, if_pos hb]
      rfl
    · rw [if_neg hb, if_neg hb, ok_bind, needAlign]
      by_cases hz : addr % n = 0
      · rw [if_pos hz, if_neg (not_not_intro hz)]
        rfl
      · rw [if_neg hz, if_pos hz]
        rfl

/-- A PORT is no address: its check as the register it is faults KIND. -/
theorem memAddress_port {u : Thread} {a : Reg} (h : (u.rd a).kind = .port) (s : State) (tid : Nat) (op : MemOp) (n : Nat) (write : Bool) :
    memAddress s tid u op a n write = .error (.fault .kind a.val) := by
  simp [memAddress, needKind, h, bind, Except.bind]

/-- The fault of a PORT operand, as the register it is, gives way to its read. -/
theorem faultBefore_kindPort {u : Thread} {a : Reg} (h : (u.rd a).kind = .port) : faultBefore u [a] (.error (.fault .kind a.val)) = none := by
  simp [faultBefore, h]

/-! ## LD and ST with their operands at hand -/

section AtHand
variable {op : MemOp} {d a : Reg} {s u : State} {i : Issue} {t : Thread} {pop : Option InboxEntry}
  (hr : reading s [d, a] [a] = some (i, t, pop))
include hr

theorem exec_ld_held {h : Place × GReg} (hl : i.latch.bind Latch.held = some h) : exec (.ld op d a) s =
    .next (finish pop i.tid (heldLoad s i.tid t (szBytes op.sz) d.val h.1 (if op.inc then some a else none) h.2)) := by
  rw [exec_ld, execLd]
  refine issueWith_ok hr (noneBefore_of hr fun v _ _ => ?_) ?_
  · simp only [hl, faultBefore_ok]
  · simp only [hl]

theorem exec_st_held {h : Place × GReg} (hl : i.latch.bind Latch.held = some h) : exec (.st op d a) s =
    .next (finish pop i.tid (heldStore s i.tid t (szBytes op.sz) d h.1 (if op.inc then some a else none))) := by
  rw [exec_st, execSt]
  refine issueWith_ok hr (noneBefore_of hr fun v _ _ => ?_) ?_
  · simp only [hl, faultBefore_ok]
  · simp only [hl]

variable {x : Addressed} {acc : Access} (hl : i.latch.bind Latch.held = none)
include hl

/-- A load whose checks pass issues its access. -/
theorem exec_ld_access (hx : memAddress s i.tid t op a (szBytes op.sz) false = .ok x) (hd : Free t d)
    (hacc : memPlace s i t op.am false x = .ok acc) (hload : loadable s i.tid (szBytes op.sz) acc = .ok ())
    (hu : launchAccess s i.tid t (.load (szBytes op.sz)) (szBytes op.sz) acc d.val (if op.inc then some a.val else none) op.rx = .ok u) :
    exec (.ld op d a) s = .next (finish pop i.tid u) := by
  rw [exec_ld, execLd]
  refine issueWith_ok hr (noneBefore_of hr fun v _ hport => ?_) ?_
  · obtain ⟨r, hmem, hk⟩ := hport
    rw [List.mem_singleton] at hmem
    subst hmem
    simp only [hl, memAddress_port hk]
    exact faultBefore_kindPort hk
  · simp only [hl, hx, destOk_ok hd, hacc, hload, ok_bind, hu]

/-- A store whose checks pass issues its access. -/
theorem exec_st_access (hx : memAddress s i.tid t op a (szBytes op.sz) true = .ok x)
    (hd : storeData (unpopped s i.tid t d) i.tid op d x = .ok ()) (hacc : memPlace s i t op.am true x = .ok acc)
    (hu : launchAccess s i.tid t (.store (szBytes op.sz) (t.rd d)) (szBytes op.sz) acc d.val (if op.inc then some a.val else none) op.rx = .ok u) :
    exec (.st op d a) s = .next (finish pop i.tid u) := by
  rw [exec_st, execSt]
  refine issueWith_ok hr (noneBefore_of hr fun v _ hport => ?_) ?_
  · obtain ⟨r, hmem, hk⟩ := hport
    rw [List.mem_singleton] at hmem
    subst hmem
    simp only [hl, memAddress_port hk]
    exact faultBefore_kindPort hk
  · simp only [hl, hx, hd, hacc, ok_bind, hu]

end AtHand

/-- A load of no stream in another core's store passes its last check (05 R83). -/
theorem loadable_ok {s : State} {tid n : Nat} {acc : Access}
    (h : ¬ (n = 16 ∧ isOwnLs (tid / 16) acc.place = false ∧ (loadValue s (placeRun acc.place n)).kind = .strm)) :
    loadable s tid n acc = .ok () := by
  unfold loadable
  rw [if_neg]
  rwa [Bool.not_eq_true']

/-! ## A load in the core's own store (06 R104) -/

theorem perform_load (s : State) (w : Writer) (n : Nat) (ps : List Place) : perform s w (.load n) ps = (s, loadValue s ps, Counts.zero) :=
  perform_still rfl

/-! ## The registers of a load that goes on (02 R33, R35) -/

section HeldLoad
variable {s : State} {k : Nat} {v : Thread}

/-- A register written holds the value, and every other what it held. -/
theorem getT_setReg (hv : getT s k = some v) (r : Reg) (x : GReg) :
    ∃ w, getT (setReg s k r x) k = some w ∧ w.g = (v.wr r x).g ∧ w.pc = v.pc ∧ w.size = v.size := by
  unfold setReg
  simp only [hv]
  split
  · next h => exact ⟨v, hv, by simp [Thread.wr, h], rfl, rfl⟩
  · split
    · exact ⟨_, getT_setT_same .., rfl, Thread.wr_pc .., Thread.wr_size ..⟩
    · exact ⟨_, getT_setT_same .., rfl, Thread.wr_pc .., Thread.wr_size ..⟩

theorem Thread.rd_congr {t u : Thread} (h : u.g = t.g) (r : Reg) : u.rd r = t.rd r := by
  simp only [Thread.rd, h]

theorem Thread.rd_wr_same {t : Thread} {r : Reg} (h0 : r ≠ 0) (hr : r.val < t.g.length) (x : GReg) : (t.wr r x).rd r = x := by
  simp only [Thread.rd, Thread.wr, if_neg h0]
  exact nth_setNth _ _ _ _ hr

theorem Thread.length_wr (t : Thread) (r : Reg) (x : GReg) : (t.wr r x).g.length = t.g.length := by
  unfold Thread.wr
  split
  · rfl
  · exact length_setNth ..

theorem writeResult_load (hv : getT s k = some v) (t : Thread) (n : Nat) (d : Reg) (x : GReg) :
    ∃ w, getT (writeResult s k t (.load n) d.val x) k = some w ∧ w.g = (v.wr d x).g ∧ w.pc = v.pc ∧ w.size = v.size := by
  unfold writeResult
  simp only [d.isLt, dite_true]
  refine getT_setReg ?_ d x
  split
  · rw [getT_congr (addPin_sameEngines ..).threads, hv]
  · exact hv

theorem writeResult_load_mem (s : State) (k : Nat) (t : Thread) (n : Nat) (d : Reg) (x : GReg) :
    (writeResult s k t (.load n) d.val x).mem = s.mem := by
  unfold writeResult
  simp only [d.isLt, dite_true, setReg_mem]
  split
  · exact (addPin_sameEngines ..).mem
  · rfl

theorem heldBank_frame (s : State) (k : Nat) (p : Place) : (heldBank s k p).mem = s.mem ∧ (heldBank s k p).threads = s.threads ∧
    (heldBank s k p).empties = s.empties ∧ (heldBank s k p).tags = s.tags := by
  unfold heldBank
  split
  · exact bankHit_frame ..
  · exact ⟨rfl, rfl, rfl, rfl⟩

theorem heldInc_same (s : State) (k : Nat) (t : Thread) (inc : Option Reg) : SameStore s (heldInc s k t inc) := by
  unfold heldInc
  split
  · exact .refl s
  · split
    · exact setT_same ..
    · exact .refl s

/-- The cursor that moves with a half that goes on is that of the capability the bundle has read. -/
theorem getT_heldInc (hv : getT s k = some v) (t : Thread) (inc : Option Reg) : getT (heldInc s k t inc) k =
    some (match inc with
      | none => v
      | some r => v.wr r ⟨.cap, capStepped (t.rd r).bits⟩) := by
  cases inc with
  | none => exact hv
  | some r =>
    simp only [heldInc, hv]
    exact getT_setT_same ..

/-- A load that goes on writes what was loaded, then the cursor, and changes nothing else of its thread's registers and of memory. -/
theorem heldLoad_spec (hv : getT s k = some v) (hlen : v.g.length = 32) (t : Thread) (n : Nat) (d a : Reg) (p : Place) (inc : Bool) (x : GReg) :
    ∃ w, getT (heldLoad s k t n d.val p (if inc then some a else none) x) k = some w ∧
      (heldLoad s k t n d.val p (if inc then some a else none) x).mem = s.mem ∧ w.pc = v.nextPc ∧ (inc = false → d ≠ 0 → w.rd d = x) ∧
      (inc = true → a ≠ 0 → w.rd a = ⟨.cap, capStepped (t.rd a).bits⟩) ∧ ∀ r, r ≠ d → r ≠ a → w.rd r = v.rd r := by
  have hbank : getT (heldBank s k p) k = some v := by rw [getT_congr (heldBank_frame s k p).2.1, hv]
  obtain ⟨w, hw, hg, hpc, hsize⟩ := writeResult_load hbank t n d x
  have hwlen : w.g.length = 32 := by rw [hg, Thread.length_wr, hlen]
  have hother : ∀ r, r ≠ d → w.rd r = v.rd r := fun r hr => (Thread.rd_congr hg r).trans (Thread.rd_wr_ne hr)
  have hmem : (heldLoad s k t n d.val p (if inc then some a else none) x).mem = s.mem := by
    unfold heldLoad
    rw [(advance_same ..).mem, (heldInc_same ..).mem, writeResult_load_mem, (heldBank_frame s k p).1]
  refine ⟨_, by rw [heldLoad, getT_advance, getT_heldInc hw]; rfl, hmem, ?_⟩
  cases inc with
  | false =>
    refine ⟨by simp [Thread.next, Thread.nextPc, hpc, hsize], fun _ hd => ?_, by simp, fun r hr _ => hother r hr⟩
    exact (Thread.rd_congr hg d).trans (Thread.rd_wr_same hd (by rw [hlen]; exact d.isLt) x)
  | true =>
    refine ⟨by simp [Thread.next, Thread.nextPc, Thread.wr_pc, Thread.wr_size, hpc, hsize], by simp, fun _ ha => ?_, fun r hr ha => ?_⟩
    · exact Thread.rd_wr_same (t := w) ha (by rw [hwlen]; exact a.isLt) _
    · exact (Thread.rd_wr_ne (t := w) ha).trans (hother r hr)

end HeldLoad

/-! ## Stores in the core's own store -/

/-- What a store may carry: DATA, or a whole granule of a kind that is stored with its tag (05 R83, R84). -/
theorem storeData_kinds {s : State} {tid : Nat} {t : Thread} {op : MemOp} {d : Reg} {x : Addressed}
    (h : storeData (unpopped s tid t d) tid op d x = .ok ()) :
    (t.rd d).kind = .data ∨ szBytes op.sz = 16 ∧ (t.rd d).kind ∈ [Kind.cap, .strm, .tens] := by
  have hport : portAt s tid d = false := by
    rw [← Bool.not_eq_true]
    intro hp
    simp only [unpopped, hp, if_true] at h
    unfold storeData at h
    cases hz : op.sz <;> simp [hz, needKind] at h
  simp only [unpopped, hport, Bool.false_eq_true, if_false] at h
  have narrow : needKind .data d (t.rd d) = .ok () → (t.rd d).kind = .data := by
    intro hn
    unfold needKind at hn
    split at hn
    · assumption
    · split at hn <;> cases hn
  unfold storeData at h
  cases hz : op.sz with
  | q =>
    simp only [hz] at h
    cases hk : (t.rd d).kind <;> simp [hk] at h ⊢
    all_goals rfl
  | b => exact .inl (narrow (by simpa only [hz] using h))
  | h => exact .inl (narrow (by simpa only [hz] using h))
  | w => exact .inl (narrow (by simpa only [hz] using h))
  | d => exact .inl (narrow (by simpa only [hz] using h))

/-- A store has no result and counts nothing. -/
theorem perform_store_result (s : State) (w : Writer) (n : Nat) (g : GReg) (ps : List Place) :
    (perform s w (.store n g) ps).2 = (GReg.zero, Counts.zero) := by
  have h : (applyAcc s w (.store n g) ps).2 = (GReg.zero, Counts.zero) := by
    unfold applyAcc
    dsimp only
    split <;> rfl
  unfold perform
  dsimp only
  split <;> exact h

theorem launchAccess_store_near {s : State} {tid n : Nat} {a : Access} (h : parkTime (tid / 16) a.place = 0) (t : Thread) (g : GReg) (d : Reg)
    (inc : Option Nat) (relaxed : Bool) : launchAccess s tid t (.store n g) n a d.val inc relaxed =
      .ok (accessed (heldBank (perform s (threadWriter s tid) (.store n g) (placeRun a.place n)).1 tid a.place) tid t (.store n g) d inc
        GReg.zero Counts.zero) := by
  rw [launchAccess_near h (fun hr => by cases hr)]
  dsimp only
  rw [perform_store_result]
  rfl

/-- After a store as it is accessed, the store's bytes, tags and states are those it was performed with. -/
theorem accessed_store_same (s : State) (k : Nat) (t : Thread) (n : Nat) (g : GReg) (d : Reg) (inc : Option Nat) :
    SameStore s (accessed s k t (.store n g) d inc GReg.zero Counts.zero) := by
  unfold accessed
  rw [countAt_zero]
  exact (applyInc_same s k inc).trans (advance_same ..)

theorem accessed_store_pc {s u : State} {k : Nat} {v : Thread} (hv : getT s k = some v) (h : SameBundles s u) (t : Thread) (n : Nat) (g : GReg)
    (d : Reg) (inc : Option Nat) :
    (getT (accessed u k t (.store n g) d inc GReg.zero Counts.zero) k).map Thread.pc = some v.nextPc := by
  unfold accessed
  rw [countAt_zero]
  exact advance_pc hv (h.trans (applyInc_sameBundles u k inc))

/-- A store that goes on is performed, and then only its thread's cursor and program counter move. -/
theorem heldStore_mem (s : State) (k : Nat) (t : Thread) (n : Nat) (d : Reg) (p : Place) (inc : Option Reg) :
    (heldStore s k t n d p inc).mem = (perform s (threadWriter s k) (.store n (t.rd d)) (placeRun p n)).1.mem := by
  unfold heldStore
  rw [(advance_same ..).mem, (heldInc_same ..).mem, (heldBank_frame ..).1]

theorem heldStore_pc {s : State} {k : Nat} {v : Thread} (hv : getT s k = some v) (t : Thread) (n : Nat) (d : Reg) (p : Place) (inc : Option Reg) :
    (getT (heldStore s k t n d p inc) k).map Thread.pc = some v.nextPc := by
  unfold heldStore
  have performed := perform_sameBundles s (threadWriter s k) (.store n (t.rd d)) (placeRun p n)
  generalize (perform s (threadWriter s k) (.store n (t.rd d)) (placeRun p n)).1 = u at performed
  have banked : SameBundles u (heldBank u k p) := .of_threads (heldBank_frame u k p).2.1
  exact advance_pc hv ((performed.trans banked).trans (heldInc_sameBundles ..))

/-! ## LD and ST (05 R80, R84, 06 R104-R106) -/

section Clauses
variable {op : MemOp} {d a : Reg} {s : State} {i : Issue} {t v : Thread} {pop : Option InboxEntry} {x : Addressed} {acc : Access}
  (hr : reading s [d, a] [a] = some (i, t, pop)) (hv : getT s i.tid = some v)
include hr hv

/-- The store of a pair that goes on, in the core's own store. -/
theorem st_held {off : Nat} {y : GReg} (hl : i.latch.bind Latch.held = some (.ls (i.tid / 16) off, y)) (hm : MemOk s) :
    let n := szBytes op.sz
    let ps := placeRun (.ls (i.tid / 16) off) n
    let u := heldStore s i.tid t n d (.ls (i.tid / 16) off) (if op.inc then some a else none)
    exec (.st op d a) s = .next (finish pop i.tid u) ∧ (getT u i.tid).map Thread.pc = some v.nextPc ∧
      (NoneParked s ps → (t.rd d).kind = .data →
        (∀ k < n, memGet (placeKey (.ls (i.tid / 16) off) + k) u.mem = BitVec.ofNat 8 ((t.rd d).bits.toNat / 256 ^ k)) ∧
        (∀ k, (k < placeKey (.ls (i.tid / 16) off) ∨ placeKey (.ls (i.tid / 16) off) + n ≤ k) → memGet k u.mem = memGet k s.mem)) := by
  intro n ps u
  have goes := exec_st_held (op := op) hr hl
  dsimp only at goes
  refine ⟨goes, heldStore_pc hv .., fun hn hd => ?_⟩
  have stored := perform_stored hm (p := .ls (i.tid / 16) off) rfl hn (.inl hd) (threadWriter s i.tid)
  have hmem : u.mem = (perform s (threadWriter s i.tid) (.store n (t.rd d)) ps).1.mem := heldStore_mem ..
  rw [hmem]
  exact ⟨stored.bytes, stored.others⟩

variable (hl : i.latch.bind Latch.held = none)
include hl

/-- A load that issues: at once in the core's own store, and else on its way. -/
theorem ld_access (hd : Free t d) (hx : memAddress s i.tid t op a (szBytes op.sz) false = .ok x) (hacc : memPlace s i t op.am false x = .ok acc) :
    let n := szBytes op.sz
    let ps := placeRun acc.place n
    let lat := parkTime (i.tid / 16) acc.place
    let inc := if op.inc then some a.val else none
    ¬ (n = 16 ∧ isOwnLs (i.tid / 16) acc.place = false ∧ (loadValue s ps).kind = .strm) →
    (lat = 0 → poisoned s ps = none → exec (.ld op d a) s = .next (finish pop i.tid
      (accessed (heldBank s i.tid acc.place) i.tid t (.load n) d inc (loadValue s ps) Counts.zero))) ∧
    (0 < lat → op.rx = false → ∃ u, exec (.ld op d a) s = .next (finish pop i.tid u) ∧ Leaves s u i.tid (.load n) ps lat d false) ∧
    (0 < lat → op.rx = true → relaxedCount s i.tid < 8 →
      ∃ u, exec (.ld op d a) s = .next (finish pop i.tid u) ∧ Leaves s u i.tid (.load n) ps lat d true) := by
  intro n ps lat inc hstrm
  have issues : ∀ {u}, launchAccess s i.tid t (.load n) n acc d.val inc op.rx = .ok u → exec (.ld op d a) s = .next (finish pop i.tid u) :=
    exec_ld_access hr hl hx hd hacc (loadable_ok hstrm)
  refine ⟨fun hz hp => issues ?_, fun hfar hrx => ?_, fun hfar hrx hroom => ?_⟩
  · have near := launchAccess_near (t := t) (op := .load n) (d := d) (inc := inc) (relaxed := op.rx) hz (fun _ => hp)
    rw [perform_load] at near
    exact near
  · obtain ⟨u, hu, leaves⟩ := launchAccess_far (t := t) (op := .load n) (n := n) (d := d) (inc := inc) hv hfar
    exact ⟨u, issues (by rw [hrx]; exact hu), leaves⟩
  · obtain ⟨u, hu, leaves⟩ := launchAccess_relaxed (t := t) (op := .load n) (n := n) (d := d) (inc := inc) hv hfar hroom
    exact ⟨u, issues (by rw [hrx]; exact hu), leaves⟩

/-- A store that issues: at once in the core's own store, and else on its way. -/
theorem st_access (hx : memAddress s i.tid t op a (szBytes op.sz) true = .ok x) (hd : storeData (unpopped s i.tid t d) i.tid op d x = .ok ())
    (hacc : memPlace s i t op.am true x = .ok acc) :
    let n := szBytes op.sz
    let ps := placeRun acc.place n
    let lat := parkTime (i.tid / 16) acc.place
    let data := AccOp.store n (t.rd d)
    let inc := if op.inc then some a.val else none
    (lat = 0 →
      let u := accessed (heldBank (perform s (threadWriter s i.tid) data ps).1 i.tid acc.place) i.tid t data d inc GReg.zero Counts.zero
      exec (.st op d a) s = .next (finish pop i.tid u) ∧
      (∀ off, acc.place = .ls (i.tid / 16) off → MemOk s → NoneParked s ps →
        Stored s u acc.place n (t.rd d) ∧ (getT u i.tid).map Thread.pc = some v.nextPc)) ∧
    (0 < lat → op.rx = false → ∃ u, exec (.st op d a) s = .next (finish pop i.tid u) ∧ Leaves s u i.tid data ps lat d false) ∧
    (0 < lat → op.rx = true → relaxedCount s i.tid < 8 →
      ∃ u, exec (.st op d a) s = .next (finish pop i.tid u) ∧ Leaves s u i.tid data ps lat d true) := by
  intro n ps lat data inc
  have issues : ∀ {u}, launchAccess s i.tid t data n acc d.val inc op.rx = .ok u → exec (.st op d a) s = .next (finish pop i.tid u) :=
    exec_st_access hr hl hx hd hacc
  refine ⟨fun hz => ⟨issues ?_, fun off hplace hm hn => ?_⟩, fun hfar hrx => ?_, fun hfar hrx hroom => ?_⟩
  · exact launchAccess_store_near hz ..
  · have hstore : inStore acc.place = true := by rw [hplace]; rfl
    have stored := perform_stored hm hstore hn (storeData_kinds hd) (threadWriter s i.tid)
    obtain ⟨bmem, bthreads, bempties, btags⟩ := heldBank_frame (perform s (threadWriter s i.tid) data ps).1 i.tid acc.place
    have same := accessed_store_same (heldBank (perform s (threadWriter s i.tid) data ps).1 i.tid acc.place) i.tid t n (t.rd d) d inc
    exact ⟨stored.congr (inMem_of_inStore hstore) (same.mem.trans bmem) (same.tags.trans btags) (same.empties.trans bempties),
      accessed_store_pc hv ((perform_sameBundles s _ data ps).trans (.of_threads bthreads)) t n (t.rd d) d inc⟩
  · obtain ⟨u, hu, leaves⟩ := launchAccess_far (t := t) (op := data) (n := n) (d := d) (inc := inc) hv hfar
    exact ⟨u, issues (by rw [hrx]; exact hu), leaves⟩
  · obtain ⟨u, hu, leaves⟩ := launchAccess_relaxed (t := t) (op := data) (n := n) (d := d) (inc := inc) hv hfar hroom
    exact ⟨u, issues (by rw [hrx]; exact hu), leaves⟩

end Clauses

/-- Settles O10: the checks of an address one by one, and a load and a store each as it goes on after a park, is done at once, or leaves the
core; what a store leaves in the core's own store is `Stored`. -/
theorem loadsAndStores : Obligations.LoadsAndStores := by
  refine ⟨memAddress_cap, ⟨?_, ?_⟩, ⟨?_, ?_⟩⟩
  · intro op d a s i t v pop p x hr hv hlen hl
    obtain ⟨w, h⟩ := heldLoad_spec hv hlen t (szBytes op.sz) d a p op.inc x
    exact ⟨_, w, exec_ld_held hr hl, h⟩
  · intro op d a s i t v pop x acc hr hv hd hl n ps lat inc hx hacc hstrm
    exact ld_access hr hv hl hd hx hacc hstrm
  · intro op d a s i t v pop off x hr hv hl hm
    exact st_held hr hv hl hm
  · intro op d a s i t v pop x acc hr hv hl n ps lat data inc hx hd hacc
    obtain ⟨near, far, relaxed⟩ := st_access hr hv hl hx hd hacc
    refine ⟨fun hz => ⟨(near hz).1, fun off hplace hm hn => ?_⟩, far, relaxed⟩
    obtain ⟨stored, hpc⟩ := (near hz).2 off hplace hm hn
    exact ⟨stored.bytes, stored.others, stored.value, stored.granules, hpc⟩

end Sys2Proof.Machine

namespace Sys2Proof.Machine

/-! ## Creating a context (13 R227) -/

/-- An address that no cell lists reads the default. -/
theorem memGet_unlisted {m : List Host.Cell} {a : Nat} (h : ∀ c ∈ m, c.1 ≠ a) : memGet a m = memDefault := by
  induction m with
  | nil => rfl
  | cons c rest ih =>
    obtain ⟨b, v⟩ := c
    simp only [memGet, if_neg (h (b, v) List.mem_cons_self), ih (fun c hc => h c (List.mem_cons_of_mem _ hc)), ite_self]

/-- What one element of a list brings about, and no element undoes, holds after the list has been folded over. -/
theorem foldl_establishes {α β : Type} {f : β → α → β} {P : β → Prop} {x : α} {l : List α} (hx : x ∈ l) (sets : ∀ b, P (f b x))
    (keeps : ∀ b y, P b → P (f b y)) (b : β) : P (l.foldl f b) := by
  obtain ⟨before, after, rfl⟩ := List.append_of_mem hx
  rw [List.foldl_append, List.foldl_cons]
  exact List.foldlRecOn after f (sets _) (fun b hb y _ => keeps b y hb)

theorem clearRange_clears {s : State} {lo hi a : Nat} (hlo : lo ≤ a) (hhi : a < hi) : ∀ c ∈ (clearRange s lo hi).mem, c.1 ≠ a := by
  intro c hc
  have hout := (List.mem_filter.mp hc).2
  simp only [Bool.or_eq_true, decide_eq_true_eq] at hout
  omega

/-- A cell that clearing leaves was there before. -/
theorem mem_of_mem_clearRange {s : State} {lo hi : Nat} {c : Host.Cell} (hc : c ∈ (clearRange s lo hi).mem) : c ∈ s.mem :=
  (List.mem_filter.mp hc).1

/-- A cluster's share of the zeroing of a partition: the slices and, on an F4-class cluster, their scale blocks. -/
def zeroCluster (p : CtxParams) (u : State) (cl : Nat) : State :=
  let base := placeKey (.bstore cl 0)
  if isF4 cl then
    clearRange (clearRange u (base + p.f4Base * 32768) (base + (p.f4Base + p.f4Count) * 32768))
      (base + 240 * 32768 + p.f4Base * 2048) (base + 240 * 32768 + (p.f4Base + p.f4Count) * 2048)
  else clearRange u (base + p.b16Base * 32768) (base + (p.b16Base + p.b16Count) * 32768)

theorem zeroPartition_eq (s : State) (p : CtxParams) : zeroPartition s p = (List.range 192).foldl (zeroCluster p) s := rfl

theorem zeroCluster_threads (p : CtxParams) (u : State) (cl : Nat) : (zeroCluster p u cl).threads = u.threads := by
  unfold zeroCluster; split <;> rfl

theorem zeroCluster_ctxs (p : CtxParams) (u : State) (cl : Nat) : (zeroCluster p u cl).ctxs = u.ctxs := by
  unfold zeroCluster; split <;> rfl

theorem mem_of_mem_zeroCluster {p : CtxParams} {u : State} {cl : Nat} {c : Host.Cell} (hc : c ∈ (zeroCluster p u cl).mem) : c ∈ u.mem := by
  unfold zeroCluster at hc
  split at hc
  · exact mem_of_mem_clearRange (mem_of_mem_clearRange hc)
  · exact mem_of_mem_clearRange hc

/-- A slice of a cluster's B-store belongs to the partition. -/
def InPartition (p : CtxParams) (cl k : Nat) : Prop :=
  if isF4 cl then p.f4Base ≤ k ∧ k < p.f4Base + p.f4Count else p.b16Base ≤ k ∧ k < p.b16Base + p.b16Count

theorem zeroCluster_clears {p : CtxParams} {cl k o : Nat} (hk : InPartition p cl k) (ho : o < 32768) (u : State) :
    ∀ c ∈ (zeroCluster p u cl).mem, c.1 ≠ placeKey (.bstore cl 0) + k * 32768 + o := by
  intro c hc
  unfold InPartition at hk
  unfold zeroCluster at hc
  split at hc
  · next hf =>
    rw [if_pos hf] at hk
    exact clearRange_clears (by omega) (by omega) c (mem_of_mem_clearRange hc)
  · next hf =>
    rw [if_neg hf] at hk
    exact clearRange_clears (by omega) (by omega) c hc

theorem zeroPartition_threads (s : State) (p : CtxParams) : (zeroPartition s p).threads = s.threads :=
  List.foldlRecOn (motive := fun u => u.threads = s.threads) _ (zeroCluster p) rfl (fun u hu cl _ => (zeroCluster_threads p u cl).trans hu)

theorem zeroPartition_ctxs (s : State) (p : CtxParams) : (zeroPartition s p).ctxs = s.ctxs :=
  List.foldlRecOn (motive := fun u => u.ctxs = s.ctxs) _ (zeroCluster p) rfl (fun u hu cl _ => (zeroCluster_ctxs p u cl).trans hu)

/-- Every byte of the partition's slices reads zero: its cluster's turn clears it, and no other cluster's turn lists it again. -/
theorem zeroPartition_reads_zero {p : CtxParams} {cl k o : Nat} (hcl : cl < 192) (hk : InPartition p cl k) (ho : o < 32768) (s : State) :
    memGet (placeKey (.bstore cl 0) + k * 32768 + o) (zeroPartition s p).mem = 0 := by
  refine memGet_unlisted ?_
  rw [zeroPartition_eq]
  exact foldl_establishes (f := zeroCluster p) (P := fun u => ∀ c ∈ u.mem, c.1 ≠ placeKey (.bstore cl 0) + k * 32768 + o) (List.mem_range.mpr hcl)
    (zeroCluster_clears hk ho) (fun u cl' hu c hc => hu c (mem_of_mem_zeroCluster hc)) s

/-- What CONTEXT_CREATE asks of the state and of the request (13 R227, 21 R334). -/
def MayCreate (ctx : Nat) (p : CtxParams) (s : State) : Prop :=
  s.dev.ready = true ∧ ctx < 64 ∧ getC s ctx = none ∧ partitionOk s p = true ∧ p.root % 2 ^ 21 = 0 ∧ physExists p.root = true

/-- The bytes that MEAS2 is extended by as a context is created (23 R354). -/
def ctxBytes (p : CtxParams) : List Byte :=
  toBytes 8 p.f4Base ++ toBytes 8 p.f4Count ++ toBytes 8 p.b16Base ++ toBytes 8 p.b16Count ++ toBytes 8 p.grant ++ toBytes 8 p.reserve

/-- The state with the new context. -/
def created (ctx : Nat) (p : CtxParams) (s : State) : State :=
  extendMeas (setC (zeroPartition s p) ctx (newCtx p)) 2 (Config.sha384 (ctxBytes p))

theorem contextCreate_creates {ctx : Nat} {p : CtxParams} {s : State} (h : MayCreate ctx p s) :
    exec (.contextCreate ctx p) s = .next (created ctx p s) := by
  obtain ⟨hready, hctx, hnone, hpart, halign, hphys⟩ := h
  rw [exec_contextCreate, execContextCreate, if_pos ⟨hready, hctx, Option.isNone_iff_eq_none.mpr hnone, hpart, halign, hphys⟩]
  rfl

theorem contextCreate_refused {ctx : Nat} {p : CtxParams} {s : State} (h : ¬ MayCreate ctx p s) :
    exec (.contextCreate ctx p) s = .next s := by
  rw [exec_contextCreate, execContextCreate, if_neg]
  rintro ⟨hready, hctx, hnone, hpart, halign, hphys⟩
  exact h ⟨hready, hctx, Option.isNone_iff_eq_none.mp hnone, hpart, halign, hphys⟩

theorem getC_congr {s u : State} (h : u.ctxs = s.ctxs) (k : Nat) : getC u k = getC s k := by rw [getC, getC, h]

@[simp] theorem extendMeas_ctxs (s : State) (k digest : Nat) : (extendMeas s k digest).ctxs = s.ctxs := rfl
@[simp] theorem extendMeas_threads (s : State) (k digest : Nat) : (extendMeas s k digest).threads = s.threads := rfl
@[simp] theorem extendMeas_mem (s : State) (k digest : Nat) : (extendMeas s k digest).mem = s.mem := rfl

theorem getC_created_same (ctx : Nat) (p : CtxParams) (s : State) : getC (created ctx p s) ctx = some (newCtx p) := by
  rw [created, getC_congr (extendMeas_ctxs ..), getC_setC_same]

theorem getC_created_ne {ctx k : Nat} (h : k ≠ ctx) (p : CtxParams) (s : State) : getC (created ctx p s) k = getC s k := by
  rw [created, getC_congr (extendMeas_ctxs ..), getC_setC_ne _ h, getC_congr (zeroPartition_ctxs s p)]

theorem created_threads (ctx : Nat) (p : CtxParams) (s : State) : (created ctx p s).threads = s.threads := by
  rw [created, extendMeas_threads, setC_threads, zeroPartition_threads]

theorem created_mem (ctx : Nat) (p : CtxParams) (s : State) : (created ctx p s).mem = (zeroPartition s p).mem := by
  rw [created, extendMeas_mem, setC_mem]

/-! ## Registering a root (05 R81) -/

/-- The memory core's rewrite of a root sets bit 118, Onchip, by where BASE lies, and keeps the bits below and above it. -/
theorem mintedRoot_toNat (cap : QWord) : (mintedRoot cap).toNat =
    2 ^ 118 * (2 * (cap.toNat / 2 ^ 119) + (onchip (capBase cap) false).isSome.toNat) + cap.toNat % 2 ^ 118 := by
  have hcap := cap.isLt
  unfold mintedRoot bits
  cases (onchip (capBase cap) false).isSome
  · simp only [Bool.false_eq_true, if_false, BitVec.toNat_ofNat, Bool.toNat_false]
    omega
  · simp only [if_true, BitVec.toNat_ofNat, Bool.toNat_true]
    omega

theorem getLsbD_mintedRoot (cap : QWord) (j : Nat) :
    (mintedRoot cap).getLsbD j = if j = 118 then (onchip (capBase cap) false).isSome else cap.getLsbD j := by
  rw [BitVec.getLsbD, BitVec.getLsbD, mintedRoot_toNat, Nat.testBit_two_pow_mul_add _ (Nat.mod_lt _ (Nat.two_pow_pos 118))]
  obtain hlt | rfl | ⟨i, rfl⟩ : j < 118 ∨ j = 118 ∨ ∃ i, j = i + 119 :=
    (Nat.lt_trichotomy j 118).imp_right (.imp_right fun h => ⟨j - 119, by omega⟩)
  · rw [if_pos hlt, if_neg (by omega), Nat.testBit_mod_two_pow, decide_eq_true hlt, Bool.true_and]
  · cases (onchip (capBase cap) false).isSome <;> simp
  · have hhalf : (2 * (cap.toNat / 2 ^ 119) + (onchip (capBase cap) false).isSome.toNat) / 2 = cap.toNat / 2 ^ 119 := by
      have := Bool.toNat_lt (onchip (capBase cap) false).isSome
      omega
    rw [if_neg (by omega), if_neg (by omega), show i + 119 - 118 = i + 1 by omega, Nat.testBit_succ, hhalf, Nat.testBit_div_two_pow]

theorem capOnchip_eq (b : QWord) : capOnchip b = b.getLsbD 118 := by
  rw [BitVec.getLsbD, Nat.testBit_eq_decide_div_mod_eq]
  rfl

theorem capOnchip_mintedRoot (cap : QWord) : capOnchip (mintedRoot cap) = (onchip (capBase cap) false).isSome := by
  rw [capOnchip_eq, getLsbD_mintedRoot, if_pos rfl]

theorem rootRegister_spec {ctx k : Nat} {s : State} {c : Ctx} (hc : getC s ctx = some c) (hr : s.dev.ready = true) (hk : k < 16) (cap : QWord) :
    let r := mintedRoot cap
    let ok := if capOnchip r then rootPlaceOk s ctx (capBase r) (capLen r) else decide (capBase r + capLen r < 2 ^ 48)
    exec (.rootRegister ctx k cap) s = .next (if ok then setC s ctx { c with roots := tset k r c.roots } else s) := by
  intro r ok
  rw [exec_rootRegister, execRootRegister, hc]
  simp only [hr, hk, true_and, apply_ite Host.Outcome.next]
  rfl

/-! ## Loading an image (03 R49-R51) -/

theorem imageLoad_loads {ctx : Nat} {img : Image} {s u : State} {c : Ctx} (hc : getC s ctx = some c) (hr : s.dev.ready = true)
    (h : loadImage ctx img c s = .ok u) : exec (.imageLoad ctx img) s = .next u := by
  rw [exec_imageLoad, execImageLoad, if_pos hr, hc]
  simp only [h]

/-- The state after a load that failed: nothing of the image, the failure recorded, and its address in a reply to the host. -/
def loadFailed (ctx : Nat) (img : Image) (e : Option Nat) (s : State) : State :=
  let u := replyTo s img.reply (toBytes 8 (e.getD 0))
  { u with dev := { u.dev with loadErrors := u.dev.loadErrors ++ [(ctx, e)] } }

theorem imageLoad_fails {ctx : Nat} {img : Image} {s : State} {c : Ctx} {e : Option Nat} (hc : getC s ctx = some c) (hr : s.dev.ready = true)
    (h : loadImage ctx img c s = .error e) : exec (.imageLoad ctx img) s = .next (loadFailed ctx img e s) := by
  rw [exec_imageLoad, execImageLoad, if_pos hr, hc]
  simp only [h]
  rfl

theorem cleanKeys_mem (s : State) (k n : Nat) : (cleanKeys s k n).mem = s.mem := by
  unfold cleanKeys; split <;> rfl

theorem cleanKeys_ctxs (s : State) (k n : Nat) : (cleanKeys s k n).ctxs = s.ctxs := by
  unfold cleanKeys; split <;> rfl

/-- A reply is written to the host memory it names, if there is such, and is recorded; contexts and threads are as before. -/
theorem replyTo_spec (s : State) (addr : Nat) (bs : List Byte) :
    (replyTo s addr bs).dev = { s.dev with replies := s.dev.replies ++ [bs] } ∧
    (replyTo s addr bs).mem = (if physExists addr = true ∧ isHost addr = true then (putKeys s addr bs).mem else s.mem) ∧
    (replyTo s addr bs).ctxs = s.ctxs ∧ (replyTo s addr bs).threads = s.threads := by
  simp only [replyTo, Bool.and_eq_true]
  split
  · obtain ⟨hthreads, hdev⟩ := cleanKeys_onlyMemory (putKeys s addr bs) addr bs.length
    exact ⟨by rw [hdev]; rfl, cleanKeys_mem .., cleanKeys_ctxs .., hthreads⟩
  · exact ⟨rfl, rfl, rfl, rfl⟩

theorem loadImage_unmapped {ctx : Nat} {img : Image} {c : Ctx} {s : State} {b : Nat × Byte}
    (h : img.bytes.find? (fun b => (physOf s ctx b.1).isNone) = some b) : loadImage ctx img c s = .error (some b.1) := by
  simp only [loadImage, h]

theorem patchField_unfit {f : FieldUse} {v : Int} (h : fieldFits f v = false) (s : State) (ctx : Nat) :
    patchField s ctx f v = .error (some f.addr) := by
  simp [patchField, h]

theorem loadImage_unfit {ctx : Nat} {img : Image} {c : Ctx} {s : State} {f : FieldUse} {v : Int} {rest : List (FieldUse × Int)}
    (hmap : img.bytes.all (fun b => (physOf s ctx b.1).isSome) = true) (hrel : img.relocs = (f, v) :: rest) (hfit : fieldFits f v = false) :
    loadImage ctx img c s = .error (some f.addr) := by
  have hfind : img.bytes.find? (fun b => (physOf s ctx b.1).isNone) = none := by
    rw [List.find?_eq_none]
    intro b hb
    simpa [Option.isSome_iff_ne_none] using List.all_eq_true.mp hmap b hb
  simp only [loadImage, hfind, hrel, patchFields, patchField_unfit hfit]

/-- Settles O49: a context is created exactly where `MayCreate` holds, with its partition zeroed cluster by cluster; a root keeps every bit but
Onchip; and a load ends in `loadImage`'s state or in `loadFailed`. -/
theorem contextsRootsAndImages : Obligations.ContextsRootsAndImages := by
  refine ⟨fun ctx p s => ⟨contextCreate_refused, fun h => ?_⟩, fun ctx k cap s c hc hr hk => ?_, fun ctx img s c hc hr => ?_⟩
  · exact ⟨_, contextCreate_creates h, getC_created_same ctx p s, fun k hk => getC_created_ne hk p s, created_threads ctx p s,
      fun cl hcl o ho k hk => by rw [created_mem]; exact zeroPartition_reads_zero hcl hk ho s⟩
  · exact ⟨capOnchip_mintedRoot cap, fun j hj => by rw [getLsbD_mintedRoot, if_neg hj], rootRegister_spec hc hr hk cap⟩
  · refine ⟨fun u => imageLoad_loads hc hr, fun e he => ?_, fun b => loadImage_unmapped, fun f v rest => loadImage_unfit⟩
    obtain ⟨hdev, hmem, hctxs, hthreads⟩ := replyTo_spec s img.reply (toBytes 8 (e.getD 0))
    exact ⟨_, imageLoad_fails hc hr he, by simp only [loadFailed, hdev], by simp only [loadFailed, hdev], hmem, hctxs, hthreads⟩

end Sys2Proof.Machine

namespace Sys2Proof.Machine

/-! ## Branches and jumps (04 R63, R64, R67; 02 R30, R31) -/

theorem s64_toNat (x : BitVec 64) : s64 x.toNat = x.toInt := by
  have := x.isLt
  simp only [s64, sextZ, BitVec.toInt]
  split <;> split <;> omega

/-- A comparison of 02 R30 as bit vectors have it. -/
def cmpBits (c : Cmp) (x y : BitVec 64) : Bool :=
  match c with
  | .eq => x == y | .ne => x != y
  | .lt => x.slt y | .ge => y.sle x | .ltn => x.ult y | .gen => y.ule x

theorem cmpHolds_toNat (c : Cmp) (x y : BitVec 64) : cmpHolds c x.toNat y.toNat = cmpBits c x y := by
  have heq : (x.toNat == y.toNat) = (x == y) := by rw [Bool.eq_iff_iff]; simp [BitVec.toNat_inj]
  cases c with
  | eq => exact heq
  | ne => exact congrArg (!·) heq
  | lt => simp only [cmpHolds, cmpBits, s64_toNat, BitVec.slt]
  | ge => simp only [cmpHolds, cmpBits, s64_toNat, BitVec.sle]
  | ltn => rfl
  | gen => rfl

/-- The target of 02 R31: the offset counts words. -/
theorem branchTarget_toInt {n : Nat} (pc : VAddr) (off : BitVec n) : branchTarget pc off.toInt = pc + off.signExtend 57 * 4 := by
  rw [branchTarget, BitVec.ofInt_add, BitVec.ofInt_mul, BitVec.ofInt_natCast, BitVec.ofNat_toNat, BitVec.setWidth_eq,
    BitVec.signExtend, BitVec.mul_comm]
  rfl

theorem toU64_toInt {n : Nat} (imm : BitVec n) : toU64 imm.toInt = (imm.signExtend 64).toNat := by
  rw [BitVec.signExtend, BitVec.toNat_ofInt]
  rfl

/-- The link of a jump. -/
theorem dataOf_vaddr (a : VAddr) : dataOf a.toNat = word (a.setWidth 64) := by
  simp only [dataOf, word, BitVec.ofNat_toNat, GReg.mk.injEq, true_and]
  exact (BitVec.setWidth_setWidth (by decide)).symm

/-- A DATA operand has the kind that a check for DATA asks. -/
theorem IsData.mem {t : Thread} {r : Reg} (h : IsData t r) : (t.rd r).kind ∈ [Kind.data] := List.mem_singleton.mpr h

/-- A meaning that pops nothing answers its body's result. -/
theorem issueWith_pops_none {s s' : State} {regs : List Reg} {body : Issue → Thread → Except Stop State} {i : Issue} {t : Thread}
    (h : reading s regs [] = some (i, t, none)) (hb : body i t = .ok s') : issueWith s regs [] body = .next s' :=
  issueWith_ok h noneBefore_nil hb

section Branches
variable {a b d : Reg} {s : State} {i : Issue} {t : Thread} {pop : Option InboxEntry}

theorem branchB_cmp (h : reading s [a, b] [a, b] = some (i, t, pop)) (ha : IsData t a) (hb : IsData t b) (c : Cmp) {n : Nat} (off : BitVec n) :
    branchB (.cmp c) a b off.toInt s = .next (finish pop i.tid
      (setPc s i.tid (if cmpBits c (low t a) (low t b) then t.pc + off.signExtend 57 * 4 else t.nextPc))) := by
  rw [branchB]
  simp only [needKind_eq_kinds]
  refine issueWith_ok h (noneBefore_two h ha.mem hb.mem (by decide) (by decide)) ?_
  rw [needKinds_ok ha.mem, needKinds_ok hb.mem]
  simp only [ok_bind, branchTo, lo64_eq_low, cmpHolds_toNat, branchTarget_toInt]

theorem branchB_smore (h : reading s [a] [a] = some (i, t, pop)) (ha : (t.rd a).kind = .strm) (b : Reg) {n : Nat} (off : BitVec n) :
    branchB .smore a b off.toInt s = .next (finish pop i.tid (setPc s i.tid
      (if vecElems (codeWidth (strmFmt (t.rd a).bits)) < strmCount (t.rd a).bits - strmCur (t.rd a).bits then t.pc + off.signExtend 57 * 4
        else t.nextPc))) := by
  rw [branchB]
  simp only [needKind_eq_kinds]
  refine issueWith_ok h (noneBefore_one h (List.mem_singleton.mpr ha) (by decide)) ?_
  rw [needKinds_ok (List.mem_singleton.mpr ha)]
  simp only [ok_bind, branchTo, decide_eq_true_eq, branchTarget_toInt]

theorem branchB_sdone (h : reading s [a] [a] = some (i, t, pop)) (ha : (t.rd a).kind = .strm) (b : Reg) {n : Nat} (off : BitVec n) :
    branchB .sdone a b off.toInt s = .next (finish pop i.tid (setPc s i.tid
      (if strmCount (t.rd a).bits - strmCur (t.rd a).bits == 0 then t.pc + off.signExtend 57 * 4 else t.nextPc))) := by
  rw [branchB]
  simp only [needKind_eq_kinds]
  refine issueWith_ok h (noneBefore_one h (List.mem_singleton.mpr ha) (by decide)) ?_
  rw [needKinds_ok (List.mem_singleton.mpr ha)]
  simp only [ok_bind, branchTo, branchTarget_toInt]

theorem branchBI_cmp (h : reading s [a] [a] = some (i, t, pop)) (ha : IsData t a) (c : Cmp) {m n : Nat} (imm : BitVec m) (off : BitVec n) :
    branchBI c a imm.toInt off.toInt s = .next (finish pop i.tid
      (setPc s i.tid (if cmpBits c (low t a) (imm.signExtend 64) then t.pc + off.signExtend 57 * 4 else t.nextPc))) := by
  rw [branchBI]
  simp only [needKind_eq_kinds]
  refine issueWith_ok h (noneBefore_one h ha.mem (by decide)) ?_
  rw [needKinds_ok ha.mem]
  simp only [ok_bind, branchTo, lo64_eq_low, toU64_toInt, cmpHolds_toNat, branchTarget_toInt]

theorem j_jumps (h : reading s [] [] = some (i, t, none)) (off : BitVec 24) :
    exec (.j off) s = .next (setPc s i.tid (t.pc + off.signExtend 57 * 4)) := by
  rw [exec_j, execJ]
  refine issueWith_pops_none h ?_
  simp only [branchTo, branchTarget_toInt, if_true]

theorem jal_links (h : reading s [d] [] = some (i, t, none)) (hd : Free t d) (off : BitVec 19) :
    exec (.jal d off) s = .next (setPc (setReg s i.tid d (word (t.nextPc.setWidth 64))) i.tid (t.pc + off.signExtend 57 * 4)) := by
  rw [exec_jal, execJal]
  refine issueWith_pops_none h ?_
  simp only [destOk_ok hd, ok_bind, branchTo, branchTarget_toInt, if_true, dataOf_vaddr]

/-- An address that JALR and SPAWN may take: of a bundle. -/
def BundleAddr (v : BitVec 64) : Prop := v.toNat % 4 = 0 ∧ v.toNat < 2 ^ 57

theorem bundleAddr_iff (v : BitVec 64) : BundleAddr v ↔ ¬ (v.toNat % 4 ≠ 0 ∨ v.toNat / 2 ^ 57 ≠ 0) := by
  unfold BundleAddr
  omega

theorem jalr_links (h : reading s [d, a] [a] = some (i, t, pop)) (ha : IsData t a) (hd : Free t d) (hv : BundleAddr (low t a)) :
    exec (.jalr d a) s = .next (finish pop i.tid
      (setPc (setReg s i.tid d (word (t.nextPc.setWidth 64))) i.tid ((low t a).setWidth 57))) := by
  rw [exec_jalr, execJalr]
  simp only [needKind_eq_kinds]
  refine issueWith_ok h (noneBefore_one h ha.mem (by decide)) ?_
  rw [needKinds_ok ha.mem]
  simp only [ok_bind, lo64_eq_low, if_neg ((bundleAddr_iff _).mp hv), destOk_ok hd, dataOf_vaddr, BitVec.ofNat_toNat]

theorem jalr_faults (h : reading s [d, a] [a] = some (i, t, pop)) (ha : IsData t a) (hv : ¬ BundleAddr (low t a)) :
    exec (.jalr d a) s = .next (takeFault s i.tid .align (low t a).toNat) := by
  rw [exec_jalr, execJalr]
  simp only [needKind_eq_kinds]
  refine issueWith_stop (st := .fault .align (low t a).toNat) h (noneBefore_one h ha.mem (by decide)) ?_
  rw [needKinds_ok ha.mem]
  simp only [ok_bind, lo64_eq_low, if_pos (not_not.mp (mt (bundleAddr_iff _).mpr hv))]

end Branches

/-- Settles O5: each form of a branch is its shared meaning with its offset's sign extended, and JALR's two cases divide on `BundleAddr`. -/
theorem branchResults : Obligations.BranchResults := by
  refine ⟨⟨fun c a b off offX s i t pop h ha hb => ?_, fun a b off offX s i t pop h ha => ?_, fun c a imm immX off offX s i t pop h ha => ?_,
    fun off s i t h => j_jumps h off, fun d off s i t h hd => jal_links h hd off,
    fun d a s i t pop h ha hd h4 h57 => jalr_links h ha hd ⟨h4, h57⟩⟩,
    fun d a s i t pop h ha hv => jalr_faults h ha (by unfold BundleAddr; omega)⟩
  · exact ⟨branchB_cmp h ha hb c off, branchB_cmp h ha hb c offX⟩
  · intro left goes
    simp only [goes, decide_eq_true_eq]
    exact ⟨branchB_smore h ha b off, branchB_smore h ha b offX, branchB_sdone h ha b off, branchB_sdone h ha b offX⟩
  · exact ⟨branchBI_cmp h ha c imm off, branchBI_cmp h ha c immX offX⟩

/-! ## NOP, and the turn after a wake (04 R55, R66) -/

theorem nop_advances {s : State} {i : Issue} {t : Thread} (h : reading s [] [] = some (i, t, none)) : exec .nop s = .next (advance s i.tid) := by
  rw [exec_nop, execNop]
  exact issueWith_pops_none h rfl

/-- Settles O50: what advancing writes is the thread with its program counter past the bundle. -/
theorem nopOnlyAdvances : Obligations.NopOnlyAdvances := by
  intro s i t v h hv
  rw [nop_advances h, advance, hv]
  rfl

/-- No turn of the slot lies between a cycle and its turn after it. -/
theorem turnAfter_first {c slot d : Nat} (hd : c < d) (hs : d % 16 = slot) : turnAfter c slot ≤ d := by
  unfold turnAfter
  omega

/-- The next turn of a bundle issued in turn t and woken p cycles later. -/
theorem turnAfter_issue {t slot : Nat} (ht : t % 16 = slot) (p : Nat) : turnAfter (t + p) slot = t + 16 * ((p + 1 + 15) / 16) := by
  unfold turnAfter
  omega

/-- A bundle with no pop to commit goes on in its thread alone. -/
theorem retirePast_getT {s : State} {tid : Nat} {v : Thread} (hv : getT s tid = some v) (hp : v.popDue = none) : getT (retirePast s tid) tid =
    some { v.next with status := .ready, nextIssue := turnAfter s.cycle (tid % 16), held := 0, arrived := false, latch := none } := by
  rw [retirePast, retire_getT (v := v.next) (by rw [getT_advance, hv]; rfl) hp, advance_cycle]

/-- Settles O52: the slot's first turn after a cycle, counted from a turn of the slot, and taken by the bundle that retires. -/
theorem wakeTurns : Obligations.WakeTurns := by
  refine ⟨fun c slot hslot => ?_, fun t p slot _ ht => turnAfter_issue ht p, fun s tid v hv hp => ⟨_, retirePast_getT hv hp, rfl, rfl, rfl⟩⟩
  obtain ⟨hlt, hle⟩ := turnAfter_bounds c slot
  have hmod : turnAfter c slot % 16 = slot := by simpa only [Nat.mod_eq_of_lt hslot] using turnAfter_mod c slot
  exact ⟨hlt, hle, hmod, fun d => turnAfter_first⟩

end Sys2Proof.Machine

namespace Sys2Proof.Machine

/-! ## Timed waits (04 R70) -/

section Waits
variable {a d : Reg} {s : State} {i : Issue} {t v : Thread} {pop : Option InboxEntry}

theorem waitt_waits (h : reading s [a] [a] = some (i, t, pop)) (ha : IsData t a) : exec (.waitt a) s = .next (finish pop i.tid
    (if (low t a).toNat ≤ s.time then advance s i.tid
      else schedAt (parkAs s i.tid (.until_ (low t a).toNat)) (low t a).toNat (.waittWake i.tid))) := by
  rw [exec_waitt, execWaitt]
  simp only [needKind_eq_kinds]
  refine issueWith_ok h (noneBefore_one h ha.mem (by decide)) ?_
  rw [needKinds_ok ha.mem]
  simp only [ok_bind, lo64_eq_low]
  split <;> rfl

/-- The cycle in which a SLEEP of n cycles wakes: the one before the turn in which its thread issues again. -/
def sleepEnd (i : Issue) (t : Thread) (n : Nat) : Nat := turnFrom (t.issueAt + n) (i.tid % 16) - 1

theorem sleep_waits (h : reading s [a] [a] = some (i, t, pop)) (ha : IsData t a) : exec (.sleep a) s = .next (finish pop i.tid
    (if (low t a).toNat ≤ 16 ∨ sleepEnd i t (low t a).toNat ≤ s.cycle then advance s i.tid
      else sched (parkAs s i.tid (.asleep (sleepEnd i t (low t a).toNat))) (sleepEnd i t (low t a).toNat) (.sleepWake i.tid))) := by
  rw [exec_sleep, execSleep]
  simp only [needKind_eq_kinds]
  refine issueWith_ok h (noneBefore_one h ha.mem (by decide)) ?_
  rw [needKinds_ok ha.mem]
  simp only [ok_bind, lo64_eq_low]
  change (if (low t a).toNat ≤ 16 ∨ sleepEnd i t (low t a).toNat ≤ s.cycle then _ else _) = _
  split <;> rfl

theorem waittWake_wakes {tid w : Nat} (h : waitOf s tid = some (.until_ w)) :
    exec (.waittWake tid) s = .next (if w ≤ s.time then retirePast s tid else s) := by
  rw [exec_waittWake, execWaittWake]
  simp only [h]
  split <;> rfl

theorem sleepWake_wakes {tid w : Nat} (h : waitOf s tid = some (.asleep w)) :
    exec (.sleepWake tid) s = .next (if w ≤ s.cycle then retirePast s tid else s) := by
  rw [exec_sleepWake, execSleepWake]
  simp only [h]
  split <;> rfl

/-! ## Control registers (04 R62, R72) -/

theorem data64_eq_word (n : Nat) : data64 n = word (BitVec.ofNat 64 n) := by
  simp only [data64, word, GReg.mk.injEq, true_and]
  apply BitVec.eq_of_toNat_eq
  rw [BitVec.toNat_setWidth, BitVec.toNat_ofNat, BitVec.toNat_ofNat]

/-- The registers with a number of their own, and their values, as 64 bits. -/
def namedRegisters (s : State) (i : Issue) (t : Thread) (time : Nat) : List (Nat × Nat) :=
  [(0x000, i.tid % 16), (0x001, i.tid / 16), (0x002, i.tid / 16 / 16), (0x003, t.ctx), (0x004, (taskidOf s t.owner).toNat), (0x005, time),
    (0x006, t.groups.toNat), (0x007, if t.preempt then 1 else 0), (0x010, t.rmode.toNat), (0x011, t.amax.toNat), (0x012, t.feLimit.toNat),
    (0x018, t.fltCause.toNat), (0x019, t.fltAddr.toNat), (0x01A, t.fltPc.toNat)]

theorem crValue_named (time : Nat) (evc : List Word) :
    ∀ e ∈ namedRegisters s i t time, BitVec.ofNat 64 (crValue s i.tid t time evc e.1) = BitVec.ofNat 64 e.2 := by
  have hcluster : i.tid / 256 = i.tid / 16 / 16 := (Nat.div_div_eq_div_mul i.tid 16 16).symm
  have htime : BitVec.ofNat 64 (time % 2 ^ 64) = BitVec.ofNat 64 time := by
    apply BitVec.eq_of_toNat_eq
    rw [BitVec.toNat_ofNat, BitVec.toNat_ofNat, Nat.mod_mod]
  simp only [namedRegisters, List.forall_mem_cons]
  exact ⟨rfl, rfl, congrArg _ hcluster, rfl, rfl, htime, rfl, rfl, rfl, rfl, rfl, rfl, rfl, rfl, nofun⟩

/-- The counters are read by their numbers from 0x020 on. -/
theorem crValue_counter (time k : Nat) (evc : List Word) : crValue s i.tid t time evc (0x020 + k) = (nth 0 k evc).toNat := by
  rw [Nat.add_comm]
  rfl

theorem crr_reads (h : reading s [d] [] = some (i, t, none)) (hd : Free t d) {n : BitVec 9} {x : Nat}
    (hx : BitVec.ofNat 64 (crValue s i.tid t (turnTime s i) (turnEvc s i) n.toNat) = BitVec.ofNat 64 x) :
    exec (.crr n d) s = .next (result s i.tid d (word (BitVec.ofNat 64 x))) := by
  rw [exec_crr, execCrr]
  refine issueWith_pops_none h ?_
  simp only [destOk_ok hd, ok_bind, data64_eq_word, hx]
  rfl

/-- A register that may be written. -/
def crWritable (n : Nat) : Prop := ¬ (n < 0x010 ∨ (0x018 ≤ n ∧ n < 0x020))

theorem crw_writes (h : reading s [a] [a] = some (i, t, pop)) (ha : IsData t a) {n : BitVec 9} (hn : crWritable n.toNat) :
    exec (.crw n a) s = .next (finish pop i.tid (advance (crWrite s i.tid n.toNat (low t a).toNat) i.tid)) := by
  rw [exec_crw, execCrw]
  simp only [needKind_eq_kinds]
  refine issueWith_ok h (noneBefore_one h ha.mem (by decide)) ?_
  rw [needKinds_ok ha.mem]
  simp only [ok_bind, if_neg hn, lo64_eq_low]

theorem crw_faults (h : reading s [a] [a] = some (i, t, pop)) (ha : IsData t a) {n : BitVec 9} (hn : ¬ crWritable n.toNat) :
    exec (.crw n a) s = .next (takeFault s i.tid .priv n.toNat) := by
  rw [exec_crw, execCrw]
  simp only [needKind_eq_kinds]
  refine issueWith_stop (st := .fault .priv n.toNat) h (noneBefore_one h ha.mem (by decide)) ?_
  rw [needKinds_ok ha.mem]
  simp only [ok_bind, if_pos (not_not.mp hn)]

theorem crWrite_rmode {tid : Nat} (hv : getT s tid = some v) (x : BitVec 64) :
    crWrite s tid 0x010 x.toNat = setT s tid { v with rmode := (x.setWidth 32).setWidth 2 } := by
  have htwice : (x.setWidth 32).setWidth 2 = x.setWidth 2 := BitVec.setWidth_setWidth (by decide)
  simp only [crWrite, hv, BitVec.ofNat_toNat, htwice]

theorem crWrite_amax {tid : Nat} (hv : getT s tid = some v) (x : BitVec 64) :
    crWrite s tid 0x011 x.toNat = setT s tid { v with amax := x.setWidth 32 } := by
  simp only [crWrite, hv, BitVec.ofNat_toNat]

theorem crWrite_feLimit {tid : Nat} (hv : getT s tid = some v) (x : BitVec 64) :
    crWrite s tid 0x012 x.toNat = setT s tid { v with feLimit := if x.setWidth 32 = 0 then 1 else x.setWidth 32 } := by
  have hzero : x.toNat % 2 ^ 32 = 0 ↔ x.setWidth 32 = 0 := by
    rw [← BitVec.toNat_inj, BitVec.toNat_setWidth]
    rfl
  simp only [crWrite, hv, BitVec.ofNat_toNat, hzero]

theorem crWrite_counter {tid : Nat} (hv : getT s tid = some v) (x : BitVec 64) (k : Nat) :
    crWrite s tid (0x020 + k) x.toNat = writeEvc s (tid / 16) k (x.setWidth 32) := by
  rw [Nat.add_comm]
  simp only [crWrite, hv, BitVec.ofNat_toNat]
  rfl

/-- A counter that is written holds the value and the increments of the cycle, and every other is as before (07 R141). -/
theorem writeEvc_nth {core k : Nat} (hl : (coreSt s core).evc.length = 8) (hk : k < 8) (x : Word) (j : Nat) :
    nth 0 j (coreSt (writeEvc s core k x) core).evc = if j = k then
      satWord (x.toNat + (if (coreSt s core).evcAt = s.cycle then nth 0 k (coreSt s core).evcAdded else 0))
      else nth 0 j (coreSt s core).evc := by
  simp only [writeEvc, coreSt_setCore_same]
  by_cases hj : j = k
  · rw [if_pos hj, hj, nth_setNth _ _ _ _ (by omega)]
  · rw [if_neg hj, nth_setNth_ne _ _ _ _ _ hj]

end Waits

/-- Settles O6: the waits and their wakes, and a register's value or effect by its number. -/
theorem waitsAndControlRegisters : Obligations.WaitsAndControlRegisters := by
  refine ⟨⟨fun s i t h => nop_advances h, fun a s i t pop h ha => ⟨waitt_waits h ha, sleep_waits h ha⟩,
    fun tid w s => ⟨waittWake_wakes, sleepWake_wakes⟩, fun n d s i t h hd => ?_, fun n a s i t v pop h hv ha => ?_⟩,
    fun n a s i t pop h ha hn => ?_⟩
  · intro core turn named counters e he hn
    have hturn : turn = (turnTime s i, turnEvc s i) := by
      simp only [turn, turnTime, turnEvc, core]
      cases i.latch <;> rfl
    refine crr_reads h hd ?_
    rw [hn]
    rcases List.mem_append.mp he with he | he
    · change e ∈ namedRegisters s i t turn.1 at he
      rw [hturn] at he
      exact crValue_named _ _ e he
    · simp only [counters, List.mem_map, List.mem_range] at he
      obtain ⟨k, -, rfl⟩ := he
      rw [crValue_counter, hturn]
  · intro x sets
    have writes : ∀ w, crWritable n.toNat → crWrite s i.tid n.toNat (low t a).toNat = setT s i.tid w → sets w := fun w hw e =>
      (crw_writes h ha hw).trans (by rw [e])
    refine ⟨fun hn => ?_, fun hn => ?_, fun hn => ?_, fun k hk hn hl => ?_⟩
    · exact writes _ (by unfold crWritable; omega) (by rw [hn, crWrite_rmode hv])
    · exact writes _ (by unfold crWritable; omega) (by rw [hn, crWrite_amax hv])
    · exact writes _ (by unfold crWritable; omega) (by rw [hn, crWrite_feLimit hv])
    · refine ⟨_, crw_writes h ha (by unfold crWritable; omega), ?_⟩
      rw [hn, crWrite_counter hv]
      exact ⟨rfl, rfl, fun j _ => writeEvc_nth hl hk x j⟩
  · exact crw_faults h ha (by simp only [List.mem_cons, List.not_mem_nil, or_false] at hn; unfold crWritable; omega)

end Sys2Proof.Machine

namespace Sys2Proof.Machine

/-! ## SPAWN (04 R60, R68) -/

/-- The quota and the granules of a core let a thread start another. -/
def SpawnRoom (s : State) (tid : Nat) (t : Thread) : Prop :=
  liveOn s t.owner (tid / 16) < ((getP s t.owner (tid / 16)).map Placement.quota).getD 0 ∧ t.nregs / 8 ≤ freeGranules s (tid / 16)

section Spawn
variable {a b d : Reg} {s : State} {i : Issue} {t : Thread} {pop : Option InboxEntry}

theorem spawnSlot_eq (s : State) (tid : Nat) (t : Thread) : spawnSlot s tid t =
    if liveOn s t.owner (tid / 16) < ((getP s t.owner (tid / 16)).map Placement.quota).getD 0 ∧ t.nregs / 8 ≤ freeGranules s (tid / 16)
      then (freeSlots s (tid / 16)).head? else none := by
  unfold spawnSlot
  dsimp only
  cases getP s t.owner (tid / 16) <;> rfl

theorem spawnSlot_room {tid : Nat} (h : SpawnRoom s tid t) : spawnSlot s tid t = (freeSlots s (tid / 16)).head? := by
  rw [spawnSlot_eq]
  exact if_pos h

theorem spawnSlot_noRoom {tid : Nat} (h : ¬ SpawnRoom s tid t) : spawnSlot s tid t = none := by
  rw [spawnSlot_eq]
  exact if_neg h

/-- A free slot is one with no thread. -/
theorem mem_freeSlots {core k : Nat} : k ∈ freeSlots s core ↔ k < 16 ∧ getT s (core * 16 + k) = none := by
  simp only [freeSlots, List.mem_filter, List.mem_range, Option.isNone_iff_eq_none]

theorem freeSlots_eq_nil {core : Nat} (h : ∀ k < 16, getT s (core * 16 + k) ≠ none) : freeSlots s core = [] :=
  List.eq_nil_iff_forall_not_mem.mpr (fun k hk => h k (mem_freeSlots.mp hk).1 (mem_freeSlots.mp hk).2)

/-- The lowest free slot is the first of them. -/
theorem freeSlots_head {core k : Nat} (hk : k < 16) (hfree : getT s (core * 16 + k) = none) (hlow : ∀ j < k, getT s (core * 16 + j) ≠ none) :
    (freeSlots s core).head? = some k := by
  rw [freeSlots, List.head?_filter, List.find?_range_eq_some]
  exact ⟨by rw [hfree]; rfl, List.mem_range.mpr hk, fun j hj => by simpa [Option.isSome_iff_ne_none] using hlow j hj⟩

/-- SPAWN of an address of a bundle: the slot that is taken, or -1. -/
theorem spawn_answers (h : reading s [d, a, b] [a, b] = some (i, t, pop)) (ha : IsData t a) (hb : Copyable t b) (hd : Free t d)
    (hv : BundleAddr (low t a)) : exec (.spawn d a b) s = .next (finish pop i.tid (match spawnSlot s i.tid t with
      | some slot => result (spawnThread s i.tid t slot ((low t a).setWidth 57) (t.rd b)) i.tid d (dataOf slot)
      | none => result s i.tid d (word (BitVec.allOnes 64)))) := by
  rw [exec_spawn, execSpawn]
  simp only [needKind_eq_kinds]
  refine issueWith_ok h (noneBefore_two h ha.mem hb (by decide) (by decide)) ?_
  rw [needKinds_ok ha.mem, needKinds_ok hb]
  simp only [ok_bind, lo64_eq_low, if_neg ((bundleAddr_iff _).mp hv), destOk_ok hd, BitVec.ofNat_toNat]
  cases spawnSlot s i.tid t <;> rfl

/-- The thread that a SPAWN starts, which is ready once the clear engine has cleared its granules (04 R59, R68). -/
def spawnedThread (s : State) (tid : Nat) (t : Thread) (pc : VAddr) (arg : GReg) (preempt : Bool) : Thread :=
  { newThread t.ctx t.owner t.nregs pc (max s.cycle (coreSt s (tid / 16)).clearBusy + 2 * (t.nregs / 8) + 4) 0 t.seed1 arg t.seed3 t.seed4 with
    preempt := preempt }

theorem spawnThread_spec (s : State) (tid : Nat) (t : Thread) (slot : Nat) (pc : VAddr) (arg : GReg) :
    ∃ preempt, let w := spawnedThread s tid t pc arg preempt
      let u := spawnThread s tid t slot pc arg
      getT u (tid / 16 * 16 + slot) = some w ∧ (w.nextIssue, Instr.threadReady (tid / 16 * 16 + slot)) ∈ u.agenda ∧ u.mem = s.mem := by
  have hmem : (if arg.kind = .tens then addPin s t.ctx (arg.bits.toNat % 2 ^ 20) else s).mem = s.mem := by
    split
    · exact (addPin_sameEngines ..).mem
    · rfl
  refine ⟨((getO s t.owner).map (fun o => o.requested.isSome)).getD false, ?_⟩
  unfold spawnThread
  dsimp only
  generalize (if arg.kind = .tens then addPin s t.ctx (arg.bits.toNat % 2 ^ 20) else s) = pinned at hmem ⊢
  cases getO s t.owner with
  | none =>
    simp only [Bool.false_eq_true, if_false]
    exact ⟨getT_setT_same .., mem_sched.mpr (.inl rfl), hmem⟩
  | some o =>
    dsimp only [Option.map, Option.getD]
    split
    · exact ⟨getT_setT_same .., mem_sched.mpr (.inr (mem_sched.mpr (.inl rfl))), hmem⟩
    · exact ⟨getT_setT_same .., mem_sched.mpr (.inl rfl), hmem⟩

end Spawn

/-! ## EXIT, PPT and TRAP (04 R69, R71, R73) -/

section Ends
variable {s : State} {i : Issue} {t : Thread} {pop : Option InboxEntry}

theorem exit_ends (h : reading s [] [] = some (i, t, none)) (hq : quiet s i.tid = true)
    (hregs : ∀ k < t.nregs, (nth GReg.zero k t.g).kind ≠ .coc)
    (hinbox : ∀ e ∈ (coreSt s (i.tid / 16)).inbox, e.dslot = i.tid % 16 → e.payload.kind ≠ .coc) :
    exec .exit s = .next (endThread (countParked s i.tid t) i.tid) := by
  have hnone : (List.range t.nregs).find? (fun k => (nth GReg.zero k t.g).kind == .coc) = none := by
    simpa [List.find?_eq_none] using hregs
  have hany : (coreSt s (i.tid / 16)).inbox.any (fun e => e.dslot == i.tid % 16 && e.payload.kind == .coc) = false := by
    simpa [List.any_eq_false] using hinbox
  rw [exec_exit, execExit]
  refine issueWith_pops_none h ?_
  simp only [hq, hnone, hany, Bool.not_true, Bool.false_eq_true, if_false]

theorem ppt_passes (h : reading s [] [] = some (i, t, none)) (hp : t.preempt = false) (mask : Word) :
    exec (.ppt mask) s = .next (advance s i.tid) := by
  rw [exec_ppt, execPpt]
  refine issueWith_pops_none h ?_
  simp only [hp, Bool.not_false, if_true]

/-- The registers that a PPT gives up hold nothing that must be kept. -/
def MayBeLost (t : Thread) (mask : Word) : Prop :=
  ∀ k, 0 < k → k < t.nregs → mask.getLsbD k = false → (nth GReg.zero k t.g).kind ∈ [Kind.data, .cap, .strm, .moved]

theorem ppt_saves (h : reading s [] [] = some (i, t, none)) (hp : t.preempt = true) (mask : Word) (hl : MayBeLost t mask) :
    exec (.ppt mask) s = .next (saveThread (advance s i.tid) i.tid (mask.toNat / 2 * 2)) := by
  have hnone : (List.range t.nregs).find? (fun k => k != 0 && !mask.getLsbD k && ((nth GReg.zero k t.g).kind == .coc ||
      (nth GReg.zero k t.g).kind == .port || (nth GReg.zero k t.g).kind == .tens)) = none := by
    rw [List.find?_eq_none]
    intro k hk hlost
    simp only [Bool.and_eq_true, bne_iff_ne, Bool.not_eq_true', Bool.or_eq_true, beq_iff_eq] at hlost
    obtain ⟨⟨h0, hm⟩, hkind⟩ := hlost
    have hkept := hl k (Nat.pos_of_ne_zero h0) (List.mem_range.mp hk) hm
    rcases hkind with (e | e) | e <;> rw [e] at hkept <;> exact absurd hkept (by decide)
  rw [exec_ppt, execPpt]
  refine issueWith_pops_none h ?_
  simp only [hp, Bool.not_true, Bool.false_eq_true, if_false, hnone]

theorem trap_enters (h : reading s [2] [2] = some (i, t, pop)) (hm : (t.rd 2).kind ≠ .moved) (hroom : statusRoom s t.ctx = true) (code : BitVec 9) :
    exec (.trap code) s = .next (finish pop i.tid (if code.toNat < 256
      then advance (addStatus s t.ctx (trapEntry s i.tid t code.toNat) (some i.tid)) i.tid
      else endOwner (addStatus s t.ctx (trapEntry s i.tid t code.toNat) (some i.tid)) t.owner)) := by
  rw [exec_trap, execTrap]
  refine issueWith_ok h (noneBefore_of h (fun u _ hport => ?_)) ?_
  · obtain ⟨r, hr, hk⟩ := hport
    rw [List.mem_singleton.mp hr] at hk
    rw [if_neg (by rw [hk]; decide), faultBefore_ok]
  · simp only [if_neg hm, takeTrap, hroom, Bool.not_true, Bool.false_eq_true, if_false]

end Ends

/-- Settles O7: the slot of a SPAWN divides on `SpawnRoom` and the lowest free slot; the ends of a thread are their meanings' last branches. -/
theorem threadsStartEndAndTrap : Obligations.ThreadsStartEndAndTrap := by
  refine ⟨fun d a b s i t pop h ha hb hd h4 h57 => ?_, fun s i t => exit_ends,
    fun mask s i t h => ⟨fun hp => ppt_passes h hp mask, fun hp => ppt_saves h hp mask⟩,
    fun code s i t pop h hm hroom => trap_enters h hm hroom code⟩
  have answers := spawn_answers h ha hb hd ⟨h4, h57⟩
  intro core g room free
  refine ⟨fun hno => ?_, fun slot hslot hroom hfree hlow => ?_⟩
  · have hnone : spawnSlot s i.tid t = none := by
      by_cases hroom : SpawnRoom s i.tid t
      · rw [spawnSlot_room hroom, freeSlots_eq_nil (hno.resolve_left (not_not.mpr hroom))]
        rfl
      · exact spawnSlot_noRoom hroom
    rwa [hnone] at answers
  · rw [spawnSlot_room hroom, freeSlots_head hslot hfree hlow] at answers
    obtain ⟨preempt, hthread, hdue, hmem⟩ := spawnThread_spec s i.tid t slot ((low t a).setWidth 57) (t.rd b)
    exact ⟨_, _, answers, hthread, rfl, rfl, rfl, rfl, rfl, rfl, rfl, rfl, rfl, rfl, rfl, rfl, rfl, rfl, rfl, hdue, hmem⟩

end Sys2Proof.Machine

namespace Sys2Proof.Machine

/-! ## Threads become ready (04 R59, R60; 20 R315) -/

/-- The state in which THREAD_READY leaves a thread it is for. -/
def madeReady (s : State) (k : Nat) (t : Thread) : Thread :=
  { t with
    status := if ((getO s t.owner).map (fun o => decide (s.time < o.notBefore))).getD false then .heldLaunch else .ready
    nextIssue := turnAfter s.cycle (k % 16) }

theorem getT_threads_map (s : State) (f : Nat × Thread → Thread) (k : Nat) :
    getT { s with threads := s.threads.map (fun p => (p.1, f p)) } k = (getT s k).map (fun t => f (k, t)) := tget_map f k s.threads

/-- THREAD_READY of a name, a spawned thread's or a placement's, is for a thread. -/
def BecomesReady (s : State) (r k : Nat) (t : Thread) : Prop :=
  t.status = .launching ∧ t.nextIssue = s.cycle ∧ (if r < 49152 then k = r else readyName t.owner (k / 16) = r)

theorem becomesReady_iff (s : State) (r k : Nat) (t : Thread) : (t.status == .launching && t.nextIssue == s.cycle &&
    (if r < 49152 then k == r else readyName t.owner (k / 16) == r)) = true ↔ BecomesReady s r k t := by
  unfold BecomesReady
  split <;> simp [and_assoc]

theorem threadReady_eq (r : Nat) (s : State) : exec (.threadReady r) s = .next { s with threads := s.threads.map (fun p => (p.1,
    if p.2.status = .launching ∧ p.2.nextIssue = s.cycle ∧ (if r < 49152 then p.1 = r else readyName p.2.owner (p.1 / 16) = r)
      then madeReady s p.1 p.2 else p.2)) } := by
  rw [exec_threadReady, execThreadReady]
  congr 2
  refine List.map_congr_left (fun p _ => ?_)
  by_cases hready : BecomesReady s r p.1 p.2
  · refine (if_pos ((becomesReady_iff ..).mpr hready)).trans (congrArg (Prod.mk p.1) (Eq.trans ?_ (if_pos hready).symm))
    unfold madeReady
    cases getO s p.2.owner <;> rfl
  · exact (if_neg (mt (becomesReady_iff ..).mp hready)).trans (congrArg (Prod.mk p.1) (if_neg hready).symm)

theorem launchAtRelease_eq (owner core : Nat) (s : State) : exec (.launchAtRelease owner core) s = .next { s with
    threads := s.threads.map (fun p => (p.1, if p.2.owner = owner ∧ p.1 / 16 = core ∧ p.2.status = .heldLaunch
      then { p.2 with status := .ready, nextIssue := turnFrom s.cycle (p.1 % 16) } else p.2)) } := by
  rw [exec_launchAtRelease, execLaunchAtRelease]
  congr 2
  refine List.map_congr_left (fun p _ => ?_)
  split <;> rfl

/-! ## Status entries (04 R73, 20 R317) -/

section Entries
variable {ctx : Nat} {s : State} {c : Ctx} {e : BitVec 256} {w : Option Nat} {rest : List (BitVec 256 × Option Nat)}

/-- The oldest waiting entry has been written. -/
def entryWritten (s : State) (ctx : Nat) (c : Ctx) (e : BitVec 256) (rest : List (BitVec 256 × Option Nat)) : State :=
  setC s ctx { c with status := c.status ++ [e], statusWait := rest }

theorem statusEntryWrite_alone (hc : getC s ctx = some c) (hw : c.statusWait = (e, none) :: rest) (hroom : c.status.length < c.statusCap) :
    exec (.statusEntryWrite ctx) s = .next (entryWritten s ctx c e rest) := by
  rw [exec_statusEntryWrite, execStatusEntryWrite]
  simp only [hc, hw, if_pos hroom, entryWritten]

theorem statusEntryWrite_trap {tid : Nat} {t : Thread} (hc : getC s ctx = some c) (hw : c.statusWait = (e, some tid) :: rest)
    (hroom : c.status.length < c.statusCap) (ht : getT s tid = some t) (hs : t.status = .parked .statusRoom) :
    exec (.statusEntryWrite ctx) s = .next (if bits e.toNat 16 9 < 256 then retirePast (entryWritten s ctx c e rest) tid
      else endOwner (entryWritten s ctx c e rest) t.owner) := by
  have ht' : getT (entryWritten s ctx c e rest) tid = some t := ht
  unfold entryWritten at ht' ⊢
  rw [exec_statusEntryWrite, execStatusEntryWrite]
  simp only [hc, hw, if_pos hroom, ht', if_pos hs]
  split <;> rfl

end Entries

/-- Settles O39: both events map the threads one by one, and a written entry's TRAP goes on or ends its task. -/
theorem readyThreadsAndStatusEntries : Obligations.ReadyThreadsAndStatusEntries := by
  refine ⟨fun r s => ⟨_, threadReady_eq r s, rfl, fun k => getT_threads_map ..⟩,
    fun owner core s => ⟨_, launchAtRelease_eq owner core s, rfl, fun k => getT_threads_map ..⟩, fun ctx s c e w rest hc hw hroom => ?_⟩
  refine ⟨fun hnone => statusEntryWrite_alone hc (hnone ▸ hw) hroom, fun tid t hsome ht hs => ?_⟩
  exact statusEntryWrite_trap hc (hsome ▸ hw) hroom ht hs

/-! ## The end of a task (04 R61) -/

/-- Only pending events differ. -/
def OnlyEvents (s u : State) : Prop := ∃ a, u = { s with agenda := a }

theorem OnlyEvents.refl (s : State) : OnlyEvents s s := ⟨s.agenda, rfl⟩

theorem OnlyEvents.trans {s u v : State} (a : OnlyEvents s u) (b : OnlyEvents u v) : OnlyEvents s v := by
  obtain ⟨l, rfl⟩ := b
  obtain ⟨k, rfl⟩ := a
  exact ⟨l, rfl⟩

theorem sched_onlyEvents (s : State) (c : Nat) (i : Instr) : OnlyEvents s (sched s c i) := ⟨_, rfl⟩

theorem schedOnce_onlyEvents (s : State) (c : Nat) (i : Instr) : OnlyEvents s (schedOnce s c i) := by
  unfold schedOnce
  split
  · exact .refl s
  · exact sched_onlyEvents ..

theorem OnlyEvents.foldl {α : Type} {f : State → α → State} (h : ∀ u x, OnlyEvents u (f u x)) (l : List α) (s : State) :
    OnlyEvents s (l.foldl f s) :=
  List.foldlRecOn (motive := OnlyEvents s) l f (.refl s) (fun u hu x _ => hu.trans (h u x))

theorem pokeCore_onlyEvents (s : State) (core : Nat) : OnlyEvents s (pokeCore s core) :=
  OnlyEvents.foldl (fun u _ => schedOnce_onlyEvents u ..) ..

section TaskEnd
variable {owner core : Nat} {s : State} {o : Owner}

theorem pokeCore_getO (s : State) (core owner : Nat) : getO (pokeCore s core) owner = getO s owner := by
  obtain ⟨a, h⟩ := pokeCore_onlyEvents s core
  rw [h]
  rfl

theorem pokeCore_liveThreads (s : State) (core owner : Nat) : liveThreads (pokeCore s core) owner = liveThreads s owner := by
  obtain ⟨a, h⟩ := pokeCore_onlyEvents s core
  rw [h]
  rfl

theorem pokeCore_ownerBusy (s : State) (core owner : Nat) (c : Option Nat) : ownerBusy (pokeCore s core) owner c = ownerBusy s owner c := by
  obtain ⟨a, h⟩ := pokeCore_onlyEvents s core
  rw [h]
  rfl

theorem pokeCore_endWaits (s : State) (core owner : Nat) : endWaits (pokeCore s core) owner = endWaits s owner := by
  obtain ⟨a, h⟩ := pokeCore_onlyEvents s core
  rw [h]
  rfl

theorem pokeCore_places (s : State) (core : Nat) : (pokeCore s core).places = s.places := by
  obtain ⟨a, h⟩ := pokeCore_onlyEvents s core
  rw [h]

theorem taskEnd_gone (h : getO s owner = none) : exec (.taskEnd owner core) s = .next (pokeCore s core) := by
  rw [exec_taskEnd, execTaskEnd]
  simp only [pokeCore_getO, h]

theorem taskEnd_live (ho : getO s owner = some o) (hp : o.isPop = false) (hl : liveThreads s owner ≠ []) :
    exec (.taskEnd owner core) s = .next (pokeCore s core) := by
  have hlive : (liveThreads s owner).isEmpty = false := by simpa using hl
  rw [exec_taskEnd, execTaskEnd]
  simp only [pokeCore_getO, pokeCore_liveThreads, ho, hp, hlive, Bool.not_false, true_or, if_true, Bool.false_eq_true, if_false]

/-- A running or ending task with no thread left ends once its commands and accesses are over. -/
theorem taskEnd_over (ho : getO s owner = some o) (hp : o.isPop = false) (hl : liveThreads s owner = [])
    (hphase : o.phase = .running ∨ o.phase = .ending) : exec (.taskEnd owner core) s = .next (
      if ownerBusy s owner none then pokeCore s core
      else if endWaits s owner then schedOnce (pokeCore s core) ((pokeCore s core).cycle + 1) (.taskEnd owner core)
      else endTask (pokeCore s core) owner o) := by
  have hsaved : o.phase ≠ .saved := by rintro e; simp [e] at hphase
  have hsaving : o.phase ≠ .saving := by rintro e; simp [e] at hphase
  rw [exec_taskEnd, execTaskEnd]
  simp only [pokeCore_getO, pokeCore_liveThreads, pokeCore_ownerBusy, pokeCore_endWaits, ho, hp, hl, hsaved, hsaving, List.isEmpty_nil,
    Bool.not_true, Bool.false_eq_true, or_self, false_and, if_false]
  split
  · rfl
  · split <;> rfl

/-- A population with nothing left anywhere ends with its packet. -/
theorem taskEnd_population (ho : getO s owner = some o) (hp : o.isPop = true) (hw : o.waiting = []) (hl : liveThreads s owner = [])
    (hb : ownerBusy s owner none = false) (he : endWaits s owner = false) (hplaces : s.places.any (fun p => p.2.owner == owner) = false)
    (hcore : getP s owner core = none) : exec (.taskEnd owner core) s = .next (activationStep
      (sched (releaseOwned (pokeCore s core) owner) (pokeCore s core).cycle (.packetComplete o.pkt))) := by
  have hstays : endPopOn (pokeCore s core) owner core = pokeCore s core := by
    have : getP (pokeCore s core) owner core = none := by rw [getP, pokeCore_places]; exact hcore
    simp only [endPopOn, this]
  rw [exec_taskEnd, execTaskEnd]
  simp only [pokeCore_getO, ho, hp, if_true, hstays, hw, pokeCore_liveThreads, hl, pokeCore_places, hplaces, pokeCore_ownerBusy, hb,
    pokeCore_endWaits, he, List.isEmpty_nil, Bool.not_true, Bool.false_eq_true, or_self, if_false]

end TaskEnd

/-- Settles O42: a task's threads, commands and accesses are asked for in turn, on a state that offering the core has not changed. -/
theorem tasksEnd : Obligations.TasksEnd := by
  intro owner core s
  refine ⟨taskEnd_gone, fun o ho hp => ⟨taskEnd_live ho hp, fun hl hph hb => ?_, fun hl hph hb he => ?_, fun hl hph hb he => ?_⟩,
    fun o ho hp hw hl hb he hplaces hcore => taskEnd_population ho hp hw hl hb he hplaces hcore⟩
  · rw [taskEnd_over ho hp hl hph, hb, if_pos rfl]
  · rw [taskEnd_over ho hp hl hph, hb, he, if_neg (by decide), if_pos rfl]
  · rw [taskEnd_over ho hp hl hph, hb, he, if_neg (by decide), if_neg (by decide)]

end Sys2Proof.Machine

namespace Sys2Proof.Machine

/-! ## Clearing and filling local store with no access parked there (06 R100, R110) -/

/-- No full/empty access is parked at a word from lo to hi - 1. -/
def NoneParkedIn (s : State) (lo hi : Nat) : Prop :=
  ∀ p ∈ s.reqs, p.2.atWord = true → ∀ x, p.2.at_.head? = some x → placeKey x < lo ∨ hi ≤ placeKey x

/-- Threads, accesses and cores are the same, and no word has become one with an uncorrectable error. -/
structure SameRun (s u : State) : Prop where
  threads : u.threads = s.threads
  reqs : u.reqs = s.reqs
  cores : u.cores = s.cores
  clean : s.poison = [] → u.poison = []

theorem SameRun.refl (s : State) : SameRun s s := ⟨rfl, rfl, rfl, id⟩

theorem SameRun.trans {s u v : State} (a : SameRun s u) (b : SameRun u v) : SameRun s v :=
  ⟨b.threads.trans a.threads, b.reqs.trans a.reqs, b.cores.trans a.cores, fun h => b.clean (a.clean h)⟩

theorem SameRun.foldl {α : Type} {f : State → α → State} (h : ∀ u x, SameRun u (f u x)) (l : List α) (s : State) : SameRun s (l.foldl f s) :=
  List.foldlRecOn (motive := SameRun s) l f (.refl s) (fun u hu x _ => hu.trans (h u x))

theorem NoneParkedIn.mono {s u : State} {lo hi lo' hi' : Nat} (h : NoneParkedIn s lo hi) (hr : u.reqs = s.reqs) (hl : lo ≤ lo') (hh : hi' ≤ hi) :
    NoneParkedIn u lo' hi' := by
  intro p hp hw x hx
  have := h p (hr ▸ hp) hw x hx
  omega

/-- With nothing parked there, a change of words wakes nothing. -/
theorem serveRange_none {before after : State} {lo hi : Nat} (h : NoneParkedIn after lo hi) : serveRange before after lo hi = after := by
  have hkeys : (after.reqs.filterMap (fun p => if p.2.atWord then p.2.at_.head?.map placeKey else none)).filter
      (fun k => decide (lo ≤ k) && decide (k < hi)) = [] := by
    rw [List.filter_eq_nil_iff]
    intro k hk
    obtain ⟨p, hp, hpk⟩ := List.mem_filterMap.mp hk
    split at hpk
    · next hw =>
      obtain ⟨x, hx, rfl⟩ := Option.map_eq_some_iff.mp hpk
      have := h p hp hw x hx
      simp only [Bool.and_eq_true, decide_eq_true_eq]
      omega
    · cases hpk
  unfold serveRange
  dsimp only
  rw [hkeys]
  rfl

theorem clearRange_sameRun (s : State) (lo hi : Nat) : SameRun s (clearRange s lo hi) :=
  ⟨rfl, rfl, rfl, fun h => by simp only [clearRange, h, List.filter_nil]⟩

theorem dropLines_sameRun (s : State) (lo hi : Nat) : SameRun s (dropLines s lo hi) := ⟨rfl, rfl, rfl, id⟩

theorem clearUnits_eq {s : State} {core u n : Nat}
    (h : NoneParkedIn s (onchipBase + lsAddr core (u * 4096)) (onchipBase + lsAddr core (u * 4096) + n * 4096)) :
    clearUnits s core u n = dropLines (clearRange s (unitKeys core u n).1 (unitKeys core u n).2) (unitKeys core u n).1 (unitKeys core u n).2 :=
  serveRange_none h

theorem clearUnits_sameRun {s : State} {core u n : Nat}
    (h : NoneParkedIn s (onchipBase + lsAddr core (u * 4096)) (onchipBase + lsAddr core (u * 4096) + n * 4096)) :
    SameRun s (clearUnits s core u n) := by
  rw [clearUnits_eq h]
  exact (clearRange_sameRun ..).trans (dropLines_sameRun ..)

theorem putByte_sameRun (s : State) (p : Place) (b : Byte) : SameRun s (putByte s p b) := by
  unfold putByte
  split <;> exact ⟨rfl, rfl, rfl, id⟩

theorem putBytes_sameRun (l : List (Place × Byte)) (s : State) : SameRun s (putBytes s l) := by
  induction l generalizing s with
  | nil => exact .refl s
  | cons x rest ih => exact (putByte_sameRun s x.1 x.2).trans (ih _)

theorem clearPoison_sameRun (s : State) (ps : List Place) : SameRun s (clearPoison s ps) := by
  unfold clearPoison
  split
  · exact .refl s
  · exact ⟨rfl, rfl, rfl, fun h => by simp only [h, List.filter_nil]⟩

theorem setFull_sameRun (s : State) (k : Nat) (full : Bool) : SameRun s (setFull s k full) := ⟨rfl, rfl, rfl, id⟩

theorem setTags_sameRun (s : State) (l : List Nat) : SameRun s { s with tags := l } := ⟨rfl, rfl, rfl, id⟩

theorem storeTagged_sameRun (s : State) (ps : List Place) (g : GReg) : SameRun s (storeTagged s ps g) := by
  have put := (putBytes_sameRun (ps.zip (toBytes 16 g.bits.toNat)) s).trans (clearPoison_sameRun _ ps)
  unfold storeTagged
  dsimp only
  generalize clearPoison (putBytes s (ps.zip (toBytes 16 g.bits.toNat))) ps = u at put ⊢
  split
  · exact .refl s
  · exact ((((put.trans (setTags_sameRun ..)).trans (setFull_sameRun ..)).trans (setFull_sameRun ..)).trans (setFull_sameRun ..)).trans
      (setFull_sameRun ..)

theorem putAt_sameRun {s : State} {p : Place} {bs : List Byte} (h : NoneParkedIn s (placeKey p) (placeKey p + bs.length)) :
    SameRun s (putAt s p bs) := by
  have hput := putBytes_sameRun ((placeRun p bs.length).zip bs) s
  rw [putAt, serveRange_none (h.mono hput.reqs (Nat.le_refl _) (Nat.le_refl _))]
  exact hput

theorem writeRoots_sameRun {s : State} {core off : Nat} (h : NoneParkedIn s (placeKey (.ls core off)) (placeKey (.ls core off) + 256))
    (roots : List (Nat × QWord)) : SameRun s (writeRoots s core off roots) := by
  have hstore := SameRun.foldl (fun u (r : Nat × QWord) => storeTagged_sameRun u (placeRun (.ls core (off + 16 * r.1)) 16) ⟨.cap, r.2⟩) roots s
  rw [writeRoots, serveRange_none (h.mono hstore.reqs (Nat.le_refl _) (Nat.le_refl _))]
  exact hstore

/-! ## Placements (04 R60, 20 R313) -/

/-- The units of a placement, cleared, with the image and the context's roots. -/
def filledUnits (s : State) (o : Owner) (core unit0 : Nat) : State :=
  let cleared := clearUnits s core unit0 o.units
  let imaged := if o.imageLen = 0 then cleared
    else putAt cleared (.ls core (unit0 * 4096)) (virtBytes cleared o.ctx o.image.toNat o.imageLen)
  if o.units = 0 then imaged else
    match getC imaged o.ctx with
    | some c => writeRoots imaged core ((unit0 + o.units) * 4096 - 256) c.roots
    | none => imaged

/-- Nothing is parked where a placement's units and image go. -/
def UnitsQuiet (s : State) (o : Owner) (core unit0 : Nat) : Prop :=
  NoneParkedIn s (onchipBase + lsAddr core (unit0 * 4096)) (onchipBase + lsAddr core (unit0 * 4096) + max (o.units * 4096) o.imageLen)

theorem filledUnits_sameRun {s : State} {o : Owner} {core unit0 : Nat} (h : UnitsQuiet s o core unit0) :
    SameRun s (filledUnits s o core unit0) := by
  have cleared : SameRun s (clearUnits s core unit0 o.units) := clearUnits_sameRun (h.mono rfl (Nat.le_refl _) (by omega))
  have imaged : ∀ u, SameRun s u → SameRun s (if o.imageLen = 0 then u
      else putAt u (.ls core (unit0 * 4096)) (virtBytes u o.ctx o.image.toNat o.imageLen)) := by
    intro u hu
    split
    · exact hu
    · refine hu.trans (putAt_sameRun (h.mono hu.reqs (Nat.le_refl _) ?_))
      simp only [placeKey, virtBytes, List.length_map, List.length_range]
      omega
  have hroots := imaged _ cleared
  unfold filledUnits
  dsimp only
  split
  · exact hroots
  · split
    · refine hroots.trans (writeRoots_sameRun (h.mono hroots.reqs ?_ ?_) _)
      · simp only [placeKey, lsAddr]
        omega
      · simp only [placeKey, lsAddr]
        omega
    · exact hroots

/-- A placement holds what it takes of a core. -/
def placementHeld (s : State) (owner core unit0 : Nat) (o : Owner) : State :=
  setP (filledUnits s o core unit0) ⟨owner, core, unit0, o.units, List.replicate o.nbars Barrier.reset, o.threads,
    readyCycle s core (o.threads * (o.nregs / 8)) o.imageLen, s.time⟩

/-- No thread of the owner is counted yet. -/
def noneLaunched (s : State) (owner : Nat) : State :=
  match getO s owner with
  | some v => setO s owner { v with launched := 0 }
  | none => s

theorem noneLaunched_poison (s : State) (owner : Nat) : (noneLaunched s owner).poison = s.poison := by
  unfold noneLaunched
  split <;> rfl

/-- The threads of a placement are in their slots. -/
def threadsPlaced (s : State) (owner core unit0 : Nat) (o : Owner) (slots : List Nat) : State :=
  slots.foldl (placeThread o owner core unit0 (readyCycle s core (o.threads * (o.nregs / 8)) o.imageLen))
    (noneLaunched (placementHeld s owner core unit0 o) owner)

theorem placeOn_eq {s : State} {owner : Nat} {o : Owner} (ho : getO s owner = some o) (hovf : o.ovf = false) (core unit0 : Nat) :
    placeOn s owner core unit0 =
      let slots := (freeSlots (placementHeld s owner core unit0 o) core).take o.threads
      let u := imageCheck (offerFwds (threadsPlaced s owner core unit0 o slots) owner core) o core slots
      sched (setCore u core { coreSt u core with clearBusy := clearDone s core (o.threads * (o.nregs / 8)) })
        (readyCycle s core (o.threads * (o.nregs / 8)) o.imageLen) (.threadReady (readyName owner core)) := by
  unfold placeOn
  simp only [ho, hovf, Bool.false_eq_true, if_false]
  rfl

theorem offerFwds_frame (s : State) (owner core : Nat) :
    (offerFwds s owner core).threads = s.threads ∧ (offerFwds s owner core).poison = s.poison := by
  unfold offerFwds
  dsimp only
  obtain ⟨a, h⟩ := OnlyEvents.foldl (fun u k => sched_onlyEvents u u.cycle (.barrierForward k)) _ _
  rw [h]
  exact ⟨rfl, rfl⟩

/-- An image of no bytes, or a memory with no uncorrectable error, ends nothing. -/
theorem imageCheck_clean {s : State} {o : Owner} (h : s.poison = [] ∨ o.imageLen = 0) (core : Nat) (slots : List Nat) :
    imageCheck s o core slots = s := by
  have hnone : virtPoison s o.ctx o.image.toNat o.imageLen = none := by
    unfold virtPoison
    split
    · rfl
    · next hp => rw [h.resolve_left hp]; rfl
  simp only [imageCheck, hnone]

section Launched
variable {o : Owner} {owner core unit0 ready slot : Nat}

/-- A placement's thread as it is launched in a slot, with its order and the seed of its kind in G3. -/
def launchedThread (o : Owner) (owner core unit0 ready slot n : Nat) (g3 : GReg) : Thread :=
  newThread o.ctx owner o.nregs o.entry ready n (capReg (recAddr (core * 16 + slot)) 32 0x41) (data64 o.arg.toNat) g3 (allocCap core unit0 o.units)

/-- A slot has its thread of a placement. -/
def SlotLaunched (o : Owner) (owner core unit0 ready slot : Nat) (u : State) : Prop :=
  ∃ n g3, getT u (core * 16 + slot) = some (launchedThread o owner core unit0 ready slot n g3)

/-- One more thread of the owner is counted. -/
def oneLaunched (s : State) (owner : Nat) : State :=
  match getO s owner with
  | some v => setO s owner { v with launched := v.launched + 1 }
  | none => s

theorem oneLaunched_frame (s : State) (owner : Nat) : (oneLaunched s owner).threads = s.threads ∧ (oneLaunched s owner).poison = s.poison := by
  unfold oneLaunched
  split <;> exact ⟨rfl, rfl⟩

theorem placeThread_eq (o : Owner) (owner core unit0 ready slot : Nat) (u : State) : ∃ n g3, placeThread o owner core unit0 ready u slot =
    oneLaunched (setT (writeRecord u (core * 16 + slot) o.record) (core * 16 + slot) (launchedThread o owner core unit0 ready slot n g3)) owner :=
  ⟨_, _, rfl⟩

theorem writeRecord_threads (s : State) (tid : Nat) (r : BitVec 256) : (writeRecord s tid r).threads = s.threads := by
  have hput : ∀ k bs, (putKeys s k bs).threads = s.threads := fun _ _ => rfl
  dsimp only [writeRecord]
  rw [(cleanKeys_onlyMemory ..).threads, hput]

theorem writeRecord_clean {s : State} (h : s.poison = []) (tid : Nat) (r : BitVec 256) : (writeRecord s tid r).poison = [] := by
  have hput : ∀ k bs, (putKeys s k bs).poison = [] := fun _ _ => h
  simp only [writeRecord, cleanKeys, hput]

theorem placeThread_clean {u : State} (h : u.poison = []) : (placeThread o owner core unit0 ready u slot).poison = [] := by
  obtain ⟨n, g3, e⟩ := placeThread_eq o owner core unit0 ready slot u
  rw [e, (oneLaunched_frame ..).2, setT_poison, writeRecord_clean h]

/-- Launching a thread writes its own slot alone. -/
theorem placeThread_getT (o : Owner) (owner core unit0 ready slot : Nat) (u : State) (k : Nat) : ∃ n g3,
    getT (placeThread o owner core unit0 ready u slot) k =
      if k = core * 16 + slot then some (launchedThread o owner core unit0 ready slot n g3) else getT u k := by
  obtain ⟨n, g3, e⟩ := placeThread_eq o owner core unit0 ready slot u
  refine ⟨n, g3, ?_⟩
  rw [e, getT_congr (oneLaunched_frame ..).1, getT_setT, getT_congr (writeRecord_threads ..)]

theorem placeThread_launches (u : State) : SlotLaunched o owner core unit0 ready slot (placeThread o owner core unit0 ready u slot) := by
  obtain ⟨n, g3, hget⟩ := placeThread_getT o owner core unit0 ready slot u (core * 16 + slot)
  exact ⟨n, g3, by rw [hget, if_pos rfl]⟩

theorem placeThread_keeps (u : State) (other : Nat) (h : SlotLaunched o owner core unit0 ready slot u) :
    SlotLaunched o owner core unit0 ready slot (placeThread o owner core unit0 ready u other) := by
  by_cases hs : slot = other
  · exact hs ▸ placeThread_launches u
  · obtain ⟨n, g3, hget⟩ := h
    obtain ⟨_, _, hother⟩ := placeThread_getT o owner core unit0 ready other u (core * 16 + slot)
    exact ⟨n, g3, by rw [hother, if_neg (by omega), hget]⟩

/-- A new thread's first registers are its seeds. -/
theorem newThread_rd_seeds (ctx owner nregs : Nat) (pc : VAddr) (ready n : Nat) (g1 g2 g3 g4 : GReg) :
    let t := newThread ctx owner nregs pc ready n g1 g2 g3 g4
    t.rd 0 = GReg.zero ∧ t.rd 1 = g1 ∧ t.rd 2 = g2 ∧ t.rd 4 = g4 := ⟨rfl, rfl, rfl, rfl⟩

theorem nth_replicate {α : Type} (d : α) (m k : Nat) : nth d k (List.replicate m d) = d := by
  induction m generalizing k with
  | zero => cases k <;> rfl
  | succ m ih =>
    cases k with
    | zero => rfl
    | succ k => exact ih k

/-- A register from G5 on is clear. -/
theorem newThread_rd_high (ctx owner nregs : Nat) (pc : VAddr) (ready n : Nat) (g1 g2 g3 g4 : GReg) {r : Reg} (hr : 5 ≤ r.val) :
    (newThread ctx owner nregs pc ready n g1 g2 g3 g4).rd r = GReg.zero := by
  obtain ⟨k, hk⟩ := Nat.exists_eq_add_of_le' hr
  have h0 : r ≠ 0 := by rintro rfl; exact absurd hr (by decide)
  rw [Thread.rd, if_neg h0, hk]
  exact nth_replicate GReg.zero (nregs - 5) k

end Launched

/-- The slots that a placement takes all have their threads, whatever else it does. -/
theorem placeOn_launches {s : State} {owner core unit0 slot : Nat} {o : Owner} (ho : getO s owner = some o) (hovf : o.ovf = false)
    (hclean : s.poison = [] ∨ o.imageLen = 0) (hquiet : UnitsQuiet s o core unit0) (hslot : slot ∈ (freeSlots s core).take o.threads) :
    SlotLaunched o owner core unit0 (readyCycle s core (o.threads * (o.nregs / 8)) o.imageLen) slot (placeOn s owner core unit0) := by
  have filled := filledUnits_sameRun hquiet
  have hfree : freeSlots (placementHeld s owner core unit0 o) core = freeSlots s core := by
    simp only [freeSlots, getT_congr (show (placementHeld s owner core unit0 o).threads = s.threads from filled.threads)]
  rw [placeOn_eq ho hovf]
  dsimp only
  rw [hfree]
  generalize hslots : (freeSlots s core).take o.threads = slots at hslot ⊢
  have placed : SlotLaunched o owner core unit0 (readyCycle s core (o.threads * (o.nregs / 8)) o.imageLen) slot
      (threadsPlaced s owner core unit0 o slots) :=
    foldl_establishes hslot placeThread_launches placeThread_keeps _
  have clean : (offerFwds (threadsPlaced s owner core unit0 o slots) owner core).poison = [] ∨ o.imageLen = 0 := by
    refine hclean.imp_left (fun h => ?_)
    rw [(offerFwds_frame ..).2]
    refine List.foldlRecOn (motive := fun u : State => u.poison = []) slots _ ?_ (fun u hu k _ => placeThread_clean hu)
    rw [noneLaunched_poison]
    exact filled.clean h
  obtain ⟨n, g3, hget⟩ := placed
  refine ⟨n, g3, ?_⟩
  rw [imageCheck_clean clean]
  exact (getT_congr (offerFwds_frame ..).1 _).trans hget

/-! ## A population's placement, and a scrubbed unit (20 R316, 06 R100) -/

section Deferred
variable {owner core : Nat} {s : State} {o : Owner}

/-- The unit from which a core can take a population, before any task for which something there is reserved. -/
def popUnit (s : State) (core : Nat) (o : Owner) : Option Nat := canTake { s with reserved := [] } core (ownerShape o) none

theorem popPlace_waits (ho : getO s owner = some o) (h : o.waiting.contains core = false ∨ popUnit s core o = none) :
    popPlace s owner core = s := by
  unfold popUnit at h
  simp only [popPlace, ho]
  cases hw : o.waiting.contains core with
  | false => rfl
  | true => simp only [h.resolve_left (by rw [hw]; decide), Bool.not_true, Bool.false_eq_true, if_false]

theorem popPlace_takes {u : Nat} (ho : getO s owner = some o) (hw : o.waiting.contains core = true) (hu : popUnit s core o = some u) :
    popPlace s owner core =
      let s1 := placeOn (setO s owner { o with waiting := o.waiting.erase core }) owner core u
      if s.time < o.notBefore then schedAt s1 o.notBefore (.launchAtRelease owner core) else s1 := by
  unfold popUnit at hu
  simp only [popPlace, ho, hw, hu, Bool.not_true, Bool.false_eq_true, if_false]

theorem populationDeferredPlace_eq (owner core : Nat) (s : State) :
    exec (.populationDeferredPlace owner core) s = .next (settleReservations (popPlace s owner core) core) := rfl

theorem settleReservations_none (h : ∀ r ∈ s.reserved, r.core ≠ core) : settleReservations s core = s := by
  have hnone : s.reserved.filter (fun r => r.core == core && reservationDue s r) = [] := by
    rw [List.filter_eq_nil_iff]
    intro r hr
    simp [h r hr]
  rw [settleReservations, hnone]
  rfl

theorem coreSt_congr {s u : State} (h : u.cores = s.cores) (k : Nat) : coreSt u k = coreSt s k := by rw [coreSt, coreSt, h]

theorem offerCore_onlyEvents (s : State) (core : Nat) : OnlyEvents s (offerCore s core) :=
  (pokeCore_onlyEvents s core).trans (OnlyEvents.foldl (fun u _ => schedOnce_onlyEvents u ..) ..)

/-- A core with one unit less to scrub. -/
def unitScrubbed (s : State) (core u : Nat) : State :=
  setCore s core { coreSt s core with scrubbing := (coreSt s core).scrubbing.filter (fun p => p.1 != u) }

theorem unitScrubDone_eq (core u : Nat) (s : State) :
    exec (.unitScrubDone core u) s = .next (offerCore (clearUnits (unitScrubbed s core u) core u 1) core) := rfl

/-- Each byte of a cleared unit reads zero. -/
theorem clearUnits_reads_zero {u n k : Nat}
    (h : NoneParkedIn s (onchipBase + lsAddr core (u * 4096)) (onchipBase + lsAddr core (u * 4096) + n * 4096)) (hk : k < n * 4096) :
    memGet (onchipBase + lsAddr core (u * 4096) + k) (clearUnits s core u n).mem = 0 := by
  rw [clearUnits_eq h]
  exact memGet_unlisted (clearRange_clears (Nat.le_add_right _ _) (Nat.add_lt_add_left hk _))

end Deferred

/-- Settles O41: `placeOn_launches` for the threads, `popPlace` for a population, and the cleared unit of a finished scrub. -/
theorem placementsLaunchThreads : Obligations.PlacementsLaunchThreads := by
  refine ⟨fun s owner core unit0 slot o ho hovf _ hclean hquiet hslot => ?_, fun owner core s o ho => ⟨fun h => ?_, fun u hw hu => ?_⟩,
    fun core s => settleReservations_none, fun core u s hquiet => ?_⟩
  · obtain ⟨n, g3, hget⟩ := placeOn_launches ho hovf hclean hquiet hslot
    obtain ⟨h0, h1, h2, h4⟩ := newThread_rd_seeds o.ctx owner o.nregs o.entry (readyCycle s core (o.threads * (o.nregs / 8)) o.imageLen) n
      (capReg (recAddr (core * 16 + slot)) 32 0x41) (data64 o.arg.toNat) g3 (allocCap core unit0 o.units)
    have harg : data64 o.arg.toNat = word o.arg := by rw [data64_eq_word, BitVec.ofNat_toNat, BitVec.setWidth_eq]
    exact ⟨_, hget, rfl, rfl, rfl, rfl, rfl, h0, h1, h2.trans harg, h4,
      fun r hr => newThread_rd_high _ _ _ _ _ _ _ _ _ _ hr, rfl, rfl, rfl, rfl, rfl⟩
  · rw [populationDeferredPlace_eq, popPlace_waits ho h]
  · rw [populationDeferredPlace_eq, popPlace_takes ho hw hu]
  · have quiet : NoneParkedIn (unitScrubbed s core u) (onchipBase + lsAddr core (u * 4096)) (onchipBase + lsAddr core (u * 4096) + 1 * 4096) :=
      hquiet
    have run := clearUnits_sameRun quiet
    obtain ⟨a, hoffer⟩ := offerCore_onlyEvents (clearUnits (unitScrubbed s core u) core u 1) core
    refine ⟨_, unitScrubDone_eq core u s, ?_⟩
    rw [hoffer]
    refine ⟨run.threads, ?_, fun k hk => clearUnits_reads_zero quiet hk⟩
    rw [coreSt_congr (u := { clearUnits (unitScrubbed s core u) core u 1 with agenda := a }) run.cores, unitScrubbed, coreSt_setCore_same]

end Sys2Proof.Machine

namespace Sys2Proof.Machine

/-! ## 64-bit arithmetic as bit vectors (05 R91, R92) -/

section Words64
variable (x y : BitVec 64) (n : Nat)

theorem ofNat_toNat_self : BitVec.ofNat 64 x.toNat = x := by rw [BitVec.ofNat_toNat, BitVec.setWidth_eq]

theorem ofNat_add_toNat : BitVec.ofNat 64 (x.toNat + y.toNat) = x + y := by rw [BitVec.ofNat_add, ofNat_toNat_self, ofNat_toNat_self]

theorem ofNat_mul_toNat : BitVec.ofNat 64 (x.toNat * y.toNat) = x * y := by rw [BitVec.ofNat_mul, ofNat_toNat_self, ofNat_toNat_self]

theorem ofNat_land_toNat : BitVec.ofNat 64 (Nat.land x.toNat y.toNat) = x &&& y := by
  rw [← ofNat_toNat_self (x &&& y), BitVec.toNat_and]
  rfl

theorem ofNat_lor_toNat : BitVec.ofNat 64 (Nat.lor x.toNat y.toNat) = x ||| y := by
  rw [← ofNat_toNat_self (x ||| y), BitVec.toNat_or]
  rfl

theorem ofNat_xor_toNat : BitVec.ofNat 64 (Nat.xor x.toNat y.toNat) = x ^^^ y := by
  rw [← ofNat_toNat_self (x ^^^ y), BitVec.toNat_xor]
  rfl

theorem ofNat_sub_toNat : BitVec.ofNat 64 (x.toNat + (2 ^ 64 - y.toNat)) = x - y := by
  apply BitVec.eq_of_toNat_eq
  rw [BitVec.toNat_ofNat, BitVec.toNat_sub, Nat.add_comm]

theorem ofNat_toU64 (i : Int) : BitVec.ofNat 64 (toU64 i) = BitVec.ofInt 64 i := by
  apply BitVec.eq_of_toNat_eq
  rw [BitVec.toNat_ofNat, BitVec.toNat_ofInt]
  unfold toU64
  omega

theorem ofNat_shl : BitVec.ofNat 64 (x.toNat * 2 ^ n) = x <<< n := by
  apply BitVec.eq_of_toNat_eq
  rw [BitVec.toNat_ofNat, BitVec.toNat_shiftLeft, Nat.shiftLeft_eq]

theorem ofNat_shr : BitVec.ofNat 64 (x.toNat / 2 ^ n) = x >>> n := by
  rw [← Nat.shiftRight_eq_div_pow, ← BitVec.toNat_ushiftRight, ofNat_toNat_self]

theorem ofNat_sra64 : BitVec.ofNat 64 (sra64 x.toNat n) = x.sshiftRight n := by
  rw [sra64, ofNat_toU64, s64_toNat, BitVec.sshiftRight, Int.shiftRight_eq_div_pow]
  norm_cast

/-- The bits that leave a rotated word at its top come back below those that stay. -/
theorem rol64_eq_or (a : Nat) {n : Nat} (h : n < 64) (ha : a < 2 ^ 64) : rol64 a n = a <<< n % 2 ^ 64 ||| a >>> (64 - n) := by
  have hw : (2 : Nat) ^ 64 = 2 ^ (64 - n) * 2 ^ n := by rw [← Nat.pow_add, Nat.sub_add_cancel h.le]
  have hlow : a >>> (64 - n) < 2 ^ n := by
    rw [Nat.shiftRight_eq_div_pow]
    exact Nat.div_lt_of_lt_mul (hw ▸ ha)
  have hhigh : a <<< n % 2 ^ 64 = (a % 2 ^ (64 - n)) <<< n := by
    rw [Nat.shiftLeft_eq, Nat.shiftLeft_eq, hw, Nat.mul_mod_mul_right]
  rw [hhigh, ← Nat.shiftLeft_add_eq_or_of_lt hlow, ← hhigh, rol64, Nat.shiftLeft_eq, Nat.shiftRight_eq_div_pow]

theorem ofNat_rol64 {n : Nat} (h : n < 64) : BitVec.ofNat 64 (rol64 x.toNat n) = x.rotateLeft n := by
  have : rol64 x.toNat n = (x.rotateLeft n).toNat := by
    rw [BitVec.toNat_rotateLeft, Nat.mod_eq_of_lt h, rol64_eq_or _ h x.isLt]
  rw [this, ofNat_toNat_self]

theorem ofNat_andn64 : BitVec.ofNat 64 (andn64 x.toNat y.toNat) = x &&& ~~~y := by
  apply BitVec.eq_of_toNat_eq
  have : andn64 x.toNat y.toNat = (x &&& ~~~y).toNat := by
    rw [BitVec.toNat_and, BitVec.toNat_not]
    rfl
  rw [this, BitVec.toNat_ofNat, Nat.mod_eq_of_lt (BitVec.isLt _)]

theorem ofNat_ite_iff {p q : Prop} [Decidable p] [Decidable q] (h : p ↔ q) :
    BitVec.ofNat 64 (if p then x.toNat else y.toNat) = if q then x else y := by
  simp only [h]
  split <;> exact ofNat_toNat_self _

theorem s64_le_iff_sle : s64 x.toNat ≤ s64 y.toNat ↔ x.sle y = true := by
  rw [s64_toNat, s64_toNat, BitVec.sle_iff_toInt_le]

theorem s64_lt_iff_slt : s64 x.toNat < s64 y.toNat ↔ x.slt y = true := by
  rw [s64_toNat, s64_toNat, BitVec.slt_iff_toInt_lt]

theorem toNat_le_iff_ule : x.toNat ≤ y.toNat ↔ x.ule y = true := by rw [BitVec.ule_eq_decide, decide_eq_true_eq]

theorem toNat_lt_iff_ult : x.toNat < y.toNat ↔ x.ult y = true := by rw [BitVec.ult_eq_decide, decide_eq_true_eq]

theorem ofNat_mulh : BitVec.ofNat 64 (toU64 (s64 x.toNat * s64 y.toNat / 2 ^ 64)) = BitVec.ofInt 64 (x.toInt * y.toInt / 2 ^ 64) := by
  rw [ofNat_toU64, s64_toNat, s64_toNat]

theorem toNat_eq_zero_iff : y.toNat = 0 ↔ y = 0 := ⟨fun h => BitVec.eq_of_toNat_eq h, fun h => by rw [h]; rfl⟩

theorem ofNat_div64 : BitVec.ofNat 64 (div64 x.toNat y.toNat) = if y = 0 then BitVec.allOnes 64 else BitVec.ofInt 64 (Int.tdiv x.toInt y.toInt) := by
  simp only [div64, s64_toNat, toNat_eq_zero_iff]
  split
  · rfl
  · exact ofNat_toU64 _

theorem ofNat_divn64 : BitVec.ofNat 64 (divn64 x.toNat y.toNat) = if y = 0 then BitVec.allOnes 64 else x / y := by
  simp only [divn64, toNat_eq_zero_iff]
  split
  · rfl
  · rw [← BitVec.toNat_udiv, ofNat_toNat_self]

theorem ofNat_rem64 : BitVec.ofNat 64 (rem64 x.toNat y.toNat) = if y = 0 then x else BitVec.ofInt 64 (Int.tmod x.toInt y.toInt) := by
  simp only [rem64, s64_toNat, toNat_eq_zero_iff]
  split
  · rw [ofNat_toNat_self]
  · exact ofNat_toU64 _

theorem ofNat_remn64 : BitVec.ofNat 64 (remn64 x.toNat y.toNat) = if y = 0 then x else x % y := by
  simp only [remn64, toNat_eq_zero_iff]
  split
  · rw [ofNat_toNat_self]
  · rw [← BitVec.toNat_umod, ofNat_toNat_self]

end Words64

/-! ## Counts of bits (05 R92) -/

/-- How many of the first numbers meet a condition, before one that does not. -/
theorem length_takeWhile_range {p : Nat → Bool} {m k : Nat} (hk : k < m) (hbelow : ∀ j < k, p j = true) (hat : p k = false) :
    ((List.range m).takeWhile p).length = k := by
  obtain ⟨j, rfl⟩ := Nat.exists_eq_add_of_lt hk
  rw [Nat.add_assoc, List.range_add, List.takeWhile_append_of_pos (fun a ha => hbelow a (List.mem_range.mp ha)), List.range_succ_eq_map]
  simp [hat]

theorem ctzFrom_eq_length (n a : Nat) : ctzFrom n a = ((List.range n).takeWhile (fun k => !a.testBit k)).length := by
  induction n generalizing a with
  | zero => rfl
  | succ n ih =>
    rw [ctzFrom, List.range_succ_eq_map, List.takeWhile_cons, Nat.testBit_zero]
    by_cases h : a % 2 = 1
    · simp [h]
    · simp [h, ih, List.takeWhile_map, Function.comp_def, Nat.testBit_succ, Nat.add_comm]

theorem popCount_eq_countP (n a : Nat) : popCount n a = (List.range n).countP (fun k => a.testBit k) := by
  induction n generalizing a with
  | zero => rfl
  | succ n ih =>
    rw [popCount, ih, List.range_succ_eq_map, List.countP_cons, List.countP_map, Nat.add_comm]
    simp only [Function.comp_def, Nat.testBit_succ, Nat.testBit_zero, decide_eq_true_eq]
    congr 1
    split <;> omega

theorem clz64_eq_length (x : BitVec 64) : clz64 x.toNat = ((List.range 64).takeWhile (fun k => !x.getMsbD k)).length := by
  rw [clz64]
  by_cases h : x.toNat = 0
  · have : x = 0 := BitVec.eq_of_toNat_eq h
    rw [if_pos h, this]
    decide
  · rw [if_neg h]
    have htop : x.toNat.log2 < 64 := (Nat.log2_lt h).mpr x.isLt
    refine (length_takeWhile_range (by omega) (fun j hj => ?_) ?_).symm
    · have : x.toNat < 2 ^ (63 - j) := (Nat.log2_lt h).mp (by omega)
      simp [BitVec.getMsbD, BitVec.getLsbD, Nat.testBit_lt_two_pow this]
    · have : 64 - 1 - (63 - x.toNat.log2) = x.toNat.log2 := by omega
      simp [BitVec.getMsbD, BitVec.getLsbD, this, Nat.testBit_log2 h]
      omega

/-! ## Integer instructions (05 R90-R92) -/

section Integer
variable {d a b : Reg} {s : State} {i : Issue} {t : Thread} {pop : Option InboxEntry}

theorem intBinary_result (f : Nat → Nat → Nat) (h : reading s [d, a, b] [a, b] = some (i, t, pop)) (ha : IsData t a) (hb : IsData t b)
    (hd : Free t d) : intBinary f d a b s =
      .next (finish pop i.tid (result s i.tid d (word (BitVec.ofNat 64 (f (low t a).toNat (low t b).toNat))))) := by
  rw [intBinary]
  simp only [needKind_eq_kinds]
  refine issueWith_ok h (noneBefore_two h ha.mem hb.mem (by decide) (by decide)) ?_
  rw [needKinds_ok ha.mem, needKinds_ok hb.mem]
  simp only [ok_bind, destOk_ok hd, lo64_eq_low, data64_eq_word]
  rfl

theorem intUnary_result (f : Nat → Nat) (h : reading s [d, a] [a] = some (i, t, pop)) (ha : IsData t a) (hd : Free t d) :
    intUnary f d a s = .next (finish pop i.tid (result s i.tid d (word (BitVec.ofNat 64 (f (low t a).toNat))))) := by
  rw [intUnary]
  simp only [needKind_eq_kinds]
  refine issueWith_ok h (noneBefore_one h ha.mem (by decide)) ?_
  rw [needKinds_ok ha.mem]
  simp only [ok_bind, destOk_ok hd, lo64_eq_low, data64_eq_word]
  rfl

/-- A zero divisor counts EVC_DIV0 once (05 R92). -/
theorem divCount_eq (u : State) (tid : Nat) (y : BitVec 64) :
    divCount u tid y.toNat = if y = 0 then addEvc u (tid / 16) [0, 0, 0, 0, 1, 0, 0, 0] else u := by
  simp only [divCount, toNat_eq_zero_iff]
  rfl

theorem intDivide_result (f : Nat → Nat → Nat) (h : reading s [d, a, b] [a, b] = some (i, t, pop)) (ha : IsData t a) (hb : IsData t b)
    (hd : Free t d) : intDivide f d a b s =
      .next (finish pop i.tid (divCount (result s i.tid d (word (BitVec.ofNat 64 (f (low t a).toNat (low t b).toNat)))) i.tid (low t b).toNat)) := by
  rw [intDivide]
  simp only [needKind_eq_kinds]
  refine issueWith_ok h (noneBefore_two h ha.mem hb.mem (by decide) (by decide)) ?_
  rw [needKinds_ok ha.mem, needKinds_ok hb.mem]
  simp only [ok_bind, destOk_ok hd, lo64_eq_low, data64_eq_word]
  rfl

end Integer

/-- A row of the two-operand integer instructions: the instruction computes by a function of numbers that is the row's on 64 bits. -/
def IntegerRow (row : (Reg → Reg → Reg → Instr) × (BitVec 64 → BitVec 64 → BitVec 64)) : Prop :=
  ∃ f, (∀ d a b s, exec (row.1 d a b) s = intBinary f d a b s) ∧ ∀ x y : BitVec 64, BitVec.ofNat 64 (f x.toNat y.toNat) = row.2 x y

theorem IntegerRow.result {row : (Reg → Reg → Reg → Instr) × (BitVec 64 → BitVec 64 → BitVec 64)} (hrow : IntegerRow row)
    {d a b : Reg} {s : State} {i : Issue} {t : Thread} {pop : Option InboxEntry} (h : reading s [d, a, b] [a, b] = some (i, t, pop))
    (ha : IsData t a) (hb : IsData t b) (hd : Free t d) :
    exec (row.1 d a b) s = .next (finish pop i.tid (result s i.tid d (word (row.2 (low t a) (low t b))))) := by
  obtain ⟨f, hexec, hf⟩ := hrow
  rw [hexec, intBinary_result f h ha hb hd, hf]

/-- The same of the divisions. -/
def DivisionRow (row : (Reg → Reg → Reg → Instr) × (BitVec 64 → BitVec 64 → BitVec 64)) : Prop :=
  ∃ f, (∀ d a b s, exec (row.1 d a b) s = intDivide f d a b s) ∧ ∀ x y : BitVec 64, BitVec.ofNat 64 (f x.toNat y.toNat) = row.2 x y

theorem DivisionRow.result {row : (Reg → Reg → Reg → Instr) × (BitVec 64 → BitVec 64 → BitVec 64)} (hrow : DivisionRow row)
    {d a b : Reg} {s : State} {i : Issue} {t : Thread} {pop : Option InboxEntry} (h : reading s [d, a, b] [a, b] = some (i, t, pop))
    (ha : IsData t a) (hb : IsData t b) (hd : Free t d) :
    exec (row.1 d a b) s = .next (finish pop i.tid (
      if low t b = 0 then addEvc (Machine.result s i.tid d (word (row.2 (low t a) (low t b)))) (i.tid / 16) [0, 0, 0, 0, 1, 0, 0, 0]
      else Machine.result s i.tid d (word (row.2 (low t a) (low t b))))) := by
  obtain ⟨f, hexec, hf⟩ := hrow
  rw [hexec, intDivide_result f h ha hb hd, hf, divCount_eq]

/-- Settles O1: each instruction is `intBinary` or `intDivide` of a function of numbers that agrees with its row on 64 bits. -/
theorem integerResults : Obligations.IntegerResults := by
  refine ⟨fun row hrow d a b s i t pop h ha hb hd => IntegerRow.result ?_ h ha hb hd,
    fun row hrow d a b s i t pop h ha hb hd => DivisionRow.result ?_ h ha hb hd⟩
  · have hbelow : ∀ y : BitVec 64, y.toNat % 64 < 64 := fun y => Nat.mod_lt _ (by decide)
    revert row
    simp only [List.forall_mem_cons]
    exact ⟨⟨_, exec_add, ofNat_add_toNat⟩, ⟨_, exec_sub, ofNat_sub_toNat⟩, ⟨_, exec_and, ofNat_land_toNat⟩,
      ⟨_, exec_or, ofNat_lor_toNat⟩, ⟨_, exec_xor, ofNat_xor_toNat⟩, ⟨_, exec_andn, ofNat_andn64⟩,
      ⟨_, exec_shl, fun x y => ofNat_shl x _⟩, ⟨_, exec_shr, fun x y => ofNat_shr x _⟩, ⟨_, exec_sra, fun x y => ofNat_sra64 x _⟩,
      ⟨_, exec_rol, fun x y => ofNat_rol64 x (hbelow y)⟩,
      ⟨_, exec_min, fun x y => ofNat_ite_iff x y (s64_le_iff_sle x y)⟩, ⟨_, exec_max, fun x y => ofNat_ite_iff x y (s64_le_iff_sle y x)⟩,
      ⟨_, exec_minn, fun x y => ofNat_ite_iff x y (toNat_le_iff_ule x y)⟩, ⟨_, exec_maxn, fun x y => ofNat_ite_iff x y (toNat_le_iff_ule y x)⟩,
      ⟨_, exec_slt, fun x y => ofNat_ite_iff 1 0 (s64_lt_iff_slt x y)⟩, ⟨_, exec_sltn, fun x y => ofNat_ite_iff 1 0 (toNat_lt_iff_ult x y)⟩,
      ⟨_, exec_mul, ofNat_mul_toNat⟩, ⟨_, exec_mulh, ofNat_mulh⟩, ⟨_, exec_mulhn, fun x y => rfl⟩, nofun⟩
  · revert row
    simp only [List.forall_mem_cons]
    exact ⟨⟨_, exec_div, ofNat_div64⟩, ⟨_, exec_divn, ofNat_divn64⟩, ⟨_, exec_rem, ofNat_rem64⟩, ⟨_, exec_remn, ofNat_remn64⟩, nofun⟩

end Sys2Proof.Machine

namespace Sys2Proof.Machine

/-! ## Counts, immediates and constants (05 R92, R94, R95) -/

section Immediate
variable (x : BitVec 64) (imm : BitVec 14)

theorem toNat_setWidth_imm : (imm.setWidth 64).toNat = imm.toNat := by
  rw [BitVec.toNat_setWidth]
  exact Nat.mod_eq_of_lt (imm.isLt.trans (by decide))

theorem ofNat_add_imm : BitVec.ofNat 64 (x.toNat + toU64 imm.toInt) = x + imm.signExtend 64 := by
  rw [toU64_toInt]
  exact ofNat_add_toNat _ _

theorem ofNat_land_imm : BitVec.ofNat 64 (Nat.land x.toNat imm.toNat) = x &&& imm.setWidth 64 := by
  rw [← toNat_setWidth_imm]
  exact ofNat_land_toNat _ _

theorem ofNat_lor_imm : BitVec.ofNat 64 (Nat.lor x.toNat imm.toNat) = x ||| imm.setWidth 64 := by
  rw [← toNat_setWidth_imm]
  exact ofNat_lor_toNat _ _

theorem ofNat_xor_imm : BitVec.ofNat 64 (Nat.xor x.toNat imm.toNat) = x ^^^ imm.setWidth 64 := by
  rw [← toNat_setWidth_imm]
  exact ofNat_xor_toNat _ _

theorem ofNat_slt_imm : BitVec.ofNat 64 (if s64 x.toNat < imm.toInt then 1 else 0) = if x.slt (imm.signExtend 64) then 1 else 0 := by
  refine ofNat_ite_iff 1 0 ?_
  rw [s64_toNat, BitVec.slt_iff_toInt_lt, BitVec.toInt_signExtend_of_le (by decide)]

end Immediate

theorem ofNat_clz (x : BitVec 64) :
    BitVec.ofNat 64 (clz64 x.toNat) = BitVec.ofNat 64 ((List.range 64).takeWhile (fun k => !x.getMsbD k)).length :=
  congrArg _ (clz64_eq_length x)

theorem ofNat_ctz (x : BitVec 64) :
    BitVec.ofNat 64 (ctzFrom 64 x.toNat) = BitVec.ofNat 64 ((List.range 64).takeWhile (fun k => !x.getLsbD k)).length :=
  congrArg _ (ctzFrom_eq_length 64 x.toNat)

theorem ofNat_popc (x : BitVec 64) : BitVec.ofNat 64 (popCount 64 x.toNat) = BitVec.ofNat 64 ((List.range 64).countP (fun k => x.getLsbD k)) :=
  congrArg _ (popCount_eq_countP 64 x.toNat)

section Moves
variable {d a b c : Reg} {s : State} {i : Issue} {t : Thread} {pop : Option InboxEntry}

/-- A one-operand instruction that computes a 64-bit function of its operand writes it. -/
theorem intUnary_writes {f : Nat → Nat} {v : BitVec 64} (h : reading s [d, a] [a] = some (i, t, pop)) (ha : IsData t a) (hd : Free t d)
    (hf : BitVec.ofNat 64 (f (low t a).toNat) = v) : intUnary f d a s = .next (finish pop i.tid (result s i.tid d (word v))) := by
  rw [intUnary_result f h ha hd, hf]

theorem loadImmediate_writes (h : reading s [d] [] = some (i, t, none)) (hd : Free t d) {n : Nat} {v : BitVec 64} (hv : BitVec.ofNat 64 n = v) :
    loadImmediate d n s = .next (result s i.tid d (word v)) := by
  rw [loadImmediate]
  refine issueWith_pops_none h ?_
  simp only [destOk_ok hd, ok_bind, data64_eq_word, hv]
  rfl

/-! ## Copies and moves (05 R83, R93, R96) -/

/-- The two ways in which an instruction finds its operands: with no PORT among them, or with the message that its PORT pops. -/
theorem reading_cases {regs reads : List Reg} (h : reading s regs reads = some (i, t, pop)) :
    ∃ u, issuer s = some (i, u) ∧ firstPending u regs = none ∧ ((firstPort u reads = none ∧ t = u ∧ pop = none) ∨
      ∃ r e, firstPort u reads = some r ∧ i.paired = false ∧ quiet s i.tid = true ∧ portHead s i.tid = some e ∧
        t = substPort u reads e.payload ∧ pop = some e) := by
  unfold reading at h
  split at h
  · cases h
  · next j u hi =>
    split at h
    · cases h
    · next hpend =>
      refine ⟨u, ?_⟩
      split at h
      · next hport =>
        cases h
        exact ⟨hi, by simpa using hpend, .inl ⟨by simpa using hport, rfl, rfl⟩⟩
      · next hport =>
        split at h
        · cases h
        · next hquiet =>
          obtain ⟨e, he, heq⟩ := Option.map_eq_some_iff.mp h
          cases heq
          obtain ⟨r, hr⟩ := Option.ne_none_iff_exists'.mp (by simpa using hport)
          exact ⟨hi, by simpa using hpend, .inr ⟨r, e, hr, by simp_all, by simp_all, he, rfl, rfl⟩⟩

/-- Whether the issuing thread's own register, not what it stands for, holds a PORT, tells whether a message is popped. -/
theorem portAt_iff_pop (h : reading s [d, a] [a] = some (i, t, pop)) : portAt s i.tid a = true ↔ pop.isSome = true := by
  obtain ⟨u, hi, -, hport⟩ := reading_cases h
  have hat : portAt s i.tid a = ((u.rd a).kind == .port) := by simp [portAt, hi]
  rw [hat]
  rcases hport with ⟨hnone, -, rfl⟩ | ⟨r, e, hsome, -, -, -, -, rfl⟩
  · simpa [firstPort] using hnone
  · obtain rfl : r = a := by simpa using List.mem_of_find?_eq_some hsome
    simpa using List.find?_some hsome

theorem sel_copies (h : reading s [d, a, b, c] [a, b, c] = some (i, t, pop)) (ha : Copyable t a) (hb : Copyable t b) (hc : IsData t c)
    (hd : Free t d) : exec (.sel d a b c) s = .next (finish pop i.tid (result (pinCopy s t d (if low t c = 0 then t.rd b else t.rd a)) i.tid d
      (if low t c = 0 then t.rd b else t.rd a))) := by
  rw [exec_sel, execSel]
  simp only [needKind_eq_kinds]
  refine issueWith_ok h (noneBefore_three h ha hb hc.mem (by decide) (by decide) (by decide)) ?_
  rw [needKinds_ok ha, needKinds_ok hb, needKinds_ok hc.mem]
  simp only [ok_bind, destOk_ok hd, lo64_eq_low, ne_eq, toNat_eq_zero_iff, ite_not]
  rfl

theorem portToItself_ne (h : d ≠ a) (i : Issue) (t : Thread) : portToItself i t d a = false := by simp [portToItself, h]

theorem mov_copies (h : reading s [d, a] [a] = some (i, t, pop)) (hne : d ≠ a) (ha : Copyable t a) (hd : Free t d) :
    exec (.mov d a) s = .next (finish pop i.tid (result (pinCopy s t d (t.rd a)) i.tid d (t.rd a))) := by
  rw [exec_mov, execMov]
  simp only [if_neg hne, portToItself_ne hne, Bool.false_eq_true, if_false]
  refine issueWith_ok h (noneBefore_one h ha (by decide)) ?_
  rw [needKinds_ok ha]
  simp only [ok_bind, destOk_ok hd]
  rfl

theorem mov_self (h : reading s [d, d] [] = some (i, t, none)) (hd : Copyable t d ∨ ((t.rd d).kind = .port ∧ i.paired = false)) :
    exec (.mov d d) s = .next (advance s i.tid) := by
  rw [exec_mov, execMov]
  simp only [if_true]
  refine issueWith_pops_none h ?_
  rcases hd with hd | ⟨hport, halone⟩
  · have hfree : Free t d := fun e => by simp [Copyable, e] at hd
    rw [needKinds_ok hd]
    simp only [ok_bind, destOk_ok hfree]
    split <;> rfl
  · simp [portToItself, hport, halone]

theorem move_self (h : reading s [d, d] [] = some (i, t, none))
    (hd : ((t.rd d).kind ∈ [Kind.data, .cap, .strm, .tens, .coc] ∧ ¬ (d = 0 ∧ (t.rd d).kind = .coc)) ∨ ((t.rd d).kind = .port ∧ i.paired = false)) :
    exec (.move d d) s = .next (advance s i.tid) := by
  rw [exec_move, execMove]
  simp only [if_true]
  refine issueWith_pops_none h ?_
  rcases hd with ⟨hd, hkept⟩ | ⟨hport, halone⟩
  · have hdest : destOk t d [d] = .ok () := by simp [destOk]
    rw [needKinds_ok hd]
    simp only [ok_bind, if_neg hkept, hdest]
    split <;> rfl
  · simp [portToItself, hport, halone]

theorem move_moves (h : reading s [d, a] [a] = some (i, t, pop)) (hne : d ≠ a) (ha : (t.rd a).kind ∈ [Kind.data, .cap, .strm, .tens, .coc])
    (hd : Free t d) (hkept : ¬ (d = 0 ∧ (t.rd a).kind = .coc)) :
    exec (.move d a) s = .next (finish pop i.tid (
      let put := setReg (pinCopy s t d (t.rd a)) i.tid d (t.rd a)
      if pop.isSome ∨ a = 0 then advance put i.tid
      else advance (moveRing (setMoved put i.tid a) i.tid (if d = 0 then [] else ((getT s i.tid).map Thread.rings).getD []) d a) i.tid)) := by
  rw [exec_move, execMove]
  simp only [if_neg hne, portToItself_ne hne, Bool.false_eq_true, if_false]
  refine issueWith_ok h (noneBefore_one h ha (by decide)) ?_
  have hdest : destOk t d [a] = .ok () := destOk_ok hd
  rw [needKinds_ok ha]
  simp only [ok_bind, if_neg hkept, hdest, portAt_iff_pop h]
  split <;> rfl

theorem dataOf_word {n : Nat} (h : n < 2 ^ 64) : dataOf n = word (BitVec.ofNat 64 n) := by
  rw [← data64_eq_word, data64, Nat.mod_eq_of_lt h, dataOf]

theorem Kind.code_lt (k : Kind) : k.code < 2 ^ 64 := by cases k <;> decide

theorem kind_reads (h : reading s [d, a] [] = some (i, t, none)) (hd : Free t d) :
    exec (.kind d a) s = .next (result s i.tid d (word (BitVec.ofNat 64 (t.rd a).kind.code))) := by
  rw [exec_kind, execKind]
  refine issueWith_pops_none h ?_
  simp only [destOk_ok hd, ok_bind, dataOf_word (Kind.code_lt _)]
  rfl

end Moves

/-- Settles O2: the counts and immediates are `intUnary` of a function of numbers, and each copy or move has its own lemma. -/
theorem immediateAndMoveResults : Obligations.ImmediateAndMoveResults := by
  refine ⟨fun d a imm sh s i t pop h ha hd => ?_, fun d imm lit s i t h hd => ?_, fun d a b c s i t pop h ha hb hc hd => sel_copies h ha hb hc hd,
    fun d a s i t pop h hne ha hd => mov_copies h hne ha hd, fun d s i t h hd => mov_self h hd,
    fun d a s i t pop h hne ha hd hkept => move_moves h hne ha hd hkept, fun d s i t h hd => move_self h hd,
    fun d a s i t h hd => kind_reads h hd⟩
  · intro x gives
    have writes := fun {f : Nat → Nat} {v : BitVec 64} => intUnary_writes (f := f) (v := v) h ha hd
    exact ⟨(exec_addi ..).trans (writes (ofNat_add_imm x imm)), (exec_andi ..).trans (writes (ofNat_land_imm x imm)),
      (exec_ori ..).trans (writes (ofNat_lor_imm x imm)), (exec_xori ..).trans (writes (ofNat_xor_imm x imm)),
      (exec_slti ..).trans (writes (ofNat_slt_imm x imm)), (exec_shli ..).trans (writes (ofNat_shl x _)),
      (exec_shri ..).trans (writes (ofNat_shr x _)), (exec_srai ..).trans (writes (ofNat_sra64 x _)), (exec_clz ..).trans (writes (ofNat_clz x)),
      (exec_ctz ..).trans (writes (ofNat_ctz x)), (exec_popc ..).trans (writes (ofNat_popc x))⟩
  · exact ⟨(exec_li ..).trans (loadImmediate_writes h hd (by rw [toU64_toInt, ofNat_toNat_self])),
      (exec_liX ..).trans (loadImmediate_writes h hd (ofNat_toNat_self lit))⟩

end Sys2Proof.Machine

namespace Sys2Proof.Machine

/-! ## The fields of a capability (05 R76) -/

section Fields
variable (base len cur perm step : Nat)

theorem mkCap_toNat : (mkCap base len cur perm step).toNat =
    base % 2 ^ 48 + len % 2 ^ 32 * 2 ^ 48 + cur % 2 ^ 32 * 2 ^ 80 + perm % 2 ^ 8 * 2 ^ 112 + step % 2 ^ 8 * 2 ^ 120 := by
  rw [mkCap, BitVec.toNat_ofNat]
  omega

theorem capBase_mkCap : capBase (mkCap base len cur perm step) = base % 2 ^ 48 := by
  rw [capBase, mkCap_toNat, bits]
  omega

theorem capLen_mkCap : capLen (mkCap base len cur perm step) = len % 2 ^ 32 := by
  rw [capLen, mkCap_toNat, bits]
  omega

theorem capPerms_mkCap : bits (mkCap base len cur perm step).toNat 112 8 = perm % 2 ^ 8 := by
  rw [mkCap_toNat, bits]
  omega

/-- A capability is what its fields make. -/
theorem mkCap_fields (b : QWord) : mkCap (capBase b) (capLen b) (capCur b) (bits b.toNat 112 8) (capStep b) = b := by
  apply BitVec.eq_of_toNat_eq
  have := b.isLt
  rw [mkCap_toNat, capBase, capLen, capCur, capStep]
  unfold bits
  omega

end Fields

theorem testBit_bits (n lo k j : Nat) : (bits n lo k).testBit j = (decide (j < k) && n.testBit (lo + j)) := by
  rw [bits, Nat.testBit_mod_two_pow, Nat.testBit_div_two_pow, Nat.add_comm]

/-- A field's bits are those of the register that it stands in. -/
theorem bits_congr {m n lo k : Nat} (h : ∀ j < k, m.testBit (lo + j) = n.testBit (lo + j)) : bits m lo k = bits n lo k := by
  refine Nat.eq_of_testBit_eq (fun j => ?_)
  rw [testBit_bits, testBit_bits]
  by_cases hj : j < k
  · rw [h j hj]
  · simp [hj]

theorem capPerm_eq_testBit (b : QWord) {k : Nat} (h : k < 8) : capPerm b k = (bits b.toNat 112 8).testBit k := by
  rw [testBit_bits, capPerm, bits, pow_one, Nat.testBit_eq_decide_div_mod_eq, Bool.eq_iff_iff]
  simp [h]

theorem capPerm_mkCap (base len cur perm step : Nat) {k : Nat} (h : k < 8) : capPerm (mkCap base len cur perm step) k = perm.testBit k := by
  rw [capPerm_eq_testBit _ h, capPerms_mkCap, Nat.testBit_mod_two_pow]
  simp [h]

/-! ## Reading a capability (05 R97) -/

theorem sextZ_toNat (z : BitVec 8) : sextZ 8 z.toNat = z.toInt := by
  have := z.isLt
  simp only [sextZ, BitVec.toInt]
  split <;> split <;> omega

theorem bits_eq_extract (b : QWord) (lo k : Nat) : bits b.toNat lo k = (b.extractLsb' lo k).toNat := by
  rw [BitVec.extractLsb'_toNat, bits, Nat.shiftRight_eq_div_pow]

/-- The field CGET reads, as 64 bits. -/
def fieldWord (f : CapField) (c : QWord) : BitVec 64 :=
  match f with
  | .base => (c.extractLsb' 0 48).setWidth 64
  | .len => (c.extractLsb' 48 32).setWidth 64
  | .cur => (c.extractLsb' 80 32).setWidth 64
  | .perm => (c.extractLsb' 112 8).setWidth 64
  | .step => (c.extractLsb' 120 8).signExtend 64

theorem ofNat_capField (f : CapField) (c : QWord) : BitVec.ofNat 64 (capField f c) = fieldWord f c := by
  cases f with
  | step =>
    rw [capField, ofNat_toU64, capStep, bits_eq_extract, sextZ_toNat]
    rfl
  | _ => exact (congrArg (BitVec.ofNat 64) (bits_eq_extract ..)).trans (BitVec.ofNat_toNat ..)

section Derivations
variable {d a b : Reg} {s : State} {i : Issue} {t : Thread} {pop : Option InboxEntry}

theorem cget_reads (h : reading s [d, a] [a] = some (i, t, pop)) (ha : (t.rd a).kind = .cap) (hd : Free t d) (f : CapField) :
    exec (.cget f d a) s = .next (finish pop i.tid (result s i.tid d (word (fieldWord f (t.rd a).bits)))) := by
  rw [exec_cget, execCget]
  simp only [needKind_eq_kinds]
  refine issueWith_ok h (noneBefore_one h (List.mem_singleton.mpr ha) (by decide)) ?_
  rw [needKinds_ok (List.mem_singleton.mpr ha)]
  simp only [ok_bind, destOk_ok hd, data64_eq_word, ofNat_capField]
  rfl

/-! ## Derivations (05 R82, R98) -/

theorem derive_writes {f : QWord → Nat → Except Stop QWord} {e : QWord} (h : reading s [d, a, b] [a, b] = some (i, t, pop))
    (ha : (t.rd a).kind = .cap) (hb : IsData t b) (hd : Free t d) (hf : f (t.rd a).bits (low t b).toNat = .ok e) :
    derive f d a b s = .next (finish pop i.tid (result s i.tid d ⟨.cap, e⟩)) := by
  rw [derive]
  simp only [needKind_eq_kinds]
  refine issueWith_ok h (noneBefore_two h (List.mem_singleton.mpr ha) hb.mem (by decide) (by decide)) ?_
  rw [needKinds_ok (List.mem_singleton.mpr ha), needKinds_ok hb.mem]
  simp only [ok_bind, lo64_eq_low, hf, destOk_ok hd]
  rfl

theorem csetbBits_ok {c : QWord} {v : Nat} (hd : capDerive c = true) (hc : capCur c ≤ capLen c) (hv : v ≤ capLen c - capCur c) :
    csetbBits c v = .ok (mkCap (capBase c + capCur c) v 0 (bits c.toNat 112 8) (capStep c)) := by
  have hfits : ¬ (capLen c < capCur c ∨ capLen c - capCur c < v) := by omega
  rw [csetbBits, hd, if_neg (by decide), if_neg hfits]

/-- The mask with which CSETP clears permissions. -/
def permMask (m : Nat) : QWord := BitVec.ofNat 128 m <<< 112 ||| ~~~ (BitVec.ofNat 128 255 <<< 112)

theorem permMask_getLsbD {m i : Nat} (hi : i < 128) :
    (permMask m).getLsbD i = (decide (i < 112 ∨ 120 ≤ i) || m.testBit (i - 112)) := by
  have hbyte : Nat.testBit 255 (i - 112) = decide (i - 112 < 8) := Nat.testBit_two_pow_sub_one 8 _
  simp only [permMask, BitVec.getLsbD_or, BitVec.getLsbD_shiftLeft, BitVec.getLsbD_not, BitVec.getLsbD_ofNat, hbyte, hi, decide_true,
    Bool.true_and]
  by_cases hlow : i < 112
  · simp [hlow]
  · by_cases hhigh : 120 ≤ i
    · have : ¬ i - 112 < 8 := by omega
      simp [hhigh, this]
    · have h8 : i - 112 < 8 := by omega
      have h128 : i - 112 < 128 := by omega
      simp [hlow, hhigh, h8, h128]

/-- Where the mask has ones a field is kept. -/
theorem bits_permMask (c : QWord) (m : Nat) {lo k : Nat} (hk : lo + k ≤ 112 ∨ (120 ≤ lo ∧ lo + k ≤ 128)) :
    bits (c &&& permMask m).toNat lo k = bits c.toNat lo k := by
  refine bits_congr (fun j hj => ?_)
  have hmask := permMask_getLsbD (m := m) (i := lo + j) (by omega)
  rw [BitVec.getLsbD] at hmask
  have hkept : lo + j < 112 ∨ 120 ≤ lo + j := by omega
  rw [BitVec.toNat_and, Nat.testBit_and, hmask]
  simp [hkept]

theorem perms_permMask (c : QWord) (m : Nat) : bits (c &&& permMask m).toNat 112 8 = Nat.land (bits c.toNat 112 8) m := by
  refine Nat.eq_of_testBit_eq (fun j => ?_)
  change _ = (bits c.toNat 112 8 &&& m).testBit j
  rw [Nat.testBit_and, testBit_bits, testBit_bits]
  by_cases hj : j < 8
  · have hmask := permMask_getLsbD (m := m) (i := 112 + j) (by omega)
    rw [BitVec.getLsbD] at hmask
    have hperm : ¬ 120 ≤ 112 + j := by omega
    rw [BitVec.toNat_and, Nat.testBit_and, hmask]
    simp [hj, hperm]
  · simp [hj]

theorem csetpBits_eq (c : QWord) (v : Nat) : csetpBits c v = c &&& permMask (v % 256 ||| 64) := by
  have hfields := mkCap_fields (c &&& permMask (v % 256 ||| 64))
  rw [capBase, capLen, capCur, capStep, bits_permMask c _ (by decide), bits_permMask c _ (by decide), bits_permMask c _ (by decide),
    perms_permMask, bits_permMask c _ (by decide)] at hfields
  exact hfields

theorem mkCap_congr_mod {base len cur cur' perm step step' : Nat} (hc : cur % 2 ^ 32 = cur' % 2 ^ 32) (hs : step % 2 ^ 8 = step' % 2 ^ 8) :
    mkCap base len cur perm step = mkCap base len cur' perm step' := by
  rw [mkCap, mkCap, hc, hs]

theorem csetcBits_eq (c : QWord) (v : Nat) :
    csetcBits c v = mkCap (capBase c) (capLen c) (v % 2 ^ 32) (bits c.toNat 112 8) (v / 2 ^ 32 % 2 ^ 8) :=
  mkCap_congr_mod (Nat.mod_mod ..).symm rfl

theorem cincBits_eq (c : QWord) (v : Nat) :
    cincBits c v = mkCap (capBase c) (capLen c) ((capCur c + v) % 2 ^ 32) (bits c.toNat 112 8) (capStep c) := by
  refine mkCap_congr_mod ?_ rfl
  rw [Nat.mod_mod, Nat.add_mod_mod]

end Derivations

/-- Settles O3: CGET reads `fieldWord`, and each derivation's result is what its row says of the fields. -/
theorem capabilityResults : Obligations.CapabilityResults := by
  refine ⟨fun f d a s i t pop h ha hd => ?_, fun d a b s i t pop h ha hb hd => ?_⟩
  · rw [cget_reads h ha hd f]
    cases f <;> rfl
  · intro c v gives
    have writes := fun {f : QWord → Nat → Except Stop QWord} {e : QWord} => derive_writes (f := f) (e := e) h ha hb hd
    exact ⟨fun hderive hcur hv => (exec_csetb ..).trans (writes (csetbBits_ok hderive hcur hv)),
      (exec_csetp ..).trans (writes (congrArg Except.ok (csetpBits_eq c v))), (exec_csetc ..).trans (writes (congrArg Except.ok (csetcBits_eq c v))),
      (exec_cinc ..).trans (writes (congrArg Except.ok (cincBits_eq c v)))⟩

/-! ## No derivation widens (05 R82) -/

section Widening
variable {d a b : Reg} {s s' : State} {i : Issue} {t : Thread} {pop : Option InboxEntry}

/-- With its operands read, a meaning stops the bundle, or its body gives the state whose pop is committed. -/
theorem issueWith_next_cases {regs reads : List Reg} {body : Issue → Thread → Except Stop State}
    (h : reading s regs reads = some (i, t, pop)) (hn : issueWith s regs reads body = .next s') :
    (∃ st, s' = stopAt s i.tid st) ∨ ∃ u, body i t = .ok u ∧ s' = finish pop i.tid u := by
  obtain ⟨u, hi, hpend, ⟨hport, rfl, rfl⟩ | ⟨r, e, hport, halone, hquiet, hhead, rfl, rfl⟩⟩ := reading_cases h <;>
    simp only [issueWith, hi, hpend, hport] at hn
  · split at hn
    · next v hb => exact .inr ⟨v, hb, (Host.Outcome.next.inj hn).symm⟩
    · next st hb => exact .inl ⟨st, (Host.Outcome.next.inj hn).symm⟩
  · split at hn
    · next st hb => exact .inl ⟨st, (Host.Outcome.next.inj hn).symm⟩
    · simp only [halone, hquiet, hhead, Bool.false_eq_true, if_false, Bool.not_true] at hn
      split at hn
      · next v hb => exact .inr ⟨v, hb, (Host.Outcome.next.inj hn).symm⟩
      · next st hb => exact .inl ⟨st, (Host.Outcome.next.inj hn).symm⟩

theorem needKind_inv {k : Kind} {r : Reg} {g : GReg} {x : Unit} (h : needKind k r g = .ok x) : g.kind = k := by
  unfold needKind at h
  split at h
  · assumption
  · split at h <;> cases h

/-- What two steps of checks answer, the first does not stop. -/
theorem bind_ok_inv {α β : Type} {x : Except Stop α} {f : α → Except Stop β} {y : β} (h : (x >>= f) = .ok y) : ∃ v, x = .ok v ∧ f v = .ok y := by
  cases x with
  | error e => cases h
  | ok v => exact ⟨v, rfl, h⟩

theorem derive_cases {f : QWord → Nat → Except Stop QWord} (h : reading s [d, a, b] [a, b] = some (i, t, pop)) (hn : derive f d a b s = .next s') :
    (∃ st, s' = stopAt s i.tid st) ∨ ∃ e, s' = finish pop i.tid (result s i.tid d ⟨.cap, e⟩) ∧ (t.rd a).kind = .cap ∧
      f (t.rd a).bits (low t b).toNat = .ok e := by
  refine (issueWith_next_cases h hn).imp id ?_
  rintro ⟨u, hb, rfl⟩
  obtain ⟨_, ha, hb⟩ := bind_ok_inv hb
  obtain ⟨_, -, hb⟩ := bind_ok_inv hb
  obtain ⟨e, he, hb⟩ := bind_ok_inv hb
  obtain ⟨_, -, hb⟩ := bind_ok_inv hb
  cases hb
  exact ⟨e, rfl, needKind_inv ha, lo64_eq_low t b ▸ he⟩

end Widening

/-- A derived capability has only permissions of another, and its Onchip bit. -/
def PermsWithin (c e : QWord) : Prop := capOnchip e = capOnchip c ∧ ∀ k < 8, capPerm e k = true → capPerm c k = true

/-- A derived capability has the range of another and only its permissions. -/
def Within (c e : QWord) : Prop := capBase e = capBase c ∧ capLen e = capLen c ∧ PermsWithin c e

/-- A capability made with the permissions of another. -/
theorem permsWithin_kept (c : QWord) (base len cur step : Nat) : PermsWithin c (mkCap base len cur (bits c.toNat 112 8) step) := by
  have hperm : ∀ k < 8, capPerm (mkCap base len cur (bits c.toNat 112 8) step) k = capPerm c k := fun k hk => by
    rw [capPerm_mkCap _ _ _ _ _ hk, capPerm_eq_testBit c hk]
  exact ⟨hperm 6 (by decide), fun k hk he => (hperm k hk).symm.trans he⟩

theorem within_kept (c : QWord) (cur step : Nat) : Within c (mkCap (capBase c) (capLen c) cur (bits c.toNat 112 8) step) := by
  refine ⟨?_, ?_, permsWithin_kept ..⟩
  · rw [capBase_mkCap]
    exact Nat.mod_mod ..
  · rw [capLen_mkCap]
    exact Nat.mod_mod ..

theorem csetpBits_within (c : QWord) (v : Nat) : Within c (csetpBits c v) := by
  have hperm : ∀ k < 8, capPerm (csetpBits c v) k = (capPerm c k && (v % 256 ||| 64).testBit k) := fun k hk => by
    rw [csetpBits, capPerm_mkCap _ _ _ _ _ hk, capPerm_eq_testBit c hk]
    exact Nat.testBit_and ..
  refine ⟨?_, ?_, ?_, fun k hk he => ?_⟩
  · rw [csetpBits, capBase_mkCap]
    exact Nat.mod_mod ..
  · rw [csetpBits, capLen_mkCap]
    exact Nat.mod_mod ..
  · have h64 : (v % 256 ||| 64).testBit 6 = true := by
      rw [Nat.testBit_or]
      exact Bool.or_true _
    exact (hperm 6 (by decide)).trans (by rw [h64, Bool.and_true]; rfl)
  · rw [hperm k hk, Bool.and_eq_true] at he
    exact he.1

/-- CSETB's range begins at the cursor and ends within the operand's. -/
theorem csetbBits_within {c e : QWord} {v : Nat} (h : csetbBits c v = .ok e) :
    (capBase e = (capBase c + capCur c) % 2 ^ 48 ∧ capCur c + capLen e ≤ capLen c ∧ capDerive c = true) ∧ PermsWithin c e := by
  unfold csetbBits at h
  split at h
  · cases h
  · next hderive =>
    split at h
    · cases h
    · next hfits =>
      cases h
      have hlen : capLen c < 2 ^ 32 := Nat.mod_lt _ (by decide)
      refine ⟨⟨capBase_mkCap .., ?_, by simpa using hderive⟩, permsWithin_kept ..⟩
      rw [capLen_mkCap]
      omega

/-- A derivation whose results stay within their operand stops, or writes a capability within its operand. -/
theorem derive_within {d a b : Reg} {s s' : State} {i : Issue} {t : Thread} {pop : Option InboxEntry} {f : QWord → Nat → QWord}
    (hf : ∀ c v, Within c (f c v)) (h : reading s [d, a, b] [a, b] = some (i, t, pop)) (hn : derive (fun c v => .ok (f c v)) d a b s = .next s') :
    (∃ st, s' = stopAt s i.tid st) ∨ ∃ e, s' = finish pop i.tid (result s i.tid d ⟨.cap, e⟩) ∧ (t.rd a).kind = .cap ∧
      Within (t.rd a).bits e := by
  refine (derive_cases h hn).imp id (fun ⟨e, hs, ha, he⟩ => ?_)
  cases he
  exact ⟨_, hs, ha, hf ..⟩

/-- Settles O4: what a derivation that goes on writes is CSETB's cut of the range, or the operand's range with no more permissions. -/
theorem derivationNeverWidens : Obligations.DerivationNeverWidens := by
  intro d a b s s' i t pop h j hj hn
  simp only [List.mem_cons, List.not_mem_nil, or_false] at hj
  by_cases hcut : j = .csetb d a b
  · subst hcut
    refine (derive_cases h hn).imp id (fun ⟨e, hs, ha, he⟩ => ?_)
    obtain ⟨hrange, honchip, hperm⟩ := csetbBits_within he
    exact ⟨e, hs, ha, by rw [if_pos rfl]; exact hrange, honchip, hperm⟩
  · have hwithin := show (∃ st, s' = stopAt s i.tid st) ∨ ∃ e, s' = finish pop i.tid (result s i.tid d ⟨.cap, e⟩) ∧ (t.rd a).kind = .cap ∧
        Within (t.rd a).bits e by
      rcases hj with rfl | rfl | rfl | rfl
      · exact absurd rfl hcut
      · exact derive_within csetpBits_within h hn
      · exact derive_within (f := csetcBits) (fun c v => within_kept c v _) h hn
      · exact derive_within (f := cincBits) (fun c v => within_kept c _ _) h hn
    refine hwithin.imp id (fun ⟨e, hs, ha, hbase, hlen, honchip, hperm⟩ => ⟨e, hs, ha, ?_, honchip, hperm⟩)
    rw [if_neg hcut]
    exact ⟨hbase, hlen⟩

end Sys2Proof.Machine

namespace Sys2Proof.Machine

/-! ## G0 (05 R75) -/

theorem Thread.rd_zero (t : Thread) : t.rd 0 = ⟨.data, 0⟩ := rfl

theorem setReg_zero (s : State) (tid : Nat) (v : GReg) : setReg s tid 0 v = s := by
  unfold setReg
  split
  · rfl
  · exact if_pos rfl

/-- G0 is no PORT: reading it pops nothing. -/
theorem reading_zero {s : State} {regs : List Reg} {i : Issue} {t : Thread} {pop : Option InboxEntry} (h : reading s regs [0] = some (i, t, pop)) :
    pop = none ∧ reading s regs [] = some (i, t, none) := by
  have hport : ∀ u : Thread, firstPort u [0] = none := fun u => rfl
  obtain ⟨u, hi, hpend, ⟨-, rfl, rfl⟩ | ⟨r, e, hsome, -⟩⟩ := reading_cases h
  · refine ⟨rfl, ?_⟩
    simp [reading, hi, hpend, firstPort]
  · rw [hport] at hsome
    cases hsome

theorem move_zero {d : Reg} {s : State} {i : Issue} {t : Thread} {pop : Option InboxEntry} (h : reading s [d, 0] [0] = some (i, t, pop)) (hd : Free t d) :
    exec (.move d 0) s = .next (result s i.tid d ⟨.data, 0⟩) := by
  obtain ⟨rfl, hnone⟩ := reading_zero h
  have hdata : (t.rd 0).kind ∈ [Kind.data, .cap, .strm, .tens, .coc] := List.mem_cons_self ..
  have hkept : ¬ (d = 0 ∧ (t.rd 0).kind = .coc) := fun e => nomatch e.2
  by_cases hzero : d = 0
  · subst hzero
    rw [move_self hnone (.inl ⟨hdata, hkept⟩), result, setReg_zero]
  · rw [move_moves h hzero hdata hd hkept, if_pos (.inr rfl)]
    rfl

/-- Settles O51: each clause is a lemma about G0. -/
theorem registerZero : Obligations.RegisterZero := by
  refine ⟨fun t => ⟨t.rd_zero, fun ks hks => ⟨needKinds_ok hks, needKind_ok rfl⟩⟩, fun s tid v => setReg_zero s tid v,
    fun d s i t pop h hd => ⟨(reading_zero h).1, move_zero h hd, fun r _ => r.rd_zero⟩⟩

/-! ## Operands of another kind (05 R85, R86, R90; 21 R318) -/

/-- What a meaning finds wrong before the read of its PORTs is one fault, or nothing. -/
def FaultsNoEarlier (u : Thread) (reads : List Reg) (st : Stop) (x : Except Stop State) : Prop :=
  faultBefore u reads x = none ∨ faultBefore u reads x = some st

theorem faultsNoEarlier_error (u : Thread) (reads : List Reg) (st : Stop) : FaultsNoEarlier u reads st (.error st) := by
  unfold FaultsNoEarlier faultBefore
  split
  · next c a he =>
    cases he
    split
    · exact .inl rfl
    · exact .inr rfl
  · exact .inl rfl

section Checks
variable {u t : Thread} {reads : List Reg} {st : Stop} {k : Kind} {r : Reg} {f : Unit → Except Stop State}

/-- A check that fails as the instruction reads its operands fails so before the PORTs are read, or waits for their messages. -/
theorem faultsNoEarlier_needKind (hu : ReadsAs reads u t) (hk : k ≠ .port) (h : needKind k r (t.rd r) = .error st) :
    FaultsNoEarlier u reads st (needKind k r (u.rd r) >>= f) := by
  rcases hu r with heq | ⟨hr, hport⟩
  · rw [← heq, h]
    exact faultsNoEarlier_error u reads st
  · exact .inl (faultBefore_port hr hport hk)

/-- A check that is passed is passed before, or waits for a message. -/
theorem FaultsNoEarlier.needKind (hu : ReadsAs reads u t) (hk : k ≠ .port) (h : (t.rd r).kind = k) (hf : FaultsNoEarlier u reads st (f ())) :
    FaultsNoEarlier u reads st (Machine.needKind k r (u.rd r) >>= f) := by
  rcases hu r with heq | ⟨hr, hport⟩
  · rw [← heq, needKind_ok h]
    exact hf
  · exact .inl (faultBefore_port hr hport hk)

theorem needKind_moved (hk : k ≠ .moved) (h : (t.rd r).kind = .moved) : needKind k r (t.rd r) = .error (.fault .moved r.val) := by
  simp [needKind, h, hk.symm]

theorem needKind_other (hk : (t.rd r).kind ≠ k) (h : (t.rd r).kind ≠ .moved) : needKind k r (t.rd r) = .error (.fault .kind r.val) := by
  simp [needKind, h, hk]

theorem destOk_coc {d : Reg} (h : (t.rd d).kind = .coc) : destOk t d [] = .error (.fault .kind d.val) := by simp [destOk, h]

end Checks

section Stops
variable {s : State} {i : Issue} {t : Thread} {regs reads : List Reg} {body : Issue → Thread → Except Stop State} {st : Stop}

/-- A meaning that stops with its operands read, and finds nothing else wrong before, stops so. -/
theorem issueWith_stops {pop : Option InboxEntry} (h : reading s regs reads = some (i, t, pop)) (hb : body i t = .error st)
    (hf : ∀ u, ReadsAs reads u t → FaultsNoEarlier u reads st (body i u)) : issueWith s regs reads body = .next (stopAt s i.tid st) := by
  obtain ⟨u, hi, hpend, ⟨hport, rfl, rfl⟩ | ⟨r, e, hport, halone, hquiet, hhead, rfl, rfl⟩⟩ := reading_cases h <;>
    simp only [issueWith, hi, hpend, hport]
  · rw [hb]
  · rcases hf u (readsAs_substPort reads u e.payload) with hnone | hsome
    · simp only [hnone, halone, hquiet, hhead, hb, Bool.false_eq_true, if_false, Bool.not_true]
    · rw [hsome]

/-- A fault other than KIND comes before the read of a PORT. -/
theorem issueWith_faults (hi : issuer s = some (i, t)) (hpend : firstPending t regs = none) {c : Cause} {a : Nat}
    (hb : body i t = .error (.fault c a)) (hc : c ≠ .kind) : issueWith s regs reads body = .next (takeFault s i.tid c a) := by
  simp only [issueWith, hi, hpend, hb]
  split
  · rfl
  · simp [faultBefore, hc, stopAt]

/-- In a pair a PORT operand faults KIND. -/
theorem issueWith_pair_port (hi : issuer s = some (i, t)) (hpend : firstPending t regs = none) {r : Reg} (hport : firstPort t reads = some r)
    (hf : faultBefore t reads (body i t) = none) (hpair : i.paired = true) : issueWith s regs reads body = .next (takeFault s i.tid .kind r.val) := by
  simp only [issueWith, hi, hpend, hport, hf, hpair, if_true]
  rfl

end Stops

/-- The meaning of an integer instruction of two operands: the checks of 05 R85, R86 and R90 in field order, then what it does. -/
def IntegerShape (d a b : Reg) (j : Instr) : Prop :=
  ∃ f : State → Issue → Thread → Unit → Except Stop State, ∀ s, exec j s = issueWith s [d, a, b] [a, b] (fun i t =>
    needKind .data a (t.rd a) >>= fun _ => needKind .data b (t.rd b) >>= fun _ => destOk t d [] >>= f s i t)

theorem integerShape_binary {f : Nat → Nat → Nat} {d a b : Reg} {j : Instr} (h : ∀ s, exec j s = intBinary f d a b s) : IntegerShape d a b j :=
  ⟨_, h⟩

theorem integerShape_divide {f : Nat → Nat → Nat} {d a b : Reg} {j : Instr} (h : ∀ s, exec j s = intDivide f d a b s) : IntegerShape d a b j :=
  ⟨_, h⟩

section Shape
variable {d a b : Reg} {j : Instr} {s : State} {i : Issue} {t : Thread} {pop : Option InboxEntry} {st : Stop} {e : Nat}

theorem IntegerShape.stops_a (hj : IntegerShape d a b j) (h : reading s [d, a, b] [a, b] = some (i, t, pop))
    (ha : needKind .data a (t.rd a) = .error st) : exec j s = .next (stopAt s i.tid st) := by
  obtain ⟨f, hexec⟩ := hj
  rw [hexec]
  refine issueWith_stops h (by rw [ha]; rfl) (fun u hu => faultsNoEarlier_needKind hu (by decide) ha)

theorem IntegerShape.stops_b (hj : IntegerShape d a b j) (h : reading s [d, a, b] [a, b] = some (i, t, pop)) (ha : IsData t a)
    (hb : needKind .data b (t.rd b) = .error st) : exec j s = .next (stopAt s i.tid st) := by
  obtain ⟨f, hexec⟩ := hj
  rw [hexec]
  refine issueWith_stops h (by rw [needKind_ok ha, hb]; rfl) (fun u hu => ?_)
  exact .needKind hu (by decide) ha (faultsNoEarlier_needKind hu (by decide) hb)

/-- A destination that holds a handle is no operand, which hold DATA, and so is no PORT. -/
theorem IntegerShape.stops_d (hj : IntegerShape d a b j) (h : reading s [d, a, b] [a, b] = some (i, t, pop)) (ha : IsData t a) (hb : IsData t b)
    (hd : (t.rd d).kind = .coc) : exec j s = .next (takeFault s i.tid .kind d.val) := by
  obtain ⟨f, hexec⟩ := hj
  rw [hexec]
  refine issueWith_stops (st := .fault .kind d.val) h (by rw [needKind_ok ha, needKind_ok hb]; simp only [ok_bind, destOk_coc hd]; rfl) (fun u hu => ?_)
  refine .needKind hu (by decide) ha (.needKind hu (by decide) hb ?_)
  rcases hu d with heq | ⟨hmem, -⟩
  · rw [destOk_coc (heq ▸ hd)]
    exact faultsNoEarlier_error ..
  · have hdata : ∀ r ∈ [a, b], (t.rd r).kind = .data := by simpa using ⟨ha, hb⟩
    rw [hdata d hmem] at hd
    cases hd

section Pair
variable (hj : IntegerShape d a b j) (hi : issuer s = some (i, t)) (hpend : firstPending t [d, a, b] = none)
include hj hi hpend

theorem IntegerShape.pair_moved (ha : (t.rd a).kind = .moved) : exec j s = .next (takeFault s i.tid .moved a.val) := by
  obtain ⟨f, hexec⟩ := hj
  rw [hexec]
  exact issueWith_faults hi hpend (by rw [needKind_moved (by decide) ha]; rfl) (by decide)

theorem IntegerShape.pair_port_a (hpair : i.paired = true) (ha : (t.rd a).kind = .port) : exec j s = .next (takeFault s i.tid .kind a.val) := by
  obtain ⟨f, hexec⟩ := hj
  rw [hexec]
  exact issueWith_pair_port hi hpend (by simp [firstPort, ha]) (faultBefore_port (List.mem_cons_self ..) ha (by decide)) hpair

theorem IntegerShape.pair_port_b (hpair : i.paired = true) (ha : IsData t a) (hb : (t.rd b).kind = .port) :
    exec j s = .next (takeFault s i.tid .kind b.val) := by
  have hkind : (t.rd a).kind = .data := ha
  obtain ⟨f, hexec⟩ := hj
  rw [hexec]
  refine issueWith_pair_port hi hpend (by simp [firstPort, hkind, hb]) ?_ hpair
  rw [faultBefore_kind hkind]
  exact faultBefore_port (by simp) hb (by decide)

end Pair
end Shape

/-- Settles O53: every row has `IntegerShape`, whose checks stop it in field order. -/
theorem operandKindFaults : Obligations.OperandKindFaults := by
  intro d a b s i t pop h j hj
  have hshape : IntegerShape d a b j := by
    revert j
    simp only [List.forall_mem_cons]
    exact ⟨integerShape_binary (exec_add d a b), integerShape_binary (exec_sub d a b), integerShape_binary (exec_and d a b),
      integerShape_binary (exec_or d a b), integerShape_binary (exec_xor d a b), integerShape_binary (exec_andn d a b),
      integerShape_binary (exec_shl d a b), integerShape_binary (exec_shr d a b), integerShape_binary (exec_sra d a b),
      integerShape_binary (exec_rol d a b), integerShape_binary (exec_min d a b), integerShape_binary (exec_max d a b),
      integerShape_binary (exec_minn d a b), integerShape_binary (exec_maxn d a b), integerShape_binary (exec_slt d a b),
      integerShape_binary (exec_sltn d a b), integerShape_binary (exec_mul d a b), integerShape_binary (exec_mulh d a b),
      integerShape_binary (exec_mulhn d a b), integerShape_divide (exec_div d a b), integerShape_divide (exec_divn d a b),
      integerShape_divide (exec_rem d a b), integerShape_divide (exec_remn d a b), List.forall_mem_nil _⟩
  exact ⟨fun ha => hshape.stops_a h (needKind_moved (by decide) ha), fun ha hm => hshape.stops_a h (needKind_other ha hm),
    fun ha hb => hshape.stops_b h ha (needKind_moved (by decide) hb), fun ha hb hm => hshape.stops_b h ha (needKind_other hb hm),
    fun ha hb hd => hshape.stops_d h ha hb hd, fun s2 k v hi hpair hpend => ⟨fun ha => hshape.pair_moved hi hpend ha,
      fun ha => hshape.pair_port_a hi hpend hpair ha, fun ha hb => hshape.pair_port_b hi hpend hpair ha hb⟩⟩

end Sys2Proof.Machine

namespace Sys2Proof.Machine

/-! ## What a write of registers leaves unchanged (05 R85, R90; 07 R134) -/

/-- A thread's masks and private control registers, AMAX aside (04 R62). -/
def Thread.settings (t : Thread) : List (BitVec 16) × BitVec 2 × Word × BitVec 16 × BitVec 8 × DWord × VAddr × Bool × Nat × Nat :=
  (t.m, t.rmode, t.feLimit, t.groups, t.fltCause, t.fltAddr, t.fltPc, t.preempt, t.ctx, t.owner)

/-- A thread's registers outside some, its settings and, where A asks it, its AMAX are those of another. -/
structure Keeps (A : Prop) (rs : List Reg) (w v : Thread) : Prop where
  regs : ∀ r, r ∉ rs → v.rd r = w.rd r
  settings : v.settings = w.settings
  amax : A → v.amax = w.amax

/-- From s to u memory, its tags and states and every other thread are the same, and a thread changes in some registers at most and, where
A does not forbid it, in its AMAX. -/
structure RegsOnly (A : Prop) (rs : List Reg) (tid : Nat) (s u : State) : Prop where
  mem : u.mem = s.mem
  tags : u.tags = s.tags
  empties : u.empties = s.empties
  others : ∀ k, k ≠ tid → getT u k = getT s k
  thread : ∀ w, getT s tid = some w → ∃ v, getT u tid = some v ∧ Keeps A rs w v

section Frame
variable {A : Prop} {rs : List Reg} {tid : Nat} {s u v : State} {w x : Thread}

theorem Keeps.of_eq (hg : x.g = w.g) (hs : x.settings = w.settings) (ha : x.amax = w.amax) : Keeps A rs w x :=
  ⟨fun r _ => Thread.rd_congr hg r, hs, fun _ => ha⟩

theorem RegsOnly.of_threads (ht : u.threads = s.threads) (hm : u.mem = s.mem) (hg : u.tags = s.tags) (he : u.empties = s.empties) :
    RegsOnly A rs tid s u :=
  ⟨hm, hg, he, fun k _ => getT_congr ht k, fun w hw => ⟨w, (getT_congr ht tid).trans hw, .of_eq rfl rfl rfl⟩⟩

theorem RegsOnly.refl (s : State) : RegsOnly A rs tid s s := .of_threads rfl rfl rfl rfl

theorem RegsOnly.trans (a : RegsOnly A rs tid s u) (b : RegsOnly A rs tid u v) : RegsOnly A rs tid s v where
  mem := b.mem.trans a.mem
  tags := b.tags.trans a.tags
  empties := b.empties.trans a.empties
  others k hk := (b.others k hk).trans (a.others k hk)
  thread w hw := by
    obtain ⟨x, hx, kx⟩ := a.thread w hw
    obtain ⟨y, hy, ky⟩ := b.thread x hx
    exact ⟨y, hy, fun r hr => (ky.regs r hr).trans (kx.regs r hr), ky.settings.trans kx.settings, fun h => (ky.amax h).trans (kx.amax h)⟩

theorem RegsOnly.weaken {B : Prop} {qs : List Reg} (a : RegsOnly A qs tid s u) (hA : B → A) (hr : ∀ r ∈ qs, r ∈ rs) : RegsOnly B rs tid s u where
  mem := a.mem
  tags := a.tags
  empties := a.empties
  others := a.others
  thread w hw := by
    obtain ⟨x, hx, kx⟩ := a.thread w hw
    exact ⟨x, hx, fun r h => kx.regs r (fun hq => h (hr r hq)), kx.settings, fun h => kx.amax (hA h)⟩

theorem setT_regsOnly (hw : getT s tid = some w) (hk : Keeps A rs w x) : RegsOnly A rs tid s (setT s tid x) where
  mem := rfl
  tags := rfl
  empties := rfl
  others k hne := getT_setT_ne s hne x
  thread y hy := by
    rw [hw] at hy
    cases hy
    exact ⟨x, getT_setT_same .., hk⟩

theorem RegsOnly.frame (h : RegsOnly A rs tid s u) : RegisterFrame s u tid rs := by
  have kept : ∀ w v, getT s tid = some w → getT u tid = some v → Keeps A rs w v := fun w v hw hv => by
    obtain ⟨x, hx, hk⟩ := h.thread w hw
    rw [hv] at hx
    cases hx
    exact hk
  refine ⟨fun a => by rw [h.mem], h.tags, h.empties, h.others, fun w v hw hv => (kept w v hw hv).regs, fun w v hw hv => ?_, fun w v hw hv => ?_⟩
  all_goals
    have hs := (kept w v hw hv).settings
    simp only [Thread.settings, Prod.mk.injEq] at hs
    obtain ⟨hm, hcontrol⟩ := hs
  · exact hm
  · exact hcontrol

theorem RegsOnly.sameAmax (h : RegsOnly True rs tid s u) : SameAmax s u tid := fun w v hw hv => by
  obtain ⟨x, hx, hk⟩ := h.thread w hw
  rw [hv] at hx
  cases hx
  exact hk.amax trivial

end Frame

/-! ## The operations of an instruction on registers -/

section Operations
variable {A : Prop} {rs : List Reg}

theorem advance_regsOnly (s : State) (tid : Nat) : RegsOnly A rs tid s (advance s tid) := by
  unfold advance
  split
  · exact .refl s
  · next w hw => exact setT_regsOnly hw (.of_eq rfl rfl rfl)

theorem parkAs_regsOnly (s : State) (tid : Nat) (w : Wait) : RegsOnly A rs tid s (parkAs s tid w) := by
  unfold parkAs
  split
  · exact .refl s
  · next w hw => exact setT_regsOnly hw (.of_eq rfl rfl rfl)

theorem Thread.settings_wr (t : Thread) (r : Reg) (v : GReg) : (t.wr r v).settings = t.settings := by
  unfold Thread.wr
  split <;> rfl

theorem Thread.amax_wr (t : Thread) (r : Reg) (v : GReg) : (t.wr r v).amax = t.amax := by
  unfold Thread.wr
  split <;> rfl

theorem setReg_regsOnly {d : Reg} (hd : d ∈ rs) (s : State) (tid : Nat) (v : GReg) : RegsOnly A rs tid s (setReg s tid d v) := by
  unfold setReg
  split
  · exact .refl s
  · next w hw =>
    split
    · exact .refl s
    · dsimp only
      generalize hx : ({ w.wr d v with
        rings := (w.wr d v).rings.filter (fun p => p.1 != d.val)
        ahead := (w.wr d v).ahead.filter (fun a => a.reg != d.val) } : Thread) = x
      have written : RegsOnly A rs tid s (setT s tid x) := by
        refine setT_regsOnly hw ⟨fun r hr => ?_, ?_, fun _ => ?_⟩ <;> subst hx
        · exact Thread.rd_wr_ne (fun e => hr (e ▸ hd))
        · exact Thread.settings_wr w d v
        · exact Thread.amax_wr w d v
      split
      · exact written.trans (.of_threads rfl rfl rfl rfl)
      · exact written

/-- A register is written, and the bundle goes on. -/
theorem result_regsOnly {d : Reg} (hd : d ∈ rs) (s : State) (tid : Nat) (v : GReg) : RegsOnly A rs tid s (result s tid d v) :=
  (setReg_regsOnly hd s tid v).trans (advance_regsOnly ..)

theorem countAt_regsOnly (s : State) (k tid : Nat) (c : Counts) : RegsOnly A rs tid s (countAt s k c) := by
  unfold countAt count
  split
  · exact .refl s
  · exact .of_threads rfl rfl rfl rfl

theorem divCount_regsOnly (s : State) (k tid n : Nat) : RegsOnly A rs tid s (divCount s k n) := by
  unfold divCount
  split
  · exact countAt_regsOnly ..
  · exact .refl s

theorem pinCopy_regsOnly (s : State) (t : Thread) (d : Reg) (v : GReg) (tid : Nat) : RegsOnly A rs tid s (pinCopy s t d v) := by
  unfold pinCopy addPin
  repeat' split
  all_goals exact .of_threads rfl rfl rfl rfl

theorem amaxAll_regsOnly (s : State) (tid : Nat) (vs : List FVal) : RegsOnly False rs tid s (amaxAll s tid vs) := by
  unfold amaxAll
  split
  · exact .refl s
  · next w hw => exact setT_regsOnly hw ⟨fun r _ => rfl, rfl, nofun⟩

theorem setMoved_regsOnly {r : Reg} (hr : r ∈ rs) (s : State) (tid : Nat) : RegsOnly A rs tid s (setMoved s tid r) :=
  (setReg_regsOnly hr s tid _).trans (.of_threads rfl rfl rfl rfl)

theorem moveRing_regsOnly (s : State) (tid : Nat) (roles : List (Nat × Nat)) (d a : Reg) : RegsOnly A rs tid s (moveRing s tid roles d a) := by
  unfold moveRing
  split
  · exact .refl s
  · next w hw => exact setT_regsOnly hw (.of_eq rfl rfl rfl)

/-! ## Stops and pops (05 R83, 10 R194, 21 R319) -/

theorem takeFault_regsOnly (s : State) (tid : Nat) (c : Cause) (a : Nat) : RegsOnly A rs tid s (takeFault s tid c a) where
  mem := (takeFault_walkFrame s tid c a).mem
  tags := (takeFault_sameWords s tid c a).tags
  empties := (takeFault_sameWords s tid c a).empties
  others := (takeFault_walkFrame s tid c a).threads
  thread _ hw := ⟨_, takeFault_getT hw c a, .of_eq rfl rfl rfl⟩

theorem addMiss_regsOnly (s : State) (cl ctx va core tid : Nat) : RegsOnly A rs tid s (addMiss s cl ctx va core) := by
  unfold addMiss
  dsimp only
  split
  · exact .refl s
  · exact .of_threads rfl rfl rfl rfl

theorem stopAt_regsOnly (s : State) (tid : Nat) (st : Stop) : RegsOnly A rs tid s (stopAt s tid st) := by
  cases st with
  | fault c a => exact takeFault_regsOnly s tid c a
  | wait w => exact parkAs_regsOnly s tid w
  | miss va =>
    simp only [stopAt]
    split
    · exact .refl s
    · exact (addMiss_regsOnly ..).trans (parkAs_regsOnly ..)

theorem dropAhead_regsOnly (s : State) (tid : Nat) : RegsOnly A rs tid s (dropAhead s tid) := by
  unfold dropAhead
  split
  · exact .refl s
  · next w hw =>
    have dropped : RegsOnly A rs tid s (setT s tid { w with ahead := [] }) := setT_regsOnly hw (.of_eq rfl rfl rfl)
    exact dropped.trans (.of_threads rfl rfl rfl rfl)

theorem setHolder_regsOnly (s : State) (k tid : Nat) (b : QWord) : RegsOnly A rs tid s (setHolder s k b) := by
  unfold setHolder
  dsimp only
  split
  · exact .of_threads rfl rfl rfl rfl
  · exact .refl s

theorem popPort_regsOnly (s : State) (tid : Nat) (e : InboxEntry) : RegsOnly A rs tid s (popPort s tid e) := by
  have holder : ∀ u, RegsOnly A rs tid u (if e.payload.kind = .coc then setHolder u tid e.payload.bits else u) := fun u => by
    split
    · exact setHolder_regsOnly ..
    · exact .refl u
  have pin : ∀ u, RegsOnly A rs tid u (if e.payload.kind = .tens then sched u s.cycle (.pinDrop e.ctx (e.payload.bits.toNat % 2 ^ 20)) else u) :=
    fun u => by
      split
      · exact .of_threads rfl rfl rfl rfl
      · exact .refl u
  have taken : RegsOnly A rs tid s (setCore s (tid / 16) { coreSt s (tid / 16) with
      inbox := (coreSt s (tid / 16)).inbox.erase e
      nextOut := if isOverflow s tid then (coreSt s (tid / 16)).nextOut
        else setNth (nth 0 (tid % 16) (coreSt s (tid / 16)).nextOut + 1) (tid % 16) (coreSt s (tid / 16)).nextOut }) := .of_threads rfl rfl rfl rfl
  exact taken.trans ((holder _).trans ((pin _).trans ((dropAhead_regsOnly ..).trans (.of_threads rfl rfl rfl rfl))))

theorem popWhenDone_regsOnly (s : State) (tid : Nat) (e : InboxEntry) : RegsOnly A rs tid s (popWhenDone s tid e) := by
  unfold popWhenDone
  split
  · exact .refl s
  · next w hw =>
    split
    · exact setT_regsOnly hw (.of_eq rfl rfl rfl)
    · exact popPort_regsOnly ..

end Operations

/-! ## Meanings that touch registers only -/

/-- What a body answers when it does not stop. -/
def Answers (P : State → Prop) (x : Except Stop State) : Prop := ∀ u, x = .ok u → P u

theorem Answers.ok {P : State → Prop} {u : State} (h : P u) : Answers P (.ok u) := fun v hv => by
  cases hv
  exact h

theorem Answers.bind {α : Type} {P : State → Prop} {x : Except Stop α} {f : α → Except Stop State} (h : ∀ a, Answers P (f a)) :
    Answers P (x >>= f) := fun u hu => by
  obtain ⟨a, -, ha⟩ := bind_ok_inv hu
  exact h a u ha

theorem Answers.error {P : State → Prop} {st : Stop} : Answers P (.error st) := fun _ hu => nomatch hu

/-- A meaning changes some registers of its issuer at most, whether it retires, waits or faults. -/
def TouchesOnly (A : Prop) (rs : List Reg) (e : State → Host.Outcome State Fault Refusal) : Prop :=
  ∀ s u i t, issuer s = some (i, t) → e s = .next u → RegsOnly A rs i.tid s u

theorem TouchesOnly.of_exec {A : Prop} {rs : List Reg} {j : Instr} {e : State → Host.Outcome State Fault Refusal} (h : ∀ s, exec j s = e s)
    (he : TouchesOnly A rs e) : TouchesOnly A rs (exec j) := fun s u i t hi hu => he s u i t hi ((h s).symm.trans hu)

theorem issueWith_touchesOnly {A : Prop} {rs regs reads : List Reg} {body : State → Issue → Thread → Except Stop State}
    (hb : ∀ s i t, Answers (RegsOnly A rs i.tid s) (body s i t)) : TouchesOnly A rs (fun s => issueWith s regs reads (body s)) := by
  intro s u i t hi hu
  simp only [issueWith, hi] at hu
  have stops : ∀ st, Host.Outcome.next (stopAt s i.tid st) = (.next u : Host.Outcome State Fault Refusal) → RegsOnly A rs i.tid s u :=
    fun st h => by
      cases h
      exact stopAt_regsOnly s i.tid st
  split at hu
  · exact stops _ hu
  · split at hu
    · split at hu
      · next v hv =>
        cases hu
        exact hb s i t u hv
      · exact stops _ hu
    · split at hu
      · exact stops _ hu
      · split at hu
        · exact stops _ hu
        · split at hu
          · exact stops _ hu
          · split at hu
            · exact stops _ hu
            · split at hu
              · next v hv =>
                cases hu
                exact (hb s i _ v hv).trans (popWhenDone_regsOnly ..)
              · exact stops _ hu

section Shapes
variable {d a b c : Reg} {j : Instr}

/-- A register among the destinations of an instruction with one. -/
theorem mem_one (d : Reg) : d ∈ [d] := List.mem_singleton_self d

theorem intBinary_touchesOnly {f : Nat → Nat → Nat} (h : ∀ s, exec j s = intBinary f d a b s) : TouchesOnly True [d] (exec j) :=
  .of_exec h <| issueWith_touchesOnly fun _ _ _ => .bind fun _ => .bind fun _ => .bind fun _ => .ok (result_regsOnly (mem_one d) ..)

theorem intUnary_touchesOnly {f : Nat → Nat} (h : ∀ s, exec j s = intUnary f d a s) : TouchesOnly True [d] (exec j) :=
  .of_exec h <| issueWith_touchesOnly fun _ _ _ => .bind fun _ => .bind fun _ => .ok (result_regsOnly (mem_one d) ..)

theorem intDivide_touchesOnly {f : Nat → Nat → Nat} (h : ∀ s, exec j s = intDivide f d a b s) : TouchesOnly True [d] (exec j) :=
  .of_exec h <| issueWith_touchesOnly fun _ _ _ => .bind fun _ => .bind fun _ => .bind fun _ =>
    .ok ((result_regsOnly (mem_one d) ..).trans (divCount_regsOnly ..))

theorem sel_touchesOnly (h : ∀ s, exec j s = execSel d a b c s) : TouchesOnly True [d] (exec j) :=
  .of_exec h <| issueWith_touchesOnly fun _ _ _ => .bind fun _ => .bind fun _ => .bind fun _ => .bind fun _ =>
    .ok ((pinCopy_regsOnly ..).trans (result_regsOnly (mem_one d) ..))

theorem loadImmediate_touchesOnly {n : Nat} (h : ∀ s, exec j s = loadImmediate d n s) : TouchesOnly True [d] (exec j) :=
  .of_exec h <| issueWith_touchesOnly fun _ _ _ => .bind fun _ => .ok (result_regsOnly (mem_one d) ..)

theorem mov_touchesOnly (h : ∀ s, exec j s = execMov d a s) : TouchesOnly True [d] (exec j) := by
  refine .of_exec h (issueWith_touchesOnly fun s i t => ?_)
  split
  · exact .ok (advance_regsOnly ..)
  · refine .bind fun _ => .bind fun _ => ?_
    split
    · exact .ok (advance_regsOnly ..)
    · exact .ok ((pinCopy_regsOnly ..).trans (result_regsOnly (mem_one d) ..))

theorem kind_touchesOnly (h : ∀ s, exec j s = execKind d a s) : TouchesOnly True [d] (exec j) :=
  .of_exec h <| issueWith_touchesOnly fun _ _ _ => .bind fun _ => .ok (result_regsOnly (mem_one d) ..)

theorem cget_touchesOnly {f : CapField} (h : ∀ s, exec j s = execCget f d a s) : TouchesOnly True [d] (exec j) :=
  .of_exec h <| issueWith_touchesOnly fun _ _ _ => .bind fun _ => .bind fun _ => .ok (result_regsOnly (mem_one d) ..)

theorem derive_touchesOnly {f : QWord → Nat → Except Stop QWord} (h : ∀ s, exec j s = derive f d a b s) : TouchesOnly True [d] (exec j) :=
  .of_exec h <| issueWith_touchesOnly fun _ _ _ => .bind fun _ => .bind fun _ => .bind fun _ => .bind fun _ => .ok (result_regsOnly (mem_one d) ..)

theorem floatBinary_touchesOnly {f : Thread → Nat → Nat → Nat × Counts} (h : ∀ s, exec j s = floatBinary f d a b s) : TouchesOnly True [d] (exec j) :=
  .of_exec h <| issueWith_touchesOnly fun _ _ _ => .bind fun _ => .bind fun _ => .bind fun _ =>
    .ok ((result_regsOnly (mem_one d) ..).trans (countAt_regsOnly ..))

theorem floatUnary_touchesOnly {f : Thread → Nat → Nat × Counts} (h : ∀ s, exec j s = floatUnary f d a s) : TouchesOnly True [d] (exec j) :=
  .of_exec h <| issueWith_touchesOnly fun _ _ _ => .bind fun _ => .bind fun _ => .ok ((result_regsOnly (mem_one d) ..).trans (countAt_regsOnly ..))

theorem ffma_touchesOnly {rm : Rm} (h : ∀ s, exec j s = execFfma rm d a b c s) : TouchesOnly True [d] (exec j) :=
  .of_exec h <| issueWith_touchesOnly fun _ _ _ => .bind fun _ => .bind fun _ => .bind fun _ => .bind fun _ =>
    .ok ((result_regsOnly (mem_one d) ..).trans (countAt_regsOnly ..))

theorem imageInstr_touchesOnly {f : Nat → Nat} (h : ∀ s, exec j s = imageInstr f d a s) : TouchesOnly True [d] (exec j) :=
  .of_exec h <| issueWith_touchesOnly fun _ _ _ => .bind fun _ => .bind fun _ => .ok (result_regsOnly (mem_one d) ..)

theorem crr_touchesOnly {n : BitVec 9} (h : ∀ s, exec j s = execCrr n d s) : TouchesOnly True [d] (exec j) :=
  .of_exec h <| issueWith_touchesOnly fun _ _ _ => .bind fun _ => .ok (result_regsOnly (mem_one d) ..)

theorem maskToReg_touchesOnly {f : BitVec 16 → Nat} {m : MReg} (h : ∀ s, exec j s = maskToReg f d m s) : TouchesOnly True [d] (exec j) :=
  .of_exec h <| issueWith_touchesOnly fun _ _ _ => .bind fun _ => .ok (result_regsOnly (mem_one d) ..)

/-- CVT may raise AMAX (07 R138, R139). -/
theorem cvt_touchesOnly {rm : Rm} {x y : Fmt} (h : ∀ s, exec j s = execCvt rm x y d a s) : TouchesOnly False [d] (exec j) :=
  .of_exec h <| issueWith_touchesOnly fun _ _ _ => .bind fun _ => .bind fun _ =>
    .ok (((result_regsOnly (mem_one d) ..).trans (countAt_regsOnly ..)).trans (amaxAll_regsOnly ..))

/-- MOVE empties its source too (05 R85). -/
theorem move_touchesOnly (h : ∀ s, exec j s = execMove d a s) : TouchesOnly True [d, a] (exec j) := by
  have hd : d ∈ [d, a] := List.mem_cons_self ..
  have ha : a ∈ [d, a] := by simp
  refine .of_exec h (issueWith_touchesOnly fun s i t => ?_)
  split
  · exact .ok (advance_regsOnly ..)
  · refine .bind fun _ => ?_
    dsimp only
    split
    · exact .error
    · refine .bind fun _ => ?_
      split
      · exact .ok (advance_regsOnly ..)
      · have put := fun v => (pinCopy_regsOnly s t d v i.tid).trans (setReg_regsOnly (A := True) hd _ i.tid v)
        split
        · exact .ok ((put _).trans (advance_regsOnly ..))
        · exact .ok ((put _).trans ((setMoved_regsOnly ha ..).trans ((moveRing_regsOnly ..).trans (advance_regsOnly ..))))

end Shapes

/-- Settles O54: each instruction is issued in a shape whose body writes one register, and stops and pops leave registers alone. -/
theorem registerInstructionsTouchNothingElse : Obligations.RegisterInstructionsTouchNothingElse := by
  intro d a b c k14 sh k19 lit f rm p x y crn m s u i t hi
  refine ⟨fun j hj hu => ?_, fun hu => ?_, fun hu => ?_⟩
  · have htouch : TouchesOnly True [d] (exec j) := by
      clear hu
      revert j
      simp only [List.forall_mem_cons]
      exact
        ⟨intBinary_touchesOnly fun _ => exec_add .., intBinary_touchesOnly fun _ => exec_sub .., intBinary_touchesOnly fun _ => exec_and ..,
          intBinary_touchesOnly fun _ => exec_or .., intBinary_touchesOnly fun _ => exec_xor .., intBinary_touchesOnly fun _ => exec_andn ..,
          intBinary_touchesOnly fun _ => exec_shl .., intBinary_touchesOnly fun _ => exec_shr .., intBinary_touchesOnly fun _ => exec_sra ..,
          intBinary_touchesOnly fun _ => exec_rol .., intBinary_touchesOnly fun _ => exec_min .., intBinary_touchesOnly fun _ => exec_max ..,
          intBinary_touchesOnly fun _ => exec_minn .., intBinary_touchesOnly fun _ => exec_maxn ..,
          intBinary_touchesOnly fun _ => exec_slt .., intBinary_touchesOnly fun _ => exec_sltn ..,
          intBinary_touchesOnly fun _ => exec_mul .., intBinary_touchesOnly fun _ => exec_mulh ..,
          intBinary_touchesOnly fun _ => exec_mulhn .., intDivide_touchesOnly fun _ => exec_div ..,
          intDivide_touchesOnly fun _ => exec_divn .., intDivide_touchesOnly fun _ => exec_rem ..,
          intDivide_touchesOnly fun _ => exec_remn .., intUnary_touchesOnly fun _ => exec_clz .., intUnary_touchesOnly fun _ => exec_ctz ..,
          intUnary_touchesOnly fun _ => exec_popc .., sel_touchesOnly fun _ => exec_sel .., intUnary_touchesOnly fun _ => exec_addi ..,
          intUnary_touchesOnly fun _ => exec_andi .., intUnary_touchesOnly fun _ => exec_ori .., intUnary_touchesOnly fun _ => exec_xori ..,
          intUnary_touchesOnly fun _ => exec_slti .., intUnary_touchesOnly fun _ => exec_shli .., intUnary_touchesOnly fun _ => exec_shri ..,
          intUnary_touchesOnly fun _ => exec_srai .., loadImmediate_touchesOnly fun _ => exec_li ..,
          loadImmediate_touchesOnly fun _ => exec_liX .., mov_touchesOnly fun _ => exec_mov .., kind_touchesOnly fun _ => exec_kind ..,
          cget_touchesOnly fun _ => exec_cget .., derive_touchesOnly fun _ => exec_csetb .., derive_touchesOnly fun _ => exec_csetp ..,
          derive_touchesOnly fun _ => exec_csetc .., derive_touchesOnly fun _ => exec_cinc .., floatBinary_touchesOnly fun _ => exec_fadd ..,
          floatBinary_touchesOnly fun _ => exec_fsub .., floatBinary_touchesOnly fun _ => exec_fmul ..,
          floatBinary_touchesOnly fun _ => exec_fdiv .., floatUnary_touchesOnly fun _ => exec_fsqrt ..,
          floatBinary_touchesOnly fun _ => exec_fmin .., floatBinary_touchesOnly fun _ => exec_fmax ..,
          floatBinary_touchesOnly fun _ => exec_fcmp .., floatUnary_touchesOnly fun _ => exec_fclass ..,
          ffma_touchesOnly fun _ => exec_ffma .., imageInstr_touchesOnly fun _ => exec_img .., imageInstr_touchesOnly fun _ => exec_imgi ..,
          crr_touchesOnly fun _ => exec_crr .., maskToReg_touchesOnly fun _ => exec_movmMg .., maskToReg_touchesOnly fun _ => exec_mpop ..,
          maskToReg_touchesOnly fun _ => exec_mff .., List.forall_mem_nil _⟩
    have only := htouch s u i t hi hu
    exact ⟨only.frame, only.sameAmax⟩
  · exact (cvt_touchesOnly (fun _ => exec_cvt ..) s u i t hi hu).frame
  · have only := move_touchesOnly (fun _ => exec_move ..) s u i t hi hu
    exact ⟨only.frame, only.sameAmax⟩

end Sys2Proof.Machine

namespace Sys2Proof.Machine

/-! ## What an access meets at its home (05 R83, R84; 06 R101, R108; 21 R325) -/

section Meets
variable {s : State} {r : Req}

theorem accFault_unreached (h : reqReaches s r = false) : accFault s r = some (.perm, r.addr) := by
  simp only [accFault, h, Bool.not_false, if_true]

theorem accFault_kind (h : reqReaches s r = true) (hk : (isFullEmpty r.op && r.at_.any (tagged s)) = true ∨ foreignStream s r = true) :
    accFault s r = some (.kind, r.addr) := by
  have hbad : ((isFullEmpty r.op && r.at_.any (tagged s)) || foreignStream s r) = true := Bool.or_eq_true_iff.mpr hk
  simp only [accFault, h, Bool.not_true, Bool.false_eq_true, if_false, hbad, if_true]

theorem accFault_reads (h : reqReaches s r = true) (htag : (isFullEmpty r.op && r.at_.any (tagged s)) = false) (hstream : foreignStream s r = false)
    (hreads : accReads r.op = true) : accFault s r = (poisoned s r.at_).map (fun k => (.softErr, wordAddr k)) := by
  simp only [accFault, h, htag, hstream, hreads, Bool.not_true, Bool.or_self, Bool.false_eq_true, if_false, if_true]

/-- A store of a reached place meets nothing there. -/
theorem accFault_store {n : Nat} {v : GReg} (h : reqReaches s r = true) (hop : r.op = .store n v) : accFault s r = none := by
  have hstream : foreignStream s r = false := by
    simp only [foreignStream, hop]
  have hword : isFullEmpty r.op = false := by rw [hop]; rfl
  have hreads : accReads r.op = false := by rw [hop]; rfl
  simp only [accFault, h, hword, hstream, hreads, Bool.not_true, Bool.false_and, Bool.or_self, Bool.false_eq_true, if_false]

end Meets

/-! ## The end of an access in flight -/

theorem accessDone_threads (s : State) (id : Nat) (r : Req) : (accessDone s id r).threads = s.threads := by
  unfold accessDone
  dsimp only
  split
  · next cl k _ => exact (hltActive_sameEngines { s with reqs := tdel id s.reqs } cl k false).threads
  · rfl

/-- A thread that waits for nothing is not woken. -/
theorem relaxedWake_idle {s : State} {tid : Nat} (h : ∀ w, waitOf s tid ≠ some w) : relaxedWake s tid = s := by
  have hnone : waitOf s tid = none := Option.eq_none_iff_forall_ne_some.mpr h
  simp only [relaxedWake, hnone]

theorem waitOf_wake (s : State) (tid : Nat) : waitOf (wake s tid) tid = none := by
  unfold wake
  split
  · next h => simp only [waitOf, h]
  · simp only [waitOf, getT_setT_same]

theorem Thread.status_wr (t : Thread) (r : Reg) (v : GReg) : (t.wr r v).status = t.status := by
  unfold Thread.wr
  split <;> rfl

/-- A write of a register wakes and parks no thread. -/
theorem waitOf_setReg (s : State) (tid : Nat) (r : Reg) (v : GReg) : waitOf (setReg s tid r v) tid = waitOf s tid := by
  unfold setReg
  split
  · rfl
  · next t ht =>
    split
    · rfl
    · dsimp only
      have hwait : ∀ u : State, u.threads = (setT s tid { t.wr r v with
          rings := (t.wr r v).rings.filter (fun p => p.1 != r.val)
          ahead := (t.wr r v).ahead.filter (fun a => a.reg != r.val) }).threads → waitOf u tid = waitOf s tid := fun u hu => by
        rw [waitOf_congr hu]
        simp only [waitOf, getT_setT_same, ht, Thread.status_wr]
      split <;> exact hwait _ rfl

theorem waitOf_writeResult (s : State) (tid : Nat) (t : Thread) (op : AccOp) (d : Nat) (v : GReg) :
    waitOf (writeResult s tid t op d v) tid = waitOf s tid := by
  have hpinned : waitOf (if v.kind = .tens ∧ d ≠ 0 then addPin s t.ctx (v.bits.toNat % 2 ^ 20) else s) tid = waitOf s tid := by
    split
    · exact waitOf_congr (addPin_sameEngines ..).threads tid
    · rfl
  unfold writeResult
  split
  · rfl
  · rfl
  · rfl
  · split
    · exact (waitOf_setReg ..).trans hpinned
    · rfl

theorem waitOf_setT {s : State} {tid : Nat} {t v : Thread} (ht : getT s tid = some t) (h : v.status = t.status) :
    waitOf (setT s tid v) tid = waitOf s tid := by
  simp only [waitOf, getT_setT_same, ht, h]

/-! ## The events of an access in flight (06 R104, R106, R110; 11 R209) -/

/-- The elements that a read-ahead reads at its home. -/
def aheadVals (s : State) : AccOp → List (Nat × Nat)
  | .ahead _ _ w es => es.map (fun x => (x.1, elemAt s x.2.1 x.2.2 w))
  | _ => []

theorem windowWrite_cmds (u : State) (tid off : Nat) (bs : List (Nat × Byte)) (w : Writer) : (windowWrite u tid off bs w).cmds = u.cmds := by
  unfold windowWrite
  split
  · exact setReg_cmds ..
  · unfold logError
    repeat' split
    all_goals rfl

/-- A test in vain counts a retry below FE_LIMIT. -/
theorem feRetry_counts {u : State} {id : Nat} {r : Req} {t : Thread} (ht : getT u r.tid = some t) (h : r.retries + 1 < t.feLimit.toNat) :
    feRetry u id r = { u with reqs := tset id { r with retries := r.retries + 1 } u.reqs } := by
  simp only [feRetry, ht, if_neg (Nat.not_le.mpr h)]

/-- The test that reaches FE_LIMIT faults. -/
theorem feRetry_givesUp {u : State} {id : Nat} {r : Req} {t : Thread} (ht : getT u r.tid = some t) (h : t.feLimit.toNat ≤ r.retries + 1) :
    feRetry u id r = takeFault { u with reqs := tdel id u.reqs } r.tid .feRetry r.addr := by
  simp only [feRetry, ht, if_pos h, feGiveUp]

section Events
variable {s : State} {id : Nat} {r : Req} {t : Thread} (hr : tget id s.reqs = some r) (ht : getT s r.tid = some t)

/-- An access with nothing amiss is performed at its home. -/
theorem performAccess_performs (hnew : r.performed = false) (hok : accFault s r = none) : performAccess s id r =
    (let e := perform s (threadWriter s r.tid) r.op r.at_
     let r1 := { r with performed := true, result := e.2.1, counts := e.2.2, vals := aheadVals s r.op }
     let u := { e.1 with reqs := tset id r1 e.1.reqs }
     if completeAt 0 r1 then relaxedWake u r.tid else u) := by
  simp only [performAccess, hnew, Bool.false_eq_true, if_false, hok]
  cases r.op <;> rfl

include hr

theorem accessPerformed_eq : exec (.accessPerformed id) s = .next (performAccess s id r) := by
  rw [exec_accessPerformed, execAccessPerformed, hr]

/-- A fault at its home ends an access, whichever event finds it. -/
theorem access_faults (hlive : r.dropped = false) (hnew : r.performed = false) {c : Cause} {a : Nat} (hf : accFault s r = some (c, a)) :
    ∀ j ∈ [Instr.accessPerformed id, .feFirstTest id, .feRetryTick id], exec j s = .next (takeFault (accessDone s id r) r.tid c a) := by
  have hgoes : ¬ (r.performed = true ∨ r.dropped = true) := by simp [hnew, hlive]
  simp only [List.forall_mem_cons]
  refine ⟨?_, ?_, ?_, List.forall_mem_nil _⟩
  · rw [accessPerformed_eq hr]
    simp only [performAccess, hnew, Bool.false_eq_true, if_false, hf, accFail]
  · rw [exec_feFirstTest, execFeFirstTest, hr]
    simp only [if_neg hgoes, hf, accFail]
  · rw [exec_feRetryTick, execFeRetryTick, hr]
    simp only [if_neg hgoes, hf, accFail]

include ht in
theorem farAccessReply_reply (hlive : r.dropped = false) (hw : waitOf s r.tid = some (.reply id)) : exec (.farAccessReply id) s =
    .next (countAt (retirePast (applyInc (writeResult (accessDone s id r) r.tid t r.op r.dest r.result) r.tid r.inc) r.tid) r.tid r.counts) := by
  rw [exec_farAccessReply, execFarAccessReply, hr]
  simp [hw, ht, hlive]

include ht in
theorem farAccessReply_fullEmpty (hlive : r.dropped = false) (hw : waitOf s r.tid = some (.fullEmpty id)) : exec (.farAccessReply id) s =
    .next (let u := retirePast (applyInc (writeResult (accessDone s id r) r.tid t r.op r.dest r.result) r.tid r.inc) r.tid
      if r.op = .lds then dropAhead u r.tid else u) := by
  rw [exec_farAccessReply, execFarAccessReply, hr]
  simp only [hw, ht, hlive, Bool.not_false, and_true, if_true]
  cases r.op <;> simp

theorem feFirstTest_serves (hlive : r.dropped = false) (hnew : r.performed = false) (hok : accFault s r = none)
    (hready : feReady s r.op r.at_ = true) : exec (.feFirstTest id) s =
    .next (let e := perform s (threadWriter s r.tid) r.op r.at_
      sched { e.1 with reqs := tset id { r with performed := true, result := e.2.1 } e.1.reqs } (r.issued + r.lat) (.farAccessReply id)) := by
  rw [exec_feFirstTest, execFeFirstTest, hr]
  simp [hnew, hlive, hok, hready]

theorem feRetryTick_serves (hlive : r.dropped = false) (hnew : r.performed = false) (hok : accFault s r = none)
    (hready : feReady s r.op r.at_ = true) : exec (.feRetryTick id) s = .next (feServeOne s id r) := by
  rw [exec_feRetryTick, execFeRetryTick, hr]
  simp [hnew, hlive, hok, hready]

theorem feFirstTest_parks (hlive : r.dropped = false) (hnew : r.performed = false) (hok : accFault s r = none)
    (hready : feReady s r.op r.at_ = false) : exec (.feFirstTest id) s =
    .next (sched { s with reqs := tset id { r with atWord := true } s.reqs } (s.cycle + 4096) (.feRetryTick id)) := by
  rw [exec_feFirstTest, execFeFirstTest, hr]
  simp [hnew, hlive, hok, hready]

theorem feRetryTick_retries (hlive : r.dropped = false) (hnew : r.performed = false) (hok : accFault s r = none)
    (hready : feReady s r.op r.at_ = false) : exec (.feRetryTick id) s = .next (sched (feRetry s id r) (s.cycle + 4096) (.feRetryTick id)) := by
  rw [exec_feRetryTick, execFeRetryTick, hr]
  simp [hnew, hlive, hok, hready]

section Relaxed
include ht

/-- A relaxed load's reply goes to its pending register, and wakes the thread only if it waits for that register (05 R88). -/
theorem relaxedLoadReply_eq (hlive : r.dropped = false) {n : Nat} (hop : r.op = .load n) {u : State}
    (hu : u = writeResult (setT (accessDone s id r) r.tid { t with pend := t.pend.filter (fun p => p.2 != id) }) r.tid t r.op r.dest r.result) :
    ((∀ w, waitOf s r.tid ≠ some w) → exec (.relaxedLoadReply id) s = .next u) ∧
    (waitOf s r.tid = some (.pending r.dest) → exec (.relaxedLoadReply id) s = .next (wake u r.tid)) := by
  have hdone : getT (accessDone s id r) r.tid = some t := (getT_congr (accessDone_threads s id r) _).trans ht
  have hwait : waitOf u r.tid = waitOf s r.tid := by
    rw [hu, waitOf_writeResult, waitOf_setT hdone (by rfl), waitOf_congr (accessDone_threads s id r)]
  rw [exec_relaxedLoadReply, execRelaxedLoadReply, hr]
  simp only [hop] at hu ⊢
  simp only [hdone, hlive, Bool.false_eq_true, if_false, ← hu, hwait]
  refine ⟨fun hidle => ?_, fun hpend => ?_⟩
  · have hnone : waitOf s r.tid = none := Option.eq_none_iff_forall_ne_some.mpr hidle
    simp only [hnone]
    exact congrArg _ (relaxedWake_idle (by rw [hwait]; exact hidle))
  · simp only [hpend, if_true]
    exact congrArg _ (relaxedWake_idle (by simp [waitOf_wake]))

theorem streamReadaheadArrival_keeps {b : QWord} {w : Nat} {es : List (Nat × Place × Nat)} {k : Nat} (hlive : r.dropped = false) (hop : r.op = .ahead k b w es)
    (hidle : ∀ w, waitOf s r.tid ≠ some w) (hlatch : t.latch = none) (hk : k < 32) (hstrm : (t.rd ⟨k, hk⟩).kind = .strm)
    (hb : strmAt (t.rd ⟨k, hk⟩).bits 0 = b) : getT (accessDone s id r) r.tid = some t ∧
      exec (.streamReadaheadArrival id) s = .next (setT (accessDone s id r) r.tid { t with ahead := t.ahead ++ [⟨k, r.vals⟩] }) := by
  have hdone : getT (accessDone s id r) r.tid = some t := (getT_congr (accessDone_threads s id r) _).trans ht
  refine ⟨hdone, ?_⟩
  have hwait : ∀ v : Thread, v.status = t.status → waitOf (setT (accessDone s id r) r.tid v) r.tid = waitOf s r.tid := fun v hv => by
    rw [waitOf_setT hdone hv, waitOf_congr (accessDone_threads s id r)]
  rw [exec_streamReadaheadArrival, execStreamReadaheadArrival, hr]
  simp only [hop, hdone, hlatch, hk, dite_true, hstrm, hb, hlive, BEq.rfl, Bool.and_self, Bool.not_true, Bool.false_eq_true, or_self, if_false]
  rw [if_neg (fun e => hidle .stream ((hwait _ (by rfl)).symm.trans e))]
  exact congrArg _ (relaxedWake_idle (fun w e => hidle w ((hwait _ (by rfl)).symm.trans e)))

end Relaxed

theorem relaxedAccessComplete_eq : exec (.relaxedAccessComplete id) s = .next (relaxedWake (countAt (accessDone s id r) r.tid r.counts) r.tid) := by
  rw [exec_relaxedAccessComplete, execRelaxedAccessComplete, hr]

theorem streamWriteAck_eq : exec (.streamWriteAck id) s = .next (relaxedWake (accessDone s id r) r.tid) := by
  rw [exec_streamWriteAck, execStreamWriteAck, hr]

/-- A thread's store through a register window arrives as an access is performed. -/
theorem windowWrite_store {n : Nat} {v : GReg} (hop : r.op = .store n v) : exec (.windowWrite id) s = .next (performAccess s id r) := by
  rw [exec_windowWrite, execWindowWrite, hr]
  simp only [hop]

/-- An engine's write through a register window, and what becomes of its command (log entry 53). -/
theorem windowWrite_engine {bs : List (Nat × Byte)} {w : Writer} {k o tid off : Nat} {ps : List Place} {c : Cmd} (hop : r.op = .window bs w k o)
    (hat : r.at_ = .reg tid off :: ps) (hc : tget k s.cmds = some c) :
    let u := windowWrite { s with reqs := tdel id s.reqs } tid off bs w
    tget k u.cmds = some c ∧ exec (.windowWrite id) s = .next (if (windowTarget s w.ctx tid off).isSome then creditRun u c c.d o bs.length
      else { u with cmds := tset k { c with err := some (.perm, windowAddr tid off) } u.cmds }) := by
  intro u
  have hkept : tget k u.cmds = some c := by rw [← hc]; exact congrArg (tget k) (windowWrite_cmds ..)
  refine ⟨hkept, ?_⟩
  rw [exec_windowWrite, execWindowWrite, hr]
  simp only [hop, hat]
  simp only [u] at hkept ⊢
  simp only [hkept]
  split <;> rfl

end Events

/-! ## A word serves the accesses parked at it (06 R110) -/

theorem feOlder_asymm {a b : Req} (h : feOlder a b = true) : feOlder b a = false := by
  simp only [feOlder, Bool.or_eq_true, Bool.and_eq_true, decide_eq_true_eq, beq_iff_eq, Bool.or_eq_false_iff, Bool.and_eq_false_iff,
    decide_eq_false_iff_not, beq_eq_false_iff_ne] at h ⊢
  omega

theorem feOldest_mem {l : List (Nat × Req)} {z : Nat × Req} (h : feOldest l = some z) : z ∈ l := by
  induction l generalizing z with
  | nil => cases h
  | cons y rest ih =>
    rw [feOldest] at h
    split at h
    · cases h
      exact List.mem_cons_self ..
    · next x hx =>
      split at h
      · cases h
        exact List.mem_cons_self ..
      · cases h
        exact List.mem_cons_of_mem _ (ih hx)

/-- The access that is older than every other is the oldest. -/
theorem feOldest_eq {x : Nat × Req} {l : List (Nat × Req)} (hx : x ∈ l) (h : ∀ q ∈ l, q = x ∨ feOlder x.2 q.2 = true) : feOldest l = some x := by
  induction l with
  | nil => exact absurd hx List.not_mem_nil
  | cons y rest ih =>
    have hrest : ∀ q ∈ rest, q = x ∨ feOlder x.2 q.2 = true := fun q hq => h q (List.mem_cons_of_mem _ hq)
    rw [feOldest]
    by_cases hin : x ∈ rest
    · rw [ih hin hrest]
      rcases h y (List.mem_cons_self ..) with rfl | hy
      · simp only [ite_self]
      · simp only [feOlder_asymm hy, Bool.false_eq_true, if_false]
    · obtain rfl : x = y := (List.mem_cons.mp hx).resolve_right hin
      split
      · rfl
      · next z hz =>
        have hmem : z ∈ rest := feOldest_mem hz
        rcases hrest z hmem with rfl | hold
        · exact absurd hmem hin
        · rw [if_pos hold]

end Sys2Proof.Machine

namespace Sys2Proof.Machine

/-- The table of accesses after each of some has counted a retry. -/
def countRetries (R : List (Nat × Req)) (l : List (Nat × Req)) : List (Nat × Req) :=
  l.foldl (fun R p => tset p.1 { p.2 with retries := p.2.retries + 1 } R) R

theorem tget_countRetries_ne {k : Nat} {l : List (Nat × Req)} (h : ∀ q ∈ l, k ≠ q.1) (R : List (Nat × Req)) :
    tget k (countRetries R l) = tget k R := by
  induction l generalizing R with
  | nil => rfl
  | cons y rest ih =>
    obtain ⟨hy, hrest⟩ := List.forall_mem_cons.mp h
    exact (ih hrest _).trans (tget_tset_ne hy _ R)

theorem tget_countRetries {l : List (Nat × Req)} (hl : l.Pairwise (fun a b => a.1 < b.1)) {q : Nat × Req} (hq : q ∈ l) (R : List (Nat × Req)) :
    tget q.1 (countRetries R l) = some { q.2 with retries := q.2.retries + 1 } := by
  induction l generalizing R with
  | nil => exact absurd hq List.not_mem_nil
  | cons y rest ih =>
    obtain ⟨hy, hrest⟩ := List.pairwise_cons.mp hl
    rcases List.mem_cons.mp hq with rfl | hin
    · exact (tget_countRetries_ne (fun p hp => Nat.ne_of_lt (hy p hp)) _).trans (tget_tset_same ..)
    · exact ih hrest hin _

/-- Accesses below FE_LIMIT that a word does not satisfy only count retries. -/
theorem foldl_feRetry {s : State} {l : List (Nat × Req)} (h : ∀ q ∈ l, ∃ t, getT s q.2.tid = some t ∧ q.2.retries + 1 < t.feLimit.toNat) :
    l.foldl (fun u p => feRetry u p.1 p.2) s = { s with reqs := countRetries s.reqs l } := by
  induction l generalizing s with
  | nil => rfl
  | cons y rest ih =>
    obtain ⟨⟨t, ht, hlow⟩, hrest⟩ := List.forall_mem_cons.mp h
    rw [List.foldl_cons, feRetry_counts ht hlow]
    exact ih hrest

/-- Where nothing is amiss, a word serves the oldest access that it satisfies, after the others have counted their retries. -/
theorem feServe_serves {s : State} {key n : Nat} {x : Nat × Req} (hok : ∀ q ∈ feParked s key, accFault s q.2 = none)
    (hold : feOldest ((feParked s key).filter (fun p => feReady s p.2.op p.2.at_)) = some x) : feServe key (n + 1) s =
    feServe key n (feServeOne (((feParked s key).filter (fun p => !feReady s p.2.op p.2.at_)).foldl (fun u p => feRetry u p.1 p.2) s) x.1 x.2) := by
  have hfaults : ∀ f : State → Nat × Req → State, (∀ u, ∀ q ∈ feParked s key, f u q = u) → (feParked s key).foldl f s = s := fun f hf =>
    List.foldlRecOn (motive := fun u => u = s) _ _ rfl (fun u hu q hq => (hf u q hq).trans hu)
  have hall : (feParked s key).filter (fun p => (accFault s p.2).isNone) = feParked s key :=
    List.filter_eq_self.mpr (fun q hq => by rw [hok q hq]; rfl)
  rw [feServe]
  simp only [hall, hold]
  rw [hfaults]
  intro u q hq
  simp only [hok q hq]

/-- An access that changes the state of a word has its parked accesses served. -/
theorem perform_serves {s : State} {w : Writer} {op : AccOp} {p : Place} (hword : placeKey p % 4 = 0) (hreqs : s.reqs ≠ [])
    (hchange : wordState s (placeKey p) ≠ wordState (applyAcc s w op (placeRun p 4)).1 (placeKey p)) :
    (perform s w op (placeRun p 4)).1 = feServe (placeKey p) ((applyAcc s w op (placeRun p 4)).1.reqs.length + 1) (applyAcc s w op (placeRun p 4)).1 := by
  have hwords : ((placeRun p 4).map (fun p => placeKey p / 4 * 4)).eraseDups = [placeKey p] := by
    have hkey : ∀ j < 4, (placeKey p + j) / 4 * 4 = placeKey p := by omega
    have h0 := hkey 0 (by decide)
    have h1 := hkey 1 (by decide)
    have h2 := hkey 2 (by decide)
    have h3 := hkey 3 (by decide)
    simp only [Nat.add_zero] at h0
    simp [placeRun, placeKey_add, Nat.add_assoc, h0, h1, h2, h3, List.eraseDups_cons]
  have hserve : (perform s w op (placeRun p 4)).1 = serveWords s (applyAcc s w op (placeRun p 4)).1 (placeRun p 4) := by
    unfold perform
    split
    · next h => exact absurd h hreqs
    · rfl
  rw [hserve, serveWords, hwords]
  simp only [List.foldl_cons, List.foldl_nil, beq_iff_eq, if_neg hchange]

/-- The accesses parked at a word stand in the order of their names. -/
theorem feParked_pairwise {s : State} (h : risingFrom 0 s.reqs = true) (key : Nat) : (feParked s key).Pairwise (fun a b => a.1 < b.1) :=
  (pairwise_of_risingFrom h).filter _

theorem feServeOne_reply (s : State) (id : Nat) (r : Req) :
    (s.cycle + ceilDiv r.lat 2, Instr.farAccessReply id) ∈ (feServeOne s id r).agenda :=
  mem_sched.mpr (.inl rfl)

theorem feServeOne_reqs (s : State) (id : Nat) (r : Req) : (feServeOne s id r).reqs =
    tset id { r with performed := true, result := (applyAcc s (threadWriter s r.tid) r.op r.at_).2.1 } s.reqs :=
  congrArg (tset id _) (applyAcc_reqs ..)

/-- What one round of serving a word does: the oldest access that is satisfied is served, and those that are not count a retry. -/
theorem serve_oldest {s : State} {key id : Nat} {r : Req} (hrise : risingFrom 0 s.reqs = true)
    (hok : ∀ q ∈ feParked s key, accFault s q.2 = none)
    (hlow : ∀ q ∈ feParked s key, feReady s q.2.op q.2.at_ = false → ∃ t, getT s q.2.tid = some t ∧ q.2.retries + 1 < t.feLimit.toNat)
    (hin : (id, r) ∈ feParked s key) (hready : feReady s r.op r.at_ = true)
    (hold : ∀ q ∈ feParked s key, feReady s q.2.op q.2.at_ = true → q = (id, r) ∨ feOlder r q.2 = true) (n : Nat) :
    ∃ u v, feServe key (n + 1) s = feServe key n u ∧ tget id u.reqs = some { r with performed := true, result := v } ∧
      (s.cycle + ceilDiv r.lat 2, Instr.farAccessReply id) ∈ u.agenda ∧
      ∀ q ∈ feParked s key, feReady s q.2.op q.2.at_ = false → tget q.1 u.reqs = some { q.2 with retries := q.2.retries + 1 } := by
  have hsorted := feParked_pairwise hrise key
  have hfirst : feOldest ((feParked s key).filter (fun p => feReady s p.2.op p.2.at_)) = some (id, r) :=
    feOldest_eq (List.mem_filter.mpr ⟨hin, hready⟩) (fun q hq => hold q (List.mem_filter.mp hq).1 (List.mem_filter.mp hq).2)
  have hretried := foldl_feRetry (s := s) (l := (feParked s key).filter (fun p => !feReady s p.2.op p.2.at_)) (fun q hq =>
    hlow q (List.mem_filter.mp hq).1 (Bool.not_eq_true' _ |>.mp (List.mem_filter.mp hq).2))
  have hserved := feServe_serves (n := n) hok hfirst
  rw [hretried] at hserved
  refine ⟨_, _, hserved, congrArg (tget id) (feServeOne_reqs ..) |>.trans (tget_tset_same ..), feServeOne_reply .., fun q hq hnot => ?_⟩
  · have hkeys : ((feParked s key).map Prod.fst).Nodup := List.pairwise_map.mpr (hsorted.imp Nat.ne_of_lt)
    have hne : q.1 ≠ id := fun e => by
      obtain rfl : q = (id, r) := List.inj_on_of_nodup_map hkeys hq hin e
      exact absurd hready (by simp [hnot])
    rw [feServeOne_reqs, tget_tset_ne hne]
    exact tget_countRetries (hsorted.filter _) (List.mem_filter.mpr ⟨hq, by rw [hnot]; rfl⟩) s.reqs

end Sys2Proof.Machine

namespace Sys2Proof.Machine

/-- The test that reaches FE_LIMIT faults in its cycle and leaves the words as they are (06 R110). -/
theorem feRetryTick_givesUp {s : State} {id : Nat} {r : Req} {t : Thread} (hr : tget id s.reqs = some r) (ht : getT s r.tid = some t)
    (hlive : r.dropped = false) (hnew : r.performed = false) (hok : accFault s r = none) (hready : feReady s r.op r.at_ = false)
    (hlimit : t.feLimit.toNat ≤ r.retries + 1) :
    let u := takeFault { s with reqs := tdel id s.reqs } r.tid .feRetry r.addr
    exec (.feRetryTick id) s = .next (sched u (s.cycle + 4096) (.feRetryTick id)) ∧ u.mem = s.mem ∧ u.empties = s.empties ∧ u.tags = s.tags := by
  have hframe := takeFault_walkFrame { s with reqs := tdel id s.reqs } r.tid .feRetry r.addr
  have hwords := takeFault_sameWords { s with reqs := tdel id s.reqs } r.tid .feRetry r.addr
  refine ⟨?_, hframe.mem, hwords.empties, hwords.tags⟩
  rw [feRetryTick_retries hr hlive hnew hok hready, feRetry_givesUp ht hlimit]

/-- Settles O12: an event of an access in flight is its row in `Obligations.AccessesAreCarriedOut`, and one round of serving a word
(`serve_oldest`) serves the oldest access that the word satisfies. -/
theorem accessesAreCarriedOut : Obligations.AccessesAreCarriedOut := by
  unfold Obligations.AccessesAreCarriedOut
  refine ⟨fun id s r t hr ht hlive => ⟨fun hnew hok => ?_, fun hnew hreach => access_faults hr hlive hnew (accFault_unreached hreach),
    fun hnew hreach k hreads hpois htag hstream => access_faults hr hlive hnew ?_,
    fun hnew hreach hkind => access_faults hr hlive hnew (accFault_kind hreach hkind), farAccessReply_reply hr ht hlive,
    farAccessReply_fullEmpty hr ht hlive, fun hnew hok hready => ⟨feFirstTest_serves hr hlive hnew hok hready, feRetryTick_serves hr hlive hnew hok hready⟩,
    fun hnew hok hready => ⟨feFirstTest_parks hr hlive hnew hok hready, fun hlow => ?_, feRetryTick_givesUp hr ht hlive hnew hok hready⟩,
    fun n hop => relaxedLoadReply_eq hr ht hlive hop rfl, relaxedAccessComplete_eq hr, fun n v hop hnew hreach => ?_,
    fun bs w k o tid off ps c hop hat hc => windowWrite_engine hr hop hat hc, streamWriteAck_eq hr,
    fun k b w es hop hidle hlatch hk hstrm hb => ⟨t, streamReadaheadArrival_keeps hr ht hlive hop hidle hlatch hk hstrm hb⟩⟩,
    fun s w op p id r => ?_⟩
  · rw [accessPerformed_eq hr, performAccess_performs hnew hok]
    cases r.op <;> rfl
  · rw [accFault_reads hreach htag hstream hreads, hpois]
    rfl
  · rw [feRetryTick_retries hr hlive hnew hok hready, feRetry_counts ht hlow]
  · rw [windowWrite_store hr hop, performAccess_performs hnew (accFault_store hreach hop), hop]
    rfl
  · intro e key parked hword hchange hreqs hrise hok hlow hin hready hold
    have hsome : s.reqs ≠ [] := fun hnil => by
      have hmem : (id, r) ∈ e.1.reqs := (List.mem_filter.mp hin).1
      rw [← hreqs, hnil] at hmem
      exact List.not_mem_nil hmem
    obtain ⟨u, v, hserve, hdone, hreply, hrest⟩ := serve_oldest (hreqs ▸ hrise) hok hlow hin hready hold e.1.reqs.length
    exact ⟨_, u, v, (perform_serves hword hsome hchange).trans hserve, hdone, hreply, hrest⟩

end Sys2Proof.Machine

namespace Sys2Proof.Machine

/-! ## A message in place of a PORT changes registers only (10 R194) -/

theorem Thread.wr_eq (t : Thread) (r : Reg) (v : GReg) : t.wr r v = { t with g := (t.wr r v).g } := by
  unfold Thread.wr
  split <;> rfl

theorem substPort_eq (t : Thread) (rs : List Reg) (v : GReg) : ∃ g, substPort t rs v = { t with g := g } := by
  have key : ∀ (l : List Reg) (w : Thread), (∃ g, w = { t with g := g }) →
      ∃ g, l.foldl (fun u r => if (t.rd r).kind = .port then u.wr r v else u) w = { t with g := g } := by
    intro l
    induction l with
    | nil => exact fun w hw => hw
    | cons r rest ih =>
      rintro w ⟨g, rfl⟩
      rw [List.foldl_cons]
      refine ih _ ?_
      split
      · exact ⟨_, Thread.wr_eq ..⟩
      · exact ⟨g, rfl⟩
  exact key rs t ⟨t.g, rfl⟩

/-- The faults before a PORT's read, found on the thread itself, which differs from the thread as the instruction reads it in registers only. -/
theorem noneBefore_of_registers {s : State} {regs reads : List Reg} {body : Issue → Thread → Except Stop State} {i : Issue} {t : Thread}
    {pop : Option InboxEntry} (h : reading s regs reads = some (i, t, pop))
    (hf : ∀ u, ReadsAs reads u t → (∃ g, t = { u with g := g }) → (∃ r ∈ reads, (u.rd r).kind = .port) →
      faultBefore u reads (body i u) = none) :
    NoneBefore s reads body := by
  intro j u hi hport
  obtain ⟨w, hw, -, ⟨hnone, -⟩ | ⟨r, e, hsome, -, -, -, rfl, -⟩⟩ := reading_cases h <;> cases hi.symm.trans hw
  · exact absurd hnone hport
  · exact hf u (readsAs_substPort reads u e.payload) (substPort_eq u reads e.payload)
      ⟨r, List.mem_of_find?_eq_some hsome, by simpa using List.find?_some hsome⟩

/-- Operands that are all DATA as the instruction reads them: a PORT among them ends the search, and else all are passed over. -/
theorem faultBefore_forM {u t : Thread} {reads rs : List Reg} {f : PUnit → Except Stop State} (hu : ReadsAs reads u t)
    (hk : ∀ r ∈ rs, (t.rd r).kind = .data) (hf : (∀ r ∈ rs, (u.rd r).kind ≠ .port) → faultBefore u reads (f ⟨⟩) = none) :
    faultBefore u reads (rs.forM (fun r => needKind .data r (u.rd r)) >>= f) = none := by
  induction rs with
  | nil => exact hf (by simp)
  | cons r rest ih =>
    simp only [List.forM, bind_assoc]
    refine faultBefore_needKind hu (hk r List.mem_cons_self) (by decide) (fun hr => ?_)
    refine ih (fun q hq => hk q (List.mem_cons_of_mem _ hq)) (fun hrest => hf (fun q hq => ?_))
    rcases List.mem_cons.mp hq with rfl | hq
    · exact hr
    · exact hrest q hq

/-! ## Checks that have passed -/

/-- Registers that all pass the check for DATA hold it. -/
theorem forM_needKind_inv {rs : List Reg} {t : Thread} {x : PUnit} (h : rs.forM (fun r => needKind .data r (t.rd r)) = .ok x) :
    ∀ r ∈ rs, (t.rd r).kind = .data := by
  induction rs with
  | nil => simp
  | cons r rest ih =>
    rw [List.forM] at h
    obtain ⟨_, hr, hrest⟩ := bind_ok_inv h
    intro q hq
    rcases List.mem_cons.mp hq with rfl | hq
    · exact needKind_inv hr
    · exact ih hrest q hq

/-! ## The checks of full/empty instructions (06 R109) -/

/-- What a full/empty instruction checks of its address, before its other operand. -/
def feAddress (s : State) (tid ctx : Nat) (a : Reg) (g : GReg) (op : FewOp) (write : Bool) : Except Stop Access := do
  needKind .cap a g
  let v ← capCheck g.bits ⟨false, !write, write, true, false⟩ (op.off.toInt * 4) 4
  needAlign v 4
  let p ← capPlace s (tid / 16) ctx g.bits v op.am ⟨false, !write, write, true, false⟩
  match p with
  | .ls _ _ => if tagged s p then .error (.fault .kind v) else .ok ⟨p, v, none⟩
  | _ => .error (.fault .perm v)

/-- What it checks of its other operand: DATA to write, or a destination that may be overwritten. -/
def feOperand (t : Thread) (d : Reg) (write : Bool) : Except Stop Unit := if write then needKind .data d (t.rd d) else destOk t d []

theorem feChecks_eq (s : State) (tid : Nat) (t : Thread) (op : FewOp) (d a : Reg) (write : Bool) : feChecks s tid t op d a write =
    (feAddress s tid t.ctx a (t.rd a) op write >>= fun acc => feOperand t d write >>= fun _ => .ok acc) := by
  simp only [feChecks, feAddress, bind_assoc]
  refine bind_congr fun _ => bind_congr fun v => bind_congr fun _ => bind_congr fun p => ?_
  cases p with
  | ls c off =>
    dsimp only
    split
    · rfl
    · cases write <;> rfl
  | _ => rfl

theorem feAddress_inStore {s : State} {tid ctx : Nat} {a : Reg} {g : GReg} {op : FewOp} {write : Bool} {acc : Access}
    (h : feAddress s tid ctx a g op write = .ok acc) : inStore acc.place = true := by
  obtain ⟨-, -, h⟩ := bind_ok_inv h
  obtain ⟨v, -, h⟩ := bind_ok_inv h
  obtain ⟨-, -, h⟩ := bind_ok_inv h
  obtain ⟨p, -, h⟩ := bind_ok_inv h
  cases p with
  | ls c off =>
    dsimp only at h
    split at h <;> cases h
    rfl
  | _ => cases h

section FullEmpty
variable {op : FewOp} {d a : Reg} {s u : State} {i : Issue} {t v : Thread} {pop : Option InboxEntry} {acc : Access} {write : Bool}

theorem feChecks_inStore {tid : Nat} (h : feChecks s tid t op d a write = .ok acc) : inStore acc.place = true := by
  rw [feChecks_eq] at h
  obtain ⟨acc', haddr, h⟩ := bind_ok_inv h
  obtain ⟨-, -, h⟩ := bind_ok_inv h
  cases h
  exact feAddress_inStore haddr

/-- A full/empty instruction whose checks pass answers what it goes on to. -/
theorem issueWith_feChecks {regs reads : List Reg} {f : Issue → Thread → Access → Except Stop State}
    (hreads : reads = if write then [a, d] else [a]) (hr : reading s regs reads = some (i, t, pop))
    (hc : feChecks s i.tid t op d a write = .ok acc) (hf : f i t acc = .ok u) :
    issueWith s regs reads (fun i t => feChecks s i.tid t op d a write >>= f i t) = .next (finish pop i.tid u) := by
  refine issueWith_ok hr (noneBefore_of_registers hr fun w hw ⟨g, heq⟩ hport => ?_) (by rw [hc]; exact hf)
  have hctx : w.ctx = t.ctx := by rw [heq]
  rw [feChecks_eq] at hc
  obtain ⟨acc', haddr, hc⟩ := bind_ok_inv hc
  obtain ⟨_, hoperand, -⟩ := bind_ok_inv hc
  have ha : a ∈ reads := by subst hreads; cases write <;> simp
  by_cases hwa : (w.rd a).kind = .port
  · rw [feChecks_eq, bind_assoc, feAddress, bind_assoc]
    exact faultBefore_port ha hwa (by decide)
  · have hsame : w.rd a = t.rd a := (hw a).elim Eq.symm (fun h => absurd h.2 hwa)
    rw [feChecks_eq, hctx, hsame, haddr, ok_bind]
    cases write with
    | false => exact no_port_left hport (by subst hreads; simpa using hwa)
    | true =>
      have hd : (t.rd d).kind = .data := needKind_inv hoperand
      rw [bind_assoc]
      exact faultBefore_needKind hw hd (by decide) (fun hwd => no_port_left hport (by subst hreads; simp [hwa, hwd]))

theorem exec_sync (hr : reading s [d, a] (if write then [a, d] else [a]) = some (i, t, pop)) (hc : feChecks s i.tid t op d a write = .ok acc)
    (hq : quiet s i.tid = true) (hu : launchFe s i.tid t (if write then .sts ((t.rd d).bits.extractLsb' 0 32) else .lds) acc d.val
      (if op.inc then some a.val else none) = .ok u) : syncAccess op d a write s = .next (finish pop i.tid u) := by
  have hword : BitVec.ofNat 32 (lo64 (t.rd d)) = (t.rd d).bits.extractLsb' 0 32 := by
    apply BitVec.eq_of_toNat_eq
    simp only [BitVec.toNat_ofNat, BitVec.extractLsb'_toNat, lo64]
    omega
  refine issueWith_feChecks rfl hr hc ?_
  simp only [hq, Bool.not_true, Bool.false_eq_true, if_false, hword]
  exact hu

theorem exec_fest_launches (hr : reading s [d, a] [a, d] = some (i, t, pop)) (hc : feChecks s i.tid t op d a true = .ok acc)
    (hu : launchAccess s i.tid t (.fest ((low t d).getLsbD 0)) 4 acc d.val (if op.inc then some a.val else none) false = .ok u) :
    exec (.fest op d a) s = .next (finish pop i.tid u) := by
  have hbit : (lo64 (t.rd d) % 2 == 1) = (low t d).getLsbD 0 := by
    rw [lo64_eq_low, BitVec.getLsbD, Nat.testBit_zero]
    rfl
  rw [exec_fest, execFest]
  refine issueWith_feChecks rfl hr hc ?_
  rw [hbit]
  exact hu

theorem exec_feget_launches (hr : reading s [d, a] [a] = some (i, t, pop)) (hc : feChecks s i.tid t op d a false = .ok acc)
    (hu : launchAccess s i.tid t .feget 4 acc d.val (if op.inc then some a.val else none) false = .ok u) :
    exec (.feget op d a) s = .next (finish pop i.tid u) := by
  rw [exec_feget, execFeget]
  exact issueWith_feChecks rfl hr hc hu

end FullEmpty

/-! ## Full/empty accesses in the core's own store (06 R109) -/

section Near
variable {s : State} {tid : Nat} {a : Access} (h : parkTime (tid / 16) a.place = 0) (t : Thread) (d : Reg) (inc : Option Nat)
include h

/-- LDS on a FULL word leaves it EMPTY. -/
theorem launchFe_lds_near (hfull : isFull s a.place = true) (hn : NoneParked s (placeRun a.place 4)) (hp : poisoned s (placeRun a.place 4) = none) :
    launchFe s tid t .lds a d.val inc = .ok (dropAhead (accessed (heldBank (setFull s (placeKey a.place) false) tid a.place) tid t .lds d inc
      (dataOf (getNat s (placeRun a.place 4))) Counts.zero) tid) := by
  rw [launchFe_near (op := .lds) h hfull (fun _ => hp), perform_none hn]
  rfl

/-- STS on an EMPTY word stores its four bytes. -/
theorem launchFe_sts_near (hempty : isFull s a.place = false) (hn : NoneParked s (placeRun a.place 4)) (w : Word) :
    launchFe s tid t (.sts w) a d.val inc = .ok (accessed (heldBank (applyAcc s (threadWriter s tid) (.sts w) (placeRun a.place 4)).1 tid a.place)
      tid t (.sts w) d inc GReg.zero Counts.zero) := by
  have hready : feReady s (.sts w) (placeRun a.place 4) = true := by
    change (!isFull s a.place) = true
    rw [hempty]
    rfl
  rw [launchFe_near h hready (fun hr => by cases hr), perform_none hn]
  rfl

theorem launchAccess_fest_near (hn : NoneParked s (placeRun a.place 4)) (full : Bool) : launchAccess s tid t (.fest full) 4 a d.val inc false =
    .ok (accessed (heldBank (setFull s (placeKey a.place) full) tid a.place) tid t (.fest full) d inc GReg.zero Counts.zero) := by
  rw [launchAccess_near h (fun hr => by cases hr), perform_none hn]
  rfl

theorem launchAccess_feget_near (hp : poisoned s (placeRun a.place 4) = none) : launchAccess s tid t .feget 4 a d.val inc false =
    .ok (accessed (heldBank s tid a.place) tid t .feget d inc
      (dataOf (getNat s (placeRun a.place 4) + (if isFull s a.place then 2 ^ 32 else 0))) Counts.zero) := by
  rw [launchAccess_near h (fun _ => hp), perform_still rfl]
  rfl

end Near

/-- STS stores what an ordinary store of four bytes of DATA does. -/
theorem applyAcc_sts (s : State) (w : Writer) (v : Word) (ps : List Place) :
    applyAcc s w (.sts v) ps = applyAcc s w (.store 4 ⟨.data, v.setWidth 128⟩) ps := by
  simp only [applyAcc, if_true, BitVec.toNat_setWidth]
  rw [Nat.mod_eq_of_lt (by omega)]

/-- STS leaves its word FULL, with the value. -/
theorem sts_fills {s : State} {p : Place} (hm : MemOk s) (hp : inStore p = true) (w : Writer) (v : Word) :
    isFull (applyAcc s w (.sts v) (placeRun p 4)).1 p = true ∧ getNat (applyAcc s w (.sts v) (placeRun p 4)).1 (placeRun p 4) = v.toNat ∧
    (applyAcc s w (.sts v) (placeRun p 4)).1.threads = s.threads := by
  have hstored := store_data (n := 4) hm hp w (g := ⟨.data, v.setWidth 128⟩) rfl
  rw [← applyAcc_sts] at hstored
  have hword := hstored.value
  rw [if_pos rfl] at hword
  refine ⟨?_, ?_, (storeBytes_spec hm (inMem_of_inStore hp) w 4 v.toNat).2.2⟩
  · have hfirst := (hword 0 (by decide)).1
    cases p <;> exact hfirst
  · rw [getNat_run (inMem_of_inStore hp) 4 _ hstored.bytes, BitVec.toNat_setWidth]
    omega

theorem isFull_congr {s u : State} (h : u.empties = s.empties) (p : Place) : isFull u p = isFull s p := by simp only [isFull, h]

/-! ## LDS, STS, FEST and FEGET (06 R108-R110) -/

section Clauses
variable {op : FewOp} {d a : Reg} {s : State} {i : Issue} {t v : Thread} {pop : Option InboxEntry} {acc : Access}

theorem lds_empties (hr : reading s [d, a] [a] = some (i, t, pop)) (hc : feChecks s i.tid t op d a false = .ok acc) (hq : quiet s i.tid = true)
    (hlat : parkTime (i.tid / 16) acc.place = 0) (hfull : isFull s acc.place = true) (hn : NoneParked s (placeRun acc.place 4))
    (hp : poisoned s (placeRun acc.place 4) = none) :
    ∃ s1, exec (.lds op d a) s = .next (finish pop i.tid (dropAhead (accessed s1 i.tid t .lds d (if op.inc then some a.val else none)
        (dataOf (getNat s (placeRun acc.place 4))) Counts.zero) i.tid)) ∧
      s1.empties = sadd (placeKey acc.place / 4 * 4) s.empties ∧ s1.mem = s.mem ∧ s1.threads = s.threads := by
  obtain ⟨hmem, hthreads, hempties, -⟩ := heldBank_frame (setFull s (placeKey acc.place) false) i.tid acc.place
  refine ⟨_, ?_, hempties, hmem, hthreads⟩
  rw [exec_lds, execLds]
  exact exec_sync hr hc hq (launchFe_lds_near hlat t d _ hfull hn hp)

theorem sts_stores (hr : reading s [d, a] [a, d] = some (i, t, pop)) (hc : feChecks s i.tid t op d a true = .ok acc) (hq : quiet s i.tid = true)
    (hlat : parkTime (i.tid / 16) acc.place = 0) (hempty : isFull s acc.place = false) (hn : NoneParked s (placeRun acc.place 4)) (hm : MemOk s) :
    let w := (t.rd d).bits.extractLsb' 0 32
    ∃ s1, exec (.sts op d a) s = .next (finish pop i.tid (accessed s1 i.tid t (.sts w) d (if op.inc then some a.val else none)
        GReg.zero Counts.zero)) ∧
      isFull s1 acc.place = true ∧ getNat s1 (placeRun acc.place 4) = w.toNat ∧ s1.threads = s.threads := by
  intro w
  have hstore := feChecks_inStore hc
  obtain ⟨hfull, hval, hsame⟩ := sts_fills hm hstore (threadWriter s i.tid) w
  obtain ⟨hmem, hthreads, hempties, -⟩ := heldBank_frame (applyAcc s (threadWriter s i.tid) (.sts w) (placeRun acc.place 4)).1 i.tid acc.place
  refine ⟨_, ?_, (isFull_congr hempties _).trans hfull, (getNat_congr hmem (inMem_of_inStore hstore) 4).trans hval, hthreads.trans hsame⟩
  rw [exec_sts, execSts]
  exact exec_sync hr hc hq (launchFe_sts_near hlat t d _ hempty hn w)

theorem fest_sets (hr : reading s [d, a] [a, d] = some (i, t, pop)) (hc : feChecks s i.tid t op d a true = .ok acc)
    (hlat : parkTime (i.tid / 16) acc.place = 0) (hn : NoneParked s (placeRun acc.place 4)) :
    ∃ s1, exec (.fest op d a) s = .next (finish pop i.tid (accessed s1 i.tid t (.fest ((low t d).getLsbD 0)) d
        (if op.inc then some a.val else none) GReg.zero Counts.zero)) ∧
      (setFull s (placeKey acc.place) ((low t d).getLsbD 0)).empties = s1.empties ∧ s1.mem = s.mem ∧ s1.threads = s.threads := by
  obtain ⟨hmem, hthreads, hempties, -⟩ := heldBank_frame (setFull s (placeKey acc.place) ((low t d).getLsbD 0)) i.tid acc.place
  exact ⟨_, exec_fest_launches hr hc (launchAccess_fest_near hlat t d _ hn _), hempties.symm, hmem, hthreads⟩

theorem feget_reads (hr : reading s [d, a] [a] = some (i, t, pop)) (hc : feChecks s i.tid t op d a false = .ok acc)
    (hlat : parkTime (i.tid / 16) acc.place = 0) (hp : poisoned s (placeRun acc.place 4) = none) :
    ∃ s1, exec (.feget op d a) s = .next (finish pop i.tid (accessed s1 i.tid t .feget d (if op.inc then some a.val else none)
        (dataOf (getNat s (placeRun acc.place 4) + (if isFull s acc.place then 2 ^ 32 else 0))) Counts.zero)) ∧
      s1.mem = s.mem ∧ s1.threads = s.threads := by
  obtain ⟨hmem, hthreads, -⟩ := heldBank_frame s i.tid acc.place
  exact ⟨_, exec_feget_launches hr hc (launchAccess_feget_near hlat t d _ hp), hmem, hthreads⟩

end Clauses

/-! ## Atomics (06 R111-R114) -/

/-- An atomic that passes its checks has DATA operands, and a place in memory. -/
theorem atmPlace_ok {s : State} {tid : Nat} {t : Thread} {a d : Reg} {n : Nat} {am : Bool} {data : List Reg} {acc : Access}
    (h : atmPlace s tid t a n am data d = .ok acc) : inMem acc.place = true ∧ (t.rd a).kind = .cap ∧ (∀ r ∈ data, (t.rd r).kind = .data) ∧
      ∃ v, capCheck (t.rd a).bits Need.rw 0 n = .ok v ∧ needAlign v n = .ok () := by
  obtain ⟨_, hcap, h⟩ := bind_ok_inv h
  obtain ⟨v, hv, h⟩ := bind_ok_inv h
  obtain ⟨_, halign, h⟩ := bind_ok_inv h
  obtain ⟨_, hdata, h⟩ := bind_ok_inv h
  obtain ⟨-, -, h⟩ := bind_ok_inv h
  obtain ⟨p, -, h⟩ := bind_ok_inv h
  refine ⟨?_, needKind_inv hcap, forM_needKind_inv hdata, v, hv, halign⟩
  cases p <;> dsimp only at h
  case ls => split at h <;> cases h; rfl
  case phys => split at h <;> cases h; rfl
  all_goals cases h

/-- The checks of an atomic fault before no PORT operand's read. -/
theorem faultBefore_atmPlace {s : State} {tid : Nat} {t u : Thread} {a d : Reg} {n : Nat} {am : Bool} {data : List Reg} {acc : Access}
    {f : Access → Except Stop State} (h : atmPlace s tid t a n am data d = .ok acc) (hu : ReadsAs (a :: data) u t)
    (hport : ∃ r ∈ a :: data, (u.rd r).kind = .port) : faultBefore u (a :: data) (atmPlace s tid u a n am data d >>= f) = none := by
  obtain ⟨-, hcap, hdata, v, hv, halign⟩ := atmPlace_ok h
  rw [atmPlace, bind_assoc]
  refine faultBefore_needKind hu hcap (by decide) (fun hua => ?_)
  have hsame : u.rd a = t.rd a := (hu a).elim Eq.symm (fun e => absurd e.2 hua)
  rw [hsame, hv, ok_bind, halign, ok_bind, bind_assoc]
  exact faultBefore_forM hu hdata (fun hud => no_port_left hport (by simpa using ⟨hua, hud⟩))

/-- What an atomic does to its word of n bytes: it answers the old value, and stores the new one or, where that is the old one, may leave it. -/
def UpdatesWord (op : AccOp) (n : Nat) (new : Nat → Nat × Counts) : Prop :=
  ∀ s w ps, (applyAcc s w op ps).2 = (dataOf (getNat s ps), (new (getNat s ps)).2) ∧
    ((applyAcc s w op ps).1 = storeBytes s w ps (toBytes n (new (getNat s ps)).1) ∨
      (applyAcc s w op ps).1 = s ∧ (new (getNat s ps)).1 = getNat s ps)

/-- The word after an atomic holds the new value, and nothing else has changed. -/
theorem UpdatesWord.spec {op : AccOp} {n : Nat} {new : Nat → Nat × Counts} (h : UpdatesWord op n new) {s : State} {p : Place} (hm : MemOk s)
    (hp : inMem p = true) (w : Writer) :
    let old := getNat s (placeRun p n)
    let u := (applyAcc s w op (placeRun p n)).1
    getNat u (placeRun p n) = (new old).1 % 2 ^ (8 * n) ∧ u.threads = s.threads ∧
      ∀ k, (k < placeKey p ∨ placeKey p + n ≤ k) → memGet k u.mem = memGet k s.mem := by
  intro old u
  rcases (h s w (placeRun p n)).2 with hstore | ⟨hsame, hold⟩
  · obtain ⟨hbytes, hothers, hthreads⟩ := storeBytes_spec hm hp w n (new old).1
    have hu : u = storeBytes s w (placeRun p n) (toBytes n (new old).1) := hstore
    exact hu ▸ ⟨getNat_run hp n _ hbytes, hthreads, hothers⟩
  · have hu : u = s := hsame
    refine hu ▸ ⟨?_, rfl, fun _ _ => rfl⟩
    rw [hu, hold, Nat.mod_eq_of_lt (getNat_lt s p n)]

theorem updates_atm (op : AtmOp) (n x : Nat) : UpdatesWord (.atm op n x) n (fun old => (atmNew op n old x, Counts.zero)) :=
  fun _ _ _ => ⟨rfl, .inl rfl⟩

theorem updates_cas (n e w : Nat) : UpdatesWord (.cas n e w) n (fun old => (if old = e then w else old, Counts.zero)) := fun s wr ps => by
  refine ⟨rfl, ?_⟩
  by_cases he : getNat s ps = e
  · exact .inl (by simp only [applyAcc, if_pos he])
  · exact .inr ⟨by simp only [applyAcc, if_neg he], if_neg he⟩

theorem updates_atmf (op : AtmfOp) (x : Nat) : UpdatesWord (.atmf op x) 4 (fun old => atmfNew op old x) :=
  fun _ _ _ => ⟨rfl, .inl rfl⟩

/-- An atomic of a word of n bytes is done within its core as the bundle goes on, or leaves it. -/
theorem atomic_access {j : Instr} {op : Thread → AccOp} {n : Nat} {new : Nat → Nat × Counts} {regs data : List Reg} {a d : Reg} {am rx : Bool}
    {s : State} {i : Issue} {t v : Thread} {pop : Option InboxEntry} {acc : Access}
    (hj : exec j s = issueWith s regs (a :: data) (fun i t => atmPlace s i.tid t a n am data d >>= fun acc =>
      launchAccess s i.tid t (op t) n acc d.val none rx))
    (hop : UpdatesWord (op t) n new) (hr : reading s regs (a :: data) = some (i, t, pop))
    (hv : getT s i.tid = some v) (hc : atmPlace s i.tid t a n am data d = .ok acc) :
    let ps := placeRun acc.place n
    let lat := parkTime (i.tid / 16) acc.place
    let old := getNat s ps
    (lat = 0 → NoneParked s ps → MemOk s → poisoned s ps = none →
      ∃ s1, exec j s = .next (finish pop i.tid (accessed s1 i.tid t (op t) d none (dataOf old) (new old).2)) ∧
        getNat s1 ps = (new old).1 % 2 ^ (8 * n) ∧ s1.threads = s.threads ∧
        ∀ k, (k < placeKey acc.place ∨ placeKey acc.place + n ≤ k) → memGet k s1.mem = memGet k s.mem) ∧
    (0 < lat → rx = false → ∃ u, exec j s = .next (finish pop i.tid u) ∧ Leaves s u i.tid (op t) ps lat d false) ∧
    (0 < lat → rx = true → relaxedCount s i.tid < 8 → ∃ u, exec j s = .next (finish pop i.tid u) ∧ Leaves s u i.tid (op t) ps lat d true) := by
  intro ps lat old
  have issues : ∀ {u}, launchAccess s i.tid t (op t) n acc d.val none rx = .ok u → exec j s = .next (finish pop i.tid u) := fun hu => by
    rw [hj]
    exact issueWith_ok hr (noneBefore_of hr fun w hw hport => faultBefore_atmPlace hc hw hport) (by rw [hc]; exact hu)
  have hmem := (atmPlace_ok hc).1
  refine ⟨fun hlat hn hm hp => ?_, fun hfar hrx => ?_, fun hfar hrx hroom => ?_⟩
  · obtain ⟨hval, hthreads, hothers⟩ := hop.spec hm hmem (threadWriter s i.tid)
    obtain ⟨bmem, bthreads, -⟩ := heldBank_frame (applyAcc s (threadWriter s i.tid) (op t) ps).1 i.tid acc.place
    have near := launchAccess_near (t := t) (op := op t) (d := d) (inc := none) (relaxed := rx) hlat (fun _ => hp)
    rw [perform_none hn] at near
    dsimp only at near
    rw [(hop s (threadWriter s i.tid) ps).1] at near
    exact ⟨heldBank (applyAcc s (threadWriter s i.tid) (op t) ps).1 i.tid acc.place, issues near, (getNat_congr bmem hmem n).trans hval,
      bthreads.trans hthreads, fun k hk => bmem ▸ hothers k hk⟩
  · obtain ⟨u, hu, leaves⟩ := launchAccess_far (t := t) (op := op t) (n := n) (d := d) (inc := none) hv hfar
    exact ⟨u, issues (by rw [hrx]; exact hu), leaves⟩
  · obtain ⟨u, hu, leaves⟩ := launchAccess_relaxed (t := t) (op := op t) (n := n) (d := d) (inc := none) hv hfar hroom
    exact ⟨u, issues (by rw [hrx]; exact hu), leaves⟩

theorem low32_eq_low (t : Thread) (r : Reg) : low32 (t.rd r) = (low t r).toNat % 2 ^ 32 := by
  simp only [low32, low, BitVec.toNat_setWidth]
  omega

/-- The new word of ATM, operation by operation. -/
theorem atmNew_eq (op : AtmOp) (n old x : Nat) : atmNew op n old x = (match op with
    | .add => (old + x) % 2 ^ (8 * n) | .and => old &&& x | .or => old ||| x | .xor => old ^^^ x
    | .min => if sextZ (8 * n) old ≤ sextZ (8 * n) x then old else x
    | .max => if sextZ (8 * n) x ≤ sextZ (8 * n) old then old else x
    | .minn => Nat.min old x | .maxn => Nat.max old x | .swap => x) := by
  cases op
  case minn => exact (min_def old x).symm
  case maxn => exact (max_def' old x).symm
  all_goals rfl

/-- Settles O11: LDS, STS, FEST and FEGET each at once, parked or on the way; and the three atomics as updates of their word. -/
theorem synchronisingAccesses : Obligations.SynchronisingAccesses := by
  refine ⟨⟨?_, ?_⟩, ?_, ?_, ?_⟩
  · intro op d a s i t v pop acc hr hv hc ps inc lat
    refine ⟨fun hq hlat hfull hn hp => lds_empties hr hc hq hlat hfull hn hp, fun hq hpark => ?_, fun hlat hp => feget_reads hr hc hlat hp,
      fun hfar => ?_⟩
    · obtain ⟨u, r, hu, hwait, hreq, hop, hat, hdest, hretries, hempties, -⟩ := launchFe_park hv t .lds acc d inc hpark
      exact ⟨u, r, exec_sync hr hc hq hu, hwait, hreq, hop, hat, hdest, hretries, hempties⟩
    · obtain ⟨u, hu, leaves⟩ := launchAccess_far (t := t) (op := .feget) (n := 4) (d := d) (inc := inc) hv hfar
      exact ⟨u, exec_feget_launches hr hc hu, leaves⟩
  · intro op d a s i t v pop acc hr hv hc ps inc lat w
    refine ⟨fun hq hlat hempty hn hm => sts_stores hr hc hq hlat hempty hn hm, fun hq hpark => ?_, fun hlat hn => fest_sets hr hc hlat hn,
      fun hfar => ?_⟩
    · have hnot : ¬ (lat = 0 ∧ feReady s (.sts w) ps = true) := fun e => hpark ⟨e.1, (Bool.not_eq_true' _).mp e.2⟩
      obtain ⟨u, r, hu, hwait, hreq, hop, hat, -, hretries, -, hmem⟩ := launchFe_park hv t (.sts w) acc d inc hnot
      exact ⟨u, r, exec_sync hr hc hq hu, hwait, hreq, hop, hat, hretries, hmem⟩
    · obtain ⟨u, hu, leaves⟩ := launchAccess_far (t := t) (op := .fest ((low t d).getLsbD 0)) (n := 4) (d := d) (inc := inc) hv hfar
      exact ⟨u, exec_fest_launches hr hc hu, leaves⟩
  · intro op f d a b s i t v pop acc hr hv n x hc
    have hop := updates_atm op n x
    simp only [atmNew_eq] at hop
    exact atomic_access (j := .atm op f d a b) (op := fun t => .atm op n ((low t b).toNat % 2 ^ (8 * n)))
      (by simp only [exec_atm, execAtm, lo64_eq_low]; rfl) hop hr hv hc
  · intro f d a b c s i t v pop acc hr hv n e w hc
    exact atomic_access (j := .atmCas f d a b c) (op := fun t => .cas n ((low t b).toNat % 2 ^ (8 * n)) ((low t c).toNat % 2 ^ (8 * n)))
      (by simp only [exec_atmCas, execAtmCas, lo64_eq_low]; rfl) (updates_cas n e w) hr hv hc
  · intro op am rx d a b s i t v pop acc hr hv hc x
    have hop := updates_atmf op x
    simp only [atmfNew] at hop
    exact atomic_access (j := .atmf op am rx d a b) (op := fun t => .atmf op ((low t b).toNat % 2 ^ 32))
      (by simp only [exec_atmf, execAtmf, low32_eq_low]) hop hr hv hc

end Sys2Proof.Machine

namespace Sys2Proof.Machine

/-! ## Selections issue (18 R284, R285, R289-R293) -/

/-- A selection's columns, mask and registers have the shape that its issue asks for (18 R290). -/
structure SelectionFits (s : State) (i : Issue) (t : Thread) (q : Selection) (a b : Reg) : Prop where
  legal : (q.x.kf != .e2m1 && q.x.kf != .s8 && q.d != 0 && decide (q.d.val + 1 < t.nregs) && (q.x.mv || q.x.mr == 0)) = true
  keys : (unpopped s i.tid t a).kind ∈ [Kind.cap, .coc, .tens]
  second : if q.weighted then (unpopped s i.tid t b).kind ∈ [Kind.cap, .coc, .tens] else (t.rd b).kind = .data
  mask : q.x.mv = true → (t.rd q.x.mr).kind = .cap ∧ ∃ w, capCheck (t.rd q.x.mr).bits Need.rd 0 (ceilDiv q.x.n.toNat 8) = .ok w
  dest : Free t q.d
  dest2 : Free t (nextReg q.d)
  count : (decide (1 ≤ q.x.n.toNat) && decide (q.x.n.toNat ≤ 65536)) = true
  prob : (!q.weighted || goodP q.p) = true
  bytes : q.x.n.toNat * (fmtWidth q.x.kf / 8 + (if q.weighted then 4 else 0)) ≤ 524288
  column : needColumn s (i.tid / 256) t a q.x.kf q.x.n.toNat = .ok ()
  weights : q.weighted = true → needColumn s (i.tid / 256) t b (weightFmt q.wn) q.x.n.toNat = .ok ()

/-- A register read for no message is the same before and after the message stands for the PORTs. -/
theorem unpopped_readsAs {s : State} {tid : Nat} {reads : List Reg} {u t : Thread} {r : Reg} (hu : ReadsAs reads u t) (hr : r ∉ reads) :
    unpopped s tid u r = unpopped s tid t r := by
  have hsame : t.rd r = u.rd r := (hu r).resolve_right (fun e => hr e.1)
  simp only [unpopped, hsame]

section Issue
variable {s : State} {i : Issue} {t v : Thread} {pop : Option InboxEntry} {q : Selection} {a b : Reg}

/-- A register that a selection pops is its k or its mask, and no column. -/
theorem mem_popped {r : Reg} (h : r ∈ popped q a b) :
    (q.weighted = false ∧ r = b ∨ q.x.mv = true ∧ r = q.x.mr) ∧ r ≠ a ∧ (q.weighted = true → r ≠ b) := by
  simp only [popped, List.mem_filter, List.mem_append, Bool.and_eq_true, bne_iff_ne, ne_eq, Bool.not_eq_true', Bool.and_eq_false_iff,
    beq_eq_false_iff_ne] at h
  obtain ⟨hmem, hne, hcol⟩ := h
  refine ⟨hmem.imp (fun hb => ?_) (fun hm => ?_), hne, fun hw => hcol.resolve_left (by simp [hw])⟩
  · cases hw : q.weighted <;> simp_all
  · cases hm' : q.x.mv <;> simp_all

/-- Its second column, or k, passes its check; and its mask, and the columns' and the mask's bounds, pass theirs. -/
theorem SelectionFits.second_ok (hq : SelectionFits s i t q a b) (f : Unit → Except Stop State) :
    (if q.weighted = true then needMemory b (unpopped s i.tid t b) >>= f else needKind .data b (t.rd b) >>= f) = f () := by
  have h := hq.second
  by_cases hw : q.weighted = true
  · rw [if_pos hw] at h ⊢
    rw [needMemory, needKinds_ok h, ok_bind]
  · rw [if_neg hw] at h ⊢
    rw [needKind_ok h, ok_bind]

theorem SelectionFits.mask_ok (hq : SelectionFits s i t q a b) (f : Unit → Except Stop State) :
    (if q.x.mv = true then needKind .cap q.x.mr (t.rd q.x.mr) >>= f else Except.ok () >>= f) = f () := by
  by_cases hm : q.x.mv = true
  · rw [if_pos hm, needKind_ok (hq.mask hm).1, ok_bind]
  · rw [if_neg hm, ok_bind]

theorem SelectionFits.weights_ok (hq : SelectionFits s i t q a b) (f : Unit → Except Stop State) :
    (if q.weighted = true then needColumn s (i.tid / 256) t b (weightFmt q.wn) q.x.n.toNat >>= f else Except.ok () >>= f) = f () := by
  by_cases hw : q.weighted = true
  · rw [if_pos hw, hq.weights hw, ok_bind]
  · rw [if_neg hw, ok_bind]

theorem SelectionFits.bounds_ok (hq : SelectionFits s i t q a b) (f : Unit → Except Stop State) :
    (if q.x.mv = true then Except.map (fun _ => ()) (capCheck (t.rd q.x.mr).bits Need.rd 0 (ceilDiv q.x.n.toNat 8)) >>= f
      else Except.ok () >>= f) = f () := by
  by_cases hm : q.x.mv = true
  · obtain ⟨w, hw⟩ := (hq.mask hm).2
    rw [if_pos hm, hw]
    rfl
  · rw [if_neg hm, ok_bind]

/-- The check of a mask that is the last register to be popped. -/
theorem faultBefore_mask {u : Thread} (hu : ReadsAs (popped q a b) u t) (hm : q.x.mv = true → (t.rd q.x.mr).kind = .cap)
    (hb : q.weighted = false → (u.rd b).kind ≠ .port) (hport : ∃ r ∈ popped q a b, (u.rd r).kind = .port) (f : Unit → Except Stop State) :
    faultBefore u (popped q a b) (if q.x.mv = true then needKind .cap q.x.mr (u.rd q.x.mr) >>= f else Except.ok () >>= f) = none := by
  have none_left (hmr : q.x.mv = true → (u.rd q.x.mr).kind ≠ .port) : ∀ r ∈ popped q a b, (u.rd r).kind ≠ .port := fun r hr => by
    rcases (mem_popped hr).1 with ⟨hw, rfl⟩ | ⟨hmv, rfl⟩
    · exact hb hw
    · exact hmr hmv
  by_cases hmv : q.x.mv = true
  · rw [if_pos hmv]
    exact faultBefore_needKind hu (hm hmv) (by decide) (fun hmr => no_port_left hport (none_left fun _ => hmr))
  · exact no_port_left hport (none_left fun h => absurd h hmv)

/-- A selection whose checks pass is in its engine's queue after its bundle's turn. -/
theorem selectIssue_submits (op : Instr) (h : reading s [q.d, nextReg q.d, a, b, q.x.mr] (popped q a b) = some (i, t, pop))
    (hv : getT s i.tid = some v) (hq : SelectionFits s i t q a b) : ∃ u, selectIssue op q a b s = .next (finish pop i.tid u) ∧
      Submitted s u i.tid (newCmd op i.tid t (hawkOf i.tid) (t.rd a) (t.rd b) GReg.zero (if q.x.mv then t.rd q.x.mr else GReg.zero) s.cycle)
        .command := by
  refine ⟨_, ?_, submit_of_tid (by rfl) hv (by rfl) (by rfl) Wait.command⟩
  rw [selectIssue]
  refine issueWith_ok h (noneBefore_of_registers h fun u hu ⟨g, hregs⟩ hport => ?_) ?_
  · have hnregs : u.nregs = t.nregs := by rw [hregs]
    have hkeys : unpopped s i.tid u a = unpopped s i.tid t a := unpopped_readsAs hu fun ha => (mem_popped ha).2.1 rfl
    dsimp only
    rw [hnregs, needLegal_ok u hq.legal, ok_bind, hkeys, needMemory, needKinds_ok hq.keys, ok_bind]
    have hsecond := hq.second
    by_cases hw : q.weighted = true
    · rw [if_pos hw] at hsecond ⊢
      rw [unpopped_readsAs hu fun hb => (mem_popped hb).2.2 hw rfl, needMemory, needKinds_ok hsecond, ok_bind]
      exact faultBefore_mask hu (fun hm => (hq.mask hm).1) (fun hn => absurd hw (by simp [hn])) hport _
    · rw [if_neg hw] at hsecond ⊢
      exact faultBefore_needKind hu hsecond (by decide) (fun hb => faultBefore_mask hu (fun hm => (hq.mask hm).1) (fun _ => hb) hport _)
  · dsimp only
    rw [needLegal_ok t hq.legal, ok_bind, needMemory, needKinds_ok hq.keys, ok_bind, hq.second_ok, hq.mask_ok, destOk_ok hq.dest, ok_bind,
      destOk_ok hq.dest2, ok_bind, needRange_ok _ hq.count, ok_bind, needRange_ok _ hq.prob, ok_bind, needRange_ok _ (decide_eq_true hq.bytes),
      ok_bind, hq.column, ok_bind, hq.weights_ok, hq.bounds_ok]

/-- The fields that a selection may have (18 R290). -/
theorem selection_legal {x : HselX} {d : Reg} {t : Thread} (h1 : x.kf ≠ .e2m1) (h2 : x.kf ≠ .s8) (hd : d ≠ 0) (hn : d.val + 1 < t.nregs)
    (hm : x.mv = true ∨ x.mr = 0) : (x.kf != .e2m1 && x.kf != .s8 && d != 0 && decide (d.val + 1 < t.nregs) && (x.mv || x.mr == 0)) = true := by
  simp only [Bool.and_eq_true, bne_iff_ne, decide_eq_true_eq, Bool.or_eq_true, beq_iff_eq]
  exact ⟨⟨⟨⟨h1, h2⟩, hd⟩, hn⟩, hm⟩

theorem popped_hsel (asc : Bool) (x : HselX) (d : Reg) :
    popped ⟨false, asc, false, 0, x, d⟩ a b = ([b] ++ if x.mv then [x.mr] else []).filter (fun r => r != a) := by
  simp [popped]

theorem popped_hselw (wn : Bool) (x : HselX) (p : Nat) (d : Reg) :
    popped ⟨true, false, wn, p, x, d⟩ a b = (if x.mv then [x.mr] else []).filter (fun r => r != a && r != b) := by
  simp [popped, bne]

/-- A mask operand that is a capability over the mask, or none at all. -/
theorem mask_of_shape {x : HselX} (h : if x.mv = true then
      (t.rd x.mr).kind = .cap ∧ (∃ w, capCheck (t.rd x.mr).bits Need.rd 0 (ceilDiv x.n.toNat 8) = .ok w) else x.mr = 0) :
    (x.mv = true ∨ x.mr = 0) ∧
      (x.mv = true → (t.rd x.mr).kind = .cap ∧ ∃ w, capCheck (t.rd x.mr).bits Need.rd 0 (ceilDiv x.n.toNat 8) = .ok w) := by
  by_cases hm : x.mv = true
  · rw [if_pos hm] at h
    exact ⟨.inl hm, fun _ => h⟩
  · rw [if_neg hm] at h
    exact ⟨.inr h, fun e => absurd e hm⟩

/-- HMASK without a held result answers 1. -/
theorem hmask_nothing_held {d : Reg} (h : reading s [d, a] [a] = some (i, t, pop)) (ha : (t.rd a).kind = .cap) (hd : Free t d)
    (hnone : heldBy s i.tid = none) : exec (.hmask d a) s = .next (finish pop i.tid (result s i.tid d (dataOf 1))) := by
  rw [exec_hmask, execHmask]
  simp only [needKind_eq_kinds]
  refine issueWith_ok h (noneBefore_one h (List.mem_singleton.mpr ha) (by decide)) ?_
  rw [needKinds_ok (List.mem_singleton.mpr ha), ok_bind, destOk_ok hd, ok_bind, hnone]
  rfl

/-- HMASK with a held result joins the engine's queue. -/
theorem hmask_submits {d : Reg} {held : Held} {w : Nat} {ps : List Place} (h : reading s [d, a] [a] = some (i, t, pop)) (hv : getT s i.tid = some v)
    (ha : (t.rd a).kind = .cap) (hd : Free t d) (hheld : heldBy s i.tid = some held)
    (hc : capCheck (t.rd a).bits Need.st 0 (ceilDiv held.n 8) = .ok w)
    (hr : capRun s (i.tid / 16) t.ctx (t.rd a).bits false Need.st (runFuel (ceilDiv held.n 8)) w (ceilDiv held.n 8) = .ok ps)
    (hown : ps.all ownMemory = true) : ∃ u, exec (.hmask d a) s = .next (finish pop i.tid u) ∧
      Submitted s u i.tid (newCmd (.hmask d a) i.tid t (hawkOf i.tid) GReg.zero GReg.zero (t.rd a) GReg.zero s.cycle) .command := by
  refine ⟨_, ?_, submit_of_tid (by rfl) hv (by rfl) (by rfl) Wait.command⟩
  rw [exec_hmask, execHmask]
  simp only [needKind_eq_kinds]
  refine issueWith_ok h (noneBefore_one h (List.mem_singleton.mpr ha) (by decide)) ?_
  rw [needKinds_ok (List.mem_singleton.mpr ha), ok_bind, destOk_ok hd, ok_bind, hheld]
  dsimp only
  rw [hc, ok_bind, hr, ok_bind, if_pos hown]

/-- The planes to pass in the command an engine executes, and nothing where it executes none (18 R293). -/
theorem hstat_reads {d : Reg} (h : reading s [d] [] = some (i, t, none)) (hd : Free t d) :
    let e := engOf s (hawkOf i.tid)
    let plane := match e.exec with
      | some id => ((tget id s.cmds).map (planesLeft s)).getD 0
      | none => 0
    let held := match (clusterSt s (i.tid / 256)).held with
      | some h => if h.tid = i.tid then 2 ^ 32 + h.n else 2 * 2 ^ 32
      | none => 0
    exec (.hstat d) s = .next (result s i.tid d (dataOf (held + min plane 63 * 2 ^ 34 + min e.queue.length 255 * 2 ^ 44))) := by
  intro e plane held
  have hplane : (match e.exec with
      | some id => (match tget id s.cmds with
        | some c => planesLeft s c
        | none => 0)
      | none => 0) = plane := by
    unfold plane
    cases e.exec with
    | none => rfl
    | some id => dsimp only; cases tget id s.cmds <;> rfl
  rw [exec_hstat, execHstat]
  refine issueWith_ok (pop := none) h noneBefore_nil ?_
  rw [destOk_ok hd, ok_bind]
  exact congrArg (fun n => Except.ok (result s i.tid d (dataOf (held + min n 63 * 2 ^ 34 + min e.queue.length 255 * 2 ^ 44)))) hplane

end Issue

/-! ## An engine begins its command by its kind (06 R119; 13 R229, R231, R239; 18 R286) -/

section Start
variable {s : State} {id : Nat} {c : Cmd}

/-- A tile that a command names and that its task does not own. -/
def TileLost (s : State) (c : Cmd) (k : Nat) : Prop := k ∈ tilesNamed c.op ∧ (tileOf s (c.eng / 8) k).owner ≠ some c.owner

theorem lostTile_some (hadds : c.adds = none) (h : ∃ k, TileLost s c k) : ∃ k, TileLost s c k ∧ lostTile s c = some k := by
  obtain ⟨j, hj, hown⟩ := h
  have hsome : ((tilesNamed c.op).find? (fun k => (tileOf s (c.eng / 8) k).owner != some c.owner)).isSome = true :=
    List.find?_isSome.mpr ⟨j, hj, by simpa using hown⟩
  obtain ⟨k, hk⟩ := Option.isSome_iff_exists.mp hsome
  refine ⟨k, ⟨List.mem_of_find?_eq_some hk, by simpa using List.find?_some hk⟩, ?_⟩
  simp only [lostTile, hadds, Option.isSome_none, Bool.false_eq_true, if_false, hk]

theorem lostTile_none (h : c.adds.isSome = true ∨ ∀ k, ¬ TileLost s c k) : lostTile s c = none := by
  unfold lostTile
  split
  · rfl
  · next hadds =>
    have hkept := h.resolve_left hadds
    refine List.find?_eq_none.mpr fun k hk => ?_
    have : (tileOf s (c.eng / 8) k).owner = some c.owner := not_not.mp fun hown => hkept k ⟨hk, hown⟩
    simp [this]

section
variable (hc : tget id s.cmds = some c) (hs : c.phase = .starting)
include hc hs

theorem engineAtStart_matrix (hk : c.eng % 8 = 4) : exec (.engineAtStart id) s = .next (startMatrix s id c) := by
  rw [exec_engineAtStart, execEngineAtStart]
  simp only [hc, hs, ne_eq, not_true_eq_false, if_false, hk, if_true]

theorem engineAtStart_hawk (hk : c.eng % 8 = 5) : exec (.engineAtStart id) s = .next (startHawk s id c) := by
  rw [exec_engineAtStart, execEngineAtStart]
  simp only [hc, hs, ne_eq, not_true_eq_false, if_false, hk, if_true]
  rfl

theorem engineAtStart_copy (hk : c.eng % 8 < 4 ∨ 5 < c.eng % 8) :
    exec (.engineAtStart id) s = .next (if isRing c then startRing s id c else startCopy s id c) := by
  have h4 : c.eng % 8 ≠ 4 := by omega
  have h5 : c.eng % 8 ≠ 5 := by omega
  rw [exec_engineAtStart, execEngineAtStart]
  simp only [hc, hs, ne_eq, not_true_eq_false, if_false, h4, h5]
  split <;> rfl

end

/-- A command whose tile is lost ends its task. -/
theorem startMatrix_lost {k : Nat} (h : lostTile s c = some k) (hop : ∀ x a, c.op ≠ .minit x a) : startMatrix s id c = giveUp s id c 2 .perm k := by
  unfold startMatrix
  rw [h]
  split
  · next hop' => exact absurd hop' (hop _ _)
  · next he _ => cases he; rfl
  · next he => cases he

theorem startMatrix_claims {k : Nat} {x : MinitX} {a : Reg} (h : lostTile s c = some k) (hop : c.op = .minit x a) :
    startMatrix s id c = claimAgain s id c := by
  simp only [startMatrix, h, hop]

theorem startMatrix_kept (h : lostTile s c = none) :
    startMatrix s id c = if c.err.isNone ∧ additionsDue s c then putBack s id c else beginMatrix s id c := by
  simp only [startMatrix, h]

/-- An addition at a peer waits for none, and so begins like a command that owns its tiles and waits for none. -/
theorem startMatrix_begins (h : c.adds.isSome = true ∨ (∀ k, ¬ TileLost s c k) ∧ (c.err.isSome = true ∨ additionsDue s c = false)) :
    startMatrix s id c = beginMatrix s id c := by
  rw [startMatrix_kept (lostTile_none (h.imp_right And.left)), if_neg]
  rintro ⟨herr, hdue⟩
  rcases h with hadds | ⟨-, herr' | hdue'⟩
  · rw [additionsDue, Option.isNone_eq_false_iff.mpr hadds] at hdue
    cases hdue
  · rw [Option.isNone_iff_eq_none.mp herr] at herr'
    cases herr'
  · rw [hdue'] at hdue
    cases hdue

theorem beginMatrix_runs {s1 : State} {data : List Byte} {n mask : Nat} (hop : addFields c.op = none)
    (hm : matStart s c = .ok (s1, data, n, mask)) : beginMatrix s id c = runFor s1 id { c with total := mask } data n := by
  simp only [beginMatrix, hop, hm]

/-- An MDRAINA that has not asked its peer asks it. -/
theorem beginMatrix_asks {x : DrainX} {y : MdrainaX} (hop : addFields c.op = some (x, y)) (hadds : c.adds = none) (hp : c.passed = 0) :
    beginMatrix s id c = sched { s with cmds := tset id { c with phase := .confirming } s.cmds } (s.cycle + fabricTime (c.eng / 8) (peerOf c.a))
      (.mdrainaConfirm id) := by
  have hnot : isAnswered c = false := by simp [isAnswered, hp]
  simp only [beginMatrix, hop, hadds, Option.isSome_none, Bool.false_eq_true, if_false, hnot]

end Start

/-! ## The end of a selection and of HMASK (18 R287, R288, R291, R292) -/

theorem selectionOf_inv {op : Instr} {q : Selection} (h : selectionOf op = some q) :
    (∃ asc x d a b, op = .hsel asc x d a b) ∨ ∃ wn x p d a b, op = .hselw wn x p d a b := by
  unfold selectionOf at h
  split at h
  · exact .inl ⟨_, _, _, _, _, rfl⟩
  · exact .inr ⟨_, _, _, _, _, _, rfl⟩
  · cases h

section Complete
variable {s : State} {id : Nat} {c : Cmd} (hc : tget id s.cmds = some c) (hs : c.phase = .running) (hdue : c.due = s.cycle)
include hc hs hdue

theorem hawkComplete_selection {q : Selection} {r : HawkRun} (hq : selectionOf c.op = some q) (hr : c.run = some r) (hclean : r.poisoned = false) :
    exec (.hawkComplete id) s = .next (finishSelection s id c q r) := by
  rw [exec_hawkComplete, execHawkComplete]
  simp only [hc, hs, hdue, ne_eq, not_true_eq_false, or_self, if_false]
  obtain ⟨_, _, _, _, _, hop⟩ | ⟨_, _, _, _, _, _, hop⟩ := selectionOf_inv hq <;> rw [hop] at hq ⊢ <;>
    simp only [hq, hr, hclean, Bool.false_eq_true, if_false]

theorem hawkComplete_mask {d a : Reg} (hop : c.op = .hmask d a) : exec (.hawkComplete id) s = .next (finishMask s id c d) := by
  rw [exec_hawkComplete, execHawkComplete]
  simp only [hc, hs, hdue, ne_eq, not_true_eq_false, or_self, if_false, hop]

end Complete

/-- A selection that its thread waits for holds its survivors with .HOLD, frees its engine and goes on with its value and counts. -/
theorem finishSelection_live {s : State} {id : Nat} {c : Cmd} {q : Selection} {r : HawkRun} (hw : waitOf s c.tid = some (.command id)) :
    let v := selected q (passes q r.planes r)
    let k := clusterSt s (c.eng / 8)
    let s1 := if q.x.hold then setCluster s (c.eng / 8) { k with held := some ⟨c.tid, c.owner, q.x.n.toNat, v.2.2, false⟩ } else s
    finishSelection s id c q r = retirePast (countAt (setReg (setReg (endCmd s1 id false) c.tid q.d v.1) c.tid (nextReg q.d) v.2.1) c.tid c.counts)
      c.tid := by
  have hlive : (waitOf s c.tid == some (.command id)) = true := by simp [hw]
  simp only [finishSelection, hlive, Bool.and_true, if_true]

/-- Settles O32: selections and HMASK submit, HSTAT reads, an engine's start is told apart by its kind and by what its command names, and
HAWK_COMPLETE ends a selection or writes a mask. -/
theorem selections : Obligations.Selections := by
  refine ⟨?_, ?_⟩
  · intro s i t v pop hv cl shape queued memory
    refine ⟨?_, ?_, ?_, ?_⟩
    · intro asc x d a b hr hx ha hb hbytes hcol
      obtain ⟨h1, h2, hd0, hd1, hd, hd', n1, n2, hm⟩ := hx
      obtain ⟨hmr, hmask⟩ := mask_of_shape hm
      rw [← popped_hsel (asc := asc) (d := d)] at hr
      exact selectIssue_submits _ hr hv ⟨selection_legal h1 h2 hd0 hd1 hmr, ha, hb, hmask, hd, hd', by simp [n1, n2], rfl, hbytes, hcol, nofun⟩
    · intro wn x p d a b hr hx ha hb hp0 hp1 hbytes hcol hwts
      obtain ⟨h1, h2, hd0, hd1, hd, hd', n1, n2, hm⟩ := hx
      obtain ⟨hmr, hmask⟩ := mask_of_shape hm
      rw [← popped_hselw (wn := wn) (p := p.toNat) (d := d)] at hr
      exact selectIssue_submits _ hr hv ⟨selection_legal h1 h2 hd0 hd1 hmr, ha, hb, hmask, hd, hd', by simp [n1, n2], by simp [goodP, hp0, hp1],
        hbytes, hcol, fun _ => hwts⟩
    · intro d a hr ha hd
      exact ⟨hmask_nothing_held hr ha hd, fun h w ps hheld hc hrun hown => hmask_submits hr hv ha hd hheld hc hrun hown⟩
    · intro d hr hd
      exact hstat_reads hr hd
  · intro id s c hc
    refine ⟨fun hs => ⟨fun hk => ?_, engineAtStart_hawk hc hs, engineAtStart_copy hc hs⟩, fun hs hdue => ⟨?_, ?_⟩⟩
    · rw [engineAtStart_matrix hc hs hk]
      intro lost begins
      refine ⟨fun hadds hlost hop => ?_, fun hadds hlost x a hop => ?_, fun hadds hkept herr hdue => ?_, fun hb hop s1 data n mask hm => ?_,
        fun hb x y hop hadds hp => ?_⟩
      · obtain ⟨k, hk, hfirst⟩ := lostTile_some hadds hlost
        exact ⟨k, hk, by rw [startMatrix_lost hfirst hop]⟩
      · obtain ⟨k, -, hfirst⟩ := lostTile_some hadds hlost
        rw [startMatrix_claims hfirst hop]
      · rw [startMatrix_kept (lostTile_none (.inr hkept)), if_pos ⟨by rw [herr]; rfl, hdue⟩]
      · rw [startMatrix_begins hb, beginMatrix_runs hop hm]
      · rw [startMatrix_begins hb, beginMatrix_asks hop hadds hp]
    · intro q r hq hr hw hclean v k s1
      rw [hawkComplete_selection hc hs hdue hq hr hclean, finishSelection_live hw]
    · intro d a hop
      exact hawkComplete_mask hc hs hdue hop

end Sys2Proof.Machine

namespace Sys2Proof.Machine

/-! ## Scalar float, conversion and image instructions (07 R131-R138) -/

section Float
variable {d a b c : Reg} {s : State} {i : Issue} {t : Thread} {pop : Option InboxEntry}

/-- An operand taken as F32 is the low 32 bits of its register (07 R131). -/
theorem low32_eq_extractLsb (g : GReg) : low32 g = (g.bits.extractLsb' 0 32).toNat := by
  rw [BitVec.extractLsb'_toNat, Nat.shiftRight_zero]
  rfl

theorem f32Of_eq_extractLsb (g : GReg) : f32Of g = decodeF f32L (g.bits.extractLsb' 0 32).toNat := congrArg (decodeF f32L) (low32_eq_extractLsb g)

theorem floatBinary_result (f : Thread → Nat → Nat → Nat × Counts) (h : reading s [d, a, b] [a, b] = some (i, t, pop)) (ha : IsData t a)
    (hb : IsData t b) (hd : Free t d) : floatBinary f d a b s = .next (finish pop i.tid (countAt
      (result s i.tid d (dataOf (f t (low32 (t.rd a)) (low32 (t.rd b))).1)) i.tid (f t (low32 (t.rd a)) (low32 (t.rd b))).2)) := by
  rw [floatBinary]
  simp only [needKind_eq_kinds]
  refine issueWith_ok h (noneBefore_two h ha.mem hb.mem (by decide) (by decide)) ?_
  rw [needKinds_ok ha.mem, needKinds_ok hb.mem]
  simp only [ok_bind, destOk_ok hd]
  rfl

theorem floatUnary_result (f : Thread → Nat → Nat × Counts) (h : reading s [d, a] [a] = some (i, t, pop)) (ha : IsData t a) (hd : Free t d) :
    floatUnary f d a s = .next (finish pop i.tid (countAt
      (result s i.tid d (dataOf (f t (low32 (t.rd a))).1)) i.tid (f t (low32 (t.rd a))).2)) := by
  rw [floatUnary]
  simp only [needKind_eq_kinds]
  refine issueWith_ok h (noneBefore_one h ha.mem (by decide)) ?_
  rw [needKinds_ok ha.mem]
  simp only [ok_bind, destOk_ok hd]
  rfl

theorem imageInstr_result (f : Nat → Nat) (h : reading s [d, a] [a] = some (i, t, pop)) (ha : IsData t a) (hd : Free t d) :
    imageInstr f d a s = .next (finish pop i.tid (result s i.tid d (dataOf (f (t.rd a).bits.toNat)))) := by
  rw [imageInstr]
  simp only [needKind_eq_kinds]
  refine issueWith_ok h (noneBefore_one h ha.mem (by decide)) ?_
  rw [needKinds_ok ha.mem]
  simp only [ok_bind, destOk_ok hd]
  rfl

theorem ffma_result (rm : Rm) (h : reading s [d, a, b, c] [a, b, c] = some (i, t, pop)) (ha : IsData t a) (hb : IsData t b) (hc : IsData t c)
    (hd : Free t d) : exec (.ffma rm d a b c) s = .next (finish pop i.tid (countAt
      (result s i.tid d (dataOf (fmaF f32L (rmMode rm t.rmode) (f32Of (t.rd a)) (f32Of (t.rd b)) (f32Of (t.rd c))).1)) i.tid
      (fmaF f32L (rmMode rm t.rmode) (f32Of (t.rd a)) (f32Of (t.rd b)) (f32Of (t.rd c))).2)) := by
  rw [exec_ffma, execFfma]
  simp only [needKind_eq_kinds]
  refine issueWith_ok h (noneBefore_three h ha.mem hb.mem hc.mem (by decide) (by decide) (by decide)) ?_
  rw [needKinds_ok ha.mem, needKinds_ok hb.mem, needKinds_ok hc.mem]
  simp only [ok_bind, destOk_ok hd]
  rfl

/-- FCLASS counts nothing. -/
theorem fclass_result (h : reading s [d, a] [a] = some (i, t, pop)) (ha : IsData t a) (hd : Free t d) :
    exec (.fclass d a) s = .next (finish pop i.tid (result s i.tid d (dataOf (2 ^ classBit (low32 (t.rd a)))))) := by
  rw [exec_fclass, execFclass, floatUnary_result _ h ha hd, countAt_zero]

theorem cvt_result (rm : Rm) (src dst : Fmt) (h : reading s [d, a] [a] = some (i, t, pop)) (ha : IsData t a) (hd : Free t d) :
    exec (.cvt rm src dst d a) s = .next (finish pop i.tid (amaxAll (countAt
      (result s i.tid d (resultData dst (convert dst (rmMode rm t.rmode) (valueOf src (t.rd a).bits.toNat)).1)) i.tid
      (convert dst (rmMode rm t.rmode) (valueOf src (t.rd a).bits.toNat)).2) i.tid [valueOf src (t.rd a).bits.toNat])) := by
  rw [exec_cvt, execCvt]
  simp only [needKind_eq_kinds]
  refine issueWith_ok h (noneBefore_one h ha.mem (by decide)) ?_
  rw [needKinds_ok ha.mem]
  simp only [ok_bind, destOk_ok hd]
  rfl

end Float

/-! ## Rounding to an integer (07 R123) -/

section Rounding
variable (neg : Bool) (m sh : Nat)

/-- A quotient rounded up is the one above, unless it is exact. -/
theorem add_pred_div {u : Nat} (hu : 0 < u) : (m + u - 1) / u = if m % u = 0 then m / u else m / u + 1 := by
  have hdecomp := Nat.div_add_mod' m u
  have hrem := Nat.mod_lt m hu
  split
  · rw [Nat.div_eq_iff hu]
    omega
  · rw [Nat.div_eq_iff hu, Nat.add_one_mul]
    omega

theorem roundShift_exact {neg : Bool} {m sh : Nat} (md : RMode) (h : m % 2 ^ sh = 0) : roundShift md neg m sh = m / 2 ^ sh := if_pos h

theorem roundShift_rz : roundShift .rz neg m sh = m / 2 ^ sh := ite_self _

theorem roundShift_rd : roundShift .rd neg m sh = if neg then (m + 2 ^ sh - 1) / 2 ^ sh else m / 2 ^ sh := by
  rw [add_pred_div m (Nat.two_pow_pos sh)]
  cases neg
  · exact ite_self _
  · rfl

theorem roundShift_ru : roundShift .ru neg m sh = if neg then m / 2 ^ sh else (m + 2 ^ sh - 1) / 2 ^ sh := by
  rw [add_pred_div m (Nat.two_pow_pos sh)]
  cases neg
  · rfl
  · exact ite_self _

/-- An exact quotient needs no case of its own in RNE: its remainder is below half-way. -/
theorem roundShift_rne : roundShift .rne neg m sh = if 2 * (m % 2 ^ sh) > 2 ^ sh then m / 2 ^ sh + 1
    else if 2 * (m % 2 ^ sh) = 2 ^ sh then m / 2 ^ sh + m / 2 ^ sh % 2 else m / 2 ^ sh := by
  have hpos := Nat.two_pow_pos sh
  by_cases hexact : m % 2 ^ sh = 0
  · rw [roundShift_exact _ hexact, if_neg (by omega), if_neg (by omega)]
  · exact if_neg hexact

theorem roundShift_rne_nearest :
    2 * (roundShift .rne neg m sh * 2 ^ sh) ≤ 2 * m + 2 ^ sh ∧ 2 * m ≤ 2 * (roundShift .rne neg m sh * 2 ^ sh) + 2 ^ sh := by
  have hdecomp := Nat.div_add_mod' m (2 ^ sh)
  have hrem := Nat.mod_lt m (Nat.two_pow_pos sh)
  rw [roundShift_rne]
  split
  · rw [Nat.add_one_mul (m / 2 ^ sh)]
    omega
  · split
    · rcases Nat.mod_two_eq_zero_or_one (m / 2 ^ sh) with heven | hodd
      · rw [heven, Nat.add_zero]
        omega
      · rw [hodd, Nat.add_one_mul (m / 2 ^ sh)]
        omega
    · omega

theorem roundShift_rne_even {neg : Bool} {m sh : Nat} (h : 2 * (m % 2 ^ sh) = 2 ^ sh) : roundShift .rne neg m sh % 2 = 0 := by
  rw [roundShift_rne, if_neg (by omega), if_pos h]
  omega

end Rounding

/-! ## The monotone integer image of the integer formats (07 R130) -/

section Images
variable {f : Fmt} {x y : Nat}

theorem two_pow_widthOf (f : Fmt) : 2 ^ widthOf f = 2 * 2 ^ (widthOf f - 1) := by cases f <;> rfl

theorem layoutOf_of_isI (hf : isI f = true) : layoutOf f = none := by cases f <;> simp_all [isI, layoutOf]

theorem layoutOf_of_isN (hf : isN f = true) : layoutOf f = none := by cases f <;> simp_all [isN, layoutOf]

/-- IMG of an integer format is its own inverse: it turns over the top bit of a signed pattern and keeps an unsigned one. -/
theorem imageInv_eq_image (hf : layoutOf f = none) (x : Nat) : imageInv f x = image f x := by
  simp only [imageInv, image, hf]

theorem image_of_isI (hf : isI f = true) (hx : x < 2 ^ widthOf f) :
    image f x = if x < 2 ^ (widthOf f - 1) then x + 2 ^ (widthOf f - 1) else x - 2 ^ (widthOf f - 1) := by
  simp only [image, layoutOf_of_isI hf, hf, if_true, Nat.mod_eq_of_lt hx]

theorem image_of_isN (hf : isN f = true) (hx : x < 2 ^ widthOf f) : image f x = x := by
  have hunsigned : isI f = false := by cases f <;> simp_all [isI, isN]
  simp only [image, layoutOf_of_isN hf, hunsigned, Bool.false_eq_true, if_false, Nat.mod_eq_of_lt hx]

theorem imageInv_image_of_isI (hf : isI f = true) (hx : x < 2 ^ widthOf f) : imageInv f (image f x) = x := by
  have htop := two_pow_widthOf f
  have hlt : image f x < 2 ^ widthOf f := by
    rw [image_of_isI hf hx]
    split <;> omega
  rw [imageInv_eq_image (layoutOf_of_isI hf), image_of_isI hf hlt, image_of_isI hf hx]
  split
  · rw [if_neg (by omega), Nat.add_sub_cancel]
  · rw [if_pos (by omega), Nat.sub_add_cancel (by omega)]

theorem imageInv_image_of_isN (hf : isN f = true) (hx : x < 2 ^ widthOf f) : imageInv f (image f x) = x := by
  rw [imageInv_eq_image (layoutOf_of_isN hf), image_of_isN hf hx, image_of_isN hf hx]

/-- The number that a signed pattern stands for is its image less the top bit. -/
theorem sextZ_eq_image_sub (hf : isI f = true) (hx : x < 2 ^ widthOf f) :
    sextZ (widthOf f) x = (image f x : Int) - (2 ^ (widthOf f - 1) : Nat) := by
  have htop := two_pow_widthOf f
  rw [image_of_isI hf hx, sextZ, Nat.mod_eq_of_lt hx]
  split <;> omega

theorem sextZ_lt_iff_image_lt (hf : isI f = true) (hx : x < 2 ^ widthOf f) (hy : y < 2 ^ widthOf f) :
    sextZ (widthOf f) x < sextZ (widthOf f) y ↔ image f x < image f y := by
  rw [sextZ_eq_image_sub hf hx, sextZ_eq_image_sub hf hy]
  omega

end Images

/-- Settles O8: the instructions are four shapes over functions of numbers, rounding is division with its remainder compared, and the image
of an I format is its number moved up by the top bit. -/
theorem floatResults : Obligations.FloatResults := by
  refine ⟨⟨fun rm p d a b s i t pop h ha hb hd => ?_, fun rm d a b c s i t pop h ha hb hc hd => ?_,
    fun rm src dst f d a s i t pop h ha hd => ?_⟩, fun neg m sh => ?_, ?_, ?_⟩
  · intro md x y gives
    have binary := fun (f : Thread → Nat → Nat → Nat × Counts) => floatBinary_result f h ha hb hd
    simp only [low32_eq_extractLsb] at binary
    exact ⟨(exec_fadd ..).trans (binary _), (exec_fsub ..).trans (binary _), (exec_fmul ..).trans (binary _), (exec_fdiv ..).trans (binary _),
      (exec_fmin ..).trans (binary _), (exec_fmax ..).trans (binary _), (exec_fcmp ..).trans (binary _)⟩
  · intro v r
    rw [ffma_result rm h ha hb hc hd, f32Of_eq_extractLsb, f32Of_eq_extractLsb, f32Of_eq_extractLsb]
  · exact ⟨(exec_fsqrt ..).trans (floatUnary_result _ h ha hd), fclass_result h ha hd, cvt_result rm src dst h ha hd,
      (exec_img ..).trans (imageInstr_result _ h ha hd), (exec_imgi ..).trans (imageInstr_result _ h ha hd)⟩
  · exact ⟨roundShift_rne_nearest neg m sh, roundShift_rne_even, roundShift_rz neg m sh, roundShift_rd neg m sh, roundShift_ru neg m sh,
      fun md h => by rw [roundShift_exact md h]; exact Nat.div_mul_cancel (Nat.dvd_of_mod_eq_zero h)⟩
  · have integer : ∀ f ∈ [Fmt.i8, .i16, .i32, .i64, .n8, .n16, .n32, .n64], isI f = true ∨ isN f = true := by decide
    exact fun f hf x hx => (integer f hf).elim (fun h => imageInv_image_of_isI h hx) (fun h => imageInv_image_of_isN h hx)
  · have signed : ∀ f ∈ [Fmt.i8, .i16, .i32, .i64], isI f = true := by decide
    exact fun f hf x hx y hy => sextZ_lt_iff_image_lt (signed f hf) hx hy

end Sys2Proof.Machine

namespace Sys2Proof.Machine

/-! ## Pending collectives (09 R169) -/

section Pending
variable {s u v : State} {core g : Nat} {x : Coll}

theorem pendingColl_putColl (s : State) (core : Nat) (x : Coll) : pendingColl (putColl s core x) core x.g = some x := by
  have hothers : ((coreSt s core).colls.filter (fun y => y.g != x.g)).find? (fun c => c.g == x.g) = none := by simp
  rw [pendingColl, putColl, coreSt_setCore_same, List.find?_append, hothers, Option.none_or, List.find?_singleton, beq_self_eq_true, if_pos rfl]

theorem pendingColl_dropColl (s : State) (core g : Nat) : pendingColl (dropColl s core g) core g = none := by
  simp [pendingColl, dropColl]

/-- Every core's pending collectives are the same. -/
structure SameColls (s u : State) : Prop where
  colls : ∀ k, (coreSt u k).colls = (coreSt s k).colls

theorem SameColls.trans (a : SameColls s u) (b : SameColls u v) : SameColls s v := ⟨fun k => (b.colls k).trans (a.colls k)⟩

theorem SameColls.of_cores (h : u.cores = s.cores) : SameColls s u := ⟨fun k => by rw [coreSt, h, coreSt]⟩

theorem SameColls.pendingColl (h : SameColls s u) (core g : Nat) : pendingColl u core g = pendingColl s core g := by
  rw [Machine.pendingColl, h.colls core, Machine.pendingColl]

theorem setCore_sameColls {k : Nat} {c : CoreSt} (h : c.colls = (coreSt s k).colls) : SameColls s (setCore s k c) := by
  refine ⟨fun j => ?_⟩
  by_cases hj : j = k
  · rw [hj, coreSt_setCore_same, h]
  · rw [coreSt_setCore_ne s hj]

theorem foldl_sameColls {α : Type} {f : State → α → State} (h : ∀ u x, SameColls u (f u x)) (l : List α) (s : State) :
    SameColls s (l.foldl f s) := by
  induction l generalizing s with
  | nil => exact .of_cores rfl
  | cons x rest ih => exact (h s x).trans (ih _)

theorem addEvc_sameColls (s : State) (k : Nat) (incs : List Nat) : SameColls s (addEvc s k incs) := setCore_sameColls rfl

theorem count_sameColls (s : State) (k : Nat) (c : Counts) : SameColls s (count s k c) := by
  unfold count
  split
  · exact .of_cores rfl
  · exact addEvc_sameColls ..

theorem countParked_sameColls (s : State) (tid : Nat) (t : Thread) : SameColls s (countParked s tid t) := by
  unfold countParked
  split
  · exact .of_cores rfl
  · exact addEvc_sameColls ..

theorem popPort_sameColls (s : State) (tid : Nat) (e : InboxEntry) : SameColls s (popPort s tid e) := by
  have holder : ∀ u, SameColls u (if e.payload.kind = .coc then setHolder u tid e.payload.bits else u) := by
    intro u
    unfold setHolder setHlt
    split
    · dsimp only
      split <;> exact .of_cores rfl
    · exact .of_cores rfl
  have pin : ∀ u, SameColls u (if e.payload.kind = .tens then sched u s.cycle (.pinDrop e.ctx (e.payload.bits.toNat % 2 ^ 20)) else u) := by
    intro u
    split <;> exact .of_cores rfl
  have ahead : ∀ u, SameColls u (dropAhead u tid) := by
    intro u
    unfold dropAhead
    split <;> exact .of_cores rfl
  have taken : SameColls s (setCore s (tid / 16) { coreSt s (tid / 16) with
      inbox := (coreSt s (tid / 16)).inbox.erase e
      nextOut := if isOverflow s tid then (coreSt s (tid / 16)).nextOut
        else setNth (nth 0 (tid % 16) (coreSt s (tid / 16)).nextOut + 1) (tid % 16) (coreSt s (tid / 16)).nextOut }) := setCore_sameColls rfl
  have woken : ∀ u, SameColls u (sched u s.cycle (.messageReoffer (tid / 16) (tid % 16))) := fun u => .of_cores rfl
  exact taken.trans ((holder _).trans ((pin _).trans ((ahead _).trans (woken _))))

theorem retirePast_sameColls (s : State) (tid : Nat) : SameColls s (retirePast s tid) := by
  have pop : ∀ u, SameColls u (popRetiring u tid) := by
    intro u
    unfold popRetiring
    split
    · exact .of_cores rfl
    · split
      · exact SameColls.trans (u := setT u tid _) (.of_cores rfl) (popPort_sameColls ..)
      · exact .of_cores rfl
  refine SameColls.trans (.of_cores (advance_cores s tid)) ((pop _).trans ?_)
  unfold retirePast retire
  dsimp only
  split
  · exact .of_cores rfl
  · exact SameColls.trans (u := setT _ tid _) (.of_cores rfl) (countParked_sameColls ..)

theorem finishMember_sameColls (s : State) (core : Nat) (e : CollEntry) (v : Nat) : SameColls s (finishMember s core e v) := by
  have written : SameColls s (if h : e.d < 32 then setReg s (core * 16 + e.slot) ⟨e.d, h⟩ (dataOf v) else s) := by
    split
    · exact .of_cores (setReg_cores ..)
    · exact .of_cores rfl
  unfold finishMember
  dsimp only
  split
  · exact .of_cores rfl
  · split
    · exact written.trans (.of_cores (advance_cores ..))
    · exact written.trans (retirePast_sameColls ..)

/-- A collective that has finished is pending no more: no member's retirement brings it back. -/
theorem pendingColl_finishColl (s : State) (core : Nat) (c : Coll) : pendingColl (finishColl s core c) core c.g = none := by
  have members := foldl_sameColls (f := fun u (p : CollEntry × Nat) => finishMember u core p.1 p.2) (fun u p => finishMember_sameColls u core p.1 p.2)
  have freed : SameColls (dropColl s core c.g) (finishColl s core c) :=
    (count_sameColls _ core _).trans ((members _ _).trans (.of_cores rfl))
  rw [freed.pendingColl, pendingColl_dropColl]

end Pending

/-! ## A member issues a collective (09 R169) -/

/-- A thread's issue of a collective is the last: the thread is a member of the group, this collective of the group is pending with the entries
of those that have issued, or none has issued and none is pending, and with the thread's own entry no member is missing (09 R169). -/
structure LastIssues (s : State) (i : Issue) (t : Thread) (g : Fin 16) (sel : Instr) (e : CollEntry) (prior : List CollEntry) : Prop where
  member : t.groups.getLsbD g.val = true
  pending : pendingColl s (i.tid / 16) g.val = some ⟨g.val, sel, prior, false⟩ ∨ (prior = [] ∧ pendingColl s (i.tid / 16) g.val = none)
  issued : ∀ k ∈ members s (i.tid / 16) g, ∃ x ∈ insertEntry e prior, x.slot = k

/-- A group's collective with the entries of those that have issued and of a thread that issues it now. -/
abbrev issuedColl (g : Fin 16) (sel : Instr) (e : CollEntry) (prior : List CollEntry) : Coll := ⟨g.val, sel, insertEntry e prior, false⟩

theorem insertEntry_ne_nil (e : CollEntry) (l : List CollEntry) : insertEntry e l ≠ [] := by
  cases l with
  | nil => exact List.cons_ne_nil _ _
  | cons x rest =>
    unfold insertEntry
    split <;> exact List.cons_ne_nil _ _

section Issues
variable {s : State} {i : Issue} {t : Thread} {g : Fin 16} {sel : Instr} {e : CollEntry} {prior : List CollEntry}

theorem tryComplete_none {core : Nat} (h : pendingColl s core g.val = none) : tryComplete s core g = s := by
  rw [tryComplete, h]

/-- A pending collective that every member has issued completes. -/
theorem tryComplete_all {core : Nat} {c : Coll} (h : pendingColl s core g.val = some c) (hrows : c.rowsComing = false) (hne : c.entries ≠ [])
    (hall : ∀ k ∈ members s core g, ∃ x ∈ c.entries, x.slot = k) : tryComplete s core g = completeColl s core c := by
  simp only [tryComplete, h, hrows, Bool.false_eq_true, if_false]
  refine if_pos ?_
  simpa [hne] using hall

/-- The collective that a member's issue leaves pending completes at once if the member is the last. -/
theorem joinColl_last (h : LastIssues s i t g sel e prior) : joinColl s i t g sel e =
    let u := completeColl (putColl s (i.tid / 16) (issuedColl g sel e prior)) (i.tid / 16) (issuedColl g sel e prior)
    if (pendingColl u (i.tid / 16) g.val).isSome then .ok (parkAs u i.tid (.collective g.val)) else .ok u := by
  obtain ⟨hmember, hpending, hissued⟩ := h
  have completes : tryComplete (putColl s (i.tid / 16) (issuedColl g sel e prior)) (i.tid / 16) g = _ :=
    tryComplete_all (pendingColl_putColl s (i.tid / 16) (issuedColl g sel e prior)) rfl (insertEntry_ne_nil e prior) hissued
  rw [← completes]
  rcases hpending with hsome | ⟨rfl, hnone⟩
  · simp only [joinColl, hmember, hsome, Bool.not_true, Bool.false_eq_true, if_false, ne_eq, not_true_eq_false]
  · simp only [joinColl, hmember, hnone, Bool.not_true, Bool.false_eq_true, if_false]
    rfl

/-- Where completing is finishing, the last issue answers every member. -/
theorem joinColl_answers (h : LastIssues s i t g sel e prior) (hcomplete :
    completeColl (putColl s (i.tid / 16) (issuedColl g sel e prior)) (i.tid / 16) (issuedColl g sel e prior) =
      finishColl (putColl s (i.tid / 16) (issuedColl g sel e prior)) (i.tid / 16) (issuedColl g sel e prior)) :
    joinColl s i t g sel e = .ok (answered s (i.tid / 16) (issuedColl g sel e prior) (collResults s (issuedColl g sel e prior)).1
      (collResults s (issuedColl g sel e prior)).2) := by
  have hfree := pendingColl_finishColl (putColl s (i.tid / 16) (issuedColl g sel e prior)) (i.tid / 16) (issuedColl g sel e prior)
  rw [joinColl_last h, hcomplete]
  dsimp only
  rw [hfree]
  rfl

/-- Where something is pending still, the thread parks behind it. -/
theorem joinColl_parks (h : LastIssues s i t g sel e prior) {u : State}
    (hcomplete : completeColl (putColl s (i.tid / 16) (issuedColl g sel e prior)) (i.tid / 16) (issuedColl g sel e prior) = u)
    (hpending : (pendingColl u (i.tid / 16) g.val).isSome = true) : joinColl s i t g sel e = .ok (parkAs u i.tid (.collective g.val)) := by
  rw [joinColl_last h, hcomplete]
  exact if_pos hpending

end Issues

/-! ## The collectives over values (09 R171-R173) -/

section Values
variable {s : State} {i : Issue} {t : Thread} {g : Fin 16} {sel : Instr} {e : CollEntry} {prior : List CollEntry} {d a b : Reg}
  {pop : Option InboxEntry}

/-- A collective that reads no tile finishes as it completes. -/
theorem completeColl_values {core : Nat} {c : Coll} (h : ∀ g w am d a, c.sel ≠ .gxld g w am d a) : completeColl s core c = finishColl s core c := by
  unfold completeColl
  split
  · next hsel _ => exact absurd hsel (h _ _ _ _ _)
  · rfl

theorem joinColl_values (h : LastIssues s i t g sel e prior) (hsel : ∀ g w am d a, sel ≠ .gxld g w am d a) :
    joinColl s i t g sel e = .ok (answered s (i.tid / 16) (issuedColl g sel e prior)
      (collResults s (issuedColl g sel e prior)).1 (collResults s (issuedColl g sel e prior)).2) :=
  joinColl_answers h (completeColl_values hsel)

theorem gshfl_last (h : reading s [d, a, b] [a, b] = some (i, t, pop)) (ha : IsData t a) (hb : IsData t b) (hd : Free t d)
    (hl : LastIssues s i t g (.gshfl g 0 0 b) ⟨i.tid % 16, d.val, (t.rd a).bits, (t.rd b).bits, []⟩ prior) :
    exec (.gshfl g d a b) s = .next (finish pop i.tid (answered s (i.tid / 16)
      (issuedColl g (.gshfl g 0 0 b) ⟨i.tid % 16, d.val, (t.rd a).bits, (t.rd b).bits, []⟩ prior)
      (collResults s (issuedColl g (.gshfl g 0 0 b) ⟨i.tid % 16, d.val, (t.rd a).bits, (t.rd b).bits, []⟩ prior)).1 Counts.zero)) := by
  rw [exec_gshfl, execGshfl]
  simp only [needKind_eq_kinds]
  refine issueWith_ok h (noneBefore_two h ha.mem hb.mem (by decide) (by decide)) ?_
  rw [needKinds_ok ha.mem, needKinds_ok hb.mem]
  simp only [ok_bind, destOk_ok hd]
  exact joinColl_values hl nofun

/-- GVOTE, GMATCH and GRED issue in one shape. -/
theorem collOne_last {op : Instr} (h : reading s [d, a] [a] = some (i, t, pop)) (ha : IsData t a) (hd : Free t d)
    (hop : ∀ g w am d a, collSel op ≠ .gxld g w am d a) (hl : LastIssues s i t g (collSel op) ⟨i.tid % 16, d.val, (t.rd a).bits, 0, []⟩ prior) :
    collOne g op d a s = .next (finish pop i.tid (answered s (i.tid / 16)
      (issuedColl g (collSel op) ⟨i.tid % 16, d.val, (t.rd a).bits, 0, []⟩ prior)
      (collResults s (issuedColl g (collSel op) ⟨i.tid % 16, d.val, (t.rd a).bits, 0, []⟩ prior)).1
      (collResults s (issuedColl g (collSel op) ⟨i.tid % 16, d.val, (t.rd a).bits, 0, []⟩ prior)).2)) := by
  rw [collOne]
  simp only [needKind_eq_kinds]
  refine issueWith_ok h (noneBefore_one h ha.mem (by decide)) ?_
  rw [needKinds_ok ha.mem]
  simp only [ok_bind, destOk_ok hd]
  exact joinColl_values hl hop

/-- A NaN element of .FMIN or .FMAX is the canonical NaN (07 R121). -/
theorem redElem_nan {op : RedOp} {x : QWord} (hop : op = .fmin ∨ op = .fmax) (hx : decodeF f32L (x.toNat % 2 ^ 32) = .nan) :
    redElem op x = 0x7FC00000 := by
  have hcanon : canonF32 (x.toNat % 2 ^ 32) = 0x7FC00000 := by
    rw [canonF32, hx]
    rfl
  rcases hop with rfl | rfl <;> exact hcanon

end Values

/-! ## GXLD (09 R174) -/

/-- How long the rows of a tile take to reach a core: the farthest one's park. -/
def rowsTime (core : Nat) (rows : List (List Place)) : Nat :=
  (rows.map (fun r => match r with
    | [] => 0
    | p :: _ => parkTime core p)).foldl Nat.max 0

section Tiles
variable {s u : State} {core : Nat} {c x : Coll} {e : CollEntry}

/-- A GXLD that completes over an unharmed tile finishes at once, or has its rows on their way. -/
theorem completeColl_tile {g : Fin 16} {w am : Bool} {d a : Reg} {rest : List CollEntry} (hsel : c.sel = .gxld g w am d a)
    (hes : c.entries = e :: rest) (hrows : rowsFault s core e = none) : completeColl s core c =
      if rowsTime core e.rows = 0 then finishColl s core c
      else sched (c.entries.foldl (fun u x => parkAs u (core * 16 + x.slot) (.collective c.g)) (putColl s core { c with rowsComing := true }))
        (s.cycle + rowsTime core e.rows) (.gxldRowsArrive core c.g) := by
  unfold completeColl
  simp only [hsel, hes, hrows]
  rfl

/-- Whether a place is reached does not ask for pending collectives. -/
theorem reaches_putColl (s : State) (core : Nat) (x : Coll) (ctx : Nat) (p : Place) : reaches (putColl s core x) ctx p = reaches s ctx p := by
  have scrubbing : ∀ k, (coreSt (putColl s core x) k).scrubbing = (coreSt s k).scrubbing := fun k => by
    by_cases hk : k = core
    · rw [hk, putColl, coreSt_setCore_same]
    · rw [putColl, coreSt_setCore_ne s hk]
  cases p with
  | ls k off =>
    simp only [reaches, scrubs, scrubbing]
    rfl
  | _ => rfl

theorem rowsFault_putColl (s : State) (core k : Nat) (x : Coll) (e : CollEntry) : rowsFault (putColl s core x) k e = rowsFault s k e := by
  unfold rowsFault
  simp only [reaches_putColl]
  rfl

/-- Parking threads changes neither the cores nor memory. -/
theorem foldl_parkAs {α : Type} (f : α → Nat) (w : Wait) (l : List α) (s : State) :
    (l.foldl (fun u x => parkAs u (f x) w) s).cores = s.cores ∧ (l.foldl (fun u x => parkAs u (f x) w) s).mem = s.mem := by
  induction l generalizing s with
  | nil => exact ⟨rfl, rfl⟩
  | cons x rest ih =>
    obtain ⟨hcores, hmem⟩ := ih (parkAs s (f x) w)
    exact ⟨hcores.trans (parkAs_cores ..), hmem.trans (parkAs_mem ..)⟩

theorem gxldRowsArrive_finishes {rest : List CollEntry} (h : pendingColl u core x.g = some x) (hcoming : x.rowsComing = true) (hes : x.entries = e :: rest)
    (hrows : rowsFault u core e = none) : exec (.gxldRowsArrive core x.g) u = .next (finishColl u core x) := by
  rw [exec_gxldRowsArrive, execGxldRowsArrive, h]
  simp only [hcoming, Bool.not_true, Bool.false_eq_true, if_false, hes, hrows]

/-- Rows beyond the core leave the collective pending until the farthest one arrives. -/
theorem completeColl_far {g : Fin 16} {w am : Bool} {d a : Reg} {rest : List CollEntry} (hsel : c.sel = .gxld g w am d a)
    (hes : c.entries = e :: rest) (hrows : rowsFault s core e = none) (hfar : rowsTime core e.rows ≠ 0) :
    (completeColl s core c).mem = s.mem ∧ (s.cycle + rowsTime core e.rows, Instr.gxldRowsArrive core c.g) ∈ (completeColl s core c).agenda ∧
      pendingColl (completeColl s core c) core c.g = some { c with rowsComing := true } := by
  obtain ⟨hcores, hmem⟩ := foldl_parkAs (fun x => core * 16 + x.slot) (.collective c.g) c.entries (putColl s core { c with rowsComing := true })
  rw [completeColl_tile hsel hes hrows, if_neg hfar]
  refine ⟨hmem, mem_sched.mpr (.inl rfl), ?_⟩
  rw [← pendingColl_putColl s core { c with rowsComing := true }]
  exact (SameColls.of_cores hcores).pendingColl core c.g

theorem collResults_tile {g : Fin 16} {w am : Bool} {d a : Reg} {rest : List CollEntry} (s : State) (hsel : c.sel = .gxld g w am d a)
    (hes : c.entries = e :: rest) :
    collResults s c = ((List.range c.entries.length).map (gxldColumn w (e.rows.map (fun r => r.map (getByte s)))), Counts.zero) := by
  simp only [collResults, hsel, hes]
  rfl

end Tiles

section Gxld
variable {s : State} {i : Issue} {t : Thread} {g : Fin 16} {wide am : Bool} {d a : Reg} {pop : Option InboxEntry} {rows : List (List Place)}
  {e first : CollEntry} {prior rest : List CollEntry}

/-- A GXLD whose checks pass issues its collective with the rows of its tile. -/
theorem gxld_joins {v : Nat} {u : State} (h : reading s [d, a] [a] = some (i, t, pop)) (ha : (t.rd a).kind = .cap) (hd : Free t d)
    (hcap : capCheck (t.rd a).bits Need.rd 0 256 = .ok v) (halign : v % (if wide then 32 else 16) = 0) (hon : capOnchip (t.rd a).bits = true)
    (hrows : gxldRows s t.ctx v wide am = some rows)
    (hj : joinColl s i t g (.gxld g wide am 0 0) ⟨i.tid % 16, d.val, 0, 0, rows⟩ = .ok u) :
    exec (.gxld g wide am d a) s = .next (finish pop i.tid u) := by
  have hk : (t.rd a).kind ∈ [Kind.cap] := by rw [ha]; exact List.mem_singleton_self _
  rw [exec_gxld, execGxld]
  simp only [needKind_eq_kinds]
  refine issueWith_ok h (noneBefore_one h hk (by decide)) ?_
  rw [needKinds_ok hk]
  simp only [ok_bind, hcap, needAlign, if_pos halign, destOk_ok hd, if_pos hon, hrows]
  exact hj

/-- The last issue over a tile in the core's own store gives each member its column. -/
theorem joinColl_near (h : LastIssues s i t g (.gxld g wide am 0 0) e prior) (hes : insertEntry e prior = first :: rest)
    (hfault : rowsFault s (i.tid / 16) first = none) (hnear : rowsTime (i.tid / 16) first.rows = 0) :
    joinColl s i t g (.gxld g wide am 0 0) e = .ok (answered s (i.tid / 16) (issuedColl g (.gxld g wide am 0 0) e prior)
      ((List.range (insertEntry e prior).length).map (gxldColumn wide (first.rows.map (fun r => r.map (getByte s))))) Counts.zero) := by
  rw [joinColl_answers h]
  · rw [collResults_tile s rfl hes]
  · rw [completeColl_tile rfl hes ((rowsFault_putColl ..).trans hfault), if_pos hnear]

/-- The last issue over a tile beyond the core leaves the rows to come. -/
theorem joinColl_far (h : LastIssues s i t g (.gxld g wide am 0 0) e prior) (hes : insertEntry e prior = first :: rest)
    (hfault : rowsFault s (i.tid / 16) first = none) (hfar : rowsTime (i.tid / 16) first.rows ≠ 0) :
    ∃ u, joinColl s i t g (.gxld g wide am 0 0) e = .ok u ∧ u.mem = s.mem ∧
      (s.cycle + rowsTime (i.tid / 16) first.rows, Instr.gxldRowsArrive (i.tid / 16) g.val) ∈ u.agenda ∧
      pendingColl u (i.tid / 16) g.val = some ⟨g.val, .gxld g wide am 0 0, insertEntry e prior, true⟩ := by
  obtain ⟨hmem, hagenda, hpending⟩ := completeColl_far (s := putColl s (i.tid / 16) (issuedColl g (.gxld g wide am 0 0) e prior))
    (c := issuedColl g (.gxld g wide am 0 0) e prior) rfl hes ((rowsFault_putColl ..).trans hfault) hfar
  refine ⟨_, joinColl_parks h rfl (by rw [hpending]; rfl), (parkAs_mem ..).trans hmem, ?_, ?_⟩
  · rw [parkAs_agenda]
    exact hagenda
  · rw [(SameColls.of_cores (parkAs_cores ..)).pendingColl]
    exact hpending

end Gxld

/-! ## Membership (09 R167, R168) -/

section Membership
variable {g : Fin 16} {s : State} {i : Issue} {t v : Thread}

theorem tset_tset {α : Type} (k : Nat) (x y : α) (l : List (Nat × α)) : tset k y (tset k x l) = tset k y l := by
  induction l with
  | nil => simp [tset]
  | cons p rest ih =>
    obtain ⟨j, z⟩ := p
    by_cases hlt : k < j
    · simp [tset, hlt]
    · by_cases heq : j = k <;> simp [tset, hlt, heq, ih]

/-- A thread that has been written goes on: its new value is all that is left of both writes. -/
theorem advance_setT (s : State) (k : Nat) (x : Thread) : advance (setT s k x) k = setT s k x.next := by
  rw [advance, getT_setT_same]
  exact congrArg (fun l => { s with threads := l }) (tset_tset k x x.next s.threads)

theorem advance_setMember (hv : getT s i.tid = some v) (on : Bool) : advance (setMember s i.tid g on) i.tid = setT s i.tid { v.next with
    groups := if on then v.groups ||| BitVec.ofNat 16 (2 ^ g.val) else v.groups &&& ~~~ BitVec.ofNat 16 (2 ^ g.val) } := by
  rw [setMember, hv]
  exact advance_setT ..

theorem gjoin_member (h : reading s [] [] = some (i, t, none)) (hg : t.groups.getLsbD g.val = true) : exec (.gjoin g) s = .next (advance s i.tid) := by
  rw [exec_gjoin, execGjoin]
  exact issueWith_pops_none h (if_pos hg)

theorem gjoin_joins (h : reading s [] [] = some (i, t, none)) (hg : t.groups.getLsbD g.val = false)
    (hfree : ∀ o, groupOwner s (i.tid / 16) g = some o → o = t.owner ∧ pendingColl s (i.tid / 16) g.val = none) :
    exec (.gjoin g) s = .next (advance (setMember s i.tid g true) i.tid) := by
  rw [exec_gjoin, execGjoin]
  refine issueWith_pops_none h ?_
  cases howner : groupOwner s (i.tid / 16) g with
  | none => simp only [hg, howner, Bool.false_eq_true, if_false]
  | some o =>
    obtain ⟨hown, hnone⟩ := hfree o howner
    simp only [hg, Bool.false_eq_true, if_false, howner, hown, hnone, ne_eq, not_true_eq_false, Option.isSome_none]

theorem leaveGroup_nonmember {tid : Nat} (hv : getT s tid = some v) (hg : v.groups.getLsbD g.val = false) : leaveGroup s tid g = s := by
  simp only [leaveGroup, hv, hg, Bool.false_eq_true, if_false]

/-- With no collective pending, leaving a group completes none. -/
theorem leaveGroup_member {tid : Nat} (hv : getT s tid = some v) (hg : v.groups.getLsbD g.val = true) (hnone : pendingColl s (tid / 16) g.val = none) :
    leaveGroup s tid g = setMember s tid g false := by
  have hstill : pendingColl (setMember s tid g false) (tid / 16) g.val = none := by
    rw [setMember, hv]
    exact hnone
  simp only [leaveGroup, hv, hg, if_true, tryComplete_none hstill]

theorem gleave_leaves (h : reading s [] [] = some (i, t, none)) : exec (.gleave g) s = .next (advance (leaveGroup s i.tid g) i.tid) := by
  rw [exec_gleave, execGleave]
  exact issueWith_pops_none h rfl

end Membership

/-- Settles O18: the last issue of a collective finishes it or, over a tile beyond the core, leaves its rows to come; GJOIN and GLEAVE change
one membership. -/
theorem groupResults : Obligations.GroupResults := by
  refine ⟨fun g s i t v h hv hgroups => ⟨gjoin_member h, fun hg hfree => ?_, fun hg => ?_, fun hg hnone => ?_⟩,
    fun g d a b m op s i t pop prior => ?_, fun g wide am d a s i t pop prior rows v h hg ha hd hcap halign hon hrows => ?_⟩
  · rw [gjoin_joins h hg hfree, advance_setMember hv]
    rfl
  · rw [gleave_leaves h, leaveGroup_nonmember hv (hgroups ▸ hg)]
  · rw [gleave_leaves h, leaveGroup_member hv (hgroups ▸ hg) hnone, advance_setMember hv]
    rfl
  · intro core last whole hg ha hd
    refine ⟨fun h hb hpending hissued => gshfl_last h ha hb hd ⟨hg, hpending, hissued⟩, fun h => ?_, fun x => redElem_nan⟩
    intro e
    have last_one := fun {op : Instr} hop hpending hissued => collOne_last (op := op) (prior := prior) h ha hd hop ⟨hg, hpending, hissued⟩
    exact ⟨fun hpending hissued => (exec_gvote ..).trans (last_one nofun hpending hissued),
      fun hpending hissued => (exec_gmatch ..).trans (last_one nofun hpending hissued),
      fun hpending hissued => (exec_gred ..).trans (last_one nofun hpending hissued)⟩
  · intro core es c tile hpending hissued hfault far
    obtain ⟨first, rest, hes⟩ := List.exists_cons_of_ne_nil (insertEntry_ne_nil ⟨i.tid % 16, d.val, 0, 0, rows⟩ prior)
    have hfirst : es.headD ⟨0, 0, 0, 0, []⟩ = first := congrArg (fun l => l.headD ⟨0, 0, 0, 0, []⟩) hes
    have hlast : LastIssues s i t g (.gxld g wide am 0 0) ⟨i.tid % 16, d.val, 0, 0, rows⟩ prior := ⟨hg, hpending, hissued⟩
    have joins := fun u => gxld_joins (g := g) (u := u) h ha hd hcap halign hon hrows
    have hfar : far = rowsTime core first.rows := congrArg (fun x : CollEntry => rowsTime core x.rows) hfirst
    rw [hfirst] at hfault
    refine ⟨fun hzero => ?_, fun hne => ?_, fun u hcoming hlater => ?_⟩
    · have hnear := joinColl_near hlast hes hfault (hfar ▸ hzero)
      rw [← hfirst] at hnear
      exact joins _ hnear
    · obtain ⟨u, hu, hmem, hagenda, hcoming⟩ := joinColl_far hlast hes hfault (hfar ▸ hne)
      exact ⟨u, joins u hu, hmem, by rw [hfar]; exact hagenda, hcoming⟩
    · exact gxldRowsArrive_finishes (x := { c with rowsComing := true }) hcoming rfl hes (hfirst ▸ hlater)

end Sys2Proof.Machine

namespace Sys2Proof.Machine

/-! ## Masks (08 R165, R166) -/

section Masks
variable {s : State} {i : Issue} {t : Thread}

theorem maskToReg_result {d : Reg} {a : MReg} (f : BitVec 16 → Nat) (h : reading s [d] [] = some (i, t, none)) (hd : Free t d) :
    maskToReg f d a s = .next (result s i.tid d (dataOf (f (t.mask a)))) := by
  rw [maskToReg]
  refine issueWith_pops_none h ?_
  rw [destOk_ok hd]
  rfl

theorem movmGm_result {d : MReg} {a : Reg} {pop : Option InboxEntry} (h : reading s [a] [a] = some (i, t, pop)) (ha : IsData t a) :
    exec (.movmGm d a) s = .next (finish pop i.tid (advance (setMask s i.tid d ((low t a).setWidth 16)) i.tid)) := by
  rw [exec_movmGm, execMovmGm]
  simp only [needKind_eq_kinds]
  refine issueWith_ok h (noneBefore_one h ha.mem (by decide)) ?_
  rw [needKinds_ok ha.mem, lo64_eq_low, BitVec.ofNat_toNat]
  rfl

theorem maskOp_result {d : MReg} (f : Thread → BitVec 16) (h : reading s [] [] = some (i, t, none)) :
    maskOp f d s = .next (advance (setMask s i.tid d (f t)) i.tid) :=
  issueWith_pops_none h rfl

end Masks

/-- Settles O9: MPOP and MFF by what `popCount` and `ctzFrom` count in a mask, the others by the shapes they share. -/
theorem maskResults : Obligations.MaskResults := by
  refine ⟨fun d a s i t h hd => ?_, fun d a s i t pop h ha => movmGm_result h ha, fun d a b s i t h => ?_⟩
  · have gives := fun f => maskToReg_result (a := a) f h hd
    refine ⟨(exec_movmMg ..).trans (gives _), ?_, ?_⟩
    · rw [exec_mpop, execMpop, gives, popCount_eq_countP]
      rfl
    · rw [exec_mff, execMff, gives, ctzFrom_eq_length]
      rfl
  · exact ⟨(exec_mand ..).trans (maskOp_result _ h), (exec_mor ..).trans (maskOp_result _ h), (exec_mxor ..).trans (maskOp_result _ h),
      (exec_mnot ..).trans (maskOp_result _ h)⟩

end Sys2Proof.Machine

namespace Sys2Proof.Machine

/-! ## A vector half all of whose elements are processed (08 R147) -/

section VectorHalf
variable {s : State} {tid : Nat} {i : Issue} {t : Thread}

/-- A vector meaning answers what its plan's run gives. -/
theorem vectorWith_ok {regs : List Reg} {plan : Nat → Thread → Except Stop Plan} {s' : State} (h : reading s regs [] = some (i, t, none))
    (hb : (plan i.tid t >>= fun p => runVector s i.tid t p i.commit) = .ok s') : vectorWith s regs plan = .next s' :=
  issueWith_pops_none h hb

/-- The running value before each step of a plan. -/
def carryBefore (c : Nat) (o : Nat → Outcome1) : Nat → Nat
  | 0 => c
  | k + 1 => (o k).carry

/-- A plan whose steps all succeed, whatever the running value, commits every element. -/
theorem runVector_independent {p : Plan} {b : Bool} {o : Nat → Outcome1} (hstep : ∀ k < p.n, ∀ c, p.step k c = .ok (o k))
    (hout : ∀ k < p.n, ∀ e ∈ (o k).out, ∃ q, elemPlace s tid (t.rd e.1).bits e.2.1 = .ok q) (hroom : postRoom s tid t p = true) :
    runVector s tid t p b = .ok (vectorDone s tid t p ((List.range p.n).map o)) :=
  runVector_all (c := carryBefore p.carry0 o) rfl (fun k hk => ⟨hstep k hk _, rfl⟩) hout hroom

/-- A step that passes over disabled elements. -/
theorem maskedStep_ok {b : Bool} {body : Except Stop Outcome1} {o : Outcome1} {c : Nat} (h : b = true → body = .ok o) :
    (if !b then .ok (Outcome1.skip c) else body) = .ok (if b then o else Outcome1.skip c) := by
  cases b with
  | false => rfl
  | true => exact h rfl

/-- A disabled element writes nothing. -/
theorem maskedStep_placed {b : Bool} {o : Outcome1} {c : Nat}
    (h : b = true → ∀ e ∈ o.out, ∃ q, elemPlace s tid (t.rd e.1).bits e.2.1 = .ok q) :
    ∀ e ∈ (if b then o else Outcome1.skip c).out, ∃ q, elemPlace s tid (t.rd e.1).bits e.2.1 = .ok q := by
  cases b with
  | false => exact nofun
  | true => exact h rfl

theorem StreamOf.kind {r : Reg} {write : Bool} {c : Nat} (h : StreamOf t r write c) : (t.rd r).kind = .strm := h.1

theorem StreamOf.direction {r : Reg} {write : Bool} {c : Nat} (h : StreamOf t r write c) : strmWrite (t.rd r).bits = write := h.2.1

theorem StreamOf.format {r : Reg} {write : Bool} {c : Nat} (h : StreamOf t r write c) : strmFmt (t.rd r).bits = c := h.2.2

/-- A stream of the format that its operand must have passes the check. -/
theorem needStream_code {r : Reg} {write : Bool} {c : Nat} (h : StreamOf t r write c) : needStream t r write (fun x => x == c) = .ok () :=
  needStream_ok h (beq_self_eq_true c)

theorem needStreamOrData_code {r : Reg} {c : Nat} (h : IsData t r ∨ StreamOf t r false c) : needStreamOrData t r (fun x => x == c) = .ok () :=
  needStreamOrData_ok h (beq_self_eq_true c)

theorem operand_strm {r : Reg} {w k : Nat} (h : (t.rd r).kind = .strm) :
    operand s tid t r w k = readElem s tid r (t.rd r).bits (idxOf t r k) := by
  simp [operand, h]

/-- The elements of a stream that are at hand are read. -/
theorem AtHand.read {r : Reg} {w n : Nat} {on : Nat → Bool} {x : Nat → Nat} (h : AtHand s tid t r w n on x) (hr : (t.rd r).kind = .strm)
    {k : Nat} (hk : k < n) (hon : on k = true) : readElem s tid r (t.rd r).bits (idxOf t r k) = .ok (x k) := by
  rw [← operand_strm hr]
  exact h k hk hon

/-- An enabled element of a destination has a place. -/
theorem Placeable.placed {r : Reg} {n : Nat} {on : Nat → Bool} (h : Placeable s tid t r n on) {k : Nat} (hk : k < n) (hon : on k = true) (v : Nat) :
    ∀ e ∈ [(r, idxOf t r k, v)], ∃ q, elemPlace s tid (t.rd e.1).bits e.2.1 = .ok q := by
  intro e he
  rw [List.mem_singleton.mp he]
  exact h k hk hon

/-- Streams that are only read post nothing, so there is room (08 R148). -/
theorem postRoom_reads {p : Plan} (h : ∀ r ∈ p.streams, strmWrite (t.rd r).bits = false) : postRoom s tid t p = true := by
  have : p.streams.any (postsTo tid t) = false := by
    rw [List.any_eq_false]
    intro r hr
    simp [postsTo, h r hr]
  rw [postRoom, this]
  rfl

theorem mapM_one {f : Reg → Except Stop Nat} {a : Reg} {x : Nat} (ha : f a = .ok x) : [a].mapM f = .ok [x] := by
  simp only [List.mapM_cons, List.mapM_nil, ha]
  rfl

theorem mapM_two {f : Reg → Except Stop Nat} {a b : Reg} {x y : Nat} (ha : f a = .ok x) (hb : f b = .ok y) : [a, b].mapM f = .ok [x, y] := by
  rw [List.mapM_cons, ha, ok_bind, mapM_one hb]
  rfl

/-- An element-wise plan whose sources, and old elements where it reads them, are at hand. -/
theorem runVector_mapPlan {srcs : List Reg} {msk : MReg} {vd : Reg} {w wd : Nat} {dRead b : Bool}
    (f : List Nat → Nat → Nat × Counts × Option FVal) (xs : Nat → List Nat) (z : Nat → Nat) :
    let rs := streamsOf t (vd :: srcs)
    let n := vecCount t rs
    let on := laneOn t msk rs
    (∀ k < n, on k = true → srcs.mapM (fun r => operand s tid t r w k) = .ok (xs k)) →
    (∀ k < n, on k = true → (if dRead then readElem s tid vd (t.rd vd).bits (idxOf t vd k) else .ok 0) = .ok (z k)) →
    Placeable s tid t vd n on → postRoom s tid t (mapPlan s tid t msk vd srcs w wd dRead (fun _ _ => (0, Counts.zero, none))) = true →
    runVector s tid t (mapPlan s tid t msk vd srcs w wd dRead f) b =
      .ok (elementwise s tid t msk vd srcs w wd dRead (fun k => f (xs k) (z k))) := by
  intro rs n on hx hz hplace hroom
  refine runVector_independent (o := fun k => if on k then
      ⟨[(vd, idxOf t vd k, (f (xs k) (z k)).1 % 2 ^ wd)], none, (f (xs k) (z k)).2.1, (f (xs k) (z k)).2.2, 0⟩ else Outcome1.skip 0)
    (fun k hk c => maskedStep_ok (fun hon => ?_)) (fun k hk => maskedStep_placed (fun hon => hplace.placed hk hon _)) hroom
  have hold := hz k hk hon
  rw [hx k hk hon, ok_bind]
  cases dRead with
  | false =>
    rw [← Except.ok.inj hold]
    rfl
  | true =>
    rw [if_pos rfl] at hold
    simp only [if_true, hold, ok_bind]

end VectorHalf

/-! ## Element-wise instructions (08 R153-R159, R164) -/

section Elementwise
variable {s : State} {i : Issue} {t : Thread} {x y z : Nat → Nat}

/-- A binary meaning whose three operands pass gives each enabled element its function's value; z is 0 where the destination is not read. -/
theorem binary_elements {v : VWord} {w c : Nat} {okd : Nat → Bool} {dRead : Bool} (f : Thread → Nat → Nat → Nat → Nat × Counts)
    (h : reading s [v.va, v.vb, v.vd] [] = some (i, t, none)) (ha : StreamOf t v.va false v.fmt.code)
    (hb : IsData t v.vb ∨ StreamOf t v.vb false v.fmt.code) (hd : StreamOf t v.vd true c) (hokd : okd c = true) :
    let rs := streamsOf t [v.vd, v.va, v.vb]
    let n := vecCount t rs
    let on := laneOn t v.msk rs
    AtHand s i.tid t v.va w n on x → AtHand s i.tid t v.vb w n on y → (dRead = true → AtHand s i.tid t v.vd w n on z) →
    (dRead = false → ∀ k, z k = 0) → Placeable s i.tid t v.vd n on →
    postRoom s i.tid t (mapPlan s i.tid t v.msk v.vd [v.va, v.vb] w w dRead (fun _ _ => (0, Counts.zero, none))) = true →
    vectorWith s [v.va, v.vb, v.vd] (fun tid t => do
        needStream t v.va false (fun c => c == v.fmt.code)
        needStreamOrData t v.vb (fun c => c == v.fmt.code)
        needStream t v.vd true okd
        .ok (mapPlan s tid t v.msk v.vd [v.va, v.vb] w w dRead (fun xs d =>
          ((f t (nth 0 0 xs) (nth 0 1 xs) d).1, (f t (nth 0 0 xs) (nth 0 1 xs) d).2, none)))) =
      .next (elementwise s i.tid t v.msk v.vd [v.va, v.vb] w w dRead (fun k =>
        ((f t (x k) (y k) (z k)).1, (f t (x k) (y k) (z k)).2, none))) := by
  intro rs n on hx hy hz hzero hplace hroom
  refine vectorWith_ok h ?_
  simp only [needStream_code ha, needStreamOrData_code hb, needStream_ok hd hokd, ok_bind]
  refine runVector_mapPlan (fun xs d => ((f t (nth 0 0 xs) (nth 0 1 xs) d).1, (f t (nth 0 0 xs) (nth 0 1 xs) d).2, none))
    (fun k => [x k, y k]) z (fun k hk hon => mapM_two (hx k hk hon) (hy k hk hon)) (fun k hk hon => ?_) hplace hroom
  cases dRead with
  | false => rw [hzero rfl k]; rfl
  | true => exact (hz rfl).read hd.kind hk hon

/-- A unary meaning whose operands pass to an element-wise plan. -/
theorem unary_elements {v : VUnary} {w wd : Nat} {plan : Nat → Thread → Except Stop Plan} (f : Nat → Nat × Counts × Option FVal)
    (h : reading s [v.va, v.vd] [] = some (i, t, none))
    (hp : plan i.tid t = .ok (mapPlan s i.tid t v.msk v.vd [v.va] w wd false (fun xs _ => f (nth 0 0 xs)))) :
    let rs := streamsOf t [v.vd, v.va]
    let n := vecCount t rs
    let on := laneOn t v.msk rs
    AtHand s i.tid t v.va w n on x → Placeable s i.tid t v.vd n on →
    postRoom s i.tid t (mapPlan s i.tid t v.msk v.vd [v.va] w wd false (fun _ _ => (0, Counts.zero, none))) = true →
    vectorWith s [v.va, v.vd] plan = .next (elementwise s i.tid t v.msk v.vd [v.va] w wd false (fun k => f (x k))) := by
  intro rs n on hx hplace hroom
  refine vectorWith_ok h ?_
  rw [hp, ok_bind]
  exact runVector_mapPlan (fun xs _ => f (nth 0 0 xs)) (fun k => [x k]) (fun _ => 0) (fun k hk hon => mapM_one (hx k hk hon))
    (fun _ _ _ => rfl) hplace hroom

end Elementwise

/-- A row of the binary instructions: the instruction is the binary shape of the row's function in RMODE, and a row that does not read
the destination does not depend on it. -/
def BinaryRow (row : (VWord → Instr) × Bool × (Fmt → RMode → Nat → Nat → Nat → Nat × Counts)) : Prop :=
  (∀ v s, exec (row.1 v) s = vecBinary v row.2.1 (fun t => row.2.2 v.fmt (modeOf t.rmode)) s) ∧
    (row.2.1 = false → ∀ f md a b d, row.2.2 f md a b 0 = row.2.2 f md a b d)

theorem BinaryRow.elements {row : (VWord → Instr) × Bool × (Fmt → RMode → Nat → Nat → Nat → Nat × Counts)} (hrow : BinaryRow row)
    {v : VWord} {s : State} {i : Issue} {t : Thread} {x y z : Nat → Nat} (h : reading s [v.va, v.vb, v.vd] [] = some (i, t, none))
    (ha : StreamOf t v.va false v.fmt.code) (hb : IsData t v.vb ∨ StreamOf t v.vb false v.fmt.code) (hd : StreamOf t v.vd true v.fmt.code) :
    let w := fmtWidth v.fmt
    let rs := streamsOf t [v.vd, v.va, v.vb]
    let n := vecCount t rs
    let on := laneOn t v.msk rs
    AtHand s i.tid t v.va w n on x → AtHand s i.tid t v.vb w n on y → (row.2.1 = true → AtHand s i.tid t v.vd w n on z) →
    Placeable s i.tid t v.vd n on →
    postRoom s i.tid t (mapPlan s i.tid t v.msk v.vd [v.va, v.vb] w w row.2.1 (fun _ _ => (0, Counts.zero, none))) = true →
    exec (row.1 v) s = .next (elementwise s i.tid t v.msk v.vd [v.va, v.vb] w w row.2.1 (fun k =>
      ((row.2.2 v.fmt (modeOf t.rmode) (x k) (y k) (z k)).1, (row.2.2 v.fmt (modeOf t.rmode) (x k) (y k) (z k)).2, none))) := by
  intro w rs n on hx hy hz hplace hroom
  obtain ⟨hexec, hfree⟩ := hrow
  obtain ⟨op, dRead, f⟩ := row
  rw [hexec, vecBinary]
  cases dRead with
  | true => exact binary_elements (fun t => f v.fmt (modeOf t.rmode)) h ha hb hd (beq_self_eq_true _) hx hy hz nofun hplace hroom
  | false =>
    have hz0 : ∀ k, f v.fmt (modeOf t.rmode) (x k) (y k) (z k) = f v.fmt (modeOf t.rmode) (x k) (y k) 0 :=
      fun k => (hfree rfl _ _ _ _ _).symm
    simp only [hz0]
    exact binary_elements (z := fun _ => 0) (fun t => f v.fmt (modeOf t.rmode)) h ha hb hd (beq_self_eq_true _) hx hy nofun
      (fun _ _ => rfl) hplace hroom

/-- The rows that compute from the two sources alone. -/
theorem binaryRow_of_sources {op : VWord → Instr} {f : Fmt → RMode → Nat → Nat → Nat × Counts}
    (h : ∀ v s, exec (op v) s = vecBinary v false (fun t a b _ => f v.fmt (modeOf t.rmode) a b) s) :
    BinaryRow (op, false, fun fmt md a b _ => f fmt md a b) := ⟨h, fun _ _ _ _ _ _ => rfl⟩

/-- A row of the unary instructions: its meaning, once its operands pass, is the element-wise plan of the row's function. -/
def UnaryRow (row : (VUnary → Instr) × Bool × (Fmt → Nat → Nat × Counts)) : Prop :=
  ∀ (v : VUnary) (s : State) (t : Thread), (if row.2.1 then IsData t v.va else StreamOf t v.va false v.fmt.code) →
    StreamOf t v.vd true v.fmt.code → ∃ plan, exec (row.1 v) s = vectorWith s [v.va, v.vd] plan ∧
      ∀ tid, plan tid t = .ok (mapPlan s tid t v.msk v.vd [v.va] (fmtWidth v.fmt) (fmtWidth v.fmt) false (fun xs _ =>
        ((row.2.2 v.fmt (nth 0 0 xs)).1, (row.2.2 v.fmt (nth 0 0 xs)).2, none)))

/-- The rows of `vecUnary`. -/
theorem unaryRow_vecUnary {op : VUnary → Instr} {f : Fmt → Nat → Nat × Counts} (h : ∀ v s, exec (op v) s = vecUnary v (f v.fmt) s) :
    UnaryRow (op, false, f) := by
  intro v s t ha hd
  refine ⟨_, h v s, fun tid => ?_⟩
  simp only [needStream_code ha, needStream_code hd, ok_bind]

theorem unaryRow_vsplat : UnaryRow (.vsplat, true, fun _ a => (a, Counts.zero)) := by
  intro v s t ha hd
  refine ⟨_, exec_vsplat v s, fun tid => ?_⟩
  simp only [needKind_ok (k := .data) ha, needStream_code hd, ok_bind]

/-- VCVT's element is converted to the format that VD's code names. -/
theorem vcvt_elements {v : VUnary} {s : State} {i : Issue} {t : Thread} {x : Nat → Nat} {dst : Fmt}
    (h : reading s [v.va, v.vd] [] = some (i, t, none)) (ha : StreamOf t v.va false v.fmt.code) (hd : StreamOf t v.vd true dst.code) :
    let rs := streamsOf t [v.vd, v.va]
    let n := vecCount t rs
    let on := laneOn t v.msk rs
    AtHand s i.tid t v.va (fmtWidth v.fmt) n on x → Placeable s i.tid t v.vd n on →
    postRoom s i.tid t (mapPlan s i.tid t v.msk v.vd [v.va] (fmtWidth v.fmt) (fmtWidth dst) false (fun _ _ => (0, Counts.zero, none))) = true →
    exec (.vcvt v) s = .next (elementwise s i.tid t v.msk v.vd [v.va] (fmtWidth v.fmt) (fmtWidth dst) false (fun k =>
      ((convert dst (modeOf t.rmode) (valueOf v.fmt (x k))).1, (convert dst (modeOf t.rmode) (valueOf v.fmt (x k))).2,
        some (valueOf v.fmt (x k))))) := by
  intro rs n on hx hplace hroom
  rw [exec_vcvt, execVcvt]
  refine unary_elements (fun a => ((convert dst (modeOf t.rmode) (valueOf v.fmt a)).1, (convert dst (modeOf t.rmode) (valueOf v.fmt a)).2,
    some (valueOf v.fmt a))) h ?_ hx hplace hroom
  simp only [needStream_code ha, needStream_ok (ok := fun _ => true) hd rfl, ok_bind, hd.format, Fmt.ofCode_code, Option.getD_some]

/-- The code that VCMP asks of its destination is the N format's of its width (08 R155). -/
theorem nCode_eq (w : Nat) : nCode w = (if w = 32 then Fmt.n32 else if w = 16 then Fmt.n16 else Fmt.n8).code := by
  unfold nCode
  split_ifs <;> rfl

/-- Settles O13: every element-wise meaning runs `mapPlan` of its row's function, whose steps find their operands at hand. -/
theorem vectorElementResults : Obligations.VectorElementResults := by
  refine ⟨fun row hrow v s i t x y z h ha hb hd => BinaryRow.elements ?_ h ha hb hd, ?_, fun row hrow v s i t x h ha hd => ?_,
    fun v s i t x dst h ha hd => vcvt_elements h ha hd⟩
  · revert row
    simp only [List.forall_mem_cons]
    exact ⟨binaryRow_of_sources exec_vadd, binaryRow_of_sources exec_vsub, binaryRow_of_sources exec_vmul, ⟨exec_vfma, nofun⟩,
      binaryRow_of_sources exec_vmin, binaryRow_of_sources exec_vmax, binaryRow_of_sources exec_vand, binaryRow_of_sources exec_vor,
      binaryRow_of_sources exec_vxor, binaryRow_of_sources exec_vshl, binaryRow_of_sources exec_vshr, binaryRow_of_sources exec_viadd,
      binaryRow_of_sources exec_visub, binaryRow_of_sources exec_vimul, nofun⟩
  · intro p v s i t x y z h ha hb w rs n on hx hy hplace hroom
    refine ⟨fun c hd hc hz => ?_, fun hd => ?_⟩
    · rw [exec_vsel, execVsel, vecBinaryTo]
      exact binary_elements (fun _ a b d => (if d ≠ 0 then a else b, Counts.zero)) h ha hb hd (beq_iff_eq.mpr hc) hx hy
        (fun _ => hz) nofun hplace (hroom true)
    · rw [exec_vcmp, execVcmp, vecBinaryTo]
      exact binary_elements (z := fun _ => 0)
        (fun _ a b _ => (if (vcmpElem v.fmt p a b).1 then 2 ^ w - 1 else 0, (vcmpElem v.fmt p a b).2)) h ha hb hd
        (beq_iff_eq.mpr (nCode_eq w).symm) hx hy nofun (fun _ _ => rfl) hplace (hroom false)
  · have hunary : UnaryRow row := by
      clear ha
      revert row
      simp only [List.forall_mem_cons]
      exact ⟨unaryRow_vecUnary exec_vabs, unaryRow_vecUnary exec_vneg, unaryRow_vecUnary exec_vexp2, unaryRow_vecUnary exec_vlog2,
        unaryRow_vecUnary exec_vrcp, unaryRow_vecUnary exec_vrsq, unaryRow_vecUnary exec_vtanh, unaryRow_vecUnary exec_vmov,
        unaryRow_vsplat, nofun⟩
    obtain ⟨plan, hexec, hplan⟩ := hunary v s t ha hd
    rw [hexec]
    exact unary_elements (fun a => ((row.2.2 v.fmt a).1, (row.2.2 v.fmt a).2, none)) h (hplan i.tid)

end Sys2Proof.Machine

namespace Sys2Proof.Machine

/-! ## Reductions and scans (08 R160, R161) -/

section ReductionScan
variable {s : State} {i : Issue} {t : Thread} {x : Nat → Nat}

/-- What a vector half leaves is what its banks, its read-ahead and its commit are. -/
theorem vectorDone_congr {tid : Nat} {p q : Plan} {os os' : List Outcome1}
    (hbanks : planBanks s tid t p ++ p.tableBanks = planBanks s tid t q ++ q.tableBanks) (hahead : readAhead s tid t p = readAhead s tid t q)
    (hcommit : ∀ u, commitPlan u tid t p os = commitPlan u tid t q os') : vectorDone s tid t p os = vectorDone s tid t q os' := by
  rw [vectorDone, hbanks, hahead, hcommit]
  rfl

/-- VRED's outcome for an element: its count, and its leaf plus one as the running value. -/
def vredOutcome (f : Fmt) (on : Nat → Bool) (x : Nat → Nat) (k : Nat) : Outcome1 :=
  if on k then ⟨[], none, (vredLeaf f (x k)).2, none, (vredLeaf f (x k)).1 + 1⟩ else Outcome1.skip 0

/-- The leaves that VRED's outcomes hold are the enabled elements'. -/
theorem vredOutcome_leaves (f : Fmt) (on : Nat → Bool) (x : Nat → Nat) (n : Nat) :
    ((List.range n).map (vredOutcome f on x)).map (fun o => if o.carry = 0 then none else some (o.carry - 1)) =
      (List.range n).map (fun k => if on k then some (vredLeaf f (x k)).1 else none) := by
  rw [List.map_map]
  refine List.map_congr_left (fun k _ => ?_)
  rw [Function.comp_apply, vredOutcome]
  cases on k <;> rfl

/-- VRED by the root of its tree: without an enabled element the accumulator stays, and else it takes the root. -/
theorem vred_result {v : VUnary} {root : Option Nat × Counts} {out : Nat × Counts} (h : reading s [v.va, v.vd] [] = some (i, t, none))
    (ha : StreamOf t v.va false v.fmt.code) (hd : IsData t v.vd) :
    let n := vecCount t [v.va]
    let on := laneOn t v.msk [v.va]
    let acc := (t.rd v.vd).bits.toNat % (if v.fmt.isFloat16 then 2 ^ 32 else 2 ^ 64)
    let add := vredAdd v.fmt (modeOf t.rmode)
    AtHand s i.tid t v.va (fmtWidth v.fmt) n on x →
    treeOpt add 10 ((List.range n).map (fun k => if on k then some (vredLeaf v.fmt (x k)).1 else none)) Counts.zero = root →
    (root.1 = none → out = ((t.rd v.vd).bits.toNat, Counts.zero)) →
    (∀ y, root.1 = some y → out = ((add acc y).1, root.2.add (add acc y).2)) →
    exec (.vred v) s = .next (vectorDone s i.tid t
      (committed [v.va] [v.va] n 1 (activeIdx t v.msk [v.va] n) (some (v.vd, out)) [] 32)
      ((List.range n).map (fun k => if on k then ⟨[], none, (vredLeaf v.fmt (x k)).2, none, 0⟩ else Outcome1.skip 0))) := by
  intro n on acc add hx hroot hnone hsome
  rw [exec_vred, execVred]
  refine vectorWith_ok h ?_
  simp only [needStream_code ha, needKind_ok (k := .data) hd, ok_bind]
  refine (runVector_independent (o := vredOutcome v.fmt on x) (fun k hk c => maskedStep_ok (fun hon => ?_))
    (fun k hk => maskedStep_placed (fun _ => nofun)) (postRoom_reads (by simp [ha.direction]))).trans
      (congrArg Except.ok (vectorDone_congr rfl rfl (fun u => ?_)))
  · rw [hx.read ha.kind hk hon]
    rfl
  · refine commitPlan_congr rfl rfl rfl ?_ (fun k => ?_)
    · simp only [Option.map_some, committed, vredOutcome_leaves]
      rw [hroot]
      cases hr : root.1 with
      | none => rw [hnone hr]
      | some y => rw [hsome y hr]
    · rw [vredOutcome]
      cases on k <;> exact ⟨rfl, rfl, rfl, rfl⟩

/-- VSCAN's outcome for an element, the running value before each element given. -/
def vscanOutcome (v : VWord) (t : Thread) (on : Nat → Bool) (c x : Nat → Nat) (k : Nat) : Outcome1 :=
  if on k then
    ⟨[(v.vd, idxOf t v.vd k, (vscanStep v.fmt (modeOf t.rmode) (c k) (x k)).2.1)], none, (vscanStep v.fmt (modeOf t.rmode) (c k) (x k)).2.2, none,
      (vscanStep v.fmt (modeOf t.rmode) (c k) (x k)).1⟩
  else Outcome1.skip (c k)

/-- The running value that a half leaves is the last outcome's, or the first of all. -/
theorem carry_of_last {o : Nat → Outcome1} {c : Nat → Nat} {n : Nat} (h : ∀ k < n, (o k).carry = c (k + 1)) :
    (((List.range n).map o).getLast?.map Outcome1.carry).getD (c 0) = c n := by
  cases n with
  | zero => rfl
  | succ n => rw [List.range_succ, List.map_append, List.map_singleton, List.getLast?_concat, Option.map_some, Option.getD_some, h n n.lt_succ_self]

theorem vscan_result {v : VWord} {c : Nat → Nat} (h : reading s [v.va, v.vb, v.vd] [] = some (i, t, none))
    (ha : StreamOf t v.va false v.fmt.code) (hb : IsData t v.vb) (hd : StreamOf t v.vd true v.fmt.code) :
    let rs := [v.vd, v.va]
    let n := vecCount t rs
    let on := laneOn t v.msk rs
    let step := fun k => vscanStep v.fmt (modeOf t.rmode) (c k) (x k)
    AtHand s i.tid t v.va (fmtWidth v.fmt) n on x → Placeable s i.tid t v.vd n on →
    c 0 = (t.rd v.vb).bits.toNat % (if v.fmt = .f32 then 2 ^ 32 else 2 ^ 64) → (∀ k, c (k + 1) = if on k then (step k).1 else c k) →
    let p := committed rs [v.va] n 1 (activeIdx t v.msk rs n) (some (v.vb, c n, Counts.zero)) [] 32
    postRoom s i.tid t p = true →
    exec (.vscan v) s = .next (vectorDone s i.tid t p ((List.range n).map (fun k =>
      if on k then ⟨[(v.vd, idxOf t v.vd k, (step k).2.1)], none, (step k).2.2, none, 0⟩ else Outcome1.skip 0))) := by
  intro rs n on step hx hplace hfirst hnext p hroom
  have hrs : streamsOf t [v.vd, v.va] = rs := by simp [streamsOf, rs, ha.kind, hd.kind]
  have hc0 : (if v.fmt = .f32 then (t.rd v.vb).bits.toNat % 2 ^ 32 else lo64 (t.rd v.vb)) = c 0 := by
    rw [hfirst]
    split_ifs <;> rfl
  have hcarry : ∀ k, (vscanOutcome v t on c x k).carry = c (k + 1) := fun k => by
    rw [vscanOutcome, hnext k]
    cases on k <;> rfl
  rw [exec_vscan, execVscan]
  refine vectorWith_ok h ?_
  simp only [needStream_code ha, needKind_ok (k := .data) hb, needStream_code hd, ok_bind, hrs, hc0]
  refine (runVector_all (c := c) (o := vscanOutcome v t on c x) rfl (fun k hk => ⟨?_, hcarry k⟩)
    (fun k hk => maskedStep_placed (fun hon => hplace.placed hk hon _)) ?_).trans
      (congrArg Except.ok (vectorDone_congr rfl rfl (fun u => ?_)))
  · refine maskedStep_ok (fun hon => ?_)
    rw [hx.read ha.kind hk hon]
    rfl
  · exact hroom
  · refine commitPlan_congr rfl rfl rfl ?_ (fun k => ?_)
    · simp only [Option.map_some, p, committed]
      rw [← carry_of_last (n := n) (fun k _ => hcarry k)]
      cases ((List.range n).map (vscanOutcome v t on c x)).getLast? <;> rfl
    · rw [vscanOutcome]
      cases on k <;> exact ⟨rfl, rfl, rfl, rfl⟩

end ReductionScan

/-- Settles O14: the outcomes of VRED hold the leaves of its tree, and the running value of VSCAN is the sequence of sums. -/
theorem vectorReductionAndScan : Obligations.VectorReductionAndScan := by
  refine ⟨?_, fun v s i t x c h ha hb hd => vscan_result h ha hb hd⟩
  intro v s i t x h ha hd n on hx acc add root out
  refine vred_result (root := root) h ha hd hx rfl (fun hr => ?_) (fun y hr => ?_)
  · simp only [out, hr]
  · simp only [out, hr, add, acc]

end Sys2Proof.Machine

namespace Sys2Proof.Machine

/-! ## Tables and exchange (08 R162, R163) -/

section Tables
variable {s : State} {i : Issue} {t : Thread} {x j : Nat → Nat} {p : Nat → Place} {v : VWord}

theorem vgath_result (h : reading s [v.va, v.vb, v.vd] [] = some (i, t, none)) (ha : StreamOf t v.va false Fmt.n32.code)
    (hb : needTable i.tid t v.vb false = .ok ()) (hd : StreamOf t v.vd true v.fmt.code) :
    let w := fmtWidth v.fmt
    let rs := [v.vd, v.va]
    let n := vecCount t rs
    let on := laneOn t v.msk rs
    let tb := (t.rd v.vb).bits
    AtHand s i.tid t v.va 32 n on j → Placeable s i.tid t v.vd n on →
    (∀ k < n, on k = true → tablePlace s t.ctx tb w (j k) = .ok (p k) ∧ poisoned s (placeRun (p k) (w / 8)) = none) →
    let plan := committed rs [v.va] n 1 (activeIdx t v.msk rs n) none (tableBanks i.tid tb) w
    postRoom s i.tid t plan = true →
    exec (.vgath v) s = .next (vectorDone s i.tid t plan ((List.range n).map (fun k =>
      if on k then ⟨[(v.vd, idxOf t v.vd k, getNat s (placeRun (p k) (w / 8)))], none, Counts.zero, none, 0⟩ else Outcome1.skip 0))) := by
  intro w rs n on tb hj hplace htable plan hroom
  rw [exec_vgath, execVgath]
  refine vectorWith_ok h ?_
  simp only [needStream_ok ha (ok := fun c => c == 14) rfl, hb, needStream_code hd, ok_bind]
  refine runVector_independent (fun k hk c => maskedStep_ok (fun hon => ?_)) (fun k hk => maskedStep_placed (fun hon => hplace.placed hk hon _)) hroom
  obtain ⟨hp, hsound⟩ := htable k hk hon
  rw [hj.read ha.kind hk hon, ok_bind, hp, ok_bind, softCheck, hsound]
  rfl

theorem vscat_result (h : reading s [v.va, v.vb, v.vd] [] = some (i, t, none)) (ha : StreamOf t v.va false v.fmt.code)
    (hb : StreamOf t v.vb false Fmt.n32.code) (hd : needTable i.tid t v.vd true = .ok ()) :
    let w := fmtWidth v.fmt
    let rs := [v.va, v.vb]
    let n := vecCount t rs
    let on := laneOn t v.msk rs
    let tb := (t.rd v.vd).bits
    AtHand s i.tid t v.va w n on x → AtHand s i.tid t v.vb 32 n on j → (∀ k < n, on k = true → tablePlace s t.ctx tb w (j k) = .ok (p k)) →
    exec (.vscat v) s = .next (vectorDone s i.tid t (committed rs rs n 1 (activeIdx t v.msk rs n) none (tableBanks i.tid tb) w)
      ((List.range n).map (fun k => if on k then ⟨[], some (p k, x k), Counts.zero, none, 0⟩ else Outcome1.skip 0))) := by
  intro w rs n on tb hx hj htable
  rw [exec_vscat, execVscat]
  refine vectorWith_ok h ?_
  simp only [needStream_code ha, needStream_ok hb (ok := fun c => c == 14) rfl, hd, ok_bind]
  refine runVector_independent (fun k hk c => maskedStep_ok (fun hon => ?_)) (fun k hk => maskedStep_placed (fun _ => nofun))
    (postRoom_reads (by simp [ha.direction, hb.direction]))
  rw [hx.read ha.kind hk hon, ok_bind, hj.read hb.kind hk hon, ok_bind, htable k hk hon]
  rfl

end Tables

theorem bits_zero (x k : Nat) : bits x 0 k = x % 2 ^ k := by rw [bits, Nat.pow_zero, Nat.div_one]

theorem pow2UpTo1024_pow {a : Nat} (h : a ≤ 10) : pow2UpTo1024 (2 ^ a) = true :=
  List.any_eq_true.mpr ⟨a, List.mem_range.mpr (by omega), beq_self_eq_true _⟩

theorem vcxLow_pow (a q : Nat) : vcxLow (2 ^ a) q = q / 2 ^ a * 2 ^ (a + 1) + q % 2 ^ a := by
  rw [vcxLow, Nat.pow_succ, Nat.mul_comm 2]

/-- An element that is read has a place. -/
theorem elemPlace_of_readElem {s : State} {tid : Nat} {r : Reg} {b : QWord} {m v : Nat} (h : readElem s tid r b m = .ok v) :
    ∃ q, elemPlace s tid b m = .ok q := by
  rw [readElem] at h
  cases he : elemPlace s tid b m with
  | error st => rw [he] at h; cases h
  | ok q => exact ⟨q, rfl⟩

/-- What VCX asks of its fields and of the streams' counts and cursors holds of a stage with distance 2^a and blocks of 2^b (08 R163). -/
theorem vcx_fields_ok {x count cur a b : Nat} (ha : a < 10) (hab : a < b) (hb : b ≤ 10) (hj : x % 2 ^ 16 = 2 ^ a)
    (hk : x / 2 ^ 16 % 2 ^ 16 = 2 ^ b) (hcount : count % 2 ^ (a + 1) = 0) (hcur : cur % 2 = 0) :
    ¬ ((!pow2UpTo1024 (bits x 0 16)) = true ∨ (!pow2UpTo1024 (bits x 16 16)) = true ∨ bits x 16 16 ≤ bits x 0 16 ∨
      count % (2 * bits x 0 16) ≠ 0 ∨ cur % 2 ≠ 0) := by
  have hlt : 2 ^ a < 2 ^ b := Nat.pow_lt_pow_right (by decide) hab
  have hbits : bits x 16 16 = 2 ^ b := hk
  rw [bits_zero, hj, hbits, pow2UpTo1024_pow ha.le, pow2UpTo1024_pow hb, Nat.mul_comm 2, ← Nat.pow_succ, hcount, hcur]
  simpa using hlt

/-- VCX's outcome for a pair that is exchanged: the keys, and their payloads. -/
def exchanged (v : VWord) (key pay : Nat → Nat) (l m : Nat) : Outcome1 :=
  ⟨[(v.vd, l, key m), (v.vd, m, key l), (v.va, l, pay m), (v.va, m, pay l)], none, Counts.zero, none, 0⟩

/-- A pair stands against the direction of its block: rising where `l / K` is even. -/
def outOfOrder (f : Fmt) (key : Nat → Nat) (K l m : Nat) : Bool :=
  if l / K % 2 = 0 then decide (image f (key m) < image f (key l)) else decide (image f (key l) < image f (key m))

section Exchange
variable {s : State} {tid : Nat} {t : Thread} {v : VWord} {ks ps : QWord} {key pay : Nat → Nat} {l m K : Nat}

/-- The step of an enabled pair whose keys and payloads are at hand. -/
theorem exchange_step (hl : readElem s tid v.vd ks l = .ok (key l) ∧ readElem s tid v.va ps l = .ok (pay l))
    (hm : readElem s tid v.vd ks m = .ok (key m) ∧ readElem s tid v.va ps m = .ok (pay m)) :
    (do
      let ki ← readElem s tid v.vd ks l
      let km ← readElem s tid v.vd ks m
      let pi ← readElem s tid v.va ps l
      let pm ← readElem s tid v.va ps m
      if (l / K % 2 = 0 ∧ image v.fmt km < image v.fmt ki) ∨ (¬ l / K % 2 = 0 ∧ image v.fmt ki < image v.fmt km) then
        .ok ⟨[(v.vd, l, km), (v.vd, m, ki), (v.va, l, pm), (v.va, m, pi)], none, Counts.zero, none, 0⟩
      else .ok (Outcome1.skip 0) : Except Stop Outcome1) =
      .ok (if outOfOrder v.fmt key K l m then exchanged v key pay l m else Outcome1.skip 0) := by
  obtain ⟨hkl, hpl⟩ := hl
  obtain ⟨hkm, hpm⟩ := hm
  simp only [hkl, hkm, hpl, hpm, ok_bind, outOfOrder, exchanged]
  by_cases hrising : l / K % 2 = 0
  · simp only [hrising, true_and, not_true_eq_false, false_and, or_false, if_true, decide_eq_true_eq]
    split <;> rfl
  · simp only [hrising, false_and, not_false_eq_true, true_and, false_or, if_false, decide_eq_true_eq]
    split <;> rfl

/-- The elements of a pair that are read have places. -/
theorem exchanged_placed
    (hl : readElem s tid v.vd (t.rd v.vd).bits l = .ok (key l) ∧ readElem s tid v.va (t.rd v.va).bits l = .ok (pay l))
    (hm : readElem s tid v.vd (t.rd v.vd).bits m = .ok (key m) ∧ readElem s tid v.va (t.rd v.va).bits m = .ok (pay m)) :
    ∀ e ∈ (exchanged v key pay l m).out, ∃ q, elemPlace s tid (t.rd e.1).bits e.2.1 = .ok q := by
  simp only [exchanged, List.forall_mem_cons]
  exact ⟨elemPlace_of_readElem hl.1, elemPlace_of_readElem hm.1, elemPlace_of_readElem hl.2, elemPlace_of_readElem hm.2, nofun⟩

end Exchange

/-- Settles O15: the steps of VGATH, VSCAT and VCX find their elements, and the table's places, at hand. -/
theorem vectorTablesAndExchange : Obligations.VectorTablesAndExchange := by
  refine ⟨⟨fun v s i t j p h ha hb hd => vgath_result h ha hb hd, fun v s i t x j p h ha hb hd => vscat_result h ha hb hd⟩, ?_⟩
  intro v s i t key pay a b h ⟨cw, ha, hwidth⟩ hb hd hne ks ps c hcount hcur heven ha10 hab hb10 hj hk hmod n l hi on hread swap plan hroom
  have hnest : ∀ p, (if on p && swap p then exchanged v key pay (l p) (hi p) else Outcome1.skip 0) =
      if on p then (if outOfOrder v.fmt key (2 ^ b) (l p) (hi p) then exchanged v key pay (l p) (hi p) else Outcome1.skip 0)
      else Outcome1.skip 0 := fun p => by cases on p <;> rfl
  have hbits : bits (low t v.vb).toNat 16 16 = 2 ^ b := hk
  rw [exec_vcx, execVcx]
  refine vectorWith_ok h ?_
  simp only [needStream_ok (ok := fun c => codeWidth c == fmtWidth v.fmt) ha (beq_iff_eq.mpr hwidth), needKind_ok (k := .data) hb,
    needStream_code hd, ok_bind, lo64_eq_low]
  rw [if_neg (by simp only [not_or, not_not]; exact ⟨hne, hcount, hcur⟩), if_neg (vcx_fields_ok ha10 hab hb10 hj hk hmod heven), ok_bind]
  simp only [bits_zero, hj, hbits, vcxLow_pow]
  refine runVector_independent (o := fun p => if on p && swap p then exchanged v key pay (l p) (hi p) else Outcome1.skip 0)
    (fun p hp _ => ?_) (fun p hp => ?_) hroom
  · rw [hnest]
    exact maskedStep_ok (fun hon => exchange_step (hread p hp hon _ (.inl rfl)) (hread p hp hon _ (.inr rfl)))
  · rw [hnest]
    refine maskedStep_placed (fun hon => ?_)
    split
    · exact exchanged_placed (hread p hp hon _ (.inl rfl)) (hread p hp hon _ (.inr rfl))
    · exact nofun

end Sys2Proof.Machine

namespace Sys2Proof.Machine

/-! ## Right after reset (23 R354, R355) -/

/-- Settles O55: nothing is listed, and every measurement register is one of eight zeros. -/
theorem resetState : Obligations.ResetState := by
  have nothingMeasured : State.reset.dev.meas = List.replicate 8 0 := rfl
  refine ⟨reset_memOk, fun a => rfl, rfl, rfl, rfl, rfl, rfl, rfl, rfl, rfl, fun k _ => ?_, rfl, rfl, fun c => rfl, fun c => rfl, rfl, rfl, rfl,
    rfl, rfl⟩
  rw [nothingMeasured]
  exact nth_replicate 0 8 k

end Sys2Proof.Machine

namespace Sys2Proof.Machine

/-! ## Keyed tables: what a write keeps -/

/-- A write loses no entry but the one that is read at its key. -/
theorem mem_or_of_tset {α : Type} {k : Nat} {v : α} {l : List (Nat × α)} {e : Nat × α} (h : e ∈ l) : e ∈ tset k v l ∨ tget k l = some e.2 := by
  induction l with
  | nil => cases h
  | cons p rest ih =>
    obtain ⟨j, u⟩ := p
    by_cases hlt : k < j
    · simp only [tset, if_pos hlt]
      exact .inl (List.mem_cons_of_mem _ h)
    · by_cases hjk : j = k
      · simp only [tset, tget, if_neg hlt, if_pos hjk]
        rcases List.mem_cons.mp h with rfl | hrest
        · exact .inr rfl
        · exact .inl (List.mem_cons_of_mem _ hrest)
      · simp only [tset, tget, if_neg hlt, if_neg hjk]
        rcases List.mem_cons.mp h with rfl | hrest
        · exact .inl (List.mem_cons_self ..)
        · exact (ih hrest).imp_left (List.mem_cons_of_mem _)

theorem eq_or_mem_of_tset {α : Type} {k : Nat} {v : α} {l : List (Nat × α)} {e : Nat × α} (h : e ∈ tset k v l) : e = (k, v) ∨ e ∈ l := by
  induction l with
  | nil => exact .inl (List.mem_singleton.mp h)
  | cons p rest ih =>
    obtain ⟨j, u⟩ := p
    by_cases hlt : k < j
    · simp only [tset, if_pos hlt] at h
      exact List.mem_cons.mp h
    · by_cases hjk : j = k
      · simp only [tset, if_neg hlt, if_pos hjk] at h
        exact (List.mem_cons.mp h).imp_right (List.mem_cons_of_mem _)
      · simp only [tset, if_neg hlt, if_neg hjk] at h
        rcases List.mem_cons.mp h with rfl | hrest
        · exact .inr (List.mem_cons_self ..)
        · exact (ih hrest).imp_right (List.mem_cons_of_mem _)

theorem mem_tset_self {α : Type} (k : Nat) (v : α) (l : List (Nat × α)) : (k, v) ∈ tset k v l := tget_mem (tget_tset_same k v l)

/-- What one step of a fold brings about, from what holds before it, and no other step undoes, holds at the end. -/
theorem foldl_reaches {α β : Type} {f : β → α → β} {M W : β → Prop} {a : α} {l : List α} (ha : a ∈ l) (hits : ∀ u, M u → W (f u a))
    (passes : ∀ u x, x ≠ a → M u → M (f u x)) (keeps : ∀ u x, W u → W (f u x)) {s : β} (hs : M s) : W (l.foldl f s) := by
  induction l generalizing s with
  | nil => cases ha
  | cons x rest ih =>
    by_cases hx : x = a
    · subst hx
      exact List.foldlRecOn (motive := W) rest f (hits s hs) (fun u hu y _ => keeps u y hu)
    · exact ih ((List.mem_cons.mp ha).resolve_left (Ne.symm hx)) (passes s x hx hs)

/-! ## Barriers on a core (09 R175, R177) -/

theorem getBar_congr {s u : State} (h : u.places = s.places) (owner core n : Nat) : getBar u owner core n = getBar s owner core n := by
  simp only [getBar, getP, h]

theorem getBar_inv {s : State} {owner core n : Nat} {b : Barrier} (h : getBar s owner core n = some b) :
    ∃ p, getP s owner core = some p ∧ n < p.bars.length ∧ nth Barrier.reset n p.bars = b := by
  unfold getBar at h
  split at h
  · next p hp =>
    split at h
    · next hn => exact ⟨p, hp, hn, Option.some.inj h⟩
    · cases h
  · cases h

section SetBar
variable (s : State) (owner core n : Nat) (b : Barrier)

@[simp] theorem setBar_cycle : (setBar s owner core n b).cycle = s.cycle := by unfold setBar; split <;> rfl
@[simp] theorem setBar_mem : (setBar s owner core n b).mem = s.mem := by unfold setBar; split <;> rfl
@[simp] theorem setBar_threads : (setBar s owner core n b).threads = s.threads := by unfold setBar; split <;> rfl
@[simp] theorem setBar_cores : (setBar s owner core n b).cores = s.cores := by unfold setBar; split <;> rfl
@[simp] theorem setBar_owners : (setBar s owner core n b).owners = s.owners := by unfold setBar; split <;> rfl
@[simp] theorem setBar_agenda : (setBar s owner core n b).agenda = s.agenda := by unfold setBar; split <;> rfl
@[simp] theorem setBar_nextId : (setBar s owner core n b).nextId = s.nextId := by unfold setBar; split <;> rfl
@[simp] theorem getT_setBar (k : Nat) : getT (setBar s owner core n b) k = getT s k := getT_congr (setBar_threads ..) k

/-- A thread and a barrier are written in either order. -/
theorem setBar_setT (k : Nat) (t : Thread) : setBar (setT s k t) owner core n b = setT (setBar s owner core n b) k t := by
  have hp : getP (setT s k t) owner core = getP s owner core := rfl
  cases hbar : getP s owner core with
  | none => simp only [setBar, hp, hbar]
  | some p =>
    simp only [setBar, hp, hbar]
    rfl

end SetBar

/-- A barrier that is written reads as written, and every other of its number as before. -/
theorem getBar_setBar {s : State} {owner core n : Nat} {b : Barrier} (h : getBar s owner core n = some b) (x : Barrier) (c : Nat) :
    getBar (setBar s owner core n x) owner c n = if c = core then some x else getBar s owner c n := by
  obtain ⟨p, hp, hn, -⟩ := getBar_inv h
  simp only [setBar, hp]
  by_cases hc : c = core
  · simp only [getBar, getP, hc, tget_tset_same, length_setNth, hn, if_true, nth_setNth _ _ _ _ hn]
  · have hkey : placeKeyOf owner c ≠ placeKeyOf owner core := fun e => hc (by simpa [placeKeyOf] using e)
    simp only [getBar, getP, tget_tset_ne hkey, if_neg hc]

theorem getBar_setBar_same {s : State} {owner core n : Nat} {b : Barrier} (h : getBar s owner core n = some b) (x : Barrier) :
    getBar (setBar s owner core n x) owner core n = some x := by rw [getBar_setBar h, if_pos rfl]

/-! ## Homes (09 R177) -/

theorem mem_placedCores {s : State} {owner c : Nat} : c ∈ placedCores s owner ↔ ∃ e ∈ s.places, e.2.owner = owner ∧ e.2.core = c := by
  simp only [placedCores, List.mem_map, List.mem_filter, beq_iff_eq, and_assoc]

/-- A barrier that is written leaves its owner where it is placed. -/
theorem mem_placedCores_setBar {s : State} {owner core n o c : Nat} {b : Barrier} : c ∈ placedCores (setBar s owner core n b) o ↔ c ∈ placedCores s o := by
  unfold setBar
  split
  · next p hp =>
    simp only [mem_placedCores]
    constructor
    · rintro ⟨e, he, ho, hc⟩
      rcases eq_or_mem_of_tset he with rfl | hold
      · exact ⟨_, tget_mem hp, ho, hc⟩
      · exact ⟨e, hold, ho, hc⟩
    · rintro ⟨e, he, ho, hc⟩
      rcases mem_or_of_tset he with hkept | hread
      · exact ⟨e, hkept, ho, hc⟩
      · cases hp.symm.trans hread
        exact ⟨_, mem_tset_self .., ho, hc⟩
  · exact .rfl

theorem le_foldl_min {l : List Nat} {x a : Nat} : x ≤ l.foldl Nat.min a ↔ x ≤ a ∧ ∀ y ∈ l, x ≤ y := by
  induction l generalizing a with
  | nil => simp
  | cons z rest ih =>
    rw [List.foldl_cons, ih, List.forall_mem_cons, ← and_assoc]
    exact and_congr_left' Nat.le_min

/-- The lowest home depends only on which cores the owner has. -/
theorem homeCore_congr {s u : State} {owner : Nat} (hp : ∀ c, c ∈ placedCores u owner ↔ c ∈ placedCores s owner) (ho : u.owners = s.owners)
    (core scope : Nat) : homeCore u owner core scope = homeCore s owner core scope := by
  have hmem : ∀ c, c ∈ ownerCores u owner ↔ c ∈ ownerCores s owner := fun c => by
    simp only [ownerCores, List.mem_append, hp, getO, ho]
  refine eq_of_forall_le_iff (fun x => ?_)
  simp only [homeCore, le_foldl_min, List.mem_filter, hmem]

theorem barHome_congr {s u : State} (h : u.places = s.places) (ho : u.owners = s.owners) (owner core n : Nat) :
    barHome u owner core n = barHome s owner core n := by
  have hp : ∀ c, c ∈ placedCores u owner ↔ c ∈ placedCores s owner := fun c => by rw [placedCores, h, placedCores]
  simp only [barHome, getBar_congr h, homeCore_congr hp ho]

/-- A barrier keeps its home while its scope is the same. -/
theorem barHome_setBar {s : State} {owner core n : Nat} {b x : Barrier} (h : getBar s owner core n = some b) (hx : x.scope = b.scope) (c : Nat) :
    barHome (setBar s owner core n x) owner c n = barHome s owner c n := by
  have hhome := homeCore_congr (s := s) (u := setBar s owner core n x) (owner := owner) (fun _ => mem_placedCores_setBar) (setBar_owners ..)
  simp only [barHome, getBar_setBar h, hhome]
  by_cases hc : c = core
  · simp only [hc, if_true, h, hx]
  · simp only [if_neg hc]

/-! ## Threads parked on a barrier -/

theorem mem_threadsOn {s : State} {core : Nat} {p : Nat × Thread} : p ∈ threadsOn s core ↔ p.1 < 16 ∧ getT s (core * 16 + p.1) = some p.2 := by
  simp only [threadsOn, List.mem_filterMap, List.mem_range, Option.map_eq_some_iff]
  constructor
  · rintro ⟨k, hk, t, ht, rfl⟩
    exact ⟨hk, ht⟩
  · rintro ⟨hk, ht⟩
    exact ⟨p.1, hk, p.2, ht, rfl⟩

theorem waitersOn_congr {s u : State} (h : u.threads = s.threads) (owner core n : Nat) : waitersOn u owner core n = waitersOn s owner core n := by
  simp only [waitersOn, threadsOn, getT_congr h]

/-- Whether a thread is parked on a barrier of its core depends on that thread alone. -/
theorem mem_waitersOn {s : State} {owner core n tid : Nat} : tid ∈ waitersOn s owner core n ↔
    ∃ k t w, tid = core * 16 + k ∧ k < 16 ∧ getT s tid = some t ∧ t.status = .parked w ∧ t.owner = owner ∧ (waitsOn w n).isSome = true := by
  simp only [waitersOn, List.mem_filterMap, mem_threadsOn]
  constructor
  · rintro ⟨⟨k, t⟩, ⟨hk, ht⟩, hw⟩
    dsimp only at hk ht hw
    split at hw
    · next w hs =>
      split at hw
      · next hon =>
        cases hw
        exact ⟨k, t, w, rfl, hk, ht, hs, hon⟩
      · cases hw
    · cases hw
  · rintro ⟨k, t, w, rfl, hk, ht, hs, hon⟩
    refine ⟨(k, t), ⟨hk, ht⟩, ?_⟩
    simp only [hs, hon, and_self, if_true]

theorem mem_waitersOn_of_getT {s u : State} {owner core n tid : Nat} (h : tid ∈ waitersOn s owner core n) (ht : getT u tid = getT s tid) :
    tid ∈ waitersOn u owner core n := by
  rw [mem_waitersOn, ht]
  exact mem_waitersOn.mp h

end Sys2Proof.Machine

namespace Sys2Proof.Machine

/-! ## What waking, telling and faulting the waiters of a barrier leaves alone (09 R180, R181, R185) -/

/-- From s to u what a WalkFrame keeps is the same, with every placement and owner; no record of s on its way to an arriver is lost, and what is
under way between two cores stays so, whether or not its home holds it. -/
structure BarrierFrame (P : Nat → Prop) (s u : State) : Prop extends WalkFrame P s u where
  places : u.places = s.places
  owners : u.owners = s.owners
  records : ∀ q < s.nextId, tget q u.cstats = tget q s.cstats
  underWay : ∀ q < s.nextId, ∀ f, tget q s.fwds = some f → ∃ h d, tget q u.fwds = some { f with held := h, due := d }

section Frame
variable {P Q : Nat → Prop} {s u v : State}

theorem BarrierFrame.of_walk (h : WalkFrame P s u) (hp : u.places = s.places) (ho : u.owners = s.owners) (hr : u.cstats = s.cstats)
    (hf : u.fwds = s.fwds) : BarrierFrame P s u :=
  { h with places := hp, owners := ho, records := fun _ _ => by rw [hr], underWay := fun _ _ f hq => ⟨f.held, f.due, by rw [hf, hq]⟩ }

theorem BarrierFrame.refl (P : Nat → Prop) (s : State) : BarrierFrame P s s := .of_walk (.refl P s) rfl rfl rfl rfl

theorem BarrierFrame.trans (a : BarrierFrame P s u) (b : BarrierFrame P u v) : BarrierFrame P s v where
  toWalkFrame := a.toWalkFrame.trans b.toWalkFrame
  places := b.places.trans a.places
  owners := b.owners.trans a.owners
  records q h := (b.records q (Nat.lt_of_lt_of_le h a.ids)).trans (a.records q h)
  underWay q h f hf := by
    obtain ⟨x, d, hx⟩ := a.underWay q h f hf
    obtain ⟨y, e, hy⟩ := b.underWay q (Nat.lt_of_lt_of_le h a.ids) _ hx
    exact ⟨y, e, hy⟩

theorem BarrierFrame.weaken (a : BarrierFrame Q s u) (h : ∀ j, P j → Q j) : BarrierFrame P s u :=
  { a with toWalkFrame := a.toWalkFrame.weaken h }

theorem BarrierFrame.foldl {α : Type} {f : State → α → State} {l : List α} (h : ∀ a ∈ l, ∀ s, BarrierFrame P s (f s a)) (s : State) :
    BarrierFrame P s (l.foldl f s) := by
  induction l generalizing s with
  | nil => exact .refl P s
  | cons a rest ih => exact (h a (List.mem_cons_self ..) s).trans (ih (fun b hb => h b (List.mem_cons_of_mem _ hb)) _)

theorem sched_barrierFrame (P : Nat → Prop) (s : State) (c : Nat) (i : Instr) : BarrierFrame P s (sched s c i) :=
  .of_walk (sched_walkFrame ..) rfl rfl rfl rfl

theorem setT_barrierFrame (s : State) (k : Nat) (t : Thread) : BarrierFrame (· ≠ k) s (setT s k t) :=
  .of_walk (setT_walkFrame ..) rfl rfl rfl rfl

theorem setCore_barrierFrame (P : Nat → Prop) (s : State) (k : Nat) (c : CoreSt) : BarrierFrame P s (setCore s k c) := { BarrierFrame.refl P s with }

/-! ### A bundle retires -/

theorem setReg_barrierFrame (s : State) (k : Nat) (r : Reg) (x : GReg) : BarrierFrame (· ≠ k) s (setReg s k r x) := by
  unfold setReg
  split
  · exact .refl _ s
  · split
    · exact .refl _ s
    · dsimp only
      split
      · exact (setT_barrierFrame s k _).trans (sched_barrierFrame ..)
      · exact setT_barrierFrame s k _

theorem advance_barrierFrame (s : State) (k : Nat) : BarrierFrame (· ≠ k) s (advance s k) := by
  unfold advance
  split
  · exact .refl _ s
  · exact setT_barrierFrame ..

theorem dropAhead_barrierFrame (s : State) (k : Nat) : BarrierFrame (· ≠ k) s (dropAhead s k) := by
  unfold dropAhead
  split
  · exact .refl _ s
  · exact { setT_barrierFrame s k _ with }

theorem setHolder_barrierFrame (P : Nat → Prop) (s : State) (k : Nat) (b : QWord) : BarrierFrame P s (setHolder s k b) := by
  unfold setHolder
  dsimp only
  split
  · exact .of_walk (setHlt_walkFrame ..) rfl rfl rfl rfl
  · exact .refl P s

theorem popPort_barrierFrame (s : State) (k : Nat) (e : InboxEntry) : BarrierFrame (· ≠ k) s (popPort s k e) := by
  have holder : ∀ u, BarrierFrame (· ≠ k) u (if e.payload.kind = .coc then setHolder u k e.payload.bits else u) := fun u => by
    split
    · exact setHolder_barrierFrame ..
    · exact .refl _ u
  have pin : ∀ u, BarrierFrame (· ≠ k) u
      (if e.payload.kind = .tens then sched u s.cycle (.pinDrop e.ctx (e.payload.bits.toNat % 2 ^ 20)) else u) := fun u => by
    split
    · exact sched_barrierFrame ..
    · exact .refl _ u
  exact (setCore_barrierFrame ..).trans ((holder _).trans ((pin _).trans ((dropAhead_barrierFrame ..).trans (sched_barrierFrame ..))))

theorem popRetiring_barrierFrame (s : State) (k : Nat) : BarrierFrame (· ≠ k) s (popRetiring s k) := by
  unfold popRetiring
  split
  · exact .refl _ s
  · split
    · exact (setT_barrierFrame ..).trans (popPort_barrierFrame ..)
    · exact .refl _ s

theorem countParked_barrierFrame (P : Nat → Prop) (s : State) (k : Nat) (t : Thread) : BarrierFrame P s (countParked s k t) := by
  unfold countParked
  split
  · exact .refl P s
  · exact setCore_barrierFrame ..

theorem retirePast_barrierFrame (s : State) (k : Nat) : BarrierFrame (· ≠ k) s (retirePast s k) := by
  refine (advance_barrierFrame s k).trans ((popRetiring_barrierFrame _ k).trans ?_)
  unfold retirePast retire
  dsimp only
  split
  · exact .refl _ _
  · exact (setT_barrierFrame ..).trans (countParked_barrierFrame ..)

/-! ### A thread faults -/

/-- A fault writes no placement, owner, record or operation under way. -/
theorem takeFault_barrierFrame (s : State) (k : Nat) (c : Cause) (a : Nat) : BarrierFrame (· ≠ k) s (takeFault s k c a) := by
  have late : ∀ u, BarrierFrame (fun _ => False) u (dropLate u k) := fun u => by
    unfold dropLate
    split
    · exact .refl _ u
    · split
      · exact .refl _ u
      · refine ((setT_barrierFrame u k _).weaken nofun).trans (.foldl (fun p _ w => ?_) _)
        split
        · exact sched_barrierFrame ..
        · exact .refl _ w
  have table : ∀ u, (unreserve u k).places = u.places ∧ (unreserve u k).owners = u.owners ∧ (unreserve u k).cstats = u.cstats ∧
      (unreserve u k).fwds = u.fwds := fun u => by
    unfold unreserve
    dsimp only
    refine List.foldlRecOn (motive := fun w : State => w.places = u.places ∧ w.owners = u.owners ∧ w.cstats = u.cstats ∧ w.fwds = u.fwds)
      _ _ ⟨rfl, rfl, rfl, rfl⟩ (fun w hw p _ => ?_)
    split <;> exact hw
  obtain ⟨hp, ho, hr, hf⟩ := table (dropLate s k)
  have h := (late s).trans (.of_walk (unreserve_walkFrame ..) hp ho hr hf)
  have frame := takeFault_walkFrame s k c a
  unfold takeFault at frame ⊢
  split at frame
  · exact .refl _ s
  · generalize unreserve (dropLate s k) k = u at h frame ⊢
    exact { frame with places := h.places, owners := h.owners, records := h.records, underWay := h.underWay }

/-! ### Operations between cores -/

/-- An operation leaves under the next free name. -/
theorem newFwd_barrierFrame (P : Nat → Prop) (s : State) (f : Fwd) (c : Nat) (i : Instr) :
    BarrierFrame P s (sched (fresh { s with fwds := tset s.nextId f s.fwds }) c i) where
  toWalkFrame := { WalkFrame.refl P s with agenda := fun _ h => mem_sched.mpr (.inr h), ids := Nat.le_succ _ }
  places := rfl
  owners := rfl
  records _ _ := rfl
  underWay _ hq g hg := ⟨g.held, g.due, (tget_tset_ne (Nat.ne_of_lt hq) f s.fwds).trans hg⟩

theorem sendFwd_barrierFrame (P : Nat → Prop) (s : State) (owner n src dst : Nat) (op : FwdOp) : BarrierFrame P s (sendFwd s owner n src dst op) :=
  newFwd_barrierFrame ..

theorem sendNotice_barrierFrame (P : Nat → Prop) (s : State) (owner n home core p : Nat) : BarrierFrame P s (sendNotice s owner n home core p) :=
  newFwd_barrierFrame ..

/-- What was held is offered again where it is. -/
theorem releaseHeldFwds_barrierFrame (P : Nat → Prop) (s : State) (owner n : Nat) : BarrierFrame P s (releaseHeldFwds s owner n) := by
  unfold releaseHeldFwds
  dsimp only
  generalize ((s.fwds.filter (fun p => p.2.owner == owner && p.2.bar == n && p.2.held)).map Prod.fst) = ids
  have offered : s.fwds.map (fun p => if ids.contains p.1 then (p.1, { p.2 with held := false, due := s.cycle }) else p) =
      s.fwds.map (fun p => (p.1, if ids.contains p.1 then { p.2 with held := false, due := s.cycle } else p.2)) :=
    List.map_congr_left (fun p _ => by split <;> rfl)
  refine BarrierFrame.trans ?_ (.foldl (fun k _ w => sched_barrierFrame ..) _)
  refine { BarrierFrame.refl P s with underWay := fun q _ f hq => ?_ }
  dsimp only
  rw [offered, tget_map, hq, Option.map_some]
  split
  · exact ⟨_, _, rfl⟩
  · exact ⟨f.held, f.due, rfl⟩

end Frame

/-! ## A thread that is woken -/

theorem dropAhead_getT {s : State} {tid : Nat} {t : Thread} (ht : getT s tid = some t) : getT (dropAhead s tid) tid = some { t with ahead := [] } := by
  simp only [dropAhead, ht]
  exact getT_setT_same ..

/-- A pop leaves its thread all but the read-ahead. -/
theorem popPort_getT {s : State} {tid : Nat} {t : Thread} (ht : getT s tid = some t) (e : InboxEntry) :
    getT (popPort s tid e) tid = some { t with ahead := [] } := by
  unfold popPort
  dsimp only
  refine dropAhead_getT ?_
  have holder : ∀ u : State, getT (if e.payload.kind = .coc then setHolder u tid e.payload.bits else u) tid = getT u tid := fun u => by
    unfold setHolder
    dsimp only
    split
    · split <;> rfl
    · rfl
  split
  · exact (holder _).trans ht
  · exact (holder _).trans ht

/-- A bundle that retires goes on past itself; only a pop that it commits and its read-ahead leave its thread with it. -/
theorem retirePast_goesOn {s : State} {tid : Nat} {t : Thread} (ht : getT s tid = some t) : ∃ x, getT (retirePast s tid) tid = some x ∧
    x.status = .ready ∧ x.pc = t.nextPc ∧ x.g = t.g := by
  have popped : ∃ w, getT (popRetiring (advance s tid) tid) tid = some w ∧ w.pc = t.nextPc ∧ w.g = t.g := by
    have hnext : getT (advance s tid) tid = some t.next := by rw [getT_advance, ht]; rfl
    unfold popRetiring
    simp only [hnext]
    split
    · next e he =>
      exact ⟨_, popPort_getT (getT_setT_same ..) e, rfl, rfl⟩
    · exact ⟨_, hnext, rfl, rfl⟩
  obtain ⟨w, hw, hpc, hg⟩ := popped
  simp only [retirePast, retire, hw, getT_countParked, getT_setT_same]
  exact ⟨_, rfl, rfl, hpc, hg⟩

end Sys2Proof.Machine

namespace Sys2Proof.Machine

/-! ## The waiters of a completed phase (09 R181) -/

/-- What the completion of phase p does to one waiter: wakePhase does it to each in turn. -/
def wakeOne (p : Nat) (u : State) (tid : Nat) : State :=
  match getT u tid with
  | some t =>
    match t.status with
    | .parked (.phase _ q) => if q = p then retirePast (dropAhead (setReg u tid (barDest t) (dataOf p)) tid) tid else u
    | .parked (.phaseFirst _ q) => if q = p then sched (dropAhead u tid) (turnAfter u.cycle (tid % 16)) (.arrivalCounted tid) else u
    | _ => u
  | none => u

theorem wakePhase_eq (s : State) (owner core n p : Nat) : wakePhase s owner core n p = (waitersOn s owner core n).foldl (wakeOne p) s := rfl

/-- A waiter has gone on past its bundle with the phase's number in its register. -/
def WentOn (v : Thread) (p tid : Nat) (u : State) : Prop :=
  ∃ x, getT u tid = some x ∧ x.status = .ready ∧ x.pc = v.nextPc ∧ (barDest v ≠ 0 → x.rd (barDest v) = dataOf p)

section Wake
variable {s u : State} {owner core n p tid : Nat} {v : Thread}

theorem wakeOne_barrierFrame (p : Nat) (u : State) (tid : Nat) : BarrierFrame (· ≠ tid) u (wakeOne p u tid) := by
  unfold wakeOne
  split
  · split
    · split
      · exact (setReg_barrierFrame ..).trans ((dropAhead_barrierFrame ..).trans (retirePast_barrierFrame ..))
      · exact .refl _ u
    · split
      · exact (dropAhead_barrierFrame ..).trans (sched_barrierFrame ..)
      · exact .refl _ u
    · exact .refl _ u
  · exact .refl _ u

theorem wakeOne_ready (hv : getT u tid = some v) (hs : v.status = .ready) : wakeOne p u tid = u := by
  simp only [wakeOne, hv, hs]

theorem wakeOne_phase (hv : getT u tid = some v) (hs : v.status = .parked (.phase n p)) (hd : (barDest v).val < v.g.length) :
    WentOn v p tid (wakeOne p u tid) := by
  obtain ⟨w, hw, hg, hpc, hsize⟩ := getT_setReg hv (barDest v) (dataOf p)
  obtain ⟨x, hx, hready, hxpc, hxg⟩ := retirePast_goesOn (dropAhead_getT hw)
  simp only [wakeOne, hv, hs, if_true]
  refine ⟨x, hx, hready, ?_, fun h0 => ?_⟩
  · rw [hxpc, Thread.nextPc, hpc, hsize, Thread.nextPc]
  · rw [Thread.rd_congr (hxg.trans hg), Thread.rd_wr_same h0 hd]

theorem WentOn.wakeOne (h : WentOn v p tid u) (k : Nat) : WentOn v p tid (wakeOne p u k) := by
  by_cases hk : tid = k
  · subst hk
    obtain ⟨x, hx, hready, hrest⟩ := h
    rw [wakeOne_ready hx hready]
    exact ⟨x, hx, hready, hrest⟩
  · obtain ⟨x, hx, hrest⟩ := h
    exact ⟨x, ((wakeOne_barrierFrame p u k).threads tid hk).trans hx, hrest⟩

/-- A thread that waits in BWAIT or BSYNC for the phase goes on. -/
theorem wakePhase_wentOn (hw : tid ∈ waitersOn s owner core n) (hv : getT s tid = some v) (hs : v.status = .parked (.phase n p))
    (hd : (barDest v).val < v.g.length) : WentOn v p tid (wakePhase s owner core n p) := by
  rw [wakePhase_eq]
  exact foldl_reaches (M := fun u => getT u tid = some v) hw (fun u hu => wakeOne_phase hu hs hd)
    (fun u k hk hu => ((wakeOne_barrierFrame p u k).threads tid (Ne.symm hk)).trans hu) (fun u k h => h.wakeOne k) hv

/-- A thread that waits to be counted in the next phase goes on in its slot's next turn. -/
theorem wakePhase_counts (hw : tid ∈ waitersOn s owner core n) (hv : getT s tid = some v) (hs : v.status = .parked (.phaseFirst n p)) :
    (turnAfter s.cycle (tid % 16), Instr.arrivalCounted tid) ∈ (wakePhase s owner core n p).agenda := by
  rw [wakePhase_eq]
  refine foldl_reaches (M := fun u => getT u tid = some v ∧ u.cycle = s.cycle)
    (W := fun u => (turnAfter s.cycle (tid % 16), Instr.arrivalCounted tid) ∈ u.agenda) hw (fun u hu => ?_) (fun u k hk hu => ?_)
    (fun u k hin => (wakeOne_barrierFrame p u k).agenda _ hin) ⟨hv, rfl⟩
  · obtain ⟨ht, hcycle⟩ := hu
    simp only [wakeOne, ht, hs, if_true, ← hcycle]
    exact mem_sched.mpr (.inl rfl)
  · obtain ⟨ht, hcycle⟩ := hu
    have frame := wakeOne_barrierFrame p u k
    exact ⟨(frame.threads tid (Ne.symm hk)).trans ht, frame.cycle.trans hcycle⟩

theorem wakePhase_barrierFrame (s : State) (owner core n p : Nat) : BarrierFrame (fun _ => False) s (wakePhase s owner core n p) := by
  rw [wakePhase_eq]
  exact .foldl (fun k _ u => (wakeOne_barrierFrame p u k).weaken nofun) s

end Wake

/-! ## Records and notices of a completed phase (09 R181, R185) -/

/-- The cores of a phase's CSTAT arrivers. -/
def Barrier.contributors (b : Barrier) : List Nat := (b.cstat.map (fun e => e.1 / 16)).eraseDups

/-- The sums of the eight counters of some cores. -/
def counterSums (s : State) (cores : List Nat) : List Nat := (List.range 8).map (fun j => (cores.map (fun c => (nth 0 j (coreSt s c).evc).toNat)).sum)

/-- The record of a CSTAT arriver is on its way, with some sums. -/
def RecordSent (n : Nat) (b : Barrier) (sums : List Nat) (e : Nat × List Place) (u : State) : Prop :=
  ∃ k r, k < u.nextId ∧ tget k u.cstats = some r ∧ r.tid = e.1 ∧ r.bar = n ∧ r.at_ = e.2 ∧ r.phase = b.phase ∧ r.cores = b.contributors.length ∧
    r.sums = sums

/-- A completion notice is on its way from a home to a core. -/
def NoticeSent (cycle owner n home c p : Nat) (u : State) : Prop :=
  ∃ k f, k < u.nextId ∧ tget k u.fwds = some f ∧ f.owner = owner ∧ f.bar = n ∧ f.home = c ∧ f.op = .notice p ∧
    (cycle + fwdTime home c, Instr.barrierCompletionNotice k) ∈ u.agenda

section Sent
variable {P : Nat → Prop} {s u v : State} {owner home n p c cycle : Nat} {b : Barrier} {e : Nat × List Place} {sums : List Nat}

theorem RecordSent.mono (h : RecordSent n b sums e u) (f : BarrierFrame P u v) : RecordSent n b sums e v := by
  obtain ⟨k, r, hk, hr, hrest⟩ := h
  exact ⟨k, r, Nat.lt_of_lt_of_le hk f.ids, (f.records k hk).trans hr, hrest⟩

theorem NoticeSent.mono (h : NoticeSent cycle owner n home c p u) (f : BarrierFrame P u v) : NoticeSent cycle owner n home c p v := by
  obtain ⟨k, g, hk, hg, ho, hb, hc, hop, hin⟩ := h
  obtain ⟨x, d, hx⟩ := f.underWay k hk g hg
  exact ⟨k, _, Nat.lt_of_lt_of_le hk f.ids, hx, ho, hb, hc, hop, f.agenda _ hin⟩

/-- A record leaves under the next free name. -/
theorem newRecord_barrierFrame (P : Nat → Prop) (s : State) (r : CstatRec) (c : Nat) (i : Instr) :
    BarrierFrame P s (sched (fresh { s with cstats := tset s.nextId r s.cstats }) c i) where
  toWalkFrame := { WalkFrame.refl P s with agenda := fun _ h => mem_sched.mpr (.inr h), ids := Nat.le_succ _ }
  places := rfl
  owners := rfl
  records _ hq := tget_tset_ne (Nat.ne_of_lt hq) ..
  underWay _ _ f hf := ⟨f.held, f.due, hf⟩

theorem sendRecords_barrierFrame (P : Nat → Prop) (s : State) (owner home n : Nat) (b : Barrier) : BarrierFrame P s (sendRecords s owner home n b) :=
  .foldl (fun _ _ _ => newRecord_barrierFrame ..) s

/-- Every CSTAT arriver of the phase is sent the sums of the contributing cores as they stand. -/
theorem sendRecords_sent (he : e ∈ b.cstat) : RecordSent n b (counterSums s b.contributors) e (sendRecords s owner home n b) :=
  foldl_reaches (M := fun _ => True) he (fun u _ => ⟨u.nextId, _, Nat.lt_succ_self _, tget_tset_same .., rfl, rfl, rfl, rfl, rfl, rfl⟩)
    (fun _ _ _ h => h) (fun _ _ h => h.mono (newRecord_barrierFrame (fun _ => False) ..)) trivial

/-- Dropping windows changes the engines of clusters only. -/
theorem dropWindows_barrierFrame (P : Nat → Prop) (s : State) (scope core : Nat) : BarrierFrame P s (dropWindows s scope core) := by
  have kept : ∀ F : Nat × ClusterSt → Nat × ClusterSt, (∀ e, (F e).1 = e.1 ∧ (F e).2.tlb = e.2.tlb) → ∀ j,
      ((tget j (s.clusters.map F)).getD ClusterSt.reset).tlb = ((tget j s.clusters).getD ClusterSt.reset).tlb := fun F hF j => by
    have hkey : F = fun e => (e.1, (F e).2) := funext (fun e => Prod.ext (hF e).1 rfl)
    rw [hkey, tget_map]
    cases tget j s.clusters with
    | none => rfl
    | some c => exact (hF (j, c)).2
  refine { BarrierFrame.refl P s with tlb := kept _ (fun e => ?_) }
  dsimp only
  split_ifs <;> exact ⟨rfl, rfl⟩

/-- The cores that are told of a completed phase: those with waiters whose home it is. -/
def noticeCores (s : State) (owner home n : Nat) : List Nat :=
  (placedCores s owner).filter (fun c => c != home && barHome s owner c n == home && !(waitersOn s owner c n).isEmpty)

/-- A completed phase is told: its waiters at the home wake, notices leave, and what was held is offered again. -/
def announced (s : State) (owner home n p : Nat) : State :=
  releaseHeldFwds ((noticeCores s owner home n).foldl (fun u c => sendNotice u owner n home c p) (wakePhase s owner home n p)) owner n

theorem notices_barrierFrame (P : Nat → Prop) (l : List Nat) (u : State) : BarrierFrame P u (l.foldl (fun u c => sendNotice u owner n home c p) u) :=
  .foldl (fun _ _ _ => sendNotice_barrierFrame ..) u

theorem announced_barrierFrame (P : Nat → Prop) (s : State) (owner home n p : Nat) :
    BarrierFrame P (wakePhase s owner home n p) (announced s owner home n p) :=
  (notices_barrierFrame ..).trans (releaseHeldFwds_barrierFrame ..)

theorem announced_notices (hc : c ∈ noticeCores s owner home n) : NoticeSent s.cycle owner n home c p (announced s owner home n p) := by
  refine NoticeSent.mono ?_ (releaseHeldFwds_barrierFrame (fun _ => False) ..)
  refine foldl_reaches (M := fun u => u.cycle = s.cycle) hc (fun u hu => ?_) (fun u x _ hu => (sendNotice_barrierFrame (fun _ => False) ..).cycle.trans hu)
    (fun u x h => h.mono (sendNotice_barrierFrame (fun _ => False) ..)) (wakePhase_barrierFrame ..).cycle
  refine ⟨u.nextId, _, Nat.lt_succ_self _, tget_tset_same .., rfl, rfl, rfl, rfl, ?_⟩
  rw [← hu]
  exact mem_sched.mpr (.inl rfl)

end Sent

/-! ## A phase completes (09 R181) -/

/-- A barrier in the phase after its current one, with nothing counted. -/
def Barrier.nextPhase (b : Barrier) : Barrier :=
  { b with phase := (b.phase + 1) % 2 ^ 32, arrived := 0, expect := 0, delivered := 0, clock := none, cstat := [] }

/-- The barrier stands in the next phase, windows are dropped and records are on their way. -/
def turnedPhase (s : State) (owner home n : Nat) (b : Barrier) : State :=
  sendRecords (dropWindows (setBar s owner home n b.nextPhase) b.scope home) owner home n b

section Completion
variable {s : State} {owner home n : Nat} {b : Barrier}

theorem checkPhase_completes (hb : getBar s owner home n = some b) (he : b.err = none) (ha : b.arrived = b.count) (hd : b.delivered = b.expect) :
    checkPhase s owner home n = announced (turnedPhase s owner home n b) owner home n b.phase := by
  have hcomplete : ¬ (b.err.isSome = true ∨ b.arrived ≠ b.count ∨ b.delivered ≠ b.expect) := by simp [he, ha, hd]
  unfold checkPhase
  rw [hb]
  exact if_neg hcomplete

theorem turnedPhase_barrierFrame (P : Nat → Prop) (s : State) (owner home n : Nat) (b : Barrier) :
    BarrierFrame P (setBar s owner home n b.nextPhase) (turnedPhase s owner home n b) :=
  (dropWindows_barrierFrame ..).trans (sendRecords_barrierFrame ..)

theorem turnedPhase_getT (k : Nat) : getT (turnedPhase s owner home n b) k = getT s k :=
  ((turnedPhase_barrierFrame (fun _ => True) s owner home n b).threads k trivial).trans (getT_setBar ..)

theorem turnedPhase_cycle : (turnedPhase s owner home n b).cycle = s.cycle :=
  (turnedPhase_barrierFrame (fun _ => True) s owner home n b).cycle.trans (setBar_cycle ..)

theorem mem_waitersOn_turnedPhase {c tid : Nat} (h : tid ∈ waitersOn s owner c n) : tid ∈ waitersOn (turnedPhase s owner home n b) owner c n :=
  mem_waitersOn_of_getT h (turnedPhase_getT ..)

/-- A core of the owner with waiters that forwards to the home is told. -/
theorem mem_noticeCores_turnedPhase {c : Nat} (hb : getBar s owner home n = some b) (hp : c ∈ placedCores s owner) (hne : c ≠ home)
    (hh : barHome s owner c n = home) (hw : waitersOn s owner c n ≠ []) : c ∈ noticeCores (turnedPhase s owner home n b) owner home n := by
  have frame := turnedPhase_barrierFrame (fun _ => True) s owner home n b
  have hplaced : c ∈ placedCores (turnedPhase s owner home n b) owner := by
    rw [placedCores, frame.places]
    exact mem_placedCores_setBar.mpr hp
  have hhome : barHome (turnedPhase s owner home n b) owner c n = home := by
    rw [barHome_congr frame.places frame.owners, barHome_setBar (x := b.nextPhase) hb rfl, hh]
  obtain ⟨tid, htid⟩ := List.exists_mem_of_ne_nil _ hw
  have hwaits : (waitersOn (turnedPhase s owner home n b) owner c n).isEmpty = false :=
    List.isEmpty_eq_false_iff_exists_mem.mpr ⟨tid, mem_waitersOn_turnedPhase htid⟩
  exact List.mem_filter.mpr ⟨hplaced, by simp [hne, hhome, hwaits]⟩

/-! ### What stands when the phase has completed -/

variable (hb : getBar s owner home n = some b) (he : b.err = none) (ha : b.arrived = b.count) (hd : b.delivered = b.expect)
include hb he ha hd

/-- What comes after the waiters have woken touches no thread. -/
theorem checkPhase_afterWake : BarrierFrame (fun _ => True) (wakePhase (turnedPhase s owner home n b) owner home n b.phase)
    (checkPhase s owner home n) := by
  rw [checkPhase_completes hb he ha hd]
  exact announced_barrierFrame ..

theorem checkPhase_afterTurn : BarrierFrame (fun _ => False) (turnedPhase s owner home n b) (checkPhase s owner home n) :=
  (wakePhase_barrierFrame ..).trans ((checkPhase_afterWake hb he ha hd).weaken nofun)

theorem checkPhase_getBar : getBar (checkPhase s owner home n) owner home n = some b.nextPhase := by
  have turned := turnedPhase_barrierFrame (fun _ => False) s owner home n b
  rw [getBar_congr ((checkPhase_afterTurn hb he ha hd).places.trans turned.places), getBar_setBar_same hb]

theorem checkPhase_mem : (checkPhase s owner home n).mem = s.mem :=
  (checkPhase_afterTurn hb he ha hd).mem.trans ((turnedPhase_barrierFrame (fun _ => False) s owner home n b).mem.trans (setBar_mem ..))

theorem checkPhase_wakes {tid : Nat} {v : Thread} (hw : tid ∈ waitersOn s owner home n) (hv : getT s tid = some v)
    (hs : v.status = .parked (.phase n b.phase)) (hlen : (barDest v).val < v.g.length) : WentOn v b.phase tid (checkPhase s owner home n) := by
  obtain ⟨x, hx, hrest⟩ := wakePhase_wentOn (mem_waitersOn_turnedPhase (home := home) (b := b) hw) ((turnedPhase_getT tid).trans hv) hs hlen
  exact ⟨x, ((checkPhase_afterWake hb he ha hd).threads tid trivial).trans hx, hrest⟩

theorem checkPhase_counts {tid : Nat} {v : Thread} (hw : tid ∈ waitersOn s owner home n) (hv : getT s tid = some v)
    (hs : v.status = .parked (.phaseFirst n b.phase)) : (turnAfter s.cycle (tid % 16), Instr.arrivalCounted tid) ∈ (checkPhase s owner home n).agenda := by
  have hin := wakePhase_counts (mem_waitersOn_turnedPhase (home := home) (b := b) hw) ((turnedPhase_getT tid).trans hv) hs
  rw [turnedPhase_cycle] at hin
  exact (checkPhase_afterWake hb he ha hd).agenda _ hin

/-- Every core with waiters whose home it is is told. -/
theorem checkPhase_notifies {c : Nat} (hc : c ∈ placedCores s owner) (hne : c ≠ home) (hh : barHome s owner c n = home)
    (hw : waitersOn s owner c n ≠ []) : NoticeSent s.cycle owner n home c b.phase (checkPhase s owner home n) := by
  have hsent := announced_notices (p := b.phase) (mem_noticeCores_turnedPhase hb hc hne hh hw)
  rwa [turnedPhase_cycle, ← checkPhase_completes hb he ha hd] at hsent

/-- Every CSTAT arriver is sent its record, with the counters as they stood. -/
theorem checkPhase_records {e : Nat × List Place} (hin : e ∈ b.cstat) :
    RecordSent n b (counterSums s b.contributors) e (checkPhase s owner home n) := by
  have hsums : counterSums (dropWindows (setBar s owner home n b.nextPhase) b.scope home) b.contributors = counterSums s b.contributors := by
    simp only [counterSums, coreSt, dropWindows, setBar_cores]
  have hsent : RecordSent n b _ e (turnedPhase s owner home n b) := sendRecords_sent hin
  rw [hsums] at hsent
  exact hsent.mono (checkPhase_afterTurn hb he ha hd)

end Completion

end Sys2Proof.Machine

namespace Sys2Proof.Machine

/-! ## The thread that an instruction reads as -/

theorem substPort_settings (t : Thread) (reads : List Reg) (v : GReg) : (substPort t reads v).settings = t.settings := by
  unfold substPort
  refine List.foldlRecOn (motive := fun u : Thread => u.settings = t.settings) reads _ rfl (fun u hu r _ => ?_)
  split
  · exact (Thread.settings_wr u r v).trans hu
  · exact hu

/-- Whatever its registers stand for, the thread as it is read has its own owner. -/
theorem Thread.owner_of_settings {t u : Thread} (h : u.settings = t.settings) : u.owner = t.owner := by
  simp only [Thread.settings, Prod.mk.injEq] at h
  simp only [h]

theorem issuer_owner {s : State} {i : Issue} {u v : Thread} (hi : issuer s = some (i, u)) (hv : getT s i.tid = some v) : v.owner = u.owner := by
  unfold issuer at hi
  split at hi
  · cases hi
  · next j hj =>
    obtain ⟨w, hw, heq⟩ := Option.map_eq_some_iff.mp hi
    cases heq
    rw [hv] at hw
    cases hw
    split <;> rfl

section Read
variable {s : State} {regs reads : List Reg} {i : Issue} {t v : Thread} {pop : Option InboxEntry}

theorem reading_owner (h : reading s regs reads = some (i, t, pop)) (hv : getT s i.tid = some v) : v.owner = t.owner := by
  obtain ⟨u, hi, -, hport⟩ := reading_cases h
  have hu := issuer_owner hi hv
  rcases hport with ⟨-, rfl, -⟩ | ⟨-, e, -, -, -, -, rfl, -⟩
  · exact hu
  · exact hu.trans (Thread.owner_of_settings (substPort_settings u reads e.payload)).symm

/-- The faults before a PORT's read, found on the issuing thread, of the owner that the thread has as it is read. -/
theorem noneBefore_of_owner {body : Issue → Thread → Except Stop State} (h : reading s regs reads = some (i, t, pop))
    (hf : ∀ u, u.owner = t.owner → ReadsAs reads u t → (∃ r ∈ reads, (u.rd r).kind = .port) → faultBefore u reads (body i u) = none) :
    NoneBefore s reads body := by
  obtain ⟨w, hw, -, hport⟩ := reading_cases h
  intro j u hi hq
  cases hw.symm.trans hi
  rcases hport with ⟨hnone, -, -⟩ | ⟨r, e, hr, -, -, -, rfl, -⟩
  · exact absurd hnone hq
  · exact hf w (Thread.owner_of_settings (substPort_settings w reads e.payload)).symm (readsAs_substPort reads w e.payload)
      ⟨r, List.mem_of_find?_eq_some hr, by simpa using List.find?_some hr⟩

end Read

/-! ## A barrier's clock and its arrivals (09 R181, R183) -/

theorem setT_setT (s : State) (k : Nat) (x y : Thread) : setT (setT s k x) k y = setT s k y :=
  congrArg (fun l => { s with threads := l }) (tset_tset k x y s.threads)

theorem startClock_setT (s : State) (owner home n k : Nat) (t : Thread) :
    startClock (setT s k t) owner home n = setT (startClock s owner home n) k t := by
  have hbar : getBar (setT s k t) owner home n = getBar s owner home n := rfl
  simp only [startClock, hbar]
  split
  · rfl
  · split
    · rfl
    · rw [setBar_setT]
      rfl

/-- A barrier with one arrival more, which may ask for a record. -/
def Barrier.withArrival (b : Barrier) (tid : Nat) (cs : Option (List Place)) : Barrier :=
  { b with arrived := b.arrived + 1, cstat := b.cstat ++ (cs.map (fun p => (tid, p))).toList }

theorem Barrier.withArrival_none (b : Barrier) (tid : Nat) : b.withArrival tid none = { b with arrived := b.arrived + 1 } := by
  simp only [Barrier.withArrival, Option.map_none, Option.toList_none, List.append_nil]

theorem senderOf_some {s : State} {owner tid : Nat} {v : Thread} (hv : getT s tid = some v) (ho : v.owner = owner) : senderOf s owner tid = some v := by
  simp [senderOf, hv, ho]

theorem senderOf_none {s : State} {owner tid : Nat} (h : ∀ v, getT s tid = some v → v.owner ≠ owner) : senderOf s owner tid = none := by
  simpa [senderOf, Option.filter_eq_none_iff] using h

section Arrive
variable {s : State} {owner home n tid : Nat} {cs : Option (List Place)} {b : Barrier} {v : Thread}

theorem arriveAt_error (hb : getBar s owner home n = some b) {c : Cause} {a : Nat} (he : b.err = some (c, a)) :
    arriveAt s owner home n tid cs = .error c a := by
  simp only [arriveAt, hb, he]

variable (hb : getBar s owner home n = some b) (he : b.err = none)
include hb he

/-- A thread that has arrived in the phase, or one more than the phase takes, waits for the phase to complete. -/
theorem arriveAt_blocked (hs : senderOf s owner tid = some v) (h : tget n v.arrivals = some b.phase ∨ b.arrived = b.count) :
    arriveAt s owner home n tid cs = .blocked b.phase := by
  simp only [arriveAt, hb, he, hs]
  exact if_pos (h.imp_left (fun e => by simp [arrivalOf, e]))

theorem arriveAt_counted (hs : senderOf s owner tid = some v) (hfirst : tget n v.arrivals ≠ some b.phase) (hopen : b.arrived ≠ b.count) :
    arriveAt s owner home n tid cs = .counted (startClock (setBar (setT s tid { v with arrivals := tset n b.phase v.arrivals }) owner home n
      (b.withArrival tid cs)) owner home n) b.phase := by
  simp only [arriveAt, hb, he, hs]
  refine (if_neg (by simp [arrivalOf, hfirst, hopen])).trans ?_
  cases cs with
  | none => simp only [Barrier.withArrival_none, he]
  | some p => simp only [Barrier.withArrival, Option.map_some, Option.toList_some, he]

/-- An arrival whose thread has ended since is counted (09 R176). -/
theorem arriveAt_ended (hs : senderOf s owner tid = none) (hopen : b.arrived ≠ b.count) :
    arriveAt s owner home n tid cs = .counted (startClock (setBar s owner home n (b.withArrival tid cs)) owner home n) b.phase := by
  simp only [arriveAt, hb, he, hs]
  refine (if_neg (by simp [hopen])).trans ?_
  cases cs with
  | none => simp only [Barrier.withArrival_none, he]
  | some p => simp only [Barrier.withArrival, Option.map_some, Option.toList_some, he]

end Arrive

/-! ## BINIT, BARR and BEXP (09 R179-R181) -/

section Setup
variable {n : Fin 512} {a : Reg} {s : State} {i : Issue} {t v : Thread} {pop : Option InboxEntry} {b : Barrier}

theorem needBar_ok {tid : Nat} (hb : getBar s t.owner (tid / 16) n.val = some b) : needBar s tid t n = .ok b := by
  simp only [needBar, hb]

theorem bits_eq_extractLsb' {w : Nat} (x : BitVec w) (lo k : Nat) : bits x.toNat lo k = (x.extractLsb' lo k).toNat := by
  rw [bits, BitVec.extractLsb'_toNat, Nat.shiftRight_eq_div_pow]

/-- A meaning whose first check is for DATA in its one operand, which holds DATA, answers what comes after the check. -/
theorem issueWith_data {f : Issue → Thread → Unit → Except Stop State} {u : State} (h : reading s [a] [a] = some (i, t, pop)) (ha : IsData t a)
    (hf : f i t () = .ok u) : issueWith s [a] [a] (fun i t => needKind .data a (t.rd a) >>= f i t) = .next (finish pop i.tid u) := by
  refine issueWith_ok h (noneBefore_of h (fun w hw hp => ?_)) ?_
  · exact faultBefore_needKind hw ha (by decide) (fun na => no_port_left hp (by simp [na]))
  · rw [needKind_ok ha]
    exact hf

theorem binit_sets (hb : getBar s t.owner (i.tid / 16) n.val = some b) (h : reading s [a] [a] = some (i, t, pop)) (ha : IsData t a)
    (hhigh : (low t a).extractLsb' 48 16 = 0) (hlow : (low t a).extractLsb' 19 13 = 0) (hcount : (low t a).extractLsb' 0 16 ≠ 0)
    (hscope : ((low t a).extractLsb' 16 3).toNat < 4)
    (hpop : ((low t a).extractLsb' 16 3).toNat ≠ 0 → ∃ o, getO s t.owner = some o ∧ o.isPop = true)
    (hidle : b.err.isSome = true ∨ (b.arrived = 0 ∧ b.expect = 0 ∧ b.delivered = 0 ∧ parkedOn s t.owner (i.tid / 16) n.val = false)) :
    exec (.binit n a) s = .next (finish pop i.tid (advance (setBar s t.owner (i.tid / 16) n.val
      (if homeCore s t.owner (i.tid / 16) ((low t a).extractLsb' 16 3).toNat = i.tid / 16 then
        ⟨none, ((low t a).extractLsb' 16 3).toNat, ((low t a).extractLsb' 0 16).toNat, ((low t a).extractLsb' 32 16).toNat, b.phase, 0, 0, 0, none, []⟩
      else { b with scope := ((low t a).extractLsb' 16 3).toNat })) i.tid)) := by
  have hquiet : (b.err.isNone && (b.arrived != 0 || b.expect != 0 || b.delivered != 0 || parkedOn s t.owner (i.tid / 16) n.val)) = false := by
    rcases hidle with herr | ⟨h1, h2, h3, h4⟩
    · rw [← Option.not_isSome, herr]
      rfl
    · simp [h1, h2, h3, h4]
  rw [exec_binit, execBinit]
  refine issueWith_data h ha ?_
  simp only [needBar_ok hb, ok_bind, lo64_eq_low, bits_eq_extractLsb']
  rw [if_neg (by
    rintro (e | e | e | e | ⟨e, notPop⟩ | e)
    · exact e (congrArg BitVec.toNat hhigh)
    · exact e (congrArg BitVec.toNat hlow)
    · exact hcount (BitVec.eq_of_toNat_eq e)
    · exact Nat.not_le.mpr hscope e
    · obtain ⟨o, ho, hisPop⟩ := hpop e
      simp [ho, hisPop] at notPop
    · exact Bool.false_ne_true (hquiet.symm.trans e))]
  split
  · rfl
  · rfl

section Barr
variable (hb : getBar s t.owner (i.tid / 16) n.val = some b) (h : reading s [] [] = some (i, t, none))
include hb h

theorem barr_forwards (hq : quietAt b.scope s i.tid = true) (hhome : barHome s t.owner (i.tid / 16) n.val ≠ i.tid / 16) :
    exec (.barr n) s = .next (advance (sendFwd s t.owner n.val (i.tid / 16) (barHome s t.owner (i.tid / 16) n.val) (.arrive i.tid)) i.tid) := by
  rw [exec_barr, execBarr]
  refine issueWith_pops_none h ?_
  simp only [needBar_ok hb, ok_bind, hhome, ne_eq, not_false_eq_true, if_true, hq, Bool.not_true, Bool.false_eq_true, if_false]

variable (hhome : barHome s t.owner (i.tid / 16) n.val = i.tid / 16)
include hhome

theorem barr_faults {c : Cause} {w : Nat} (he : b.err = some (c, w)) : exec (.barr n) s = .next (takeFault s i.tid c w) := by
  rw [exec_barr, execBarr]
  refine issueWith_stop (st := .fault c w) h noneBefore_nil ?_
  simp only [needBar_ok hb, ok_bind, hhome, ne_eq, not_true_eq_false, if_false, arriveAt_error hb he]

variable (hq : quietAt b.scope s i.tid = true) (he : b.err = none) (hv : getT s i.tid = some v)
include hq he hv

theorem barr_counts (hfirst : tget n.val v.arrivals ≠ some b.phase) (hopen : b.arrived ≠ b.count) :
    exec (.barr n) s = .next (checkPhase (advance (startClock (setBar (setT s i.tid { v with arrivals := tset n.val b.phase v.arrivals })
      t.owner (i.tid / 16) n.val { b with arrived := b.arrived + 1 }) t.owner (i.tid / 16) n.val) i.tid) t.owner (i.tid / 16) n.val) := by
  have hcount := arriveAt_counted (cs := none) hb he (senderOf_some hv (reading_owner h hv)) hfirst hopen
  rw [Barrier.withArrival_none] at hcount
  rw [exec_barr, execBarr]
  refine issueWith_pops_none h ?_
  simp only [needBar_ok hb, ok_bind, hhome, ne_eq, not_true_eq_false, if_false, hcount, hq, Bool.not_true, Bool.false_eq_true]

theorem barr_parks (hblocked : tget n.val v.arrivals = some b.phase ∨ b.arrived = b.count) :
    exec (.barr n) s = .next (parkAs (startClock s t.owner (i.tid / 16) n.val) i.tid (.phaseFirst n.val b.phase)) := by
  have hblock := arriveAt_blocked (cs := none) hb he (senderOf_some hv (reading_owner h hv)) hblocked
  rw [exec_barr, execBarr]
  refine issueWith_pops_none h ?_
  simp only [needBar_ok hb, ok_bind, hhome, ne_eq, not_true_eq_false, if_false, hblock, hq, if_true]

end Barr

section Bexp
variable (hb : getBar s t.owner (i.tid / 16) n.val = some b) (h : reading s [a] [a] = some (i, t, pop)) (ha : IsData t a)
include hb h ha

theorem bexp_untaken (hnone : getBar s t.owner (barHome s t.owner (i.tid / 16) n.val) n.val = none) (hx : (low t a).toNat ≤ 2 ^ 48 - 1) :
    exec (.bexp n a) s = .next (finish pop i.tid (advance (sendFwd s t.owner n.val (i.tid / 16) (barHome s t.owner (i.tid / 16) n.val)
      (.bexp (low t a).toNat)) i.tid)) := by
  rw [exec_bexp, execBexp]
  refine issueWith_data h ha ?_
  simp only [needBar_ok hb, ok_bind, lo64_eq_low, hnone]
  exact if_neg (Nat.not_lt.mpr hx)

theorem bexp_forwards {g : Barrier} (hg : getBar s t.owner (barHome s t.owner (i.tid / 16) n.val) n.val = some g)
    (hx : g.expect + (low t a).toNat ≤ 2 ^ 48 - 1) (hne : barHome s t.owner (i.tid / 16) n.val ≠ i.tid / 16) :
    exec (.bexp n a) s = .next (finish pop i.tid (advance (sendFwd s t.owner n.val (i.tid / 16) (barHome s t.owner (i.tid / 16) n.val)
      (.bexp (low t a).toNat)) i.tid)) := by
  rw [exec_bexp, execBexp]
  refine issueWith_data h ha ?_
  simp only [needBar_ok hb, ok_bind, lo64_eq_low, hg]
  exact (if_neg (Nat.not_lt.mpr hx)).trans (if_pos hne)

theorem bexp_raises (hx : b.expect + (low t a).toNat ≤ 2 ^ 48 - 1) (hhome : barHome s t.owner (i.tid / 16) n.val = i.tid / 16) (he : b.err = none) :
    exec (.bexp n a) s = .next (finish pop i.tid (advance (checkPhase (setBar s t.owner (i.tid / 16) n.val
      { b with expect := b.expect + (low t a).toNat }) t.owner (i.tid / 16) n.val) i.tid)) := by
  have hclear : ¬ b.err.isSome = true := by rw [he]; exact Bool.false_ne_true
  rw [exec_bexp, execBexp]
  refine issueWith_data h ha ?_
  simp only [needBar_ok hb, ok_bind, lo64_eq_low, hhome, hb]
  exact (if_neg (Nat.not_lt.mpr hx)).trans ((if_neg (not_not.mpr rfl)).trans (if_neg hclear))

end Bexp

end Setup

/-- Settles O19: each instruction by the barrier's home, its ERROR and its arrivals. -/
theorem barrierSetupAndArrival : Obligations.BarrierSetupAndArrival := by
  intro n a s i t pop b core x scope home hb
  refine ⟨fun h ha hhigh hlow hcount hscope hpop hidle => binit_sets hb h ha hhigh hlow hcount hscope hpop hidle, fun v h hv hq => ⟨?_, ?_, ?_, ?_⟩,
    fun h ha hnone hx => ?_, fun g h ha hg hx => ⟨fun hne => ?_, fun hhome he => ?_⟩⟩
  · exact barr_forwards hb h hq
  · exact fun hhome he hfirst hopen => barr_counts hb h hhome hq he hv hfirst hopen
  · exact fun hhome he hblocked => barr_parks hb h hhome hq he hv hblocked
  · exact fun c w hhome he => barr_faults hb h hhome he
  · exact bexp_untaken hb h ha hnone hx
  · exact bexp_forwards hb h ha hg hx hne
  · have hhere : getBar s t.owner (i.tid / 16) n.val = some g := (congrArg (getBar s t.owner · n.val) hhome).symm.trans hg
    cases hb.symm.trans hhere
    exact bexp_raises hb h ha hx hhome he

end Sys2Proof.Machine

namespace Sys2Proof.Machine

/-! ## BWAIT, BSYNC and CSTAT (09 R181, R185) -/

/-- What a meaning comes to once its operands are at hand: the state it answers, the pop committed, or the stop of its bundle. -/
def settled (s : State) (tid : Nat) (pop : Option InboxEntry) (x : Except Stop State) : Host.Outcome State Fault Refusal :=
  match x with
  | .ok u => .next (finish pop tid u)
  | .error st => .next (stopAt s tid st)

/-- A thread waits for a barrier's phase, at the home or by an operation that goes there. -/
def waitsFor (s : State) (tid : Nat) (t : Thread) (n : Nat) (d : Reg) (cstat : Bool) : Except Stop State :=
  if barHome s t.owner (tid / 16) n = tid / 16 then waitHere s tid t n d cstat
  else .ok (parkAs (sendFwd (setBarDest s tid d.val) t.owner n (tid / 16) (barHome s t.owner (tid / 16) n) (.wait tid none none)) tid (.home n))

section Waits
variable {s : State} {tid n : Nat} {t v : Thread} {d : Reg} {b : Barrier}

/-- The phase that the thread arrived in is over. -/
theorem waitPhase_over {w : Nat} (hw : tget n t.arrivals = some w) (hne : w ≠ b.phase) : waitPhase b t n = (w, true) := by
  simp [waitPhase, arrivalOf, hw, hne]

theorem waitPhase_current (hw : ∀ w, tget n t.arrivals = some w → w = b.phase) : waitPhase b t n = (b.phase, false) := by
  have hphase : (tget n t.arrivals).getD b.phase = b.phase := by
    cases ha : tget n t.arrivals with
    | none => rfl
    | some w => exact hw w ha
  simp [waitPhase, arrivalOf, hphase]

theorem waitsFor_away (hhome : barHome s t.owner (tid / 16) n ≠ tid / 16) (cstat : Bool) : waitsFor s tid t n d cstat =
    .ok (parkAs (sendFwd (setBarDest s tid d.val) t.owner n (tid / 16) (barHome s t.owner (tid / 16) n) (.wait tid none none)) tid (.home n)) :=
  if_neg hhome

section AtHome
variable (hb : getBar s t.owner (tid / 16) n = some b) (hhome : barHome s t.owner (tid / 16) n = tid / 16) (cstat : Bool)
include hb hhome

theorem waitsFor_error {c : Cause} {a : Nat} (he : b.err = some (c, a)) : waitsFor s tid t n d cstat = .error (.fault c a) := by
  rw [waitsFor, if_pos hhome]
  simp only [waitHere, hb, he]

variable (he : b.err = none)
include he

theorem waitsFor_over {w : Nat} (hw : tget n t.arrivals = some w) (hne : w ≠ b.phase) :
    waitsFor s tid t n d cstat = .ok (advance (dropAhead (setReg s tid d (dataOf w)) tid) tid) := by
  rw [waitsFor, if_pos hhome]
  simp only [waitHere, hb, he, waitPhase_over hw hne, if_true]

theorem waitsFor_current (hw : ∀ w, tget n t.arrivals = some w → w = b.phase) : waitsFor s tid t n d cstat =
    .ok (parkAs (startClock (setBarDest s tid d.val) t.owner (tid / 16) n) tid (if cstat then .cstat n b.phase else .phase n b.phase)) := by
  rw [waitsFor, if_pos hhome]
  simp only [waitHere, hb, he, waitPhase_current hw, Bool.false_eq_true, if_false]

end AtHome

/-! ### Arriving and waiting -/

section Arrive
variable {cs : Option (List Place)}

/-- Once the arrival has been saved, only the wait is left (09 R184). -/
theorem arriveAndWait_again (ha : t.arrived = true) : arriveAndWait s tid t n d cs = waitsFor s tid t n d cs.isSome := by
  rw [arriveAndWait]
  exact if_pos ha

section Error
variable (hb : getBar s t.owner (tid / 16) n = some b)
include hb

theorem barHere_eq : barHere s t.owner (tid / 16) n = (b.err, b.scope) := by simp only [barHere, hb]

theorem arriveAndWait_error (hhome : barHome s t.owner (tid / 16) n = tid / 16) {c : Cause} {a : Nat} (he : b.err = some (c, a)) :
    arriveAndWait s tid t n d cs = .error (.fault c a) := by
  cases ha : t.arrived with
  | true => rw [arriveAndWait_again ha, waitsFor_error hb hhome _ he]
  | false => simp only [arriveAndWait, ha, Bool.false_eq_true, if_false, barHere_eq hb, hhome, if_true, he]

variable (ha : t.arrived = false)
include ha

theorem arriveAndWait_unquiet (he : barHome s t.owner (tid / 16) n = tid / 16 → b.err = none) (hq : quietAt b.scope s tid = false) :
    arriveAndWait s tid t n d cs = .error (.wait (.relaxedPoint b.scope)) := by
  have hclear : (if barHome s t.owner (tid / 16) n = tid / 16 then b.err else none) = none := by
    split
    · next h => exact he h
    · rfl
  simp only [arriveAndWait, ha, Bool.false_eq_true, if_false, barHere_eq hb, hclear, hq, Bool.not_false, if_true]

variable (hq : quietAt b.scope s tid = true)
include hq

theorem arriveAndWait_away (hhome : barHome s t.owner (tid / 16) n ≠ tid / 16) : arriveAndWait s tid t n d cs =
    .ok (parkAs (sendFwd (setBarDest s tid d.val) t.owner n (tid / 16) (barHome s t.owner (tid / 16) n) (.arriveWait tid cs)) tid (.home n)) := by
  simp only [arriveAndWait, ha, Bool.false_eq_true, if_false, barHere_eq hb, hhome, hq, Bool.not_true, ne_eq, not_false_eq_true, if_true]

variable (hhome : barHome s t.owner (tid / 16) n = tid / 16) (he : b.err = none) (hv : getT s tid = some v) (ho : v.owner = t.owner)
include hhome he hv ho

theorem arriveAndWait_blocked (hblocked : tget n v.arrivals = some b.phase ∨ b.arrived = b.count) :
    arriveAndWait s tid t n d cs = .ok (parkAs (startClock s t.owner (tid / 16) n) tid (.phaseFirst n b.phase)) := by
  have hblock := arriveAt_blocked (cs := cs) hb he (senderOf_some hv ho) hblocked
  simp only [arriveAndWait, ha, Bool.false_eq_true, if_false, barHere_eq hb, hhome, he, hq, Bool.not_true, ne_eq, not_true_eq_false, if_true, hblock]

/-- An arriver is counted and parks in the phase, which is then checked. -/
theorem arriveAndWait_counted (hfirst : tget n v.arrivals ≠ some b.phase) (hopen : b.arrived ≠ b.count) : arriveAndWait s tid t n d cs =
    .ok (checkPhase (arrivedAndParked s tid v t.owner n b (cs.map (fun p => (tid, p))).toList d
      (if cs.isSome then .cstat n b.phase else .phase n b.phase)) t.owner (tid / 16) n) := by
  have hcount := arriveAt_counted (cs := cs) hb he (senderOf_some hv ho) hfirst hopen
  rw [setBar_setT, startClock_setT] at hcount
  simp only [arriveAndWait, ha, Bool.false_eq_true, if_false, barHere_eq hb, hhome, he, hq, Bool.not_true, ne_eq, not_true_eq_false, if_true, hcount,
    getT_setT_same, setT_setT]
  cases cs with
  | none => rfl
  | some p => rfl

end Error

end Arrive

end Waits

/-! ### The instructions -/

section Instructions
variable {n : Fin 512} {d a : Reg} {s : State} {i : Issue} {t : Thread} {pop : Option InboxEntry} {b : Barrier}
  (hb : getBar s t.owner (i.tid / 16) n.val = some b)
include hb

theorem bwait_settles (h : reading s [d] [] = some (i, t, none)) (hd : Free t d) :
    exec (.bwait n d) s = settled s i.tid none (waitsFor s i.tid t n.val d false) := by
  rw [exec_bwait, execBwait, issueWith_reading h noneBefore_nil]
  simp only [needBar_ok hb, destOk_ok hd, ok_bind]
  rfl

theorem bsync_settles (h : reading s [d] [] = some (i, t, none)) (hd : Free t d) :
    exec (.bsync n d) s = settled s i.tid none (arriveAndWait s i.tid t n.val d none) := by
  rw [exec_bsync, execBsync, issueWith_reading h noneBefore_nil]
  simp only [needBar_ok hb, destOk_ok hd, ok_bind]
  rfl

/-- The places of a CSTAT's record: none for G0, or 80 bytes of the owner's memory that its capability may write. -/
def RecordPlaces (s : State) (core : Nat) (t : Thread) (a : Reg) (ps : List Place) (x : Nat) : Prop :=
  if a = 0 then ps = []
  else (t.rd a).kind = .cap ∧ capCheck (t.rd a).bits Need.st 0 80 = .ok x ∧ x % 16 = 0 ∧
    rangePlaces s core t.ctx (t.rd a).bits false Need.st x 5 = .ok ps ∧ ps.all ownMemory = true

theorem cstat_settles {ps : List Place} {x : Nat} (h : reading s [a] [a] = some (i, t, pop)) (hp : RecordPlaces s (i.tid / 16) t a ps x) :
    exec (.cstat n a) s = settled s i.tid pop (arriveAndWait s i.tid t n.val 0 (some ps)) := by
  unfold RecordPlaces at hp
  rw [exec_cstat, execCstat]
  by_cases ha : a = 0
  · rw [if_pos ha] at hp
    subst ha hp
    refine (issueWith_reading h (noneBefore_of h (fun u _ hport => no_port_left hport (by simp [Thread.rd_zero])))).trans ?_
    simp only [needBar_ok hb, ok_bind, if_true]
    rfl
  · rw [if_neg ha] at hp
    obtain ⟨hk, hcheck, halign, hrange, hown⟩ := hp
    refine (issueWith_reading h (noneBefore_of_owner h (fun u ho hu hport => ?_))).trans ?_
    · simp only [needBar_ok (t := u) (ho ▸ hb), ok_bind, if_neg ha]
      exact faultBefore_needKind hu hk (by decide) (fun na => no_port_left hport (by simp [na]))
    · simp only [needBar_ok hb, ok_bind, if_neg ha, needKind_ok (k := .cap) hk, hcheck, needAlign, halign, hrange, hown, if_true]
      rfl

end Instructions

/-- Settles O20: the waits by the barrier's home, its ERROR and the thread's arrival; the completion by what it sends and wakes, which nothing that
comes after it in the cycle undoes. -/
theorem barrierWaits : Obligations.BarrierWaits := by
  refine ⟨?_, ?_, fun s owner core n p tid v hw hv hs hlen => wakePhase_wentOn hw hv hs hlen⟩
  · intro n d a s i t v pop b core home sent fresh here hb hv
    refine ⟨fun h hd => ?_, fun ps x h hps => ?_⟩
    · have ho := reading_owner h hv
      rw [bwait_settles hb h hd, bsync_settles hb h hd]
      refine ⟨fun c x hh he => ?_, fun w hh he hw hne => ?_, fun hh he hw => ?_, fun hh => ?_, fun hf hh => ?_, fun hf hh he hblocked => ?_,
        fun hf hh hq => ?_, fun ha => ?_, fun hf hh => ?_⟩
      · rw [waitsFor_error hb hh _ he, arriveAndWait_error hb hh he]
        exact ⟨rfl, rfl⟩
      · rw [waitsFor_over hb hh _ he hw hne]
        rfl
      · rw [waitsFor_current hb hh _ he hw]
        rfl
      · rw [waitsFor_away hh]
        rfl
      · obtain ⟨⟨hna, hq⟩, hcore, he, hfirst, hopen⟩ := And.intro hf hh
        rw [arriveAndWait_counted hb hna hq hcore he hv ho hfirst hopen]
        rfl
      · rw [arriveAndWait_blocked hb hf.1 hf.2 hh he hv ho hblocked]
        rfl
      · rw [arriveAndWait_unquiet hb hf hh hq]
        rfl
      · rw [arriveAndWait_again ha]
        rfl
      · rw [arriveAndWait_away hb hf.1 hf.2 hh]
        rfl
    · have ho := reading_owner h hv
      rw [cstat_settles hb h hps]
      refine ⟨fun c w hh he => ?_, fun hf hh => ?_, fun hf hh he hblocked => ?_, fun hf hh => ?_⟩
      · rw [arriveAndWait_error hb hh he]
        rfl
      · obtain ⟨⟨hna, hq⟩, hcore, he, hfirst, hopen⟩ := And.intro hf hh
        rw [arriveAndWait_counted hb hna hq hcore he hv ho hfirst hopen]
        rfl
      · rw [arriveAndWait_blocked hb hf.1 hf.2 hh he hv ho hblocked]
        rfl
      · rw [arriveAndWait_away hb hf.1 hf.2 hh]
        rfl
  · intro s owner home n b hb he ha hd u
    refine ⟨checkPhase_getBar hb he ha hd, checkPhase_mem hb he ha hd, fun tid v hw hv hs hlen => checkPhase_wakes hb he ha hd hw hv hs hlen,
      fun tid v hw hv hs => checkPhase_counts hb he ha hd hw hv hs, fun c hc hne hh hw => ?_, fun e hin => ?_⟩
    · obtain ⟨k, f, -, hf⟩ := checkPhase_notifies hb he ha hd hc hne hh hw
      exact ⟨k, f, hf⟩
    · obtain ⟨k, r, -, hr⟩ := checkPhase_records hb he ha hd hin
      exact ⟨k, r, hr⟩

end Sys2Proof.Machine

namespace Sys2Proof.Machine

/-! ## The first of the operations that reach a home in a cycle (09 R177, 01 R13) -/

section Sorted
variable {α : Type} {le : α → α → Bool}

theorem mem_insertBy {x y : α} {l : List α} : y ∈ insertBy le x l ↔ y = x ∨ y ∈ l := by
  obtain ⟨before, after, rfl, hinsert, -, -⟩ := insertBy_split le x l
  rw [hinsert]
  simp only [List.mem_append, List.mem_cons]
  tauto

theorem mem_sortBy {y : α} {l : List α} : y ∈ sortBy le l ↔ y ∈ l := by
  induction l with
  | nil => exact .rfl
  | cons x rest ih => rw [sortBy, mem_insertBy, ih, List.mem_cons]

/-- A list in order begins with an element that precedes every one of it. -/
theorem sortBy_head_le (total : ∀ a b, le a b = true ∨ le b a = true) (trans : ∀ a b c, le a b = true → le b c = true → le a c = true)
    {l tail : List α} {p : α} (h : sortBy le l = p :: tail) : ∀ x ∈ l, le p x = true := by
  induction l generalizing p tail with
  | nil => nofun
  | cons y rest ih =>
    rw [sortBy] at h
    cases hrest : sortBy le rest with
    | nil =>
      have hnone : rest = [] := List.eq_nil_iff_forall_not_mem.mpr (fun z hz => by simpa [hrest] using mem_sortBy (le := le).mpr hz)
      rw [hrest, insertBy] at h
      cases h
      subst hnone
      exact fun x hx => by rw [List.mem_singleton.mp hx]; exact (total y y).elim id id
    | cons q more =>
      have hq := ih hrest
      rw [hrest, insertBy] at h
      split at h
      · next hyq =>
        cases h
        exact List.forall_mem_cons.mpr ⟨(total y y).elim id id, fun x hx => trans _ _ _ hyq (hq x hx)⟩
      · next hyq =>
        cases h
        exact List.forall_mem_cons.mpr ⟨(total _ y).resolve_right hyq, hq⟩

end Sorted

theorem fwdBefore_iff {a b : Nat × Fwd} : fwdBefore a b = true ↔
    a.2.sent < b.2.sent ∨ (a.2.sent = b.2.sent ∧ (a.2.from_ < b.2.from_ ∨ (a.2.from_ = b.2.from_ ∧ a.1 ≤ b.1))) := by
  simp [fwdBefore]

/-- The operation that acts is under way to the core, and none that may act there is older, or as old and of a lower core. -/
theorem firstFwd_oldest {s : State} {id : Nat} {f : Fwd} (hf : tget id s.fwds = some f) (hfirst : firstFwd s id = id) {j : Nat} {g : Fwd}
    (hg : (j, g) ∈ s.fwds) (hhome : g.home = f.home) (hheld : g.held = false) (hdue : g.due ≤ s.cycle) (hnotice : g.isNotice = false) :
    ∃ h, (id, h) ∈ s.fwds ∧ h.home = f.home ∧ h.held = false ∧ h.due ≤ s.cycle ∧ h.sent ≤ g.sent ∧ (h.sent = g.sent → h.from_ ≤ g.from_) := by
  have hin : (j, g) ∈ s.fwds.filter (fun p => p.2.home == f.home && decide (p.2.due ≤ s.cycle) && !p.2.held && !p.2.isNotice) :=
    List.mem_filter.mpr ⟨hg, by simp [hhome, hheld, hdue, hnotice]⟩
  simp only [firstFwd, hf] at hfirst
  cases hsort : sortBy fwdBefore (s.fwds.filter (fun p => p.2.home == f.home && decide (p.2.due ≤ s.cycle) && !p.2.held && !p.2.isNotice)) with
  | nil => simpa [hsort] using mem_sortBy (le := fwdBefore).mpr hin
  | cons p tail =>
    rw [hsort] at hfirst
    obtain ⟨k, h⟩ := p
    change k = id at hfirst
    subst hfirst
    have hhead : (k, h) ∈ sortBy fwdBefore (s.fwds.filter (fun p => p.2.home == f.home && decide (p.2.due ≤ s.cycle) && !p.2.held && !p.2.isNotice)) := by
      rw [hsort]
      exact List.mem_cons_self ..
    obtain ⟨hmem, hacts⟩ := List.mem_filter.mp (mem_sortBy.mp hhead)
    simp only [Bool.and_eq_true, beq_iff_eq, decide_eq_true_eq, Bool.not_eq_true'] at hacts
    obtain ⟨⟨⟨hh, hd⟩, hl⟩, -⟩ := hacts
    have hle := sortBy_head_le (le := fwdBefore) (fun a b => by simp only [fwdBefore_iff]; omega)
      (fun a b c hab hbc => by simp only [fwdBefore_iff] at *; omega) hsort _ hin
    rw [fwdBefore_iff] at hle
    dsimp only at hle
    exact ⟨h, hmem, hh, hl, hd, by omega, by omega⟩

/-! ## An operation reaches the home, or an answer the thread (09 R177, R180, R181) -/

section Forward
variable {id : Nat} {s : State} {f : Fwd} {b : Barrier} {tid : Nat} {v : Thread}

/-- An operation that acts is no longer under way. -/
abbrev taken (s : State) (id : Nat) : State := { s with fwds := tdel id s.fwds }

theorem getBar_taken (s : State) (id owner core n : Nat) : getBar (taken s id) owner core n = getBar s owner core n := rfl

theorem senderOf_taken (s : State) (id owner tid : Nat) : senderOf (taken s id) owner tid = senderOf s owner tid := rfl

/-- An operation that cannot be counted yet is held at the home. -/
def heldAtHome (s : State) (id : Nat) (f : Fwd) : State := { s with fwds := tset id { f with held := true } s.fwds }

variable (hf : tget id s.fwds = some f) (hfirst : firstFwd s id = id)
include hf hfirst

section Home
variable (hb : getBar s f.owner f.home f.bar = some b)
include hb

theorem forward_error {c : Cause} {x : Nat} (he : b.err = some (c, x)) (hv : getT s tid = some v) (ho : v.owner = f.owner)
    (hop : (∃ cs, f.op = .arriveWait tid cs) ∨ ∃ p q, f.op = .wait tid p q) :
    exec (.barrierForward id) s = .next (sendFwd (taken s id) f.owner f.bar f.home f.from_ (.answerFault tid c x)) := by
  rcases hop with ⟨cs, hop⟩ | ⟨p, q, hop⟩
  · have herror := arriveAt_error (s := taken s id) (tid := tid) (cs := cs) hb he
    simp only [exec_barrierForward, execBarrierForward, hfirst, hf, hop, herror]
  · simp only [exec_barrierForward, execBarrierForward, hfirst, hf, hop, getBar_taken, hb, senderOf_taken, senderOf_some hv ho, he]

theorem forward_credit {k x : Nat} (hop : f.op = .credit k x) :
    exec (.barrierForward id) s = .next (creditBytes f.owner f.home f.bar (k + 1) (taken s id) k x) := by
  simp only [exec_barrierForward, execBarrierForward, hfirst, hf, hop, getBar_taken, hb, Option.isNone_some, Bool.false_eq_true, if_false]

variable (he : b.err = none)
include he

theorem forward_arrive_ended (hop : f.op = .arrive tid) (hended : ∀ v, getT s tid = some v → v.owner ≠ f.owner) (hopen : b.arrived ≠ b.count) :
    exec (.barrierForward id) s = .next (checkPhase (startClock (setBar (taken s id) f.owner f.home f.bar { b with arrived := b.arrived + 1 })
      f.owner f.home f.bar) f.owner f.home f.bar) := by
  have hcount := arriveAt_ended (s := taken s id) (cs := none) hb he (senderOf_none hended) hopen
  rw [Barrier.withArrival_none] at hcount
  simp only [exec_barrierForward, execBarrierForward, hfirst, hf, hop, hcount]

theorem forward_bexp {k : Nat} (hop : f.op = .bexp k) (hk : b.expect + k ≤ 2 ^ 48 - 1) :
    exec (.barrierForward id) s = .next (setBar (taken s id) f.owner f.home f.bar { b with expect := b.expect + k }) := by
  simp only [exec_barrierForward, execBarrierForward, hfirst, hf, hop, getBar_taken, hb, he, Option.isSome_none, Bool.false_eq_true, if_false, Nat.min_eq_left hk]

variable (hv : getT s tid = some v) (ho : v.owner = f.owner)
include hv ho

theorem forward_arrive (hop : f.op = .arrive tid) (hfresh : tget f.bar v.arrivals ≠ some b.phase) (hopen : b.arrived ≠ b.count) :
    exec (.barrierForward id) s = .next (checkPhase (startClock (setBar (setT (taken s id) tid
      { v with arrivals := tset f.bar b.phase v.arrivals }) f.owner f.home f.bar { b with arrived := b.arrived + 1 }) f.owner f.home f.bar)
      f.owner f.home f.bar) := by
  have hcount := arriveAt_counted (s := taken s id) (cs := none) hb he (senderOf_some hv ho) hfresh hopen
  rw [Barrier.withArrival_none] at hcount
  simp only [exec_barrierForward, execBarrierForward, hfirst, hf, hop, hcount]

theorem forward_arrive_held (hop : f.op = .arrive tid) (hblocked : tget f.bar v.arrivals = some b.phase ∨ b.arrived = b.count) :
    exec (.barrierForward id) s = .next (heldAtHome s id f) := by
  have hblock := arriveAt_blocked (s := taken s id) (cs := none) hb he (senderOf_some hv ho) hblocked
  simp only [exec_barrierForward, execBarrierForward, hfirst, hf, hop, hblock, heldAtHome]

theorem forward_arriveWait {cs : Option (List Place)} (hop : f.op = .arriveWait tid cs) (hfresh : tget f.bar v.arrivals ≠ some b.phase)
    (hopen : b.arrived ≠ b.count) : exec (.barrierForward id) s = .next (checkPhase (setT (startClock (setBar (setT (taken s id) tid
      { v with arrivals := tset f.bar b.phase v.arrivals }) f.owner f.home f.bar (b.withArrival tid cs)) f.owner f.home f.bar) tid
      { v with arrivals := tset f.bar b.phase v.arrivals, arrived := true
               status := .parked (if cs.isSome then .cstat f.bar b.phase else .phase f.bar b.phase) }) f.owner f.home f.bar) := by
  have hcount := arriveAt_counted (s := taken s id) (cs := cs) hb he (senderOf_some hv ho) hfresh hopen
  have hsender : senderOf (startClock (setBar (setT (taken s id) tid { v with arrivals := tset f.bar b.phase v.arrivals }) f.owner f.home f.bar
      (b.withArrival tid cs)) f.owner f.home f.bar) f.owner tid = some { v with arrivals := tset f.bar b.phase v.arrivals } := by
    rw [setBar_setT, startClock_setT]
    exact senderOf_some (getT_setT_same ..) ho
  simp only [exec_barrierForward, execBarrierForward, hfirst, hf, hop, hcount, hsender]
  cases cs with
  | none => rfl
  | some p => rfl

theorem forward_arriveWait_held {cs : Option (List Place)} (hop : f.op = .arriveWait tid cs)
    (hblocked : tget f.bar v.arrivals = some b.phase ∨ b.arrived = b.count) :
    exec (.barrierForward id) s = .next (startClock (heldAtHome s id f) f.owner f.home f.bar) := by
  have hblock := arriveAt_blocked (s := taken s id) (cs := cs) hb he (senderOf_some hv ho) hblocked
  simp only [exec_barrierForward, execBarrierForward, hfirst, hf, hop, hblock, heldAtHome]

theorem forward_wait_over {p : Option Nat} {q : Option (List Place)} {w : Nat} (hop : f.op = .wait tid p q) (hw : tget f.bar v.arrivals = some w)
    (hne : w ≠ b.phase) : exec (.barrierForward id) s = .next (sendFwd (taken s id) f.owner f.bar f.home f.from_ (.answerPhase tid w)) := by
  simp only [exec_barrierForward, execBarrierForward, hfirst, hf, hop, getBar_taken, hb, senderOf_taken, senderOf_some hv ho, he, waitPhase_over hw hne, if_true]

theorem forward_wait_parks {p : Option Nat} {q : Option (List Place)} (hop : f.op = .wait tid p q)
    (hw : ∀ w, tget f.bar v.arrivals = some w → w = b.phase) : exec (.barrierForward id) s =
      .next (startClock (setT (taken s id) tid { v with status := .parked (.phase f.bar b.phase) }) f.owner f.home f.bar) := by
  simp only [exec_barrierForward, execBarrierForward, hfirst, hf, hop, getBar_taken, hb, senderOf_taken, senderOf_some hv ho, he, waitPhase_current hw, Bool.false_eq_true, if_false]

end Home

/-! ### Answers -/

variable (hv : getT s tid = some v) (ho : v.owner = f.owner)
include hv ho

theorem answerPhase_retires {p : Nat} (hop : f.op = .answerPhase tid p) (hs : v.status = .parked (.home f.bar)) :
    exec (.barrierForward id) s = .next (retirePast (dropAhead (setReg (taken s id) tid (barDest v) (dataOf p)) tid) tid) := by
  simp only [exec_barrierForward, execBarrierForward, hfirst, hf, hop, senderOf_taken, senderOf_some hv ho, hs, if_true]

theorem answerFault_faults {c : Cause} {a p : Nat} (hop : f.op = .answerFault tid c a)
    (hw : waitOf s tid ∈ [some (.home f.bar), some (.phase f.bar p), some (.phaseFirst f.bar p), some (.cstat f.bar p)]) :
    exec (.barrierForward id) s = .next (takeFault (taken s id) tid c a) := by
  have hwait : waitOf (taken s id) tid = waitOf s tid := rfl
  simp only [exec_barrierForward, execBarrierForward, hfirst, hf, hop, senderOf_taken, senderOf_some hv ho, hwait, Option.isSome_some, Bool.true_and]
  simp only [List.mem_cons, List.not_mem_nil, or_false] at hw
  rcases hw with h | h | h | h <;> simp only [h, beq_self_eq_true, if_true]

end Forward

/-! ## Bytes that are credited (09 R180) -/

section Credit
variable {s : State} {owner home n k x : Nat} {b : Barrier}

theorem creditBytes_none (m : Nat) (s : State) (x : Nat) : creditBytes owner home n m s 0 x = s := by
  cases m with
  | zero => rfl
  | succ m =>
    rw [creditBytes]
    split
    · rfl
    · exact if_pos (.inl rfl)

variable (hb : getBar s owner home n = some b) (he : b.err = none) (hk : 0 < k)
include hb he hk

theorem creditBytes_expected (hroom : b.delivered + k ≤ b.expect) : creditBytes owner home n (k + 1) s k x =
    checkPhase (setBar s owner home n { b with delivered := b.delivered + k }) owner home n := by
  have hsome : ¬ (k = 0 ∨ b.err.isSome = true) := by simp [he]; omega
  rw [creditBytes]
  simp only [hb, if_neg hsome, if_neg (show ¬ b.expect - b.delivered = 0 by omega), Nat.min_eq_right (show k ≤ b.expect - b.delivered by omega),
    Nat.sub_self, creditBytes_none]

theorem creditBytes_beyond (hfull : b.expect ≤ b.delivered) : creditBytes owner home n (k + 1) s k x = barError s owner home n .barOverrun x := by
  have hsome : ¬ (k = 0 ∨ b.err.isSome = true) := by simp [he]; omega
  rw [creditBytes]
  simp only [hb, if_neg hsome, if_pos (show b.expect - b.delivered = 0 by omega)]

end Credit

/-! ## A barrier in ERROR (09 R180, R183) -/

/-- What a barrier's ERROR does to one waiter of a core. -/
def tellError (owner home n core : Nat) (c : Cause) (x : Nat) (u : State) (tid : Nat) : State :=
  if core = home then takeFault u tid c x else sendFwd u owner n home core (.answerFault tid c x)

/-- What a barrier's ERROR does on one core of the owner. -/
def tellCore (owner home n : Nat) (c : Cause) (x : Nat) (u : State) (core : Nat) : State :=
  if barHome u owner core n ≠ home then u else (waitersOn u owner core n).foldl (tellError owner home n core c x) u

/-- A thread waits for the decision of its fault of a cause at an address, and is else as it was. -/
def Faulted (v : Thread) (tid : Nat) (c : Cause) (x : Nat) (u : State) : Prop :=
  ∃ k f, k < u.nextId ∧ tget k u.faults = some f ∧ f.tid = tid ∧ f.cause = c ∧ f.addr = BitVec.ofNat 64 x ∧
    getT u tid = some { v with status := .parked (.faultRec k), popDue := none, latch := none, late := none }

section Error
variable {s u w : State} {owner home n core x tid : Nat} {c : Cause} {b : Barrier} {v : Thread}

theorem Faulted.mono {P : Nat → Prop} (h : Faulted v tid c x u) (f : BarrierFrame P u w) (hp : P tid) : Faulted v tid c x w := by
  obtain ⟨k, r, hk, hr, htid, hcause, haddr, hv⟩ := h
  exact ⟨k, r, Nat.lt_of_lt_of_le hk f.ids, (f.faults k hk).trans hr, htid, hcause, haddr, (f.threads tid hp).trans hv⟩

theorem takeFault_nextId_lt (hv : getT u tid = some v) : u.nextId < (takeFault u tid c x).nextId := by
  have h := (dropLate_walkFrame u tid).trans (unreserve_walkFrame _ _ tid)
  simp only [takeFault, hv]
  exact Nat.lt_succ_of_le h.ids

theorem takeFault_faulted (hv : getT u tid = some v) : Faulted v tid c x (takeFault u tid c x) :=
  ⟨u.nextId, _, takeFault_nextId_lt hv, takeFault_record hv c x, rfl, rfl, rfl, takeFault_getT hv c x⟩

/-- A thread that faults again has its newer fault recorded. -/
theorem Faulted.takeFault (h : Faulted v tid c x u) (j : Nat) : Faulted v tid c x (takeFault u j c x) := by
  by_cases hj : tid = j
  · subst hj
    obtain ⟨k, r, -, -, -, -, -, hv⟩ := h
    exact ⟨u.nextId, _, takeFault_nextId_lt hv, takeFault_record hv c x, rfl, rfl, rfl, takeFault_getT hv c x⟩
  · exact h.mono (takeFault_barrierFrame u j c x) hj

theorem tellError_barrierFrame (owner home n core : Nat) (c : Cause) (x : Nat) (u : State) (j : Nat) :
    BarrierFrame (fun _ => core ≠ home) u (tellError owner home n core c x u j) := by
  unfold tellError
  split
  · next h => exact (takeFault_barrierFrame u j c x).weaken (fun _ hne => absurd h hne)
  · exact sendFwd_barrierFrame ..

theorem tellCore_barrierFrame (owner home n : Nat) (c : Cause) (x : Nat) (u : State) (core : Nat) :
    BarrierFrame (fun _ => core ≠ home) u (tellCore owner home n c x u core) := by
  unfold tellCore
  split
  · exact .refl _ u
  · exact .foldl (fun _ _ _ => tellError_barrierFrame ..) u

theorem Faulted.tellError (h : Faulted v tid c x u) (core j : Nat) : Faulted v tid c x (tellError owner home n core c x u j) := by
  unfold Machine.tellError
  split
  · exact h.takeFault j
  · exact h.mono (sendFwd_barrierFrame (fun _ => True) ..) trivial

theorem Faulted.tellCore (h : Faulted v tid c x u) (core : Nat) : Faulted v tid c x (tellCore owner home n c x u core) := by
  unfold Machine.tellCore
  split
  · exact h
  · exact List.foldlRecOn (motive := Faulted v tid c x) _ _ h (fun u hu j _ => hu.tellError core j)

/-- Every waiter of the home faults. -/
theorem tellCore_home (hh : barHome u owner home n = home) (hw : tid ∈ waitersOn u owner home n) (hv : getT u tid = some v) :
    Faulted v tid c x (tellCore owner home n c x u home) := by
  rw [tellCore, if_neg (not_not.mpr hh)]
  refine foldl_reaches (M := fun u => getT u tid = some v) hw (fun w hw => ?_) (fun w j hj hw => ?_) (fun w j h => h.tellError home j) hv
  · rw [tellError, if_pos rfl]
    exact takeFault_faulted hw
  · rw [tellError, if_pos rfl]
    exact ((takeFault_barrierFrame w j c x).threads tid (Ne.symm hj)).trans hw

theorem barrierLog_barrierFrame (P : Nat → Prop) (s : State) (owner core slot n addr : Nat) (c : Cause) :
    BarrierFrame P s (barrierLog s owner core slot n addr c) := by
  unfold barrierLog logError
  split
  · exact .refl P s
  · split
    · exact .refl P s
    · split <;> exact { BarrierFrame.refl P s with }

/-- The barrier stands in ERROR, and its entry in the log is written. -/
def inError (s : State) (owner home n : Nat) (b : Barrier) (c : Cause) (x : Nat) : State :=
  barrierLog (setBar s owner home n { b with err := some (c, x), clock := none }) owner home 0 n x c

theorem barError_eq (hb : getBar s owner home n = some b) : barError s owner home n c x =
    releaseHeldFwds ((placedCores (inError s owner home n b c x) owner).foldl (tellCore owner home n c x) (inError s owner home n b c x)) owner n := by
  simp only [barError, hb]
  rfl

theorem barError_barrierFrame (hb : getBar s owner home n = some b) : BarrierFrame (fun _ => False)
    (setBar s owner home n { b with err := some (c, x), clock := none }) (barError s owner home n c x) := by
  rw [barError_eq hb]
  exact (barrierLog_barrierFrame ..).trans ((BarrierFrame.foldl (fun _ _ _ => (tellCore_barrierFrame ..).weaken nofun) _).trans
    (releaseHeldFwds_barrierFrame ..))

/-- Every thread parked on the barrier at its home faults. -/
theorem barError_faulted (hb : getBar s owner home n = some b) (hh : barHome s owner home n = home) (hplaced : home ∈ placedCores s owner)
    (hw : tid ∈ waitersOn s owner home n) (hv : getT s tid = some v) : Faulted v tid c x (barError s owner home n c x) := by
  have log := barrierLog_barrierFrame (fun _ => True) (setBar s owner home n { b with err := some (c, x), clock := none }) owner home 0 n x c
  have hin : home ∈ placedCores (inError s owner home n b c x) owner := by
    rw [inError, placedCores, log.places]
    exact mem_placedCores_setBar.mpr hplaced
  rw [barError_eq hb]
  refine Faulted.mono ?_ (releaseHeldFwds_barrierFrame (fun _ => True) ..) trivial
  refine foldl_reaches (M := fun u => getT u tid = some v ∧ u.places = (inError s owner home n b c x).places ∧ u.owners = s.owners) hin
    (fun u hu => ?_) (fun u core hne hu => ?_) (fun u core h => h.tellCore core) ⟨?_, rfl, log.owners.trans (setBar_owners ..)⟩
  · obtain ⟨ht, hp, ho⟩ := hu
    refine tellCore_home ?_ (mem_waitersOn_of_getT hw (ht.trans hv.symm)) ht
    have hset := barHome_setBar (x := { b with err := some (c, x), clock := none }) hb rfl home
    rw [barHome_congr (hp.trans log.places) (ho.trans (setBar_owners ..).symm), hset, hh]
  · obtain ⟨ht, hp, ho⟩ := hu
    have frame := tellCore_barrierFrame owner home n c x u core
    exact ⟨(frame.threads tid hne).trans ht, frame.places.trans hp, frame.owners.trans ho⟩
  · exact (log.threads tid trivial).trans ((getT_setBar ..).trans hv)

end Error

/-! ## Timeouts, counted arrivals and records (09 R183, R185; 11 R222) -/

theorem barTimeout_error {core owner n : Nat} {s : State} {b : Barrier} {c : Nat} (hn : n < 512) (hb : getBar s owner core n = some b)
    (he : b.err = none) (hc : b.clock = some c) (hlimit : c + b.timeout * 4096 = s.cycle) :
    exec (.barTimeout core (owner * 512 + n) b.phase) s = .next (barError s owner core n .barTimeout n) := by
  have howner : (owner * 512 + n) / 512 = owner := by omega
  have hbar : (owner * 512 + n) % 512 = n := by omega
  simp only [exec_barTimeout, execBarTimeout, howner, hbar, hb, he, hc, hlimit, Option.isNone_none, Option.any_some, beq_self_eq_true, and_self,
    if_true]

theorem arrivalCounted_wakes {tid sc n p : Nat} {s : State}
    (h : ((waitOf s tid = some (.relaxedDone sc) ∨ waitOf s tid = some (.relaxedPoint sc)) ∧ quietAt sc s tid = true) ∨
      waitOf s tid ∈ [some (.phaseFirst n p), some (.walk p), some .port, some .overflowPort]) :
    exec (.arrivalCounted tid) s = .next (wake s tid) := by
  simp only [exec_arrivalCounted, execArrivalCounted]
  rcases h with ⟨hw | hw, hq⟩ | hw
  · simp only [hw, hq, if_true]
  · simp only [hw, hq, if_true]
  · simp only [List.mem_cons, List.not_mem_nil, or_false] at hw
    rcases hw with hw | hw | hw | hw <;> simp only [hw]

/-- The bytes of a CSTAT's record: the sums, the number of cores, the phase and the largest AMAX. -/
def CstatRec.bytes (r : CstatRec) : List Byte :=
  (r.sums.map (toBytes 8)).flatten ++ toBytes 8 r.cores ++ toBytes 4 r.phase ++ toBytes 4 r.amax.toNat

theorem cstatRecordWrite_writes {id : Nat} {s : State} {r : CstatRec} {v : Thread} (hr : tget id s.cstats = some r) (hv : getT s r.tid = some v)
    (ho : v.owner = r.owner) (hs : v.status = .parked (.cstat r.bar r.phase)) (hnone : NoneParked s r.at_)
    (hreach : ownerReaches s r.owner r.at_ = true) : exec (.cstatRecordWrite id) s = .next (retirePast (dropAhead
      (clearPoison (putBytes { s with cstats := tdel id s.cstats } (r.at_.zip r.bytes)) ((r.at_.zip r.bytes).map Prod.fst)) r.tid) r.tid) := by
  have hreach' : ownerReaches { s with cstats := tdel id s.cstats } r.owner r.at_ = true := hreach
  have hthreads := putBytes_clearPoison_threads { s with cstats := tdel id s.cstats } (r.at_.zip r.bytes) ((r.at_.zip r.bytes).map Prod.fst)
  have hwait := waitOf_congr hthreads r.tid
  have hget := getT_congr hthreads r.tid
  have hwaits : waitOf { s with cstats := tdel id s.cstats } r.tid = some (.cstat r.bar r.phase) := by
    change waitOf s r.tid = _
    simp only [waitOf, hv, hs]
  have hown : ((getT { s with cstats := tdel id s.cstats } r.tid).any (fun t => t.owner == r.owner)) = true := by
    change ((getT s r.tid).any (fun t => t.owner == r.owner)) = true
    simp [hv, ho]
  rw [exec_cstatRecordWrite, execCstatRecordWrite, hr]
  unfold CstatRec.bytes at hwait hget ⊢
  simp only [hreach', if_true, perform_none (s := { s with cstats := tdel id s.cstats }) hnone, applyAcc, hwait, hwaits, hget, hown, and_self]

/-- Settles O21: each operation by what it finds at the home, and each event by the barrier or thread it is for. -/
theorem barrierTraffic : Obligations.BarrierTraffic := by
  refine ⟨?_, fun core owner n s b c hn hb he hc hlimit => barTimeout_error hn hb he hc hlimit, ?_,
    fun tid sc n p s h => arrivalCounted_wakes h, fun id s r v hr hv ho hs hnone hreach => cstatRecordWrite_writes hr hv ho hs hnone hreach⟩
  · intro id s f b hf hfirst s1
    refine ⟨fun hb he => ⟨?_, ?_, ?_, ?_, ?_, ?_, ?_, ?_, ?_⟩, ?_, fun k x hb he hk => ?_, ?_, ?_, ?_, fun p hop => ?_⟩
    · exact fun tid hop hended hopen => forward_arrive_ended hf hfirst hb he hop hended hopen
    · exact fun tid v hop hv ho hfresh hopen => forward_arrive hf hfirst hb he hv ho hop hfresh hopen
    · rintro tid p q v hop hv ho ⟨w, hw, hne⟩
      rw [hw]
      exact forward_wait_over hf hfirst hb he hv ho hop hw hne
    · exact fun tid v hop hv ho hblocked => forward_arrive_held hf hfirst hb he hv ho hop hblocked
    · exact fun tid cs v hop hv ho hfresh hopen => forward_arriveWait hf hfirst hb he hv ho hop hfresh hopen
    · exact fun tid cs v hop hv ho hblocked => forward_arriveWait_held hf hfirst hb he hv ho hop hblocked
    · exact fun tid p q v hop hv ho hw => forward_wait_parks hf hfirst hb he hv ho hop hw
    · exact fun k hop hk => forward_bexp hf hfirst hb he hop hk
    · exact fun k x hop => forward_credit hf hfirst hb hop
    · exact fun c x tid v hb he hv ho hop => forward_error hf hfirst hb he hv ho hop
    · exact ⟨creditBytes_expected hb he hk, creditBytes_beyond hb he hk⟩
    · exact fun tid p v hop hv ho hs => answerPhase_retires hf hfirst hv ho hop hs
    · exact fun tid c a p v hop hv ho hw => answerFault_faults hf hfirst hv ho hop hw
    · exact fun j g hg hhome hheld hdue hnotice => firstFwd_oldest hf hfirst hg hhome hheld hdue hnotice
    · simp only [exec_barrierCompletionNotice, execBarrierCompletionNotice, hf, hop]
      rfl
  · intro s owner home n x c b hb hh hplaced u
    have frame := barError_barrierFrame (c := c) (x := x) hb
    refine ⟨?_, frame.mem.trans (setBar_mem ..), fun tid v hw hv => ?_⟩
    · exact (getBar_congr frame.places ..).trans (getBar_setBar_same hb _)
    · obtain ⟨k, f, -, hfault⟩ := barError_faulted (c := c) (x := x) hb hh hplaced hw hv
      exact ⟨k, f, hfault⟩

end Sys2Proof.Machine

namespace Sys2Proof.Machine

/-! ## SEND and SENDH (10 R191, R193) -/

/-- A value that both SEND and SENDH take as a payload: DATA, or a capability or tensor name whose holder may send it. -/
def MaySend (g : GReg) : Prop :=
  g.kind = .data ∨ (g.kind = .cap ∧ capSend g.bits = true) ∨ (g.kind = .tens ∧ bits g.bits.toNat 23 1 = 1)

theorem payloadOk_of_maySend {g : GReg} (h : MaySend g) (r : Reg) (coc : Bool) : payloadOk r g coc = .ok () := by
  rcases h with hk | ⟨hk, hperm⟩ | ⟨hk, hperm⟩
  · simp only [payloadOk, hk]
  · simp only [payloadOk, hk, hperm, if_true]
  · simp only [payloadOk, hk, hperm, if_true]

theorem payloadOk_coc {g : GReg} (h : g.kind = .coc) (r : Reg) : payloadOk r g true = .ok () := by
  simp only [payloadOk, h, if_true]

theorem MaySend.ne_coc {g : GReg} (h : MaySend g) : g.kind ≠ .coc := by
  rcases h with hk | ⟨hk, -⟩ | ⟨hk, -⟩ <;> simp [hk]

theorem MaySend.ne_port {g : GReg} (h : MaySend g) : g.kind ≠ .port := by
  rcases h with hk | ⟨hk, -⟩ | ⟨hk, -⟩ <;> simp [hk]

/-- A use that sees no PORT sees the register as it is read. -/
theorem unpopped_of_ne_port {s : State} {tid : Nat} {t : Thread} {r : Reg} (h : (unpopped s tid t r).kind ≠ .port) :
    unpopped s tid t r = t.rd r := by
  unfold unpopped at h ⊢
  split
  · next hport => exact absurd (by rw [if_pos hport]) h
  · rfl

/-! ### A message under way -/

/-- From s to u one message has been sent: it is on its way under the next identifier, is due at its inbox after its travel, and memory is
as it was. -/
structure Sent (s : State) (m : Msg) (u : State) : Prop where
  underWay : tget s.nextId u.msgs = some m
  arrival : (s.cycle + msgTime m, Instr.messageArrival s.nextId) ∈ u.agenda
  mem : u.mem = s.mem

section Sent
variable {s u v : State} {m : Msg}

theorem placeMsg_sent (s : State) (m : Msg) : Sent s m (placeMsg s m) where
  underWay := tget_tset_same s.nextId m s.msgs
  arrival := mem_agendaAdd.mpr (.inl rfl)
  mem := rfl

theorem getT_placeMsg (s : State) (m : Msg) (k : Nat) : getT (placeMsg s m) k = getT s k := rfl

/-- What is done to pins before a message leaves does not show in the message. -/
theorem Sent.after_sameEngines (h : Sent v m u) (hs : SameEngines s v) : Sent s m u where
  underWay := hs.nextId ▸ h.underWay
  arrival := hs.nextId ▸ hs.cycle ▸ h.arrival
  mem := h.mem.trans hs.mem

theorem Sent.advance (h : Sent s m u) (k : Nat) : Sent s m (advance u k) where
  underWay := (advance_msgs u k).symm ▸ h.underWay
  arrival := (advance_agenda u k).symm ▸ h.arrival
  mem := (advance_mem u k).trans h.mem

theorem Sent.parkAs (h : Sent s m u) (k : Nat) (w : Wait) : Sent s m (parkAs u k w) where
  underWay := (parkAs_msgs u k w).symm ▸ h.underWay
  arrival := (parkAs_agenda u k w).symm ▸ h.arrival
  mem := (parkAs_mem u k w).trans h.mem

end Sent

/-! ### The instructions -/

section Sending
variable {tag : BitVec 8} {a b : Reg} {s : State} {i : Issue} {t v : Thread} {pop : Option InboxEntry} {coc : Bool}

/-- The pins after SEND has read its payload: a tensor name takes one along (10 R191). -/
def pinPayload (s : State) (t : Thread) (b : Reg) : State :=
  if (t.rd b).kind = .tens then addPin s t.ctx ((t.rd b).bits.toNat % 2 ^ 20) else s

theorem pinPayload_sameEngines (s : State) (t : Thread) (b : Reg) : SameEngines s (pinPayload s t b) := by
  unfold pinPayload
  split
  · exact addPin_sameEngines ..
  · exact .refl s

/-- The message that SEND and SENDH make of their operands. -/
def messageOf (s : State) (tid : Nat) (t : Thread) (a b : Reg) (tag : BitVec 8) (handle : Bool) : Msg :=
  ⟨tid, t.ctx, t.owner, (low t a).toNat, tag, t.rd b, handle, b.val, s.cycle, false, none⟩

/-- A thread number that names a slot, and a payload that may go there, pass the checks. -/
theorem sendChecks_ok {tid : Nat} (ha : IsData t a) (hslot : (low t a).toNat < 49152) (hpay : payloadOk b (unpopped s tid t b) coc = .ok ())
    (hnear : (t.rd b).kind = .coc → (low t a).toNat / 256 = tid / 256) : sendChecks s tid t a b coc = .ok (low t a).toNat := by
  simp only [sendChecks, needKind_ok ha, hpay, ok_bind, lo64_eq_low]
  rw [if_neg (by omega), if_neg (fun hfar => hfar.2 (hnear hfar.1))]

theorem sendChecks_of_maySend {tid : Nat} (ha : IsData t a) (hslot : (low t a).toNat < 49152) (hpay : MaySend (unpopped s tid t b)) :
    sendChecks s tid t a b coc = .ok (low t a).toNat := by
  have hsame := unpopped_of_ne_port hpay.ne_port
  exact sendChecks_ok ha hslot (payloadOk_of_maySend hpay b coc) (fun hk => absurd (hsame ▸ hk) hpay.ne_coc)

/-- With its checks passed, SEND or SENDH answers what it does after them: a PORT that holds the thread number is the first thing checked, so
no fault comes before its message. -/
theorem issueWith_sendChecks {f : Issue → Thread → Nat → Except Stop State} {u : State} {n : Nat} (h : reading s [a, b] [a] = some (i, t, pop))
    (ha : IsData t a) (hchecks : sendChecks s i.tid t a b coc = .ok n) (hf : f i t n = .ok u) :
    issueWith s [a, b] [a] (fun i t => sendChecks s i.tid t a b coc >>= f i t) = .next (finish pop i.tid u) := by
  refine issueWith_ok h (noneBefore_of h (fun w hw hport => ?_)) ?_
  · rw [sendChecks, bind_assoc]
    exact faultBefore_needKind hw ha (by decide) (fun na => no_port_left hport (by simp [na]))
  · rw [hchecks, ok_bind, hf]

section Checked
variable (h : reading s [a, b] [a] = some (i, t, pop)) (hv : getT s i.tid = some v) (hquiet : quiet s i.tid = true) (ha : IsData t a)
include h hv hquiet ha

theorem send_sends (hchecks : sendChecks s i.tid t a b false = .ok (low t a).toNat) (hroom : outboundCount s (i.tid / 16) < 8) :
    ∃ u, exec (.send tag a b) s = .next (finish pop i.tid u) ∧ Sent s (messageOf s i.tid t a b tag false) u ∧ getT u i.tid = some v.next := by
  have hpins := pinPayload_sameEngines s t b
  refine ⟨advance (placeMsg (pinPayload s t b) (messageOf s i.tid t a b tag false)) i.tid, ?_, ?_, ?_⟩
  · rw [exec_send, execSend]
    refine issueWith_sendChecks h ha hchecks ?_
    simp only [hquiet, Bool.not_true, Bool.false_eq_true, if_false]
    exact if_neg (Nat.not_le.mpr hroom)
  · exact ((placeMsg_sent ..).after_sameEngines hpins).advance i.tid
  · rw [getT_advance, getT_placeMsg, getT_congr hpins.threads, hv, Option.map_some]

theorem sendh_sends (hchecks : sendChecks s i.tid t a b true = .ok (low t a).toNat) :
    ∃ u, exec (.sendh tag a b) s = .next (finish pop i.tid u) ∧ Sent s (messageOf s i.tid t a b tag true) u ∧
      waitOf u i.tid = some (.sendh s.nextId) := by
  refine ⟨parkAs (placeMsg s (messageOf s i.tid t a b tag true)) i.tid (.sendh s.nextId), ?_, (placeMsg_sent s _).parkAs .., ?_⟩
  · rw [exec_sendh, execSendh]
    refine issueWith_sendChecks h ha hchecks ?_
    simp only [hquiet, Bool.not_true, Bool.false_eq_true, if_false]
    rfl
  · exact waitOf_parkAs ((getT_placeMsg ..).trans hv) _

end Checked

end Sending

/-- Settles O22: what may be sent passes the checks, and the message that then leaves is the one stated. -/
theorem sendingResults : Obligations.SendingResults := by
  intro tag a b s i t v pop h hv ha hquiet n g free msg due hslot
  refine ⟨fun hg hroom => ?_, fun hg => ?_⟩
  · obtain ⟨u, hexec, hsent, hnext⟩ := send_sends (tag := tag) h hv hquiet ha (sendChecks_of_maySend ha hslot hg) hroom
    exact ⟨u, hexec, hsent.underWay, hsent.arrival, hsent.mem, hnext⟩
  · have hchecks : sendChecks s i.tid t a b true = .ok n := by
      rcases hg with hg | ⟨hk, hnear⟩
      · exact sendChecks_of_maySend ha hslot hg
      · exact sendChecks_ok ha hslot (payloadOk_coc hk b) (fun _ => hnear)
    obtain ⟨u, hexec, hsent, hwait⟩ := sendh_sends (tag := tag) h hv hquiet ha hchecks
    exact ⟨u, hexec, hsent.underWay, hsent.arrival, hsent.mem, hwait⟩

end Sys2Proof.Machine

namespace Sys2Proof.Machine

/-! ## A drain into a line whose metadata is corrupt (13 R238; 15 R247; 21 R325) -/

/-! ### What the model does -/

section Drain
variable {id : Nat} {s : State} {c : Cmd} {x : DrainX} {y : MdrainX} {z : Ctx} {n : Node}

theorem drainFields_eq_some {op : Instr} (h : drainFields op = some (x, y)) : (∃ d, op = .mdrain x y d) ∨ ∃ d time, op = .mdrainAt x y d time := by
  unfold drainFields at h
  split at h
  · next d => cases h; exact .inl ⟨d, rfl⟩
  · next d time => cases h; exact .inr ⟨d, time, rfl⟩
  · cases h

/-- A drain at the end of its run performs its writes. -/
theorem matrixComplete_drain (hc : tget id s.cmds = some c) (hrun : c.phase = .running) (hdue : c.due = s.cycle)
    (hop : drainFields c.op = some (x, y)) : exec (.matrixComplete id) s = .next (drainWrite s id c x y) := by
  rw [exec_matrixComplete, execMatrixComplete]
  rcases drainFields_eq_some hop with ⟨d, hd⟩ | ⟨d, time, hd⟩ <;> simp [hc, hrun, hdue, hd, drainFields]

/-- A drain into a view in whose lines an uncorrectable error stands is a violation (13 R231, 21 R325). -/
theorem drainWrite_poisonedView (hpoison : s.poison = []) (hd : c.d.kind = .tens) (hz : getC s c.ctx = some z)
    (hn : tget (tensTid c.d.bits) z.nodes = some n) (hdead : n.state ≠ .dead) (hretired : n.state ≠ .retired)
    (hbad : linPoisoned s c.ctx z (tensTid c.d.bits) (viewLines n c.d.bits) = true) :
    drainWrite s id c x y = violate s id c 2 .softErr (Config.freeNat s.free % 2 ^ 64) := by
  simp [drainWrite, poisonIn, hpoison, hd, hz, hn, hdead, hretired, hbad]

end Drain

/-! ### The counterexample -/

/-- A root of one row of 32-bit floats whose only line has the encoding 101, which decodes to nothing (15 R247). -/
def corruptNode : Node := ⟨1, 0, 0, 1, 32, 1, 1, 0, false, Fmt.f32.code, .live, 4, 0, 0, 0, [⟨0, 5, []⟩]⟩

/-- A context in which that root is tensor 1. -/
def corruptTable : Ctx := { bareCtx with nodes := [(1, corruptNode)] }

/-- Element (0, 0) of tile 0. -/
def elementDrain : DrainX := ⟨0, 0, 1, 1⟩

/-- It is drained as a 32-bit float, unmasked, and the tile is kept. -/
def elementDrainTo : MdrainX := ⟨.f32, false, false, false, false, 0⟩

/-- The drain of that element to the first element of tensor 1, at the end of its run in cluster 0's array. -/
def drainToCorruptLine : Cmd :=
  { newCmd (.mdrain elementDrain elementDrainTo 2) 0 (newThread 0 0 32 0 0 0 GReg.zero GReg.zero GReg.zero GReg.zero) 4 GReg.zero GReg.zero
      ⟨.tens, mkTens 1 15 0 1 0 1⟩ GReg.zero 0 with phase := .running, due := 16 }

/-- The drain completes in this cycle, and no soft error stands anywhere. -/
def drainingToCorruptLine : State := { State.reset with cycle := 16, ctxs := [(0, corruptTable)], cmds := [(0, drainToCorruptLine)] }

/-- Reading the line that the drain writes into meets an uncorrectable error all the same. -/
theorem drainingToCorruptLine_poisoned :
    linPoisoned drainingToCorruptLine 0 corruptTable 1 (viewLines corruptNode drainToCorruptLine.d.bits) = true := by rfl

/-- The table once the drained zero is written: the line decodes to zero words whatever it held, and INHERITs them. -/
def writtenTable : Ctx := { corruptTable with nodes := [(1, { corruptNode with lines := [] })] }

/-- The lines of tensor 1 of context 0 in the state that an instruction answers. -/
def linesOfTensor1 (o : Host.Outcome State Fault Refusal) : Option (List Line) :=
  match o with
  | .next u => (getC u 0).bind (fun c => (tget 1 c.nodes).map Node.lines)
  | _ => none

/-- The violation leaves the line as it is. -/
theorem corruptLine_stays : linesOfTensor1 (exec (.matrixComplete 0) drainingToCorruptLine) = some [⟨0, 5, []⟩] := by
  rw [matrixComplete_drain (c := drainToCorruptLine) rfl rfl rfl rfl,
    drainWrite_poisonedView rfl rfl rfl rfl (by decide) (by decide) drainingToCorruptLine_poisoned]
  rfl

/-- Refutes O26: the clause on a drain into a tensor supposes that no soft error stands (`s.poison = []`) and not that the metadata of the
lines it writes into is sound. Corrupt metadata is an uncorrectable error too (15 R247, 21 R325), so the model ends the command by a violation
and writes nothing, where the statement has the write performed and the command complete. -/
theorem not_matrixCompletion : ¬ Obligations.MatrixCompletion := by
  rintro ⟨completes, -⟩
  obtain ⟨-, -, -, -, -, -, drainToTensor⟩ := completes 0 drainingToCorruptLine drainToCorruptLine rfl rfl rfl rfl
  have hstated := drainToTensor elementDrain elementDrainTo corruptTable corruptNode ⟨writtenTable, 1, [1], 0, none, true⟩
    rfl rfl rfl rfl (by decide) (by decide) (by rfl)
  have hlines : some [⟨0, 5, []⟩] = some ([] : List Line) := corruptLine_stays.symm.trans (congrArg linesOfTensor1 hstated)
  exact absurd hlines (by decide)

end Sys2Proof.Machine

namespace Sys2Proof.Machine

/-! ## Rebasing in a table with a TID 0 (15 R244, R248, R249, R253) -/

/-- A root of one line, stored in an encoding. -/
def oneLineRoot (tag : Nat) (bytes : List Byte) : Node := ⟨1, 0, 0, 1, 32, 1, 1, 0, false, Fmt.f32.code, .live, 4, 0, 0, 0, [⟨0, tag, bytes⟩]⟩

/-- 32 words 1 as stored: their base. -/
def storedOnes : List Byte := storedForm 2 (List.replicate 32 1)

/-- Tensors 0 and 1 are roots, both with a line that is XORed with their parent's: tensor 0 is the parent of every root, itself among them, so its
line alternates between 0 and 1 with the number of nodes that a resolution visits. Tensor 2, the child of 1, stores 32 words 1. -/
def tableWithTensor0 : Ctx :=
  { bareCtx with
    nodes := [(0, oneLineRoot 10 storedOnes), (1, { oneLineRoot 9 [] with children := 1 }),
      (2, { oneLineRoot 2 storedOnes with parent := 1, depth := 1 })] }

/-- The table is that of context 0. -/
def stateWithTensor0 : State := { State.reset with ctxs := [(0, tableWithTensor0)] }

/-- REBASE of tensor 2 onto tensor 1, its parent. -/
def rebaseOntoParent : LinOp := ⟨0, 0, .rebase false 1 2 0, ⟨.tens, mkTens 2 15 0 1 0 32⟩, dataOf 1, GReg.zero, 0, false, [], [], [], none⟩

/-- A tensor's line resolves to 32 words of 32 bits. -/
def IsWordLine (ws : List Nat) : Prop := ws.length = 32 ∧ ∀ w ∈ ws, w < 2 ^ 32

theorem resolve_stored_isWordLine {m : Nat} (hm : m = 1 ∨ m = 2) : IsWordLine (resolve tableWithTensor0 m 0).1 := by
  rcases hm with rfl | rfl <;> exact ⟨by decide +kernel, by decide +kernel⟩

theorem resolve_unstored {m l : Nat} (hm : m = 1 ∨ m = 2) (hl : l ≠ 0) : (resolve tableWithTensor0 m l).1 = zeroLine := by
  rcases hm with rfl | rfl <;> simp [resolve, chainFuel, resolveLine, tableWithTensor0, tget, lineOf, oneLineRoot, hl.symm]

theorem resolve_isWordLine {m : Nat} (hm : m = 1 ∨ m = 2) (l : Nat) : IsWordLine (resolve tableWithTensor0 m l).1 := by
  by_cases hl : l = 0
  · exact hl ▸ resolve_stored_isWordLine hm
  · rw [resolve_unstored hm hl]
    exact ⟨by decide, by decide⟩

/-- The words of tensor 2's line in context 0, once an operation is performed. -/
def wordsOfTensor2 (a : Except (Cause × Nat) LinDone) : Option (List Nat) :=
  match a with
  | .ok x => (getC x.st 0).map (fun c => (resolve c 2 0).1)
  | .error _ => none

theorem tensor2_before_rebase : (resolve tableWithTensor0 2 0).1 = List.replicate 32 1 := by rfl

/-- Its words equal those that tensor 1's line resolves to, so the rebase stores INHERIT; but seen from tensor 2 the resolution has one visit
less left for tensor 0, and reads zeros. -/
theorem tensor2_after_rebase : wordsOfTensor2 (linPerform stateWithTensor0 rebaseOntoParent tableWithTensor0) = some zeroLine := by rfl

/-- Refutes O28: the REBASE clause has the rebased node resolve to its old words whenever the chains are sound up to the node whose PARENT is 0,
and does not suppose that TID 0 names no tensor (15 R244). With a tensor 0 an XORed line of a root resolves through it, to words that depend on
the number of nodes visited, and the words of tensor 2 change. -/
theorem not_lineageEvents : ¬ Obligations.LineageEvents := by
  rintro ⟨-, performs⟩
  obtain ⟨-, -, ofNode, -⟩ := performs stateWithTensor0 rebaseOntoParent tableWithTensor0 rfl
  obtain ⟨-, -, -, rebases, -⟩ := ofNode _ rfl (.inl rfl) rfl
  obtain ⟨-, ofAncestor⟩ := rebases false 1 2 0 rfl (.inr (by decide))
  obtain ⟨-, rebased⟩ := ofAncestor _ rfl (by decide +kernel)
  obtain ⟨x, c', -, ⟨hdone, hst, -⟩, -, -, -, -, hsame, -⟩ :=
    rebased (by decide) (by decide +kernel) (by rfl) (by decide +kernel) (by decide +kernel) (by decide +kernel) (by decide +kernel)
      (resolve_isWordLine (.inr rfl)) (resolve_isWordLine (.inl rfl))
  have hafter : (resolve c' 2 0).1 = zeroLine := by
    have h := tensor2_after_rebase
    rw [hdone, wordsOfTensor2, hst, show rebaseOntoParent.ctx = 0 from rfl, getC_setC_same] at h
    exact Option.some.inj h
  have hbefore : (resolve c' 2 0).1 = List.replicate 32 1 := (hsame 0).trans tensor2_before_rebase
  exact absurd (hafter.symm.trans hbefore) (by decide)

end Sys2Proof.Machine

namespace Sys2Proof.Machine

/-! ### Memory: what leaves it alone

One frame per operation that leaves the listed bytes of memory as they are. -/

theorem foldl_mem {α : Type} {f : State → α → State} (h : ∀ s x, (f s x).mem = s.mem) {l : List α} {s : State} : (l.foldl f s).mem = s.mem := by
  induction l generalizing s with
  | nil => rfl
  | cons x xs ih => rw [List.foldl_cons, ih, h]

@[simp] theorem dropLate_mem (s : State) (tid : Nat) : (dropLate s tid).mem = s.mem := by
  unfold dropLate
  split
  · rfl
  · split
    · rfl
    · rw [foldl_mem fun _ _ => by split <;> rfl, setT_mem]

@[simp] theorem setHlt_mem (s : State) (cl k : Nat) (e : HltEntry) : (setHlt s cl k e).mem = s.mem := rfl

@[simp] theorem unreserve_mem (s : State) (tid : Nat) : (unreserve s tid).mem = s.mem := by
  unfold unreserve
  exact foldl_mem (fun _ _ => by split <;> simp)

@[simp] theorem takeFault_mem (s : State) (tid : Nat) (c : Cause) (addr : Nat) : (takeFault s tid c addr).mem = s.mem := by
  unfold takeFault
  split <;> simp

@[simp] theorem addMiss_mem (s : State) (cl ctx va core : Nat) : (addMiss s cl ctx va core).mem = s.mem := by simp [addMiss, apply_ite State.mem]

@[simp] theorem issueState_mem (s : State) (tid : Nat) (t : Thread) : (issueState s tid t).mem = s.mem := rfl

@[simp] theorem collide_mem (before s : State) (tid lost : Nat) : (collide before s tid lost).mem = s.mem := by unfold collide; split <;> rfl

@[simp] theorem dropAhead_mem (s : State) (tid : Nat) : (dropAhead s tid).mem = s.mem := by unfold dropAhead; split <;> rfl

@[simp] theorem setHolder_mem (s : State) (tid : Nat) (b : QWord) : (setHolder s tid b).mem = s.mem := by simp [setHolder, apply_ite State.mem]

@[simp] theorem popPort_mem (s : State) (tid : Nat) (e : InboxEntry) : (popPort s tid e).mem = s.mem := by simp [popPort, apply_ite State.mem]

@[simp] theorem popRetiring_mem (s : State) (tid : Nat) : (popRetiring s tid).mem = s.mem := by unfold popRetiring; (repeat' split) <;> simp

@[simp] theorem addEvc_mem (s : State) (core : Nat) (incs : List Nat) : (addEvc s core incs).mem = s.mem := rfl

@[simp] theorem countParked_mem (s : State) (tid : Nat) (t : Thread) : (countParked s tid t).mem = s.mem := by unfold countParked; split <;> rfl

@[simp] theorem retire_mem (s0 : State) (tid : Nat) : (retire s0 tid).mem = s0.mem := by simp only [retire]; split <;> simp

@[simp] theorem endTurn_mem (before s : State) (tid : Nat) : (endTurn before s tid).mem = s.mem := by simp [endTurn, apply_ite State.mem]

@[simp] theorem stopAt_mem (s : State) (tid : Nat) (st : Stop) : (stopAt s tid st).mem = s.mem := by unfold stopAt; (repeat' split) <;> simp

@[simp] theorem popWhenDone_mem (s : State) (tid : Nat) (e : InboxEntry) : (popWhenDone s tid e).mem = s.mem := by
  unfold popWhenDone
  (repeat' split) <;> simp

@[simp] theorem putColl_mem (s : State) (core : Nat) (x : Coll) : (putColl s core x).mem = s.mem := rfl

@[simp] theorem wakeAll_mem (p : Nat → Thread → Wait → Bool) (s : State) : (wakeAll p s).mem = s.mem := rfl

@[simp] theorem wakeJoiners_mem (s : State) (core g : Nat) : (wakeJoiners s core g).mem = s.mem := rfl

@[simp] theorem dropColl_mem (s : State) (core g : Nat) : (dropColl s core g).mem = s.mem := rfl

@[simp] theorem retirePast_mem (s : State) (tid : Nat) : (retirePast s tid).mem = s.mem := by simp [retirePast]

@[simp] theorem finishMember_mem (s : State) (core : Nat) (e : CollEntry) (v : Nat) : (finishMember s core e v).mem = s.mem := by
  simp only [finishMember]
  (repeat' split) <;> simp

@[simp] theorem count_mem (s : State) (core : Nat) (c : Counts) : (count s core c).mem = s.mem := by unfold count; split <;> rfl

@[simp] theorem finishColl_mem (s : State) (core : Nat) (c : Coll) : (finishColl s core c).mem = s.mem := by simp [finishColl, foldl_mem]

@[simp] theorem completeColl_mem (s : State) (core : Nat) (c : Coll) : (completeColl s core c).mem = s.mem := by
  simp only [completeColl]
  (repeat' split) <;> simp [foldl_mem]

@[simp] theorem tryComplete_mem (s : State) (core : Nat) (g : Fin 16) : (tryComplete s core g).mem = s.mem := by
  unfold tryComplete
  split <;> simp [apply_ite State.mem]

@[simp] theorem countAt_mem (s : State) (tid : Nat) (c : Counts) : (countAt s tid c).mem = s.mem := by simp [countAt]

@[simp] theorem amaxAll_mem (s : State) (tid : Nat) (vs : List FVal) : (amaxAll s tid vs).mem = s.mem := by unfold amaxAll; split <;> rfl

@[simp] theorem bankHit_mem (s : State) (core off : Nat) : (bankHit s core off).mem = s.mem := by unfold bankHit; split <;> simp [apply_ite State.mem]

@[simp] theorem hltActive_mem (s : State) (cl k : Nat) (up : Bool) : (hltActive s cl k up).mem = s.mem := rfl

@[simp] theorem requestAhead_mem (s : State) (tid : Nat) (t : Thread) (r : Reg) (idx : List Nat) : (requestAhead s tid t r idx).mem = s.mem := by
  simp only [requestAhead]
  (repeat' split) <;> simp

@[simp] theorem readAhead_mem (s : State) (tid : Nat) (t : Thread) (p : Plan) : (readAhead s tid t p).mem = s.mem := by
  unfold readAhead
  exact foldl_mem (fun _ _ => by split <;> simp [apply_ite State.mem])

@[simp] theorem feGiveUp_mem (s : State) (id : Nat) (r : Req) : (feGiveUp s id r).mem = s.mem := by simp [feGiveUp]

@[simp] theorem feRetry_mem (s : State) (id : Nat) (r : Req) : (feRetry s id r).mem = s.mem := by simp [feRetry, apply_ite State.mem]

@[simp] theorem setFull_mem (s : State) (key : Nat) (full : Bool) : (setFull s key full).mem = s.mem := rfl

@[simp] theorem clearPoison_mem (s : State) (ps : List Place) : (clearPoison s ps).mem = s.mem := by unfold clearPoison; split <;> rfl

@[simp] theorem logError_mem (s : State) (ctx : Nat) (e : LogEntry) : (logError s ctx e).mem = s.mem := by
  unfold logError
  split <;> simp [apply_ite State.mem]

@[simp] theorem windowWrite_mem (s : State) (tid off : Nat) (bs : List (Nat × Byte)) (w : Writer) : (windowWrite s tid off bs w).mem = s.mem := by
  unfold windowWrite
  split <;> simp

@[simp] theorem accessDone_mem (s : State) (id : Nat) (r : Req) : (accessDone s id r).mem = s.mem := by unfold accessDone; split <;> rfl

@[simp] theorem accFail_mem (s : State) (id : Nat) (r : Req) (f : Cause × Nat) : (accFail s id r f).mem = s.mem := by simp [accFail]

@[simp] theorem postWrites_mem (s : State) (tid : Nat) (b : QWord) (bs : List (Place × Byte)) : (postWrites s tid b bs).mem = s.mem := by
  unfold postWrites
  (repeat' split) <;> simp

@[simp] theorem moveCursor_mem (s : State) (tid : Nat) (r : Reg) (b : QWord) (by_ : Nat) : (moveCursor s tid r b by_).mem = s.mem := by
  simp only [moveCursor]
  (repeat' split) <;> simp

@[simp] theorem addPin_mem (s : State) (ctx node : Nat) : (addPin s ctx node).mem = s.mem := by unfold addPin; (repeat' split) <;> simp

@[simp] theorem holdOperands_mem (s : State) (tid ctx : Nat) (gs : List GReg) : (holdOperands s tid ctx gs).1.mem = s.mem := by
  unfold holdOperands
  rw [foldl_mem fun _ _ => addPin_mem .., foldl_mem fun _ _ => hltActive_mem ..]

@[simp] theorem setEng_mem (s : State) (k : Nat) (e : Engine) : (setEng s k e).mem = s.mem := rfl

@[simp] theorem unqueue_mem (s : State) (id : Nat) : (unqueue s id).mem = s.mem := by unfold unqueue; split <;> rfl

@[simp] theorem chooseAgain_mem (s : State) (id : Nat) : (chooseAgain s id).mem = s.mem := by unfold chooseAgain; split <;> simp [apply_ite State.mem]

@[simp] theorem enqueue_mem (s : State) (id : Nat) : (enqueue s id).mem = s.mem := by unfold enqueue; split <;> simp [apply_ite State.mem]

@[simp] theorem joinQueue_mem (s : State) (id : Nat) (behind : List Nat) : (joinQueue s id behind).mem = s.mem := by
  unfold joinQueue
  split <;> simp [foldl_mem]

@[simp] theorem submit_mem (s : State) (c : Cmd) (wait : Nat → Wait) : (submit s c wait).mem = s.mem := by simp [submit]

@[simp] theorem submitArray_mem (s : State) (op : Instr) (tid : Nat) (t : Thread) (a d : GReg) (notBefore : Nat) :
    (submitArray s op tid t a d notBefore).mem = s.mem := by
  simp [submitArray]

@[simp] theorem applyInc_mem (s : State) (tid : Nat) (inc : Option Nat) : (applyInc s tid inc).mem = s.mem := by
  simp only [applyInc]
  (repeat' split) <;> simp

@[simp] theorem writeResult_mem (s : State) (tid : Nat) (t : Thread) (op : AccOp) (d : Nat) (v : GReg) :
    (writeResult s tid t op d v).mem = s.mem := by
  unfold writeResult
  (repeat' split) <;> simp

@[simp] theorem releaseCmd_mem (s : State) (c : Cmd) : (releaseCmd s c).mem = s.mem := by
  unfold releaseCmd
  dsimp only
  rw [apply_ite State.mem, sched_mem, ite_self, foldl_mem fun _ _ => sched_mem .., foldl_mem fun _ _ => hltActive_mem ..]

@[simp] theorem wakeFences_mem (s : State) (tid : Nat) : (wakeFences s tid).mem = s.mem := by simp [wakeFences, apply_ite State.mem]

@[simp] theorem kickEngine_mem (s : State) (cl e : Nat) : (kickEngine s cl e).mem = s.mem := by
  unfold kickEngine
  exact foldl_mem (fun _ _ => by simp)

@[simp] theorem freeEngine_mem (s : State) (eng id : Nat) : (freeEngine s eng id).mem = s.mem := by simp [freeEngine, apply_ite State.mem]

@[simp] theorem endCmd_mem (s : State) (id : Nat) (keep : Bool) : (endCmd s id keep).mem = s.mem := by
  unfold endCmd
  split <;> simp [apply_ite State.mem]

@[simp] theorem addStatus_mem (s : State) (ctx : Nat) (e : BitVec 256) (waiter : Option Nat) : (addStatus s ctx e waiter).mem = s.mem := by
  unfold addStatus
  split <;> simp [apply_ite State.mem]

@[simp] theorem dropEntries_mem (s : State) (es : List InboxEntry) : (dropEntries s es).mem = s.mem := by
  simp [dropEntries, foldl_mem, apply_ite State.mem]

@[simp] theorem kickIdle_mem (s : State) (cl : Nat) : (kickIdle s cl).mem = s.mem := by
  unfold kickIdle
  refine foldl_mem fun v e => ?_
  split
  · rfl
  · exact foldl_mem fun w id => by split <;> rfl

@[simp] theorem abandonCmd_mem (s : State) (id : Nat) : (abandonCmd s id).mem = s.mem := by unfold abandonCmd; split <;> simp

@[simp] theorem abandonClaims_mem (s : State) (owner : Nat) : (abandonClaims s owner).mem = s.mem := by simp [abandonClaims, foldl_mem]

@[simp] theorem dropPins_mem (s : State) (t : Thread) : (dropPins s t).mem = s.mem := by simp [dropPins, foldl_mem, apply_ite State.mem]

@[simp] theorem stopRings_mem (s : State) (tid : Nat) : (stopRings s tid).mem = s.mem := by
  unfold stopRings
  exact foldl_mem (fun _ _ => by simp)

@[simp] theorem wakeRoom_mem (s : State) (ctx : Nat) : (wakeRoom s ctx).mem = s.mem := by
  unfold wakeRoom
  exact foldl_mem (fun _ _ => by simp)

@[simp] theorem rescindOps_mem (s : State) (tid : Nat) : (rescindOps s tid).mem = s.mem := by simp [rescindOps, foldl_mem, apply_ite State.mem]

@[simp] theorem abandonOps_mem (s : State) (tid : Nat) : (abandonOps s tid).mem = s.mem := by simp [abandonOps]

@[simp] theorem leaveArrivals_mem (s : State) (tid : Nat) : (leaveArrivals s tid).mem = s.mem := rfl

@[simp] theorem removeThread_mem (s : State) (tid : Nat) : (removeThread s tid).mem = s.mem := rfl

@[simp] theorem discardInbox_mem (s : State) (tid : Nat) : (discardInbox s tid).mem = s.mem := by simp [discardInbox, apply_ite State.mem]

@[simp] theorem releaseHeld_mem (s : State) (tid : Nat) : (releaseHeld s tid).mem = s.mem := by simp only [releaseHeld]; (repeat' split) <;> simp

@[simp] theorem abandonColl_mem (s : State) (core g : Nat) : (abandonColl s core g).mem = s.mem := rfl

@[simp] theorem dropGroups_mem (s : State) (tid : Nat) : (dropGroups s tid).mem = s.mem := by
  unfold dropGroups
  split
  · rfl
  · dsimp only
    split
    · rw [setT_mem]
      exact foldl_mem fun u g => by (repeat' split) <;> simp
    · exact foldl_mem fun u g => by (repeat' split) <;> simp

@[simp] theorem abandonThread_mem (s : State) (tid : Nat) : (abandonThread s tid).mem = s.mem := by
  unfold abandonThread
  split <;> simp [apply_ite State.mem]

@[simp] theorem endOwner_mem (s : State) (owner : Nat) : (endOwner s owner).mem = s.mem := by
  unfold endOwner
  split
  · rfl
  · split
    · rfl
    · dsimp only
      rw [foldl_mem fun _ _ => sched_mem .., apply_ite State.mem, sched_mem, ite_self]
      simp only [abandonClaims_mem]
      rw [foldl_mem fun _ _ => abandonThread_mem .., foldl_mem fun _ _ => (dropEntries_mem ..).trans (dropPins_mem ..), setO_mem]

@[simp] theorem endByFault_mem (s : State) (tid ctx owner : Nat) (cause : Cause) (pc : Nat) : (endByFault s tid ctx owner cause pc).mem = s.mem := by
  unfold endByFault
  split <;> simp [apply_ite State.mem]

@[simp] theorem logCmd_mem (s : State) (c : Cmd) (agent : Nat) (cause : Cause) (addr : Nat) : (logCmd s c agent cause addr).mem = s.mem := by
  simp [logCmd]

@[simp] theorem violate_mem (s : State) (id : Nat) (c : Cmd) (agent : Nat) (cause : Cause) (addr : Nat) :
    (violate s id c agent cause addr).mem = s.mem := by
  simp [violate]

@[simp] theorem finishSelection_mem (s : State) (id : Nat) (c : Cmd) (q : Selection) (r : HawkRun) : (finishSelection s id c q r).mem = s.mem := by
  simp [finishSelection, apply_ite State.mem]

@[simp] theorem cmdMiss_mem (s : State) (id : Nat) (c : Cmd) (va : Nat) : (cmdMiss s id c va).mem = s.mem := by simp [cmdMiss]

@[simp] theorem hawkStop_mem (s : State) (id : Nat) (c : Cmd) (st : Stop) : (hawkStop s id c st).mem = s.mem := by unfold hawkStop; split <;> simp

@[simp] theorem sendWindow_mem (s : State) (id : Nat) (c : Cmd) (w : Writer) (x : Nat × Place × List (Nat × Byte)) :
    (sendWindow s id c w x).mem = s.mem :=
  rfl

@[simp] theorem windowWrote_mem (s : State) (eng : Nat) (bs : List (Place × Byte)) : (windowWrote s eng bs).mem = s.mem := by
  simp only [windowWrote]
  split <;> simp

@[simp] theorem divCount_mem (s : State) (tid b : Nat) : (divCount s tid b).mem = s.mem := by unfold divCount; split <;> rfl

@[simp] theorem schedOnce_mem (s : State) (c : Nat) (i : Instr) : (schedOnce s c i).mem = s.mem := by unfold schedOnce; split <;> rfl

@[simp] theorem pokeCore_mem (s : State) (core : Nat) : (pokeCore s core).mem = s.mem := by simp [pokeCore, foldl_mem]

@[simp] theorem offerCore_mem (s : State) (core : Nat) : (offerCore s core).mem = s.mem := by simp [offerCore, foldl_mem]

@[simp] theorem dropLines_mem (s : State) (lo hi : Nat) : (dropLines s lo hi).mem = s.mem := rfl

@[simp] theorem launchLin_mem (s : State) (tid : Nat) (t : Thread) (op : Instr) (a b d : GReg) (named : List Nat) (at_ : List Place) :
    (launchLin s tid t op a b d named at_).mem = s.mem := by
  simp [launchLin, foldl_mem]

@[simp] theorem kickPool_mem (s : State) (pool : Nat) : (kickPool s pool).mem = s.mem := by simp [kickPool, foldl_mem]

@[simp] theorem addReady_mem (s : State) (ctx : Nat) (rs : List (BitVec 256)) : (addReady s ctx rs).mem = s.mem := by
  unfold addReady
  exact foldl_mem (fun _ _ => by (repeat' split) <;> simp)

@[simp] theorem relaxedWake_mem (s : State) (tid : Nat) : (relaxedWake s tid).mem = s.mem := by
  unfold relaxedWake
  split <;> simp [apply_ite State.mem]

@[simp] theorem imageCheck_mem (s : State) (o : Owner) (core : Nat) (slots : List Nat) : (imageCheck s o core slots).mem = s.mem := by
  unfold imageCheck
  split <;> simp

@[simp] theorem offerFwds_mem (s : State) (owner core : Nat) : (offerFwds s owner core).mem = s.mem := by
  unfold offerFwds
  exact foldl_mem (fun _ _ => by simp)

@[simp] theorem takeSerial_mem (s : State) (ctx : Nat) : (takeSerial s ctx).2.mem = s.mem := by unfold takeSerial; split <;> rfl

@[simp] theorem setQueue_mem (s : State) (ctx q : Nat) (v : Queue) : (setQueue s ctx q v).mem = s.mem := by unfold setQueue; split <;> rfl

@[simp] theorem queueError_mem (s : State) (ctx q addr : Nat) : (queueError s ctx q addr).mem = s.mem := by
  unfold queueError
  split <;> simp [apply_ite State.mem]

@[simp] theorem failPacket_mem (s : State) (id : Nat) (p : Pkt) : (failPacket s id p).mem = s.mem := by simp only [failPacket]; split <;> simp

@[simp] theorem spawnThread_mem (s : State) (tid : Nat) (t : Thread) (slot : Nat) (pc : VAddr) (arg : GReg) :
    (spawnThread s tid t slot pc arg).mem = s.mem := by
  simp [spawnThread, apply_ite State.mem]

@[simp] theorem copyStop_mem (s : State) (id : Nat) (c : Cmd) (st : Stop) : (copyStop s id c st).mem = s.mem := by unfold copyStop; split <;> simp

@[simp] theorem wakeStreams_mem (s : State) (core : Nat) : (wakeStreams s core).mem = s.mem := rfl

@[simp] theorem windowRead_mem (s : State) (eng : Nat) (ps : List Place) : (windowRead s eng ps).1.mem = s.mem := by
  simp [windowRead, apply_ite State.mem]

@[simp] theorem sendFwd_mem (s : State) (owner n src dst : Nat) (op : FwdOp) : (sendFwd s owner n src dst op).mem = s.mem := rfl

@[simp] theorem releaseHeldFwds_mem (s : State) (owner n : Nat) : (releaseHeldFwds s owner n).mem = s.mem := by
  unfold releaseHeldFwds
  exact foldl_mem (fun _ _ => by simp)

@[simp] theorem barrierLog_mem (s : State) (owner core slot n addr : Nat) (c : Cause) : (barrierLog s owner core slot n addr c).mem = s.mem := by
  unfold barrierLog
  split <;> simp

@[simp] theorem barError_mem (s : State) (owner home n : Nat) (c : Cause) (addr : Nat) : (barError s owner home n c addr).mem = s.mem := by
  unfold barError
  split <;> simp [apply_ite State.mem, foldl_mem]

@[simp] theorem sendNotice_mem (s : State) (owner n home core phase : Nat) : (sendNotice s owner n home core phase).mem = s.mem := rfl

@[simp] theorem wakePhase_mem (s : State) (owner core n phase : Nat) : (wakePhase s owner core n phase).mem = s.mem := by
  unfold wakePhase
  exact foldl_mem (fun _ _ => by (repeat' split) <;> simp)

@[simp] theorem dropWindows_mem (s : State) (scope core : Nat) : (dropWindows s scope core).mem = s.mem := rfl

@[simp] theorem sendRecords_mem (s : State) (owner home n : Nat) (b : Barrier) : (sendRecords s owner home n b).mem = s.mem := by
  unfold sendRecords
  exact foldl_mem (fun _ _ => by simp)

@[simp] theorem checkPhase_keepsMem (s : State) (owner home n : Nat) : (checkPhase s owner home n).mem = s.mem := by
  unfold checkPhase
  split
  · rfl
  · split
    · rfl
    · simp only [releaseHeldFwds_mem]
      rw [foldl_mem fun _ _ => sendNotice_mem ..]
      simp

@[simp] theorem creditBytes_mem (owner home n fuel : Nat) (s : State) (bytes addr : Nat) :
    (creditBytes owner home n fuel s bytes addr).mem = s.mem := by
  induction fuel generalizing s bytes addr with
  | zero => rfl
  | succ f ih =>
    unfold creditBytes
    split
    · rfl
    · dsimp only
      split
      · rfl
      · split
        · exact barError_mem ..
        · rw [ih, checkPhase_keepsMem, setBar_mem]

@[simp] theorem credit_mem (s : State) (owner core n bytes addr : Nat) : (credit s owner core n bytes addr).mem = s.mem := by
  simp [credit, apply_ite State.mem]

@[simp] theorem setMoved_mem (s : State) (tid : Nat) (r : Reg) : (setMoved s tid r).mem = s.mem := by simp [setMoved]

@[simp] theorem pinCopy_mem (s : State) (t : Thread) (d : Reg) (v : GReg) : (pinCopy s t d v).mem = s.mem := by simp [pinCopy, apply_ite State.mem]

@[simp] theorem moveRing_mem (s : State) (tid : Nat) (roles : List (Nat × Nat)) (d a : Reg) : (moveRing s tid roles d a).mem = s.mem := by
  unfold moveRing
  split <;> rfl

@[simp] theorem setMember_mem (s : State) (tid : Nat) (g : Fin 16) (on : Bool) : (setMember s tid g on).mem = s.mem := by
  unfold setMember
  split <;> rfl

@[simp] theorem leaveGroup_mem (s : State) (tid : Nat) (g : Fin 16) : (leaveGroup s tid g).mem = s.mem := by
  unfold leaveGroup
  split <;> simp [apply_ite State.mem]

@[simp] theorem setMask_mem (s : State) (tid : Nat) (m : MReg) (v : BitVec 16) : (setMask s tid m v).mem = s.mem := by unfold setMask; split <;> rfl

@[simp] theorem pktDone_mem (s : State) (id : Nat) : (pktDone s id).mem = s.mem := rfl

@[simp] theorem writeMsix_mem (s : State) (lo : Nat) (bs : List Byte) : (writeMsix s lo bs).mem = s.mem := rfl

@[simp] theorem fileMessage_mem (s : State) (k : Nat) (bytes : List Byte) : (fileMessage s k bytes).mem = s.mem := rfl

@[simp] theorem drainMailbox_mem (s : State) (k : Nat) : (drainMailbox s k).mem = s.mem := rfl

@[simp] theorem sendMsix_mem (s : State) (vec : Nat) : (sendMsix s vec).mem = s.mem := by simp [sendMsix, apply_ite State.mem]

@[simp] theorem wakeFetcher_mem (s : State) : (wakeFetcher s).mem = s.mem := by unfold wakeFetcher; split <;> rfl

@[simp] theorem complete_mem (s : State) (bs : List Byte) : (complete s bs).mem = s.mem := rfl

@[simp] theorem branchTo_mem (s : State) (i : Issue) (t : Thread) (taken : Bool) (off : ℤ) : (branchTo s i t taken off).mem = s.mem := by
  simp [branchTo]

@[simp] theorem requestPreempt_mem (s : State) (owner : Nat) : (requestPreempt s owner).mem = s.mem := by
  unfold requestPreempt
  split
  · rfl
  · split
    · rfl
    · rw [sched_mem, foldl_mem fun _ _ => sched_mem ..]
      rfl

@[simp] theorem layoutEntry_mem (s : State) (owner : Nat) (o : Owner) : (layoutEntry s owner o).mem = s.mem := by simp [layoutEntry]

@[simp] theorem endPopulations_mem (s : State) : (endPopulations s).mem = s.mem := by simp [endPopulations, foldl_mem]

@[simp] theorem runImage_mem (s : State) (img : FwImage) : (runImage s img).mem = s.mem := rfl

@[simp] theorem resumeDispatch_mem (s : State) : (resumeDispatch s).mem = s.mem := by unfold resumeDispatch; split <;> simp [foldl_mem]

@[simp] theorem endActivation_mem (s : State) (img : Option FwImage) : (endActivation s img).mem = s.mem := by unfold endActivation; split <;> simp

@[simp] theorem terminateContext_mem (s : State) (ctx : Nat) : (terminateContext s ctx).mem = s.mem := by
  simp only [terminateContext]
  (repeat' split) <;> simp [foldl_mem]

@[simp] theorem startClock_mem (s : State) (owner home n : Nat) : (startClock s owner home n).mem = s.mem := by
  unfold startClock
  split <;> simp [apply_ite State.mem]

@[simp] theorem setBarDest_mem (s : State) (tid d : Nat) : (setBarDest s tid d).mem = s.mem := by unfold setBarDest; split <;> rfl

@[simp] theorem setTile_mem (s : State) (cl t : Nat) (x : Tile) : (setTile s cl t x).mem = s.mem := rfl

@[simp] theorem finishCmd_mem (s : State) (id : Nat) (c : Cmd) (n : Counts) (vs : List FVal) : (finishCmd s id c n vs).mem = s.mem := by
  simp [finishCmd, apply_ite State.mem]

@[simp] theorem cmdFault_mem (s : State) (id : Nat) (c : Cmd) (cause : Cause) (addr : Nat) : (cmdFault s id c cause addr).mem = s.mem := rfl

@[simp] theorem matStop_mem (s : State) (id : Nat) (c : Cmd) (st : Stop) : (matStop s id c st).mem = s.mem := by unfold matStop; split <;> simp

@[simp] theorem mploadWrite_mem (s : State) (id : Nat) (c : Cmd) (x : MploadX) : (mploadWrite s id c x).mem = s.mem := by
  simp only [mploadWrite]
  split <;> simp

@[simp] theorem keepRecords_mem (s : State) (tid : Nat) (t : Thread) (op : Instr) (records : List (BitVec 256)) :
    (keepRecords s tid t op records).mem = s.mem := by
  simp [keepRecords]

@[simp] theorem launchGate_mem (s : State) (tid : Nat) (t : Thread) (op : Instr) (g v : Nat) (records : List (BitVec 256)) :
    (launchGate s tid t op g v records).mem = s.mem := by
  simp [launchGate]

@[simp] theorem awaitClaim_mem (s : State) (cl id : Nat) (c : Cmd) : (awaitClaim s cl id c).mem = s.mem := rfl

@[simp] theorem launchCoc_mem (s : State) (tid : Nat) (op : Instr) (a b : GReg) (x y : Nat) (due : Option Nat) :
    (launchCoc s tid op a b x y due).mem = s.mem := by
  simp [launchCoc]

@[simp] theorem restoreInbox_mem (s : State) (core slot : Nat) (es : List InboxEntry) : (restoreInbox s core slot es).mem = s.mem := rfl

@[simp] theorem adopt_mem (s : State) (tid id : Nat) (ms : List Move) : (adopt s tid id ms).mem = s.mem := by
  unfold adopt
  split <;> simp [apply_ite State.mem]

@[simp] theorem writeFlt_mem (s : State) (f : FaultRec) : (writeFlt s f).mem = s.mem := by unfold writeFlt; split <;> simp [apply_ite State.mem]

@[simp] theorem endThreadFault_mem (s : State) (f : FaultRec) : (endThreadFault s f).mem = s.mem := by simp [endThreadFault]

@[simp] theorem unready_mem (s : State) (r : Ready) : (unready s r).mem = s.mem := by simp [unready, apply_ite State.mem]

@[simp] theorem lateEntry_mem (s : State) (ctx owner core : Nat) (key : ℤ) : (lateEntry s ctx owner core key).mem = s.mem := by simp [lateEntry]

@[simp] theorem saveThread_mem (s : State) (tid live : Nat) : (saveThread s tid live).mem = s.mem := by simp [saveThread]

@[simp] theorem retireAnswered_mem (s : State) (tid : Nat) : (retireAnswered s tid).mem = s.mem := by
  simp only [retireAnswered]
  (repeat' split) <;> simp

@[simp] theorem dropOpPins_mem (s : State) (o : LinOp) : (dropOpPins s o).mem = s.mem := by
  unfold dropOpPins
  exact foldl_mem (fun _ _ => by simp)

@[simp] theorem wakeOutbound_mem (s : State) (core : Nat) : (wakeOutbound s core).mem = s.mem := rfl

@[simp] theorem wakeArriver_mem (s : State) (tid : Nat) : (wakeArriver s tid).mem = s.mem := by
  unfold wakeArriver
  split <;> simp [apply_ite State.mem]

@[simp] theorem wakeReader_mem (s : State) (dst : Nat) : (wakeReader s dst).mem = s.mem := by simp [wakeReader, apply_ite State.mem]

@[simp] theorem acceptMsg_mem (s : State) (id : Nat) (m : Msg) : (acceptMsg s id m).mem = s.mem := by simp [acceptMsg, apply_ite State.mem]

@[simp] theorem rejectMsg_mem (s : State) (id : Nat) (m : Msg) : (rejectMsg s id m).mem = s.mem := by simp [rejectMsg, apply_ite State.mem]

@[simp] theorem offerMsg_mem (s : State) (id : Nat) (m : Msg) : (offerMsg s id m).mem = s.mem := by simp [offerMsg, apply_ite State.mem]

@[simp] theorem offerHeld_mem (s : State) (core : Nat) : (offerHeld s core).mem = s.mem := by
  unfold offerHeld
  exact foldl_mem (fun _ _ => by split <;> simp [apply_ite State.mem])

@[simp] theorem setReady_mem (s : State) : (setReady s).mem = s.mem := rfl

@[simp] theorem writeEvc_mem (s : State) (core k : Nat) (v : Word) : (writeEvc s core k v).mem = s.mem := rfl

@[simp] theorem crWrite_mem (s : State) (tid crn v : Nat) : (crWrite s tid crn v).mem = s.mem := by unfold crWrite; (repeat' split) <;> simp

@[simp] theorem setPort_mem (s : State) (p : Nat) (v : Port) : (setPort s p v).mem = s.mem := rfl

@[simp] theorem transmit_mem (s : State) (o : Outbound) : (transmit s o).mem = s.mem := by unfold transmit; split <;> rfl

@[simp] theorem sendOut_mem (s : State) (domain : Nat) (b : FlitBody) : (sendOut s domain b).mem = s.mem := by simp [sendOut]

@[simp] theorem awaitPeer_mem (s : State) (id n : Nat) (p : Pkt) : (awaitPeer s id n p).mem = s.mem := by unfold awaitPeer; split <;> rfl

@[simp] theorem sendPieces_mem (s : State) (peer n : Nat) (bs : List Byte) (mk : Nat → List Byte → FlitBody) :
    (sendPieces s peer n bs mk).mem = s.mem := by
  simp [sendPieces, foldl_mem]

@[simp] theorem scrubUnits_mem (s : State) (core u fuel : Nat) : (scrubUnits s core u fuel).mem = s.mem := by
  induction fuel generalizing s u with
  | zero => rfl
  | succ n ih =>
    rw [scrubUnits, ih]
    rfl

@[simp] theorem releasePlace_mem (s : State) (owner core : Nat) : (releasePlace s owner core).mem = s.mem := by unfold releasePlace; split <;> simp

@[simp] theorem sendFold_mem (s : State) (id : Nat) (r : Red) (core me : Nat) : (sendFold s id r core me).mem = s.mem := by
  unfold sendFold
  dsimp only
  split
  · rfl
  · rw [wakeAll_mem, foldl_mem]
    · rfl
    · intros
      simp only [apply_ite State.mem, parkAs_mem, advance_mem, retirePast_mem, ite_self]

@[simp] theorem poisonHawk_mem (s : State) (cl : Nat) (held : Bool) : (poisonHawk s cl held).mem = s.mem := by
  unfold poisonHawk
  (repeat' split) <;> simp

@[simp] theorem relaxedPend_mem (s : State) (tid : Nat) (op : AccOp) (d id : Nat) : (relaxedPend s tid op d id).mem = s.mem := by
  unfold relaxedPend
  split <;> simp [apply_ite State.mem]

@[simp] theorem relaxedReplies_mem (s : State) (op : AccOp) (at_ id : Nat) : (relaxedReplies s op at_ id).mem = s.mem := by
  unfold relaxedReplies
  (repeat' split) <;> simp

@[simp] theorem sendAccess_mem (s : State) (tid lat : Nat) (handle : Option Nat) (r : Req) : (sendAccess s tid lat handle r).mem = s.mem := by
  unfold sendAccess
  split <;> rfl

@[simp] theorem heldBank_mem (s : State) (tid : Nat) (x : Place) : (heldBank s tid x).mem = s.mem := by unfold heldBank; split <;> simp

@[simp] theorem heldInc_mem (s : State) (tid : Nat) (t : Thread) (x : Option Reg) : (heldInc s tid t x).mem = s.mem := by
  unfold heldInc
  (repeat' split) <;> simp

@[simp] theorem heldLoad_mem (s : State) (tid : Nat) (t : Thread) (n d : Nat) (p : Place) (inc : Option Reg) (v : GReg) :
    (heldLoad s tid t n d p inc v).mem = s.mem := by
  simp [heldLoad]

@[simp] theorem acceptCopy_mem (s : State) (id : Nat) (c : Cmd) : (acceptCopy s id c).mem = s.mem := by
  simp only [acceptCopy]
  (repeat' split) <;> simp

@[simp] theorem dropTile_mem (s : State) (cl : Nat) (e : HltEntry) : (dropTile s cl e).mem = s.mem := rfl

@[simp] theorem cocStart_mem (s : State) (id : Nat) (o : CocOp) : (cocStart s id o).mem = s.mem := by
  simp only [cocStart, sched_mem]
  split
  · exact foldl_mem fun _ _ => dropTile_mem ..
  · rfl

@[simp] theorem scrubGranules_mem (s : State) (cl first n : Nat) : (scrubGranules s cl first n).mem = s.mem := by
  simp only [scrubGranules, sched_mem, setCluster_mem]
  exact foldl_mem fun _ _ => setCore_mem ..

@[simp] theorem consume_mem (s : State) (tid : Nat) (r : Reg) (dests : List Reg) : (consume s tid r dests).mem = s.mem := by
  unfold consume
  split <;> simp [apply_ite State.mem]

@[simp] theorem serveCfree_mem (s : State) (o : CocOp) (a : Reg) : (serveCfree s o a).mem = s.mem := by simp [serveCfree]

@[simp] theorem serveCshape_mem (s : State) (o : CocOp) (d : Reg) : (serveCshape s o d).mem = s.mem := by simp [serveCshape]

@[simp] theorem serveCalloc_mem (s : State) (o : CocOp) (t : Thread) (d : Reg) : (serveCalloc s o t d).mem = s.mem := by
  simp only [serveCalloc]
  (repeat' split) <;> simp

@[simp] theorem serveCjoin_mem (s : State) (o : CocOp) (d a b : Reg) : (serveCjoin s o d a b).mem = s.mem := by simp only [serveCjoin]; split <;> simp

@[simp] theorem serveCsplit_mem (s : State) (o : CocOp) (col : Bool) (d a : Reg) : (serveCsplit s o col d a).mem = s.mem := by simp [serveCsplit]

@[simp] theorem cocServe_mem (s : State) (id : Nat) (o : CocOp) : (cocServe s id o).mem = s.mem := by simp only [cocServe]; (repeat' split) <;> simp

@[simp] theorem issueSignal_mem (s : State) (ctx owner i : Nat) (set_ : Bool) (v : Nat) (pkt : Option Nat) :
    (issueSignal s ctx owner i set_ v pkt).mem = s.mem :=
  rfl

@[simp] theorem replayThread_mem (s : State) (tid : Nat) (f : FaultRec) : (replayThread s tid f).mem = s.mem := by unfold replayThread; split <;> rfl

@[simp] theorem resumeCmd_mem (s : State) (id : Nat) (c : Cmd) : (resumeCmd s id c).mem = s.mem := by unfold resumeCmd; split <;> rfl

@[simp] theorem resolved_mem (s : State) (r : Nat) (f : FaultRec) : (resolved s r f).mem = s.mem := by simp only [resolved]; (repeat' split) <;> simp

@[simp] theorem grantClaim_mem (s : State) (cl id : Nat) (c : Cmd) : (grantClaim s cl id c).mem = s.mem := by
  simp only [grantClaim, parkAs_mem, apply_ite State.mem, joinQueue_mem, enqueue_mem, ite_self, setCluster_mem]
  exact foldl_mem fun _ _ => setTile_mem ..

@[simp] theorem invalidate_mem (s : State) (ctx va pbits : Nat) : (invalidate s ctx va pbits).mem = s.mem := rfl

@[simp] theorem lookAgain_mem (s : State) (v : Queue) : (lookAgain s v).mem = s.mem := by simp [lookAgain, foldl_mem]

@[simp] theorem leaveAll_mem (s : State) (tid : Nat) : (leaveAll s tid).mem = s.mem := by simp [leaveAll, foldl_mem]

@[simp] theorem endThread_mem (s : State) (tid : Nat) : (endThread s tid).mem = s.mem := by unfold endThread; split <;> simp

@[simp] theorem noPortLeft_mem (s : State) : (noPortLeft s).mem = s.mem := by unfold noPortLeft; split <;> rfl

@[simp] theorem gateRetire_mem (s : State) (id : Nat) (o : GateOp) : (gateRetire s id o).mem = s.mem := by unfold gateRetire; (repeat' split) <;> simp

@[simp] theorem putBack_mem (s : State) (id : Nat) (c : Cmd) : (putBack s id c).mem = s.mem := by simp [putBack]

@[simp] theorem additionDone_mem (s : State) (p u : Nat) : (additionDone s p u).mem = s.mem := by simp only [additionDone]; split <;> simp

@[simp] theorem queueAddition_mem (s : State) (k : Nat) (c : Cmd) : (queueAddition s k c).mem = s.mem := by simp [queueAddition, apply_ite State.mem]

@[simp] theorem sendAdditions_mem (s : State) (id : Nat) (c : Cmd) (x : DrainX) (y : MdrainaX) : (sendAdditions s id c x y).mem = s.mem := by
  simp only [sendAdditions]
  (repeat' split) <;> simp

@[simp] theorem takePacket_mem (s : State) (x : Nat × Nat × Nat) : (takePacket s x).mem = s.mem := by
  unfold takePacket
  split <;> simp [apply_ite State.mem]

@[simp] theorem takeDue_mem (fuel : Nat) (s : State) : (takeDue fuel s).mem = s.mem := by
  induction fuel generalizing s with
  | zero => rfl
  | succ n ih =>
    unfold takeDue
    split
    · rfl
    · rw [ih, takePacket_mem]

@[simp] theorem fromHomes_mem (s : State) (c : Cmd) : (fromHomes s c).mem = s.mem := by unfold fromHomes; split <;> rfl

@[simp] theorem takeHeld_mem (s : State) (c : Cmd) : (takeHeld s c).1.mem = s.mem := by simp only [takeHeld]; (repeat' split) <;> simp

@[simp] theorem claimAgain_mem (s : State) (id : Nat) (c : Cmd) : (claimAgain s id c).mem = s.mem := by simp [claimAgain, apply_ite State.mem]

@[simp] theorem giveUp_mem (s : State) (id : Nat) (c : Cmd) (agent : Nat) (k : Cause) (a : Nat) : (giveUp s id c agent k a).mem = s.mem := by
  unfold giveUp
  split <;> simp [apply_ite State.mem]

@[simp] theorem runFor_mem (s : State) (id : Nat) (c : Cmd) (data : List Byte) (n : Nat) : (runFor s id c data n).mem = s.mem := rfl

@[simp] theorem startRing_mem (s : State) (id : Nat) (c : Cmd) : (startRing s id c).mem = s.mem := rfl

@[simp] theorem startCopy_mem (s : State) (id : Nat) (c : Cmd) : (startCopy s id c).mem = s.mem := by unfold startCopy; split <;> rfl

@[simp] theorem endCmdFault_mem (s : State) (id : Nat) (f : FaultRec) : (endCmdFault s id f).mem = s.mem := by
  unfold endCmdFault
  split <;> simp [apply_ite State.mem]

@[simp] theorem moveSent_mem (s : State) (tid r : Nat) : (moveSent s tid r).mem = s.mem := by unfold moveSent; (repeat' split) <;> simp

@[simp] theorem placeMsg_mem (s : State) (m : Msg) : (placeMsg s m).mem = s.mem := rfl

@[simp] theorem hold_mem (s : State) (tid : Nat) (t : Thread) : (hold s tid t).mem = s.mem := by simp [hold]

@[simp] theorem dropSync_mem (s : State) (tid : Nat) (t : Thread) (id : Nat) : (dropSync s tid t id).mem = s.mem := by
  unfold dropSync
  split <;> simp [apply_ite State.mem]

@[simp] theorem capture_dropGroupsOnly_mem (s : State) (tid : Nat) : (capture.dropGroupsOnly s tid).mem = s.mem := by
  unfold capture.dropGroupsOnly
  exact foldl_mem (fun _ _ => by split <;> simp [apply_ite State.mem])

@[simp] theorem stopSelection_mem (s : State) (tid : Nat) (t : Thread) (id : Nat) (c : Cmd) : (stopSelection s tid t id c).mem = s.mem := by
  unfold stopSelection
  split <;> simp [apply_ite State.mem]

@[simp] theorem dropGate_mem (s : State) (tid : Nat) (t : Thread) (id : Nat) : (dropGate s tid t id).mem = s.mem := by
  unfold dropGate
  split <;> simp [apply_ite State.mem]

@[simp] theorem stopLoad_mem (s : State) (tid : Nat) (t : Thread) (id : Nat) (c : Cmd) : (stopLoad s tid t id c).mem = s.mem := by
  unfold stopLoad
  split <;> simp

@[simp] theorem dropUnsaved_mem (s : State) (t : Thread) (live : Nat) : (dropUnsaved s t live).mem = s.mem := by simp [dropUnsaved]

@[simp] theorem takeInbox_mem (s : State) (tid : Nat) : (takeInbox s tid).mem = s.mem := by unfold takeInbox; split <;> rfl

@[simp] theorem disown_mem (s : State) (tid : Nat) : (disown s tid).mem = s.mem := rfl

@[simp] theorem saveNow_mem (s : State) (tid live : Nat) : (saveNow s tid live).mem = s.mem := by simp only [saveNow]; (repeat' split) <;> simp

@[simp] theorem peerAnswered_mem (s : State) (id n : Nat) : (peerAnswered s id n).mem = s.mem := by
  unfold peerAnswered
  split <;> simp [apply_ite State.mem]

@[simp] theorem refusedBy_mem (s : State) (id : Nat) : (refusedBy s id).mem = s.mem := by unfold refusedBy; split <;> simp

@[simp] theorem without_mem (s : State) (owner core : Nat) : (without s owner core).mem = s.mem := rfl

@[simp] theorem considerPreemption_mem (s : State) (u : Cand) : (considerPreemption s u).mem = s.mem := by unfold considerPreemption; split <;> simp

@[simp] theorem settle_mem (s : State) (pool : Nat) : (settle s pool).mem = s.mem := by unfold settle; split <;> rfl

@[simp] theorem takeFrom_mem (s : State) (p cls fuel : Nat) (cores : List Nat) : (takeFrom s p cls fuel cores).1.mem = s.mem := by
  induction cores generalizing s fuel with
  | nil => rfl
  | cons q rest ih =>
    unfold takeFrom
    split
    · rfl
    · exact ih ..

@[simp] theorem evaluatePool_mem (s : State) (p : Nat) : (evaluatePool s p).mem = s.mem := by
  simp only [evaluatePool]
  (repeat' split) <;> simp [foldl_mem]

@[simp] theorem gateDid_mem (s : State) (id : Nat) (o : GateOp) (c : Ctx) (made : List (BitVec 256)) (old : Nat) :
    (gateDid s id o c made old).mem = s.mem :=
  rfl

@[simp] theorem gateRange_mem (s : State) (o : GateOp) : (gateRange s o).mem = s.mem := by simp [gateRange]

@[simp] theorem decrementDone_mem (s : State) (id : Nat) (o : GateOp) (c : Ctx) : (decrementDone s id o c).mem = s.mem := by
  simp only [decrementDone]
  (repeat' split) <;> simp

@[simp] theorem sendRecordsNow_mem (s : State) (id : Nat) (o : GateOp) : (sendRecords_ s id o).mem = s.mem := by
  simp [sendRecords_, apply_ite State.mem]

@[simp] theorem requeueSelections_mem (s : State) (cl : Nat) : (requeueSelections s cl).mem = s.mem := by simp [requeueSelections, foldl_mem]

@[simp] theorem creditRun_mem (s : State) (c : Cmd) (g : GReg) (o n : Nat) : (creditRun s c g o n).mem = s.mem := by
  unfold creditRun
  split <;> simp [apply_ite State.mem, foldl_mem]

@[simp] theorem discardWindows_mem (s : State) (scope core : Nat) (which : Nat → Bool) : (discardWindows s scope core which).mem = s.mem := rfl

@[simp] theorem endPopOn_mem (s : State) (owner core : Nat) : (endPopOn s owner core).mem = s.mem := by
  unfold endPopOn
  split <;> simp [apply_ite State.mem]

@[simp] theorem freeHandles_mem (s : State) (owner : Nat) : (freeHandles s owner).mem = s.mem := by simp [freeHandles, foldl_mem, apply_ite State.mem]

@[simp] theorem freeHawk_mem (s : State) (owner : Nat) : (freeHawk s owner).mem = s.mem := by simp [freeHawk, foldl_mem]

@[simp] theorem endDecrement_mem (s : State) (owner core : Nat) (o : Owner) : (endDecrement s owner core o).mem = s.mem := by
  unfold endDecrement
  split <;> rfl

@[simp] theorem fetchAgain_mem (s : State) (tid : Nat) : (fetchAgain s tid).mem = s.mem := by unfold fetchAgain; split <;> rfl

@[simp] theorem cmdSoft_mem (s : State) (id : Nat) (c : Cmd) (w : Nat) : (cmdSoft s id c w).mem = s.mem := by simp [cmdSoft, apply_ite State.mem]

@[simp] theorem walkDoneCmd_mem (r : WalkEnd) (cl ctx va : Nat) (s : State) (e : Nat × Cmd) : (walkDoneCmd r cl ctx va s e).mem = s.mem := by
  unfold walkDoneCmd
  (repeat' split) <;> simp

@[simp] theorem takeTrap_mem (s : State) (tid : Nat) (t : Thread) (code : Nat) : (takeTrap s tid t code).mem = s.mem := by
  simp [takeTrap, apply_ite State.mem]

@[simp] theorem withBundle_mem (s : State) (tid : Nat) (b : Bundle) (words : Nat) : (withBundle s tid b words).mem = s.mem := by
  unfold withBundle
  split <;> rfl

@[simp] theorem retireLate_mem (s : State) (tid : Nat) (t : Thread) : (retireLate s tid t).mem = s.mem := by
  unfold retireLate
  split
  · rfl
  · dsimp only
    split <;> (try simp only [addEvc_mem, setT_mem]) <;> rw [foldl_mem fun _ _ => by split <;> rfl, foldl_mem fun _ _ => by split <;> simp]

@[simp] theorem passTime_mem (s : State) (n : Nat) : (passTime s n).mem = s.mem := rfl

/-! ### Memory: what an operation that may stop yields -/

/-- What an operation yields, if it does not stop, meets P. -/

def Yields {ε α : Type} (P : α → Prop) : Except ε α → Prop
  | .ok a => P a
  | .error _ => True

section
variable {ε α β : Type} {P : α → Prop} {Q : β → Prop}

@[simp] theorem yields_ok {a : α} : Yields P (.ok a : Except ε α) ↔ P a := .rfl

@[simp] theorem yields_error {e : ε} : Yields P (.error e : Except ε α) := trivial

theorem Yields.of_eq {x : Except ε α} (h : Yields P x) {a : α} (hx : x = .ok a) : P a := by subst hx; exact h

theorem yields_bind {x : Except ε β} {f : β → Except ε α} (h : ∀ b, x = .ok b → Yields P (f b)) : Yields P (x >>= f) := by
  cases x with
  | error e => trivial
  | ok b => exact h b rfl

theorem Yields.bind {x : Except ε β} {f : β → Except ε α} (hx : Yields Q x) (h : ∀ b, Q b → Yields P (f b)) : Yields P (x >>= f) :=
  yields_bind fun b hb => h b (hx.of_eq hb)

theorem yields_bind_any {x : Except ε β} {f : β → Except ε α} (h : ∀ b, Yields P (f b)) : Yields P (x >>= f) := yields_bind fun b _ => h b

theorem yields_ite {c : Prop} [Decidable c] {x y : Except ε α} : Yields P (if c then x else y) ↔ (c → Yields P x) ∧ (¬c → Yields P y) := by
  split <;> simp_all

end

theorem cmdRead_mem (s : State) (c : Cmd) (g : GReg) (am : Bool) (need : Need) (o n : Nat) :
    Yields (fun r => r.1.mem = s.mem) (cmdRead s c g am need o n) := by
  unfold cmdRead
  split
  · refine yields_bind_any fun _ => ?_
    split <;> simp
  · simp [yields_bind_any]

theorem readRows_mem (s : State) (c : Cmd) (g : GReg) (am : Bool) (stride n : Nat) (rs : List Nat) :
    Yields (fun r => r.1.mem = s.mem) (readRows s c g am stride n rs) := by
  induction rs generalizing s with
  | nil => rfl
  | cons r rest ih => exact (cmdRead_mem ..).bind fun x hx => (ih x.1).bind fun y hy => hy.trans hx

theorem readScales_mem (s : State) (c : Cmd) (g : GReg) (am : Bool) (rows pitch k : Nat) (rs : List Nat) :
    Yields (fun r => r.1.mem = s.mem) (readScales s c g am rows pitch k rs) := by
  induction rs generalizing s with
  | nil => rfl
  | cons r rest ih => exact (cmdRead_mem ..).bind fun x hx => (ih x.1).bind fun y hy => hy.trans hx

theorem readOperand_mem (s : State) (c : Cmd) (f : Fmt) (am : Bool) (rows pitch k : Nat) (which : List Nat) :
    Yields (fun r => r.1.mem = s.mem) (readOperand s c f am rows pitch k which) := by
  refine (readRows_mem ..).bind fun x hx => ?_
  split
  · exact (readScales_mem ..).bind fun y hy => hy.trans hx
  · exact hx

theorem matStart_mem (s : State) (c : Cmd) : Yields (fun r => r.1.mem = s.mem) (matStart s c) := by
  unfold matStart
  dsimp only
  split
  · exact (readOperand_mem ..).bind fun _ h => h
  · rfl
  · exact (cmdRead_mem ..).bind fun _ h => h
  · exact (readOperand_mem ..).bind fun _ h => h
  · split
    · trivial
    · split
      · trivial
      · split
        · trivial
        · split
          · trivial
          · split
            · trivial
            · exact (readOperand_mem ..).bind fun _ h => h
  · split
    · split
      · rfl
      · simp [yields_bind_any]
    · rfl

theorem readColumns_mem (s : State) (c : Cmd) (q : Selection) : Yields (fun r => r.1.mem = s.mem) (readColumns s c q) := by
  refine (cmdRead_mem ..).bind fun k hk => ?_
  dsimp only
  split
  · refine (cmdRead_mem ..).bind fun w hw => ?_
    split
    · exact (cmdRead_mem ..).bind fun m hm => hm.trans (hw.trans hk)
    · exact hw.trans hk
  · show Yields _ (if q.x.mv = true then _ else _)
    split
    · exact (cmdRead_mem ..).bind fun m hm => hm.trans hk
    · exact hk

@[simp] theorem beginMatrix_mem (s : State) (id : Nat) (c : Cmd) : (beginMatrix s id c).mem = s.mem := by
  unfold beginMatrix
  split
  · split
    · rfl
    · split <;> rfl
  · split
    · exact matStop_mem ..
    · next s1 data n mask h => exact (matStart_mem s c).of_eq h

@[simp] theorem startMatrix_mem (s : State) (id : Nat) (c : Cmd) : (startMatrix s id c).mem = s.mem := by
  unfold startMatrix
  repeat' split
  all_goals simp

@[simp] theorem startHawk_mem (s : State) (id : Nat) (c : Cmd) : (startHawk s id c).mem = s.mem := by
  unfold startHawk
  dsimp only
  split
  · split
    · simp
    · next s1 keys wts mask h =>
      have := (readColumns_mem ..).of_eq h
      simpa using this
  · repeat' split
    all_goals simp

theorem afterWalk_mem {goOn : State → Nat → State} (h : ∀ u k, (goOn u k).mem = u.mem) (r : WalkEnd) (s : State) (tid x : Nat) :
    (afterWalk r s tid x goOn).mem = s.mem := by
  unfold afterWalk
  split
  · exact h ..
  · simp
  · simp

@[simp] theorem walkDoneThread_mem (r : WalkEnd) (cl ctx va : Nat) (s : State) (e : Nat × Thread) :
    (walkDoneThread r cl ctx va s e).mem = s.mem := by
  unfold walkDoneThread
  repeat' split
  · exact afterWalk_mem wakeArriver_mem ..
  · rfl
  · exact afterWalk_mem fetchAgain_mem ..
  all_goals rfl

@[simp] theorem joinColl_mem (s : State) (i : Issue) (t : Thread) (g : Fin 16) (sel : Instr) (e : CollEntry) :
    Yields (fun u => u.mem = s.mem) (joinColl s i t g sel e) := by
  unfold joinColl
  dsimp only
  repeat' split
  all_goals simp

@[simp] theorem waitHere_mem (s : State) (tid : Nat) (t : Thread) (n : Nat) (d : Reg) (cstat : Bool) :
    Yields (fun u => u.mem = s.mem) (waitHere s tid t n d cstat) := by
  unfold waitHere
  dsimp only
  repeat' split
  all_goals simp

theorem arriveAt_mem {s s1 : State} {owner home n tid p : Nat} {cstat : Option (List Place)} (h : arriveAt s owner home n tid cstat = .counted s1 p) :
    s1.mem = s.mem := by
  unfold arriveAt at h
  split at h
  · cases h
  · split at h
    · cases h
    · dsimp only at h
      split at h
      · cases h
      · cases h
        rw [startClock_mem, setBar_mem]
        split <;> simp

@[simp] theorem arriveAndWait_mem (s : State) (tid : Nat) (t : Thread) (n : Nat) (d : Reg) (cs : Option (List Place)) :
    Yields (fun u => u.mem = s.mem) (arriveAndWait s tid t n d cs) := by
  unfold arriveAndWait
  dsimp only
  split
  · split
    · exact waitHere_mem ..
    · simp
  · split
    · trivial
    · split
      · trivial
      · split
        · simp
        · split
          · trivial
          · trivial
          · simp
          · next s1 p h =>
            have := arriveAt_mem h
            simp only [yields_ok, checkPhase_keepsMem]
            split <;> simpa using this

/-! MemOk -/

@[simp] theorem memOk_iff {s : State} : MemOk s ↔ Memory.wf s.mem = true := .rfl

theorem foldl_wf {α : Type} {f : State → α → State} (h : ∀ s x, Memory.wf s.mem = true → Memory.wf (f s x).mem = true) {l : List α} {s : State}
    (hs : Memory.wf s.mem = true) : Memory.wf (l.foldl f s).mem = true := by
  induction l generalizing s with
  | nil => exact hs
  | cons x xs ih => exact ih (h s x hs)

theorem loadTensor_mem {s s1 : State} {ctx m : Nat} {t : TensorInit} (h : loadTensor s ctx t = some (s1, m)) : s1.mem = s.mem := by
  unfold loadTensor at h
  split at h
  · split at h
    · cases h
    · dsimp only at h
      split at h
      · cases h
      · split at h
        · cases h
        · split at h <;> cases h
          rfl
  · cases h

/-! ### Memory stays canonical under the operations that write it -/

@[simp] theorem putByte_wf (s : State) (p : Place) (b : Byte) (h : Memory.wf s.mem = true) : Memory.wf (putByte s p b).mem = true := by
  unfold putByte
  split
  · exact memPut_wf h _ _
  · exact h
  · exact h
  · exact memPut_wf h _ _

@[simp] theorem putBytes_wf (s : State) (l : List (Place × Byte)) (h : Memory.wf s.mem = true) : Memory.wf (putBytes s l).mem = true := by
  induction l generalizing s with
  | nil => exact h
  | cons x rest ih => exact ih _ (putByte_wf _ _ _ h)

@[simp] theorem storeTagged_wf (s : State) (ps : List Place) (g : GReg) (h : Memory.wf s.mem = true) : Memory.wf (storeTagged s ps g).mem = true := by
  unfold storeTagged
  split <;> simp [h]

@[simp] theorem storeBytes_wf (s : State) (w : Writer) (ps : List Place) (bs : List Byte) (h : Memory.wf s.mem = true) :
    Memory.wf (storeBytes s w ps bs).mem = true := by
  unfold storeBytes
  split <;> simp [h]

@[simp] theorem applyAcc_wf (s : State) (w : Writer) (op : AccOp) (ps : List Place) (h : Memory.wf s.mem = true) :
    Memory.wf (applyAcc s w op ps).1.mem = true := by
  simp only [applyAcc]
  (repeat' split) <;> simp [h]

@[simp] theorem feServeOne_wf (s : State) (id : Nat) (r : Req) (h : Memory.wf s.mem = true) : Memory.wf (feServeOne s id r).mem = true := by
  simp [feServeOne, h]

@[simp] theorem feServe_wf (key fuel : Nat) (s : State) (h : Memory.wf s.mem = true) : Memory.wf (feServe key fuel s).mem = true := by
  induction fuel generalizing s with
  | zero => exact h
  | succ n ih =>
    unfold feServe
    dsimp only
    have hretried : ∀ (l m : List (Nat × Req)), Memory.wf (m.foldl (fun u p => feRetry u p.1 p.2) (l.foldl (fun u p => match accFault s p.2 with
        | some f => accFail u p.1 p.2 f
        | none => u) s)).mem = true := fun l m =>
      foldl_wf (fun _ _ h => by simp [h]) (foldl_wf (fun _ _ h => by split <;> simp [h]) h)
    split
    · exact hretried _ _
    · exact ih _ (feServeOne_wf _ _ _ (hretried _ _))

@[simp] theorem serveWords_wf (before after : State) (ps : List Place) (h : Memory.wf after.mem = true) :
    Memory.wf (serveWords before after ps).mem = true := by
  unfold serveWords
  exact foldl_wf (fun _ _ h => by split <;> simp [h]) h

@[simp] theorem perform_wf (s : State) (w : Writer) (op : AccOp) (ps : List Place) (h : Memory.wf s.mem = true) :
    Memory.wf (perform s w op ps).1.mem = true := by
  unfold perform
  split <;> simp [h]

@[simp] theorem writeNear_wf (s : State) (tid : Nat) (b : QWord) (i v : Nat) (h : Memory.wf s.mem = true) :
    Memory.wf (writeNear s tid b i v).mem = true := by
  simp only [writeNear]
  (repeat' split) <;> simp [h]

@[simp] theorem commitPlan_wf (s : State) (tid : Nat) (t : Thread) (p : Plan) (os : List Outcome1) (h : Memory.wf s.mem = true) :
    Memory.wf (commitPlan s tid t p os).mem = true := by
  have hwritten : ∀ u r, Memory.wf u.mem = true → Memory.wf
      (if isNear tid (t.rd r).bits then (outsTo os r).foldl (fun v e => writeNear v tid (t.rd r).bits e.1 e.2) u
       else postWrites u tid (t.rd r).bits (fetchedBytes u tid (t.rd r).bits (outsTo os r))).mem = true := fun u r h => by
    split
    · exact foldl_wf (fun _ _ h => by simp [h]) h
    · simp [h]
  unfold commitPlan
  dsimp only
  refine foldl_wf (fun _ _ h => by simp [h]) ?_
  simp only [amaxAll_mem, countAt_mem]
  split <;> (try rw [setReg_mem]) <;> exact foldl_wf (fun _ _ h => by split <;> simp [h]) (foldl_wf hwritten h)

@[simp] theorem runVector_wf (s : State) (tid : Nat) (t : Thread) (p : Plan) (commitOnWait : Bool) (h : Memory.wf s.mem = true) :
    Yields (fun u => Memory.wf u.mem = true) (runVector s tid t p commitOnWait) := by
  unfold runVector
  dsimp only
  split
  · split <;> simp [h]
  · split
    · refine foldl_wf (fun _ _ h => by simp [h]) ?_
      simp [h]
    · simp [h]
    · trivial
    · split <;> simp [h]

@[simp] theorem launchFe_wf (s : State) (tid : Nat) (t : Thread) (op : AccOp) (a : Access) (d : Nat) (inc : Option Nat) (h : Memory.wf s.mem = true) :
    Yields (fun u => Memory.wf u.mem = true) (launchFe s tid t op a d inc) := by
  unfold launchFe
  dsimp only
  split
  · refine yields_bind_any fun _ => ?_
    simp only [yields_ok, apply_ite State.mem, dropAhead_mem, ite_self, advance_mem, applyInc_mem, writeResult_mem]
    split <;> simp [h]
  · split <;> simp [h]

@[simp] theorem cmdWrite_wf (s : State) (id : Nat) (c : Cmd) (agent o : Nat) (ps : List Place) (bs : List Byte) (h : Memory.wf s.mem = true) :
    Memory.wf (cmdWrite s id c agent o ps bs).mem = true := by
  simp only [cmdWrite, windowWrote_mem]
  exact foldl_wf (fun _ _ h => by simp [h]) (by simp [h])

@[simp] theorem finishMask_wf (s : State) (id : Nat) (c : Cmd) (d : Reg) (h : Memory.wf s.mem = true) :
    Memory.wf (finishMask s id c d).mem = true := by
  simp only [finishMask]
  (repeat' split) <;> simp [h]

@[simp] theorem serveRange_wf (before after : State) (lo hi : Nat) (h : Memory.wf after.mem = true) :
    Memory.wf (serveRange before after lo hi).mem = true := by
  unfold serveRange
  exact foldl_wf (fun _ _ h => by split <;> simp [h]) h

@[simp] theorem clearRange_wf (s : State) (lo hi : Nat) (h : Memory.wf s.mem = true) : Memory.wf (clearRange s lo hi).mem = true := filter_wfFrom h _

@[simp] theorem clearUnits_wf (s : State) (core u n : Nat) (h : Memory.wf s.mem = true) : Memory.wf (clearUnits s core u n).mem = true := by
  simp [clearUnits, h]

@[simp] theorem performAccess_wf (s : State) (id : Nat) (r : Req) (h : Memory.wf s.mem = true) : Memory.wf (performAccess s id r).mem = true := by
  simp only [performAccess]
  (repeat' split) <;> simp [h]

@[simp] theorem writeRoots_wf (s : State) (core off : Nat) (roots : List (Nat × QWord)) (h : Memory.wf s.mem = true) :
    Memory.wf (writeRoots s core off roots).mem = true := by
  exact serveRange_wf _ _ _ _ (foldl_wf (fun _ _ h => by simp [h]) h)

@[simp] theorem putKeys_wf (s : State) (k : Nat) (bs : List Byte) (h : Memory.wf s.mem = true) : Memory.wf (putKeys s k bs).mem = true :=
  foldl_memPut_wf _ _ _ h

@[simp] theorem writeRecord_wf (s : State) (tid : Nat) (rec_ : BitVec 256) (h : Memory.wf s.mem = true) :
    Memory.wf (writeRecord s tid rec_).mem = true := by
  simp [writeRecord, cleanKeys_mem, h]

@[simp] theorem placeThread_wf (o : Owner) (owner core unit0 ready : Nat) (s : State) (slot : Nat) (h : Memory.wf s.mem = true) :
    Memory.wf (placeThread o owner core unit0 ready s slot).mem = true := by
  simp only [placeThread]
  split <;> simp [h]

@[simp] theorem putAt_wf (s : State) (p : Place) (bs : List Byte) (h : Memory.wf s.mem = true) : Memory.wf (putAt s p bs).mem = true := by
  simp [putAt, h]

@[simp] theorem placeOn_wf (s : State) (owner core unit0 : Nat) (h : Memory.wf s.mem = true) : Memory.wf (placeOn s owner core unit0).mem = true := by
  unfold placeOn
  split
  · exact h
  · next o _ =>
    simp only [sched_mem, setCore_mem, imageCheck_mem, offerFwds_mem]
    refine foldl_wf (fun _ _ h => by simp [h]) ?_
    have hstore : Memory.wf (if o.imageLen = 0 then clearUnits s core unit0 o.units
        else putAt (clearUnits s core unit0 o.units) (.ls core (unit0 * 4096))
          (virtBytes (clearUnits s core unit0 o.units) o.ctx o.image.toNat o.imageLen)).mem = true := by
      split <;> simp [h]
    have hroots : ∀ u : State, Memory.wf u.mem = true → Memory.wf (if o.units = 0 then u else
        match getC u o.ctx with
        | some c => writeRoots u core ((unit0 + o.units) * 4096 - 256) c.roots
        | none => u).mem = true := fun u h => by
      (repeat' split) <;> simp [h]
    split
    · exact hroots _ hstore
    · exact hroots _ hstore

@[simp] theorem popPlace_wf (s : State) (owner core : Nat) (h : Memory.wf s.mem = true) : Memory.wf (popPlace s owner core).mem = true := by
  simp only [popPlace]
  (repeat' split) <;> simp [h]

@[simp] theorem putEntry_wf (s : State) (pa e : Nat) (h : Memory.wf s.mem = true) : Memory.wf (putEntry s pa e).mem = true := by
  simp [putEntry, cleanKeys_mem, h]

@[simp] theorem entryFor_wf (s : State) (ctx va level fuel tbl : Nat) (h : Memory.wf s.mem = true) :
    Memory.wf (entryFor s ctx va level fuel tbl).1.mem = true := by
  induction fuel generalizing s tbl with
  | zero => exact h
  | succ n ih =>
    rw [entryFor]
    extract_lets pa
    split
    · exact h
    · split
      · exact ih _ _ h
      · split
        · exact h
        · exact ih _ _ (by simp [h])

@[simp] theorem installEntry_wf (s : State) (ctx va leaf level : Nat) (h : Memory.wf s.mem = true) :
    Memory.wf (installEntry s ctx va leaf level).mem = true := by
  unfold installEntry
  split <;> simp [h]

@[simp] theorem mapFor_wf (s : State) (ctx va : Nat) (write : Bool) (h : Memory.wf s.mem = true) :
    ∀ u, mapFor s ctx va write = some u → Memory.wf u.mem = true := by
  intro u hu
  unfold mapFor at hu
  split at hu
  · cases hu
  · split at hu
    · split at hu <;> cases hu
      exact h
    · split at hu
      · cases hu
      · dsimp only at hu
        split at hu
        · split at hu <;> cases hu
          simp [h]
        · cases hu

@[simp] theorem mapRange_wf (s : State) (ctx va : Nat) (write : Bool) (fuel : Nat) (h : Memory.wf s.mem = true) :
    ∀ u, mapRange s ctx va write fuel = some u → Memory.wf u.mem = true := by
  induction fuel generalizing s va with
  | zero =>
    rintro _ ⟨⟩
    exact h
  | succ n ih =>
    intro u hu
    unfold mapRange at hu
    split at hu
    · next s1 h1 => exact ih _ _ (mapFor_wf _ _ _ _ h _ h1) u hu
    · cases hu

@[simp] theorem frontRead_wf (s : State) (ctx va n : Nat) (h : Memory.wf s.mem = true) :
    ∀ u, frontRead s ctx va n = some u → Memory.wf u.1.mem = true := by
  intro u hu
  unfold frontRead at hu
  split at hu
  · cases hu
  · next s1 h1 =>
    split at hu <;> cases hu
    exact mapRange_wf _ _ _ _ _ h _ h1

@[simp] theorem notify_wf (s : State) (ctx i : Nat) (h : Memory.wf s.mem = true) : Memory.wf (notify s ctx i).mem = true := by
  simp only [notify]
  (repeat' split) <;> simp [h]

@[simp] theorem writeSignal_wf (s : State) (ctx i : Nat) (e : BitVec 256) (arms : Bool) (h : Memory.wf s.mem = true) :
    Memory.wf (writeSignal s ctx i e arms).mem = true := by
  simp only [writeSignal]
  (repeat' split) <;> simp [h]

@[simp] theorem writeEntry_wf (s : State) (ctx i lo : Nat) (bs : List Byte) (h : Memory.wf s.mem = true) :
    Memory.wf (writeEntry s ctx i lo bs).mem = true := by
  simp [writeEntry, h]

@[simp] theorem hostAtomic_wf (s : State) (addr : Nat) (f : Nat → Nat) (h : Memory.wf s.mem = true) : Memory.wf (hostAtomic s addr f).mem = true := by
  unfold hostAtomic
  split <;> simp [h]

@[simp] theorem replyTo_wf (s : State) (addr : Nat) (bs : List Byte) (h : Memory.wf s.mem = true) : Memory.wf (replyTo s addr bs).mem = true := by
  simp only [replyTo]
  split <;> simp [cleanKeys_mem, h]

@[simp] theorem activationStep_wf (s : State) (h : Memory.wf s.mem = true) : Memory.wf (activationStep s).mem = true := by
  unfold activationStep
  split
  · exact h
  · next a _ =>
    have hended : Memory.wf (if a.forced then endPopulations s else s).mem = true := by split <;> simp [h]
    extract_lets s1 bad ctxs
    split
    · exact hended
    · split
      · rw [endActivation_mem]
        exact hended
      · split
        · rw [endActivation_mem]
          exact foldl_wf (fun _ _ h => by simp [h]) (foldl_wf (fun _ _ h => by simp [h]) hended)
        · rw [endActivation_mem]
          exact replyTo_wf _ _ _ hended

@[simp] theorem putClean_wf (s : State) (k : Nat) (bs : List Byte) (h : Memory.wf s.mem = true) : Memory.wf (putClean s k bs).mem = true := by
  simp only [putClean]
  split <;> simp [h]

@[simp] theorem putElems_wf (s : State) (cl t i j : Nat) (vs : List Nat) (h : Memory.wf s.mem = true) :
    Memory.wf (putElems s cl t i j vs).mem = true := by
  simp [putElems, h]

@[simp] theorem mmaRow_wf (s : State) (cl t row : Nat) (cols : List (List FVal)) (as : List FVal) (init : Option Nat) (h : Memory.wf s.mem = true) :
    Memory.wf (mmaRow s cl t row cols as init).1.mem = true := by
  simp [mmaRow, h]

@[simp] theorem mmaRows_wf (s : State) (cl : Nat) (x : MmaX) (slice : Nat) (data : List Byte) (which : List Nat) (init : Option Nat) (h : Memory.wf
    s.mem = true) :
    Memory.wf (mmaRows s cl x slice data which init).1.mem = true := by
  unfold mmaRows
  dsimp only
  generalize hq : (s, Counts.zero) = q
  have hw : Memory.wf q.1.mem = true := hq ▸ h
  clear hq
  induction which.zipIdx generalizing q with
  | nil => exact hw
  | cons r rest ih => exact ih _ (mmaRow_wf _ _ _ _ _ _ _ hw)

@[simp] theorem clearRows_wf (s : State) (cl t row0 rows : Nat) (h : Memory.wf s.mem = true) : Memory.wf (clearRows s cl t row0 rows).mem = true := by
  unfold clearRows
  exact foldl_wf (fun _ _ h => by simp [h]) h

@[simp] theorem releaseTile_wf (s : State) (cl t : Nat) (h : Memory.wf s.mem = true) : Memory.wf (releaseTile s cl t).mem = true := by
  simp [releaseTile, h]

@[simp] theorem drainEnd_wf (s : State) (cl : Nat) (x : DrainX) (clr rel : Bool) (h : Memory.wf s.mem = true) :
    Memory.wf (drainEnd s cl x clr rel).mem = true := by
  simp only [drainEnd]
  (repeat' split) <;> simp [h]

@[simp] theorem drainWrite_wf (s : State) (id : Nat) (c : Cmd) (x : DrainX) (y : MdrainX) (h : Memory.wf s.mem = true) :
    Memory.wf (drainWrite s id c x y).mem = true := by
  simp only [drainWrite]
  (repeat' split) <;> simp [h]

@[simp] theorem bloadWrite_wf (s : State) (c : Cmd) (x : BloadX) (h : Memory.wf s.mem = true) : Memory.wf (bloadWrite s c x).mem = true := by
  unfold bloadWrite
  dsimp only
  split
  · exact foldl_wf (fun _ _ h => by simp [h]) (putClean_wf _ _ _ (foldl_wf (fun _ _ h => by simp [h]) (by simp [h])))
  · exact foldl_wf (fun _ _ h => by simp [h]) (by simp [h])

@[simp] theorem readOnce_wf (s : State) (p : Pkt) (n : Nat) (h : Memory.wf s.mem = true) :
    ∀ u, readOnce s p n = some u → Memory.wf u.1.mem = true := by
  intro u hu
  unfold readOnce at hu
  split at hu
  · cases hu
    exact h
  · obtain ⟨r, hr, rfl⟩ := Option.map_eq_some_iff.mp hu
    exact frontRead_wf _ _ _ _ h _ hr

@[simp] theorem restoreTiles_wf (s : State) (cl : Nat) (r : SaveRec) (h : Memory.wf s.mem = true) : Memory.wf (restoreTiles s cl r).mem = true := by
  exact foldl_wf (fun u v h => by simpa [cleanKeys_mem] using foldl_memPut_wf _ _ _ h) h

@[simp] theorem restoreThread_wf (o : Owner) (owner core ready : Nat) (ms : List Move) (r : SaveRec) (s : State) (p : SavedThread × Nat) (h :
    Memory.wf s.mem = true) :
    Memory.wf (restoreThread o owner core ready ms r s p).mem = true := by
  unfold restoreThread
  dsimp only
  rw [foldl_mem fun _ _ => adopt_mem .., foldl_mem fun _ _ => by split <;> simp]
  simp [h]

@[simp] theorem relocateTags_wf (s : State) (core unit0 : Nat) (tags : List Nat) (ms : List Move) (h : Memory.wf s.mem = true) :
    Memory.wf (relocateTags s core unit0 tags ms).mem = true := by
  refine foldl_wf (fun u k h => ?_) h
  dsimp only
  split <;> simp [h]

@[simp] theorem restoreImage_wf (s : State) (r : SaveRec) (core unit0 : Nat) (h : Memory.wf s.mem = true) :
    Memory.wf (restoreImage s r core unit0).mem = true := by
  exact serveRange_wf _ _ _ _ (foldl_memPut_wf _ _ _ h)

@[simp] theorem restorePlace_wf (s : State) (o : Owner) (r : SaveRec) (owner core unit0 : Nat) (slots : List Nat) (ms : List Move) (ready : Nat) (h :
    Memory.wf s.mem = true) :
    Memory.wf (restorePlace s o r owner core unit0 slots ms ready).mem = true := by
  unfold restorePlace
  split
  · split
    · exact h
    · simp [h]
  · rw [setP_mem]
    exact relocateTags_wf _ _ _ _ _ (restoreImage_wf _ _ _ _ (clearUnits_wf _ _ _ _ h))

@[simp] theorem resumeOn_wf (s : State) (owner core unit0 : Nat) (h : Memory.wf s.mem = true) :
    Memory.wf (resumeOn s owner core unit0).mem = true := by
  unfold resumeOn
  split
  · exact h
  · split
    · exact h
    · simp only [apply_ite State.mem, sched_mem, ite_self, setCore_mem, setCluster_mem]
      exact foldl_wf (fun _ _ h => by simp [h]) (by simp [h])

@[simp] theorem resumeRecord_wf (s : State) (owner core unit0 : Nat) (h : Memory.wf s.mem = true) :
    Memory.wf (resumeRecord s owner core unit0).mem = true := by
  simp only [resumeRecord]
  (repeat' split) <;> simp [h]

@[simp] theorem placeTask_wf (s : State) (c : Cand) (e : BitVec 512) (core unit0 : Nat) (h : Memory.wf s.mem = true) :
    Memory.wf (placeTask s c e core unit0).mem = true := by
  simp only [placeTask]
  (repeat' split) <;> simp [h]

@[simp] theorem placeCand_wf (s : State) (c : Cand) (core unit0 : Nat) (h : Memory.wf s.mem = true) :
    Memory.wf (placeCand s c core unit0).mem = true := by
  simp only [placeCand]
  (repeat' split) <;> simp [h]

@[simp] theorem settleReservation_wf (s : State) (r : Reservation) (h : Memory.wf s.mem = true) : Memory.wf (settleReservation s r).mem = true := by
  simp only [settleReservation]
  (repeat' split) <;> simp [h]

@[simp] theorem settleReservations_wf (s : State) (core : Nat) (h : Memory.wf s.mem = true) : Memory.wf (settleReservations s core).mem = true := by
  unfold settleReservations
  exact foldl_wf (fun _ _ h => by simp [h]) h

@[simp] theorem writeRecordBytes_wf (s : State) (owner : Nat) (o : Owner) (r : SaveRec) (h : Memory.wf s.mem = true) :
    Memory.wf (writeRecordBytes s owner o r).mem = true :=
  memSplice_wf h _ _

@[simp] theorem releaseWritten_wf (s : State) (owner : Nat) (r : SaveRec) (h : Memory.wf s.mem = true) :
    Memory.wf (releaseWritten s owner r).mem = true := by
  unfold releaseWritten
  extract_lets cl s1 s2
  have hs1 : Memory.wf s1.mem = true := by
    unfold s1
    split
    · exact foldl_wf (fun _ _ h => by simp [h]) h
    · exact h
  have hs2 : Memory.wf s2.mem = true := by
    unfold s2
    split <;> simp [hs1]
  split
  · exact hs1
  · split
    · split <;> simp [hs2]
    · exact hs2

@[simp] theorem coreFreed_wf (s : State) (core : Nat) (h : Memory.wf s.mem = true) : Memory.wf (coreFreed s core).mem = true := by simp [coreFreed, h]

@[simp] theorem launchAccess_wf (s : State) (tid : Nat) (t : Thread) (op : AccOp) (n : Nat) (a : Access) (d : Nat) (inc : Option Nat) (relaxed :
    Bool) (h : Memory.wf s.mem = true) :
    Yields (fun u => Memory.wf u.mem = true) (launchAccess s tid t op n a d inc relaxed) := by
  unfold launchAccess
  dsimp only
  split
  · refine yields_bind_any fun _ => ?_
    simp only [yields_ok, countAt_mem, advance_mem, applyInc_mem, writeResult_mem]
    split <;> simp [h]
  · split
    · trivial
    · split <;> simp [h]

@[simp] theorem heldStore_wf (s : State) (tid : Nat) (t : Thread) (n : Nat) (d : Reg) (p : Place) (inc : Option Reg) (h : Memory.wf s.mem = true) :
    Memory.wf (heldStore s tid t n d p inc).mem = true := by
  simp [heldStore, h]

@[simp] theorem putVirtBytes_wf (s : State) (ctx : Nat) (l : List (Nat × Byte)) (h : Memory.wf s.mem = true) :
    Memory.wf (putVirtBytes s ctx l).mem = true := by
  induction l generalizing s with
  | nil => exact h
  | cons x rest ih =>
    unfold putVirtBytes
    split
    · exact ih _ (memPut_wf h _ _)
    · exact ih _ h

@[simp] theorem putVirt_wf (s : State) (ctx : Nat) (bs : List (Nat × Byte)) (h : Memory.wf s.mem = true) :
    Memory.wf (putVirt s ctx bs).mem = true := by
  simp [putVirt, h]

@[simp] theorem patchField_wf (s : State) (ctx : Nat) (f : FieldUse) (v : ℤ) (h : Memory.wf s.mem = true) :
    Yields (fun u => Memory.wf u.mem = true) (patchField s ctx f v) := by
  unfold patchField
  split <;> simp [h]

@[simp] theorem patchFields_wf (ctx : Nat) (l : List (FieldUse × ℤ)) (s : State) (h : Memory.wf s.mem = true) :
    Yields (fun u => Memory.wf u.mem = true) (patchFields ctx l s) := by
  induction l generalizing s with
  | nil => exact h
  | cons x rest ih =>
    unfold patchFields
    split
    · trivial
    · next s1 h1 => exact ih _ ((patchField_wf _ _ _ _ h).of_eq h1)

@[simp] theorem loadTensors_wf (ctx : Nat) (l : List TensorInit) (s : State) (h : Memory.wf s.mem = true) :
    Yields (fun u => Memory.wf u.mem = true) (loadTensors ctx l s) := by
  induction l generalizing s with
  | nil => exact h
  | cons x rest ih =>
    unfold loadTensors
    split
    · trivial
    · next s1 m h1 =>
      split
      · trivial
      · next s2 h2 => exact ih _ ((patchFields_wf _ _ _ (by rw [loadTensor_mem h1]; exact h)).of_eq h2)

@[simp] theorem loadImage_wf (ctx : Nat) (img : Image) (c : Ctx) (s : State) (h : Memory.wf s.mem = true) :
    Yields (fun u => Memory.wf u.mem = true) (loadImage ctx img c s) := by
  unfold loadImage
  split
  · trivial
  · dsimp only
    split
    · trivial
    · next s2 h2 => exact loadTensors_wf _ _ _ ((patchFields_wf _ _ _ (by simp [h])).of_eq h2)

@[simp] theorem addElems_wf (s : State) (p : Nat) (x : DrainX) (y : MdrainaX) (data : List Byte) (h : Memory.wf s.mem = true) :
    Memory.wf (addElems s p x y data).1.mem = true := by
  unfold addElems
  dsimp only
  generalize hq : (s, Counts.zero) = q
  have hw : Memory.wf q.1.mem = true := hq ▸ h
  clear hq
  induction List.range x.rows.toNat generalizing q with
  | nil => exact hw
  | cons r rest ih => exact ih _ (putElems_wf _ _ _ _ _ _ hw)

@[simp] theorem endAdditions_wf (s : State) (id : Nat) (c : Cmd) (y : MdrainaX) (h : Memory.wf s.mem = true) :
    Memory.wf (endAdditions s id c y).mem = true := by
  unfold endAdditions
  split <;> simp [h]

@[simp] theorem finishAdditions_wf (s : State) (id main : Nat) (c : Cmd) (x : DrainX) (y : MdrainaX) (h : Memory.wf s.mem = true) :
    Memory.wf (finishAdditions s id main c x y).mem = true := by
  simp only [finishAdditions]
  (repeat' split) <;> simp [h]

@[simp] theorem linPerform_wf (s : State) (o : LinOp) (c : Ctx) (h : Memory.wf s.mem = true) :
    Yields (fun u => Memory.wf u.st.mem = true) (linPerform s o c) := by
  unfold linPerform
  dsimp only
  split
  case h_1 => split <;> simp [h]
  case h_2 =>
    split
    · trivial
    · exact yields_bind_any fun _ => yields_bind_any fun _ => yields_bind_any fun _ => by simp [h]
  case h_3 => exact yields_bind_any fun _ => yields_bind_any fun _ => yields_bind_any fun _ => h
  case h_4 =>
    refine yields_bind_any fun _ => ?_
    split
    · trivial
    · split
      · trivial
      · split
        · trivial
        · exact yields_bind_any fun _ => yields_bind_any fun _ => h
  case h_5 => exact yields_bind_any fun _ => yields_bind_any fun _ => yields_bind_any fun _ => h
  case h_6 => exact yields_bind_any fun _ => yields_bind_any fun _ => yields_bind_any fun _ => h
  case h_7 =>
    split
    · exact h
    · exact yields_bind_any fun _ => h
  case h_8 =>
    exact yields_bind_any fun _ => yields_bind_any fun _ => yields_bind_any fun _ => perform_wf _ _ _ _ h
  case h_9 =>
    refine yields_bind_any fun _ => yields_bind_any fun _ => ?_
    split
    · trivial
    · exact yields_bind_any fun _ => yields_bind_any fun _ => h
  case h_10 => exact yields_bind_any fun _ => yields_bind_any fun _ => yields_bind_any fun _ => h
  case h_11 =>
    refine yields_bind_any fun _ => ?_
    split
    · trivial
    · exact yields_bind_any fun _ => yields_bind_any fun _ => yields_bind_any fun _ => h
  case h_12 => exact h

@[simp] theorem zeroPartition_wf (s : State) (p : CtxParams) (h : Memory.wf s.mem = true) : Memory.wf (zeroPartition s p).mem = true := by
  unfold zeroPartition
  exact foldl_wf (fun _ _ h => by split <;> simp [h]) h

@[simp] theorem capture_wf (s : State) (tid : Nat) (t : Thread) (forced : Bool) (h : Memory.wf s.mem = true) :
    Memory.wf (capture s tid t forced).mem = true := by
  simp only [capture]
  (repeat' split) <;> simp [h]

@[simp] theorem takeData_wf (s : State) (pkt off : Nat) (bs : List Byte) (h : Memory.wf s.mem = true) :
    Memory.wf (takeData s pkt off bs).mem = true := by
  unfold takeData
  split
  · exact h
  · dsimp only
    split
    · simp [h]
    · next s1 h1 => simp [mapRange_wf _ _ _ _ _ h _ h1]

@[simp] theorem decideStation_wf (s : State) (die pool : Nat) (h : Memory.wf s.mem = true) : Memory.wf (decide_ s die pool).mem = true := by
  simp only [decide_]
  (repeat' split) <;> simp [h]

@[simp] theorem writeChunk_wf (s : State) (id : Nat) (c : Cmd) (o : Nat) (bs : List Byte) (h : Memory.wf s.mem = true) :
    Yields (fun u => Memory.wf u.mem = true) (writeChunk s id c o bs) := by
  refine yields_bind_any fun ps => ?_
  simp only [yields_ok]
  split <;> simp [h]

@[simp] theorem releaseOwned_wf (s : State) (owner : Nat) (h : Memory.wf s.mem = true) : Memory.wf (releaseOwned s owner).mem = true := by
  unfold releaseOwned
  dsimp only
  rw [foldl_mem fun _ _ => kickEngine_mem ..]
  simp only [freeHawk_mem, freeHandles_mem]
  exact foldl_wf (fun _ _ h => by simp [h]) h

@[simp] theorem endTask_wf (s : State) (owner : Nat) (o : Owner) (h : Memory.wf s.mem = true) : Memory.wf (endTask s owner o).mem = true := by
  unfold endTask
  split <;> simp [h]

@[simp] theorem updateSignal_wf (s : State) (ctx i : Nat) (set_ : Bool) (v : Nat) (h : Memory.wf s.mem = true) :
    Memory.wf (updateSignal s ctx i set_ v).mem = true := by
  simp only [updateSignal]
  (repeat' split) <;> simp [h]

@[simp] theorem reportChange_wf (s : State) (c : XlateChange) (h : Memory.wf s.mem = true) : Memory.wf (reportChange s c).mem = true := by
  simp [reportChange, h]

@[simp] theorem settleChanges_wf (s : State) (h : Memory.wf s.mem = true) : Memory.wf (settleChanges s).mem = true := by
  unfold settleChanges
  split
  · exact h
  · exact foldl_wf (fun _ _ h => by simp [h]) h

@[simp] theorem nextCycle_wf (s : State) (h : Memory.wf s.mem = true) : Memory.wf (nextCycle s).mem = true := by
  unfold nextCycle
  split
  · simp [h]
  · rw [foldl_mem fun _ _ => sched_mem ..]
    exact h

/-! ### Every meaning answers, and keeps memory canonical

Where a body reads operands and then branches, its proof peels the reads (`yields_bind_any`) and the branches as they come; what is left are the
states in which the turn ends. -/

/-- A meaning answers a next state, with memory canonical if it was; it stops only where no thread issues. -/

def KeepsMemory (s : State) : Host.Outcome State Fault Refusal → Prop
  | .next u => Memory.wf s.mem = true → Memory.wf u.mem = true
  | .fault _ => issuer s = none
  | .refused _ => False

@[simp] theorem keepsMemory_next {s u : State} : KeepsMemory s (.next u) ↔ (Memory.wf s.mem = true → Memory.wf u.mem = true) := .rfl

theorem keepsMemory_refl {s : State} : KeepsMemory s (.next s) := id

theorem keepsMemory_same {s u : State} (h : u.mem = s.mem) : KeepsMemory s (.next u) := fun hs => h ▸ hs

theorem keepsMemory_issueWith {s : State} {regs reads : List Reg} {body : Issue → Thread → Except Stop State}
    (hb : Memory.wf s.mem = true → ∀ i t, Yields (fun u => Memory.wf u.mem = true) (body i t)) : KeepsMemory s (issueWith s regs reads body) := by
  unfold issueWith
  split
  · assumption
  · next i t _ =>
    split
    · exact keepsMemory_same (stopAt_mem ..)
    · split
      · split
        · next u hu => exact fun hs => (hb hs i t).of_eq hu
        · exact keepsMemory_same (stopAt_mem ..)
      · split
        · exact keepsMemory_same (stopAt_mem ..)
        · split
          · exact keepsMemory_same (stopAt_mem ..)
          · split
            · exact keepsMemory_same (stopAt_mem ..)
            · split
              · exact keepsMemory_same (stopAt_mem ..)
              · split
                · next u hu =>
                  intro hs
                  rw [popWhenDone_mem]
                  exact (hb hs i _).of_eq hu
                · exact keepsMemory_same (stopAt_mem ..)

theorem Yields.wf {ε : Type} {s : State} {x : Except ε State} (hx : Yields (fun u => u.mem = s.mem) x) (h : Memory.wf s.mem = true) :
    Yields (fun u => Memory.wf u.mem = true) x := by
  cases x with
  | error e => trivial
  | ok u =>
    show Memory.wf u.mem = true
    rw [show u.mem = s.mem from hx, h]

theorem KeepsMemory.of_same {s u : State} (hu : u.mem = s.mem) {o : Host.Outcome State Fault Refusal} (h : KeepsMemory u o)
    (hi : issuer u = none → issuer s = none) : KeepsMemory s o := by
  cases o with
  | next v => exact fun hs => h (hu ▸ hs)
  | fault r => exact hi h
  | refused r => exact h

theorem lookAgain_onlyEvents (s : State) (v : Queue) : OnlyEvents s (lookAgain s v) := OnlyEvents.foldl (fun u _ => schedOnce_onlyEvents u ..) ..

theorem after_wf {s : State} {o : Host.Outcome State Fault Refusal} (ho : KeepsMemory s o) (h : Memory.wf s.mem = true) :
    Memory.wf (after s o).mem = true := by
  cases o with
  | next u => exact ho h
  | fault r => exact h
  | refused r => exact h

@[simp] theorem bundleFault_keepsMemory (c : Cause) (addr : Thread → Nat) (s : State) : KeepsMemory s (bundleFault c addr s) := by
  unfold bundleFault
  split
  · assumption
  · exact keepsMemory_same (takeFault_mem ..)

@[simp] theorem execFetchFault_keepsMemory (perm : Bool) (addr : Nat) (s : State) : KeepsMemory s (execFetchFault perm addr s) :=
  bundleFault_keepsMemory ..

@[simp] theorem collOne_keepsMemory (g : Fin 16) (op : Instr) (d a : Reg) (s : State) :
    KeepsMemory s (collOne g op d a s) := keepsMemory_issueWith fun h _ _ =>
    yields_bind_any fun _ => yields_bind_any fun _ => (joinColl_mem ..).wf h

@[simp] theorem execCvt_keepsMemory (rm : Rm) (src dst : Fmt) (d a : Reg) (s : State) : KeepsMemory s (execCvt rm src dst d a s) :=
  keepsMemory_issueWith fun h i t => by simp [h, yields_bind_any]

@[simp] theorem vectorWith_keepsMemory (s : State) (regs : List Reg) (plan : Nat → Thread → Except Stop Plan) :
    KeepsMemory s (vectorWith s regs plan) :=
  keepsMemory_issueWith fun h i t => by simp [h, yields_bind_any]

@[simp] theorem vecBinary_keepsMemory (v : VWord) (dRead : Bool) (f : Thread → Nat → Nat → Nat → Nat × Counts) (s : State) :
    KeepsMemory s (vecBinary v dRead f s) := vectorWith_keepsMemory ..

@[simp] theorem drainIssue_keepsMemory (op : Instr) (x : DrainX) (y : MdrainX) (d : Reg) (time : Nat) (s : State) :
    KeepsMemory s (drainIssue op x y d time s) :=
  keepsMemory_issueWith fun h i t => by
    repeat refine yields_bind_any fun _ => ?_
    simp [h]

@[simp] theorem syncAccess_keepsMemory (op : FewOp) (d a : Reg) (write : Bool) (s : State) : KeepsMemory s (syncAccess op d a write s) :=
  keepsMemory_issueWith fun h i t => by split <;> simp [h, yields_bind_any]

@[simp] theorem execHawkComplete_keepsMemory (id : Nat) (s : State) : KeepsMemory s (execHawkComplete id s) := by
  simp only [execHawkComplete]
  (repeat' split) <;> simp +contextual

@[simp] theorem intBinary_keepsMemory (f : Nat → Nat → Nat) (d a b : Reg) (s : State) : KeepsMemory s (intBinary f d a b s) :=
  keepsMemory_issueWith fun h i t => by
    repeat refine yields_bind_any fun _ => ?_
    simp [h]

@[simp] theorem intDivide_keepsMemory (f : Nat → Nat → Nat) (d a b : Reg) (s : State) : KeepsMemory s (intDivide f d a b s) :=
  keepsMemory_issueWith fun h i t => by
    repeat refine yields_bind_any fun _ => ?_
    simp [h]

@[simp] theorem maskToReg_keepsMemory (f : BitVec 16 → Nat) (d : Reg) (a : MReg) (s : State) : KeepsMemory s (maskToReg f d a s) :=
  keepsMemory_issueWith fun h i t => by simp [h, yields_bind_any]

@[simp] theorem execUnitScrubDone_keepsMemory (core u : Nat) (s : State) : KeepsMemory s (execUnitScrubDone core u s) := fun h => by simp [h]

@[simp] theorem vecUnary_keepsMemory (v : VUnary) (f : Nat → Nat × Counts) (s : State) : KeepsMemory s (vecUnary v f s) := vectorWith_keepsMemory ..

@[simp] theorem execTopen_keepsMemory (colb coln : BitVec 24) (keep : BitVec 4) (d a b : Reg) (s : State) :
    KeepsMemory s (execTopen colb coln keep d a b s) := keepsMemory_issueWith fun h i t => by
  simp only []
  (repeat' first | refine yields_bind_any fun _ => ?_ | split) <;> simp [h]

@[simp] theorem floatBinary_keepsMemory (f : Thread → Nat → Nat → Nat × Counts) (d a b : Reg) (s : State) : KeepsMemory s (floatBinary f d a b s) :=
  keepsMemory_issueWith fun h i t => by
    repeat refine yields_bind_any fun _ => ?_
    simp [h]

@[simp] theorem execCocoonRegionSet_keepsMemory (c : Nat) (s : State) : KeepsMemory s (execCocoonRegionSet c s) := by
  unfold execCocoonRegionSet
  split <;> simp +contextual

@[simp] theorem copyIssue_keepsMemory (op : Instr) (x : CpyX) (d a b : Reg) (time : Nat) (s : State) :
    KeepsMemory s (copyIssue op x d a b time s) := keepsMemory_issueWith fun h i t => by
  simp only []
  (repeat' first | refine yields_bind_any fun _ => ?_ | split) <;> simp [h]

@[simp] theorem execTsubAtInsert_keepsMemory (id : Nat) (s : State) : KeepsMemory s (execTsubAtInsert id s) := by
  simp only [execTsubAtInsert]
  (repeat' split) <;> simp +contextual

@[simp] theorem execCopyComplete_keepsMemory (id : Nat) (s : State) : KeepsMemory s (execCopyComplete id s) := by
  simp only [execCopyComplete]
  (repeat' split) <;> simp +contextual

@[simp] theorem execSvnRaise_keepsMemory (s : State) : KeepsMemory s (execSvnRaise s) := by unfold execSvnRaise; split <;> simp +contextual

@[simp] theorem execPbind_keepsMemory (d : Reg) (s : State) : KeepsMemory s (execPbind d s) :=
  keepsMemory_issueWith fun h i t => by simp [h, yields_bind_any]

@[simp] theorem execStatusEntryWrite_keepsMemory (ctx : Nat) (s : State) : KeepsMemory s (execStatusEntryWrite ctx s) := by
  simp only [execStatusEntryWrite]
  (repeat' split) <;> simp +contextual

@[simp] theorem selectIssue_keepsMemory (op : Instr) (q : Selection) (a b : Reg) (s : State) : KeepsMemory s (selectIssue op q a b s) :=
  keepsMemory_issueWith fun h i t => by
    (repeat' first | refine yields_bind_any fun _ => ?_ | split) <;> simp [h]

@[simp] theorem floatUnary_keepsMemory (f : Thread → Nat → Nat × Counts) (d a : Reg) (s : State) : KeepsMemory s (floatUnary f d a s) :=
  keepsMemory_issueWith fun h i t => by simp [h, yields_bind_any]

@[simp] theorem execAccessPerformed_keepsMemory (id : Nat) (s : State) : KeepsMemory s (execAccessPerformed id s) := by
  unfold execAccessPerformed
  split <;> simp +contextual

@[simp] theorem execLaunchPacket_keepsMemory (id : Nat) (s : State) : KeepsMemory s (execLaunchPacket id s) := by
  unfold execLaunchPacket
  split
  · exact keepsMemory_refl
  · split
    · exact keepsMemory_same (failPacket_mem ..)
    · next p _ _ s0 block h0 =>
      intro h
      rw [sched_mem]
      refine foldl_wf (fun _ _ h => popPlace_wf _ _ _ h) ?_
      rw [setO_mem, fresh_mem, takeSerial_mem]
      exact frontRead_wf _ _ _ _ h _ h0

@[simp] theorem execSpawn_keepsMemory (d a b : Reg) (s : State) : KeepsMemory s (execSpawn d a b s) := keepsMemory_issueWith fun h i t => by
  simp only []
  (repeat' first | refine yields_bind_any fun _ => ?_ | split) <;> simp [h]

@[simp] theorem execCpysRingWrite_keepsMemory (id : Nat) (s : State) : KeepsMemory s (execCpysRingWrite id s) := by
  unfold execCpysRingWrite
  split
  · exact keepsMemory_refl
  · next c _ =>
    split
    · exact keepsMemory_refl
    · split
      · exact keepsMemory_same (endCmd_mem ..)
      · split
        · exact keepsMemory_refl
        · split
          · exact keepsMemory_refl
          · extract_lets w len room k0 k o n
            split
            · exact keepsMemory_refl
            · split
              · exact keepsMemory_same (copyStop_mem ..)
              · split
                · exact keepsMemory_same (copyStop_mem ..)
                · next s1 bs h1 =>
                  intro h
                  have h1 : Memory.wf s1.mem = true := (cmdRead_mem ..).of_eq h1 ▸ h
                  simp only [sched_mem, wakeStreams_mem]
                  split
                  · rw [foldl_mem fun _ _ => credit_mem ..]
                    simp [h1]
                  · simp [h1]

@[simp] theorem execRelaxedLoadReply_keepsMemory (id : Nat) (s : State) : KeepsMemory s (execRelaxedLoadReply id s) := by
  simp only [execRelaxedLoadReply]
  (repeat' split) <;> simp +contextual

@[simp] theorem execRelaxedAccessComplete_keepsMemory (id : Nat) (s : State) : KeepsMemory s (execRelaxedAccessComplete id s) := by
  unfold execRelaxedAccessComplete
  split <;> simp +contextual

@[simp] theorem execMove_keepsMemory (d a : Reg) (s : State) : KeepsMemory s (execMove d a s) :=
  keepsMemory_issueWith fun h i t => by simp [h, yields_bind_any, yields_ite]

@[simp] theorem execSbind_keepsMemory (write : Bool) (fmt : Fmt) (d a b : Reg) (s : State) :
    KeepsMemory s (execSbind write fmt d a b s) := keepsMemory_issueWith fun h i t => by
  simp only []
  (repeat' first | refine yields_bind_any fun _ => ?_ | split) <;> simp [h]

@[simp] theorem execFence_keepsMemory (sc : Scope) (s : State) : KeepsMemory s (execFence sc s) :=
  keepsMemory_issueWith fun h i t => by split <;> simp [h]

@[simp] theorem execGleave_keepsMemory (g : Fin 16) (s : State) : KeepsMemory s (execGleave g s) := keepsMemory_issueWith fun h i t => by simp [h]

@[simp] theorem execMovmGm_keepsMemory (d : MReg) (a : Reg) (s : State) : KeepsMemory s (execMovmGm d a s) :=
  keepsMemory_issueWith fun h i t => by simp [h, yields_bind_any]

@[simp] theorem execWaitPacket_keepsMemory (id : Nat) (s : State) : KeepsMemory s (execWaitPacket id s) := by
  simp only [execWaitPacket]
  (repeat' split) <;> simp +contextual

@[simp] theorem vecBinaryTo_keepsMemory (v : VWord) (dOk : Nat → Bool) (dRead : Bool) (f : Nat → Nat → Nat → Nat × Counts) (s : State) :
    KeepsMemory s (vecBinaryTo v dOk dRead f s) :=
  vectorWith_keepsMemory ..

@[simp] theorem execHostMailboxWrite_keepsMemory (bytes : List Byte) (s : State) : KeepsMemory s (execHostMailboxWrite bytes s) := by
  simp only [execHostMailboxWrite]
  (repeat' split) <;> simp +contextual

@[simp] theorem execReset_keepsMemory (ctx q : Nat) (s : State) : KeepsMemory s (execReset ctx q s) := by
  simp only [execReset]
  (repeat' split) <;> simp +contextual

@[simp] theorem execWptr_keepsMemory (ctx q : Nat) (value : Word) (s : State) : KeepsMemory s (execWptr ctx q value s) := by
  simp only [execWptr]
  (repeat' split) <;> simp +contextual

@[simp] theorem writeQueue_wf (s : State) (ctx q lo : Nat) (bs : List Byte) (h : Memory.wf s.mem = true) :
    Memory.wf (writeQueue s ctx q lo bs).mem = true := by
  unfold writeQueue
  extract_lets s1
  have h1 : Memory.wf s1.mem = true := by
    unfold s1
    split
    · split
      · exact after_wf (execWptr_keepsMemory ..) h
      · exact h
    · exact h
  split
  · exact after_wf (execReset_keepsMemory ..) h1
  · exact h1

@[simp] theorem writeBlock_wf (s : State) (bar off : Nat) (bs : List Byte) (h : Memory.wf s.mem = true) :
    Memory.wf (writeBlock s bar off bs).mem = true := by
  unfold writeBlock
  split
  · split
    · exact after_wf (execHostMailboxWrite_keepsMemory ..) h
    · exact h
  · split
    · exact h
    · split <;> simp [h]
  · exact h

@[simp] theorem barWrite_wf (s : State) (bar off : Nat) (bs : List Byte) (h : Memory.wf s.mem = true) :
    Memory.wf (barWrite s bar off bs).mem = true :=
  foldl_wf (fun _ _ h => by simp [h]) h

@[simp] theorem barAtomic_wf (s : State) (bar off : Nat) (f : Nat → Option Nat) (h : Memory.wf s.mem = true) :
    Memory.wf (barAtomic s bar off f).mem = true := by
  unfold barAtomic
  dsimp only
  split
  · rw [complete_mem]
    split <;> simp [h]
  · exact h

@[simp] theorem execBarWrite_keepsMemory (bar : Option Nat) (addr : Nat) (a : HostAccess) (s : State) :
    KeepsMemory s (execBarWrite bar addr a s) := by
  unfold execBarWrite
  split <;> intro h <;> simp [h]

@[simp] theorem branchB_keepsMemory (cc : BCond) (a b : Reg) (off : ℤ) (s : State) : KeepsMemory s (branchB cc a b off s) := by
  unfold branchB
  split <;> exact keepsMemory_issueWith fun h i t => by simp [h, yields_bind_any]

@[simp] theorem execFirmwareActivation_keepsMemory (r : FwRequest) (s : State) : KeepsMemory s (execFirmwareActivation r s) := by
  unfold execFirmwareActivation
  split
  · exact keepsMemory_refl
  · intro h
    refine activationStep_wf _ ?_
    rw [foldl_mem fun _ _ => requestPreempt_mem ..]
    exact h

@[simp] theorem execBinit_keepsMemory (n : Fin 512) (a : Reg) (s : State) : KeepsMemory s (execBinit n a s) :=
  keepsMemory_issueWith fun h i t => by simp [h, yields_bind_any, yields_ite]

@[simp] theorem execBwait_keepsMemory (n : Fin 512) (d : Reg) (s : State) : KeepsMemory s (execBwait n d s) := keepsMemory_issueWith fun h _ _ => by
  refine yields_bind_any fun _ => yields_bind_any fun _ => ?_
  extract_lets home
  split
  · exact (waitHere_mem ..).wf h
  · simp [h]

@[simp] theorem execPageWalkStart_keepsMemory (cl : Nat) (s : State) : KeepsMemory s (execPageWalkStart cl s) := by
  simp only [execPageWalkStart]
  (repeat' split) <;> simp +contextual

@[simp] theorem execMatrixComplete_keepsMemory (id : Nat) (s : State) : KeepsMemory s (execMatrixComplete id s) := by
  unfold execMatrixComplete
  split
  · exact keepsMemory_refl
  · extract_lets cl
    split
    · split
      · split
        · intro h
          simp [h]
        · exact keepsMemory_refl
      · exact keepsMemory_refl
    · split
      · exact keepsMemory_refl
      · split
        · intro h
          simp [h]
        · intro h
          rw [finishCmd_mem]
          exact foldl_wf (fun _ _ h => by
            rw [setTile_mem]
            exact foldl_wf (fun _ _ h => by simp [h]) h) h
        · exact keepsMemory_same (mploadWrite_mem ..)
        · dsimp only
          split
          · exact keepsMemory_same (violate_mem ..)
          · intro h
            simp [h]
        · dsimp only
          split
          · exact keepsMemory_same (violate_mem ..)
          · intro h
            simp [h]
        · split
          · intro h
            simp [h]
          · exact keepsMemory_refl

@[simp] theorem execGjoin_keepsMemory (g : Fin 16) (s : State) : KeepsMemory s (execGjoin g s) := keepsMemory_issueWith fun h i t => by
  simp only []
  (repeat' first | refine yields_bind_any fun _ => ?_ | split) <;> simp [h]

@[simp] theorem submitIssue_keepsMemory (op : Instr) (a b : Reg) (s : State) :
    KeepsMemory s (submitIssue op a b s) := keepsMemory_issueWith fun h i t => by
  simp only []
  (repeat' first | refine yields_bind_any fun _ => ?_ | split) <;> simp [h]

@[simp] theorem execScnt_keepsMemory (d a : Reg) (s : State) : KeepsMemory s (execScnt d a s) :=
  keepsMemory_issueWith fun h i t => by simp [h, yields_bind_any]

@[simp] theorem execPoolAssign_keepsMemory (pools : List Nat) (s : State) : KeepsMemory s (execPoolAssign pools s) := by
  unfold execPoolAssign
  split <;> simp +contextual

@[simp] theorem execTasksPacket_keepsMemory (id : Nat) (s : State) : KeepsMemory s (execTasksPacket id s) := by
  unfold execTasksPacket
  split
  · exact keepsMemory_refl
  · next p _ =>
    extract_lets n
    split
    · exact keepsMemory_same (failPacket_mem ..)
    · next s0 rs h0 =>
      split
      · exact keepsMemory_refl
      · split
        · exact keepsMemory_same (failPacket_mem ..)
        · have h0 := fun h => readOnce_wf _ _ _ h _ h0
          split
          · exact h0
          · split
            · exact h0
            · simpa using h0

@[simp] theorem execCopyError_keepsMemory (id : Nat) (s : State) : KeepsMemory s (execCopyError id s) := by
  simp only [execCopyError]
  (repeat' split) <;> simp +contextual

@[simp] theorem execMinit_keepsMemory (x : MinitX) (a : Reg) (s : State) : KeepsMemory s (execMinit x a s) := keepsMemory_issueWith fun h i t => by
  simp only []
  (repeat' first | refine yields_bind_any fun _ => ?_ | split) <;> simp [h]

@[simp] theorem derive_keepsMemory (f : QWord → Nat → Except Stop QWord) (d a b : Reg) (s : State) : KeepsMemory s (derive f d a b s) :=
  keepsMemory_issueWith fun h i t => by
    repeat refine yields_bind_any fun _ => ?_
    simp [h]

@[simp] theorem execFork_keepsMemory (ft nf : Bool) (d a st : Reg) (s : State) : KeepsMemory s (execFork ft nf d a st s) :=
  keepsMemory_issueWith fun h i t => by
    repeat refine yields_bind_any fun _ => ?_
    simp [h]

@[simp] theorem execCfree_keepsMemory (a : Reg) (s : State) : KeepsMemory s (execCfree a s) :=
  keepsMemory_issueWith fun h i t => by simp [h, yields_bind_any, yields_ite]

@[simp] theorem execPinDrop_keepsMemory (ctx node : Nat) (s : State) : KeepsMemory s (execPinDrop ctx node s) := by
  unfold execPinDrop
  split <;> simp +contextual

@[simp] theorem execPopulationDeferredPlace_keepsMemory (owner core : Nat) (s : State) : KeepsMemory s (execPopulationDeferredPlace owner core s) :=
  fun h => by simp [h]

@[simp] theorem execSettleExpire_keepsMemory (pool : Nat) (s : State) : KeepsMemory s (execSettleExpire pool s) := by
  unfold execSettleExpire
  split <;> simp +contextual

@[simp] theorem execGranuleScrubDone_keepsMemory (cl r : Nat) (s : State) : KeepsMemory s (execGranuleScrubDone cl r s) := by
  unfold execGranuleScrubDone
  extract_lets first n c s1
  split
  · exact fun h => foldl_wf (fun _ _ h => by simp [h]) h
  · exact keepsMemory_refl

@[simp] theorem intUnary_keepsMemory (f : Nat → Nat) (d a : Reg) (s : State) : KeepsMemory s (intUnary f d a s) :=
  keepsMemory_issueWith fun h i t => by simp [h, yields_bind_any]

@[simp] theorem execTdone_keepsMemory (s : State) : KeepsMemory s (execTdone s) :=
  keepsMemory_issueWith fun h i t => by (repeat' split) <;> simp [h]

@[simp] theorem execFeRetryTick_keepsMemory (id : Nat) (s : State) : KeepsMemory s (execFeRetryTick id s) := by
  simp only [execFeRetryTick]
  (repeat' split) <;> simp +contextual

@[simp] theorem execSleep_keepsMemory (a : Reg) (s : State) : KeepsMemory s (execSleep a s) :=
  keepsMemory_issueWith fun h i t => by simp [h, yields_bind_any, yields_ite]

@[simp] theorem execMma_keepsMemory (x : MmaX) (a : Reg) (s : State) : KeepsMemory s (execMma x a s) :=
  keepsMemory_issueWith fun h i t => by
    repeat refine yields_bind_any fun _ => ?_
    simp [h]

@[simp] theorem execMailboxMessage_keepsMemory (k : Nat) (bytes : List Byte) (s : State) : KeepsMemory s (execMailboxMessage k bytes s) := by
  simp only [execMailboxMessage]
  (repeat' split) <;> simp +contextual

@[simp] theorem execGxldRowsArrive_keepsMemory (core g : Nat) (s : State) : KeepsMemory s (execGxldRowsArrive core g s) := by
  simp only [execGxldRowsArrive]
  (repeat' split) <;> simp +contextual

@[simp] theorem ringIssue_keepsMemory (op : Instr) (x : CpysX) (d a b : Reg) (time : Nat) (s : State) :
    KeepsMemory s (ringIssue op x d a b time s) := keepsMemory_issueWith fun h i t => by
  simp only []
  (repeat' first | refine yields_bind_any fun _ => ?_ | split) <;> simp [h]

@[simp] theorem execMatrixViolation_keepsMemory (id : Nat) (s : State) : KeepsMemory s (execMatrixViolation id s) := by
  simp only [execMatrixViolation]
  (repeat' split) <;> simp +contextual

@[simp] theorem execQpostAcknowledgement_keepsMemory (id : Nat) (s : State) : KeepsMemory s (execQpostAcknowledgement id s) := by
  simp only [execQpostAcknowledgement]
  (repeat' split) <;> simp +contextual

@[simp] theorem execSignalEntryWrite_keepsMemory (ctx i : Nat) (e : BitVec 256) (s : State) : KeepsMemory s (execSignalEntryWrite ctx i e s) := by
  unfold execSignalEntryWrite
  split <;> simp +contextual

@[simp] theorem execLineageReply_keepsMemory (id : Nat) (s : State) : KeepsMemory s (execLineageReply id s) := by
  unfold execLineageReply
  split
  · exact keepsMemory_refl
  · dsimp only
    split
    · split
      · exact keepsMemory_same (by simp)
      · refine keepsMemory_same ?_
        rw [retirePast_mem, foldl_mem fun _ _ => by (repeat' split) <;> simp]
        simp
    · refine keepsMemory_same ?_
      rw [foldl_mem fun _ _ => by split <;> rfl]
      simp

@[simp] theorem execMeasurementExtend_keepsMemory (k digest : Nat) (s : State) : KeepsMemory s (execMeasurementExtend k digest s) := by
  unfold execMeasurementExtend
  split <;> simp +contextual

@[simp] theorem execMessageArrival_keepsMemory (id : Nat) (s : State) : KeepsMemory s (execMessageArrival id s) := by
  unfold execMessageArrival
  split <;> simp +contextual

@[simp] theorem execCstat_keepsMemory (n : Fin 512) (a : Reg) (s : State) : KeepsMemory s (execCstat n a s) := keepsMemory_issueWith fun h _ _ => by
  refine yields_bind_any fun _ => ?_
  split
  · exact (arriveAndWait_mem ..).wf h
  · refine yields_bind_any fun _ => yields_bind_any fun _ => yields_bind_any fun _ => yields_bind_any fun _ => ?_
    split
    · exact (arriveAndWait_mem ..).wf h
    · trivial

@[simp] theorem execDomainJoin_keepsMemory (domain time : Nat) (s : State) : KeepsMemory s (execDomainJoin domain time s) := by
  unfold execDomainJoin
  split <;> simp +contextual

@[simp] theorem execCrw_keepsMemory (crn : BitVec 9) (a : Reg) (s : State) : KeepsMemory s (execCrw crn a s) :=
  keepsMemory_issueWith fun h i t => by split <;> simp [h, yields_bind_any]

@[simp] theorem execLaunchAtRelease_keepsMemory (owner core : Nat) (s : State) : KeepsMemory s (execLaunchAtRelease owner core s) :=
  keepsMemory_same rfl

@[simp] theorem execCopyPacket_keepsMemory (id : Nat) (s : State) : KeepsMemory s (execCopyPacket id s) := by
  unfold execCopyPacket
  split
  · exact keepsMemory_refl
  · dsimp only
    split
    · refine keepsMemory_same ?_
      split <;> simp
    · split
      · exact keepsMemory_same (failPacket_mem ..)
      · next s1 bs h1 => exact fun h => by simpa using frontRead_wf _ _ _ _ h _ h1
    · exact keepsMemory_same (submit_mem ..)

@[simp] theorem execPpt_keepsMemory (mask : Word) (s : State) : KeepsMemory s (execPpt mask s) :=
  keepsMemory_issueWith fun h i t => by (repeat' split) <;> simp [h]

@[simp] theorem execTaskSaveComplete_keepsMemory (owner : Nat) (s : State) : KeepsMemory s (execTaskSaveComplete owner s) := by
  unfold execTaskSaveComplete
  split
  · exact keepsMemory_refl
  · split
    · exact keepsMemory_refl
    · split
      · exact keepsMemory_refl
      · next o _ _ r _ _ =>
        intro h
        have hwritten : Memory.wf (releaseWritten (writeRecordBytes s owner o r) owner r).mem = true :=
          releaseWritten_wf _ _ _ (writeRecordBytes_wf _ _ _ _ h)
        rw [kickPool_mem]
        refine coreFreed_wf _ _ ?_
        dsimp only
        split
        · exact hwritten
        · rw [releasePlace_mem]
          exact hwritten

@[simp] theorem execForcedActivation_keepsMemory (s : State) : KeepsMemory s (execForcedActivation s) := by
  unfold execForcedActivation
  split <;> simp +contextual

@[simp] theorem execCred_keepsMemory (op : CredOp) (d a b : Reg) (s : State) :
    KeepsMemory s (execCred op d a b s) := keepsMemory_issueWith fun h i t => by
  refine yields_bind_any fun _ => yields_bind_any fun _ => ?_
  extract_lets v desc me g clash old id r s1 r1 s2 jp
  have h2 : Memory.wf s2.mem = true := by
    show Memory.wf s1.mem = true
    unfold s1
    split <;> exact h
  have hjp : Yields (fun u => Memory.wf u.mem = true) (jp ()) := by
    unfold jp
    repeat' split
    all_goals simp [h2]
  split
  · trivial
  · split <;> exact yields_bind_any fun _ => hjp

@[simp] theorem execMov_keepsMemory (d a : Reg) (s : State) : KeepsMemory s (execMov d a s) :=
  keepsMemory_issueWith fun h i t => by simp [h, yields_bind_any, yields_ite]

@[simp] theorem execCshape_keepsMemory (d a : Reg) (s : State) : KeepsMemory s (execCshape d a s) :=
  keepsMemory_issueWith fun h i t => by simp [h, yields_bind_any]

@[simp] theorem execCalloc_keepsMemory (d a : Reg) (s : State) : KeepsMemory s (execCalloc d a s) :=
  keepsMemory_issueWith fun h i t => by simp [h, yields_bind_any, yields_ite]

@[simp] theorem execFlat_keepsMemory (ft : Bool) (a st : Reg) (s : State) : KeepsMemory s (execFlat ft a st s) :=
  keepsMemory_issueWith fun h i t => by
    repeat refine yields_bind_any fun _ => ?_
    simp [h]

@[simp] theorem execGshfl_keepsMemory (g : Fin 16) (d a b : Reg) (s : State) :
    KeepsMemory s (execGshfl g d a b s) := keepsMemory_issueWith fun h _ _ =>
    yields_bind_any fun _ => yields_bind_any fun _ => yields_bind_any fun _ => (joinColl_mem ..).wf h

@[simp] theorem execSoftErr_keepsMemory (t : SoftTarget) (s : State) : KeepsMemory s (execSoftErr t s) := by
  unfold execSoftErr
  split <;> simp +contextual

@[simp] theorem execSel_keepsMemory (d a b c : Reg) (s : State) : KeepsMemory s (execSel d a b c s) :=
  keepsMemory_issueWith fun h i t => by
    (repeat' first | refine yields_bind_any fun _ => ?_ | split) <;> simp [h]

@[simp] theorem execLd_keepsMemory (op : MemOp) (d a : Reg) (s : State) : KeepsMemory s (execLd op d a s) :=
  keepsMemory_issueWith fun h i t => by
    (repeat' first | refine yields_bind_any fun _ => ?_ | split) <;> simp [h]

@[simp] theorem execEngineAccept_keepsMemory (id : Nat) (s : State) : KeepsMemory s (execEngineAccept id s) := by
  simp only [execEngineAccept]
  (repeat' split) <;> simp +contextual

@[simp] theorem execStreamReadaheadArrival_keepsMemory (id : Nat) (s : State) : KeepsMemory s (execStreamReadaheadArrival id s) := by
  simp only [execStreamReadaheadArrival]
  (repeat' split) <;> simp +contextual

@[simp] theorem maskOp_keepsMemory (f : Thread → BitVec 16) (d : MReg) (s : State) : KeepsMemory s (maskOp f d s) :=
  keepsMemory_issueWith fun h i t => by simp [h]

@[simp] theorem branchBI_keepsMemory (cc : Cmp) (a : Reg) (imm off : ℤ) (s : State) : KeepsMemory s (branchBI cc a imm off s) :=
  keepsMemory_issueWith fun h i t => by simp [h, yields_bind_any]

@[simp] theorem execTwr_keepsMemory (ft : Bool) (a b st : Reg) (s : State) : KeepsMemory s (execTwr ft a b st s) :=
  keepsMemory_issueWith fun h i t => by
    (repeat' first | refine yields_bind_any fun _ => ?_ | split) <;> simp [h]

@[simp] theorem execMpload_keepsMemory (x : MploadX) (a : Reg) (s : State) : KeepsMemory s (execMpload x a s) :=
  keepsMemory_issueWith fun h i t => by
    repeat refine yields_bind_any fun _ => ?_
    simp [h]

@[simp] theorem loadImmediate_keepsMemory (d : Reg) (v : Nat) (s : State) : KeepsMemory s (loadImmediate d v s) :=
  keepsMemory_issueWith fun h i t => by simp [h, yields_bind_any]

@[simp] theorem execCocoonTableServe_keepsMemory (cl : Nat) (s : State) : KeepsMemory s (execCocoonTableServe cl s) := by
  refine keepsMemory_same ?_
  rw [foldl_mem fun _ _ => sched_mem .., foldl_mem fun _ _ => cocServe_mem .., foldl_mem fun _ _ => by split <;> simp]

@[simp] theorem execBexp_keepsMemory (n : Fin 512) (a : Reg) (s : State) : KeepsMemory s (execBexp n a s) := keepsMemory_issueWith fun h i t => by
  simp only []
  (repeat' first | refine yields_bind_any fun _ => ?_ | split) <;> simp [h]

@[simp] theorem execHostTensorFree_keepsMemory (ctx node : Nat) (s : State) : KeepsMemory s (execHostTensorFree ctx node s) := by
  simp only [execHostTensorFree]
  (repeat' split) <;> simp +contextual

@[simp] theorem execAtmCas_keepsMemory (f : AtmFlags) (d a b c : Reg) (s : State) : KeepsMemory s (execAtmCas f d a b c s) :=
  keepsMemory_issueWith fun h i t => by simp [h, yields_bind_any]

@[simp] theorem execSignalPacket_keepsMemory (id : Nat) (s : State) : KeepsMemory s (execSignalPacket id s) := by
  unfold execSignalPacket
  split <;> simp +contextual

@[simp] theorem execWaittWake_keepsMemory (tid : Nat) (s : State) : KeepsMemory s (execWaittWake tid s) := by
  simp only [execWaittWake]
  (repeat' split) <;> simp +contextual

@[simp] theorem execNop_keepsMemory (s : State) : KeepsMemory s (execNop s) := keepsMemory_issueWith fun h i t => by simp [h]

@[simp] theorem execXlateResolve_keepsMemory (r : Nat) (s : State) : KeepsMemory s (execXlateResolve r s) := by
  simp only [execXlateResolve]
  (repeat' split) <;> simp +contextual

@[simp] theorem execMinitClaimGrant_keepsMemory (cl : Nat) (s : State) : KeepsMemory s (execMinitClaimGrant cl s) := by
  unfold execMinitClaimGrant
  generalize hq : (s, ([] : List Nat)) = q
  have hm : q.1.mem = s.mem := hq ▸ rfl
  clear hq
  refine keepsMemory_same ?_
  induction (clusterSt s cl).claims generalizing q with
  | nil => exact hm
  | cons id rest ih =>
    refine ih _ ?_
    dsimp only
    (repeat' split) <;> simp [hm]

@[simp] theorem execFencePacket_keepsMemory (id : Nat) (s : State) : KeepsMemory s (execFencePacket id s) := by
  unfold execFencePacket
  split <;> simp +contextual

@[simp] theorem imageInstr_keepsMemory (f : Nat → Nat) (d a : Reg) (s : State) : KeepsMemory s (imageInstr f d a s) :=
  keepsMemory_issueWith fun h i t => by simp [h, yields_bind_any]

@[simp] theorem execTnew_keepsMemory (rows cols : BitVec 24) (fmt : Fmt) (maxd : BitVec 4) (d a b : Reg) (s : State) :
    KeepsMemory s (execTnew rows cols fmt maxd d a b s) := keepsMemory_issueWith fun h i t => by
  extract_lets r c cap g p jp
  have hjp : Yields (fun u => Memory.wf u.mem = true) (jp ()) := by
    refine yields_bind_any fun _ => yields_bind_any fun _ => ?_
    repeat' split
    all_goals simp [h]
  split <;> exact yields_bind_any fun _ => hjp

@[simp] theorem execSt_keepsMemory (op : MemOp) (d a : Reg) (s : State) : KeepsMemory s (execSt op d a s) :=
  keepsMemory_issueWith fun h i t => by
    (repeat' first | refine yields_bind_any fun _ => ?_ | split) <;> simp [h]

@[simp] theorem execQueueCreate_keepsMemory (ctx q base k : Nat) (s : State) : KeepsMemory s (execQueueCreate ctx q base k s) := by
  simp only [execQueueCreate]
  (repeat' split) <;> simp +contextual

@[simp] theorem execFeget_keepsMemory (op : FewOp) (d a : Reg) (s : State) : KeepsMemory s (execFeget op d a s) :=
  keepsMemory_issueWith fun h i t => by simp [h, yields_bind_any]

@[simp] theorem execEccCorrected_keepsMemory (at_ : Nat) (s : State) : KeepsMemory s (execEccCorrected at_ s) := keepsMemory_same rfl

@[simp] theorem execTranslationChange_keepsMemory (ctx : Nat) (va : VAddr) (x : EntryChange) (level : Nat) (s : State) :
    KeepsMemory s (execTranslationChange ctx va x level s) := by
  unfold execTranslationChange
  split <;> simp +contextual

@[simp] theorem execBarr_keepsMemory (n : Fin 512) (s : State) : KeepsMemory s (execBarr n s) := keepsMemory_issueWith fun h i t => by
  refine yields_bind_any fun b => ?_
  dsimp only
  split
  · split
    · trivial
    · simp [h]
  · split
    · trivial
    · trivial
    · split
      · simp [h]
      · trivial
    · next s1 p h1 =>
      split
      · trivial
      · simp [arriveAt_mem h1, h]

@[simp] theorem execCget_keepsMemory (f : CapField) (d a : Reg) (s : State) : KeepsMemory s (execCget f d a s) :=
  keepsMemory_issueWith fun h i t => by simp [h, yields_bind_any]

@[simp] theorem execBarrierForward_keepsMemory (tok : Nat) (s : State) : KeepsMemory s (execBarrierForward tok s) := by
  unfold execBarrierForward
  extract_lets id s1
  split
  · exact keepsMemory_refl
  · next f _ =>
    extract_lets hold await dropLog
    have hawait : await.mem = s1.mem := by unfold await; split <;> rfl
    have hhold : hold.mem = s1.mem := rfl
    have hdrop : ∀ tid, (dropLog tid).mem = s1.mem := fun tid => by
      unfold dropLog
      split
      · split
        · exact barrierLog_mem ..
        · rfl
      · rfl
    refine KeepsMemory.of_same (u := s1) rfl ?_ fun hi => hi
    clear_value dropLog await s1 hold
    split
    · split
      · exact keepsMemory_same (hdrop _)
      · exact keepsMemory_same hhold
      · next h => exact keepsMemory_same ((checkPhase_keepsMem ..).trans (arriveAt_mem h))
      · exact keepsMemory_same hawait
    · split
      · exact keepsMemory_same (sendFwd_mem ..)
      · exact keepsMemory_same ((startClock_mem ..).trans hhold)
      · next h =>
        refine keepsMemory_same ((checkPhase_keepsMem ..).trans ?_)
        split
        · exact (setT_mem ..).trans (arriveAt_mem h)
        · exact arriveAt_mem h
      · exact keepsMemory_same hawait
    · split
      · split
        · exact keepsMemory_same (sendFwd_mem ..)
        · extract_lets w
          split
          · exact keepsMemory_same (sendFwd_mem ..)
          · exact keepsMemory_same (startClock_mem ..)
      · exact keepsMemory_same hawait
      · exact keepsMemory_refl
    · split
      · split
        · exact keepsMemory_refl
        · exact keepsMemory_same (setBar_mem ..)
      · exact keepsMemory_same hawait
    · split
      · exact keepsMemory_same hawait
      · exact keepsMemory_same (creditBytes_mem ..)
    · exact keepsMemory_same (by rw [apply_ite State.mem, takeFault_mem, ite_self])
    · split
      · refine keepsMemory_same ?_
        split <;> simp
      · exact keepsMemory_refl
    · exact keepsMemory_refl
    · exact keepsMemory_refl

@[simp] theorem execTinfo_keepsMemory (q : Fin 4) (d a : Reg) (s : State) : KeepsMemory s (execTinfo q d a s) :=
  keepsMemory_issueWith fun h i t => by simp [h, yields_bind_any]

@[simp] theorem execPacketComplete_keepsMemory (id : Nat) (s : State) : KeepsMemory s (execPacketComplete id s) := by
  simp only [execPacketComplete]
  (repeat' split) <;> simp +contextual

@[simp] theorem execQpost_keepsMemory (op : PostOp) (a b : Reg) (s : State) :
    KeepsMemory s (execQpost op a b s) := keepsMemory_issueWith fun h i t => by
  simp only []
  (repeat' first | refine yields_bind_any fun _ => ?_ | split) <;> simp [h]

@[simp] theorem execRootRegister_keepsMemory (ctx k : Nat) (cap : QWord) (s : State) : KeepsMemory s (execRootRegister ctx k cap s) := by
  simp only [execRootRegister]
  (repeat' split) <;> simp +contextual

@[simp] theorem addIssue_keepsMemory (op : Instr) (x : DrainX) (y : MdrainaX) (a : Reg) (time : Nat) (s : State) :
    KeepsMemory s (addIssue op x y a time s) := keepsMemory_issueWith fun h i t => by
  simp only []
  (repeat' first | refine yields_bind_any fun _ => ?_ | split) <;> simp [h]

@[simp] theorem execAtmf_keepsMemory (op : AtmfOp) (am rx : Bool) (d a b : Reg) (s : State) : KeepsMemory s (execAtmf op am rx d a b s) :=
  keepsMemory_issueWith fun h i t => by simp [h, yields_bind_any]

@[simp] theorem execImageLoad_keepsMemory (ctx : Nat) (img : Image) (s : State) : KeepsMemory s (execImageLoad ctx img s) := by
  unfold execImageLoad
  split
  · exact keepsMemory_refl
  · split
    · next s1 h1 => exact fun h => (loadImage_wf _ _ _ _ h).of_eq h1
    · exact fun h => replyTo_wf _ _ _ h

@[simp] theorem execExit_keepsMemory (s : State) : KeepsMemory s (execExit s) :=
  keepsMemory_issueWith fun h i t => by (repeat' split) <;> simp [h]

@[simp] theorem execPortRetrain_keepsMemory (port : Nat) (s : State) : KeepsMemory s (execPortRetrain port s) := by
  unfold execPortRetrain
  dsimp only
  split
  · exact keepsMemory_refl
  · split
    · exact keepsMemory_same (by simp)
    · refine keepsMemory_same ?_
      rw [noPortLeft_mem, foldl_mem fun _ _ => transmit_mem ..]
      simp

@[simp] theorem execBtag_keepsMemory (a b : Reg) (s : State) : KeepsMemory s (execBtag a b s) :=
  keepsMemory_issueWith fun h i t => by
    (repeat' first | refine yields_bind_any fun _ => ?_ | split) <;> simp [h]

@[simp] theorem execAttestationRequest_keepsMemory (r : AttRequest) (s : State) : KeepsMemory s (execAttestationRequest r s) := by
  simp only [execAttestationRequest]
  (repeat' split) <;> simp +contextual

@[simp] theorem execTst_keepsMemory (ft : Bool) (sz : TSz) (d a x st : Reg) (off : Word) (s : State) : KeepsMemory s (execTst ft sz d a x st off s) :=
  keepsMemory_issueWith fun h i t => by
    repeat refine yields_bind_any fun _ => ?_
    simp [h]

@[simp] theorem execThreadReady_keepsMemory (r : Nat) (s : State) : KeepsMemory s (execThreadReady r s) := keepsMemory_same rfl

@[simp] theorem execMessageReoffer_keepsMemory (core _slot : Nat) (s : State) : KeepsMemory s (execMessageReoffer core _slot s) := by
  simp only [execMessageReoffer]
  (repeat' split) <;> simp +contextual

@[simp] theorem execGateReply_keepsMemory (id : Nat) (s : State) : KeepsMemory s (execGateReply id s) := by
  simp only [execGateReply]
  (repeat' split) <;> simp +contextual

@[simp] theorem execMdrainaConfirm_keepsMemory (id : Nat) (s : State) : KeepsMemory s (execMdrainaConfirm id s) := by
  simp only [execMdrainaConfirm]
  (repeat' split) <;> simp +contextual

@[simp] theorem execTimerPacket_keepsMemory (id : Nat) (s : State) : KeepsMemory s (execTimerPacket id s) := by
  unfold execTimerPacket
  split
  · exact keepsMemory_refl
  · dsimp only
    split
    · exact keepsMemory_same (failPacket_mem ..)
    · next s1 h1 =>
      intro h
      simp [mapRange_wf _ _ _ _ _ h _ h1]

@[simp] theorem runPacket_keepsMemory (s : State) (id type_ : Nat) : KeepsMemory s (runPacket s id type_) := by
  unfold runPacket
  split <;> simp +contextual

@[simp] theorem tryBegin_keepsMemory (s : State) (id : Nat) (p : Pkt) (v : Queue) : KeepsMemory s (tryBegin s id p v) := by
  unfold tryBegin
  split
  · exact keepsMemory_refl
  · split
    · exact keepsMemory_same (queueError_mem ..)
    · split
      · exact keepsMemory_refl
      · split
        · exact keepsMemory_same (schedAt_mem ..)
        · obtain ⟨a, ha⟩ := lookAgain_onlyEvents { s with pkts := tset id { p with phase := .begun } s.pkts } v
          dsimp only
          rw [ha]
          exact (runPacket_keepsMemory ..).of_same rfl fun hi => hi

@[simp] theorem execPacketBegin_keepsMemory (id : Nat) (s : State) : KeepsMemory s (execPacketBegin id s) := by
  unfold execPacketBegin
  split
  · exact keepsMemory_refl
  · split
    · exact keepsMemory_refl
    · split
      · split
        · exact keepsMemory_same (queueError_mem ..)
        · next s1 h1 =>
          intro h
          simpa using mapFor_wf _ _ _ _ h _ h1
      · dsimp only
        split
        · exact keepsMemory_same (queueError_mem ..)
        · exact (tryBegin_keepsMemory ..).of_same rfl fun hi => hi
      · exact tryBegin_keepsMemory ..
      · split
        · exact execTasksPacket_keepsMemory ..
        · exact keepsMemory_refl

@[simp] theorem execColdReset_keepsMemory (s : State) : KeepsMemory s (execColdReset s) := by
  have hcells : Memory.wf s.mem = true → Memory.wf (hostCells s.mem) = true := fun h => filter_wfFrom h _
  unfold execColdReset
  dsimp only
  split
  · exact hcells
  · intro h
    split <;> simp [hcells h]

@[simp] theorem execHstat_keepsMemory (d : Reg) (s : State) : KeepsMemory s (execHstat d s) :=
  keepsMemory_issueWith fun h i t => by simp [h, yields_bind_any]

@[simp] theorem execMdrainaPeerAdd_keepsMemory (id : Nat) (s : State) : KeepsMemory s (execMdrainaPeerAdd id s) := by
  simp only [execMdrainaPeerAdd]
  (repeat' split) <;> simp +contextual

@[simp] theorem execCombinePacket_keepsMemory (_id : Nat) (s : State) : KeepsMemory s (execCombinePacket _id s) := fun h => by simp [h]

@[simp] theorem execTrd_keepsMemory (d a : Reg) (s : State) : KeepsMemory s (execTrd d a s) :=
  keepsMemory_issueWith fun h i t => by
    (repeat' first | refine yields_bind_any fun _ => ?_ | split) <;> simp [h]

@[simp] theorem execEngineAtStart_keepsMemory (id : Nat) (s : State) : KeepsMemory s (execEngineAtStart id s) := by
  simp only [execEngineAtStart]
  (repeat' split) <;> simp +contextual

@[simp] theorem execMmad_keepsMemory (x : MmaX) (d a : Reg) (s : State) : KeepsMemory s (execMmad x d a s) :=
  keepsMemory_issueWith fun h i t => by
    (repeat' first | refine yields_bind_any fun _ => ?_ | split) <;> simp [h]

@[simp] theorem execFaultDecision_keepsMemory (r : Nat) (s : State) : KeepsMemory s (execFaultDecision r s) := by
  simp only [execFaultDecision]
  (repeat' split) <;> simp +contextual

@[simp] theorem execLineageOperation_keepsMemory (id : Nat) (s : State) : KeepsMemory s (execLineageOperation id s) := by
  unfold execLineageOperation
  split
  · exact keepsMemory_refl
  · split
    · exact keepsMemory_refl
    · split
      · exact keepsMemory_refl
      · split
        · exact keepsMemory_same (dropOpPins_mem ..)
        · split
          · next r hr => exact fun h => (linPerform_wf _ _ _ h).of_eq hr
          · exact keepsMemory_same rfl

@[simp] theorem execContextCreate_keepsMemory (ctx : Nat) (p : CtxParams) (s : State) : KeepsMemory s (execContextCreate ctx p s) := by
  unfold execContextCreate
  split
  · intro h
    rw [extendMeas_mem, setC_mem]
    exact zeroPartition_wf _ _ h
  · exact keepsMemory_refl

@[simp] theorem execIllegalEncoding_keepsMemory (s : State) : KeepsMemory s (execIllegalEncoding s) := bundleFault_keepsMemory ..

@[simp] theorem execSendhAnswer_keepsMemory (id : Nat) (s : State) : KeepsMemory s (execSendhAnswer id s) := by
  simp only [execSendhAnswer]
  (repeat' split) <;> simp +contextual

@[simp] theorem execTrec_keepsMemory (q : Fin 3) (d : Reg) (s : State) : KeepsMemory s (execTrec q d s) :=
  keepsMemory_issueWith fun h i t => by simp [h, yields_bind_any]

@[simp] theorem execSend_keepsMemory (tag : BitVec 8) (a b : Reg) (s : State) :
    KeepsMemory s (execSend tag a b s) := keepsMemory_issueWith fun h i t => by
  simp only []
  (repeat' first | refine yields_bind_any fun _ => ?_ | split) <;> simp [h]

@[simp] theorem execPeek_keepsMemory (d a : Reg) (s : State) : KeepsMemory s (execPeek d a s) :=
  keepsMemory_issueWith fun h i t => by simp [h, yields_bind_any]

@[simp] theorem execCstatRecordWrite_keepsMemory (id : Nat) (s : State) : KeepsMemory s (execCstatRecordWrite id s) := by
  simp only [execCstatRecordWrite]
  (repeat' split) <;> simp +contextual

@[simp] theorem execLoopb_keepsMemory (d a b : Reg) (s : State) : KeepsMemory s (execLoopb d a b s) := keepsMemory_issueWith fun h i t => by
  simp only []
  (repeat' first | refine yields_bind_any fun _ => ?_ | split) <;> simp [h]

@[simp] theorem execFarAccessReply_keepsMemory (id : Nat) (s : State) : KeepsMemory s (execFarAccessReply id s) := by
  simp only [execFarAccessReply]
  (repeat' split) <;> simp +contextual

@[simp] theorem execGxld_keepsMemory (g : Fin 16) (wide am : Bool) (d a : Reg) (s : State) :
    KeepsMemory s (execGxld g wide am d a s) := keepsMemory_issueWith fun h _ _ => by
  refine yields_bind_any fun _ => yields_bind_any fun _ => yields_bind_any fun _ => yields_bind_any fun _ => ?_
  split
  · trivial
  · exact (joinColl_mem ..).wf h

@[simp] theorem execBridleSet_keepsMemory (pool : Nat) (p : BridleParams) (s : State) : KeepsMemory s (execBridleSet pool p s) := by
  unfold execBridleSet
  split <;> simp +contextual

@[simp] theorem execWaitt_keepsMemory (a : Reg) (s : State) : KeepsMemory s (execWaitt a s) :=
  keepsMemory_issueWith fun h i t => by simp [h, yields_bind_any, yields_ite]

@[simp] theorem execTaskSave_keepsMemory (owner : Nat) (s : State) : KeepsMemory s (execTaskSave owner s) := by
  simp only [execTaskSave]
  (repeat' split) <;> simp +contextual

@[simp] theorem execThreadSave_keepsMemory (tid : Nat) (s : State) : KeepsMemory s (execThreadSave tid s) := by
  simp only [execThreadSave]
  (repeat' split) <;> simp +contextual

@[simp] theorem execArrivalCounted_keepsMemory (tid : Nat) (s : State) : KeepsMemory s (execArrivalCounted tid s) := by
  simp only [execArrivalCounted]
  (repeat' split) <;> simp +contextual

@[simp] theorem execFeFirstTest_keepsMemory (id : Nat) (s : State) : KeepsMemory s (execFeFirstTest id s) := by
  simp only [execFeFirstTest]
  (repeat' split) <;> simp +contextual

@[simp] theorem execPacketFetch_keepsMemory (s : State) : KeepsMemory s (execPacketFetch s) := by
  simp only [execPacketFetch]
  (repeat' split) <;> simp +contextual

@[simp] theorem execBsync_keepsMemory (n : Fin 512) (d : Reg) (s : State) : KeepsMemory s (execBsync n d s) := keepsMemory_issueWith fun h _ _ =>
    yields_bind_any fun _ => yields_bind_any fun _ => (arriveAndWait_mem ..).wf h

@[simp] theorem execStreamWriteAck_keepsMemory (id : Nat) (s : State) : KeepsMemory s (execStreamWriteAck id s) := by
  unfold execStreamWriteAck
  split <;> simp +contextual

@[simp] theorem takeBody_keepsMemory (s : State) (peer : Nat) (b : FlitBody) : KeepsMemory s (takeBody s peer b) := by
  simp only [takeBody]
  (repeat' split) <;> simp +contextual

@[simp] theorem execFlitReceive_keepsMemory (port : Nat) (f : Flit) (s : State) : KeepsMemory s (execFlitReceive port f s) := by
  unfold execFlitReceive
  dsimp only
  split
  · exact keepsMemory_refl
  · split
    · split
      · exact keepsMemory_refl
      · exact execPortRetrain_keepsMemory ..
    · split
      · exact keepsMemory_refl
      · exact (takeBody_keepsMemory ..).of_same rfl fun hi => hi

@[simp] theorem execJal_keepsMemory (d : Reg) (off : BitVec 19) (s : State) : KeepsMemory s (execJal d off s) :=
  keepsMemory_issueWith fun h i t => by simp [h, yields_bind_any]

@[simp] theorem execTfree_keepsMemory (ft : Bool) (a st : Reg) (s : State) : KeepsMemory s (execTfree ft a st s) :=
  keepsMemory_issueWith fun h i t => by
    repeat refine yields_bind_any fun _ => ?_
    simp [h]

@[simp] theorem execFfma_keepsMemory (rm : Rm) (d a b c : Reg) (s : State) : KeepsMemory s (execFfma rm d a b c s) :=
  keepsMemory_issueWith fun h i t => by
    repeat refine yields_bind_any fun _ => ?_
    simp [h]

@[simp] theorem execCjoin_keepsMemory (d a b : Reg) (s : State) : KeepsMemory s (execCjoin d a b s) := keepsMemory_issueWith fun h i t => by
  simp only []
  (repeat' first | refine yields_bind_any fun _ => ?_ | split) <;> simp [h]

@[simp] theorem execDispatchDecision_keepsMemory (die pool : Nat) (s : State) : KeepsMemory s (execDispatchDecision die pool s) := by
  simp only [execDispatchDecision]
  (repeat' split) <;> simp +contextual

@[simp] theorem execBridleEvaluate_keepsMemory (s : State) : KeepsMemory s (execBridleEvaluate s) := by
  unfold execBridleEvaluate
  split
  · exact keepsMemory_refl
  · refine keepsMemory_same ?_
    rw [schedAt_mem, foldl_mem fun _ _ => evaluatePool_mem ..]

@[simp] theorem execCredRootDelivery_keepsMemory (id : Nat) (s : State) : KeepsMemory s (execCredRootDelivery id s) := by
  simp only [execCredRootDelivery]
  (repeat' split) <;> simp +contextual

@[simp] theorem execTld_keepsMemory (sz : TSz) (d a x : Reg) (off : Word) (s : State) : KeepsMemory s (execTld sz d a x off s) :=
  keepsMemory_issueWith fun h i t => by
    repeat refine yields_bind_any fun _ => ?_
    simp [h]

@[simp] theorem execGateApply_keepsMemory (id : Nat) (s : State) : KeepsMemory s (execGateApply id s) := by
  simp only [execGateApply]
  (repeat' split) <;> simp +contextual

@[simp] theorem execForcedSave_keepsMemory (owner : Nat) (s : State) : KeepsMemory s (execForcedSave owner s) := by
  unfold execForcedSave
  split
  · exact keepsMemory_refl
  · split
    · exact keepsMemory_refl
    · split
      · refine keepsMemory_same ?_
        rw [foldl_mem fun _ _ => schedOnce_mem .., setO_mem]
      · exact keepsMemory_refl

@[simp] theorem execKind_keepsMemory (d a : Reg) (s : State) : KeepsMemory s (execKind d a s) :=
  keepsMemory_issueWith fun h i t => by simp [h, yields_bind_any]

@[simp] theorem execHeldResultRestore_keepsMemory (cl : Nat) (s : State) : KeepsMemory s (execHeldResultRestore cl s) := by
  simp only [execHeldResultRestore]
  (repeat' split) <;> simp +contextual

@[simp] theorem execCopyWrite_keepsMemory (id : Nat) (s : State) : KeepsMemory s (execCopyWrite id s) := by
  unfold execCopyWrite
  split
  · exact keepsMemory_refl
  · split
    · exact keepsMemory_refl
    · extract_lets n k o len
      split
      · split
        · exact keepsMemory_same (copyStop_mem ..)
        · next s1 h1 =>
          intro h
          have h1 : Memory.wf s1.mem = true := (writeChunk_wf _ _ _ _ _ h).of_eq h1
          simp only [apply_ite State.mem, wakeFences_mem, sched_mem, ite_self]
          exact h1
      · split
        · exact keepsMemory_same (copyStop_mem ..)
        · split
          · exact keepsMemory_same (copyStop_mem ..)
          · next s1 bs0 h1 =>
            have h1 : s1.mem = s.mem := (cmdRead_mem ..).of_eq h1
            extract_lets bs s2
            split
            · exact keepsMemory_same h1
            · split
              · exact keepsMemory_same ((copyStop_mem ..).trans h1)
              · next s3 h3 =>
                intro h
                have h2 : Memory.wf s2.mem = true := by
                  rw [show s2.mem = s.mem from h1, h]
                show Memory.wf s3.mem = true
                exact (writeChunk_wf _ _ _ _ _ h2).of_eq h3

@[simp] theorem execSleepWake_keepsMemory (tid : Nat) (s : State) : KeepsMemory s (execSleepWake tid s) := by
  simp only [execSleepWake]
  (repeat' split) <;> simp +contextual

@[simp] theorem execPoolResolve_keepsMemory (r : Nat) (s : State) : KeepsMemory s (execPoolResolve r s) := by
  simp only [execPoolResolve]
  (repeat' split) <;> simp +contextual

@[simp] theorem execJ_keepsMemory (off : BitVec 24) (s : State) : KeepsMemory s (execJ off s) := keepsMemory_issueWith fun h i t => by simp [h]

@[simp] theorem execFencex_keepsMemory (sc : Scope) (p : PathSet) (s : State) : KeepsMemory s (execFencex sc p s) :=
  keepsMemory_issueWith fun h i t => by (repeat' split) <;> simp [h]

@[simp] theorem execGate_keepsMemory (op : Sys2Proof.GateOp) (d a b : Reg) (s : State) :
    KeepsMemory s (execGate op d a b s) := keepsMemory_issueWith fun h i t => by
  simp only []
  (repeat' first | refine yields_bind_any fun _ => ?_ | split) <;> simp [h]

@[simp] theorem execBarTimeout_keepsMemory (core bar phase : Nat) (s : State) : KeepsMemory s (execBarTimeout core bar phase s) := by
  simp only [execBarTimeout]
  (repeat' split) <;> simp +contextual

@[simp] theorem execBload_keepsMemory (x : BloadX) (a : Reg) (s : State) : KeepsMemory s (execBload x a s) :=
  keepsMemory_issueWith fun h i t => by
    repeat refine yields_bind_any fun _ => ?_
    simp [h]

@[simp] theorem execTaskEnd_keepsMemory (owner core : Nat) (s0 : State) : KeepsMemory s0 (execTaskEnd owner core s0) := by
  simp only [execTaskEnd]
  (repeat' split) <;> simp +contextual

@[simp] theorem execWindowWrite_keepsMemory (id : Nat) (s : State) : KeepsMemory s (execWindowWrite id s) := by
  simp only [execWindowWrite]
  (repeat' split) <;> simp +contextual

@[simp] theorem execSignalUpdate_keepsMemory (id : Nat) (s : State) : KeepsMemory s (execSignalUpdate id s) := by
  simp only [execSignalUpdate]
  (repeat' split) <;> simp +contextual

@[simp] theorem execBarrierCompletionNotice_keepsMemory (id : Nat) (s : State) : KeepsMemory s (execBarrierCompletionNotice id s) := by
  simp only [execBarrierCompletionNotice]
  (repeat' split) <;> simp +contextual

@[simp] theorem execRebase_keepsMemory (ft : Bool) (a b st : Reg) (s : State) : KeepsMemory s (execRebase ft a b st s) :=
  keepsMemory_issueWith fun h i t => by
    repeat refine yields_bind_any fun _ => ?_
    simp [h]

@[simp] theorem execAtm_keepsMemory (op : AtmOp) (f : AtmFlags) (d a b : Reg) (s : State) : KeepsMemory s (execAtm op f d a b s) :=
  keepsMemory_issueWith fun h i t => by simp [h, yields_bind_any]

@[simp] theorem execMstat_keepsMemory (k : Fin 4) (d : Reg) (s : State) : KeepsMemory s (execMstat k d s) :=
  keepsMemory_issueWith fun h i t => by simp [h, yields_bind_any]

@[simp] theorem execWalkComplete_keepsMemory (r : Nat) (s : State) : KeepsMemory s (execWalkComplete r s) := by
  unfold execWalkComplete
  extract_lets va ctx cl c
  split
  · refine keepsMemory_same ?_
    rw [sched_mem, foldl_mem fun _ _ => walkDoneCmd_mem .., foldl_mem fun _ _ => walkDoneThread_mem .., setCluster_mem]
  · exact keepsMemory_refl

@[simp] theorem execHmask_keepsMemory (d a : Reg) (s : State) : KeepsMemory s (execHmask d a s) :=
  keepsMemory_issueWith fun h i t => by
    (repeat' first | refine yields_bind_any fun _ => ?_ | split) <;> simp [h]

@[simp] theorem execCsplit_keepsMemory (col : Bool) (d a b : Reg) (s : State) :
    KeepsMemory s (execCsplit col d a b s) := keepsMemory_issueWith fun h i t => by
  refine yields_bind_any fun _ => yields_bind_any fun _ => yields_bind_any fun _ => yields_bind_any fun _ => ?_
  extract_lets cl x e k
  split
  · trivial
  · generalize (if col = true then e.ccount else e.rcount) = n
    split
    · trivial
    · split
      · trivial
      · split
        · trivial
        · simp [h]

@[simp] theorem execJalr_keepsMemory (d a : Reg) (s : State) : KeepsMemory s (execJalr d a s) :=
  keepsMemory_issueWith fun h i t => by simp [h, yields_bind_any, yields_ite]

@[simp] theorem execTrap_keepsMemory (code : BitVec 9) (s : State) : KeepsMemory s (execTrap code s) :=
  keepsMemory_issueWith fun h i t => by split <;> simp [h]

@[simp] theorem execSendh_keepsMemory (tag : BitVec 8) (a b : Reg) (s : State) : KeepsMemory s (execSendh tag a b s) :=
  keepsMemory_issueWith fun h i t => by split <;> simp [h, yields_bind_any]

@[simp] theorem execFest_keepsMemory (op : FewOp) (d a : Reg) (s : State) : KeepsMemory s (execFest op d a s) :=
  keepsMemory_issueWith fun h i t => by simp [h, yields_bind_any]

@[simp] theorem execCrr_keepsMemory (crn : BitVec 9) (d : Reg) (s : State) : KeepsMemory s (execCrr crn d s) :=
  keepsMemory_issueWith fun h i t => by simp [h, yields_bind_any]

/-! ### A step -/

theorem exec_keepsMemory (j : Instr) (s : State) : KeepsMemory s (exec j s) := by
  cases j <;> dsimp only [exec]
  case bCc | bCcX => exact branchB_keepsMemory ..
  case biCc | biCcX => exact branchBI_keepsMemory ..
  case j => exact execJ_keepsMemory ..
  case jal => exact execJal_keepsMemory ..
  case jalr => exact execJalr_keepsMemory ..
  case spawn => exact execSpawn_keepsMemory ..
  case exit => exact execExit_keepsMemory ..
  case waitt => exact execWaitt_keepsMemory ..
  case sleep => exact execSleep_keepsMemory ..
  case ppt => exact execPpt_keepsMemory ..
  case crr => exact execCrr_keepsMemory ..
  case crw => exact execCrw_keepsMemory ..
  case trap => exact execTrap_keepsMemory ..
  case nop => exact execNop_keepsMemory ..
  case add | sub | and | or | xor | andn | shl | shr | sra | rol | min | max | minn | maxn | slt | sltn | mul | mulh | mulhn =>
    exact intBinary_keepsMemory ..
  case div | divn | rem | remn => exact intDivide_keepsMemory ..
  case clz | ctz | popc | addi | andi | ori | xori | slti | shli | shri | srai => exact intUnary_keepsMemory ..
  case sel => exact execSel_keepsMemory ..
  case li | liX => exact loadImmediate_keepsMemory ..
  case mov => exact execMov_keepsMemory ..
  case move => exact execMove_keepsMemory ..
  case kind => exact execKind_keepsMemory ..
  case cget => exact execCget_keepsMemory ..
  case csetb | csetp | csetc | cinc => exact derive_keepsMemory ..
  case ld => exact execLd_keepsMemory ..
  case st => exact execSt_keepsMemory ..
  case lds | sts => exact syncAccess_keepsMemory ..
  case fest => exact execFest_keepsMemory ..
  case feget => exact execFeget_keepsMemory ..
  case atm => exact execAtm_keepsMemory ..
  case atmCas => exact execAtmCas_keepsMemory ..
  case atmf => exact execAtmf_keepsMemory ..
  case cpy | cpyAt => exact copyIssue_keepsMemory ..
  case cpys | cpysAt => exact ringIssue_keepsMemory ..
  case fadd | fsub | fmul | fdiv | fmin | fmax | fcmp => exact floatBinary_keepsMemory ..
  case fsqrt | fclass => exact floatUnary_keepsMemory ..
  case ffma => exact execFfma_keepsMemory ..
  case cvt => exact execCvt_keepsMemory ..
  case img | imgi => exact imageInstr_keepsMemory ..
  case sbind => exact execSbind_keepsMemory ..
  case scnt => exact execScnt_keepsMemory ..
  case vadd | vsub | vmul | vfma | vmin | vmax | vand | vor | vxor | vshl | vshr | viadd | visub | vimul => exact vecBinary_keepsMemory ..
  case vsel | vcmp => exact vecBinaryTo_keepsMemory ..
  case vcx | vred | vscan | vsplat | vcvt | vgath | vscat => exact vectorWith_keepsMemory ..
  case vabs | vneg | vexp2 | vlog2 | vrcp | vrsq | vtanh | vmov => exact vecUnary_keepsMemory ..
  case movmMg | mpop | mff => exact maskToReg_keepsMemory ..
  case movmGm => exact execMovmGm_keepsMemory ..
  case mand | mor | mxor | mnot => exact maskOp_keepsMemory ..
  case gjoin => exact execGjoin_keepsMemory ..
  case gleave => exact execGleave_keepsMemory ..
  case gshfl => exact execGshfl_keepsMemory ..
  case gvote | gmatch | gred => exact collOne_keepsMemory ..
  case gxld => exact execGxld_keepsMemory ..
  case binit => exact execBinit_keepsMemory ..
  case barr => exact execBarr_keepsMemory ..
  case bwait => exact execBwait_keepsMemory ..
  case bsync => exact execBsync_keepsMemory ..
  case bexp => exact execBexp_keepsMemory ..
  case cstat => exact execCstat_keepsMemory ..
  case send => exact execSend_keepsMemory ..
  case sendh => exact execSendh_keepsMemory ..
  case pbind => exact execPbind_keepsMemory ..
  case btag => exact execBtag_keepsMemory ..
  case peek => exact execPeek_keepsMemory ..
  case loopb => exact execLoopb_keepsMemory ..
  case cred => exact execCred_keepsMemory ..
  case fence => exact execFence_keepsMemory ..
  case fencex => exact execFencex_keepsMemory ..
  case bload => exact execBload_keepsMemory ..
  case minit => exact execMinit_keepsMemory ..
  case mpload => exact execMpload_keepsMemory ..
  case mstat => exact execMstat_keepsMemory ..
  case mma => exact execMma_keepsMemory ..
  case mmad => exact execMmad_keepsMemory ..
  case mdrain | mdrainAt => exact drainIssue_keepsMemory ..
  case mdraina | mdrainaAt => exact addIssue_keepsMemory ..
  case tnew => exact execTnew_keepsMemory ..
  case topen => exact execTopen_keepsMemory ..
  case fork => exact execFork_keepsMemory ..
  case rebase => exact execRebase_keepsMemory ..
  case flat => exact execFlat_keepsMemory ..
  case tfree => exact execTfree_keepsMemory ..
  case tinfo => exact execTinfo_keepsMemory ..
  case trd => exact execTrd_keepsMemory ..
  case twr => exact execTwr_keepsMemory ..
  case tld => exact execTld_keepsMemory ..
  case tst => exact execTst_keepsMemory ..
  case calloc => exact execCalloc_keepsMemory ..
  case csplit => exact execCsplit_keepsMemory ..
  case cjoin => exact execCjoin_keepsMemory ..
  case cfree => exact execCfree_keepsMemory ..
  case cshape => exact execCshape_keepsMemory ..
  case hsel | hselw => exact selectIssue_keepsMemory ..
  case hmask => exact execHmask_keepsMemory ..
  case hstat => exact execHstat_keepsMemory ..
  case tsub | tsubAt => exact submitIssue_keepsMemory ..
  case tdone => exact execTdone_keepsMemory ..
  case gate => exact execGate_keepsMemory ..
  case trec => exact execTrec_keepsMemory ..
  case qpost => exact execQpost_keepsMemory ..
  case relaxedLoadReply => exact execRelaxedLoadReply_keepsMemory ..
  case relaxedAccessComplete => exact execRelaxedAccessComplete_keepsMemory ..
  case farAccessReply => exact execFarAccessReply_keepsMemory ..
  case accessPerformed => exact execAccessPerformed_keepsMemory ..
  case windowWrite => exact execWindowWrite_keepsMemory ..
  case feFirstTest => exact execFeFirstTest_keepsMemory ..
  case feRetryTick => exact execFeRetryTick_keepsMemory ..
  case streamReadaheadArrival => exact execStreamReadaheadArrival_keepsMemory ..
  case streamWriteAck => exact execStreamWriteAck_keepsMemory ..
  case engineAccept => exact execEngineAccept_keepsMemory ..
  case engineAtStart => exact execEngineAtStart_keepsMemory ..
  case copyWrite => exact execCopyWrite_keepsMemory ..
  case cpysRingWrite => exact execCpysRingWrite_keepsMemory ..
  case copyComplete => exact execCopyComplete_keepsMemory ..
  case copyError => exact execCopyError_keepsMemory ..
  case pageWalkStart => exact execPageWalkStart_keepsMemory ..
  case walkComplete => exact execWalkComplete_keepsMemory ..
  case faultDecision => exact execFaultDecision_keepsMemory ..
  case xlateResolve => exact execXlateResolve_keepsMemory ..
  case poolResolve => exact execPoolResolve_keepsMemory ..
  case arrivalCounted => exact execArrivalCounted_keepsMemory ..
  case barrierForward => exact execBarrierForward_keepsMemory ..
  case barrierCompletionNotice => exact execBarrierCompletionNotice_keepsMemory ..
  case barTimeout => exact execBarTimeout_keepsMemory ..
  case cstatRecordWrite => exact execCstatRecordWrite_keepsMemory ..
  case gxldRowsArrive => exact execGxldRowsArrive_keepsMemory ..
  case messageArrival => exact execMessageArrival_keepsMemory ..
  case messageReoffer => exact execMessageReoffer_keepsMemory ..
  case sendhAnswer => exact execSendhAnswer_keepsMemory ..
  case combinePacket => exact execCombinePacket_keepsMemory _ _
  case credRootDelivery => exact execCredRootDelivery_keepsMemory ..
  case minitClaimGrant => exact execMinitClaimGrant_keepsMemory _ _
  case matrixComplete => exact execMatrixComplete_keepsMemory ..
  case matrixViolation => exact execMatrixViolation_keepsMemory ..
  case mdrainaConfirm => exact execMdrainaConfirm_keepsMemory ..
  case mdrainaPeerAdd => exact execMdrainaPeerAdd_keepsMemory ..
  case hawkComplete => exact execHawkComplete_keepsMemory ..
  case heldResultRestore => exact execHeldResultRestore_keepsMemory ..
  case lineageOperation => exact execLineageOperation_keepsMemory ..
  case lineageReply => exact execLineageReply_keepsMemory ..
  case pinDrop => exact execPinDrop_keepsMemory ..
  case cocoonTableServe => exact execCocoonTableServe_keepsMemory _ _
  case granuleScrubDone => exact execGranuleScrubDone_keepsMemory ..
  case unitScrubDone => exact execUnitScrubDone_keepsMemory _ _ _
  case threadReady => exact execThreadReady_keepsMemory _ _
  case dispatchDecision => exact execDispatchDecision_keepsMemory ..
  case threadSave => exact execThreadSave_keepsMemory ..
  case forcedSave => exact execForcedSave_keepsMemory ..
  case taskSave => exact execTaskSave_keepsMemory ..
  case taskSaveComplete => exact execTaskSaveComplete_keepsMemory ..
  case taskEnd => exact execTaskEnd_keepsMemory ..
  case populationDeferredPlace => exact execPopulationDeferredPlace_keepsMemory _ _ _
  case launchAtRelease => exact execLaunchAtRelease_keepsMemory _ _ _
  case gateApply => exact execGateApply_keepsMemory ..
  case gateReply => exact execGateReply_keepsMemory ..
  case tsubAtInsert => exact execTsubAtInsert_keepsMemory ..
  case signalUpdate => exact execSignalUpdate_keepsMemory ..
  case signalEntryWrite => exact execSignalEntryWrite_keepsMemory ..
  case bridleEvaluate => exact execBridleEvaluate_keepsMemory ..
  case settleExpire => exact execSettleExpire_keepsMemory ..
  case wptr => exact execWptr_keepsMemory ..
  case reset => exact execReset_keepsMemory ..
  case packetFetch => exact execPacketFetch_keepsMemory ..
  case packetBegin => exact execPacketBegin_keepsMemory ..
  case launchPacket => exact execLaunchPacket_keepsMemory ..
  case tasksPacket => exact execTasksPacket_keepsMemory ..
  case signalPacket => exact execSignalPacket_keepsMemory ..
  case waitPacket => exact execWaitPacket_keepsMemory ..
  case timerPacket => exact execTimerPacket_keepsMemory ..
  case copyPacket => exact execCopyPacket_keepsMemory ..
  case fencePacket => exact execFencePacket_keepsMemory ..
  case packetComplete => exact execPacketComplete_keepsMemory ..
  case statusEntryWrite => exact execStatusEntryWrite_keepsMemory ..
  case eccCorrected => exact execEccCorrected_keepsMemory _ _
  case softErr => exact execSoftErr_keepsMemory ..
  case translationChange => exact execTranslationChange_keepsMemory ..
  case hostMailboxWrite => exact execHostMailboxWrite_keepsMemory ..
  case mailboxMessage => exact execMailboxMessage_keepsMemory ..
  case barWrite => exact execBarWrite_keepsMemory ..
  case firmwareActivation => exact execFirmwareActivation_keepsMemory ..
  case forcedActivation => exact execForcedActivation_keepsMemory ..
  case attestationRequest => exact execAttestationRequest_keepsMemory ..
  case measurementExtend => exact execMeasurementExtend_keepsMemory ..
  case svnRaise => exact execSvnRaise_keepsMemory ..
  case coldReset => exact execColdReset_keepsMemory ..
  case domainJoin => exact execDomainJoin_keepsMemory ..
  case flitReceive => exact execFlitReceive_keepsMemory ..
  case portRetrain => exact execPortRetrain_keepsMemory ..
  case contextCreate => exact execContextCreate_keepsMemory ..
  case rootRegister => exact execRootRegister_keepsMemory ..
  case imageLoad => exact execImageLoad_keepsMemory ..
  case hostTensorFree => exact execHostTensorFree_keepsMemory ..
  case cocoonRegionSet => exact execCocoonRegionSet_keepsMemory ..
  case poolAssign => exact execPoolAssign_keepsMemory ..
  case bridleSet => exact execBridleSet_keepsMemory ..
  case waittWake => exact execWaittWake_keepsMemory ..
  case sleepWake => exact execSleepWake_keepsMemory ..
  case illegalEncoding | fetchFault => exact bundleFault_keepsMemory ..
  case queueCreate => exact execQueueCreate_keepsMemory ..
  case qpostAcknowledgement => exact execQpostAcknowledgement_keepsMemory ..

/-- The next state of an outcome, where there is one, has its memory in canonical form. -/

def Canonical : Host.Outcome State Fault Refusal → Prop
  | .next u => Memory.wf u.mem = true
  | .fault _ => True
  | .refused _ => True

theorem KeepsMemory.canonical {s : State} {o : Host.Outcome State Fault Refusal} (ho : KeepsMemory s o) (h : Memory.wf s.mem = true) :
    Canonical o := by
  cases o with
  | next u => exact ho h
  | fault r => trivial
  | refused r => trivial

theorem exec_canonical {s : State} (j : Instr) (h : Memory.wf s.mem = true) : Canonical (exec j s) := (exec_keepsMemory j s).canonical h

theorem thenHalf_canonical {o : Host.Outcome State Fault Refusal} {tid : Nat} {f : State → Host.Outcome State Fault Refusal} (ho : Canonical o)
    (hf : ∀ u, Memory.wf u.mem = true → Canonical (f u)) : Canonical (thenHalf o tid f) := by
  cases o with
  | next u =>
    dsimp only [thenHalf]
    split
    · exact hf u ho
    · exact ho
  | fault r => trivial
  | refused r => trivial

theorem keepLatch_canonical {o : Host.Outcome State Fault Refusal} {tid : Nat} {l : Latch} (ho : Canonical o) : Canonical (keepLatch tid l o) := by
  cases o with
  | next u =>
    dsimp only [keepLatch]
    split
    · split
      · exact ho
      · exact (congrArg Memory.wf (setT_mem ..)).trans ho
    · exact ho
  | fault r => trivial
  | refused r => trivial

theorem endOutcome_canonical {s : State} {tid : Nat} {o : Host.Outcome State Fault Refusal} (ho : Canonical o) : Canonical (endOutcome s tid o) := by
  cases o with
  | next u =>
    exact (congrArg Memory.wf (endTurn_mem ..)).trans ho
  | fault r => trivial
  | refused r => trivial

section
variable {s : State} (h : Memory.wf s.mem = true)
include h

theorem runPair_canonical (tid : Nat) (first vec : Instr) : Canonical (runPair s tid first vec) := by
  unfold runPair
  split
  · trivial
  · refine thenHalf_canonical (keepLatch_canonical (exec_canonical first h)) fun u hu => ?_
    refine keepLatch_canonical (thenHalf_canonical (exec_canonical vec h) fun v hv => ?_)
    split
    · exact exec_canonical first hv
    · exact exec_canonical vec hu

theorem runBundle_canonical (tid : Nat) (b : Bundle) : Canonical (runBundle s tid b) := by
  unfold runBundle
  split
  · exact exec_canonical b.first h
  · exact runPair_canonical h ..

theorem runTurn_canonical (tid : Nat) (t : Thread) : Canonical (runTurn s tid t) := by
  have hend : ∀ before u, u.mem = s.mem → Canonical (.next (endTurn before u tid)) := fun before u hu => by
    show Memory.wf (State.mem _) = true
    rw [endTurn_mem, hu, h]
  unfold runTurn
  extract_lets s1
  have h1 : Memory.wf s1.mem = true := h
  split
  · exact hend _ _ ((parkAs_mem ..).trans (addMiss_mem ..))
  · exact hend _ _ (parkAs_mem ..)
  · split
    · exact endOutcome_canonical ((execFetchFault_keepsMemory ..).canonical h1)
    · exact hend _ _ (takeFault_mem ..)
  · split
    · exact endOutcome_canonical ((execIllegalEncoding_keepsMemory ..).canonical h1)
    · extract_lets s2
      split
      · refine endOutcome_canonical (runBundle_canonical ?_ ..)
        rw [withBundle_mem, h1]
      · exact endOutcome_canonical ((execIllegalEncoding_keepsMemory ..).canonical h1)

theorem resumeBundle_canonical (tid : Nat) (t : Thread) : Canonical (resumeBundle s tid t) := by
  unfold resumeBundle
  split
  · exact h
  · extract_lets s1
    exact endOutcome_canonical (runBundle_canonical (s := s1) h ..)

theorem stopVector_canonical (tid : Nat) (t : Thread) : Canonical (stopVector s tid t) := by
  have hresumed := resumeBundle_canonical h tid t
  unfold stopVector
  split
  · next s1 b hres _ =>
    rw [hres] at hresumed
    split
    · split
      · exact hresumed
      · next v _ =>
        have hvec := exec_canonical v (s := { setT s tid { t with status := .issuing } with
          cur := some { Issue.begin tid with paired := true, commit := true, latch := pairLatch s tid } }) h
        dsimp only
        split
        · next s2 hs2 =>
          show Memory.wf (State.mem (if _ then _ else _)) = true
          rw [apply_ite State.mem, saveThread_mem, ite_self]
          rw [hs2] at hvec
          exact hvec
        · trivial
        · trivial
    · exact hresumed
  · exact hresumed

theorem timedEvents_canonical : Canonical (runEvents.timedEvents s) := by
  have hnext := nextCycle_wf s h
  unfold runEvents.timedEvents
  split
  · split
    · exact exec_canonical _ h
    · exact hnext
  · exact hnext

theorem runEvents_canonical : Canonical (runEvents s) := by
  unfold runEvents
  split
  · split
    · exact exec_canonical _ h
    · exact timedEvents_canonical h
  · exact timedEvents_canonical h

theorem stepOnce_canonical : Canonical (stepOnce s) := by
  unfold stepOnce
  split
  · split
    · exact stopVector_canonical h ..
    · exact resumeBundle_canonical h ..
  · split
    · split
      · show Memory.wf (State.mem _) = true
        rw [retireLate_mem, h]
      · exact runTurn_canonical h ..
    · exact runEvents_canonical h

end

/-- Settles O56: every meaning keeps memory canonical (`exec_keepsMemory`), and a step is meanings joined by operations that leave memory alone. -/

theorem memoryStaysCanonical : Obligations.MemoryStaysCanonical := fun s u h hu => by
  have hs := stepOnce_canonical h
  rw [show stepOnce s = .next u from hu] at hs
  exact hs

/-- Settles O60: a meaning stops only where no thread issues, and none is refused (`exec_keepsMemory`). -/

theorem everyInstructionAnswers : Obligations.EveryInstructionAnswers := fun j s hi => by
  have hj := exec_keepsMemory j s
  cases ho : exec j s with
  | next u => exact ⟨u, rfl⟩
  | fault r =>
    rw [ho] at hj
    rw [show issuer s = none from hj] at hi
    cases hi
  | refused r =>
    rw [ho] at hj
    exact hj.elim

end Sys2Proof.Machine

namespace Sys2Proof.Machine

/-! ### Lineage instructions at issue (15 R256) -/

theorem addPin_ctxs (s : State) (ctx m : Nat) : ∃ cs, addPin s ctx m = { s with ctxs := cs } := by
  unfold addPin
  repeat' split
  · exact ⟨_, rfl⟩
  · exact ⟨_, rfl⟩
  · exact ⟨_, rfl⟩

theorem foldl_addPin_ctxs (s : State) (ctx : Nat) (ms : List Nat) : ∃ cs, ms.foldl (fun u m => addPin u ctx m) s = { s with ctxs := cs } := by
  induction ms generalizing s with
  | nil => exact ⟨s.ctxs, rfl⟩
  | cons m rest ih =>
    obtain ⟨cs, hcs⟩ := addPin_ctxs s ctx m
    obtain ⟨cs', hcs'⟩ := ih (addPin s ctx m)
    rw [List.foldl_cons, hcs', hcs]
    exact ⟨cs', rfl⟩

theorem launchLin_sent {s : State} {tid : Nat} {v : Thread} (hv : getT s tid = some v) (t : Thread) (op : Instr) (a b d : GReg) (named : List Nat)
    (ps : List Place) : LineageSent s (launchLin s tid t op a b d named ps) tid t.ctx op a b d := by
  obtain ⟨cs, hcs⟩ := foldl_addPin_ctxs s t.ctx (namedPins s t.ctx named)
  unfold launchLin
  dsimp only
  rw [hcs]
  refine ⟨⟨⟨tid, t.ctx, op, a, b, d, s.cycle, false, namedPins s t.ctx named, ps, [], none⟩, ?_, rfl, rfl, rfl, rfl, rfl, rfl, rfl⟩,
    ⟨s.cycle + Config.freeNat s.free % 180, Nat.le_add_right .., Nat.add_lt_add_left (Nat.mod_lt _ (by decide)) _, ?_⟩, ?_, ?_⟩
  · rw [parkAs_lins]
    exact tget_tset_same ..
  · rw [parkAs_agenda]
    exact mem_sched.2 (.inl rfl)
  · apply waitOf_parkAs (t := v)
    exact hv
  · exact parkAs_mem ..

theorem needView_ok {b : QWord} {k : Nat} (h : tensPerm b k = true) : needView b k = .ok () := by simp [needView, h]

section
variable {s : State} {i : Issue} {t v : Thread} {pop : Option InboxEntry} {rows cols colb coln : BitVec 24} {fmt : Fmt} {maxd keep : BitVec 4}
  {ft nf : Bool} {q : Fin 4} {sz : TSz} {off : Word} {d a b x st : Reg} {n : Ctx × Node} {w : Nat} {ps : List Place}

/-- A lineage instruction of the issuing thread has sent its operation, the pop of its PORT operand committed. -/
def Sends (s : State) (i : Issue) (t : Thread) (pop : Option InboxEntry) (j : Instr) (a b d : GReg) : Prop :=
  ∃ u, exec j s = .next (finish pop i.tid u) ∧ LineageSent s u i.tid t.ctx j a b d

theorem tnew_sends (hv : getT s i.tid = some v) (h : reading s [d, a, b] (if fmt = .e2m1 then [a, b] else [b]) = some (i, t, pop))
    (hb : IsData t b) (hd : Free t d) (hr : rows ≠ 0) (hc : cols ≠ 0) (hm : maxd ≠ 0) (hg : (low t b).toNat < 2 ^ 16)
    (hp : minPitch cols.toNat fmt ≤ newPitch cols.toNat fmt (low t b).toNat) (hs : rows.toNat * newPitch cols.toNat fmt (low t b).toNat ≤ 2 ^ 28)
    (hcap : if fmt = .e2m1 then cols.toNat % 2 = 0 ∧ (t.rd a).kind = .cap ∧ capOnchip (t.rd a).bits = false ∧ capRead (t.rd a).bits = true ∧
      capMatrix (t.rd a).bits = true ∧ capCur (t.rd a).bits + rows.toNat * ceilDiv cols.toNat 32 ≤ capLen (t.rd a).bits else a = 0) :
    Sends s i t pop (.tnew rows cols fmt maxd d a b) (t.rd a) (t.rd b) GReg.zero := by
  refine ⟨_, ?_, launchLin_sent hv t (.tnew rows cols fmt maxd d a b) (t.rd a) (t.rd b) GReg.zero [] []⟩
  have hz : ¬ (rows.toNat = 0 ∨ cols.toNat = 0 ∨ maxd = 0) := by
    rintro (e | e | e)
    · exact hr (BitVec.eq_of_toNat_eq e)
    · exact hc (BitVec.eq_of_toNat_eq e)
    · exact hm e
  have hpitch : ¬ ((low t b).toNat / 2 ^ 16 ≠ 0 ∨ newPitch cols.toNat fmt (low t b).toNat < minPitch cols.toNat fmt) := by
    rw [Nat.div_eq_of_lt hg]
    simpa using hp
  rw [exec_tnew, execTnew]
  simp only [needKind_eq_kinds, lo64_eq_low]
  by_cases hf : fmt = .e2m1
  · simp only [if_pos hf] at h hcap ⊢
    obtain ⟨heven, ha, ho, hrd, hmx, hl⟩ := hcap
    refine issueWith_ok h (noneBefore_two h (by simp [ha]) hb.mem (by decide) (by decide)) ?_
    rw [needKinds_ok (by simp [ha]), needKinds_ok hb.mem]
    simp only [ok_bind, destOk_ok hd, if_neg hz, if_neg hpitch, if_neg (Nat.not_lt.2 hs)]
    simp [hf, heven, ho, hrd, hmx, Nat.not_lt.2 hl]
  · simp only [if_neg hf] at h hcap ⊢
    refine issueWith_ok h (noneBefore_one h hb.mem (by decide)) ?_
    rw [needKinds_ok hb.mem]
    simp only [ok_bind, destOk_ok hd, if_neg hz, if_neg hpitch, if_neg (Nat.not_lt.2 hs)]
    simp [hf, hcap]

theorem topen_sends (hv : getT s i.tid = some v) (h : reading s [d, a, b] [a, b] = some (i, t, pop)) (ha : (t.rd a).kind ∈ [Kind.data, .tens])
    (hb : IsData t b) (hd : Free t d) (hg : (low t b).toNat < 2 ^ 48) :
    Sends s i t pop (.topen colb coln keep d a b) (t.rd a) (t.rd b) GReg.zero := by
  refine ⟨_, ?_, launchLin_sent hv t (.topen colb coln keep d a b) (t.rd a) (t.rd b) GReg.zero [tensTid (t.rd a).bits] []⟩
  rw [exec_topen, execTopen]
  simp only [needKind_eq_kinds, lo64_eq_low]
  refine issueWith_ok h (noneBefore_two h ha hb.mem (by decide) (by decide)) ?_
  rw [needKinds_ok ha, needKinds_ok hb.mem]
  simpa [destOk_ok hd] using hg

theorem fork_sends (hv : getT s i.tid = some v) (h : reading s [d, a, st] [a] = some (i, t, pop)) (ha : (t.rd a).kind = .tens)
    (hn : needNode s t.ctx (t.rd a).bits = .ok n) (hp : tensPerm (t.rd a).bits 0 = true) (hd : Free t d) (hst : Free t st) :
    Sends s i t pop (.fork ft nf d a st) (t.rd a) GReg.zero GReg.zero := by
  refine ⟨_, ?_, launchLin_sent hv t (.fork ft nf d a st) (t.rd a) GReg.zero GReg.zero [tensTid (t.rd a).bits] []⟩
  rw [exec_fork, execFork]
  simp only [needKind_eq_kinds]
  refine issueWith_ok h (noneBefore_one h (by simp [ha]) (by decide)) ?_
  rw [needKinds_ok (by simp [ha])]
  simp only [ok_bind, destOk_ok hd, destOk_ok hst, needView_ok hp, hn]

theorem rebase_sends (hv : getT s i.tid = some v) (h : reading s [a, b, st] [a, b] = some (i, t, pop)) (ha : (t.rd a).kind = .tens)
    (hn : needNode s t.ctx (t.rd a).bits = .ok n) (hb : (t.rd b).kind ∈ [Kind.data, .tens]) (hp : tensPerm (t.rd a).bits 0 = true)
    (hst : Free t st) : Sends s i t pop (.rebase ft a b st) (t.rd a) (t.rd b) GReg.zero := by
  refine ⟨_, ?_, launchLin_sent hv t (.rebase ft a b st) (t.rd a) (t.rd b) GReg.zero [tensTid (t.rd a).bits, tensTid (t.rd b).bits] []⟩
  rw [exec_rebase, execRebase]
  simp only [needKind_eq_kinds]
  refine issueWith_ok h (noneBefore_two h (by simp [ha]) hb (by decide) (by decide)) ?_
  rw [needKinds_ok (by simp [ha]), needKinds_ok hb]
  simp only [ok_bind, destOk_ok hst, needView_ok hp, hn]

theorem flat_sends (hv : getT s i.tid = some v) (h : reading s [a, st] [a] = some (i, t, pop)) (ha : (t.rd a).kind = .tens)
    (hn : needNode s t.ctx (t.rd a).bits = .ok n) (hp : tensPerm (t.rd a).bits 0 = true) (hst : Free t st) :
    Sends s i t pop (.flat ft a st) (t.rd a) GReg.zero GReg.zero := by
  refine ⟨_, ?_, launchLin_sent hv t (.flat ft a st) (t.rd a) GReg.zero GReg.zero [tensTid (t.rd a).bits] []⟩
  rw [exec_flat, execFlat]
  simp only [needKind_eq_kinds]
  refine issueWith_ok h (noneBefore_one h (by simp [ha]) (by decide)) ?_
  rw [needKinds_ok (by simp [ha])]
  simp only [ok_bind, destOk_ok hst, needView_ok hp, hn]

theorem tfree_sends (hv : getT s i.tid = some v) (h : reading s [a, st] [a] = some (i, t, pop)) (ha : (t.rd a).kind = .tens)
    (hn : needNode s t.ctx (t.rd a).bits = .ok n) (hp : tensPerm (t.rd a).bits 1 = true) (hst : Free t st) :
    Sends s i t pop (.tfree ft a st) (t.rd a) GReg.zero GReg.zero := by
  refine ⟨_, ?_, launchLin_sent hv t (.tfree ft a st) (t.rd a) GReg.zero GReg.zero [tensTid (t.rd a).bits] []⟩
  rw [exec_tfree, execTfree]
  simp only [needKind_eq_kinds]
  refine issueWith_ok h (noneBefore_one h (by simp [ha]) (by decide)) ?_
  rw [needKinds_ok (by simp [ha])]
  simp only [ok_bind, destOk_ok hst, needView_ok hp, hn]

theorem tinfo_sends (hv : getT s i.tid = some v) (h : reading s [d, a] [a] = some (i, t, pop)) (ha : (t.rd a).kind ∈ [Kind.data, .tens])
    (hd : Free t d) : Sends s i t pop (.tinfo q d a) (t.rd a) GReg.zero GReg.zero := by
  refine ⟨_, ?_, launchLin_sent hv t (.tinfo q d a) (t.rd a) GReg.zero GReg.zero [tensTid (t.rd a).bits] []⟩
  rw [exec_tinfo, execTinfo]
  refine issueWith_ok h (noneBefore_one h ha (by decide)) ?_
  rw [needKinds_ok ha]
  simp only [ok_bind, destOk_ok hd]

theorem trd_sends (hv : getT s i.tid = some v) (h : reading s [d, a] [a, d] = some (i, t, pop)) (ha : (t.rd a).kind = .tens)
    (hd : (t.rd d).kind = .cap) (hp : tensPerm (t.rd a).bits 0 = true) (hn : needNode s t.ctx (t.rd a).bits = .ok n)
    (hw : capCheck (t.rd d).bits Need.st 0 (viewBytes n.2 (t.rd a).bits) = .ok w)
    (hps : capRun s (i.tid / 16) t.ctx (t.rd d).bits false Need.st (runFuel (viewBytes n.2 (t.rd a).bits)) w (viewBytes n.2 (t.rd a).bits) = .ok ps)
    (hown : ps.all ownMemory = true) : Sends s i t pop (.trd d a) (t.rd a) GReg.zero (t.rd d) := by
  refine ⟨_, ?_, launchLin_sent hv t (.trd d a) (t.rd a) GReg.zero (t.rd d) [tensTid (t.rd a).bits] ps⟩
  rw [exec_trd, execTrd]
  simp only [needKind_eq_kinds]
  refine issueWith_ok h (noneBefore_two h (by simp [ha]) (by simp [hd]) (by decide) (by decide)) ?_
  rw [needKinds_ok (by simp [ha]), needKinds_ok (by simp [hd])]
  simp only [ok_bind, needView_ok hp, hn, hw, hps, if_pos hown]

theorem twr_sends (hv : getT s i.tid = some v) (h : reading s [a, b, st] [a, b] = some (i, t, pop)) (ha : (t.rd a).kind = .tens)
    (hb : (t.rd b).kind = .cap) (hst : Free t st) (hp : tensPerm (t.rd a).bits 1 = true) (hn : needNode s t.ctx (t.rd a).bits = .ok n)
    (hf : n.2.state ≠ .frozen) (hw : capCheck (t.rd b).bits Need.rd 0 (viewBytes n.2 (t.rd a).bits) = .ok w)
    (hps : capRun s (i.tid / 16) t.ctx (t.rd b).bits false Need.rd (runFuel (viewBytes n.2 (t.rd a).bits)) w (viewBytes n.2 (t.rd a).bits) = .ok ps) :
    Sends s i t pop (.twr ft a b st) (t.rd a) (t.rd b) GReg.zero := by
  refine ⟨_, ?_, launchLin_sent hv t (.twr ft a b st) (t.rd a) (t.rd b) GReg.zero [tensTid (t.rd a).bits] ps⟩
  rw [exec_twr, execTwr]
  simp only [needKind_eq_kinds]
  refine issueWith_ok h (noneBefore_two h (by simp [ha]) (by simp [hb]) (by decide) (by decide)) ?_
  rw [needKinds_ok (by simp [ha]), needKinds_ok (by simp [hb])]
  simp only [ok_bind, destOk_ok hst, needView_ok hp, hn, if_neg hf, hw, hps]

theorem tld_sends (hv : getT s i.tid = some v) (h : reading s [d, a, x] [a, x] = some (i, t, pop)) (ha : (t.rd a).kind = .tens)
    (hn : needNode s t.ctx (t.rd a).bits = .ok n) (hx : IsData t x) (hd : Free t d) (hp : tensPerm (t.rd a).bits 0 = true) :
    Sends s i t pop (.tld sz d a x off) (t.rd a) (t.rd x) GReg.zero := by
  refine ⟨_, ?_, launchLin_sent hv t (.tld sz d a x off) (t.rd a) (t.rd x) GReg.zero [tensTid (t.rd a).bits] []⟩
  rw [exec_tld, execTld]
  simp only [needKind_eq_kinds]
  refine issueWith_ok h (noneBefore_two h (by simp [ha]) hx.mem (by decide) (by decide)) ?_
  rw [needKinds_ok (by simp [ha]), needKinds_ok hx.mem]
  simp only [ok_bind, destOk_ok hd, needView_ok hp, hn]

theorem tst_sends (hv : getT s i.tid = some v) (h : reading s [d, a, x, st] [a, x, d] = some (i, t, pop)) (ha : (t.rd a).kind = .tens)
    (hn : needNode s t.ctx (t.rd a).bits = .ok n) (hx : IsData t x) (hd : IsData t d) (hst : Free t st) (hp : tensPerm (t.rd a).bits 1 = true) :
    Sends s i t pop (.tst ft sz d a x st off) (t.rd a) (t.rd x) (t.rd d) := by
  refine ⟨_, ?_, launchLin_sent hv t (.tst ft sz d a x st off) (t.rd a) (t.rd x) (t.rd d) [tensTid (t.rd a).bits] []⟩
  rw [exec_tst, execTst]
  simp only [needKind_eq_kinds]
  refine issueWith_ok h (noneBefore_three h (by simp [ha]) hx.mem hd.mem (by decide) (by decide) (by decide)) ?_
  rw [needKinds_ok (by simp [ha]), needKinds_ok hx.mem, needKinds_ok hd.mem]
  simp only [ok_bind, destOk_ok hst, needView_ok hp, hn]
end

/-- Settles O27: each instruction's checks pass in turn, and its body's result is `launchLin`, which sends the operation. -/
theorem lineageOperationsSent : Obligations.LineageOperationsSent := by
  intro s i t v pop hv
  refine ⟨fun _ _ _ _ _ _ _ h hb hd hr hc hm hg hp hs hcap => tnew_sends hv h hb hd hr hc hm hg hp hs hcap,
    fun _ _ _ _ _ _ h ha hb hd hg => topen_sends hv h ha hb hd hg,
    fun _ _ _ _ _ h ⟨ha, _, hn⟩ hp hd hst => fork_sends hv h ha hn hp hd hst,
    fun _ _ _ _ h ⟨ha, _, hn⟩ hb hp hst => rebase_sends hv h ha hn hb hp hst,
    fun _ _ _ h ⟨ha, _, hn⟩ hst => ⟨fun hp => flat_sends hv h ha hn hp hst, fun hp => tfree_sends hv h ha hn hp hst⟩,
    fun _ _ _ h ha hd => tinfo_sends hv h ha hd,
    fun _ _ _ _ _ h ha hd hp hn hw hps hown => trd_sends hv h ha hd hp hn hw hps hown,
    fun _ _ _ _ _ _ _ h ha hb hst hp hn hf hw hps => twr_sends hv h ha hb hst hp hn hf hw hps,
    fun _ _ _ _ _ h ⟨ha, _, hn⟩ hx hd hp => tld_sends hv h ha hn hx hd hp,
    fun _ _ _ _ _ _ _ h ⟨ha, _, hn⟩ hx hd hst hp => tst_sends hv h ha hn hx hd hst hp⟩

end Sys2Proof.Machine

namespace Sys2Proof.Machine

/-! ### A fork (15 R249, R252) -/

/-- A node of a table as the resolution of its lines reads it: its parent and the lines it stores. -/
def linesAndParent (n : Node) : List Line × Nat := (n.lines, n.parent)

/-- Lines resolve alike in two tables that agree, but at one node that is nobody's parent, on the lines stored and on the parents. -/
theorem resolveLine_congr {k : Nat} {ns ms : List (Nat × Node)} (hsame : ∀ j, j ≠ k → (tget j ns).map linesAndParent = (tget j ms).map linesAndParent)
    (hparent : ∀ j x, tget j ms = some x → x.parent ≠ k) (f j l : Nat) (hj : j ≠ k) : resolveLine ns f j l = resolveLine ms f j l := by
  induction f generalizing j with
  | zero => rfl
  | succ f ih =>
    have hs := hsame j hj
    unfold resolveLine
    cases hm : tget j ms with
    | none =>
      rw [hm] at hs
      simp [Option.map_eq_none_iff.1 hs]
    | some x =>
      rw [hm] at hs
      obtain ⟨y, hy, hxy⟩ := Option.map_eq_some_iff.1 hs
      obtain ⟨hlines, hpar⟩ := Prod.mk.inj hxy
      simp only [hy, lineOf, hlines, hpar, ih x.parent (hparent j x hm)]

/-- The child that a fork makes of node m: it stores no line. -/
def forkChild (c : Ctx) (m : Nat) (n : Node) : Node :=
  { n with parent := m, depth := n.depth + 1, state := .live, lines := [], sectors := 0, children := 0, detached := false
           serial := c.serials + 1, pins := 1 }

/-- The parent of a fork: FROZEN, with one child more. -/
def forkParent (n : Node) : Node := { n with children := n.children + 1, state := .frozen }

/-- The nodes after a fork of node m whose child takes the number k. -/
def forkedNodes (c : Ctx) (m k : Nat) (n : Node) : List (Nat × Node) := tset m (forkParent n) (tset k (forkChild c m n) c.nodes)

theorem linFork_forks {c : Ctx} {ft nf : Bool} {m k : Nat} {n : Node} (hd : n.depth + 1 ≤ n.maxd) (hk : freeTid c = some k) :
    ∃ r, linFork c ft nf m n = .ok r ∧ r.made = some k ∧ r.code = 0 ∧ r.lines = 0 ∧ r.ctx.nodes = forkedNodes c m k n := by
  rw [linFork, if_pos hd, hk]
  exact ⟨_, rfl, rfl, rfl, rfl, rfl⟩

/-- Settles O29: the child is set with no line, so its lines are looked up at the parent, whose own lines the fork does not touch. -/
theorem forkInheritsEveryLine : Obligations.ForkInheritsEveryLine := by
  intro c ft nf m k n hn hd hk hm hkm hpar
  obtain ⟨r, hr, hmade, hcode, hlines, hnodes⟩ := linFork_forks (ft := ft) (nf := nf) (m := m) hd hk
  have hchild : tget k r.ctx.nodes = some (forkChild c m n) := by rw [hnodes, forkedNodes, tget_tset_ne hkm, tget_tset_same]
  have hparent : tget m r.ctx.nodes = some (forkParent n) := by rw [hnodes, forkedNodes, tget_tset_same]
  refine ⟨r, forkChild c m n, hr, hmade, hcode, hlines, hchild, rfl, rfl, rfl, rfl, hparent, fun f l => ?_⟩
  have hsame : ∀ j, j ≠ k → (tget j r.ctx.nodes).map linesAndParent = (tget j c.nodes).map linesAndParent := fun j hj => by
    by_cases hjm : j = m
    · subst hjm
      rw [hparent, hn]
      rfl
    · rw [hnodes, forkedNodes, tget_tset_ne hjm, tget_tset_ne hj]
  rw [resolveLine, hchild]
  simp [lineOf, forkChild, hm, resolveLine_congr hsame hpar f m l (Ne.symm hkm)]

end Sys2Proof.Machine

namespace Sys2Proof.Machine

/-! ### The stored form of a line (15 R247, R248) -/

theorem nth_getElem {α : Type} (d : α) (l : List α) (k : Nat) (h : k < l.length) : nth d k l = l[k] := by
  induction l generalizing k with
  | nil => simp at h
  | cons x xs ih =>
    cases k with
    | zero => rfl
    | succ k => exact ih k (by simpa using h)

theorem leNat_toBytes (n v : Nat) : leNat (toBytes n v) = v % 256 ^ n := by
  induction n generalizing v with
  | zero => simp [toBytes, leNat, Nat.mod_one]
  | succ n ih =>
    rw [toBytes, leNat, ih, Nat.pow_succ', Nat.mod_mul, BitVec.toNat_ofNat]

/-- The pieces of a line of pieces of one length stand one after another. -/
theorem piece_flatten {α β : Type} {g : α → List β} {n : Nat} (hg : ∀ x, (g x).length = n) (xs : List α) (rest : List β) (i : Nat)
    (h : i < xs.length) : (((xs.map g).flatten ++ rest).drop (n * i)).take n = g xs[i] := by
  induction xs generalizing i with
  | nil => simp at h
  | cons x xs ih =>
    rw [List.map_cons, List.flatten_cons, List.append_assoc]
    cases i with
    | zero => simp [← hg x]
    | succ i =>
      rw [List.getElem_cons_succ, ← ih i (by simpa using h), Nat.mul_succ, Nat.add_comm, ← List.drop_drop, ← hg x, List.drop_left]

/-- A word whose difference from the base fits in a byte is the base plus that byte's signed value. -/
theorem delta_byte {b w : Nat} (hb : b < 2 ^ 32) (hw : w < 2 ^ 32) (h : deltaFits 8 b w = true) :
    (((b : Int) + sextZ 8 ((w + 2 ^ 32 - b) % 2 ^ 8)) % (2 ^ 32 : Nat)).toNat = w := by
  simp only [deltaFits, sextZ, Bool.and_eq_true] at h ⊢
  norm_num at *
  split at h <;> split <;> omega

theorem delta_half {b w : Nat} (hb : b < 2 ^ 32) (hw : w < 2 ^ 32) (h : deltaFits 16 b w = true) :
    (((b : Int) + sextZ 16 ((w + 2 ^ 32 - b) % 2 ^ 16)) % (2 ^ 32 : Nat)).toNat = w := by
  simp only [deltaFits, sextZ, Bool.and_eq_true] at h ⊢
  norm_num at *
  split at h <;> split <;> omega

section
variable {ws : List Nat} (hlen : ws.length = 32) (hw : ∀ w ∈ ws, w < 2 ^ 32)

/-- What the encoding of a cost tag keeps: the number of its 32-byte sectors, and the words. -/
def StoredWell (e : Nat) (ws : List Nat) : Prop :=
  (storedForm e ws).length = 32 * tagSectors e ∧ Machine.decodedWords e (storedForm e ws) = some ws

include hlen

theorem base_lt (hw : ∀ w ∈ ws, w < 2 ^ 32) : nth 0 0 ws < 2 ^ 32 := by
  rw [nth_getElem 0 ws 0 (by omega)]
  exact hw _ (List.getElem_mem _)

theorem stored_zero (h : ws.all (fun w => w == 0) = true) : StoredWell 1 ws := by
  refine ⟨rfl, congrArg some (List.eq_replicate_iff.2 ⟨hlen, by simpa using h⟩).symm⟩

include hw

theorem stored_base : leNat (toBytes 4 (nth 0 0 ws)) = nth 0 0 ws := by
  rw [leNat_toBytes]
  exact Nat.mod_eq_of_lt (base_lt hlen hw)

theorem stored_same (h : ws.all (fun w => w == nth 0 0 ws) = true) : StoredWell 2 ws := by
  refine ⟨by simp [storedForm, length_toBytes, tagSectors], ?_⟩
  have ht : (storedForm 2 ws).take 4 = toBytes 4 (nth 0 0 ws) := by
    simp [storedForm, length_toBytes]
  simp only [Machine.decodedWords, ht, stored_base hlen hw]
  exact congrArg some (List.eq_replicate_iff.2 ⟨hlen, by simpa using h⟩).symm

theorem stored_bytes (h : ws.all (deltaFits 8 (nth 0 0 ws)) = true) : StoredWell 3 ws := by
  refine ⟨by simp [storedForm, length_toBytes, tagSectors, hlen], ?_⟩
  have ht : (storedForm 3 ws).take 4 = toBytes 4 (nth 0 0 ws) := by
    simp [storedForm, length_toBytes]
  simp only [Machine.decodedWords, ht, stored_base hlen hw]
  refine congrArg some (List.ext_getElem (by simp [hlen]) fun i h1 h2 => ?_)
  have hbyte : nth 0 (4 + i) (storedForm 3 ws) = BitVec.ofNat 8 (ws[i] + 2 ^ 32 - nth 0 0 ws) := by
    rw [nth_getElem 0 _ _ (by simp [storedForm, length_toBytes]; omega)]
    simp [storedForm, length_toBytes, h2]
  rw [List.getElem_map, List.getElem_range, hbyte, BitVec.toNat_ofNat]
  exact delta_byte (base_lt hlen hw) (hw _ (List.getElem_mem _)) (List.all_eq_true.1 h _ (List.getElem_mem _))

theorem stored_halves (h : ws.all (deltaFits 16 (nth 0 0 ws)) = true) : StoredWell 4 ws := by
  have hhalf : ∀ w, (toBytes 2 (w + 2 ^ 32 - nth 0 0 ws)).length = 2 := fun w => length_toBytes ..
  refine ⟨by simp [storedForm, length_toBytes, tagSectors, hlen, List.length_flatten, Function.comp_def], ?_⟩
  have ht : (storedForm 4 ws).take 4 = toBytes 4 (nth 0 0 ws) := by
    simp [storedForm, length_toBytes]
  simp only [Machine.decodedWords, ht, stored_base hlen hw]
  refine congrArg some (List.ext_getElem (by simp [hlen]) fun i h1 h2 => ?_)
  have hbytes : ((storedForm 4 ws).drop (4 + 2 * i)).take 2 = toBytes 2 (ws[i] + 2 ^ 32 - nth 0 0 ws) := by
    rw [← piece_flatten hhalf ws (List.replicate 28 0) i h2, ← List.drop_drop]
    simp [storedForm, length_toBytes]
  rw [List.getElem_map, List.getElem_range, hbytes, leNat_toBytes]
  exact delta_half (base_lt hlen hw) (hw _ (List.getElem_mem _)) (List.all_eq_true.1 h _ (List.getElem_mem _))

theorem stored_raw : StoredWell 7 ws := by
  refine ⟨by simp [storedForm, length_toBytes, tagSectors, hlen, List.length_flatten, Function.comp_def], ?_⟩
  refine congrArg some (List.ext_getElem (by simp [hlen]) fun i h1 h2 => ?_)
  have hbytes : ((storedForm 7 ws).drop (4 * i)).take 4 = toBytes 4 ws[i] := by
    rw [← piece_flatten (fun w => length_toBytes 4 w) ws [] i h2, List.append_nil]
    rfl
  rw [List.getElem_map, List.getElem_range, hbytes, leNat_toBytes]
  exact Nat.mod_eq_of_lt (hw _ (List.getElem_mem _))

/-- The encoding of the cost tag keeps the words (15 R247). -/
theorem costTag_keeps : StoredWell (costTag ws) ws := by
  unfold costTag
  extract_lets b
  split
  · exact stored_zero hlen ‹_›
  · split
    · exact stored_same hlen hw ‹_›
    · split
      · exact stored_bytes hlen hw ‹_›
      · split
        · exact stored_halves hlen hw ‹_›
        · exact stored_raw hlen hw
end

theorem costTag_range (ws : List Nat) : 0 < costTag ws ∧ costTag ws < 8 := by
  simp only [costTag]
  (repeat' split) <;> decide

theorem zipWith_xor_cancel (v q : List Nat) (h : v.length = q.length) : List.zipWith Nat.xor (List.zipWith Nat.xor v q) q = v := by
  refine List.ext_getElem (by simp [h]) fun i h1 h2 => ?_
  simp only [List.getElem_zipWith]
  exact Nat.xor_xor_cancel_right ..

theorem xorWords_lt {v q : List Nat} (h : ∀ w ∈ v ++ q, w < 2 ^ 32) : ∀ w ∈ xorWords v q, w < 2 ^ 32 := by
  intro w hw
  obtain ⟨i, hi, rfl⟩ := List.getElem_of_mem hw
  rw [xorWords, List.length_zipWith, Nat.lt_min] at hi
  simp only [xorWords, List.getElem_zipWith]
  exact Nat.xor_lt_two_pow (h _ (by simp)) (h _ (by simp))

/-- How an encoded line stands: INHERIT when it equals the parent's, or else a cost tag of the words, or of their difference from the parent's. -/
theorem encodeLine_cases (v q : List Nat) (root : Bool) :
    (v = q ∧ encodeLine v q root = (0, [])) ∨ (v ≠ q ∧ encodeLine v q root = (costTag v, v)) ∨
      (v ≠ q ∧ root = false ∧ encodeLine v q root = (8 + costTag (xorWords v q), xorWords v q)) := by
  unfold encodeLine
  split
  · exact .inl ⟨‹_›, rfl⟩
  · dsimp only
    split
    · exact .inr (.inl ⟨‹_›, rfl⟩)
    · split
      · exact .inr (.inr ⟨‹_›, by simpa using ‹¬ root = true›, rfl⟩)
      · exact .inr (.inl ⟨‹_›, rfl⟩)

/-- Settles O30: the three ways in which a line is encoded, each with the form its cost tag stores. -/
theorem lineEncodingIsFaithful : Obligations.LineEncodingIsFaithful := by
  intro v q root hv hq
  dsimp only
  have hnone : ∀ l k bs, k % 8 = 5 ∨ k % 8 = 6 → (Line.mk l k bs).words = none := fun l k bs hk => by
    rcases hk with hk | hk <;> simp [Line.words, hk, Machine.decodedWords]
  obtain ⟨hpos, hlt⟩ := costTag_range v
  obtain ⟨hpos', hlt'⟩ := costTag_range (xorWords v q)
  rcases encodeLine_cases v q root with ⟨heq, he⟩ | ⟨hne, he⟩ | ⟨hne, hroot, he⟩ <;> rw [he]
  · exact ⟨fun _ => heq, fun h => absurd rfl h, fun h => absurd h (by decide), fun _ h => absurd rfl h, hnone⟩
  · refine ⟨fun h => absurd h hpos.ne', fun _ _ => rfl, fun h => absurd hlt (Nat.not_lt.2 h), fun hw _ => ?_, hnone⟩
    rw [Nat.mod_eq_of_lt hlt]
    obtain ⟨hlen, hdec⟩ := costTag_keeps hv fun w h => hw w (List.mem_append_left _ h)
    refine ⟨hlen, fun l => ?_⟩
    simpa [Line.words, Nat.mod_eq_of_lt hlt] using hdec
  · refine ⟨fun h => by omega, fun _ h => absurd h (by omega), fun _ => ⟨hroot, zipWith_xor_cancel v q (hv.trans hq.symm)⟩, fun hw _ => ?_, hnone⟩
    have hmod : (8 + costTag (xorWords v q)) % 8 = costTag (xorWords v q) := by omega
    obtain ⟨hlen, hdec⟩ := costTag_keeps (by simp [xorWords, hv, hq]) (xorWords_lt hw)
    refine ⟨?_, fun l => ?_⟩
    · simpa [hmod, tagSectors, Nat.mod_eq_of_lt hlt'] using hlen
    · simpa [Line.words, hmod] using hdec

end Sys2Proof.Machine

namespace Sys2Proof.Machine

/-! ### Selection by bit planes (18 R287) -/

theorem maskOf_filter_lt (p : Nat → Bool) (n : Nat) : maskOf ((List.range n).filter p) < 2 ^ n := by
  induction n with
  | zero => simp [maskOf]
  | succ n ih =>
    rw [maskOf] at ih
    rw [maskOf, List.range_succ, List.filter_append, List.map_append, List.sum_append, Nat.pow_succ]
    cases hp : p n <;> simp [hp] <;> omega

/-- The mask of the elements below n of a property has their bits. -/
theorem testBit_maskOf_filter (p : Nat → Bool) (n i : Nat) : (maskOf ((List.range n).filter p)).testBit i = (decide (i < n) && p i) := by
  induction n with
  | zero => simp [maskOf]
  | succ n ih =>
    have hlt := maskOf_filter_lt p n
    rw [maskOf] at hlt ih
    rw [maskOf, List.range_succ, List.filter_append, List.map_append, List.sum_append]
    cases hp : p n with
    | false =>
      have : (decide (i < n + 1) && p i) = (decide (i < n) && p i) := by
        by_cases hi : i = n
        · simp [hi, hp]
        · have : i < n + 1 ↔ i < n := by omega
          simp [this]
      rw [this]
      simp [hp, ih]
    | true =>
      simp only [List.filter_cons, hp, if_true, List.filter_nil, List.map_cons, List.map_nil, List.sum_cons, List.sum_nil, Nat.add_zero]
      rw [Nat.add_comm]
      rcases Nat.lt_trichotomy i n with hi | rfl | hi
      · rw [Nat.testBit_two_pow_add_gt hi, ih]
        simp [hi, Nat.lt_succ_of_lt hi]
      · rw [Nat.testBit_two_pow_add_eq, ih]
        simp [hp]
      · rw [Nat.testBit_lt_two_pow]
        · simp [Nat.not_lt.2 hi]
        · calc 2 ^ n + _ < 2 ^ n + 2 ^ n := Nat.add_lt_add_left hlt _
            _ = 2 ^ (n + 1) := by rw [Nat.pow_succ]; omega
            _ ≤ 2 ^ i := Nat.pow_le_pow_right (by decide) hi

/-- The elements of a mask of some of another mask's elements are these. -/
theorem maskMembers_maskOf (m n : Nat) (p : Nat → Bool) : maskMembers (maskOf ((maskMembers m n).filter p)) n = (maskMembers m n).filter p := by
  unfold maskMembers
  rw [List.filter_filter]
  refine List.filter_congr fun i hi => ?_
  rw [testBit_maskOf_filter]
  simp [List.mem_range.1 hi]

/-- What holds with b planes still to pass: the candidates are those of the first candidates whose images agree with h in the planes passed, those
above h there are counted, fewer than the target, and with the candidates they reach it. -/
structure PlanesPassed (q : Selection) (r0 : HawkRun) (b h : Nat) (r : HawkRun) : Prop where
  imgs : r.imgs = r0.imgs
  total : r.total = r0.total
  selects : r.none_ = false
  planes : r.planes = b
  cand : maskMembers r.cand q.x.n.toNat = (maskMembers r0.cand q.x.n.toNat).filter (fun i => nth 0 i r0.imgs / 2 ^ b = h)
  above : r.aboveN = ((maskMembers r0.cand q.x.n.toNat).filter (fun i => h < nth 0 i r0.imgs / 2 ^ b)).length
  fewer : r.aboveN < r.total
  reached : r.total ≤ r.aboveN + (maskMembers r.cand q.x.n.toNat).length

theorem length_filter_add {α : Type} (p q : α → Bool) (l : List α) (h : ∀ x ∈ l, ¬ (p x = true ∧ q x = true)) :
    (l.filter p).length + (l.filter q).length = (l.filter (fun x => p x || q x)).length := by
  induction l with
  | nil => rfl
  | cons x xs ih =>
    have hx := h x (by simp)
    have ih := ih fun y hy => h y (by simp [hy])
    cases hp : p x <;> cases hq : q x <;> simp_all <;> omega

/-- A plane more of an image. -/
theorem div_two_pow_succ (x b : Nat) : x / 2 ^ b = 2 * (x / 2 ^ (b + 1)) + if x.testBit b then 1 else 0 := by
  have : x.testBit b = decide (x / 2 ^ b % 2 = 1) := Nat.testBit_eq_decide_div_mod_eq
  rw [this, Nat.pow_succ, ← Nat.div_div_eq_div_mul]
  by_cases h : x / 2 ^ b % 2 = 1 <;> simp [h] <;> omega

/-- The candidates with a one in the next plane are those whose images agree with 2h + 1 in the planes then passed. -/
theorem ones_of_agree (M : List Nat) (x : Nat → Nat) (b h : Nat) :
    (M.filter (fun i => x i / 2 ^ (b + 1) = h)).filter (fun i => (x i).testBit b) = M.filter (fun i => x i / 2 ^ b = 2 * h + 1) := by
  rw [List.filter_filter]
  refine List.filter_congr fun i _ => ?_
  rw [div_two_pow_succ (x i) b]
  cases (x i).testBit b <;> simp
  omega

theorem zeros_of_agree (M : List Nat) (x : Nat → Nat) (b h : Nat) :
    (M.filter (fun i => x i / 2 ^ (b + 1) = h)).filter (fun i => !(x i).testBit b) = M.filter (fun i => x i / 2 ^ b = 2 * h) := by
  rw [List.filter_filter]
  refine List.filter_congr fun i _ => ?_
  rw [div_two_pow_succ (x i) b]
  cases (x i).testBit b <;> simp
  omega

theorem above_of_one (x b h : Nat) : 2 * h + 1 < x / 2 ^ b ↔ h < x / 2 ^ (b + 1) := by
  rw [div_two_pow_succ x b]
  split <;> omega

theorem above_of_zero (x b h : Nat) : 2 * h < x / 2 ^ b ↔ h < x / 2 ^ (b + 1) ∨ x / 2 ^ b = 2 * h + 1 := by
  rw [div_two_pow_succ x b]
  split <;> omega

theorem planePass_passes {q : Selection} {r0 r : HawkRun} {b h : Nat} (hw : q.weighted = false) (hr : PlanesPassed q r0 (b + 1) h r) :
    ∃ h', PlanesPassed q r0 b h' (planePass q r) := by
  obtain ⟨himgs, htotal, hsel, hplanes, hcand, habove, hfewer, hreached⟩ := hr
  have hone := ones_of_agree (maskMembers r0.cand q.x.n.toNat) (fun i => nth 0 i r0.imgs) b h
  have hzero := zeros_of_agree (maskMembers r0.cand q.x.n.toNat) (fun i => nth 0 i r0.imgs) b h
  rw [← hcand] at hone hzero
  unfold planePass
  rw [hplanes]
  dsimp only
  rw [hw, himgs]
  simp only [Bool.false_eq_true, if_false, decide_eq_true_eq]
  by_cases hkeep : r.total ≤ r.aboveN + ((maskMembers r.cand q.x.n.toNat).filter (fun i => (nth 0 i r0.imgs).testBit b)).length
  · rw [if_pos hkeep]
    refine ⟨2 * h + 1, rfl, htotal, hsel, rfl, ?_, ?_, hfewer, ?_⟩
    · exact (maskMembers_maskOf ..).trans hone
    · simp only [habove, above_of_one]
    · rwa [maskMembers_maskOf]
  · rw [if_neg hkeep]
    have hparts : (maskMembers r.cand q.x.n.toNat).length = ((maskMembers r.cand q.x.n.toNat).filter (fun i => (nth 0 i r0.imgs).testBit b)).length +
        ((maskMembers r.cand q.x.n.toNat).filter (fun i => !(nth 0 i r0.imgs).testBit b)).length := List.length_eq_length_filter_add _
    refine ⟨2 * h, rfl, htotal, hsel, rfl, ?_, ?_, Nat.not_le.1 hkeep, ?_⟩
    · exact (maskMembers_maskOf ..).trans hzero
    · show r.aboveN + _ = _
      rw [hone, habove, length_filter_add _ _ _ fun i _ => by
        simp only [decide_eq_true_eq]
        rintro ⟨h1, h2⟩
        have := (above_of_one (nth 0 i r0.imgs) b h).2 h1
        omega]
      simp only [above_of_zero, Bool.decide_or]
    · show r.total ≤ r.aboveN + _ + (maskMembers (maskOf _) _).length
      rw [maskMembers_maskOf, Nat.add_assoc, ← hparts]
      exact hreached

theorem passes_pass {q : Selection} {r0 : HawkRun} (hw : q.weighted = false) (b : Nat) {r : HawkRun} {h : Nat} (hr : PlanesPassed q r0 b h r) :
    ∃ h', PlanesPassed q r0 0 h' (passes q b r) := by
  induction b generalizing r h with
  | zero => exact ⟨h, hr⟩
  | succ b ih =>
    obtain ⟨h', hr'⟩ := planePass_passes hw hr
    rw [passes, hr.selects]
    exact ih hr'

/-- Settles O33: before the first plane every candidate agrees with 0 in no plane, and after the last the candidates have one image. -/
theorem planePassesSelectTheLargest : Obligations.PlanePassesSelectTheLargest := by
  intro q r hw hsel habove hpos htotal himgs
  have hzero : ∀ i ∈ maskMembers r.cand q.x.n.toNat, nth 0 i r.imgs / 2 ^ r.planes = 0 := fun i hi =>
    Nat.div_eq_of_lt (himgs i (List.mem_range.1 (List.mem_filter.1 hi).1))
  have hstart : PlanesPassed q r r.planes 0 r := by
    refine ⟨rfl, rfl, hsel, rfl, ?_, ?_, ?_, ?_⟩
    · exact (List.filter_eq_self.2 fun i hi => decide_eq_true (hzero i hi)).symm
    · rw [habove, List.filter_eq_nil_iff.2 fun i hi => by simp [hzero i hi]]
      rfl
    · omega
    · omega
  obtain ⟨v, hend⟩ := passes_pass hw r.planes hstart
  obtain ⟨-, hsame, -, -, hcand, hcount, hfewer, hreached⟩ := hend
  simp only [Nat.pow_zero, Nat.div_one] at hcand hcount
  rw [hsame] at hfewer hreached
  refine ⟨v, fun hnil => ?_, hcount, hcand, hfewer, hreached⟩
  rw [hnil, List.length_nil] at hreached
  omega

end Sys2Proof.Machine

namespace Sys2Proof.Machine

/-! ### Task instructions (20 R305-R309) -/

theorem launchGate_sent {s : State} {tid : Nat} {v : Thread} (hv : getT s tid = some v) (t : Thread) (op : Instr) (g x : Nat)
    (rs : List (BitVec 256)) : GateSent s (launchGate s tid t op g x rs) tid t op g x rs (.gate s.nextId) where
  sent := ⟨⟨tid, t.ctx, t.owner, op, g, x, rs, false, 0, none, true⟩, by
    rw [launchGate, parkAs_gates]
    exact tget_tset_same .., rfl, rfl, rfl, rfl, rfl, rfl, rfl, rfl, rfl⟩
  due := by
    rw [launchGate, parkAs_agenda]
    exact mem_sched.2 (.inr (mem_sched.2 (.inl rfl)))
  parked := by
    apply waitOf_parkAs (t := v)
    exact hv
  mem := parkAs_mem ..

/-- With no operand to read through a PORT there is no pop. -/
theorem reading_no_pop {s : State} {regs : List Reg} {i : Issue} {t : Thread} {pop : Option InboxEntry} (h : reading s regs [] = some (i, t, pop)) :
    pop = none := by
  unfold reading at h
  split at h
  · cases h
  · split at h
    · cases h
    · exact (Prod.mk.inj (Prod.mk.inj (Option.some.inj h)).2).2.symm

section
variable {s : State} {i : Issue} {t v : Thread} {pop : Option InboxEntry} {a b d : Reg} {o : Owner}

/-- What a TSUB asks of its operands: 1 to 256 valid records, read from memory that it may read. -/
structure SubmitsRecords (s : State) (i : Issue) (t : Thread) (a b : Reg) (ps : List Place) : Prop where
  cap : (t.rd a).kind = .cap
  data : IsData t b
  some_ : 1 ≤ (low t b).toNat
  few : (low t b).toNat ≤ 256
  run : ∃ w, capCheck (t.rd a).bits Need.rd 0 (32 * (low t b).toNat) = .ok w ∧ w % 32 = 0 ∧
    capRun s (i.tid / 16) t.ctx (t.rd a).bits false Need.rd (runFuel (32 * (low t b).toNat)) w (32 * (low t b).toNat) = .ok ps
  own : ps.all ownMemory = true
  quiet : quiet s i.tid = true
  clean : poisoned s ps = none
  valid : ∃ c, getC s t.ctx = some c ∧ ∀ r ∈ readRecords s ps (low t b).toNat, recValid c r = true

theorem submitIssue_ok {ps : List Place} (op : Instr) (h : reading s [a, b] [a, b] = some (i, t, pop)) (hs : SubmitsRecords s i t a b ps) :
    submitIssue op a b s = .next (finish pop i.tid (if 65536 < pendingRecords s t.ctx + (low t b).toNat
      then keepRecords s i.tid t op (readRecords s ps (low t b).toNat) else launchGate s i.tid t op 0 0 (readRecords s ps (low t b).toNat))) := by
  obtain ⟨ha, hb, hpos, hle, ⟨w, hw, halign, hps⟩, hown, hquiet, hclean, c, hc, hvalid⟩ := hs
  have hn : ¬ ((low t b).toNat = 0 ∨ 256 < (low t b).toNat) := by omega
  have hall : (readRecords s ps (low t b).toNat).findIdx? (fun r => !recValid c r) = none :=
    List.findIdx?_eq_none_iff.2 fun r hr => by simp [hvalid r hr]
  rw [submitIssue]
  simp only [needKind_eq_kinds, lo64_eq_low]
  refine issueWith_ok h (noneBefore_two h (by simp [ha]) hb.mem (by decide) (by decide)) ?_
  rw [needKinds_ok (by simp [ha]), needKinds_ok hb.mem]
  simp only [ok_bind, if_neg hn, hw, needAlign, if_pos halign, hps, hown, hquiet, softCheck, hclean, hc, hall, Bool.not_true, Bool.false_eq_true,
    if_false]
  split <;> rfl

theorem keepRecords_parks (hv : getT s i.tid = some v) (t : Thread) (j : Instr) (rs : List (BitVec 256)) :
    ∃ o, waitOf (keepRecords s i.tid t j rs) i.tid = some .recordRoom ∧ tget s.nextId (keepRecords s i.tid t j rs).gates = some o ∧ o.op = j ∧
      o.tid = i.tid ∧ o.records = rs ∧ o.sent = false ∧ (keepRecords s i.tid t j rs).mem = s.mem := by
  refine ⟨⟨i.tid, t.ctx, t.owner, j, 0, 0, rs, false, 0, none, false⟩, ?_, ?_, rfl, rfl, rfl, rfl, parkAs_mem ..⟩
  · apply waitOf_parkAs (t := v)
    exact hv
  · rw [keepRecords, parkAs_gates]
    exact tget_tset_same ..

theorem tdone_of_population (h : reading s [] [] = some (i, t, pop)) (ho : getO s t.owner = some o) (hp : o.isPop = true) :
    exec .tdone s = .next (takeFault s i.tid .perm 0) := by
  rw [exec_tdone, execTdone]
  exact issueWith_stop (st := .fault .perm 0) h noneBefore_nil (by simp [ho, hp])

theorem tdone_done (h : reading s [] [] = some (i, t, pop)) (ho : getO s t.owner = some o) (hp : o.isPop = false)
    (hd : o.donegDone = true ∨ recDoneg o.record = 0) : exec .tdone s = .next (advance s i.tid) := by
  rw [exec_tdone, execTdone]
  obtain rfl := reading_no_pop h
  exact issueWith_ok (s' := advance s i.tid) h noneBefore_nil (by simp [ho, hp, hd])

theorem tdone_sends (hv : getT s i.tid = some v) (h : reading s [] [] = some (i, t, pop)) (ho : getO s t.owner = some o) (hp : o.isPop = false)
    (hd : o.donegDone = false) (hg : recDoneg o.record ≠ 0) (hq : quiet s i.tid = true) :
    ∃ u, exec .tdone s = .next (finish pop i.tid u) ∧ GateSent s u i.tid t .tdone (recDoneg o.record) 0 [] (.gate s.nextId) := by
  refine ⟨_, ?_, launchGate_sent hv ..⟩
  rw [exec_tdone, execTdone]
  exact issueWith_ok h noneBefore_nil (by simp [ho, hp, hd, hg, hq])

theorem gate_sends {op : Sys2Proof.GateOp} (hv : getT s i.tid = some v) (h : reading s [d, a, b] [a, b] = some (i, t, pop)) (ha : IsData t a)
    (hb : IsData t b) (hd : Free t d) (h1 : 1 ≤ (low t a).toNat) (h2 : (low t a).toNat ≤ 65535) :
    ∃ u, exec (.gate op d a b) s = .next (finish pop i.tid u) ∧
      GateSent s u i.tid t (.gate op d a b) (low t a).toNat ((low t b).toNat % 2 ^ 32) [] (.gate s.nextId) := by
  refine ⟨_, ?_, launchGate_sent hv ..⟩
  have hg : ¬ ((low t a).toNat = 0 ∨ 65535 < (low t a).toNat) := by omega
  rw [exec_gate, execGate]
  simp only [needKind_eq_kinds, lo64_eq_low]
  refine issueWith_ok h (noneBefore_two h ha.mem hb.mem (by decide) (by decide)) ?_
  rw [needKinds_ok ha.mem, needKinds_ok hb.mem]
  simp only [ok_bind, destOk_ok hd, if_neg hg]

theorem gate_bounds {op : Sys2Proof.GateOp} (h : reading s [d, a, b] [a, b] = some (i, t, pop)) (ha : IsData t a) (hb : IsData t b) (hd : Free t d)
    (hg : (low t a).toNat = 0 ∨ 65535 < (low t a).toNat) : exec (.gate op d a b) s = .next (takeFault s i.tid .bounds (low t a).toNat) := by
  rw [exec_gate, execGate]
  simp only [needKind_eq_kinds, lo64_eq_low]
  refine issueWith_stop (st := .fault .bounds (low t a).toNat) h (noneBefore_two h ha.mem hb.mem (by decide) (by decide)) ?_
  rw [needKinds_ok ha.mem, needKinds_ok hb.mem]
  simp only [ok_bind, destOk_ok hd, if_pos hg]

theorem qpost_bounds {op : PostOp} (h : reading s [a, b] [a, b] = some (i, t, pop)) (ha : IsData t a) (hb : IsData t b)
    (hk : 65535 < (low t a).toNat ∨ sigEntry s t.ctx (low t a).toNat = none) :
    exec (.qpost op a b) s = .next (takeFault s i.tid .bounds (low t a).toNat) := by
  have hnone : (if 65535 < (low t a).toNat then none else sigEntry s t.ctx (low t a).toNat) = none := by
    rcases hk with hk | hk <;> simp [hk]
  rw [exec_qpost, execQpost]
  simp only [needKind_eq_kinds, lo64_eq_low]
  refine issueWith_stop (st := .fault .bounds (low t a).toNat) h (noneBefore_two h ha.mem hb.mem (by decide) (by decide)) ?_
  rw [needKinds_ok ha.mem, needKinds_ok hb.mem]
  simp only [ok_bind, hnone]

/-- A QPOST on its way to the scheduler, its update acknowledged at some time later (20 R306). -/
def postSent (s : State) (tid : Nat) (t : Thread) (op : Instr) (k x home : Nat) : State :=
  let s1 := fresh { s with gates := tset s.nextId ⟨tid, t.ctx, t.owner, op, k, x, [], false, 0, none, true⟩ s.gates }
  parkAs (sched (sched s1 (s.cycle + gateTime (tid / 256) / 2) (.gateApply s.nextId)) (s.cycle + gateTime (tid / 256) + home)
    (.qpostAcknowledgement s.nextId)) tid (.qpost s.nextId)

theorem postSent_sent (hv : getT s i.tid = some v) (t : Thread) (op : Instr) (k x home : Nat) :
    GateSent s (postSent s i.tid t op k x home) i.tid t op k x [] (.qpost s.nextId) where
  sent := ⟨⟨i.tid, t.ctx, t.owner, op, k, x, [], false, 0, none, true⟩, by
    rw [postSent, parkAs_gates]
    exact tget_tset_same .., rfl, rfl, rfl, rfl, rfl, rfl, rfl, rfl, rfl⟩
  due := by
    rw [postSent, parkAs_agenda]
    exact mem_sched.2 (.inr (mem_sched.2 (.inl rfl)))
  parked := by
    apply waitOf_parkAs (t := v)
    exact hv
  mem := parkAs_mem ..

theorem qpost_sends {op : PostOp} {e : BitVec 256} (hv : getT s i.tid = some v) (h : reading s [a, b] [a, b] = some (i, t, pop)) (ha : IsData t a)
    (hb : IsData t b) (hk : (low t a).toNat ≤ 65535) (he : sigEntry s t.ctx (low t a).toNat = some e) (hq : quiet s i.tid = true) :
    ∃ u, exec (.qpost op a b) s = .next (finish pop i.tid u) ∧
      GateSent s u i.tid t (.qpost op a b) (low t a).toNat (low t b).toNat [] (.qpost s.nextId) := by
  have hsome : (if 65535 < (low t a).toNat then none else sigEntry s t.ctx (low t a).toNat) = some e := by rw [if_neg (Nat.not_lt.2 hk), he]
  refine ⟨_, ?_, postSent_sent hv t (.qpost op a b) (low t a).toNat (low t b).toNat (placeTime (edgeOf (i.tid / 256)) (.phys (sigAddr e)))⟩
  rw [exec_qpost, execQpost]
  simp only [needKind_eq_kinds, lo64_eq_low]
  refine issueWith_ok h (noneBefore_two h ha.mem hb.mem (by decide) (by decide)) ?_
  rw [needKinds_ok ha.mem, needKinds_ok hb.mem]
  simp only [ok_bind, hsome, hq, Bool.not_true, Bool.false_eq_true, if_false]
  rfl

theorem trec_result {q : Fin 3} (h : reading s [d] [] = some (i, t, pop)) (hd : Free t d) (ho : getO s t.owner = some o) :
    exec (.trec q d) s = .next (result s i.tid d (dataOf (match q.val with
      | 0 => bits o.record.toNat 0 128
      | 1 => bits o.record.toNat 128 128
      | _ => ((getP s t.owner (i.tid / 16)).map Placement.placed).getD o.placed % 2 ^ 64 + (if o.isPop then 0 else o.prio) * 2 ^ 64 +
        o.pool * 2 ^ 72 + (if o.late then 2 ^ 76 else 0) + (if o.resumed then 2 ^ 77 else 0)))) := by
  rw [exec_trec, execTrec]
  obtain rfl := reading_no_pop h
  refine issueWith_ok (s' := result s i.tid d _) h noneBefore_nil ?_
  simp only [destOk_ok hd, ok_bind, ho]
  rfl

end

/-- Settles O34: each instruction's checks pass in turn, and its body's result sends the operation, keeps the records, or reads the task. -/
theorem taskInstructions : Obligations.TaskInstructions := by
  intro s i t v pop hv
  refine ⟨fun a b time w ps c h ha hb h1 h2 hw hal hps hown hq hcl hc hval => ?_, fun o h ho => ⟨tdone_of_population h ho, tdone_done h ho,
    tdone_sends hv h ho⟩, fun op d a b h ha hb hd => ⟨gate_sends hv h ha hb hd, gate_bounds h ha hb hd⟩, fun d o h hd ho => ?_,
    fun op a b h ha hb => ⟨qpost_bounds h ha hb, fun e hk he hq => qpost_sends hv h ha hb hk he hq⟩⟩
  · have hs : SubmitsRecords s i t a b ps := ⟨ha, hb, h1, h2, ⟨w, hw, hal, hps⟩, hown, hq, hcl, c, hc, hval⟩
    refine ⟨fun hroom => ⟨⟨_, ?_, launchGate_sent hv ..⟩, ⟨_, ?_, launchGate_sent hv ..⟩⟩, fun hfull j hj => ?_⟩
    · rw [exec_tsub, execTsub, submitIssue_ok _ h hs, if_neg (Nat.not_lt.2 hroom)]
    · rw [exec_tsubAt, execTsubAt, submitIssue_ok _ h hs, if_neg (Nat.not_lt.2 hroom)]
    · obtain ⟨o, ho⟩ := keepRecords_parks hv t j (readRecords s ps (low t b).toNat)
      refine ⟨_, o, ?_, ho⟩
      rcases List.mem_pair.1 hj with rfl | rfl
      · rw [exec_tsub, execTsub, submitIssue_ok _ h hs, if_pos hfull]
      · rw [exec_tsubAt, execTsubAt, submitIssue_ok _ h hs, if_pos hfull]
  · refine ⟨(trec_result h hd ho).trans ?_, (trec_result h hd ho).trans ?_, (trec_result h hd ho).trans ?_⟩
    · simp [dataOf, bits]
    · have hhi : o.record.toNat / 2 ^ 128 < 2 ^ 128 := Nat.div_lt_of_lt_mul (by simpa [← Nat.pow_add] using o.record.isLt)
      show Host.Outcome.next (result s i.tid d (dataOf (bits o.record.toNat 128 128))) = _
      rw [dataOf, bits, Nat.mod_eq_of_lt hhi]
    · cases getP s t.owner (i.tid / 16) <;> simp [dataOf]

end Sys2Proof.Machine

namespace Sys2Proof.Machine

/-! ### Gates (20 R302-R305) -/

theorem bits_statusEntry_kind (kind cause code core slot : Nat) (task : DWord) (addr data : Nat) :
    bits (statusEntry kind cause code core slot task addr data).toNat 0 8 = kind % 2 ^ 8 := by
  rw [statusEntry, bits, BitVec.toNat_ofNat, Nat.pow_zero, Nat.div_one, Nat.mod_mod_of_dvd _ (Nat.pow_dvd_pow 2 (by decide))]
  omega

theorem gateCount_setGate (c : Ctx) (g n j : Nat) : gateCount (setGate c g n).1 j = if j = g then n else gateCount c j := by
  unfold setGate gateCount
  split <;> rw [tget_tset] <;> split <;> rfl

theorem setGate_waiting (c : Ctx) (g n : Nat) :
    (setGate c g n).1.waiting = if gateCount c g ≠ 0 ∧ n = 0 then c.waiting.filter (fun w => w.1 != g) else c.waiting := by
  unfold setGate
  split <;> rfl

theorem setGate_released (c : Ctx) (g n : Nat) :
    (setGate c g n).2 = if gateCount c g ≠ 0 ∧ n = 0 then (c.waiting.filter (fun w => w.1 == g)).map Prod.snd else [] := by
  unfold setGate
  split <;> rfl

theorem setGate_status (c : Ctx) (g n : Nat) : (setGate c g n).1.status = c.status ∧ (setGate c g n).1.statusCap = c.statusCap := by
  unfold setGate
  split <;> exact ⟨rfl, rfl⟩

section
variable {id : Nat} {s : State} {o : Machine.GateOp} {c : Ctx}

/-- An operation at its place in gate order has left its gate at n: the context's gates and waiting records are those of `setGate`, and the
records released stay with the operation until its reply. -/
structure GateLeft (s u : State) (id : Nat) (o : Machine.GateOp) (c : Ctx) (n : Nat) (c' : Ctx) : Prop where
  context : getC u o.ctx = some c'
  gates : c'.gates = (setGate c o.g n).1.gates
  waiting : c'.waiting = (setGate c o.g n).1.waiting
  op : ∃ old, tget id u.gates = some { o with applied := true, records := (setGate c o.g n).2, result := old }
  ready : u.ready = s.ready

theorem gateDid_left (n old : Nat) : GateLeft s (gateDid s id o (setGate c o.g n).1 (setGate c o.g n).2 old) id o c n (setGate c o.g n).1 where
  context := getC_setC_same ..
  gates := rfl
  waiting := rfl
  op := ⟨old, tget_tset_same ..⟩
  ready := rfl

/-- A status entry is appended while the queue has room; the gates and the waiting records are as they were. -/
theorem GateLeft.addStatus {u : State} {n : Nat} {c' : Ctx} (h : GateLeft s u id o c n c') (e : BitVec 256) :
    ∃ c'', GateLeft s (addStatus u o.ctx e none) id o c n c'' ∧ (c'.status.length < c'.statusCap → c''.status = c'.status ++ [e]) := by
  obtain ⟨hc, hg, hw, ho, hr⟩ := h
  unfold Machine.addStatus
  rw [hc]
  dsimp only
  split
  · exact ⟨_, ⟨getC_setC_same .., hg, hw, ho, hr⟩, fun _ => rfl⟩
  · next hfull =>
    split
    · exact ⟨_, ⟨getC_setC_same .., hg, hw, ho, hr⟩, fun h => absurd h hfull⟩
    · exact ⟨_, ⟨getC_setC_same .., hg, hw, ho, hr⟩, fun h => absurd h hfull⟩

/-- The operation leaves its gate at n, held in range or not, as the statement puts it. -/
def GateBecomes (id : Nat) (s : State) (o : Machine.GateOp) (c : Ctx) (n : Nat) (held : Bool) : Prop :=
  ∃ u c' p, exec (.gateApply id) s = .next u ∧ getC u o.ctx = some c' ∧ gateCount c' o.g = n ∧
    (∀ g, g ≠ o.g → gateCount c' g = gateCount c g) ∧
    c'.waiting = (if gateCount c o.g ≠ 0 ∧ n = 0 then c.waiting.filter (fun w => w.1 != o.g) else c.waiting) ∧
    tget id u.gates = some p ∧ p.applied = true ∧
    p.records = (if gateCount c o.g ≠ 0 ∧ n = 0 then (c.waiting.filter (fun w => w.1 == o.g)).map Prod.snd else []) ∧ u.ready = s.ready ∧
    (held = false → c'.status = c.status) ∧
    (held = true → c.status.length < c.statusCap → ∃ e, c'.status = c.status ++ [e] ∧ bits e.toNat 0 8 = kGateRange)

theorem GateLeft.becomes {u : State} {n : Nat} {c' : Ctx} {held : Bool} (h : GateLeft s u id o c n c') (hu : exec (.gateApply id) s = .next u)
    (hfree : held = false → c'.status = c.status)
    (hheld : held = true → c.status.length < c.statusCap → ∃ e, c'.status = c.status ++ [e] ∧ bits e.toNat 0 8 = kGateRange) :
    GateBecomes id s o c n held := by
  obtain ⟨hc, hg, hw, ⟨old, ho⟩, hr⟩ := h
  have hcount : ∀ j, gateCount c' j = gateCount (setGate c o.g n).1 j := fun j => by rw [gateCount, gateCount, hg]
  refine ⟨u, c', _, hu, hc, ?_, fun j hj => ?_, hw.trans (setGate_waiting ..), ho, rfl, setGate_released .., hr, hfree, hheld⟩
  · rw [hcount, gateCount_setGate, if_pos rfl]
  · rw [hcount, gateCount_setGate, if_neg hj]

/-- The operation has left for the scheduler and is not yet applied. -/
structure AtGate (id : Nat) (s : State) (o : Machine.GateOp) (c : Ctx) : Prop where
  op : tget id s.gates = some o
  context : getC s o.ctx = some c
  sent : o.sent = true
  waits : o.applied = false

theorem gateSet_becomes {d a b : Reg} (h : AtGate id s o c) (hop : o.op = .gate .set d a b) : GateBecomes id s o c o.v false := by
  refine (gateDid_left o.v (gateCount c o.g)).becomes ?_ (fun _ => (setGate_status ..).1) (fun h => nomatch h)
  simp [exec_gateApply, execGateApply, h.op, h.sent, h.waits, h.context, hop]

/-- A sum held in the range of a gate's count (20 R302). -/
def gateClamp (n : Int) : Nat := if n < 0 then 0 else if 2 ^ 32 - 1 < n then 2 ^ 32 - 1 else n.toNat

theorem addGate_eq (c : Ctx) (g : Nat) (v : Int) :
    addGate c g v = (gateClamp (gateCount c g + v), decide ((gateCount c g + v : Int) < 0 ∨ 2 ^ 32 - 1 < (gateCount c g + v : Int))) := by
  simp only [addGate, gateClamp]
  split
  · simp [*]
  · split
    · next h => rw [decide_eq_true (.inr h)]
    · next h0 h => rw [decide_eq_false (not_or.2 ⟨h0, h⟩)]

/-- A sum's state, before its GATE_RANGE entry. -/
def addedGate (s : State) (id : Nat) (o : Machine.GateOp) (c : Ctx) (v : Int) : State :=
  gateDid s id o (setGate c o.g (addGate c o.g v).1).1 (setGate c o.g (addGate c o.g v).1).2 (gateCount c o.g)

theorem gateApply_add {d a b : Reg} (h : AtGate id s o c) (hop : o.op = .gate .add d a b) : exec (.gateApply id) s =
    .next (if (addGate c o.g (sextZ 32 o.v)).2 then gateRange (addedGate s id o c (sextZ 32 o.v)) o else addedGate s id o c (sextZ 32 o.v)) := by
  simp only [exec_gateApply, execGateApply, h.op, h.sent, h.waits, h.context, hop, Bool.not_true, Bool.false_eq_true, if_false]
  split <;> rfl

theorem gateAdd_becomes {d a b : Reg} (h : AtGate id s o c) (hop : o.op = .gate .add d a b) :
    GateBecomes id s o c (gateClamp (gateCount c o.g + sextZ 32 o.v))
      (decide ((gateCount c o.g + sextZ 32 o.v : Int) < 0 ∨ 2 ^ 32 - 1 < (gateCount c o.g + sextZ 32 o.v : Int))) := by
  have hexec := gateApply_add h hop
  have hleft := gateDid_left (id := id) (s := s) (o := o) (c := c) (addGate c o.g (sextZ 32 o.v)).1 (gateCount c o.g)
  obtain ⟨hstatus, hcap⟩ := setGate_status c o.g (addGate c o.g (sextZ 32 o.v)).1
  change GateLeft s (addedGate s id o c (sextZ 32 o.v)) id o c _ _ at hleft
  simp only [addGate_eq] at hexec hleft hstatus hcap
  by_cases hn : (gateCount c o.g + sextZ 32 o.v : Int) < 0 ∨ 2 ^ 32 - 1 < (gateCount c o.g + sextZ 32 o.v : Int)
  · rw [decide_eq_true hn] at hexec ⊢
    obtain ⟨c', hc', hroom⟩ := hleft.addStatus _
    rw [hstatus, hcap] at hroom
    exact hc'.becomes hexec (fun h => nomatch h) fun _ hlt => ⟨_, hroom hlt, bits_statusEntry_kind ..⟩
  · rw [decide_eq_false hn] at hexec ⊢
    exact hleft.becomes hexec (fun _ => hstatus) fun h => nomatch h

theorem tdone_becomes {w : Owner} (h : AtGate id s o c) (hop : o.op = .tdone) (hw : getO s o.owner = some w) (hd : w.donegDone = false)
    (hpos : 0 < gateCount c o.g) (hlt : gateCount c o.g < 2 ^ 32) : GateBecomes id s o c (gateCount c o.g - 1) false := by
  have hadd : addGate c o.g (-1) = (gateCount c o.g - 1, false) := by
    rw [addGate_eq, gateClamp, if_neg (by omega), if_neg (by omega), decide_eq_false (by omega)]
    exact congrArg (·, false) (by omega)
  have hleft := gateDid_left (id := id) (s := s) (o := o) (c := c) (gateCount c o.g - 1) 0
  have hdone : GateLeft s (setO (gateDid s id o (setGate c o.g (gateCount c o.g - 1)).1 (setGate c o.g (gateCount c o.g - 1)).2 0) o.owner
      { w with donegDone := true }) id o c (gateCount c o.g - 1) (setGate c o.g (gateCount c o.g - 1)).1 :=
    ⟨hleft.context, rfl, rfl, hleft.op, rfl⟩
  refine hdone.becomes ?_ (fun _ => (setGate_status ..).1) fun h => nomatch h
  have hw' : getO (gateDid s id o (setGate c o.g (gateCount c o.g - 1)).1 (setGate c o.g (gateCount c o.g - 1)).2 0) o.owner = some w := hw
  simp only [exec_gateApply, execGateApply, h.op, h.sent, h.waits, h.context, hop, hw, hd, decrementDone, hadd, hw', Bool.not_true,
    Bool.false_eq_true, if_false]

/-! ### Records inserted at a gate -/

/-- The records of some that wait on their gates, each with its gate, and those that do not (20 R305). -/
theorem insertRecords_eq (c : Ctx) (rs : List (BitVec 256)) : insertRecords c rs =
    ({ c with waiting := c.waiting ++ (rs.filter (fun r => recWaitg r != 0 && gateCount c (recWaitg r) != 0)).map (fun r => (recWaitg r, r)) },
      rs.filter (fun r => recWaitg r == 0 || gateCount c (recWaitg r) == 0)) := by
  suffices h : ∀ (d : Ctx) (acc : List (BitVec 256)), d.gates = c.gates → rs.foldl (fun p r =>
      let q := insertRecord p.1 r
      (q.1, p.2 ++ q.2)) (d, acc) =
      ({ d with waiting := d.waiting ++ (rs.filter (fun r => recWaitg r != 0 && gateCount c (recWaitg r) != 0)).map (fun r => (recWaitg r, r)) },
        acc ++ rs.filter (fun r => recWaitg r == 0 || gateCount c (recWaitg r) == 0)) from h c [] rfl
  induction rs with
  | nil => intro d acc _; simp
  | cons r rest ih =>
    intro d acc hd
    have hcount : gateCount d (recWaitg r) = gateCount c (recWaitg r) := by rw [gateCount, gateCount, hd]
    rw [List.foldl_cons]
    by_cases hr : recWaitg r = 0 ∨ gateCount c (recWaitg r) = 0
    · have hin : insertRecord d r = (d, [r]) := by rw [insertRecord, hcount, if_pos hr]
      dsimp only
      rw [hin, ih _ _ hd]
      rcases hr with hr | hr <;> simp [hr]
    · have hin : insertRecord d r = ({ d with waiting := d.waiting ++ [(recWaitg r, r)] }, []) := by rw [insertRecord, hcount, if_neg hr]
      obtain ⟨h0, h1⟩ := not_or.1 hr
      dsimp only
      rw [hin, ih { d with waiting := d.waiting ++ [(recWaitg r, r)] } _ hd]
      simp [h0, h1]

theorem gateApply_tsub {a b : Reg} (h : AtGate id s o c) (hop : o.op = .tsub a b) :
    ∃ u c' p, exec (.gateApply id) s = .next u ∧ getC u o.ctx = some c' ∧ tget id u.gates = some p ∧
      p.records = o.records.filter (fun r => recWaitg r == 0 || gateCount c (recWaitg r) == 0) ∧
      c'.waiting = c.waiting ++ (o.records.filter (fun r => recWaitg r != 0 && gateCount c (recWaitg r) != 0)).map (fun r => (recWaitg r, r)) := by
  have hexec : exec (.gateApply id) s = .next (gateDid s id o (insertRecords c o.records).1 (insertRecords c o.records).2 0) := by
    simp [exec_gateApply, execGateApply, h.op, h.sent, h.waits, h.context, hop]
  rw [insertRecords_eq] at hexec
  exact ⟨_, _, _, hexec, getC_setC_same .., tget_tset_same .., rfl, rfl⟩

theorem gateApply_tsubAt {a b : Reg} {time : DWord} (h : AtGate id s o c) (hop : o.op = .tsubAt a b time) :
    ∃ u, exec (.gateApply id) s = .next u ∧ (time.toNat, Instr.tsubAtInsert id) ∈ u.timed ∧
      getC u o.ctx = some { c with later := c.later + o.records.length } := by
  refine ⟨schedAt (gateDid s id o { c with later := c.later + o.records.length } o.records 0) time.toNat (.tsubAtInsert id), ?_,
    mem_agendaAdd.2 (.inl rfl), getC_setC_same ..⟩
  simp [exec_gateApply, execGateApply, h.op, h.sent, h.waits, h.context, hop]

theorem gateApply_qpost {k : PostOp} {a b : Reg} (h : AtGate id s o c) (hop : o.op = .qpost k a b) : exec (.gateApply id) s =
    .next (sched { s with gates := tset id { o with applied := true } s.gates } s.cycle (.signalUpdate id)) := by
  simp [exec_gateApply, execGateApply, h.op, h.sent, h.waits, h.context, hop]

theorem gateApply_read {d a b : Reg} (h : AtGate id s o c) (hop : o.op = .gate .read d a b) :
    exec (.gateApply id) s = .next (gateDid s id o c [] (gateCount c o.g)) := by
  simp [exec_gateApply, execGateApply, h.op, h.sent, h.waits, h.context, hop]

/-! ### A TSUB that waits for room -/

theorem gateApply_noRoom (ho : tget id s.gates = some o) (hs : o.sent = false) (hfull : 65536 < pendingRecords s o.ctx + o.records.length) :
    exec (.gateApply id) s = .next s := by
  simp [exec_gateApply, execGateApply, ho, hs, sendRecords_, hfull]

theorem gateApply_leaves (ho : tget id s.gates = some o) (hs : o.sent = false) (hw : waitOf s o.tid = some .recordRoom)
    (hroom : pendingRecords s o.ctx + o.records.length ≤ 65536) :
    ∃ u, exec (.gateApply id) s = .next u ∧ waitOf u o.tid = some (.gate id) ∧ tget id u.gates = some { o with sent := true } ∧
      (s.cycle + gateTime (o.tid / 256) / 2, Instr.gateApply id) ∈ u.agenda ∧ (s.cycle + gateTime (o.tid / 256), Instr.gateReply id) ∈ u.agenda ∧
      u.mem = s.mem := by
  obtain ⟨v, hv⟩ := getT_of_waitOf hw
  have hgo : ¬ (65536 < pendingRecords s o.ctx + o.records.length ∨ waitOf s o.tid ≠ some .recordRoom) := by
    rw [hw]
    simpa using hroom
  refine ⟨sendRecords_ s id o, by simp [exec_gateApply, execGateApply, ho, hs], ?_⟩
  rw [sendRecords_, if_neg hgo]
  refine ⟨?_, ?_, ?_, ?_, parkAs_mem ..⟩
  · apply waitOf_parkAs (t := v)
    exact hv
  · rw [parkAs_gates]
    exact tget_tset_same ..
  · rw [parkAs_agenda]
    exact mem_sched.2 (.inr (mem_sched.2 (.inl rfl)))
  · rw [parkAs_agenda]
    exact mem_sched.2 (.inl rfl)

/-! ### The reply, and the insertion of TSUB.AT's records -/

theorem gateReply_gate {k : Sys2Proof.GateOp} {d a b : Reg} (ho : tget id s.gates = some o) (hop : o.op = .gate k d a b)
    (hw : waitOf s o.tid = some (.gate id)) :
    let s1 := setReg { s with gates := tdel id s.gates } o.tid d ⟨.data, BitVec.ofNat 128 o.result⟩
    exec (.gateReply id) s = .next (addReady (retireAnswered (if k = .read then dropAhead s1 o.tid else s1) o.tid) o.ctx o.records) := by
  have hw' : waitOf { s with gates := tdel id s.gates } o.tid = some (.gate id) := hw
  cases k <;> simp [exec_gateReply, execGateReply, ho, hop, gateRetire, hw', dataOf]

theorem gateReply_records {a b : Reg} (ho : tget id s.gates = some o) (hop : o.op = .tdone ∨ o.op = .tsub a b)
    (hw : waitOf s o.tid = some (.gate id)) :
    exec (.gateReply id) s = .next (addReady (retireAnswered { s with gates := tdel id s.gates } o.tid) o.ctx o.records) := by
  have hw' : waitOf { s with gates := tdel id s.gates } o.tid = some (.gate id) := hw
  rcases hop with hop | hop <;> simp [exec_gateReply, execGateReply, ho, hop, gateRetire, hw']

theorem gateReply_tsubAt {a b : Reg} {time : DWord} (ho : tget id s.gates = some o) (hop : o.op = .tsubAt a b time)
    (hw : waitOf s o.tid = some (.gate id)) : exec (.gateReply id) s = .next
      (if o.v = 1 then addReady (retireAnswered { s with gates := tdel id s.gates } o.tid) o.ctx o.records
       else retireAnswered { s with gates := tset id { o with g := 1 } s.gates } o.tid) := by
  have hretire : ∀ u, waitOf u o.tid = some (.gate id) → gateRetire u id o = retireAnswered u o.tid := fun u hu => by simp [gateRetire, hu, hop]
  rw [exec_gateReply, execGateReply, ho]
  dsimp only
  split
  · rw [hretire { s with gates := tdel id s.gates } hw, hretire { s with gates := tset id { o with g := 1 } s.gates } hw]
    split <;> rfl
  · next hne => exact (hne _ _ _ hop).elim

theorem retireAnswered_eq (s : State) (tid : Nat) (v : Thread) (hv : getT (retirePast s tid) tid = some v) : retireAnswered s tid =
    if v.preempt then saveThread (retirePast s tid) tid (allRegs v) else retirePast s tid := by
  simp only [retireAnswered, hv]

end

/-- Settles O35: an operation at its gate leaves it at a count (`GateLeft`), or does what its own lemma says; the reply and the later insertion
are read off their meanings. -/
theorem gateOperations : Obligations.GateOperations := by
  intro id s o c ho hc
  refine ⟨fun hs hw => ⟨gateApply_noRoom ho hs, gateApply_leaves ho hs hw⟩, fun hs ha => ?_, fun _ _ _ _ hop hw => gateReply_gate ho hop hw,
    fun _ _ hop hw => gateReply_records ho hop hw, fun _ _ _ hop hw => gateReply_tsubAt ho hop hw, retireAnswered_eq s o.tid, fun p hp => ?_,
    fun hp hg => ?_⟩
  · have h : AtGate id s o c := ⟨ho, hc, hs, ha⟩
    exact ⟨fun _ _ _ hop => gateSet_becomes h hop, fun _ _ _ hop => gateAdd_becomes h hop, fun _ _ _ hop => gateApply_read h hop,
      fun _ hop hw hd hpos hlt => tdone_becomes h hop hw hd hpos hlt, fun _ _ hop => gateApply_tsub h hop,
      fun _ _ _ hop => gateApply_tsubAt h hop, fun _ _ _ hop => gateApply_qpost h hop⟩
  · simp [exec_tsubAtInsert, execTsubAtInsert, ho, hc, hp]
  · simp [exec_tsubAtInsert, execTsubAtInsert, ho, hc, hp, hg]

end Sys2Proof.Machine

namespace Sys2Proof.Machine

/-! ### Bytes put at an address, and read back -/

theorem foldl_zipIdx_placeBytes (k n : Nat) (bs : List Byte) (m : List Host.Cell) :
    (bs.zipIdx n).foldl (fun m p => memPut (k + p.2) p.1 m) m = placeBytes m (k + n) bs := by
  induction bs generalizing m n with
  | nil => rfl
  | cons b rest ih => rw [List.zipIdx_cons, List.foldl_cons, ih, placeBytes, Nat.add_assoc]

theorem putKeys_mem (s : State) (k : Nat) (bs : List Byte) : (putKeys s k bs).mem = placeBytes s.mem k bs := foldl_zipIdx_placeBytes k 0 bs s.mem

theorem map_nth_range {α : Type} (d : α) (l : List α) : (List.range l.length).map (fun j => nth d j l) = l := by
  refine List.ext_getElem (by simp) fun i h1 h2 => ?_
  rw [List.getElem_map, List.getElem_range, nth_getElem d l i h2]

/-- The bytes at an address just put there are those put. -/
theorem read_placeBytes {m : List Host.Cell} (h : Memory.wf m = true) (k : Nat) (bs : List Byte) :
    (List.range bs.length).map (fun j => memGet (k + j) (placeBytes m k bs)) = bs := by
  refine Eq.trans (List.map_congr_left fun j hj => ?_) (map_nth_range (0 : Byte) bs)
  rw [memGet_placeBytes bs h, if_pos ⟨Nat.le_add_right .., Nat.add_lt_add_left (List.mem_range.1 hj) _⟩, Nat.add_sub_cancel_left]

theorem memGet_placeBytes_outside {m : List Host.Cell} (h : Memory.wf m = true) {k a : Nat} {bs : List Byte} (ha : a < k ∨ k + bs.length ≤ a) :
    memGet a (placeBytes m k bs) = memGet a m := by
  rw [memGet_placeBytes bs h, if_neg (by omega)]

/-! ### Completion signals (23 R347-R349) -/

section
variable {s : State} {ctx k v : Nat} {set_ : Bool} {e : BitVec 256} {c : Ctx}

theorem notify_unarmed (he : sigEntry s ctx k = some e) (ha : sigArmed e = false) : notify s ctx k = s := by
  unfold notify
  split
  · next e' _ he' _ =>
    obtain rfl : e = e' := Option.some.inj (he.symm.trans he')
    simp [ha]
  · rfl

/-- The update of an unarmed signal is the write of its counter. -/
theorem updateSignal_unarmed (he : sigEntry s ctx k = some e) (hp : physExists (sigAddr e) = true) (ha : sigArmed e = false) :
    updateSignal s ctx k set_ v = clearPoison (putKeys s (sigAddr e) (toBytes 8 (if set_ then v else (counterOf s e + v) % 2 ^ 64)))
      ((List.range 8).map (fun j => Place.phys (sigAddr e + j))) := by
  simp only [updateSignal, he, if_pos hp]
  refine notify_unarmed ?_ ha
  rw [← he, sigEntry, sigEntry, getC_congr]
  unfold clearPoison
  split <;> rfl

theorem bits_one_false {x k : Nat} : ((bits x k 1 == 1) = false) ↔ x / 2 ^ k % 2 = 0 := by
  rw [bits, beq_eq_false_iff_ne]
  omega

theorem bits_one_true {x k : Nat} : ((bits x k 1 == 1) = true) ↔ x / 2 ^ k % 2 = 1 := by
  rw [bits, beq_iff_eq, Nat.pow_one]

/-- An armed valid entry with its armed bit taken away is valid and not armed. -/
theorem disarmed_entry (ha : sigArmed e = true) (hv : sigValid e = true) :
    sigArmed (BitVec.ofNat 256 (e.toNat - 2 ^ 205)) = false ∧ sigValid (BitVec.ofNat 256 (e.toNat - 2 ^ 205)) = true := by
  have hlt := e.isLt
  rw [sigArmed, bits_one_true] at ha
  rw [sigValid, bits_one_true] at hv
  have hsub : (BitVec.ofNat 256 (e.toNat - 2 ^ 205)).toNat = e.toNat - 2 ^ 205 := by
    rw [BitVec.toNat_ofNat]
    exact Nat.mod_eq_of_lt (Nat.lt_of_le_of_lt (Nat.sub_le ..) hlt)
  rw [sigArmed, sigValid, bits_one_false, bits_one_true, hsub]
  constructor <;> omega

theorem sigEntry_valid (he : sigEntry s ctx k = some e) : sigValid e = true := by
  unfold sigEntry at he
  split at he
  · cases he
  · split at he
    · split at he
      · next hv => exact Option.some.inj he ▸ hv
      · cases he
    · cases he

theorem notify_msix (he : sigEntry s ctx k = some e) (hc : getC s ctx = some c) (ha : sigArmed e = true)
    (hm : if sigCond e then sigTarget e ≤ counterOf s e else counterOf s e ≤ sigTarget e) (hd : sigNdesc e = 0) :
    notify s ctx k = sendMsix (setC s ctx { c with signals := tset k (BitVec.ofNat 256 (e.toNat - 2 ^ 205)) c.signals }) (sigVec e) := by
  unfold notify
  rw [he, hc]
  dsimp only
  rw [if_pos ⟨ha, hm⟩, if_pos hd]

/-- A message of a vector that is not masked is sent, if there is that vector. -/
theorem sendMsix_sent (s : State) (vec : Nat) (hm : ((tget (vec * 16 + 12) s.dev.msix).getD 0).toNat % 2 = 0) :
    (sendMsix s vec).ctxs = s.ctxs ∧ (sendMsix s vec).mem = s.mem ∧
      (sendMsix s vec).dev.sent = s.dev.sent ++ if vec < 2048 then [(2 ^ 64 + vec, 0)] else [] := by
  unfold sendMsix maskedVec
  rw [hm]
  split
  · next h => simp [Nat.not_lt.2 h]
  · next h => simp [Nat.not_le.1 h]

theorem signalEntryWrite_unarmed (hr : s.dev.ready = true) (hk : k < 65536) (hc : getC s ctx = some c) (he : e.getLsbD 205 = false) :
    exec (.signalEntryWrite ctx k e) s = .next (setC s ctx { c with signals := tset k (BitVec.ofNat 256 (e.toNat % 2 ^ 207)) c.signals }) := by
  have hu : sigArmed (BitVec.ofNat 256 (e.toNat % 2 ^ 207)) = false := by
    have hbit : e.toNat / 2 ^ 205 % 2 = 0 := by
      rw [BitVec.getLsbD, Nat.testBit_eq_decide_div_mod_eq] at he
      have := of_decide_eq_false he
      omega
    rw [sigArmed, bits_one_false, BitVec.toNat_ofNat]
    omega
  rw [exec_signalEntryWrite, execSignalEntryWrite, if_pos ⟨hr, hk⟩, writeSignal, hc]
  dsimp only
  rw [hu, if_neg fun h => nomatch h.2]
end

/-- Settles O36: an unarmed update is the write of the counter, read back; an armed entry's condition sends its message; the rest is read off the
meanings. -/
theorem signalUpdates : Obligations.SignalUpdates := by
  refine ⟨fun s ctx k v set_ e hwf he hp ha => ?_, fun id s o k a b ho hop => ⟨?_, fun hw => ?_⟩, fun s ctx k e c he hc ha hm hd hv => ?_,
    fun ctx k e s c hr hk hc he => signalEntryWrite_unarmed hr hk hc he⟩
  · rw [updateSignal_unarmed he hp ha]
    generalize hn : (if set_ then v else (counterOf s e + v) % 2 ^ 64) = n
    have hmem := (clearPoison_mem (putKeys s (sigAddr e) (toBytes 8 n)) ((List.range 8).map (fun j => Place.phys (sigAddr e + j)))).trans
      (putKeys_mem ..)
    have hlen := length_toBytes 8 n
    refine ⟨?_, fun a ha => ?_, ?_⟩
    · have hread := read_placeBytes hwf (sigAddr e) (toBytes 8 n)
      rw [hlen] at hread
      rw [hmem, hread, leNat_toBytes, ← hn]
      cases set_ <;> simp
    · rw [hmem]
      exact memGet_placeBytes_outside hwf (by rwa [hlen])
    · unfold clearPoison
      split <;> rfl
  · rw [exec_signalUpdate, execSignalUpdate, ho]
    simp only [hop]
  · simp only [exec_qpostAcknowledgement, execQpostAcknowledgement, ho]
    exact if_pos hw
  · obtain ⟨hctx, hmem, hsent⟩ := sendMsix_sent
      (setC s ctx { c with signals := tset k (BitVec.ofNat 256 (e.toNat - 2 ^ 205)) c.signals }) (sigVec e) hv
    obtain ⟨harm, hvalid⟩ := disarmed_entry ha (sigEntry_valid he)
    rw [notify_msix he hc ha hm hd]
    exact ⟨_, _, (getC_congr hctx ctx).trans (getC_setC_same ..), tget_tset_same .., harm, hvalid, hsent, hmem⟩

end Sys2Proof.Machine

namespace Sys2Proof.Machine

/-! ### Firmware, measurements and attestation (21 R333, 23 R352-R354) -/

theorem OnlyEvents.dev {s u : State} (h : OnlyEvents s u) : u.dev = s.dev := by
  obtain ⟨a, rfl⟩ := h
  rfl

theorem kickPool_onlyEvents (s : State) (pool : Nat) : OnlyEvents s (kickPool s pool) := OnlyEvents.foldl (fun u _ => schedOnce_onlyEvents u ..) ..

theorem resumeDispatch_onlyEvents (s : State) : OnlyEvents s (resumeDispatch s) := by
  have hkicked : OnlyEvents s (if s.ready.isEmpty then s else (List.range 16).foldl kickPool s) := by
    split
    · exact .refl s
    · exact OnlyEvents.foldl kickPool_onlyEvents ..
  exact hkicked.trans (OnlyEvents.foldl (fun u _ => schedOnce_onlyEvents u ..) ..)

theorem endActivation_dev (s : State) (img : FwImage) : (endActivation s (some img)).dev =
    (runImage { s with dev := { s.dev with activation := none, activating := false } } img).dev := by
  rw [endActivation, (resumeDispatch_onlyEvents _).dev]

section
variable {s : State} {img : FwImage} {reply : Nat}

theorem firmwareActivation_refused (h : s.dev.ready = false ∨ s.dev.activation.isSome = true ∨ imageOk s.dev img = false) :
    exec (.firmwareActivation ⟨img, reply⟩) s = .next s := by
  rw [exec_firmwareActivation, execFirmwareActivation, if_pos (by simpa using h)]

theorem firmwareActivation_begins (hr : s.dev.ready = true) (ha : s.dev.activation = none) (hi : imageOk s.dev img = true) :
    exec (.firmwareActivation ⟨img, reply⟩) s = .next (activationStep ((s.owners.map Prod.fst).foldl requestPreempt
      { s with dev := { s.dev with activation := some ⟨img, false, reply⟩, activating := true } })) := by
  rw [exec_firmwareActivation, execFirmwareActivation, if_neg (by simp [hr, ha, hi])]

/-- With no task and no population the image runs at once. -/
theorem activationStep_alone {a : Activation} (ha : s.dev.activation = some a) (hf : a.forced = false) (ho : s.owners = []) :
    activationStep s = endActivation s (some a.img) := by
  simp [activationStep, ha, hf, ho, unrestorable]

/-- What an attestation signs: the nonce, the measurements and the versions (23 R354). -/
def attestation (nonce : List Byte) (s : State) (i : FwImage) : List Byte :=
  nonce ++ (s.dev.meas.map (fun m => toBytes 48 m.toNat)).flatten ++ toBytes 4 (fwVersion i) ++ toBytes 4 (fwSvn i) ++ toBytes 2 (fwLayout i) ++
    toBytes 2 (fwPrevLayout i) ++ toBytes 8 s.dev.serialNo

theorem attestationRequest_replies {nonce : List Byte} {i : FwImage} (hi : s.dev.running = some i) (hn : nonce.length = 32) :
    exec (.attestationRequest ⟨nonce, reply⟩) s = .next (replyTo s reply (attestation nonce s i ++
      Config.ecdsaSign s.dev.deviceKey (Config.sha384 (attestation nonce s i)))) := by
  rw [exec_attestationRequest, execAttestationRequest, hi]
  dsimp only
  rw [if_neg (by simp [hn])]
  rfl

theorem length_measurements (hm : s.dev.meas.length = 8) : ((s.dev.meas.map (fun m => toBytes 48 m.toNat)).flatten).length = 384 := by
  simp [List.length_flatten, Function.comp_def, length_toBytes, hm]

theorem attestation_layout {nonce : List Byte} {i : FwImage} (hn : nonce.length = 32) (hm : s.dev.meas.length = 8) :
    (attestation nonce s i).length = 436 ∧ (attestation nonce s i).take 32 = nonce ∧
      (∀ k < 8, ((attestation nonce s i).drop (32 + 48 * k)).take 48 = toBytes 48 (nth 0 k s.dev.meas).toNat) ∧
      (attestation nonce s i).drop 416 = toBytes 4 (fwVersion i) ++ toBytes 4 (fwSvn i) ++ toBytes 2 (fwLayout i) ++ toBytes 2 (fwPrevLayout i) ++
        toBytes 8 s.dev.serialNo := by
  have hlen := length_measurements hm
  have hassoc : attestation nonce s i = nonce ++ ((s.dev.meas.map (fun m => toBytes 48 m.toNat)).flatten ++
      (toBytes 4 (fwVersion i) ++ toBytes 4 (fwSvn i) ++ toBytes 2 (fwLayout i) ++ toBytes 2 (fwPrevLayout i) ++ toBytes 8 s.dev.serialNo)) := by
    simp only [attestation, List.append_assoc]
  rw [hassoc]
  refine ⟨by simp [hn, hlen, length_toBytes], by rw [← hn, List.take_left], fun k hk => ?_, ?_⟩
  · rw [← List.drop_drop, ← hn, List.drop_left, piece_flatten (fun m : BitVec 384 => length_toBytes 48 m.toNat) _ _ _ (hm ▸ hk),
      nth_getElem _ _ _ (hm ▸ hk)]
  · rw [show 416 = 32 + 384 from rfl, ← List.drop_drop, ← hn, List.drop_left, List.drop_left' hlen]
end

/-- Settles O47: the requests' guards are the statement's; what an attestation signs stands in the order of R354. -/
theorem firmwareAndMeasurements : Obligations.FirmwareAndMeasurements := by
  refine ⟨fun img reply s => ⟨firmwareActivation_refused, fun hr ha hi => ⟨firmwareActivation_begins hr ha hi, fun ho => ?_⟩⟩, fun s =>
    ⟨fun ha => ?_, fun a ha => ?_, fun hi => ?_, fun i hi => ?_⟩, fun nonce reply s i hi hn hm => ?_, fun k digest s => ⟨fun hr h4 h8 hd => ?_, fun hk => ?_⟩⟩
  · have hexec := firmwareActivation_begins (reply := reply) hr ha hi
    rw [show s.owners.map Prod.fst = [] by rw [ho, List.map_nil], List.foldl_nil] at hexec
    refine ⟨_, hexec.trans (congrArg _ (activationStep_alone (a := ⟨img, false, reply⟩) rfl rfl ho)), ?_⟩
    rw [endActivation_dev]
    exact ⟨rfl, rfl, rfl, rfl⟩
  · rw [exec_forcedActivation, execForcedActivation, ha]
  · rw [exec_forcedActivation, execForcedActivation, ha]
  · rw [exec_svnRaise, execSvnRaise, hi]
  · rw [exec_svnRaise, execSvnRaise, hi]
  · obtain ⟨hdev, hmem, -, -⟩ := replyTo_spec s reply
      (attestation nonce s i ++ Config.ecdsaSign s.dev.deviceKey (Config.sha384 (attestation nonce s i)))
    refine ⟨attestation nonce s i, _, attestationRequest_replies hi hn, ⟨by rw [hdev], fun hp hh => hmem.trans (if_pos ⟨hp, hh⟩)⟩,
      attestation_layout hn hm⟩
  · rw [exec_measurementExtend, execMeasurementExtend, if_pos ⟨hr, h4, h8, hd⟩]
    rfl
  · rw [exec_measurementExtend, execMeasurementExtend, if_neg (by omega)]

end Sys2Proof.Machine

namespace Sys2Proof.Machine

/-! ### Mailboxes (23 R343, R346) -/

section
variable {s : State} {k : Nat} {bytes : List Byte}

theorem mailboxMessage_files (hk : k < 8) (hb : bytes.length = 64) (hf : mailboxFull s k = false) :
    exec (.mailboxMessage k bytes) s = .next (drainMailbox (fileMessage s k bytes) k) := by
  rw [exec_mailboxMessage, execMailboxMessage, if_neg (by omega), hf, if_neg (by decide)]

theorem mailboxMessage_waits (hk : k < 8) (hb : bytes.length = 64) (hf : mailboxFull s k = true) : exec (.mailboxMessage k bytes) s =
    .next (drainMailbox { s with dev := { s.dev with mailWait := s.dev.mailWait ++ [(k, bytes)] } } k) := by
  rw [exec_mailboxMessage, execMailboxMessage, if_neg (by omega), if_pos hf]

theorem hostMailboxWrite_files (hb : bytes.length = 64) (hf : mailboxFull s 7 = false) :
    exec (.hostMailboxWrite bytes) s = .next (drainMailbox (fileMessage s 7 bytes) 7) := by
  rw [exec_hostMailboxWrite, execHostMailboxWrite, if_neg (by omega), hf, if_neg (by decide)]

theorem hostMailboxWrite_lost (hb : bytes.length = 64) (hf : mailboxFull s 7 = true) : exec (.hostMailboxWrite bytes) s =
    .next (drainMailbox { s with dev := { s.dev with mblost := if s.dev.mblost = 0xFFFF then 0xFFFF else s.dev.mblost + 1 } } 7) := by
  rw [exec_hostMailboxWrite, execHostMailboxWrite, if_neg (by omega), if_pos hf]

theorem fileMessage_box (hk : k < s.dev.mailboxes.length) :
    nth [] k (fileMessage s k bytes).dev.mailboxes = nth [] k s.dev.mailboxes ++ [bytes] := nth_setNth _ _ _ _ hk

/-- The messages that wait for a mailbox, oldest first. -/
def mailWaiting (s : State) (k : Nat) : List (List Byte) := (s.dev.mailWait.filter (fun m => m.1 == k)).map Prod.snd

theorem mailWaiting_after (l : List (Nat × List Byte)) (k : Nat) (rest : List (List Byte)) :
    ((l.filter (fun m => m.1 != k) ++ rest.map (fun b => (k, b))).filter (fun m => m.1 == k)).map Prod.snd = rest := by
  rw [List.filter_append, List.filter_filter]
  have hnone : l.filter (fun m => m.1 == k && m.1 != k) = [] := List.filter_eq_nil_iff.2 fun m _ => by simp
  have hall : (rest.map (fun b => (k, b))).filter (fun m => m.1 == k) = rest.map (fun b => (k, b)) := List.filter_eq_self.2 (by simp)
  rw [hnone, hall, List.nil_append, List.map_map]
  exact List.map_id' rest

/-- A mailbox's oldest messages are taken, and those that waited move in behind the rest while there is room. -/
theorem drainMailbox_spec (hk : k < s.dev.mailboxes.length) :
    ∃ n moved, nth [] k (drainMailbox s k).dev.mailboxes = (nth [] k s.dev.mailboxes).drop n ++ moved ∧
      mailWaiting s k = moved ++ mailWaiting (drainMailbox s k) k ∧
      (moved ≠ [] → (nth [] k (drainMailbox s k).dev.mailboxes).length ≤ 32) ∧
      (∀ j, j ≠ k → nth [] j (drainMailbox s k).dev.mailboxes = nth [] j s.dev.mailboxes) ∧ (drainMailbox s k).dev.mblost = s.dev.mblost := by
  generalize hl : (nth [] k s.dev.mailboxes).drop (drawUpTo s (nth [] k s.dev.mailboxes).length) = left
  generalize hm : (mailWaiting s k).take (32 - left.length) = moved
  have hbox : nth [] k (drainMailbox s k).dev.mailboxes = left ++ moved := by
    rw [← hm, ← hl]
    exact nth_setNth _ _ _ _ hk
  have hwait : mailWaiting (drainMailbox s k) k = (mailWaiting s k).drop moved.length := by
    rw [← hm, ← hl]
    exact mailWaiting_after ..
  refine ⟨drawUpTo s (nth [] k s.dev.mailboxes).length, moved, by rw [hbox, hl], ?_, fun hne => ?_, fun j hj => nth_setNth_ne _ _ _ _ _ hj, rfl⟩
  · rw [hwait, ← hm]
    exact (List.prefix_iff_eq_append.1 (List.take_prefix ..)).symm
  · rw [hbox, List.length_append]
    have : moved.length ≤ 32 - left.length := hm ▸ List.length_take_le ..
    have : moved.length ≠ 0 := fun h => hne (List.length_eq_zero_iff.1 h)
    omega
end

/-! ### Writes of a BAR (23 R342, R344) -/

section
variable {s : State} {bar off : Nat} {bs : List Byte}

/-- A write within a block is one write of that block. -/
theorem barWrite_one (hb : bs ≠ []) (hfit : off % blockSize bar + bs.length ≤ blockSize bar) : barWrite s bar off bs = writeBlock s bar off bs := by
  have hlen := List.length_pos_iff.2 hb
  have hone : ceilDiv (off % blockSize bar + bs.length) (blockSize bar) = 1 := by
    rw [ceilDiv, Nat.div_eq_iff (by omega)]
    omega
  unfold barWrite
  dsimp only
  rw [hone]
  simp only [List.range_one, List.foldl_cons, List.foldl_nil, if_true, List.drop_zero]
  rw [List.take_of_length_le (by omega)]

/-- Where the b-th block of a write begins: the offset of the write, or the bytes of the blocks before it further. -/
theorem blockStart {n : Nat} (hn : 0 < n) (off b : Nat) : (if b = 0 then off else off / n * n + b * n) = off + (b * n - off % n) := by
  have hdiv := Nat.div_add_mod' off n
  have hmod := Nat.mod_lt off hn
  split
  · next h => simp [h]
  · next h =>
    have : n ≤ b * n := Nat.le_mul_of_pos_left n (Nat.pos_of_ne_zero h)
    omega

theorem block_within {n b : Nat} (hn : 0 < n) (hb : bs ≠ []) (h : b < ceilDiv (off % n + bs.length) n) : b * n - off % n < bs.length := by
  have hlen := List.length_pos_iff.2 hb
  rw [ceilDiv, Nat.lt_div_iff_mul_lt hn] at h
  omega

theorem blockSize_pos (bar : Nat) : 0 < blockSize bar := by
  unfold blockSize
  split <;> decide

/-- A write none of whose bytes begins a write that has an effect has none. -/
theorem barWrite_noop (hb : bs ≠ []) (h : ∀ k < bs.length, ∀ cs, writeBlock s bar (off + k) cs = s) : barWrite s bar off bs = s := by
  unfold barWrite
  dsimp only
  refine List.foldlRecOn (motive := fun u => u = s) _ _ rfl fun u hu b hmem => ?_
  rw [hu, blockStart (blockSize_pos bar)]
  exact h _ (block_within (blockSize_pos bar) hb (List.mem_range.1 hmem)) _

/-- What the blocks of a write write, one after another: each from where the one before it ended. -/
theorem barWrite_blocks : barWrite s bar off bs = (List.range (ceilDiv (off % blockSize bar + bs.length) (blockSize bar))).foldl (fun u b =>
    writeBlock u bar (off + (b * blockSize bar - off % blockSize bar)) ((bs.drop (b * blockSize bar - off % blockSize bar)).take
      ((b + 1) * blockSize bar - off % blockSize bar - (b * blockSize bar - off % blockSize bar)))) s := by
  have hn := blockSize_pos bar
  have hmod := Nat.mod_lt off hn
  unfold barWrite
  dsimp only
  congr 1
  funext u b
  rw [blockStart hn]
  have hfrom : (if b = 0 then 0 else b * blockSize bar - off % blockSize bar) = b * blockSize bar - off % blockSize bar := by
    split <;> simp [*]
  have hcount : (if b = 0 then blockSize bar - off % blockSize bar else blockSize bar) =
      (b + 1) * blockSize bar - off % blockSize bar - (b * blockSize bar - off % blockSize bar) := by
    rw [Nat.succ_mul]
    split
    · next h => simp [h]
    · next h =>
      have : blockSize bar ≤ b * blockSize bar := Nat.le_mul_of_pos_left _ (Nat.pos_of_ne_zero h)
      omega
  rw [hfrom, hcount]

/-! ### The MSI-X table -/

theorem tget_foldl_tset (lo n x : Nat) (bs : List Byte) (l : List (Nat × Byte)) :
    tget x ((bs.zipIdx n).foldl (fun t b => tset (lo + b.2) b.1 t) l) =
      if lo + n ≤ x ∧ x < lo + n + bs.length then some (nth 0 (x - (lo + n)) bs) else tget x l := by
  induction bs generalizing l n with
  | nil => simp
  | cons b rest ih =>
    rw [List.zipIdx_cons, List.foldl_cons, ih, tget_tset, List.length_cons]
    dsimp only
    by_cases hx : x = lo + n
    · subst hx
      rw [if_neg (by omega), if_pos rfl, if_pos (by omega), Nat.sub_self]
      rfl
    · rw [if_neg hx]
      by_cases hin : lo + (n + 1) ≤ x ∧ x < lo + (n + 1) + rest.length
      · rw [if_pos hin, if_pos (by omega), show x - (lo + n) = x - (lo + (n + 1)) + 1 by omega]
        rfl
      · rw [if_neg hin, if_neg (by omega)]

theorem writeMsix_entry (s : State) (lo x : Nat) (bs : List Byte) :
    tget x (writeMsix s lo bs).dev.msix = if lo ≤ x ∧ x < lo + bs.length then some (nth 0 (x - lo) bs) else tget x s.dev.msix :=
  tget_foldl_tset lo 0 x bs s.dev.msix

/-- A write of the MSI-X table has written its bytes below some count of them. -/
structure MsixWritten (s : State) (lo : Nat) (bs : List Byte) (n : Nat) (u : State) : Prop where
  ready : u.dev.ready = true
  entry : ∀ x, tget x u.dev.msix = if lo ≤ x ∧ x < lo + min n bs.length then some (nth 0 (x - lo) bs) else tget x s.dev.msix

theorem nth_past {α : Type} (d : α) (l : List α) (k : Nat) (h : l.length ≤ k) : nth d k l = d := by
  induction l generalizing k with
  | nil => cases k <;> rfl
  | cons x xs ih =>
    obtain ⟨k, rfl⟩ := Nat.exists_eq_succ_of_ne_zero (show k ≠ 0 by simp at h; omega)
    exact ih k (by simpa using h)

theorem nth_drop_take (bs : List Byte) (a n i : Nat) (h : i < n) : nth 0 i ((bs.drop a).take n) = nth 0 (a + i) bs := by
  by_cases hin : a + i < bs.length
  · have htook : i < ((bs.drop a).take n).length := by rw [List.length_take, List.length_drop]; omega
    rw [nth_getElem _ _ _ hin, nth_getElem _ _ _ htook, List.getElem_take, List.getElem_drop]
  · have htook : ((bs.drop a).take n).length ≤ i := by rw [List.length_take, List.length_drop]; omega
    rw [nth_past _ _ _ (Nat.le_of_not_lt hin), nth_past _ _ _ htook]

theorem writeBlock_msix {u : State} (hr : u.dev.ready = true) (hlo : 0xE0000 ≤ off) (hhi : off < 0xE8000) (cs : List Byte) :
    writeBlock u 0 off cs = writeMsix u (off - 0xE0000) cs := by
  have hbyte : barByte 0 off = some (.msix (off - 0xE0000)) := by
    rw [barByte, if_pos rfl, if_neg (by omega), if_neg (by omega), if_neg (by omega), if_pos (by omega)]
  simp only [writeBlock, hbyte, hr]
  rfl

/-- The next bytes written, from where those before them ended. -/
theorem MsixWritten.more {u : State} {lo a m : Nat} (h : MsixWritten s lo bs a u) (ha : a < bs.length) (hm : a ≤ m) :
    MsixWritten s lo bs m (writeMsix u (lo + a) ((bs.drop a).take (m - a))) where
  ready := h.ready
  entry x := by
    have hlen : ((bs.drop a).take (m - a)).length = min m bs.length - a := by simp; omega
    rw [writeMsix_entry, hlen, h.entry]
    by_cases hx : lo + a ≤ x ∧ x < lo + a + (min m bs.length - a)
    · rw [if_pos hx, if_pos (by omega), nth_drop_take _ _ _ _ (by omega), show a + (x - (lo + a)) = x - lo by omega]
    · rw [if_neg hx]
      by_cases hy : lo ≤ x ∧ x < lo + min a bs.length
      · rw [if_pos hy, if_pos (by omega)]
      · rw [if_neg hy, if_neg (by omega)]

theorem barWrite_msix (hr : s.dev.ready = true) (hb : bs ≠ []) (hlo : 0xE0000 ≤ off) (hhi : off + bs.length ≤ 0xE0000 + 32768) :
    MsixWritten s (off - 0xE0000) bs bs.length (barWrite s 0 off bs) := by
  have hmod := Nat.mod_lt off (blockSize_pos 0)
  have hlen := List.length_pos_iff.2 hb
  have hblocks : ∀ B ≤ ceilDiv (off % blockSize 0 + bs.length) (blockSize 0), MsixWritten s (off - 0xE0000) bs (B * blockSize 0 - off % blockSize 0)
      ((List.range B).foldl (fun u b => writeBlock u 0 (off + (b * blockSize 0 - off % blockSize 0))
        ((bs.drop (b * blockSize 0 - off % blockSize 0)).take
          ((b + 1) * blockSize 0 - off % blockSize 0 - (b * blockSize 0 - off % blockSize 0)))) s) := by
    intro B
    induction B with
    | zero => exact fun _ => ⟨hr, fun x => by rw [if_neg (by simp)]; rfl⟩
    | succ B ih =>
      intro hB
      have hbefore := ih (by omega)
      have hin := block_within (blockSize_pos 0) hb (show B < ceilDiv (off % blockSize 0 + bs.length) (blockSize 0) by omega)
      rw [List.range_succ, List.foldl_append, List.foldl_cons, List.foldl_nil, writeBlock_msix hbefore.ready (by omega) (by omega),
        show off + (B * blockSize 0 - off % blockSize 0) - 0xE0000 = off - 0xE0000 + (B * blockSize 0 - off % blockSize 0) by omega]
      exact hbefore.more hin (by rw [Nat.succ_mul]; omega)
  have hall := hblocks _ (le_refl _)
  have hend : bs.length ≤ ceilDiv (off % blockSize 0 + bs.length) (blockSize 0) * blockSize 0 - off % blockSize 0 := by
    have : off % blockSize 0 + bs.length ≤ ceilDiv (off % blockSize 0 + bs.length) (blockSize 0) * blockSize 0 := by
      show _ ≤ (_ + 64 - 1) / 64 * 64
      omega
    omega
  rw [barWrite_blocks]
  exact ⟨hall.ready, fun x => by rw [hall.entry, Nat.min_eq_right hend, Nat.min_self]⟩

end

end Sys2Proof.Machine

namespace Sys2Proof.Machine

/-! ### What a BAR answers and does (23 R342, R344) -/

section
variable {s : State} {bar off : Nat}

theorem barReads_devStatus {k : Nat} (hk : k < 8) : barReads s 0 (0xC0000 + k) = byteOf (devStatus s).toNat k := by
  have hbyte : barByte 0 (0xC0000 + k) = some (.devStatus k) := by
    rw [barByte, if_pos rfl, if_neg (by omega), if_pos (by omega), Nat.add_sub_cancel_left]
  rw [barReads, hbyte]

theorem barReads_none (h : barByte bar off = none) : barReads s bar off = 0 := by
  rw [barReads, h]

theorem barByte_devStatus {k : Nat} (h : barByte bar off = some (.devStatus k)) : bar = 0 ∧ 0xC0000 ≤ off ∧ off < 0xC0008 := by
  unfold barByte at h
  split at h
  · next hbar =>
    split at h
    · split at h <;> simp at h
    · split at h
      · next hoff => exact ⟨hbar, hoff⟩
      · split at h
        · simp at h
        · split at h
          · simp at h
          · split at h <;> simp at h
  · split at h <;> simp at h

theorem barReads_not_ready (hr : s.dev.ready = false) (h : bar ≠ 0 ∨ off < 0xC0000 ∨ 0xC0008 ≤ off) : barReads s bar off = 0 := by
  unfold barReads
  split
  · next k hb =>
    obtain ⟨hbar, hlo, hhi⟩ := barByte_devStatus hb
    omega
  · rw [hr]
    rfl
  · rfl

/-- The byte of a queue's block at an offset. -/
theorem barByte_queue {ctx q k : Nat} (hctx : ctx < 64) (hq : q < 16) (hk : k < 64) :
    barByte 0 (ctx * 0x1000 + q * 0x40 + k) = some (.queue ctx q k) := by
  have h1 : (ctx * 0x1000 + q * 0x40 + k) / 0x1000 = ctx := by omega
  have h2 : (ctx * 0x1000 + q * 0x40 + k) % 0x1000 / 0x40 = q := by omega
  have h3 : (ctx * 0x1000 + q * 0x40 + k) % 0x40 = k := by omega
  rw [barByte, if_pos rfl, if_pos (by omega), if_pos (by omega), h1, h2, h3]

theorem barReads_queue {ctx q k : Nat} (hr : s.dev.ready = true) (hctx : ctx < 64) (hq : q < 16) (hk : k < 64) :
    barReads s 0 (ctx * 0x1000 + q * 0x40 + k) = byteOf (queueBlock s ctx q) k := by
  rw [barReads, barByte_queue hctx hq hk]
  simp only [hr]
  rfl

/-- A byte below a word's width is not touched by what stands above it. -/
theorem byteOf_low {n m j k : Nat} (hk : 8 * k + 8 ≤ j) : byteOf (n + m * 2 ^ j) k = byteOf n k := by
  obtain ⟨i, rfl⟩ : ∃ i, j = 8 * k + (8 + i) := ⟨j - (8 * k + 8), by omega⟩
  refine BitVec.eq_of_toNat_eq ?_
  simp only [byteOf, BitVec.toNat_ofNat]
  rw [Nat.pow_add 2 (8 * k), Nat.pow_add 2 8, show n + m * (2 ^ (8 * k) * (2 ^ 8 * 2 ^ i)) = n + 2 ^ (8 * k) * (m * 2 ^ i * 2 ^ 8) by ring,
    Nat.add_mul_div_left _ _ (Nat.two_pow_pos _), Nat.add_mul_mod_self_right]

theorem byteOf_high (n m j k : Nat) (hn : n < 2 ^ (8 * j)) : byteOf (n + m * 2 ^ (8 * j)) (j + k) = byteOf m k := by
  simp only [byteOf]
  rw [Nat.mul_add, Nat.pow_add, ← Nat.div_div_eq_div_mul, Nat.add_mul_div_right _ _ (Nat.two_pow_pos _), Nat.div_eq_of_lt hn, Nat.zero_add]

theorem queueBlock_wptr {ctx q k : Nat} {v : Queue} (hv : queueOf s ctx q = some v) (hk : k < 4) :
    byteOf (queueBlock s ctx q) k = byteOf v.wptr.toNat k := by
  rw [queueBlock, hv]
  exact (byteOf_low (by omega)).trans (byteOf_low (by omega))

theorem queueBlock_rptr {ctx q k : Nat} {v : Queue} (hv : queueOf s ctx q = some v) (hk : k < 4) :
    byteOf (queueBlock s ctx q) (8 + k) = byteOf v.rptr.toNat k := by
  rw [queueBlock, hv]
  have hw : v.wptr.toNat < 2 ^ (8 * 8) := lt_of_lt_of_le v.wptr.isLt (by decide)
  calc byteOf (v.wptr.toNat + v.rptr.toNat * 2 ^ 64 + v.state * 2 ^ 128) (8 + k)
      = byteOf (v.wptr.toNat + (v.rptr.toNat + v.state * 2 ^ 64) * 2 ^ (8 * 8)) (8 + k) := by congr 1; ring
    _ = byteOf (v.rptr.toNat + v.state * 2 ^ 64) k := byteOf_high _ _ _ _ hw
    _ = byteOf v.rptr.toNat k := byteOf_low (by omega)

theorem writeBlock_none (h : barByte bar off = none) (bs : List Byte) : writeBlock s bar off bs = s := by
  rw [writeBlock, h]

theorem writeBlock_not_ready (hr : s.dev.ready = false) (h : barByte bar off ≠ some (.mailbox 0)) (bs : List Byte) :
    writeBlock s bar off bs = s := by
  unfold writeBlock
  split
  · next k hb =>
    split
    · next hk =>
      rw [hk] at hb
      exact absurd hb h
    · rfl
  · rw [hr]
    rfl
  · rfl

theorem barWrite_mailbox {bs : List Byte} (hb : bs.length = 64) : barWrite s 0 0xC1000 bs = after s (execHostMailboxWrite bs s) := by
  have hne : bs ≠ [] := by rintro rfl; simp at hb
  rw [barWrite_one hne (by rw [hb]; decide)]
  rfl

theorem after_next (t u : State) : after t (.next u) = u := rfl

theorem execHostMailboxWrite_next (bs : List Byte) (s : State) : Host.Outcome.next (after s (execHostMailboxWrite bs s)) = execHostMailboxWrite bs s := by
  unfold execHostMailboxWrite
  split
  · rfl
  · split <;> rfl

theorem execWptr_next (ctx q : Nat) (w : Word) (s : State) : Host.Outcome.next (after s (execWptr ctx q w s)) = execWptr ctx q w s := by
  unfold execWptr
  split
  · rfl
  · split
    · rfl
    · dsimp only
      split <;> rfl

theorem execReset_next (ctx q : Nat) (s : State) : Host.Outcome.next (after s (execReset ctx q s)) = execReset ctx q s := by
  unfold execReset
  split
  · rfl
  · split <;> rfl

/-- A write of the whole field leaves nothing of its old value. -/
theorem patched_whole (n size v : Nat) : patched n size 0 (toBytes size v) = v % 256 ^ size := by
  have hbytes : (List.range size).map (fun k => if 0 ≤ k ∧ k < 0 + (toBytes size v).length then nth 0 (k - 0) (toBytes size v) else byteOf n k) =
      (List.range (toBytes size v).length).map (fun k => nth 0 k (toBytes size v)) := by
    rw [length_toBytes]
    refine List.map_congr_left fun k hk => ?_
    rw [if_pos ⟨Nat.zero_le k, by simpa using hk⟩]
    rfl
  rw [patched, hbytes, map_nth_range, leNat_toBytes]

theorem barWrite_queue {ctx q k : Nat} {bs : List Byte} (hr : s.dev.ready = true) (hctx : ctx < 64) (hq : q < 16) (hb : bs ≠ [])
    (hk : k + bs.length ≤ 64) : barWrite s 0 (ctx * 0x1000 + q * 0x40 + k) bs = writeQueue s ctx q k bs := by
  have hlen := List.length_pos_iff.2 hb
  rw [barWrite_one hb (by show (ctx * 0x1000 + q * 0x40 + k) % 64 + _ ≤ 64; omega), writeBlock, barByte_queue hctx hq (by omega)]
  simp only [hr]
  rfl

theorem barWrite_wptr {ctx q : Nat} (hr : s.dev.ready = true) (hctx : ctx < 64) (hq : q < 16) (w : Word) :
    barWrite s 0 (ctx * 0x1000 + q * 0x40) (toBytes 4 w.toNat) = after s (execWptr ctx q w s) := by
  have hwrite := barWrite_queue (k := 0) hr hctx hq (bs := toBytes 4 w.toNat) (by simp [toBytes]) (by simp [toBytes])
  have hw : BitVec.ofNat 32 (w.toNat % 256 ^ 4) = w := by
    rw [Nat.mod_eq_of_lt (w.isLt.trans_eq (by norm_num)), BitVec.ofNat_toNat, BitVec.setWidth_eq]
  have hfield : (List.range 4).any (covers 0 (toBytes 4 w.toNat)) = true := List.any_eq_true.2 ⟨0, by simp, by simp [covers, toBytes]⟩
  have hreset : ¬ (covers 0 (toBytes 4 w.toNat) 24 = true ∧ (nth (0 : Byte) (24 - 0) (toBytes 4 w.toNat)).toNat % 2 = 1) := by
    simp [covers, length_toBytes]
  rw [Nat.add_zero] at hwrite
  rw [hwrite]
  unfold writeQueue
  dsimp only
  rw [if_neg hreset, if_pos hfield]
  cases hv : queueOf s ctx q with
  | none =>
    unfold execWptr
    rw [hv]
    split <;> simp_all [after]
  | some v => simp only [patched_whole, hw]

theorem barWrite_reset {ctx q : Nat} (hr : s.dev.ready = true) (hctx : ctx < 64) (hq : q < 16) :
    barWrite s 0 (ctx * 0x1000 + q * 0x40 + 24) [1] = after s (execReset ctx q s) := by
  rw [barWrite_queue hr hctx hq (by simp) (by simp)]
  unfold writeQueue
  dsimp only
  rw [if_pos ⟨by decide, by decide⟩, if_neg (by decide)]

theorem barWrite_signal {ctx i : Nat} (hr : s.dev.ready = true) (hctx : ctx < 64) (hi : i < 65536) (e : BitVec 256) :
    barWrite s 2 (ctx * 0x200000 + i * 32) (toBytes 32 e.toNat) = writeSignal s ctx i e true := by
  have h1 : (ctx * 0x200000 + i * 32) / 0x200000 = ctx := by omega
  have h2 : (ctx * 0x200000 + i * 32) % 0x200000 / 32 = i := by omega
  have h3 : (ctx * 0x200000 + i * 32) % 32 = 0 := by omega
  have hbyte : barByte 2 (ctx * 0x200000 + i * 32) = some (.signal ctx i 0) := by
    rw [barByte, if_neg (by decide), if_pos (by omega), h1, h2, h3]
  have hlen := length_toBytes 32 e.toNat
  have hentry : writeEntry s ctx i 0 (toBytes 32 e.toNat) = writeSignal s ctx i e true := by
    have harms : covers 0 (toBytes 32 e.toNat) 25 = true := by simp [covers, hlen]
    have he : BitVec.ofNat 256 (e.toNat % 256 ^ 32) = e := by
      rw [Nat.mod_eq_of_lt (e.isLt.trans_eq (by norm_num)), BitVec.ofNat_toNat, BitVec.setWidth_eq]
    rw [writeEntry, harms, patched_whole, he]
  rw [barWrite_one (by simp [toBytes]) (by rw [hlen]; show (ctx * 0x200000 + i * 32) % 32 + 32 ≤ 32; omega), writeBlock, hbyte]
  simp only [hr]
  exact hentry

/-! ### The host's AtomicOps (log entry 8) -/

theorem leNat_lt (bs : List Byte) : leNat bs < 256 ^ bs.length := by
  induction bs with
  | nil => decide
  | cons b rest ih =>
    have := b.isLt
    rw [leNat, List.length_cons, Nat.pow_succ]
    omega

/-- The 64-bit counter at an address. -/
def counterAt (addr : Nat) (s : State) : Nat := leNat ((List.range 8).map (fun k => memGet (addr + k) s.mem))

theorem counterAt_lt (addr : Nat) (s : State) : counterAt addr s < 2 ^ 64 := by
  have h := leNat_lt ((List.range 8).map (fun k => memGet (addr + k) s.mem))
  rwa [List.length_map, List.length_range] at h

theorem clearPoison_dev (s : State) (ps : List Place) : (clearPoison s ps).dev = s.dev := by
  unfold clearPoison
  split <;> rfl

/-- An AtomicOp at the counter writes its function of the counter's value and answers the value before. -/
theorem hostAtomic_counter {addr : Nat} (h : MemOk s) (ha : addr % 8 = 0) (hp : physExists addr = true) (f : Nat → Nat) :
    counterAt addr (hostAtomic s addr f) = f (counterAt addr s) % 2 ^ 64 ∧
      (hostAtomic s addr f).dev.completions = s.dev.completions ++ [toBytes 8 (counterAt addr s)] := by
  rw [hostAtomic, if_pos ⟨ha, hp⟩]
  constructor
  · have hread := read_placeBytes h addr (toBytes 8 (f (counterAt addr s) % 2 ^ 64))
    rw [length_toBytes] at hread
    have hmem : (complete (clearPoison (putKeys s addr (toBytes 8 (f (counterAt addr s) % 2 ^ 64))) (placeRun (.phys addr) 8))
        (toBytes 8 (counterAt addr s))).mem = placeBytes s.mem addr (toBytes 8 (f (counterAt addr s) % 2 ^ 64)) :=
      (clearPoison_mem ..).trans (putKeys_mem ..)
    unfold counterAt at hmem hread ⊢
    dsimp only
    rw [hmem, hread, leNat_toBytes]
    exact Nat.mod_mod _ _
  · dsimp only [complete]
    rw [clearPoison_dev]
    rfl

end

end Sys2Proof.Machine

namespace Sys2Proof.Machine

/-! ### What a port sends (23 R350, R351) -/

section
variable {s t u : State} {o : Outbound}

theorem portOf_setPort_same {k : Nat} (hk : k < s.dev.ports.length) (v : Port) : portOf (setPort s k v) k = v := nth_setNth _ _ _ _ hk

theorem portOf_setPort_ne {j k : Nat} (hj : j ≠ k) (v : Port) : portOf (setPort s k v) j = portOf s j := nth_setNth_ne _ _ _ _ _ hj

/-- With every port down a message is kept unsent. -/
theorem transmit_down (h : ∀ q < 18, (portOf s q).up = false) :
    transmit s o = { s with dev := { s.dev with unsent := s.dev.unsent ++ [o] } } := by
  have hnone : upPorts s = [] := List.filter_eq_nil_iff.2 fun q hq => by simp [h q (List.mem_range.1 hq)]
  rw [transmit, hnone]

/-- A port that has sent a message and keeps it until it is acknowledged. -/
def Port.sending (p : Port) (o : Outbound) : Port := { p with seq := p.seq + 1, retry := p.retry ++ [(p.seq, o)] }

/-- A message that has gone to the ports. -/
def posted (s : State) (o : Outbound) : State := { s with dev := { s.dev with outbound := s.dev.outbound ++ [o] } }

theorem sendOut_eq (peer : Nat) (b : FlitBody) : sendOut s peer b = transmit (posted s ⟨peer, b⟩) ⟨peer, b⟩ := rfl

/-- Otherwise a port that is up sends it and keeps it until it is acknowledged. -/
theorem transmit_up (h : ∃ q < 18, (portOf s q).up = true) : ∃ k < 18, (portOf s k).up = true ∧
    transmit s o = bump (setPort s k ((portOf s k).sending o)) := by
  obtain ⟨q, hq, hup⟩ := h
  have hmem : q ∈ upPorts s := List.mem_filter.2 ⟨List.mem_range.2 hq, hup⟩
  have hpos : 0 < (upPorts s).length := List.length_pos_of_mem hmem
  have hin : nth 0 (Config.freeNat s.free % (upPorts s).length) (upPorts s) ∈ upPorts s := by
    rw [nth_getElem _ _ _ (Nat.mod_lt _ hpos)]
    exact List.getElem_mem _
  obtain ⟨hlt, hup⟩ := List.mem_filter.1 hin
  refine ⟨_, List.mem_range.1 hlt, hup, ?_⟩
  unfold transmit
  split
  · next h =>
    rw [h] at hmem
    exact absurd hmem (by simp)
  · rfl

/-- What sending leaves as it was. -/
structure Transmitted (s u : State) : Prop where
  mem : u.mem = s.mem
  outbound : u.dev.outbound = s.dev.outbound
  ready : u.dev.ready = s.dev.ready
  running : u.dev.running = s.dev.running
  domain : u.dev.domain = s.dev.domain
  length : u.dev.ports.length = s.dev.ports.length
  up : ∀ q, (portOf u q).up = (portOf s q).up
  down : ∀ q, (portOf s q).up = false → portOf u q = portOf s q
  retry : ∀ q, ∀ x ∈ (portOf s q).retry, x ∈ (portOf u q).retry
  unsent : ∀ x ∈ s.dev.unsent, x ∈ u.dev.unsent

theorem Transmitted.refl (s : State) : Transmitted s s := ⟨rfl, rfl, rfl, rfl, rfl, rfl, fun _ => rfl, fun _ _ => rfl, fun _ _ h => h, fun _ h => h⟩

theorem Transmitted.trans (h : Transmitted s t) (h' : Transmitted t u) : Transmitted s u where
  mem := h'.mem.trans h.mem
  outbound := h'.outbound.trans h.outbound
  ready := h'.ready.trans h.ready
  running := h'.running.trans h.running
  domain := h'.domain.trans h.domain
  length := h'.length.trans h.length
  up q := (h'.up q).trans (h.up q)
  down q hq := (h'.down q ((h.up q).trans hq)).trans (h.down q hq)
  retry q x hx := h'.retry q x (h.retry q x hx)
  unsent x hx := h'.unsent x (h.unsent x hx)

/-- A message is kept: unsent, or in some port's retry buffer. -/
def IsKept (u : State) (o : Outbound) : Prop := o ∈ u.dev.unsent ∨ ∃ q n, (n, o) ∈ (portOf u q).retry

theorem Transmitted.isKept (h : Transmitted s u) (ho : IsKept s o) : IsKept u o := by
  obtain ho | ⟨q, n, ho⟩ := ho
  · exact .inl (h.unsent _ ho)
  · exact .inr ⟨q, n, h.retry _ _ ho⟩

theorem transmit_keeps (hp : s.dev.ports.length = 18) (o : Outbound) : Transmitted s (transmit s o) ∧ IsKept (transmit s o) o := by
  by_cases hup : ∃ q < 18, (portOf s q).up = true
  · obtain ⟨k, hk, hup, he⟩ := transmit_up (o := o) hup
    rw [he]
    have hsame : portOf (bump (setPort s k ((portOf s k).sending o))) k = (portOf s k).sending o := portOf_setPort_same (hp ▸ hk) _
    have hne : ∀ q, q ≠ k → portOf (bump (setPort s k ((portOf s k).sending o))) q = portOf s q := fun q hq => portOf_setPort_ne hq _
    refine ⟨⟨rfl, rfl, rfl, rfl, rfl, length_setNth .., fun q => ?_, fun q hq => ?_, fun q x hx => ?_, fun _ h => h⟩, .inr ⟨k, (portOf s k).seq, ?_⟩⟩
    · by_cases hqk : q = k
      · subst hqk
        rw [hsame]
        rfl
      · rw [hne q hqk]
    · exact hne q fun hqk => by simp [hqk, hup] at hq
    · by_cases hqk : q = k
      · subst hqk
        rw [hsame]
        exact List.mem_append_left _ hx
      · rwa [hne q hqk]
    · rw [hsame]
      exact List.mem_append_right _ (List.mem_singleton_self _)
  · rw [transmit_down (by simpa using hup)]
    exact ⟨⟨rfl, rfl, rfl, rfl, rfl, rfl, fun _ => rfl, fun _ _ => rfl, fun _ _ h => h, fun _ h => List.mem_append_left _ h⟩,
      .inl (List.mem_append_right _ (List.mem_singleton_self _))⟩

theorem foldl_transmit (hp : s.dev.ports.length = 18) (l : List Outbound) :
    Transmitted s (l.foldl transmit s) ∧ ∀ o ∈ l, IsKept (l.foldl transmit s) o := by
  induction l generalizing s with
  | nil => exact ⟨.refl s, by simp⟩
  | cons o rest ih =>
    obtain ⟨hone, hkept⟩ := transmit_keeps hp o
    obtain ⟨hrest, hall⟩ := ih (hone.length.trans hp)
    refine ⟨hone.trans hrest, fun x hx => ?_⟩
    obtain rfl | hx := List.mem_cons.1 hx
    · exact hrest.isKept hkept
    · exact hall x hx

/-- What sending a peer's answer leaves: memory, and every other message. -/
theorem sendOut_spec (hp : s.dev.ports.length = 18) (peer : Nat) (b : FlitBody) :
    (sendOut s peer b).dev.outbound = s.dev.outbound ++ [⟨peer, b⟩] ∧ (sendOut s peer b).mem = s.mem ∧ (sendOut s peer b).dev.ports.length = 18 := by
  obtain ⟨h, -⟩ := transmit_keeps (s := posted s ⟨peer, b⟩) hp ⟨peer, b⟩
  exact ⟨h.outbound, h.mem, h.length.trans hp⟩

theorem sendOut_down (h : ∀ q < 18, (portOf s q).up = false) (peer : Nat) (b : FlitBody) :
    (sendOut s peer b).dev.unsent = s.dev.unsent ++ [⟨peer, b⟩] := by
  rw [sendOut_eq, transmit_down (s := posted s ⟨peer, b⟩) h]
  rfl

theorem sendOut_up (hp : s.dev.ports.length = 18) (h : ∃ q < 18, (portOf s q).up = true) (peer : Nat) (b : FlitBody) : ∃ q < 18, (portOf s q).up = true ∧
    (portOf (sendOut s peer b) q).retry = (portOf s q).retry ++ [((portOf s q).seq, ⟨peer, b⟩)] ∧
    (portOf (sendOut s peer b) q).seq = (portOf s q).seq + 1 := by
  obtain ⟨k, hk, hup, he⟩ := transmit_up (s := posted s ⟨peer, b⟩) (o := ⟨peer, b⟩) h
  have hport : portOf (sendOut s peer b) k = (portOf s k).sending ⟨peer, b⟩ := by
    rw [sendOut_eq, he]
    exact portOf_setPort_same (s := posted s ⟨peer, b⟩) (hp ▸ hk) _
  exact ⟨k, hk, hup, by rw [hport]; rfl, by rw [hport]; rfl⟩

/-- The flits of a transfer, in order. -/
theorem sendPieces_spec (hp : s.dev.ports.length = 18) (peer n : Nat) (bs : List Byte) (mk : Nat → List Byte → FlitBody) :
    (sendPieces s peer n bs mk).mem = s.mem ∧ (sendPieces s peer n bs mk).dev.outbound = s.dev.outbound ++
      (List.range (ceilDiv n flitBytes)).map (fun k => ⟨peer, mk (flitBytes * k) ((bs.drop (flitBytes * k)).take flitBytes)⟩) := by
  unfold sendPieces
  have hfold : ∀ (l : List Nat) (t : State), t.dev.ports.length = 18 →
      (l.foldl (fun u k => sendOut u peer (mk (flitBytes * k) ((bs.drop (flitBytes * k)).take flitBytes))) t).mem = t.mem ∧
      (l.foldl (fun u k => sendOut u peer (mk (flitBytes * k) ((bs.drop (flitBytes * k)).take flitBytes))) t).dev.outbound = t.dev.outbound ++
        l.map (fun k => ⟨peer, mk (flitBytes * k) ((bs.drop (flitBytes * k)).take flitBytes)⟩) := by
    intro l
    induction l with
    | nil => exact fun t _ => ⟨rfl, by simp⟩
    | cons k rest ih =>
      intro t ht
      obtain ⟨hout, hmem, hlen⟩ := sendOut_spec ht peer (mk (flitBytes * k) ((bs.drop (flitBytes * k)).take flitBytes))
      obtain ⟨hm, ho⟩ := ih _ hlen
      exact ⟨hm.trans hmem, by rw [List.foldl_cons, ho, hout, List.map_cons, List.append_assoc, List.singleton_append]⟩
  exact hfold _ s hp

/-! ### A port retrains (23 R350) -/

theorem noPortLeft_spec (s : State) : Transmitted s (noPortLeft s) ∨ (noPortLeft s = setReady s) := by
  unfold noPortLeft
  split
  · exact .inr rfl
  · exact .inl (.refl s)

theorem setReady_dev (s : State) : (setReady s).dev = { s.dev with ready := true } := by
  unfold setReady schedAt
  rfl

theorem noPortLeft_ports (s : State) (q : Nat) : portOf (noPortLeft s) q = portOf s q := by
  unfold noPortLeft
  split
  · rw [portOf, setReady_dev]
    rfl
  · rfl

theorem noPortLeft_unsent (s : State) : (noPortLeft s).dev.unsent = s.dev.unsent := by
  unfold noPortLeft
  split
  · rw [setReady_dev]
  · rfl

/-- Once no port is up a running image waits for no domain and is ready. -/
theorem noPortLeft_ready (hr : s.dev.running.isSome = true) (hd : s.dev.domain = none) (hp : s.dev.ports.any Port.up = false) :
    (noPortLeft s).dev.ready = true := by
  unfold noPortLeft
  split
  · rw [setReady_dev]
  · next h =>
    rw [hr, hd, hp] at h
    simpa using h

theorem ports_any_up (hp : s.dev.ports.length = 18) (h : ∀ q < 18, (portOf s q).up = false) : s.dev.ports.any Port.up = false := by
  rw [List.any_eq_false]
  intro p hmem
  obtain ⟨i, hi, rfl⟩ := List.getElem_of_mem hmem
  have hq := h i (hp ▸ hi)
  rw [portOf, nth_getElem _ _ _ hi] at hq
  simp [hq]

end

section
variable {s : State} {port : Nat}

theorem portRetrain_down (hup : (portOf s port).up = false) : execPortRetrain port s = .next s := by
  unfold execPortRetrain
  dsimp only
  rw [hup, if_pos (.inr rfl)]

/-- A port that does not come up again: what it had not had acknowledged is sent again. -/
def portLost (s : State) (port : Nat) : State :=
  ((portOf s port).retry.map Prod.snd).foldl transmit (bump (setPort s port { portOf s port with up := false, replays := 0, retry := [] }))

theorem portRetrain_up (hp : port < 18) (hup : (portOf s port).up = true) : execPortRetrain port s =
    .next (if freeBit s 0 then bump (setPort s port { portOf s port with replays := 0 }) else noPortLeft (portLost s port)) := by
  unfold execPortRetrain
  dsimp only
  rw [hup, if_neg (by simp; omega)]
  split <;> rfl

theorem portLost_spec (hp : port < 18) (hl : s.dev.ports.length = 18) :
    (portOf (portLost s port) port).up = false ∧ (portOf (portLost s port) port).retry = [] ∧
    (s.dev.running.isSome = true → s.dev.domain = none → (∀ q < 18, q ≠ port → (portOf s q).up = false) → (noPortLeft (portLost s port)).dev.ready = true) ∧
    ∀ x ∈ (portOf s port).retry, IsKept (portLost s port) x.2 := by
  have hlen : (bump (setPort s port { portOf s port with up := false, replays := 0, retry := [] })).dev.ports.length = 18 := (length_setNth ..).trans hl
  have hport : portOf (bump (setPort s port { portOf s port with up := false, replays := 0, retry := [] })) port =
    { portOf s port with up := false, replays := 0, retry := [] } := portOf_setPort_same (hl ▸ hp) _
  obtain ⟨hsent, hkept⟩ := foldl_transmit hlen ((portOf s port).retry.map Prod.snd)
  have hdown : portOf (portLost s port) port = { portOf s port with up := false, replays := 0, retry := [] } :=
    (hsent.down port (by rw [hport])).trans hport
  refine ⟨by rw [hdown], by rw [hdown], fun hr hd hall => ?_, fun x hx => hkept _ (List.mem_map_of_mem hx)⟩
  refine noPortLeft_ready (hsent.running ▸ hr) (hsent.domain.trans hd) (ports_any_up (hsent.length.trans hlen) fun q hq => ?_)
  refine (hsent.up q).trans ?_
  by_cases hqp : q = port
  · subst hqp
    rw [hport]
  · exact (congrArg Port.up (portOf_setPort_ne (s := s) hqp _)).trans (hall q hq hqp)

end

end Sys2Proof.Machine

namespace Sys2Proof.Machine

/-! ### A port receives (23 R350, R351) -/

section
variable {s : State} {port : Nat} {f : Flit}

/-- What a flit acknowledges leaves the retry buffer. -/
def Port.acknowledged (p : Port) (ack : Nat) : Port := { p with replays := 0, retry := p.retry.filter (fun x => decide (ack ≤ x.1)) }

theorem flitReceive_down (hup : (portOf s port).up = false) : execFlitReceive port f s = .next s := by
  unfold execFlitReceive
  dsimp only
  rw [hup, if_pos (.inr rfl)]

theorem flitReceive_badCrc (hp : port < 18) (hup : (portOf s port).up = true) (hc : f.crcOk = false) : execFlitReceive port f s =
    if (portOf s port).replays < 16 then .next (setPort s port { portOf s port with replays := (portOf s port).replays + 1 }) else execPortRetrain port s := by
  unfold execFlitReceive
  dsimp only
  rw [hup, hc, if_neg (by simp; omega), if_pos (by rfl)]

theorem flitReceive_good (hp : port < 18) (hup : (portOf s port).up = true) (hc : f.crcOk = true) : execFlitReceive port f s =
    if f.seq ≠ (portOf s port).next ∨ (!bodyFits f.body) = true then .next (setPort s port ((portOf s port).acknowledged f.ack))
    else takeBody (setPort s port { (portOf s port).acknowledged f.ack with next := (portOf s port).next + 1 }) f.src f.body := by
  unfold execFlitReceive
  dsimp only
  rw [if_neg (by simp [hup]; omega), if_neg (by simp [hc])]
  rfl

theorem takeBody_write {s1 : State} (hm : s1.mem = s.mem) (ho : s1.dev.outbound = s.dev.outbound) (hc : s1.ctxs = s.ctxs)
    (hl : s1.dev.ports.length = 18) (peer ctx addr pkt : Nat) (bytes : List Byte) :
    ∃ u, takeBody s1 peer (.write ctx addr pkt bytes) = .next u ∧
      (admits s ctx addr bytes.length = false → u.mem = s.mem ∧ u.dev.outbound = s.dev.outbound ++ [⟨peer, .refuse pkt⟩]) ∧
      (admits s ctx addr bytes.length = true → u.mem = (putKeys s addr bytes).mem ∧
        u.dev.outbound = s.dev.outbound ++ [⟨peer, .ack pkt bytes.length⟩]) := by
  have hadmits : admits s1 ctx addr bytes.length = admits s ctx addr bytes.length := by
    unfold admits exports_ getC
    rw [hc]
  refine ⟨_, rfl, fun h => ?_, fun h => ?_⟩
  · rw [hadmits, h, if_neg (by decide)]
    obtain ⟨hout, hmem, -⟩ := sendOut_spec hl peer (.refuse pkt)
    exact ⟨hmem.trans hm, hout.trans (by rw [ho])⟩
  · rw [hadmits, h, if_pos rfl]
    have hdev := clearPoison_dev (putKeys s1 addr bytes) (placeRun (.phys addr) bytes.length)
    obtain ⟨hout, hmem, -⟩ := sendOut_spec (s := clearPoison (putKeys s1 addr bytes) (placeRun (.phys addr) bytes.length))
      (by rw [hdev]; exact hl) peer (.ack pkt bytes.length)
    rw [hdev] at hout
    refine ⟨hmem.trans ?_, hout.trans (congrArg (· ++ _) ho)⟩
    rw [clearPoison_mem, putKeys_mem, putKeys_mem, hm]

theorem takeBody_read {s1 : State} (hm : s1.mem = s.mem) (ho : s1.dev.outbound = s.dev.outbound) (hc : s1.ctxs = s.ctxs)
    (hpo : s1.poison = s.poison) (hl : s1.dev.ports.length = 18) (peer ctx addr n pkt : Nat) :
    ∃ u, takeBody s1 peer (.read ctx addr n pkt) = .next u ∧ u.mem = s.mem ∧
      let bs := (List.range n).map (fun k => memGet (addr + k) s.mem)
      u.dev.outbound = s.dev.outbound ++ (if admits s ctx addr n = true ∧ poisonIn s addr n = none then
        (List.range ((n + 231) / 232)).map (fun k => ⟨peer, .data pkt (232 * k) ((bs.drop (232 * k)).take 232)⟩)
        else [⟨peer, .refuse pkt⟩]) := by
  have hadmits : admits s1 ctx addr n = admits s ctx addr n := by
    unfold admits exports_ getC
    rw [hc]
  have hpoison : poisonIn s1 addr n = poisonIn s addr n := by rw [poisonIn, poisonIn, hpo]
  refine ⟨_, rfl, ?_⟩
  simp only [hadmits, hpoison, hm, Option.isNone_iff_eq_none]
  split
  · obtain ⟨hmem, hout⟩ := sendPieces_spec hl peer n ((List.range n).map (fun k => memGet (addr + k) s.mem)) (fun o bs => .data pkt o bs)
    exact ⟨hmem.trans hm, hout.trans (congrArg (· ++ _) ho)⟩
  · obtain ⟨hout, hmem, -⟩ := sendOut_spec hl peer (.refuse pkt)
    exact ⟨hmem.trans hm, hout.trans (congrArg (· ++ _) ho)⟩

end

/-- The eight bytes an AtomicOp of a BAR reads. -/
def barCounter (s : State) (bar off : Nat) : List Byte := (List.range 8).map (fun k => barReads s bar (off + k))

theorem barAtomic_writes {s : State} {bar off y : Nat} {f : Nat → Option Nat} (h : off % 8 = 0) (hf : f (leNat (barCounter s bar off)) = some y) :
    barAtomic s bar off f = complete (barWrite s bar off (toBytes 8 (y % 2 ^ 64))) (barCounter s bar off) := by
  unfold barCounter at hf ⊢
  rw [barAtomic, if_pos h]
  dsimp only
  rw [hf]

theorem barAtomic_none {s : State} {bar off : Nat} {f : Nat → Option Nat} (h : off % 8 = 0) (hf : f (leNat (barCounter s bar off)) = none) :
    barAtomic s bar off f = complete s (barCounter s bar off) := by
  unfold barCounter at hf ⊢
  rw [barAtomic, if_pos h]
  dsimp only
  rw [hf]

theorem begunPkt_peer {s : State} {id : Nat} {p : Pkt} (h : begunPkt s id 6 = some p) (n : Nat) :
    peerAnswered s id n = if p.left ≤ n then pktDone { s with pkts := tset id { p with left := p.left - n } s.pkts } id
      else { s with pkts := tset id { p with left := p.left - n } s.pkts } := by
  rw [peerAnswered, h]

/-- Settles O48: a BAR's accesses block by block, and a port's messages through what sending keeps. -/
theorem mailboxesAndPorts : Obligations.MailboxesAndPorts := by
  unfold Obligations.MailboxesAndPorts
  refine ⟨fun k bytes s hk hl hb => ?_, fun bar off n s => ?_, fun bar off bytes s hb => ?_, fun ctx q i w e bytes s hctx hq hi hb => ?_,
    fun bar off v expect new s h => ?_, fun addr v expect new s h ha hp => ?_, fun port f s hp hl => ?_, fun peer b s hl => ?_, fun id n s p hp => ?_⟩
  · exact ⟨mailboxMessage_files hk hb, mailboxMessage_waits hk hb, hostMailboxWrite_files hb, hostMailboxWrite_lost hb,
      fileMessage_box (hl ▸ hk), drainMailbox_spec (hl ▸ hk)⟩
  · refine ⟨rfl, fun k hk => barReads_devStatus hk, barReads_none, barReads_not_ready, fun ctx q v k hr hctx hq hv hk => ⟨?_, ?_⟩⟩
    · rw [barReads_queue hr hctx hq (by omega), queueBlock_wptr hv hk, byteOf]
    · rw [Nat.add_assoc _ 8 k, barReads_queue hr hctx hq (by omega), queueBlock_rptr hv hk, byteOf]
  · refine ⟨fun hnone => ?_, fun hr hmail => ?_, fun hr hbar hlo hhi => ?_⟩
    · exact congrArg Host.Outcome.next (barWrite_noop hb fun k hk => writeBlock_none (hnone k hk))
    · exact congrArg Host.Outcome.next (barWrite_noop hb fun k hk => writeBlock_not_ready hr (hmail k hk))
    · subst hbar
      obtain ⟨-, hentry⟩ := barWrite_msix hr hb hlo hhi
      refine ⟨_, rfl, fun k hk => ?_, fun k hk => ?_⟩
      · rw [hentry, if_pos (by omega), Nat.add_sub_cancel_left]
      · rw [hentry, if_neg (by omega)]
  · refine ⟨?_, fun hr => ⟨?_, ?_, ?_⟩⟩
    · exact (congrArg Host.Outcome.next (barWrite_mailbox hb)).trans (execHostMailboxWrite_next bytes s)
    · exact (congrArg Host.Outcome.next (barWrite_wptr hr hctx hq w)).trans (execWptr_next ctx q w s)
    · exact (congrArg Host.Outcome.next (barWrite_reset hr hctx hq)).trans (execReset_next ctx q s)
    · refine (congrArg Host.Outcome.next (barWrite_signal hr hctx hi e)).trans ?_
      rw [exec_signalEntryWrite, execSignalEntryWrite, if_pos ⟨hr, hi⟩]
  · refine ⟨⟨_, rfl, _, rfl, barAtomic_writes h rfl⟩, ⟨_, rfl, ?_⟩⟩
    show ∃ x, _ ∧ barAtomic s bar off _ = complete x (barCounter s bar off)
    by_cases hold : leNat (barCounter s bar off) = expect
    · refine ⟨_, ?_, barAtomic_writes (y := new) h (if_pos hold)⟩
      rw [barCounter] at hold
      rw [if_pos hold]
      rfl
    · refine ⟨_, ?_, barAtomic_none h (if_neg hold)⟩
      rw [barCounter] at hold
      rw [if_neg hold]
  · obtain ⟨hadd, haddOut⟩ := hostAtomic_counter h ha hp (fun x => x + v)
    obtain ⟨hcas, hcasOut⟩ := hostAtomic_counter h ha hp (fun x => if x = expect then new else x)
    refine ⟨⟨_, rfl, hadd, haddOut⟩, ⟨_, rfl, hcas.trans ?_, hcasOut⟩⟩
    show (if counterAt addr s = expect then new else counterAt addr s) % 2 ^ 64 = if counterAt addr s = expect then new % 2 ^ 64 else counterAt addr s
    split
    · rfl
    · exact Nat.mod_eq_of_lt (counterAt_lt addr s)
  · refine ⟨fun hup => ⟨portRetrain_down hup, flitReceive_down hup⟩, fun hup => ⟨⟨_, portRetrain_up hp hup, ?_⟩, fun hc hr => ?_, fun hc hr => ?_, fun hc => ?_⟩⟩
    · split
      · exact .inl ⟨portOf_setPort_same (hl ▸ hp) _, fun q hq => portOf_setPort_ne hq _⟩
      · obtain ⟨hdown, hretry, hready, hkept⟩ := portLost_spec hp hl
        refine .inr ⟨by rw [noPortLeft_ports, hdown], by rw [noPortLeft_ports, hretry], hready, fun x hx => ?_⟩
        simp only [noPortLeft_ports, noPortLeft_unsent]
        exact hkept x hx
    · rw [exec_flitReceive, flitReceive_badCrc hp hup hc, if_pos hr]
    · rw [exec_flitReceive, flitReceive_badCrc hp hup hc, if_neg (by omega), exec_portRetrain]
    · refine ⟨fun hbad => ?_, fun hseq hfits => ?_⟩
      · rw [exec_flitReceive, flitReceive_good hp hup hc, if_pos (by simpa using hbad)]
        rfl
      · have hgood : exec (.flitReceive port f) s =
            takeBody (setPort s port { (portOf s port).acknowledged f.ack with next := (portOf s port).next + 1 }) f.src f.body := by
          rw [exec_flitReceive, flitReceive_good hp hup hc, if_neg (by simp [hseq, hfits])]
        have hports : (setPort s port { (portOf s port).acknowledged f.ack with next := (portOf s port).next + 1 }).dev.ports.length = 18 :=
          (length_setNth ..).trans hl
        refine ⟨fun k bytes hbody => ?_, fun ns hbody => ?_, fun pkt n hbody => ?_, fun pkt hbody => ?_, fun pkt o bytes hbody => ?_,
          fun ctx addr pkt bytes hbody => ?_, fun ctx addr n pkt hbody => ?_⟩ <;> rw [hgood, hbody]
        · rfl
        · rfl
        · rfl
        · rfl
        · rfl
        · exact takeBody_write rfl rfl rfl hports ..
        · exact takeBody_read rfl rfl rfl rfl hports ..
  · obtain ⟨hout, hmem, -⟩ := sendOut_spec hl peer b
    exact ⟨hout, hmem, fun h => sendOut_down h peer b, fun h => sendOut_up hl h peer b⟩
  · refine ⟨by rw [refusedBy, hp], fun h => ?_, fun h => ?_⟩
    · rw [begunPkt_peer hp, if_neg (by omega)]
    · rw [begunPkt_peer hp, if_pos h]
      exact mem_sched.2 (.inl rfl)

end Sys2Proof.Machine

namespace Sys2Proof.Machine

/-! ### A command in its queue may be given another engine of its cluster -/

/-- A command is there, on an engine of its cluster. -/
def OnItsCluster (u : State) (k : Nat) (x : Cmd) : Prop := ∃ e r, e / 8 = x.eng / 8 ∧ tget k u.cmds = some { x with eng := e, ring := r }

section
variable {s : State} {k id : Nat} {x : Cmd}

theorem unqueue_cmds (s : State) (k : Nat) : (unqueue s k).cmds = s.cmds := by
  unfold unqueue
  split <;> rfl

theorem enqueue_cmds (s : State) (k : Nat) : (enqueue s k).cmds = s.cmds := by
  unfold enqueue
  split
  · rfl
  · dsimp only
    split <;> rfl

theorem chooseAgain_onItsCluster (h : OnItsCluster s k x) : OnItsCluster (chooseAgain s id) k x := by
  obtain ⟨e, r, he, hk⟩ := h
  unfold chooseAgain
  split
  · exact ⟨e, r, he, hk⟩
  · next c hc =>
    split
    · exact ⟨e, r, he, hk⟩
    · by_cases hid : k = id
      · subst hid
        cases hk.symm.trans hc
        exact ⟨_, _, (chooseCopy_cluster ..).trans he, tget_tset_same ..⟩
      · refine ⟨e, r, he, ?_⟩
        dsimp only
        rw [tget_tset, if_neg hid, hk]

theorem joinQueue_onItsCluster (h : OnItsCluster s k x) (l : List Nat) : OnItsCluster (joinQueue s id l) k x := by
  have hsame : ∀ {t u : State}, u.cmds = t.cmds → OnItsCluster t k x → OnItsCluster u k x := fun hc ⟨e, r, he, hk⟩ => ⟨e, r, he, hc ▸ hk⟩
  unfold joinQueue
  split
  · exact hsame (enqueue_cmds ..) h
  · refine List.foldlRecOn (motive := fun u => OnItsCluster u k x) _ _ ?_ fun u hu j _ => hsame (enqueue_cmds ..) (chooseAgain_onItsCluster hu)
    exact List.foldlRecOn (motive := fun u => OnItsCluster u k x) _ _ h fun u hu j _ => hsame (unqueue_cmds ..) hu

/-- A command that is submitted is queued at an engine of its cluster. -/
theorem submit_onItsCluster (s : State) (c : Cmd) (wait : Nat → Wait) :
    ∃ hs ps, OnItsCluster (submit s c wait) s.nextId { c with handles := hs, pins := ps } := by
  refine ⟨(holdOperands s c.tid c.ctx [c.a, c.b, c.d, c.m]).2.1, (holdOperands s c.tid c.ctx [c.a, c.b, c.d, c.m]).2.2, ?_⟩
  unfold submit OnItsCluster
  rw [parkAs_cmds]
  exact joinQueue_onItsCluster ⟨_, _, rfl, tget_tset_same ..⟩ _
end

/-! ### Packets that have begun (20 R315) -/

section
variable {s : State} {id : Nat} {p : Pkt}

theorem tget_tdel {α : Type} (k : Nat) (l : List (Nat × α)) : tget k (tdel k l) = none := by
  induction l with
  | nil => rfl
  | cons x rest ih =>
    obtain ⟨j, u⟩ := x
    by_cases h : j = k
    · simp [tdel, h, ih]
    · simp [tdel, tget, h, ih]

/-- The records of a TASKS packet are those it kept, or those it reads. -/
theorem readOnce_spec {s0 : State} {n : Nat} {rs : List (BitVec 256)} (h : p.records = some rs ∧ s0 = s ∨ p.records = none ∧ ∃ bs,
    frontRead s p.ctx (pktField p 16 8) (32 * n) = some (s0, bs) ∧ rs = pktRecords bs n) : readOnce s p n = some (s0, rs) := by
  obtain ⟨hkept, rfl⟩ | ⟨hnone, bs, hread, rfl⟩ := h
  · rw [readOnce, hkept]
  · rw [readOnce, hnone, hread]
    rfl

theorem readOnce_none {n : Nat} (hr : p.records = none) (h : frontRead s p.ctx (pktField p 16 8) (32 * n) = none) : readOnce s p n = none := by
  rw [readOnce, hr, h]
  rfl

theorem frontCmd_eng (s : State) (id : Nat) (p : Pkt) : (frontCmd s id p).eng / 8 = 1024 := chooseCopy_cluster s 1024

theorem lo64_data64 (n : Nat) : lo64 (data64 n) = n % 2 ^ 64 := by
  rw [lo64, data64, BitVec.toNat_ofNat]
  omega

theorem pktField_lt (p : Pkt) (lo n : Nat) : pktField p lo n < 2 ^ (8 * n) := Nat.mod_lt _ (Nat.two_pow_pos _)

/-- A copy within the module is queued at a copy engine of the front end. -/
theorem copyPacket_submits (h : begunPkt s id 6 = some p) (ha : domainAddr (pktField p 16 8) = none) (hb : domainAddr (pktField p 24 8) = none) :
    ∃ u x, execCopyPacket id s = .next u ∧ tget s.nextId u.cmds = some x ∧ lo64 x.a = pktField p 16 8 ∧ lo64 x.d = pktField p 24 8 ∧
      x.total = pktField p 32 8 ∧ x.adds = some id ∧ 8192 ≤ x.eng := by
  obtain ⟨hs, ps, e, r, he, hcmd⟩ := submit_onItsCluster s (frontCmd s id p) Wait.accept
  have hexec : execCopyPacket id s = .next (submit s (frontCmd s id p) Wait.accept) := by
    unfold execCopyPacket
    rw [h]
    dsimp only
    rw [ha, hb]
  have hfield : ∀ lo, lo64 (data64 (pktField p lo 8)) = pktField p lo 8 := fun lo =>
    (lo64_data64 _).trans (Nat.mod_eq_of_lt (pktField_lt p lo 8))
  refine ⟨_, _, hexec, hcmd, hfield 16, hfield 24, rfl, rfl, ?_⟩
  have : e / 8 = 1024 := he.trans (frontCmd_eng s id p)
  show 8192 ≤ e
  omega

/-- The bytes of TIME. -/
theorem timeBytes (va time : Nat) : (List.range 8).map (fun k => (va + k, nth 0 k (toBytes 8 (time % 2 ^ 64)))) =
    (List.range 8).map (fun k => (va + k, BitVec.ofNat 8 (time / 256 ^ k))) := by
  refine List.map_congr_left fun k hk => ?_
  have hk : k < 8 := List.mem_range.1 hk
  refine congrArg (Prod.mk (va + k)) ((nth_toBytes 8 _ k hk).trans (BitVec.eq_of_toNat_eq ?_))
  rw [BitVec.toNat_ofNat, BitVec.toNat_ofNat]
  obtain ⟨j, hj⟩ : ∃ j, 8 = k + (j + 1) := ⟨7 - k, by omega⟩
  have h64 : (2 : Nat) ^ 64 = 256 ^ k * 256 ^ (j + 1) := by rw [← Nat.pow_add, ← hj]; norm_num
  rw [h64, Nat.mod_mul_right_div_self]
  exact Nat.mod_mod_of_dvd _ ⟨256 ^ j, by rw [Nat.pow_succ]; ring⟩

theorem addStatus_room {c : Ctx} {ctx : Nat} (hc : getC s ctx = some c) (h : c.status.length < c.statusCap) (e : BitVec 256) (w : Option Nat) :
    addStatus s ctx e w = setC s ctx { c with status := c.status ++ [e] } := by
  rw [addStatus, hc]
  exact if_pos h

theorem queueOf_eq {c : Ctx} {ctx q : Nat} (hc : getC s ctx = some c) : queueOf s ctx q = tget q c.queues := by
  rw [queueOf, hc]
  rfl

theorem setQueue_eq {c : Ctx} {ctx : Nat} (hc : getC s ctx = some c) (q : Nat) (v : Queue) :
    setQueue s ctx q v = setC s ctx { c with queues := tset q v c.queues } := by
  rw [setQueue, hc]

theorem queueError_again {v : Queue} {ctx q addr : Nat} (hv : queueOf s ctx q = some v) (h : v.state = 2) : queueError s ctx q addr = s := by
  rw [queueError, hv]
  exact if_pos h

/-- A queue goes to ERROR with one entry. -/
theorem queueError_room {v : Queue} {c : Ctx} {ctx q : Nat} (hc : getC s ctx = some c) (hv : queueOf s ctx q = some v) (h : v.state ≠ 2)
    (hcap : c.status.length < c.statusCap) (addr : Nat) : queueError s ctx q addr = setC (setQueue s ctx q { v with state := 2 }) ctx
      { c with queues := tset q { v with state := 2 } c.queues, status := c.status ++ [statusEntry kQueueError 0 0 0 0 0 addr 0] } := by
  have hset : getC (setQueue s ctx q { v with state := 2 }) ctx = some { c with queues := tset q { v with state := 2 } c.queues } := by
    rw [setQueue_eq hc]
    exact getC_setC_same ..
  rw [queueError, hv]
  dsimp only
  rw [if_neg h]
  exact addStatus_room hset hcap _ _

/-- A packet that fails is over, and its queue is in ERROR, with one entry. -/
theorem failPacket_spec {v : Queue} {c : Ctx} (hv : queueOf s p.ctx p.q = some v) (hc : getC s p.ctx = some c) (hcap : c.status.length < c.statusCap) :
    ∃ w x e, queueOf (failPacket s id p) p.ctx p.q = some w ∧ w.state = 2 ∧ id ∉ w.open_ ∧ tget id (failPacket s id p).pkts = none ∧
      getC (failPacket s id p) p.ctx = some x ∧ bits e.toNat 0 8 = kQueueError ∧ x.status = if v.state = 2 then c.status else c.status ++ [e] := by
  generalize hw : ({ v with open_ := v.open_.filter (fun j => j != id) } : Queue) = w
  have hover : id ∉ w.open_ := by
    rw [← hw]
    simp
  have hstate : w.state = v.state := by rw [← hw]
  generalize hs1 : ({ s with pkts := tdel id s.pkts } : State) = s1
  have hc1 : getC s1 p.ctx = some c := by rw [← hs1]; exact hc
  have hgone : tget id s1.pkts = none := by rw [← hs1]; exact tget_tdel ..
  have hclosed : failPacket s id p = queueError (setC s1 p.ctx { c with queues := tset p.q w c.queues }) p.ctx p.q p.va := by
    unfold failPacket
    rw [hs1]
    dsimp only
    rw [queueOf_eq hc1, ← queueOf_eq hc, hv]
    dsimp only
    rw [hw, setQueue_eq hc1]
  have hc2 : getC (setC s1 p.ctx { c with queues := tset p.q w c.queues }) p.ctx = some { c with queues := tset p.q w c.queues } := getC_setC_same ..
  have hq2 : queueOf (setC s1 p.ctx { c with queues := tset p.q w c.queues }) p.ctx p.q = some w := (queueOf_eq hc2).trans (tget_tset_same ..)
  have hpkts : tget id (setC s1 p.ctx { c with queues := tset p.q w c.queues }).pkts = none := hgone
  rw [hclosed]
  generalize setC s1 p.ctx { c with queues := tset p.q w c.queues } = s2 at hc2 hq2 hpkts ⊢
  by_cases herr : w.state = 2
  · rw [queueError_again hq2 herr]
    exact ⟨w, _, statusEntry kQueueError 0 0 0 0 0 p.va 0, hq2, herr, hover, hpkts, hc2, bits_statusEntry_kind .., (if_pos (hstate ▸ herr)).symm⟩
  · have hpkts' : tget id (setQueue s2 p.ctx p.q { w with state := 2 }).pkts = none := by
      rw [setQueue_eq hc2]
      exact hpkts
    rw [queueError_room hc2 hq2 herr hcap]
    exact ⟨{ w with state := 2 }, _, statusEntry kQueueError 0 0 0 0 0 p.va 0, (queueOf_eq (getC_setC_same ..)).trans (tget_tset_same ..), rfl, hover, hpkts',
      getC_setC_same .., bits_statusEntry_kind .., (if_neg (hstate ▸ herr)).symm⟩

/-- The population a LAUNCH packet makes, of the record block it has read. -/
def populationOf (s : State) (id : Nat) (p : Pkt) (serial : Nat) (block : List Byte) : Owner where
  ctx := p.ctx
  isPop := true
  ovf := launchField p 30 1 == 1
  serial := serial
  typ := 0
  record := BitVec.ofNat 256 (leNat block)
  arg := BitVec.ofNat 64 (pktField p 24 8)
  pool := launchField p 0 4
  cls := launchField p 28 2
  threads := launchField p 4 5
  nregs := 8 * (launchField p 9 2 + 1)
  units := launchField p 11 7
  nbars := launchField p 18 10
  entry := BitVec.ofNat 57 (pktField p 16 8)
  image := BitVec.ofNat 57 (pktField p 40 8)
  imageLen := launchField p 31 19
  pdist := 0
  prio := 0
  order := 0
  placed := s.time
  late := false
  resumed := false
  donegDone := false
  phase := .running
  requested := none
  forced := false
  forcedPc := none
  saved := []
  record_ := none
  waiting := popCores s (launchField p 0 4) (launchField p 28 2)
  notBefore := if pktAt p then pktNbt p else 0
  pkt := id
  launched := 0

theorem populationOf_waiting (s : State) (id : Nat) (p : Pkt) (serial : Nat) (block : List Byte) :
    (populationOf s id p serial block).waiting = popCores s (launchField p 0 4) (launchField p 28 2) := by
  dsimp only [populationOf]

/-- Settles O45: each type's row is its branch of the instruction's definition; a copy keeps its operands while it is queued. -/
theorem packetResults : Obligations.PacketResults := by
  unfold Obligations.PacketResults
  intro id s p
  refine ⟨fun s0 block h hread => ?_, fun h hread => ?_, fun h hr hread => ?_, fun s0 rs c h hread hc => ?_, fun h => ?_, fun h => ?_,
    fun s1 h hmap => ?_, fun h hmap => ?_, fun h => ⟨copyPacket_submits h, ?_, ?_, ?_⟩, fun h => ?_, fun v c => failPacket_spec⟩
  · refine ⟨populationOf s id p (takeSerial s0 p.ctx).1 block, rfl, rfl, rfl, rfl, rfl, rfl, rfl, rfl, rfl, rfl, rfl, rfl, rfl,
      populationOf_waiting .., rfl, rfl, ?_⟩
    show execLaunchPacket id s = _
    unfold execLaunchPacket
    rw [h]
    dsimp only
    rw [hread]
    rfl
  · show execLaunchPacket id s = _
    unfold execLaunchPacket
    rw [h]
    dsimp only
    rw [hread]
  · show execTasksPacket id s = _
    unfold execTasksPacket
    rw [h]
    dsimp only
    rw [readOnce_none hr hread]
  · have hexec : exec (.tasksPacket id) s = execTasksPacket id s := rfl
    unfold execTasksPacket at hexec
    rw [h] at hexec
    dsimp only at hexec
    rw [readOnce_spec hread] at hexec
    dsimp only at hexec
    rw [hc] at hexec
    dsimp only at hexec
    rw [hexec]
    have hinvalid : ¬ (p.records = some rs ∨ ∀ r ∈ rs, recValid c r = true) ↔ p.records.isNone ∧ (!rs.all (recValid c)) = true := by
      obtain ⟨hkept, -⟩ | ⟨hnone, -⟩ := hread
      · simp [hkept]
      · simp [hnone]
    refine ⟨fun hv => ?_, fun hv hroom => ?_, fun hv hroom hat hlt => ?_, fun hv hroom hat => ?_⟩
    · rw [if_pos (hinvalid.1 hv)]
    · rw [if_neg fun hi => hinvalid.2 hi hv, if_pos (by omega)]
    · rw [if_neg fun hi => hinvalid.2 hi hv, if_neg (by omega), if_pos ⟨hat, hlt⟩]
      exact ⟨_, rfl, mem_agendaAdd.2 (.inl rfl), rfl⟩
    · rw [if_neg fun hi => hinvalid.2 hi hv, if_neg (by omega), if_neg]
      rintro ⟨ht, hlt⟩
      obtain hat | hat := hat
      · exact absurd ht (by simp [hat])
      · omega
  · have hexec : exec (.signalPacket id) s = .next (issueSignal s p.ctx 0 (pktField p 16 2) (pktField p 18 1 == 1) (pktField p 24 8) (some id)) := by
      show execSignalPacket id s = _
      unfold execSignalPacket
      rw [h]
    exact ⟨_, _, hexec, tget_tset_same .., rfl, rfl, rfl, rfl, mem_sched.2 (.inl rfl)⟩
  · show execWaitPacket id s = _
    unfold execWaitPacket
    rw [h]
    rfl
  · show execTimerPacket id s = _
    unfold execTimerPacket
    rw [h]
    dsimp only
    rw [hmap, timeBytes]
  · show execTimerPacket id s = _
    unfold execTimerPacket
    rw [h]
    dsimp only
    rw [hmap]
  · intro peer pa ha
    show execCopyPacket id s = _
    unfold execCopyPacket
    rw [h]
    dsimp only
    rw [ha]
    rfl
  · intro peer pa ha hb hread
    show execCopyPacket id s = _
    unfold execCopyPacket
    rw [h]
    dsimp only
    rw [ha, hb]
    dsimp only
    rw [hread]
  · intro peer pa s1 bs ha hb hread
    show execCopyPacket id s = _
    unfold execCopyPacket
    rw [h]
    dsimp only
    rw [ha, hb]
    dsimp only
    rw [hread]
    rfl
  · show execFencePacket id s = _
    unfold execFencePacket
    rw [h]
    rfl
end

end Sys2Proof.Machine

namespace Sys2Proof.Machine

/-! ### Queues (23 R344) -/

section
variable {s : State} {ctx q : Nat} {c : Ctx} {v : Queue}

theorem drawUpTo_le (s : State) (n : Nat) : drawUpTo s n ≤ n := by
  unfold drawUpTo
  exact Nat.lt_succ_iff.1 (Nat.mod_lt _ (Nat.succ_pos n))

theorem wakeFetcher_ctxs (s : State) : (wakeFetcher s).ctxs = s.ctxs := by
  unfold wakeFetcher
  split <;> rfl

theorem wakeFetcher_pkts (s : State) : (wakeFetcher s).pkts = s.pkts := by
  unfold wakeFetcher
  split <;> rfl

theorem mem_wakeFetcher {e : Nat × Instr} (h : e ∈ s.agenda) : e ∈ (wakeFetcher s).agenda := by
  unfold wakeFetcher
  split
  · exact h
  · exact mem_sched.2 (.inr h)

/-- The fetcher is on its way, or sets out within 16 cycles. -/
theorem wakeFetcher_wakes (s : State) :
    (∃ d, d ≤ s.cycle + 16 ∧ (d, Instr.packetFetch) ∈ (wakeFetcher s).agenda) ∨ ∃ e ∈ (wakeFetcher s).agenda, e.2 = Instr.packetFetch := by
  unfold wakeFetcher
  split
  · next h =>
    obtain ⟨e, he, hop⟩ := List.any_eq_true.1 h
    exact .inr ⟨e, he, beq_iff_eq.1 hop⟩
  · exact .inl ⟨_, Nat.add_le_add_left (drawUpTo_le ..) _, mem_sched.2 (.inl rfl)⟩

theorem queueOf_congr {u : State} (h : u.ctxs = s.ctxs) (ctx q : Nat) : queueOf u ctx q = queueOf s ctx q := by
  rw [queueOf, queueOf, getC, getC, h]

theorem queueOf_setQueue (hc : getC s ctx = some c) (v : Queue) : queueOf (setQueue s ctx q v) ctx q = some v := by
  rw [setQueue_eq hc, queueOf_eq (getC_setC_same ..)]
  exact tget_tset_same ..

/-- A doorbell for a queue that is there. -/
theorem execWptr_of (hr : s.dev.ready = true) (hv : queueOf s ctx q = some v) (h0 : v.state ≠ 0) (w : Word) : execWptr ctx q w s =
    .next (if v.state = 1 ∧ 2 ^ v.k < (w - v.rptr).toNat then queueError (setQueue s ctx q { v with wptr := w }) ctx q (packetAddr v v.rptr.toNat)
      else wakeFetcher (setQueue s ctx q { v with wptr := w })) := by
  unfold execWptr
  rw [hr, if_pos rfl, hv]
  dsimp only
  rw [if_neg h0]
  split <;> rfl

theorem wptr_takes (hr : s.dev.ready = true) (hc : getC s ctx = some c) (hv : tget q c.queues = some v) (h0 : v.state = 1 ∨ v.state = 2) {w : Word}
    (hfit : v.state = 2 ∨ (w - v.rptr).toNat ≤ 2 ^ v.k) : ∃ u, exec (.wptr ctx q w) s = .next u ∧ queueOf u ctx q = some { v with wptr := w } ∧
      ((∃ d, d ≤ s.cycle + 16 ∧ (d, Instr.packetFetch) ∈ u.agenda) ∨ ∃ e ∈ u.agenda, e.2 = Instr.packetFetch) := by
  have hcycle : (setQueue s ctx q { v with wptr := w }).cycle = s.cycle := by rw [setQueue_eq hc]; rfl
  refine ⟨wakeFetcher (setQueue s ctx q { v with wptr := w }), ?_, ?_, ?_⟩
  · rw [exec_wptr, execWptr_of hr ((queueOf_eq hc).trans hv) (by omega), if_neg (by omega)]
  · rw [queueOf_congr (wakeFetcher_ctxs _), queueOf_setQueue hc]
  · rw [← hcycle]
    exact wakeFetcher_wakes _

theorem bits_statusEntry_addr (kind cause code core slot : Nat) (task : DWord) (addr data : Nat) :
    bits (statusEntry kind cause code core slot task addr data).toNat 128 64 = addr % 2 ^ 64 := by
  have htask : task.toNat < 2 ^ 64 := task.isLt
  rw [statusEntry, bits, BitVec.toNat_ofNat]
  omega

theorem wptr_overruns (hr : s.dev.ready = true) (hc : getC s ctx = some c) (hv : tget q c.queues = some v) (h1 : v.state = 1) {w : Word}
    (hover : 2 ^ v.k < (w - v.rptr).toNat) (hcap : c.status.length < c.statusCap) : ∃ u x e, exec (.wptr ctx q w) s = .next u ∧
      queueOf u ctx q = some { v with wptr := w, state := 2 } ∧ getC u ctx = some x ∧ x.status = c.status ++ [e] ∧
      bits e.toNat 0 8 = kQueueError ∧ bits e.toNat 128 64 = (v.base + 64 * (v.rptr.toNat % 2 ^ v.k)) % 2 ^ 64 := by
  have hset : getC (setQueue s ctx q { v with wptr := w }) ctx = some { c with queues := tset q { v with wptr := w } c.queues } := by
    rw [setQueue_eq hc]
    exact getC_setC_same ..
  have herror := queueError_room hset (queueOf_setQueue hc _) (show v.state ≠ 2 by omega) hcap (packetAddr v v.rptr.toNat)
  have hexec := execWptr_of hr ((queueOf_eq hc).trans hv) (by omega) w
  rw [if_pos ⟨h1, hover⟩, herror] at hexec
  exact ⟨_, _, _, hexec, (queueOf_eq (getC_setC_same ..)).trans (tget_tset_same ..), getC_setC_same .., rfl, bits_statusEntry_kind .., bits_statusEntry_addr ..⟩

/-- A packet of a queue that RESET drops: one that has not begun. -/
def isDropped (ctx q : Nat) (p : Nat × Pkt) : Bool := p.2.ctx == ctx && p.2.q == q && p.2.phase != .begun

theorem reset_spec (hr : s.dev.ready = true) (hc : getC s ctx = some c) (hv : tget q c.queues = some v) (h0 : v.state = 1 ∨ v.state = 2) :
    ∃ u r, exec (.reset ctx q) s = .next u ∧ queueOf u ctx q = some r ∧ r.rptr = v.wptr ∧ r.wptr = v.wptr ∧ r.state = 1 ∧
      (∀ p ∈ u.pkts, p.2.ctx = ctx → p.2.q = q → p.2.phase = .begun) ∧ ∀ p ∈ s.pkts, p.2.phase = .begun → p ∈ u.pkts := by
  have hexec : ∃ begun, exec (.reset ctx q) s = .next (setQueue { s with pkts := s.pkts.filter (fun p => !isDropped ctx q p) } ctx q
      { v with rptr := v.wptr, state := 1, open_ := begun }) := by
    rw [exec_reset]
    unfold execReset
    rw [hr, if_pos rfl, queueOf_eq hc, hv]
    dsimp only
    rw [if_neg (by omega)]
    exact ⟨_, rfl⟩
  obtain ⟨begun, hexec⟩ := hexec
  have hpkts : (setQueue { s with pkts := s.pkts.filter (fun p => !isDropped ctx q p) } ctx q { v with rptr := v.wptr, state := 1, open_ := begun }).pkts =
      s.pkts.filter (fun p => !isDropped ctx q p) := by
    rw [setQueue_eq (s := { s with pkts := s.pkts.filter (fun p => !isDropped ctx q p) }) hc]
    rfl
  refine ⟨_, _, hexec, queueOf_setQueue (s := { s with pkts := s.pkts.filter (fun p => !isDropped ctx q p) }) hc _, rfl, rfl, rfl, fun p hp => ?_, fun p hp hb => ?_⟩
  · rw [hpkts] at hp
    intro hctx hq
    have := (List.mem_filter.1 hp).2
    simpa [isDropped, hctx, hq] using this
  · rw [hpkts]
    exact List.mem_filter.2 ⟨hp, by simp [isDropped, hb]⟩
end

/-! ### Packets (20 R315) -/

section
variable {s : State} {ctx q id : Nat} {v : Queue} {p : Pkt}

/-- A packet's address is mapped, and no entry on the way to it has an uncorrectable error. -/
def isMapped (s : State) (ctx va : Nat) : Bool := match (pageWalk s ctx va).leaf with
  | some (e, _) => leafAllows e false && (walkPoison s ctx va).isNone
  | none => false

theorem isMapped_iff {va : Nat} : isMapped s ctx va = true ↔
    walkPoison s ctx va = none ∧ ∃ e pb, (pageWalk s ctx va).leaf = some (e, pb) ∧ leafAllows e false = true := by
  unfold isMapped
  split
  · next e pb hleaf => simp [hleaf, Option.isNone_iff_eq_none, and_comm]
  · next hleaf => simp [hleaf]

/-- The packet that is fetched. -/
def fetchedPkt (s : State) (ctx q : Nat) (v : Queue) : Pkt :=
  ⟨ctx, q, v.rptr.toNat, 0, if isMapped s ctx (packetAddr v v.rptr.toNat) then .fetching else .stalled, packetAddr v v.rptr.toNat, 0, none⟩

/-- The state with the packet taken from its queue. -/
def packetTaken (s : State) (ctx q : Nat) (v : Queue) : State :=
  fresh { setQueue s ctx q { v with rptr := v.rptr + 1, open_ := v.open_ ++ [s.nextId] } with
    pkts := tset s.nextId (fetchedPkt s ctx q v) (setQueue s ctx q { v with rptr := v.rptr + 1, open_ := v.open_ ++ [s.nextId] }).pkts
    lastQueue := ctx * 16 + q + 1 }

/-- The packet's arrival, or the end of the wait for its page, is due. -/
def packetDue (s : State) (ctx q : Nat) (v : Queue) : State :=
  if isMapped s ctx (packetAddr v v.rptr.toNat) then sched (packetTaken s ctx q v) (s.cycle + frontTime s ctx (packetAddr v v.rptr.toNat)) (.packetBegin s.nextId)
  else bump (sched (packetTaken s ctx q v) (s.cycle + 1 + Config.freeNat s.free) (.packetBegin s.nextId))

theorem packetFetch_eq (h : nextQueue s = some (ctx, q, v)) : exec .packetFetch s =
    .next (if (nextQueue (packetDue s ctx q v)).isSome then wakeFetcher (packetDue s ctx q v) else packetDue s ctx q v) := by
  show execPacketFetch s = _
  unfold execPacketFetch
  rw [h]
  rfl
theorem packetTaken_queue {c : Ctx} (hc : getC s ctx = some c) :
    queueOf (packetTaken s ctx q v) ctx q = some { v with rptr := v.rptr + 1, open_ := v.open_ ++ [s.nextId] } :=
  queueOf_setQueue hc _

theorem packetDue_ctxs (s : State) (ctx q : Nat) (v : Queue) : (packetDue s ctx q v).ctxs = (packetTaken s ctx q v).ctxs := by
  unfold packetDue
  split <;> rfl

theorem packetDue_pkts (s : State) (ctx q : Nat) (v : Queue) : (packetDue s ctx q v).pkts = (packetTaken s ctx q v).pkts := by
  unfold packetDue
  split <;> rfl

theorem packetFetch_takes {c : Ctx} (h : nextQueue s = some (ctx, q, v)) (hc : getC s ctx = some c) :
    let va := packetAddr v v.rptr.toNat
    let mapped := walkPoison s ctx va = none ∧ ∃ e pb, (pageWalk s ctx va).leaf = some (e, pb) ∧ leafAllows e false = true
    ∃ u p, exec .packetFetch s = .next u ∧ tget s.nextId u.pkts = some p ∧ p.ctx = ctx ∧ p.q = q ∧ p.va = va ∧
      queueOf u ctx q = some { v with rptr := v.rptr + 1, open_ := v.open_ ++ [s.nextId] } ∧
      (mapped → p.phase = .fetching ∧ (s.cycle + frontTime s ctx va, Instr.packetBegin s.nextId) ∈ u.agenda) ∧
      (¬ mapped → p.phase = .stalled ∧ ∃ d, s.cycle < d ∧ (d, Instr.packetBegin s.nextId) ∈ u.agenda) := by
  dsimp only
  rw [← isMapped_iff]
  generalize hu : (if (nextQueue (packetDue s ctx q v)).isSome then wakeFetcher (packetDue s ctx q v) else packetDue s ctx q v) = u
  have hctxs : u.ctxs = (packetDue s ctx q v).ctxs := by
    rw [← hu]
    split
    · exact wakeFetcher_ctxs _
    · rfl
  have hpkts : u.pkts = (packetDue s ctx q v).pkts := by
    rw [← hu]
    split
    · exact wakeFetcher_pkts _
    · rfl
  have hagenda : ∀ e ∈ (packetDue s ctx q v).agenda, e ∈ u.agenda := by
    intro e he
    rw [← hu]
    split
    · exact mem_wakeFetcher he
    · exact he
  refine ⟨u, fetchedPkt s ctx q v, by rw [packetFetch_eq h, hu], ?_, rfl, rfl, rfl, ?_, fun hm => ⟨?_, hagenda _ ?_⟩, fun hm => ⟨?_, s.cycle + 1 + Config.freeNat s.free, by omega, hagenda _ ?_⟩⟩
  · rw [hpkts, packetDue_pkts]
    exact tget_tset_same ..
  · rw [queueOf_congr hctxs, queueOf_congr (packetDue_ctxs ..)]
    exact packetTaken_queue hc
  · exact if_pos hm
  · rw [packetDue, if_pos hm]
    exact mem_sched.2 (.inl rfl)
  · exact if_neg hm
  · rw [packetDue, if_neg hm]
    exact mem_sched.2 (.inl rfl)

/-- What a packet of a queue does by its phase. -/
theorem packetBegin_eq (hp : tget id s.pkts = some p) (hv : queueOf s p.ctx p.q = some v) : exec (.packetBegin id) s = (match p.phase with
    | .stalled =>
      (match mapFor s p.ctx p.va false with
       | none => .next (queueError s p.ctx p.q p.va)
       | some s1 =>
         let s2 := { s1 with pkts := tset id { p with phase := .fetching } s1.pkts }
         .next (wakeFetcher (sched s2 (s.cycle + frontTime s2 p.ctx p.va) (.packetBegin id))))
    | .fetching =>
      let p1 := { p with phase := .fetched, bits := BitVec.ofNat 512 (leNat (virtBytes s p.ctx p.va 64)) }
      if (virtPoison s p.ctx p.va 64).isSome then .next (queueError s p.ctx p.q p.va) else tryBegin { s with pkts := tset id p1 s.pkts } id p1 v
    | .fetched => tryBegin s id p v
    | .begun => if pktType p = 2 then execTasksPacket id s else .next s) := by
  show execPacketBegin id s = _
  unfold execPacketBegin
  simp only [hp, hv] <;> cases p.phase <;> rfl

theorem tryBegin_not (h : v.state ≠ 1 ∨ mayBegin s v id p = false) : tryBegin s id p v = .next s := by
  rw [tryBegin, if_pos (by simpa using h)]

/-- A packet whose turn it is. -/
theorem tryBegin_turn (h1 : v.state = 1) (hm : mayBegin s v id p = true) : tryBegin s id p v =
    if (!pktValid s p) = true then .next (queueError s p.ctx p.q p.va)
    else if pktType p = 1 ∧ s.dev.activation.isSome = true then .next s
    else if pktAt p = true ∧ pktType p ≠ 1 ∧ pktType p ≠ 2 ∧ s.time < pktNbt p then .next (schedAt s (pktNbt p) (.packetBegin id))
    else runPacket (lookAgain { s with pkts := tset id { p with phase := .begun } s.pkts } v) id (pktType p) := by
  rw [tryBegin, if_neg (by simp [h1, hm])]

theorem pktType_of_valid (h : pktValid s p = true) : pktType p ≠ 0 := by
  intro h0
  rw [pktValid, h0] at h
  simp at h

theorem packetComplete_begun (hp : tget id s.pkts = some p) (hv : queueOf s p.ctx p.q = some v) (hb : p.phase = .begun) :
    let w := { v with open_ := v.open_.filter (fun j => j != id) }
    let s1 := { s with pkts := tdel id s.pkts }
    let s2 := lookAgain (setQueue s1 p.ctx p.q w) w
    exec (.packetComplete id) s = .next (if pktSig p then issueSignal s2 p.ctx 0 (pktField p 2 2) false (2 ^ 64 - 1) none else s2) := by
  have hv1 : queueOf { s with pkts := tdel id s.pkts } p.ctx p.q = some v := hv
  show execPacketComplete id s = _
  unfold execPacketComplete
  rw [hp]
  dsimp only
  rw [if_neg (by simp [hb]), hv1]
end

/-- Settles O44: queues through what setting one leaves, packets by their phase. -/
theorem queuesAndPackets : Obligations.QueuesAndPackets := by
  unfold Obligations.QueuesAndPackets
  refine ⟨fun ctx q s c hc hr => ⟨fun base k hq hlt hk hk' => ?_, fun base k h => ?_, fun v w hv h0 => ⟨fun h => wptr_takes hr hc hv h0 h, fun h1 hover hcap => wptr_overruns hr hc hv h1 hover hcap⟩,
    fun v hv h0 => reset_spec hr hc hv h0⟩, fun s ctx q v h c hc => packetFetch_takes h hc, fun s h => ?_, fun id s p v hp hv => ?_⟩
  · show execQueueCreate ctx q base k s = _
    unfold execQueueCreate
    rw [hc]
    dsimp only
    rw [if_pos ⟨hr, hlt, hk, hk', by rw [hq]; rfl⟩, setQueue_eq hc]
  · show execQueueCreate ctx q base k s = _
    unfold execQueueCreate
    rw [hc]
    dsimp only
    refine if_neg ?_
    rintro ⟨-, hq, hk, hk', hnone⟩
    obtain h | h | h | h := h
    · rw [Option.isNone_iff_eq_none] at hnone
      simp [hnone] at h
    all_goals omega
  · show execPacketFetch s = _
    unfold execPacketFetch
    rw [h]
  · have hexec := packetBegin_eq hp hv
    refine ⟨fun hph hpoison => ?_, fun hph hpoison => ?_, fun hph => ⟨fun hmap => ?_, fun s1 hmap => ?_⟩,
      fun hph => ⟨fun h => ?_, fun h1 hm hval => ?_, fun h1 hm hval hat hty hlt => ?_, fun h1 hm hval hact hat => ?_⟩, packetComplete_begun hp hv⟩ <;>
      rw [hph] at hexec <;> dsimp only at hexec
    · rw [hexec, if_pos hpoison]
    · rw [hexec, hpoison, if_neg (by decide)]
    · rw [hexec, hmap]
    · rw [hexec, hmap]
    · rw [hexec, tryBegin_not h]
    · rw [hexec, tryBegin_turn h1 hm, hval, if_pos (by rfl)]
    · rw [hexec, tryBegin_turn h1 hm, hval, if_neg (by decide), if_neg (by omega), if_pos ⟨hat, by omega, by omega, hlt⟩]
    · have hty := pktType_of_valid hval
      have hrun : ¬ (pktType p = 1 ∧ s.dev.activation.isSome = true) := fun ⟨ht, ha⟩ => by simp [hact ht] at ha
      have hnow : ¬ (pktAt p = true ∧ pktType p ≠ 1 ∧ pktType p ≠ 2 ∧ s.time < pktNbt p) := by
        rintro ⟨ha, h1, h2, hlt⟩
        obtain h | h | h := hat
        · simp [ha] at h
        · omega
        · omega
      rw [hexec, tryBegin_turn h1 hm, hval, if_neg (by decide), if_neg hrun, if_neg hnow]

end Sys2Proof.Machine

namespace Sys2Proof.Machine

/-! ### The order of ready tasks (20 R310) -/

/-- A key in the order of keys: none is after every one. -/
def keyRank (k : Option Int) : WithTop Int := k

/-- A ready task in the order in which they are placed: the highest priority, the earliest key, the first to be ready. -/
def candRank (c : Cand) : ℕᵒᵈ ×ₗ WithTop Int ×ₗ Nat := toLex (OrderDual.toDual c.prio, toLex (keyRank c.key, c.ready.order))

theorem keyBefore_iff (a b : Option Int) : keyBefore a b = true ↔ keyRank a < keyRank b := by
  match a, b with
  | some x, some y => exact decide_eq_true_iff.trans WithTop.coe_lt_coe.symm
  | some x, none => exact ⟨fun _ => WithTop.coe_lt_top x, fun _ => rfl⟩
  | none, b => exact ⟨fun h => by simp [keyBefore] at h, fun h => absurd h not_top_lt⟩

theorem keyBefore_eq_false_iff (a b : Option Int) : keyBefore a b = false ↔ keyRank b ≤ keyRank a := by
  rw [← not_lt, ← keyBefore_iff, Bool.not_eq_true]

theorem better_iff (a b : Cand) : better a b = true ↔ candRank a ≤ candRank b := by
  have hrank : candRank a ≤ candRank b ↔ b.prio < a.prio ∨ a.prio = b.prio ∧
      (keyRank a.key < keyRank b.key ∨ keyRank a.key = keyRank b.key ∧ a.ready.order ≤ b.ready.order) := by
    simp only [candRank, Prod.Lex.toLex_le_toLex, OrderDual.toDual_lt_toDual, OrderDual.toDual_inj]
  rw [hrank, better]
  split
  · next h =>
    rw [decide_eq_true_iff]
    exact ⟨.inl, fun h' => h'.resolve_right fun h'' => h h''.1⟩
  · next h =>
    rw [not_ne_iff] at h
    rw [or_iff_right (by omega), and_iff_right h]
    split
    · next hlt =>
      rw [keyBefore_iff] at hlt
      exact ⟨fun _ => .inl hlt, fun _ => rfl⟩
    · next hab =>
      rw [keyBefore_iff] at hab
      rw [or_iff_right hab]
      split
      · next hba =>
        rw [keyBefore_iff] at hba
        exact ⟨fun h => by simp at h, fun h' => absurd h'.1 (ne_of_gt hba)⟩
      · next hba =>
        rw [keyBefore_iff] at hba
        rw [decide_eq_true_iff, and_iff_right (le_antisymm (not_lt.1 hba) (not_lt.1 hab))]

theorem best_first {cs : List Cand} {c : Cand} (h : best cs = some c) : c ∈ cs ∧ ∀ x ∈ cs, candRank c ≤ candRank x := by
  obtain ⟨tail, htail⟩ := List.head?_eq_some_iff.1 h
  refine ⟨mem_sortBy.1 (htail ▸ List.mem_cons_self), fun x hx => (better_iff c x).1 ?_⟩
  refine sortBy_head_le (fun a b => ?_) (fun a b c => ?_) htail x hx
  · rw [better_iff, better_iff]
    exact le_total _ _
  · rw [better_iff, better_iff, better_iff]
    exact le_trans

theorem best_spec {cs : List Cand} {c : Cand} (h : best cs = some c) : c ∈ cs ∧ ∀ x ∈ cs, x.prio ≤ c.prio ∧
    (x.prio = c.prio → keyBefore x.key c.key = false ∧ (keyBefore c.key x.key = false → c.ready.order ≤ x.ready.order)) := by
  obtain ⟨hmem, hall⟩ := best_first h
  refine ⟨hmem, fun x hx => ?_⟩
  have hle := hall x hx
  simp only [candRank, Prod.Lex.toLex_le_toLex, OrderDual.toDual_lt_toDual, OrderDual.toDual_inj] at hle
  rw [keyBefore_eq_false_iff, keyBefore_eq_false_iff]
  obtain hlt | ⟨heq, hle⟩ := hle
  · exact ⟨hlt.le, fun h => absurd h hlt.ne⟩
  · refine ⟨heq.ge, fun _ => ?_⟩
    obtain hlt | ⟨hkey, horder⟩ := hle
    · exact ⟨hlt.le, fun h => absurd hlt (not_lt.2 h)⟩
    · exact ⟨hkey.le, fun _ => horder⟩

/-! ### The core of a placement -/

theorem foldl_max_ge (l : List Nat) (a : Nat) : a ≤ l.foldl Nat.max a ∧ ∀ x ∈ l, x ≤ l.foldl Nat.max a := by
  induction l generalizing a with
  | nil => simp
  | cons y rest ih =>
    obtain ⟨hinit, hall⟩ := ih (Nat.max a y)
    refine ⟨(Nat.le_max_left a y).trans hinit, fun x hx => ?_⟩
    obtain rfl | hx := List.mem_cons.1 hx
    · exact (Nat.le_max_right a x).trans hinit
    · exact hall x hx

/-- The cores that take a task rise. -/
theorem takers_sorted (s : State) (c : Cand) (die : Nat) : (takers s c die).Pairwise (fun a b => a.1 < b.1) := by
  unfold takers
  rw [List.pairwise_filterMap]
  refine List.pairwise_lt_range.imp fun {j k} hjk a ha b hb => ?_
  have hcore : ∀ {k : Nat} {a : Nat × Nat}, (if coreHeld s (die * 384 + k) then none else
      (coreTakes s c (die * 384 + k) none).map (fun u => (die * 384 + k, u))) = some a → a.1 = die * 384 + k := by
    intro k a h
    split at h
    · simp at h
    · obtain ⟨u, -, rfl⟩ := Option.map_eq_some_iff.1 h
      rfl
  rw [hcore ha, hcore hb]
  omega

theorem chooseCore_spec {s : State} {c : Cand} {die : Nat} {t : Nat × Nat} (h : chooseCore s (takers s c die) = some t) : t ∈ takers s c die ∧
    ∀ x ∈ takers s c die, (freeSlots s x.1).length ≤ (freeSlots s t.1).length ∧ ((freeSlots s x.1).length = (freeSlots s t.1).length → t.1 ≤ x.1) := by
  obtain ⟨hmost, before, after, hsplit, hbefore⟩ := List.find?_eq_some_iff_append.1 h
  have hmost := beq_iff_eq.1 hmost
  have hall := (foldl_max_ge ((takers s c die).map (fun t => (freeSlots s t.1).length)) 0).2
  refine ⟨List.mem_of_find?_eq_some h, fun x hx => ⟨?_, fun heq => ?_⟩⟩
  · rw [hmost]
    exact hall _ (List.mem_map_of_mem hx)
  · have hsorted := takers_sorted s c die
    rw [hsplit, List.pairwise_append, List.pairwise_cons] at hsorted
    obtain ⟨-, ⟨hafter, -⟩, -⟩ := hsorted
    rw [hsplit] at hx
    obtain hx | hx := List.mem_append.1 hx
    · have := hbefore x hx
      rw [heq, hmost] at this
      simp at this
    · obtain rfl | hx := List.mem_cons.1 hx
      · exact le_refl _
      · exact (hafter x hx).le

/-! ### Decisions (20 R310) -/

section
variable {s : State} {die pool : Nat}

theorem dispatch_idle (h : s.dev.activation.isSome = true ∨ candsOf s pool = [] ∨ ¬ ∃ k < 384, poolOf s (die * 384 + k) = pool) :
    exec (.dispatchDecision die pool) s = .next s := by
  refine if_pos (h.imp id (Or.imp List.isEmpty_iff.2 fun hnone => ?_))
  rw [Bool.not_eq_true', List.any_eq_false]
  exact fun k hk hp => hnone ⟨k, List.mem_range.1 hk, beq_iff_eq.1 hp⟩

/-- The tasks a station may place: those that became ready before this cycle and that a core of the die takes. -/
def placeable (s : State) (die pool : Nat) : List Cand := (decidable_ s pool).filter (fun c => !(takers s c die).isEmpty)

/-- The better tasks that no core takes. -/
def stuckAbove (s : State) (die pool : Nat) : List Cand := (decidable_ s pool).filter (fun u =>
  ((placeable s die pool).isEmpty || decide (((placeable s die pool).map Cand.prio).foldl Nat.max 0 < u.prio)) && unplaceable s u)

theorem decide_places {c : Cand} {t : Nat × Nat} (hbest : best (placeable s die pool) = some c) (ht : chooseCore s (takers s c die) = some t)
    (hstuck : best (stuckAbove s die pool) = none) : decide_ s die pool = placeCand s c t.1 t.2 := by
  unfold placeable at hbest
  unfold stuckAbove placeable at hstuck
  unfold decide_
  dsimp only
  rw [hstuck]
  dsimp only
  rw [hbest]
  dsimp only
  rw [ht]

theorem dispatch_places {c : Cand} {t : Nat × Nat} (ha : s.dev.activation = none) (hhere : ∃ k < 384, poolOf s (die * 384 + k) = pool)
    (hbest : best (placeable s die pool) = some c) (ht : chooseCore s (takers s c die) = some t) (hstuck : best (stuckAbove s die pool) = none) :
    exec (.dispatchDecision die pool) s = .next (if (candsOf (placeCand s c t.1 t.2) pool).isEmpty then placeCand s c t.1 t.2
      else schedOnce (placeCand s c t.1 t.2) ((s.cycle / 4 + 1) * 4) (.dispatchDecision die pool)) := by
  obtain ⟨k, hk, hp⟩ := hhere
  have hcand : c ∈ candsOf s pool := (List.mem_filter.1 (List.mem_filter.1 (best_first hbest).1).1).1
  have hdecides : ¬ (s.dev.activation.isSome = true ∨ (candsOf s pool).isEmpty = true ∨
      (!(List.range 384).any (fun k => poolOf s (die * 384 + k) == pool)) = true) := by
    rintro (h | h | h)
    · simp [ha] at h
    · rw [List.isEmpty_iff.1 h] at hcand
      simp at hcand
    · rw [Bool.not_eq_true', List.any_eq_false] at h
      exact h k (List.mem_range.2 hk) (beq_iff_eq.2 hp)
  show execDispatchDecision die pool s = _
  rw [execDispatchDecision, if_neg hdecides, decide_places hbest ht hstuck]
  dsimp only
  split <;> rfl
end

/-! ### Pools (20 R299, R314) -/

/-- The pools listed, those of pool 0 left out. -/
theorem tget_assigned (pools : List Nat) (n c : Nat) : tget c (((pools.zipIdx n).filter (fun p => p.1 != 0)).map (fun p => (p.2, p.1))) =
    if n ≤ c ∧ nth 0 (c - n) pools ≠ 0 then some (nth 0 (c - n) pools) else none := by
  induction pools generalizing n with
  | nil =>
    have hnil : nth 0 (c - n) ([] : List Nat) = 0 := nth_past 0 [] _ (Nat.zero_le _)
    rw [hnil]
    simp [tget]
  | cons p rest ih =>
    have htail : n ≤ c → c ≠ n → nth 0 (c - n) (p :: rest) = nth 0 (c - (n + 1)) rest := fun hle hne => by
      rw [show c - n = c - (n + 1) + 1 by omega]
      rfl
    have hhead : c = n → nth 0 (c - n) (p :: rest) = p := fun heq => by
      rw [heq, Nat.sub_self]
      rfl
    rw [List.zipIdx_cons, List.filter_cons]
    by_cases hcn : c = n
    · rw [hhead hcn]
      split
      · next hp => simp_all [tget]
      · next hp =>
        rw [ih, if_neg (by omega), if_neg (by simp_all)]
    · have hrest : tget c (((rest.zipIdx (n + 1)).filter (fun p => p.1 != 0)).map (fun p => (p.2, p.1))) =
          if n ≤ c ∧ nth 0 (c - n) (p :: rest) ≠ 0 then some (nth 0 (c - n) (p :: rest)) else none := by
        rw [ih]
        by_cases hle : n ≤ c
        · rw [htail hle hcn]
          have : n + 1 ≤ c := by omega
          simp [hle, this]
        · rw [if_neg (by omega), if_neg (by omega)]
      split
      · rw [List.map_cons, tget, if_neg (Ne.symm hcn)]
        exact hrest
      · exact hrest

theorem assigned_pool (pools : List Nat) (c : Nat) :
    (tget c ((pools.zipIdx.filter (fun p => p.1 != 0)).map (fun p => (p.2, p.1)))).getD 0 = nth 0 c pools := by
  rw [tget_assigned, Nat.sub_zero]
  split
  · rfl
  · next h =>
    rw [Option.getD_none]
    by_contra hne
    exact h ⟨Nat.zero_le c, Ne.symm hne⟩

section
variable {s : State}

theorem evaluatePool_none {pool : Nat} {b : PoolSt} (hb : tget pool s.bridle = some b)
    (h : b.settling = true ∨ occupancy s pool ≤ b.par.high ∨ b.par.maxc ≤ (poolCores s pool).length ∨ b.par.minc = b.par.maxc) : evaluatePool s pool = s := by
  rw [evaluatePool, hb]
  exact if_pos (h.imp id (Or.imp id (Or.imp id Or.inl)))

theorem poolAssign_takes {pools : List Nat} (hr : s.dev.ready = true) (ha : s.assigned = false) (hp : s.pools = []) (ho : s.owners = []) (hy : s.ready = [])
    (hlen : pools.length = 3072) (hall : ∀ p ∈ pools, p < 16) :
    ∃ u, exec (.poolAssign pools) s = .next u ∧ u.mem = s.mem ∧ u.assigned = true ∧ ∀ c < 3072, poolOf u c = nth 0 c pools := by
  have hok : s.dev.ready = true ∧ (!s.assigned) = true ∧ s.pools.isEmpty = true ∧ s.owners.isEmpty = true ∧ s.ready.isEmpty = true ∧ pools.length = 3072 ∧
      pools.all (fun p => decide (p < 16)) = true :=
    ⟨hr, by rw [ha]; rfl, by rw [hp]; rfl, by rw [ho]; rfl, by rw [hy]; rfl, hlen, List.all_eq_true.2 fun p hp => decide_eq_true (hall p hp)⟩
  have hexec : exec (.poolAssign pools) s = .next { s with pools := (pools.zipIdx.filter (fun p => p.1 != 0)).map (fun p => (p.2, p.1)), assigned := true } := by
    show execPoolAssign pools s = _
    rw [execPoolAssign, if_pos hok]
  exact ⟨_, hexec, rfl, rfl, fun c _ => assigned_pool pools c⟩

theorem poolAssign_refused {pools : List Nat} (h : s.assigned = true ∨ s.pools ≠ [] ∨ s.owners ≠ [] ∨ s.ready ≠ []) :
    exec (.poolAssign pools) s = .next s := by
  show execPoolAssign pools s = _
  rw [execPoolAssign]
  refine if_neg ?_
  intro hok
  obtain ⟨hr, ha, hp, ho, hy, hlen⟩ := hok
  have hp := List.isEmpty_iff.1 hp
  have ho := List.isEmpty_iff.1 ho
  have hy := List.isEmpty_iff.1 hy
  obtain h | h | h | h := h
  · simp [h] at ha
  · exact h hp
  · exact h ho
  · exact h hy

theorem bridleSet_takes {pool : Nat} {p : BridleParams} (h : s.dev.ready = true ∧ pool < 16 ∧ p.low < 65536 ∧ p.high < 65536 ∧ p.minc ≤ p.maxc ∧
    p.maxc ≤ 3072 ∧ 1 ≤ p.step ∧ p.step ≤ 64) : exec (.bridleSet pool p) s =
      .next { s with bridle := tset pool ⟨p, ((tget pool s.bridle).map PoolSt.settling).getD false⟩ s.bridle } := by
  show execBridleSet pool p s = _
  rw [execBridleSet, if_pos h]
  cases tget pool s.bridle <;> rfl
end

/-- Settles O40: a decision by the order of ready tasks, which is a linear order of their ranks. -/
theorem dispatchAndPools : Obligations.DispatchAndPools := by
  unfold Obligations.DispatchAndPools
  refine ⟨⟨fun die pool s => ⟨dispatch_idle, fun c t ha hhere hbest ht hstuck => dispatch_places ha hhere hbest ht hstuck⟩, fun cs c => best_spec,
      fun s c die t => chooseCore_spec⟩,
    fun pools s => ⟨poolAssign_takes, poolAssign_refused⟩, fun pool p s => ⟨bridleSet_takes, fun h => if_neg h⟩,
    fun pool s b hb => ⟨?_, evaluatePool_none hb⟩, fun s => ⟨fun hr => ?_, fun hr => ?_⟩⟩
  · show execSettleExpire pool s = _
    rw [execSettleExpire, hb]
  · show execBridleEvaluate s = _
    rw [execBridleEvaluate, hr, if_pos (by rfl)]
  · show execBridleEvaluate s = _
    rw [execBridleEvaluate, hr, if_neg (by decide)]

end Sys2Proof.Machine

namespace Sys2Proof.Machine

/-! ### Held threads (21 R326) -/

section
variable {s : State} {tid : Nat} {t : Thread}

theorem unreserve_threads (s : State) (tid : Nat) : (unreserve s tid).threads = s.threads := by
  unfold unreserve
  refine List.foldlRecOn (motive := fun u : State => u.threads = s.threads) _ _ rfl fun u hu p _ => ?_
  split
  · exact hu
  · exact hu

theorem wakeRoom_threads (s : State) (ctx : Nat) : (wakeRoom s ctx).threads = s.threads :=
  List.foldlRecOn (motive := fun u : State => u.threads = s.threads) _ _ rfl fun _ hu _ _ => hu

theorem getT_wakeAll_of_not {p : Nat → Thread → Wait → Bool} (h : ∀ v w, p tid v w = false) : getT (wakeAll p s) tid = getT s tid := by
  have hsame : wokenBy p tid = id := by
    funext v
    unfold wokenBy
    split
    · rw [if_neg (by simp [h])]
      rfl
    · rfl
  rw [getT_wakeAll, hsame, Option.map_id_fun]
  rfl

/-- What a thread that is to be saved withdraws wakes others, never itself. -/
theorem getT_rescindOps (s : State) (tid : Nat) : getT (rescindOps s tid) tid = getT s tid := by
  have hfold : ∀ (l : List (Nat × GateOp)) (u : State), getT (l.foldl (fun u p => wakeRoom u p.2.ctx) u) tid = getT u tid := fun l u =>
    List.foldlRecOn (motive := fun v : State => getT v tid = getT u tid) _ _ rfl fun v hv p _ => (getT_congr (wakeRoom_threads v p.2.ctx) tid).trans hv
  have hbase := getT_congr (unreserve_threads s tid) tid
  unfold rescindOps
  dsimp only
  split
  · rw [getT_wakeAll_of_not fun _ _ => by simp, hfold]
    exact hbase
  · rw [hfold]
    exact hbase

theorem waitOf_hold (h : getT s tid = some t) : waitOf (hold s tid t) tid = some (.saving (allRegs t)) :=
  waitOf_parkAs (t := t) ((getT_rescindOps s tid).trans h) _

/-- PDIST of the thread's task has passed. -/
def isForced (s : State) (t : Thread) : Bool := match getO s t.owner with
  | some o => o.forced
  | none => false

/-- A thread to be saved is saved as it stands once held, and looked at again in the next cycle otherwise. -/
theorem threadSave_eq (h : getT s tid = some t) (hp : t.preempt = true) : exec (.threadSave tid) s =
    (match waitOf (capture s tid t (isForced s t)) tid with
     | some (.saving live) => .next (if saveReady (capture s tid t (isForced s t)) tid then saveNow (capture s tid t (isForced s t)) tid live
        else schedOnce (capture s tid t (isForced s t)) (s.cycle + 1) (.threadSave tid))
     | _ => .next (schedOnce (capture s tid t (isForced s t)) (s.cycle + 1) (.threadSave tid))) := by
  show execThreadSave tid s = _
  unfold execThreadSave
  rw [h]
  dsimp only
  rw [hp, if_neg (by decide)]
  rfl

theorem threadSave_held {s1 : State} {live : Nat} (h : getT s tid = some t) (hp : t.preempt = true) (hc : capture s tid t (isForced s t) = s1)
    (hw : waitOf s1 tid = some (.saving live)) : exec (.threadSave tid) s =
      .next (if saveReady s1 tid then saveNow s1 tid live else schedOnce s1 (s.cycle + 1) (.threadSave tid)) := by
  rw [threadSave_eq h hp, hc, hw]

theorem waitOf_of_parked {w : Wait} (h : getT s tid = some t) (hs : t.status = .parked w) : waitOf s tid = some w := by
  rw [waitOf, h]
  dsimp only
  rw [hs]

theorem capture_saving {live : Nat} (hs : t.status = .parked (.saving live)) (forced : Bool) : capture s tid t forced = s := by
  rw [capture, hs]

theorem capture_ready (hs : t.status = .ready) (forced : Bool) : capture s tid t forced = if forced then hold s tid t else s := by
  rw [capture, hs]

theorem waitOf_ready (h : getT s tid = some t) (hs : t.status = .ready) : waitOf s tid = none := by
  rw [waitOf, h]
  dsimp only
  rw [hs]

theorem threadSave_ready {o : Owner} (h : getT s tid = some t) (hp : t.preempt = true) (hs : t.status = .ready) (ho : getO s t.owner = some o) :
    (o.forced = false → exec (.threadSave tid) s = .next (schedOnce s (s.cycle + 1) (.threadSave tid))) ∧
    (o.forced = true → exec (.threadSave tid) s = .next (if saveReady (hold s tid t) tid then saveNow (hold s tid t) tid (allRegs t)
      else schedOnce (hold s tid t) (s.cycle + 1) (.threadSave tid))) := by
  have hforced : isForced s t = o.forced := by rw [isForced, ho]
  constructor <;> intro hf
  · have hc : capture s tid t (isForced s t) = s := by rw [capture_ready hs, hforced, if_neg (by simp [hf])]
    rw [threadSave_eq h hp, hc, waitOf_ready h hs]
  · have hc : capture s tid t (isForced s t) = hold s tid t := by rw [capture_ready hs, hforced, if_pos hf]
    exact threadSave_held h hp hc (waitOf_hold h)
end

/-! ### The record of a task (21 R327, R328) -/

section
variable {s : State} {owner : Nat} {o : Owner} {p : Placement}

/-- The save of a task whose threads are all saved. -/
theorem taskSave_saved (ho : getO s owner = some o) (hp : placeOf s owner = some p) (hph : o.phase = .saving) (hs : o.saved ≠ [])
    (hl : liveThreads s owner = []) (hr : o.record_ = none) : exec (.taskSave owner) s =
      if saveWaits s owner p = true then .next (schedOnce s (s.cycle + 1) (.taskSave owner))
      else (match savePoison s owner p, o.saved with
        | some w, v :: _ =>
          .next (endThreadFault s ⟨p.core * 16 + v.slot, o.ctx, owner, .softErr, BitVec.ofNat 64 (w % onchipBase), v.t.pc, taskidOf s owner⟩)
        | _, _ => .next (sched (sched (sched (setO s owner { o with record_ := some (buildRecord s owner o p) }) (buildRecord s owner o p).tilesAt (.taskSave owner))
            (buildRecord s owner o p).hawkAt (.taskSave owner))
            (s.cycle + ceilDiv (recordSize (buildRecord s owner o p)) 64 + placeTime (p.core / 16) (.phys (freeArea s o.ctx))) (.taskSaveComplete owner))) := by
  have hgo : ¬ (o.phase ≠ .saving ∨ o.saved.isEmpty = true ∨ (!(liveThreads s owner).isEmpty) = true) := by
    simp [hph, hs, hl]
  show execTaskSave owner s = _
  unfold execTaskSave
  rw [ho, hp]
  dsimp only
  rw [if_neg hgo, hr]
  rfl
end

/-! ### Held results (18 R284) -/

section
variable {s : State} {cl : Nat}

theorem requeueSelections_none (h : ∀ c ∈ s.cmds, c.2.phase ≠ .stopped) (cl : Nat) : requeueSelections s cl = s := by
  have hnone : s.cmds.filter (fun c => c.2.phase == .stopped && c.2.live && c.2.eng == cl * 8 + 5 &&
      (match getP s c.2.owner (c.2.tid / 16) with
       | some p => decide (p.ready ≤ s.cycle)
       | none => false)) = [] := List.filter_eq_nil_iff.2 fun c hc => by simp [h c hc]
  exact congrArg (List.foldl _ s) hnone

/-- An engine that is kicked has events due; nothing else differs. -/
theorem kickEngine_same (s : State) (cl e : Nat) :
    (kickEngine s cl e).threads = s.threads ∧ (kickEngine s cl e).clusters = s.clusters ∧ (kickEngine s cl e).places = s.places :=
  List.foldlRecOn (motive := fun u : State => u.threads = s.threads ∧ u.clusters = s.clusters ∧ u.places = s.places) _ _ ⟨rfl, rfl, rfl⟩ fun _ hu _ _ => hu

/-- The engine holds the result again. -/
def resultRestored (s : State) (cl : Nat) (h : Held) : State :=
  kickEngine (setCluster s cl { clusterSt s cl with held := some h, restoring := [] }) cl 5

theorem resultRestored_cluster (s : State) (cl : Nat) (h : Held) :
    clusterSt (resultRestored s cl h) cl = { clusterSt s cl with held := some h, restoring := [] } := by
  obtain ⟨-, hclusters, -⟩ := kickEngine_same (setCluster s cl { clusterSt s cl with held := some h, restoring := [] }) cl 5
  rw [resultRestored, clusterSt, hclusters]
  exact clusterSt_setCluster_same ..

theorem heldResultRestore_none (hst : ∀ c ∈ s.cmds, c.2.phase ≠ .stopped) (hre : (clusterSt s cl).restoring = []) :
    exec (.heldResultRestore cl) s = .next s := by
  show execHeldResultRestore cl s = _
  unfold execHeldResultRestore
  rw [requeueSelections_none hst]
  dsimp only
  rw [hre]

/-- A held result returns to its free engine, and its thread goes on, its placement being ready. -/
theorem heldResultRestore_one {h : Held} {t : Thread} {p : Placement} (hst : ∀ c ∈ s.cmds, c.2.phase ≠ .stopped) (hre : (clusterSt s cl).restoring = [h])
    (heng : (engOf s (cl * 8 + 5)).exec = none) (hheld : (clusterSt s cl).held = none) (ht : getT s h.tid = some t) (hstatus : t.status = .launching)
    (hplace : getP s t.owner (h.tid / 16) = some p) (hready : p.ready ≤ s.cycle) : exec (.heldResultRestore cl) s =
      .next (setT (resultRestored s cl h) h.tid { t with status := .ready, nextIssue := turnAfter s.cycle (h.tid % 16) }) := by
  obtain ⟨hthreads, -, hplaces⟩ := kickEngine_same (setCluster s cl { clusterSt s cl with held := some h, restoring := [] }) cl 5
  have ht' : getT (resultRestored s cl h) h.tid = some t := (getT_congr hthreads _).trans ht
  have hplace' : getP (resultRestored s cl h) t.owner (h.tid / 16) = some p := (congrArg (tget (placeKeyOf t.owner (h.tid / 16))) hplaces).trans hplace
  show execHeldResultRestore cl s = _
  unfold execHeldResultRestore
  rw [requeueSelections_none hst]
  dsimp only
  rw [hre]
  dsimp only
  rw [if_neg (by simp [heng, hheld]), if_pos (by rfl)]
  show (match getT (resultRestored s cl h) h.tid with
    | none => _
    | some t => _) = _
  rw [ht']
  dsimp only
  rw [if_neg (by simp [hstatus])]
  show (if s.cycle < (match getP (resultRestored s cl h) t.owner (h.tid / 16) with
    | some p => p.ready
    | none => s.cycle) then _ else _) = _
  rw [hplace']
  exact if_neg (Nat.not_lt.2 hready)
end

/-- Settles O43: a thread is saved from what holding it leaves, a task from what its threads' saves leave. -/
theorem preemptedTasksAreSaved : Obligations.PreemptedTasksAreSaved := by
  unfold Obligations.PreemptedTasksAreSaved
  refine ⟨fun tid s t h => ⟨fun hp => ?_, fun live hp hs => ?_, fun o hp hs ho => threadSave_ready h hp hs ho⟩,
    fun owner s o ho => ⟨fun r hr hph hd hrec => ?_, fun hr => ?_, fun p hp hph hs hl hr => ⟨fun hw => ?_, fun hw hpo => ?_, fun w v rest hw hpo hv => ?_⟩, fun r hr hph => ?_⟩,
    fun cl s hst => ⟨fun hre => ?_, ?_⟩⟩
  · show execThreadSave tid s = _
    unfold execThreadSave
    rw [h]
    dsimp only
    rw [hp, if_pos (by rfl)]
  · exact threadSave_held h hp (capture_saving hs _) (waitOf_of_parked h hs)
  · show execForcedSave owner s = _
    unfold execForcedSave
    rw [ho]
    dsimp only
    rw [hr]
    exact if_pos ⟨hph, hd, by rw [hrec]; rfl⟩
  · show execForcedSave owner s = _
    unfold execForcedSave
    rw [ho]
    dsimp only
    rw [hr]
  · rw [taskSave_saved ho hp hph hs hl hr, if_pos hw]
  · have hexec := taskSave_saved ho hp hph hs hl hr
    rw [if_neg (by simp [hw]), hpo] at hexec
    exact ⟨_, hexec, tget_tset_same .., rfl, rfl, mem_sched.2 (.inl rfl)⟩
  · rw [taskSave_saved ho hp hph hs hl hr, if_neg (by simp [hw]), hpo, hv]
  · show execTaskSaveComplete owner s = _
    unfold execTaskSaveComplete
    rw [ho]
    dsimp only
    rw [hr]
    exact if_neg (by simp [hph])
  · exact heldResultRestore_none hst hre
  · intro h t p hre heng hheld ht hstatus hplace hready
    refine ⟨_, heldResultRestore_one hst hre heng hheld ht hstatus hplace hready, ?_, ?_, tget_tset_same ..⟩
    · exact congrArg ClusterSt.held (resultRestored_cluster s cl h)
    · exact congrArg ClusterSt.restoring (resultRestored_cluster s cl h)

end Sys2Proof.Machine

namespace Sys2Proof.Machine

/-! ### Cocoon instructions at issue (17 R275-R280) -/

theorem find?_range_drop {p : Nat → Bool} {n k j : Nat} (h : ((List.range n).drop k).find? p = some j) : k ≤ j ∧ p j = true := by
  refine ⟨?_, List.find?_some h⟩
  obtain ⟨i, hi, rfl⟩ := List.getElem_of_mem (List.mem_of_find?_eq_some h)
  rw [List.getElem_drop, List.getElem_range]
  omega

theorem hltEntry_setHlt_same (s : State) (cl k : Nat) (e : HltEntry) : hltEntry (setHlt s cl k e) cl k = e := by
  unfold hltEntry setHlt
  rw [clusterSt_setCluster_same, tget_tset_same]
  rfl

theorem hltEntry_setHlt_ne {s : State} {cl j k : Nat} (h : j ≠ k) (e : HltEntry) : hltEntry (setHlt s cl k e) cl j = hltEntry s cl j := by
  unfold hltEntry setHlt
  rw [clusterSt_setCluster_same, tget_tset_ne h]

theorem hltEntry_congr {s u : State} (h : u.clusters = s.clusters) (cl k : Nat) : hltEntry u cl k = hltEntry s cl k := by
  rw [hltEntry, hltEntry, clusterSt, clusterSt, h]

/-- A destination that the operation consumes, or that holds no handle. -/
theorem destOk_consumed {t : Thread} {d : Reg} {rs : List Reg} (h : d ∈ rs ∨ Free t d) : destOk t d rs = .ok () := by
  obtain h | h := h
  · exact if_neg fun hd => by simp [h] at hd
  · exact destOk_ok h

theorem launchCoc_asked {s0 s : State} {tid : Nat} {v : Thread} (hv : getT s tid = some v) (hid : s.nextId = s0.nextId) (hc : s.cycle = s0.cycle)
    (hm : s.mem = s0.mem) (op : Instr) (a b : GReg) (x y : Nat) (due : Option Nat) : TableAsked s0 (launchCoc s tid op a b x y due) tid op due := by
  unfold launchCoc
  rw [hid]
  refine ⟨⟨⟨tid, op, a, b, x, y, due⟩, ?_, rfl, rfl, rfl⟩, ?_, ?_, ?_⟩
  · rw [parkAs_cocs]
    exact tget_tset_same ..
  · rw [parkAs_agenda, ← hc]
    cases due <;> exact mem_sched.2 (.inl rfl)
  · apply waitOf_parkAs (t := v)
    exact hv
  · exact (parkAs_mem ..).trans hm

theorem launchCoc_clusters (s : State) (tid : Nat) (op : Instr) (a b : GReg) (x y : Nat) (due : Option Nat) :
    (launchCoc s tid op a b x y due).clusters = s.clusters := parkAs_clusters ..

section
variable {s : State} {i : Issue} {t v : Thread} {pop : Option InboxEntry} {d a b : Reg}

/-- A cocoon instruction of the issuing thread has gone to its cluster's table, the pop of its PORT operand committed. -/
def Asks (s : State) (i : Issue) (pop : Option InboxEntry) (j : Instr) (due : Option Nat) : Prop :=
  ∃ u, exec j s = .next (finish pop i.tid u) ∧ TableAsked s u i.tid j due

/-- A register holds a live handle. -/
def LiveHandle (s : State) (i : Issue) (t : Thread) (r : Reg) : Prop := (t.rd r).kind = .coc ∧ cocLive s (i.tid / 256) (t.rd r).bits = true

theorem calloc_asks (hv : getT s i.tid = some v) (h : reading s [d, a] [a] = some (i, t, pop)) (ha : IsData t a) (hd : Free t d)
    (hs : badShape (low t a).toNat = false) : Asks s i pop (.calloc d a) (some (s.cycle + 40)) := by
  refine ⟨_, ?_, launchCoc_asked hv rfl rfl rfl (.calloc d a) (t.rd a) GReg.zero 0 0 _⟩
  rw [exec_calloc, execCalloc]
  simp only [needKind_eq_kinds, lo64_eq_low]
  refine issueWith_ok h (noneBefore_one h ha.mem (by decide)) ?_
  rw [needKinds_ok ha.mem]
  simp only [ok_bind, destOk_ok hd, hs]
  rfl

theorem csplit_asks (hv : getT s i.tid = some v) {col : Bool} {x y : Nat} (h : reading s [d, nextReg d, a, b] [a, b] = some (i, t, pop))
    (ha : LiveHandle s i t a) (hb : IsData t b) (hd : d = a ∨ Free t d) (hd' : nextReg d = a ∨ Free t (nextReg d)) (hn : low t b ≠ 0)
    (hlt : (low t b).toNat < if col then (hltEntry s (i.tid / 256) (cocHlt (t.rd a).bits)).ccount else (hltEntry s (i.tid / 256) (cocHlt (t.rd a).bits)).rcount)
    (hx : freeHlt s (i.tid / 256) 0 = some x) (hy : freeHlt s (i.tid / 256) (x + 1) = some y) :
    ∃ u, exec (.csplit col d a b) s = .next (finish pop i.tid u) ∧ TableAsked s u i.tid (.csplit col d a b) none ∧
      (hltEntry u (i.tid / 256) x).state = .resv ∧ (hltEntry u (i.tid / 256) y).state = .resv := by
  obtain ⟨hkind, hlive⟩ := ha
  have hxy : x ≠ y := by
    have := (find?_range_drop hy).1
    omega
  have hbounds : ¬ ((low t b).toNat = 0 ∨ (if col then (hltEntry s (i.tid / 256) (cocHlt (t.rd a).bits)).ccount
      else (hltEntry s (i.tid / 256) (cocHlt (t.rd a).bits)).rcount) ≤ (low t b).toNat) := by
    rintro (h0 | hle)
    · exact hn (BitVec.eq_of_toNat_eq h0)
    · omega
  generalize hs1 : setHlt s (i.tid / 256) x { hltEntry s (i.tid / 256) x with state := .resv } = s1
  generalize hs2 : setHlt s1 (i.tid / 256) y { hltEntry s1 (i.tid / 256) y with state := .resv } = s2
  have hexec : exec (.csplit col d a b) s = .next (finish pop i.tid (launchCoc s2 i.tid (.csplit col d a b) (t.rd a) (t.rd b) x y none)) := by
    rw [exec_csplit, execCsplit]
    simp only [needKind_eq_kinds, lo64_eq_low]
    refine issueWith_ok h (noneBefore_two h (by simp [hkind]) hb.mem (by decide) (by decide)) ?_
    rw [needKinds_ok (by simp [hkind]), needKinds_ok hb.mem]
    simp only [ok_bind, destOk_consumed (hd.imp List.mem_singleton.2 id), destOk_consumed (hd'.imp List.mem_singleton.2 id), hlive, if_neg hbounds, hx, hy, hs1, hs2]
    rfl
  have hthreads : getT s2 i.tid = some v := by
    rw [← hs2, ← hs1]
    exact hv
  refine ⟨_, hexec, launchCoc_asked hthreads (by rw [← hs2, ← hs1]; rfl) (by rw [← hs2, ← hs1]; rfl) (by rw [← hs2, ← hs1]; rfl) .., ?_, ?_⟩
  · rw [hltEntry_congr (launchCoc_clusters ..), ← hs2, hltEntry_setHlt_ne hxy, ← hs1, hltEntry_setHlt_same]
  · rw [hltEntry_congr (launchCoc_clusters ..), ← hs2, hltEntry_setHlt_same]

theorem cjoin_asks (hv : getT s i.tid = some v) (h : reading s [d, a, b] [a, b] = some (i, t, pop)) (ha : LiveHandle s i t a) (hb : LiveHandle s i t b)
    (hd : d = a ∨ d = b ∨ Free t d) (hne : a ≠ b)
    (hs : (splitOf s (i.tid / 256) (cocHlt (t.rd a).bits) (cocHlt (t.rd b).bits)).isSome = true) : Asks s i pop (.cjoin d a b) none := by
  obtain ⟨hka, hla⟩ := ha
  obtain ⟨hkb, hlb⟩ := hb
  refine ⟨_, ?_, launchCoc_asked hv rfl rfl rfl (.cjoin d a b) (t.rd a) (t.rd b) 0 0 none⟩
  have hdest : destOk t d [a, b] = .ok () := by
    obtain rfl | rfl | hd := hd
    · exact destOk_consumed (.inl (by simp))
    · exact destOk_consumed (.inl (by simp))
    · exact destOk_ok hd
  have hpair : ¬ (a = b ∨ (splitOf s (i.tid / 256) (cocHlt (t.rd a).bits) (cocHlt (t.rd b).bits)).isNone = true) := by
    rintro (h | h)
    · exact hne h
    · rw [Option.isNone_iff_eq_none] at h
      simp [h] at hs
  rw [exec_cjoin, execCjoin]
  simp only [needKind_eq_kinds]
  refine issueWith_ok h (noneBefore_two h (by simp [hka]) (by simp [hkb]) (by decide) (by decide)) ?_
  rw [needKinds_ok (by simp [hka]), needKinds_ok (by simp [hkb])]
  simp only [ok_bind, hdest, hla, hlb, if_neg hpair]
  rfl

theorem cfree_asks (hv : getT s i.tid = some v) (h : reading s [a] [a] = some (i, t, pop)) (ha : LiveHandle s i t a)
    (hr : (hltEntry s (i.tid / 256) (cocHlt (t.rd a).bits)).root = true) : Asks s i pop (.cfree a) none := by
  obtain ⟨hka, hla⟩ := ha
  refine ⟨_, ?_, launchCoc_asked hv rfl rfl rfl (.cfree a) (t.rd a) GReg.zero 0 0 none⟩
  rw [exec_cfree, execCfree]
  simp only [needKind_eq_kinds]
  refine issueWith_ok h (noneBefore_one h (by simp [hka]) (by decide)) ?_
  rw [needKinds_ok (by simp [hka])]
  simp only [ok_bind, hla, hr]
  rfl

theorem cshape_asks (hv : getT s i.tid = some v) (h : reading s [d, a] [a] = some (i, t, pop)) (ha : (t.rd a).kind = .coc) (hd : Free t d) :
    Asks s i pop (.cshape d a) (some (s.cycle + 40)) := by
  refine ⟨_, ?_, launchCoc_asked hv rfl rfl rfl (.cshape d a) (t.rd a) GReg.zero 0 0 _⟩
  rw [exec_cshape, execCshape]
  simp only [needKind_eq_kinds]
  refine issueWith_ok h (noneBefore_one h (by simp [ha]) (by decide)) ?_
  rw [needKinds_ok (by simp [ha])]
  simp only [ok_bind, destOk_ok hd]
end

end Sys2Proof.Machine

namespace Sys2Proof.Machine

/-! ### What the table's operations leave (17 R270) -/

section
variable {s u : State} {tid : Nat} {t v : Thread}

theorem retirePast_clusters (hv : getT s tid = some v) (hp : v.popDue = none) : (retirePast s tid).clusters = s.clusters := by
  have hadv : advance s tid = setT s tid v.next := by rw [advance, hv]
  have hpop : popRetiring (setT s tid v.next) tid = setT s tid v.next := by
    unfold popRetiring
    rw [getT_setT_same]
    dsimp only
    rw [show v.next.popDue = none from hp]
  rw [retirePast, hadv, retire, hpop, getT_setT_same]
  dsimp only
  unfold countParked
  split <;> rfl

theorem getT_setReg_popDue (hv : getT s tid = some v) (r : Reg) (x : GReg) : ∃ w, getT (setReg s tid r x) tid = some w ∧ w.popDue = v.popDue := by
  have hwr : (v.wr r x).popDue = v.popDue := by
    unfold Thread.wr
    split <;> rfl
  unfold setReg
  rw [hv]
  dsimp only
  split
  · exact ⟨v, hv, rfl⟩
  · split
    · exact ⟨_, getT_setT_same .., hwr⟩
    · exact ⟨_, getT_setT_same .., hwr⟩

theorem hltEntry_setCluster (s : State) (cl k : Nat) (c : ClusterSt) : hltEntry (setCluster s cl c) cl k = (tget k c.hlt).getD HltEntry.reset := by
  rw [hltEntry, clusterSt_setCluster_same]

/-- What reads coc is a register of the thread, and not G0. -/
theorem Thread.inRange_of_coc {r : Reg} (h : (t.rd r).kind = .coc) : r ≠ 0 ∧ r.val < t.g.length := by
  have h0 : r ≠ 0 := by
    rintro rfl
    exact Kind.noConfusion h
  refine ⟨h0, ?_⟩
  by_contra hlen
  rw [Thread.rd, if_neg h0, nth_past _ _ _ (Nat.le_of_not_lt hlen)] at h
  exact Kind.noConfusion h

/-- What a consumed source leaves of its thread. -/
structure Consumed (v : Thread) (r : Reg) (ds : List Reg) (w : Thread) : Prop where
  others : ∀ q, q ≠ r → w.rd q = v.rd q
  moved : (v.rd r).kind = .coc → r ∉ ds → (w.rd r).kind = .moved
  kept : (v.rd r).kind = .moved → (w.rd r).kind = .moved

theorem consume_spec (hv : getT s tid = some v) (r : Reg) (ds : List Reg) : (consume s tid r ds).clusters = s.clusters ∧
    ∃ w, getT (consume s tid r ds) tid = some w ∧ Consumed v r ds w := by
  unfold consume
  rw [hv]
  dsimp only
  split
  · next h =>
    obtain ⟨hcoc, -⟩ := h
    obtain ⟨w, hw, hg, -⟩ := getT_setReg hv r (movedReg s)
    obtain ⟨h0, hlen⟩ := Thread.inRange_of_coc hcoc
    have hrd : w.rd r = movedReg s := (Thread.rd_congr hg r).trans (Thread.rd_wr_same h0 hlen _)
    refine ⟨setReg_clusters .., w, hw, fun q hq => (Thread.rd_congr hg q).trans (Thread.rd_wr_ne hq), fun _ _ => ?_, fun _ => ?_⟩
    · rw [hrd]
      rfl
    · rw [hrd]
      rfl
  · next h => exact ⟨rfl, v, hv, fun _ _ => rfl, fun hcoc hds => absurd ⟨hcoc, by simpa using hds⟩ h, id⟩

/-- A source of the thread has been consumed: MOVED, unless a destination takes it. -/
def Moved (v : Thread) (tid : Nat) (u : State) (r : Reg) (ds : List Reg) : Prop :=
  (v.rd r).kind = .coc → r ∉ ds → ∀ w, getT u tid = some w → (w.rd r).kind = .moved

theorem consume_moved (hv : getT s tid = some v) (r : Reg) (ds : List Reg) : Moved v tid (consume s tid r ds) r ds := by
  obtain ⟨-, w, hw, hc⟩ := consume_spec hv r ds
  intro hcoc hds w' hw'
  cases hw.symm.trans hw'
  exact hc.moved hcoc hds

/-- Of two sources consumed one after the other both are MOVED. -/
theorem consume_both_moved (hv : getT s tid = some v) (a b : Reg) (ds : List Reg) :
    Moved v tid (consume (consume s tid a ds) tid b ds) a ds ∧ Moved v tid (consume (consume s tid a ds) tid b ds) b ds := by
  obtain ⟨-, w, hw, hfirst⟩ := consume_spec hv a ds
  obtain ⟨-, x, hx, hsecond⟩ := consume_spec hw b ds
  constructor <;> intro hcoc hds y hy <;> cases hx.symm.trans hy
  · by_cases hab : a = b
    · subst hab
      exact hsecond.kept (hfirst.moved hcoc hds)
    · rw [hsecond.others a hab]
      exact hfirst.moved hcoc hds
  · by_cases hab : a = b
    · subst hab
      exact hsecond.kept (hfirst.moved hcoc hds)
    · rw [← hfirst.others b (Ne.symm hab)] at hcoc
      exact hsecond.moved hcoc hds
end

/-! ### Operations at the table (17 R275-R279) -/

section
variable {s : State} {o : CocOp} {t v : Thread} {d a b : Reg}

/-- Granules a CALLOC of a shape takes. -/
def shapeGranules (x : Nat) : Nat := ceilDiv (bits x 0 16 * ceilDiv (bits x 16 16 * codeWidth (bits x 32 4)) 1024) 16

/-- The entry of a tile that CALLOC makes. -/
def newTile (s : State) (o : CocOp) (t : Thread) (k g : Nat) : HltEntry :=
  { leafOf (hltEntry s (o.tid / 256) k) o.tid with
    root := true, rstart := 0, rcount := bits (lo64 o.a) 0 16, cstart := 0, ccount := bits (lo64 o.a) 16 16, tbase := g * 2048
    pitch := ceilDiv (bits (lo64 o.a) 16 16 * codeWidth (bits (lo64 o.a) 32 4)) 1024, fmt := bits (lo64 o.a) 32 4, owner := some t.owner }

/-- The table with the tile that CALLOC makes. -/
def withTile (s : State) (o : CocOp) (t : Thread) (k g : Nat) : State :=
  let s1 := setHlt s (o.tid / 256) k (newTile s o t k g)
  setCluster s1 (o.tid / 256) { clusterSt s1 (o.tid / 256) with
    granules := (clusterSt s1 (o.tid / 256)).granules ++ [(g, shapeGranules (lo64 o.a))] }

theorem serveCalloc_quota {w : Owner} (hw : getO s t.owner = some w) (h : 2 * w.units < ownerGranules s t.owner + shapeGranules (lo64 o.a)) (d : Reg) :
    serveCalloc s o t d = takeFault s o.tid .bounds (lo64 o.a) := by
  unfold serveCalloc
  rw [hw]
  exact if_pos h

theorem serveCalloc_noEntry {w : Owner} (hw : getO s t.owner = some w) (h : ownerGranules s t.owner + shapeGranules (lo64 o.a) ≤ 2 * w.units)
    (hk : freeHlt s (o.tid / 256) 0 = none) (d : Reg) : serveCalloc s o t d = retirePast (setReg s o.tid d (dataOf 2)) o.tid := by
  unfold shapeGranules at h
  unfold serveCalloc
  rw [hw]
  dsimp only
  rw [if_neg (Nat.not_lt.2 h), hk]

theorem serveCalloc_noGranules {w : Owner} {k : Nat} (hw : getO s t.owner = some w) (h : ownerGranules s t.owner + shapeGranules (lo64 o.a) ≤ 2 * w.units)
    (hk : freeHlt s (o.tid / 256) 0 = some k) (hg : findGranules s (o.tid / 256) (shapeGranules (lo64 o.a)) = none) (d : Reg) :
    serveCalloc s o t d = retirePast (setReg s o.tid d (dataOf 1)) o.tid := by
  unfold shapeGranules at h hg
  unfold serveCalloc
  rw [hw]
  dsimp only
  rw [if_neg (Nat.not_lt.2 h), hk]
  dsimp only
  rw [hg]

theorem serveCalloc_allocates {w : Owner} {k g : Nat} (hw : getO s t.owner = some w)
    (h : ownerGranules s t.owner + shapeGranules (lo64 o.a) ≤ 2 * w.units) (hk : freeHlt s (o.tid / 256) 0 = some k)
    (hg : findGranules s (o.tid / 256) (shapeGranules (lo64 o.a)) = some g) (d : Reg) :
    serveCalloc s o t d = retirePast (setReg (withTile s o t k g) o.tid d ⟨.coc, cocOf k (newTile s o t k g)⟩) o.tid := by
  unfold shapeGranules at h hg
  unfold serveCalloc
  rw [hw]
  dsimp only
  rw [if_neg (Nat.not_lt.2 h), hk]
  dsimp only
  rw [hg]
  rfl

theorem withTile_entry (s : State) (o : CocOp) (t : Thread) (k g : Nat) : hltEntry (withTile s o t k g) (o.tid / 256) k = newTile s o t k g := by
  rw [withTile, hltEntry_setCluster]
  exact hltEntry_setHlt_same ..

theorem withTile_granules (s : State) (o : CocOp) (t : Thread) (k g : Nat) :
    (g, shapeGranules (lo64 o.a)) ∈ (clusterSt (withTile s o t k g) (o.tid / 256)).granules := by
  rw [withTile, clusterSt_setCluster_same]
  exact List.mem_append_right _ (List.mem_singleton_self _)

/-- A tile is allocated: its thread holds the handle, its cluster's table the entry and the granules. -/
theorem withTile_served (hv : getT s o.tid = some v) (hp : v.popDue = none) (k g : Nat) (x : GReg) :
    (retirePast (setReg (withTile s o t k g) o.tid d x) o.tid).clusters = (withTile s o t k g).clusters := by
  obtain ⟨w, hw, hpop⟩ := getT_setReg_popDue (s := withTile s o t k g) hv d x
  exact (retirePast_clusters hw (hpop.trans hp)).trans (setReg_clusters ..)

/-- A half of the tile that CSPLIT splits. -/
def splitHalf (s : State) (o : CocOp) (col second : Bool) : HltEntry :=
  let k := cocHlt o.a.bits
  let e := hltEntry s (o.tid / 256) k
  let n := lo64 o.b
  let b := { leafOf (hltEntry s (o.tid / 256) (if second then o.y else o.x)) o.tid with
    root := false, parent := k, rstart := e.rstart, rcount := e.rcount, cstart := e.cstart, ccount := e.ccount, tbase := e.tbase
    pitch := e.pitch, fmt := e.fmt, owner := e.owner }
  match col, second with
  | false, false => { b with rcount := n }
  | false, true => { b with rstart := e.rstart + n, rcount := e.rcount - n }
  | true, false => { b with ccount := n }
  | true, true => { b with cstart := e.cstart + n, ccount := e.ccount - n }

/-- The table with the halves of a tile. -/
def splitTable (s : State) (o : CocOp) (col : Bool) : State :=
  let k := cocHlt o.a.bits
  setHlt (setHlt (setHlt s (o.tid / 256) o.x (splitHalf s o col false)) (o.tid / 256) o.y (splitHalf s o col true)) (o.tid / 256) k
    { hltEntry s (o.tid / 256) k with state := .split, child0 := o.x, child1 := o.y, axis := col, at_ := lo64 o.b, holder := none }

theorem serveCsplit_eq (col : Bool) : serveCsplit s o col d a =
    retirePast (setReg (setReg (consume (splitTable s o col) o.tid a [d, nextReg d]) o.tid d ⟨.coc, cocOf o.x (splitHalf s o col false)⟩) o.tid (nextReg d)
      ⟨.coc, cocOf o.y (splitHalf s o col true)⟩) o.tid := by
  cases col <;> rfl

theorem serveCsplit_spec (hv : getT s o.tid = some v) (col : Bool) :
    let cl := o.tid / 256
    let j := cocHlt o.a.bits
    let e := hltEntry s cl j
    let n := lo64 o.b
    o.x ≠ o.y → o.x ≠ j → o.y ≠ j → ∃ s2 x y,
      serveCsplit s o col d a = retirePast (setReg (setReg s2 o.tid d ⟨.coc, cocOf o.x x⟩) o.tid (nextReg d) ⟨.coc, cocOf o.y y⟩) o.tid ∧
      hltEntry s2 cl o.x = x ∧ hltEntry s2 cl o.y = y ∧
      (∀ q ∈ [x, y], q.state = .leaf ∧ q.root = false ∧ q.parent = j ∧ q.holder = some o.tid ∧ q.active = 0 ∧ q.tbase = e.tbase ∧
        q.pitch = e.pitch ∧ q.fmt = e.fmt ∧ q.owner = e.owner) ∧
      x.gen = (hltEntry s cl o.x).gen + 1 ∧ y.gen = (hltEntry s cl o.y).gen + 1 ∧
      (x.rstart, x.rcount, x.cstart, x.ccount) = (if col then (e.rstart, e.rcount, e.cstart, n) else (e.rstart, n, e.cstart, e.ccount)) ∧
      (y.rstart, y.rcount, y.cstart, y.ccount) =
        (if col then (e.rstart, e.rcount, e.cstart + n, e.ccount - n) else (e.rstart + n, e.rcount - n, e.cstart, e.ccount)) ∧
      (hltEntry s2 cl j).state = .split ∧ (hltEntry s2 cl j).child0 = o.x ∧ (hltEntry s2 cl j).child1 = o.y ∧ Moved v o.tid s2 a [d, nextReg d] := by
  dsimp only
  intro hxy hxj hyj
  have hv' : getT (splitTable s o col) o.tid = some v := hv
  obtain ⟨hclusters, -⟩ := consume_spec hv' a [d, nextReg d]
  have hparent : hltEntry (consume (splitTable s o col) o.tid a [d, nextReg d]) (o.tid / 256) (cocHlt o.a.bits) = { hltEntry s (o.tid / 256) (cocHlt o.a.bits) with
      state := .split, child0 := o.x, child1 := o.y, axis := col, at_ := lo64 o.b, holder := none } :=
    (hltEntry_congr hclusters ..).trans (hltEntry_setHlt_same ..)
  refine ⟨consume (splitTable s o col) o.tid a [d, nextReg d], splitHalf s o col false, splitHalf s o col true, serveCsplit_eq col, ?_, ?_, ?_, ?_, ?_, ?_, ?_, ?_, ?_, ?_,
    consume_moved hv' _ _⟩
  · rw [hltEntry_congr hclusters, splitTable, hltEntry_setHlt_ne hxj, hltEntry_setHlt_ne hxy, hltEntry_setHlt_same]
  · rw [hltEntry_congr hclusters, splitTable, hltEntry_setHlt_ne hyj, hltEntry_setHlt_same]
  · intro q hq
    simp only [List.mem_cons, List.not_mem_nil, or_false] at hq
    obtain rfl | rfl := hq
    · cases col <;> exact ⟨rfl, rfl, rfl, rfl, rfl, rfl, rfl, rfl, rfl⟩
    · cases col <;> exact ⟨rfl, rfl, rfl, rfl, rfl, rfl, rfl, rfl, rfl⟩
  · cases col <;> rfl
  · cases col <;> rfl
  · cases col <;> rfl
  · cases col <;> rfl
  · rw [hparent]
  · rw [hparent]
  · rw [hparent]

theorem serveCjoin_spec (hv : getT s o.tid = some v) :
    let cl := o.tid / 256
    let j := cocHlt o.a.bits
    let k := cocHlt o.b.bits
    ∀ p, splitOf s cl j k = some p → j ≠ k → p ≠ j → p ≠ k → ∃ s2,
      serveCjoin s o d a b = retirePast (dropAhead (setReg s2 o.tid d ⟨.coc, cocOf p (hltEntry s2 cl p)⟩) o.tid) o.tid ∧
      hltEntry s2 cl p = { hltEntry s cl p with state := .leaf, gen := (hltEntry s cl p).gen + 1, holder := some o.tid, active := 0 } ∧
      (hltEntry s2 cl j).state = .free ∧ (hltEntry s2 cl k).state = .free ∧ Moved v o.tid s2 a [d] ∧ Moved v o.tid s2 b [d] := by
  dsimp only
  intro p hp hjk hpj hpk
  generalize hs1 : setHlt (setHlt (setHlt s (o.tid / 256) (cocHlt o.a.bits) (freeEntry (hltEntry s (o.tid / 256) (cocHlt o.a.bits)))) (o.tid / 256) (cocHlt o.b.bits)
    (freeEntry (hltEntry s (o.tid / 256) (cocHlt o.b.bits)))) (o.tid / 256) p (leafOf (hltEntry s (o.tid / 256) p) o.tid) = s1
  have hv1 : getT s1 o.tid = some v := by
    rw [← hs1]
    exact hv
  obtain ⟨hfirst, w, hw, -⟩ := consume_spec hv1 a [d]
  obtain ⟨hsecond, -⟩ := consume_spec hw b [d]
  have hentry : ∀ n, hltEntry (consume (consume s1 o.tid a [d]) o.tid b [d]) (o.tid / 256) n = hltEntry s1 (o.tid / 256) n := fun n =>
    hltEntry_congr (hsecond.trans hfirst) ..
  have hwhole : hltEntry s1 (o.tid / 256) p = leafOf (hltEntry s (o.tid / 256) p) o.tid := by rw [← hs1, hltEntry_setHlt_same]
  obtain ⟨hma, hmb⟩ := consume_both_moved hv1 a b [d]
  refine ⟨consume (consume s1 o.tid a [d]) o.tid b [d], ?_, ?_, ?_, ?_, hma, hmb⟩
  · rw [hentry, hwhole, serveCjoin]
    dsimp only
    rw [hp]
    dsimp only
    rw [hs1]
  · rw [hentry, hwhole]
    rfl
  · rw [hentry, ← hs1, hltEntry_setHlt_ne (Ne.symm hpj), hltEntry_setHlt_ne hjk, hltEntry_setHlt_same]
    rfl
  · rw [hentry, ← hs1, hltEntry_setHlt_ne (Ne.symm hpk), hltEntry_setHlt_same]
    rfl

/-- The scrubbers of a cluster's cores are busy longer. -/
def scrubbersBusy (s : State) (cl n : Nat) : State :=
  ((List.range 16).map (fun k => cl * 16 + k)).foldl (fun u core => setCore u core { coreSt u core with
    scrubBusy := max (coreSt u core).scrubBusy u.cycle + 2 * n }) s

theorem scrubbersBusy_same (s : State) (cl n : Nat) : (scrubbersBusy s cl n).threads = s.threads ∧ (scrubbersBusy s cl n).clusters = s.clusters :=
  List.foldlRecOn (motive := fun w : State => w.threads = s.threads ∧ w.clusters = s.clusters) _ _ ⟨rfl, rfl⟩ fun _ hw _ _ => hw

theorem scrubGranules_eq (s : State) (cl first n : Nat) : ∃ done, scrubGranules s cl first n =
    sched (setCluster (scrubbersBusy s cl n) cl { clusterSt (scrubbersBusy s cl n) cl with
      granules := (clusterSt (scrubbersBusy s cl n) cl).granules.filter (fun p => p.1 != first)
      scrubbing := (clusterSt (scrubbersBusy s cl n) cl).scrubbing ++ [(first, n)] }) done (.granuleScrubDone cl (first + n * 2 ^ 20)) := ⟨_, rfl⟩

theorem scrubGranules_spec (s : State) (cl first n : Nat) : (scrubGranules s cl first n).threads = s.threads ∧
    (∀ k, hltEntry (scrubGranules s cl first n) cl k = hltEntry s cl k) ∧ (first, n) ∈ (clusterSt (scrubGranules s cl first n) cl).scrubbing := by
  obtain ⟨done, heq⟩ := scrubGranules_eq s cl first n
  obtain ⟨hthreads, hclusters⟩ := scrubbersBusy_same s cl n
  rw [heq]
  generalize scrubbersBusy s cl n = u at hthreads hclusters ⊢
  refine ⟨hthreads, fun k => ?_, ?_⟩
  · exact (hltEntry_setCluster u cl k _).trans (hltEntry_congr hclusters cl k)
  · have hcluster : clusterSt (sched (setCluster u cl { clusterSt u cl with
        granules := (clusterSt u cl).granules.filter (fun p => p.1 != first), scrubbing := (clusterSt u cl).scrubbing ++ [(first, n)] }) done
        (.granuleScrubDone cl (first + n * 2 ^ 20))) cl = { clusterSt u cl with
          granules := (clusterSt u cl).granules.filter (fun p => p.1 != first), scrubbing := (clusterSt u cl).scrubbing ++ [(first, n)] } :=
      clusterSt_setCluster_same ..
    rw [hcluster]
    exact List.mem_append_right _ (List.mem_singleton_self _)

theorem serveCfree_spec (hv : getT s o.tid = some v) :
    let cl := o.tid / 256
    let j := cocHlt o.a.bits
    let e := hltEntry s cl j
    ∃ s2, serveCfree s o a = retirePast s2 o.tid ∧ (hltEntry s2 cl j).state = .free ∧ (hltEntry s2 cl j).gen = e.gen ∧
      (e.tbase / 2048, tileGranules e) ∈ (clusterSt s2 cl).scrubbing ∧ Moved v o.tid s2 a [] := by
  dsimp only
  generalize he : hltEntry s (o.tid / 256) (cocHlt o.a.bits) = e
  obtain ⟨hthreads, hentry, hscrub⟩ := scrubGranules_spec (setHlt s (o.tid / 256) (cocHlt o.a.bits) (freeEntry e)) (o.tid / 256) (e.tbase / 2048) (tileGranules e)
  have hv' := (getT_congr hthreads o.tid).trans hv
  obtain ⟨hclusters, -⟩ := consume_spec hv' a []
  have hfree : hltEntry (consume (scrubGranules (setHlt s (o.tid / 256) (cocHlt o.a.bits) (freeEntry e)) (o.tid / 256) (e.tbase / 2048) (tileGranules e)) o.tid a [])
      (o.tid / 256) (cocHlt o.a.bits) = freeEntry e := by
    rw [hltEntry_congr hclusters, hentry, hltEntry_setHlt_same]
  refine ⟨_, ?_, congrArg HltEntry.state hfree, (congrArg HltEntry.gen hfree :), ?_, consume_moved hv' _ _⟩
  · rw [serveCfree, he]
  · rw [clusterSt, hclusters]
    exact hscrub
end

end Sys2Proof.Machine

namespace Sys2Proof.Machine

/-! ### The table takes up and serves what waits (17 R270, R280) -/

section
variable {s : State} {o : CocOp} {v : Thread} {cl id : Nat} {d a b : Reg}

/-- What leaves the windows of a cluster leaves nothing else. -/
theorem foldl_dropTile (l : List Nat) (s : State) (cl : Nat) :
    (l.foldl (fun u k => dropTile u cl (hltEntry u cl k)) s).threads = s.threads ∧ (l.foldl (fun u k => dropTile u cl (hltEntry u cl k)) s).mem = s.mem ∧
      (l.foldl (fun u k => dropTile u cl (hltEntry u cl k)) s).owners = s.owners :=
  List.foldlRecOn (motive := fun u : State => u.threads = s.threads ∧ u.mem = s.mem ∧ u.owners = s.owners) _ _ ⟨rfl, rfl, rfl⟩ fun _ hu _ _ => hu

/-- An operation is taken up: its tile leaves the windows, and the table replies 40 cycles on. -/
theorem cocStart_spec (s : State) (id : Nat) (o : CocOp) : tget id (cocStart s id o).cocs = some { o with due := some (s.cycle + 40) } ∧
    (s.cycle + 40, Instr.cocoonTableServe (o.tid / 256)) ∈ (cocStart s id o).agenda ∧ (cocStart s id o).threads = s.threads ∧
    (cocStart s id o).mem = s.mem ∧ (cocStart s id o).owners = s.owners := by
  obtain ⟨hthreads, hmem, howners⟩ := foldl_dropTile (waitsActive o) s (o.tid / 256)
  have hdropped : ∀ u : State, u = (if ordersAccesses o then (waitsActive o).foldl (fun u k => dropTile u (o.tid / 256) (hltEntry u (o.tid / 256) k)) s else s) →
      u.threads = s.threads ∧ u.mem = s.mem ∧ u.owners = s.owners := by
    rintro u rfl
    split
    · exact ⟨hthreads, hmem, howners⟩
    · exact ⟨rfl, rfl, rfl⟩
  obtain ⟨ht, hm, ho⟩ := hdropped _ rfl
  exact ⟨tget_tset_same .., mem_sched.2 (.inl rfl), ht, hm, ho⟩

/-- Tasks that end look at their tiles again (17 R283). -/
def endsLookedAt (s : State) (cl : Nat) : State :=
  (s.places.filter (fun p => p.2.core / 16 == cl && (match getO s p.2.owner with
    | some o => o.phase == .ending
    | none => false))).foldl (fun u p => sched u u.cycle (.taskEnd p.2.owner p.2.core)) s

theorem endsLookedAt_none (h : ∀ k x, getO s k = some x → x.phase ≠ .ending) (cl : Nat) : endsLookedAt s cl = s := by
  have hnone : s.places.filter (fun p => p.2.core / 16 == cl && (match getO s p.2.owner with
      | some o => o.phase == .ending
      | none => false)) = [] := by
    refine List.filter_eq_nil_iff.2 fun p _ => ?_
    cases ho : getO s p.2.owner with
    | none => simp
    | some o => simp [h _ o ho]
  rw [endsLookedAt, hnone]
  rfl

theorem foldl_filter_singleton {α : Type} (p : α → Bool) (f : State → α → State) (x : α) (s : State) :
    ([x].filter p).foldl f s = if p x = true then f s x else s := by
  rw [List.filter_singleton]
  cases p x <;> rfl

theorem sortBy_filter_singleton {α : Type} (le : α → α → Bool) (p : α → Bool) (x : α) : sortBy le ([x].filter p) = [x].filter p := by
  rw [List.filter_singleton]
  cases p x <;> rfl

/-- With one operation at the table. -/
theorem tableServe_one (hc : s.cocs = [(id, o)]) (hcl : o.tid / 256 = cl) :
    let s1 := if o.due.isNone = true ∧ cocReady s o = true then cocStart s id o else s
    exec (.cocoonTableServe cl) s = .next (endsLookedAt (if cocDue s o then cocServe s1 id o else s1) cl) := by
  have hhere : s.cocs.filter (fun p => p.2.tid / 256 == cl) = [(id, o)] := by simp [hc, hcl]
  show execCocoonTableServe cl s = _
  unfold execCocoonTableServe
  dsimp only
  rw [hhere, sortBy_filter_singleton, foldl_filter_singleton, foldl_filter_singleton, ite_and]
  rfl

theorem cocDue_iff : cocDue s o = true ↔ (∃ c, o.due = some c ∧ c ≤ s.cycle) ∧ (ordersAccesses o = true → quiet s o.tid = true) := by
  unfold cocDue
  cases o.due <;> cases ordersAccesses o <;> simp

/-- The table serves what is due, and with no task ending that is all. -/
theorem tableServe_due {u : State} (hc : s.cocs = [(id, o)]) (hcl : o.tid / 256 = cl) (hends : ∀ k x, getO s k = some x → x.phase ≠ .ending) {c : Nat}
    (hd : o.due = some c) (hle : c ≤ s.cycle) (hq : ordersAccesses o = true → quiet s o.tid = true) (hu : cocServe s id o = u)
    (ho : u.owners = s.owners) : exec (.cocoonTableServe cl) s = .next u := by
  have hdue : cocDue s o = true := cocDue_iff.2 ⟨⟨c, hd, hle⟩, hq⟩
  refine (tableServe_one hc hcl).trans ?_
  rw [if_pos hdue, if_neg (by simp [hd]), hu, endsLookedAt_none fun k x hx => hends k x ?_]
  rwa [getO, ho] at hx

/-- What an operation does at the table by its kind. -/
theorem cocServe_eq (hc : s.cocs = [(id, o)]) (hv : getT s o.tid = some v) (hw : waitOf s o.tid = some (.cocoon id)) : cocServe s id o =
    (match o.op with
     | .calloc d _ => serveCalloc { s with cocs := [] } o v d
     | .csplit col d a _ => serveCsplit { s with cocs := [] } o col d a
     | .cjoin d a b => serveCjoin { s with cocs := [] } o d a b
     | .cfree a => serveCfree { s with cocs := [] } o a
     | .cshape d _ => serveCshape { s with cocs := [] } o d
     | _ => { s with cocs := [] }) := by
  have hgone : ({ s with cocs := tdel id s.cocs } : State) = { s with cocs := [] } := by
    rw [hc, tdel, if_pos rfl]
    rfl
  have hv' : getT { s with cocs := [] } o.tid = some v := hv
  have hw' : waitOf { s with cocs := [] } o.tid = some (.cocoon id) := hw
  unfold cocServe
  dsimp only
  rw [hgone, hv']
  dsimp only
  exact if_neg (by simp [hw'])

/-! Serving changes no owner. -/

theorem served_owners (s : State) (tid : Nat) : (retirePast s tid).owners = s.owners := (retirePast_barrierFrame s tid).owners

theorem consume_owners (s : State) (tid : Nat) (r : Reg) (ds : List Reg) : (consume s tid r ds).owners = s.owners := by
  unfold consume
  split
  · rfl
  · split
    · exact setReg_owners ..
    · rfl

theorem serveCalloc_owners (s : State) (o : CocOp) (t : Thread) (d : Reg) : (serveCalloc s o t d).owners = s.owners := by
  unfold serveCalloc
  extract_lets cl v r c f p n quota
  split
  · exact (takeFault_barrierFrame ..).owners
  · split
    · rw [served_owners, setReg_owners]
    · split
      · rw [served_owners, setReg_owners]
      · rw [served_owners, setReg_owners]
        rfl

theorem serveCsplit_owners (s : State) (o : CocOp) (col : Bool) (d a : Reg) : (serveCsplit s o col d a).owners = s.owners := by
  rw [serveCsplit_eq, served_owners, setReg_owners, setReg_owners, consume_owners]
  rfl

theorem serveCjoin_owners (s : State) (o : CocOp) (d a b : Reg) : (serveCjoin s o d a b).owners = s.owners := by
  unfold serveCjoin
  dsimp only
  split
  · exact (takeFault_barrierFrame ..).owners
  · rw [served_owners, (dropAhead_barrierFrame ..).owners, setReg_owners, consume_owners, consume_owners]
    rfl

theorem scrubbersBusy_owners (s : State) (cl n : Nat) : (scrubbersBusy s cl n).owners = s.owners :=
  List.foldlRecOn (motive := fun w : State => w.owners = s.owners) _ _ rfl fun _ hw _ _ => hw

theorem scrubGranules_owners (s : State) (cl first n : Nat) : (scrubGranules s cl first n).owners = s.owners := by
  obtain ⟨done, heq⟩ := scrubGranules_eq s cl first n
  rw [heq, sched_owners, setCluster_owners, scrubbersBusy_owners]

theorem serveCfree_owners (s : State) (o : CocOp) (a : Reg) : (serveCfree s o a).owners = s.owners := by
  unfold serveCfree
  dsimp only
  rw [served_owners, consume_owners, scrubGranules_owners]
  rfl

theorem serveCshape_owners (s : State) (o : CocOp) (d : Reg) : (serveCshape s o d).owners = s.owners := by
  unfold serveCshape
  dsimp only
  rw [served_owners, setReg_owners]

theorem serveCshape_eq (s : State) (o : CocOp) (d : Reg) : let h := o.a.bits
    serveCshape s o d = retirePast (setReg s o.tid d (dataOf (cocRstart h + cocRcount h * 2 ^ 16 + cocCstart h * 2 ^ 32 + cocCcount h * 2 ^ 48 +
      cocFmt h * 2 ^ 64 + (if cocR h then 2 ^ 68 else 0) + (if cocW h then 2 ^ 69 else 0) +
      (if cocLive s (o.tid / 256) h = true ∧ (hltEntry s (o.tid / 256) (cocHlt h)).root = true then 2 ^ 70 else 0) + cocPitch h * 2 ^ 72 + cocHlt h * 2 ^ 96))) o.tid := by
  unfold serveCshape
  simp only [Bool.and_eq_true]
end

/-! ### Granules (17 R267) -/

section
variable {s : State} {cl first n : Nat}

/-- A run of granules has been zeroed in each core of a list. -/
structure RunCleared (s : State) (cl first n : Nat) (ks : List Nat) (u : State) : Prop where
  threads : u.threads = s.threads
  scrubbing : (clusterSt u cl).scrubbing = (clusterSt s cl).scrubbing
  listed : ∀ c ∈ u.mem, c ∈ s.mem
  cleared : ∀ k ∈ ks, ∀ off < n * 128, ∀ c ∈ u.mem, c.1 ≠ onchipBase + lsAddr (cl * 16 + k) (first * 128) + off

/-- A cluster whose windows hold no line of a range. -/
def windowsWithout (lo hi : Nat) (c : ClusterSt) : ClusterSt :=
  { c with engines := c.engines.map (fun e => { e with window := e.window.filter (fun l => decide (l.1 + 128 ≤ lo) || decide (hi ≤ l.1)) }) }

theorem dropLines_clusters (s : State) (lo hi : Nat) : (dropLines s lo hi).clusters = s.clusters.map (fun c => (c.1, windowsWithout lo hi c.2)) := rfl

theorem dropLines_scrubbing (s : State) (lo hi cl : Nat) : (clusterSt (dropLines s lo hi) cl).scrubbing = (clusterSt s cl).scrubbing := by
  rw [clusterSt, clusterSt, dropLines_clusters, tget_map (fun c => windowsWithout lo hi c.2)]
  cases tget cl s.clusters <;> rfl

/-- A core zeroes its part of a run. -/
def zeroRun (cl first n : Nat) (u : State) (k : Nat) : State :=
  let lo := onchipBase + lsAddr (cl * 16 + k) (first * 128)
  dropLines (clearRange u lo (lo + n * 128)) lo (lo + n * 128)

theorem zeroRun_cleared (s : State) (k : Nat) : RunCleared s cl first n [k] (zeroRun cl first n s k) where
  threads := rfl
  scrubbing := dropLines_scrubbing ..
  listed _ hc := mem_of_mem_clearRange hc
  cleared j hj off hoff c hc := by
    rw [List.mem_singleton.1 hj]
    exact clearRange_clears (s := s) (hi := onchipBase + lsAddr (cl * 16 + k) (first * 128) + n * 128) (Nat.le_add_right ..) (Nat.add_lt_add_left hoff _) c hc

theorem foldl_zeroRun (ks : List Nat) (s : State) : RunCleared s cl first n ks (ks.foldl (zeroRun cl first n) s) := by
  induction ks generalizing s with
  | nil => exact ⟨rfl, rfl, fun _ h => h, by simp⟩
  | cons k rest ih =>
    have hone := zeroRun_cleared (cl := cl) (first := first) (n := n) s k
    have hrest := ih (zeroRun cl first n s k)
    refine ⟨hrest.threads.trans hone.threads, hrest.scrubbing.trans hone.scrubbing, fun c hc => hone.listed c (hrest.listed c hc), fun j hj off hoff c hc => ?_⟩
    obtain rfl | hj := List.mem_cons.1 hj
    · exact hone.cleared j (List.mem_singleton_self j) off hoff c (hrest.listed c hc)
    · exact hrest.cleared j hj off hoff c hc

theorem granuleScrubDone_eq (hf : first < 2 ^ 20) (h : (first, n) ∈ (clusterSt s cl).scrubbing) : exec (.granuleScrubDone cl (first + n * 2 ^ 20)) s =
    .next ((List.range 16).foldl (zeroRun cl first n) (setCluster s cl { clusterSt s cl with scrubbing := (clusterSt s cl).scrubbing.erase (first, n) })) := by
  have hmod : (first + n * 2 ^ 20) % 2 ^ 20 = first := by omega
  have hdiv : (first + n * 2 ^ 20) / 2 ^ 20 = n := by omega
  rw [exec_granuleScrubDone, execGranuleScrubDone]
  dsimp only
  rw [hmod, hdiv, if_pos (List.contains_iff_mem.2 h)]
  rfl

theorem granuleScrubDone_spec (hf : first < 2 ^ 20) (h : (first, n) ∈ (clusterSt s cl).scrubbing) :
    ∃ u, exec (.granuleScrubDone cl (first + n * 2 ^ 20)) s = .next u ∧ (clusterSt u cl).scrubbing = (clusterSt s cl).scrubbing.erase (first, n) ∧
      u.threads = s.threads ∧ ∀ k < 16, ∀ o < n * 128, memGet (onchipBase + lsAddr (cl * 16 + k) (first * 128) + o) u.mem = 0 := by
  have hrun := foldl_zeroRun (cl := cl) (first := first) (n := n) (List.range 16)
    (setCluster s cl { clusterSt s cl with scrubbing := (clusterSt s cl).scrubbing.erase (first, n) })
  refine ⟨_, granuleScrubDone_eq hf h, ?_, hrun.threads, fun k hk off hoff => ?_⟩
  · rw [hrun.scrubbing, clusterSt_setCluster_same]
  · exact memGet_unlisted (hrun.cleared k (List.mem_range.2 hk) off hoff)
end

/-- Settles O31: the table's operations through its entries, and a run of granules through what zeroing it leaves listed. -/
theorem cocoons : Obligations.Cocoons := by
  unfold Obligations.Cocoons
  refine ⟨fun s i t v pop hv => ⟨fun d a h ha hd hs => calloc_asks hv h ha hd hs,
      fun col d a b x y h ha hb hd hd' hn hlt hx hy => csplit_asks hv h ha hb hd hd' hn hlt hx hy,
      fun d a b h ha hb hd hne hs => cjoin_asks hv h ha hb hd hne hs, fun a h ha hr => cfree_asks hv h ha hr, fun d a h ha hd => cshape_asks hv h ha hd⟩,
    fun cl id s o v hc hcl hv hw hends => ?_, fun s o t v d w k g hv hw hp => ?_,
    fun s o v d a b col hv => ⟨serveCsplit_spec hv col, serveCjoin_spec hv, serveCfree_spec hv, serveCshape_eq s o d⟩, fun s id o => ?_,
    fun cl first n s hf h => granuleScrubDone_spec hf h, fun c s hr hcs hle => ?_, fun c s h => ?_⟩
  · have hserve := cocServe_eq hc hv hw
    refine ⟨fun hd hr => ?_, fun hd hr => ?_, fun c hd hle ho hq => ?_, fun c hd hle hq => ⟨fun d a hop => ?_, fun col d a b hop => ?_, fun d a b hop => ?_,
      fun a hop => ?_, fun d a hop => ?_⟩⟩
    · refine (tableServe_one hc hcl).trans ?_
      obtain ⟨-, -, -, -, howners⟩ := cocStart_spec s id o
      rw [if_neg (by simp [cocDue_iff, hd]), if_pos ⟨by rw [hd]; rfl, hr⟩, endsLookedAt_none fun k x hx => hends k x ?_]
      rwa [getO, howners] at hx
    · refine (tableServe_one hc hcl).trans ?_
      rw [if_neg (by simp [cocDue_iff, hd]), if_neg (by simp [hr]), endsLookedAt_none hends]
    · refine (tableServe_one hc hcl).trans ?_
      rw [if_neg (by simp [cocDue_iff, ho, hq]), if_neg (by simp [hd]), endsLookedAt_none hends]
    · rw [hop] at hserve
      exact tableServe_due hc hcl hends hd hle hq hserve (serveCalloc_owners ..)
    · rw [hop] at hserve
      exact tableServe_due hc hcl hends hd hle hq hserve (serveCsplit_owners ..)
    · rw [hop] at hserve
      exact tableServe_due hc hcl hends hd hle hq hserve (serveCjoin_owners ..)
    · rw [hop] at hserve
      exact tableServe_due hc hcl hends hd hle hq hserve (serveCfree_owners ..)
    · rw [hop] at hserve
      exact tableServe_due hc hcl hends hd hle hq hserve (serveCshape_owners ..)
  · refine ⟨fun hq => serveCalloc_quota hw hq d, fun hq hk => serveCalloc_noEntry hw hq hk d, fun hq hk hg => serveCalloc_noGranules hw hq hk hg d, fun hq hk hg => ?_⟩
    have hserved := serveCalloc_allocates hw hq hk hg d
    have hclusters := (congrArg State.clusters hserved).trans (withTile_served hv hp k g _)
    refine ⟨newTile s o t k g, withTile s o t k g, hserved, rfl, rfl, rfl, rfl, rfl, rfl, rfl, rfl, rfl, ?_, ?_⟩
    · rw [hltEntry_congr hclusters, withTile_entry]
    · rw [clusterSt, hclusters]
      exact withTile_granules ..
  · obtain ⟨hcocs, hagenda, hthreads, hmem, -⟩ := cocStart_spec s id o
    exact ⟨hcocs, hagenda, hthreads, hmem⟩
  · have hexec : exec (.cocoonRegionSet c) s = .next (extendMeas { s with cocoonUnits := c } 2 (Config.sha384 (toBytes 8 c))) :=
      if_pos ⟨hr, by rw [hcs]; rfl, hle⟩
    exact ⟨_, hexec, rfl, rfl⟩
  · refine if_neg ?_
    rintro ⟨hr, hcs, hle⟩
    obtain h | h | h := h
    · simp [hr] at h
    · exact h (List.isEmpty_iff.1 hcs)
    · omega

end Sys2Proof.Machine
